-- ==== Sys2Proof/Word.lean ====
section
/-! DEFINITION. The word types of the interface, and the plainest operations on them. -/

namespace Sys2Proof

/-- A byte. -/
abbrev Byte := BitVec 8

/-- A 64-bit sequence handle (R36). -/
abbrev Handle := BitVec 64

/-- A 16-bit node identifier (R336). -/
abbrev NodeId := BitVec 16

/-- A 24-bit span index (R43). -/
abbrev SpanIx := BitVec 24

/-- The number of a virtual node (R378, R381): 0 to 3, and 0 alone with SLICE_MODE OFF. -/
abbrev VId := BitVec 2

/-- A 24-bit FRAME_ID (R50), held as a number. -/
abbrev FrameId := Nat

/-- A 16-bit status code (R448). -/
abbrev Status := BitVec 16

end Sys2Proof
end

