-- ==== Sys2Proof/Syntax.lean ====
section
/-! DEFINITION. The commands and events of the node: one constructor of `Instr` for each row of the table of operations and
events, with the operands the row's rule gives it.

An operand is either what a sender writes (a header, a parameter block, a message), what the board or a physical event
supplies (a temperature, an error pattern), or the name of the request, frame or entry that an internal event concerns.
Parameter blocks are structures with the field names of the manual; raw messages whose layout depends on their own content
(APPEND, QUERY, ATTN.MERGE) are bytes. -/

namespace Sys2Proof

/-! ## Senders and headers -/

/-- Where a command came from: a submission ring of the host, a queue pair of the fabric (with the reply address and key of
its message header, R342), or the node's own control plane. -/
inductive Origin where
  | host (ring : BitVec 9)
  | fabric (qpn : BitVec 12) (sender : NodeId) (addr : BitVec 64) (key : BitVec 32)
deriving DecidableEq, Repr

/-- The command header of R440 and R441. `rsv` lists the packet byte offsets, ascending, of the reserved fields of the
packet (header from 0, parameters from 64) that are not zero, which is all that R10 and R446 need of them. -/
structure CmdHeader where
  opcode : BitVec 16
  tag : BitVec 32
  signalAlways : Bool
  irqNow : Bool
  paramRef : Bool
  paramLen : BitVec 21
  mapEpoch : BitVec 16
  vnode : VId
  waitValid : Bool
  waitObj : BitVec 14
  signalValid : Bool
  signalObj : BitVec 14
  waitTimeout : BitVec 32
  waitValue : BitVec 64
  signalValue : BitVec 64
  paramAddr : BitVec 64
  rsv : List Nat
deriving DecidableEq, Repr

/-- A command as it reaches the node: its origin and its header, and how many transfers of the first write that its execution needs meet an
interface-code error (R145). -/
structure Cmd where
  origin : Origin
  hdr : CmdHeader
  links : Nat
deriving DecidableEq, Repr

/-- The header of a complete fabric message (R341) with the queue pair and sender that carried it. -/
structure Msg where
  vnode : VId
  qpn : BitVec 12
  sender : NodeId
  msn : BitVec 24
  mapEpoch : BitVec 16
  addr : BitVec 64
  key : BitVec 32
  aux : BitVec 32
deriving DecidableEq, Repr

/-- The header of a PEER message (R391): `viaTwin` says that it came over the twin link. -/
structure PeerHdr where
  vnode : VId
  sender : NodeId
  viaTwin : Bool
  pairEpoch : BitVec 32
  fenceEpoch : BitVec 64
  handle : Handle
  span : SpanIx
  tag : BitVec 32
  /-- A reserved field of the header or of the body is not zero. -/
  rsv : Bool
  /-- Transfers of the first write that the message brings which meet an interface-code error (R145). -/
  links : Nat
deriving DecidableEq, Repr

/-! ## Physical events that a step meets -/

/-- A stored codeword that now differs from what was written: the codeword's number in the node's physical space (byte
address divided by 32) and the error of each of its 36 stored symbols that changed. -/
structure CwErr where
  cw : Nat
  pattern : List (Nat × Byte)
deriving DecidableEq, Repr

/-- A directory address whose ternary cell changed: its key and mask now read as given; `stuck` says that a rewrite does
not hold. -/
structure DirUpset where
  bank : Nat
  addr : Nat
  key : BitVec 96
  mask : BitVec 96
  stuck : Bool
deriving DecidableEq, Repr

/-- A runner register word that reads in error (R166): stack, pseudo-channel and context, and whether two of its bits are
wrong. -/
structure RegUpset where
  stack : Nat
  pc : Nat
  ctx : Nat
  double : Bool
deriving DecidableEq, Repr

/-- The physical upsets that arose before a step and that the step may meet (R78, R79, R145, R165, R166, R292, R294):
`linkFails` counts the successive transfers of the first codeword that fail their interface code, and `linkFixes` names the stack
of each codeword whose transfer to the node die had a symbol corrected. -/
structure Upsets where
  dir : List DirUpset
  shadowUe : List (Nat × Nat)
  hbm : List CwErr
  linkFails : Nat
  linkFixes : List Nat
  regs : List RegUpset
deriving DecidableEq, Repr

/-- No upset. -/
def Upsets.none : Upsets := ⟨[], [], [], 0, [], []⟩

/-- The link errors that a write is still to meet (R145): the other upsets of its command have been met. -/
def Upsets.links (n : Nat) : Upsets := { Upsets.none with linkFails := n }

/-- A word of an on-die SRAM that the scrub finds in error (R298, R612): kind and instance as R612 codes them, and what the
word holds: the request that uses it (hopper, millpond), the history entry, the queue pair, the ring, the object, or the queue pair and MSN
of a message in the reassembly store (queue pair in the bits above the lowest 24). -/
structure SramErr where
  kind : BitVec 8
  unit : BitVec 8
  word : BitVec 32
  double : Bool
  holds : Nat
deriving DecidableEq, Repr

/-! ## Configuration -/

/-- A code-table image (R325). -/
structure TableImage where
  buildId : BitVec 32
  maxLen : BitVec 4
  expBits : BitVec 4
  format : BitVec 4
  lengthsCrc : BitVec 32
  lengths : List Byte
deriving DecidableEq, Repr

/-- A configuration item (R575). -/
structure Item where
  knobId : BitVec 16
  zero : BitVec 16
  value : BitVec 32
deriving DecidableEq, Repr

/-- The parameters of CFG.IMAGE (R574). -/
structure ConfigImage where
  imageVer : BitVec 8
  profile : BitVec 4
  itemCount : BitVec 8
  tableCount : BitVec 4
  items : List Item
  tables : List TableImage
deriving DecidableEq, Repr

/-- The parameters of CFG.PROFILE (R579). -/
structure ProfileBlock where
  profile : BitVec 4
  itemCount : BitVec 8
  items : List Item
deriving DecidableEq, Repr

/-! ## Spans -/

/-- The parameters of SPAN.OPEN (R450). -/
structure SpanOpenBlk where
  handle : Handle
  layersM1 : BitVec 16
  headsM1 : BitVec 8
  headDim : BitVec 3
  format : BitVec 4
  rotation : BitVec 3
  valueRotated : Bool
  mirrorMode : BitVec 2
  codeSealed : Bool
  spanLog2 : BitVec 5
deriving DecidableEq, Repr

/-- What SPAN.OPEN fixes for the life of a sequence (R40), with the mirror mode resolved (R394). -/
structure Geometry where
  spanLog2 : Nat
  layers : Nat
  heads : Nat
  headDim : BitVec 3
  format : BitVec 4
  rotation : BitVec 3
  valueRotated : Bool
  mirrorMode : BitVec 2
  codeSealed : Bool
deriving DecidableEq, Repr

/-- The target block (R451). -/
structure Target where
  handle : Handle
  spanFirst : SpanIx
  layer : BitVec 16
  head : BitVec 8
  spanCount : BitVec 16
  scope : BitVec 2
  tokenLimit : BitVec 21
  pageFirst : BitVec 16
  pageCount : BitVec 16
deriving DecidableEq, Repr

/-- The parameters of SPAN.ALIAS (R453). -/
structure AliasBlk where
  source : Handle
  aliasHandle : Handle
  span : SpanIx
  priority : BitVec 8
  memberMask : BitVec 20
deriving DecidableEq, Repr

/-- A page of a span record: the map frame of the record, the layer, the head and the page index. -/
structure PageRef where
  record : FrameId
  layer : Nat
  head : Nat
  page : Nat
deriving DecidableEq, Repr

/-! ## Runners -/

/-- A runner command (R148) less its opcode, which the constructor of `Instr` names; `rsv` holds bits [83:64]. `regs` lists the register
errors that it meets (R166), which are no part of its word. -/
structure RnCmd where
  pc : BitVec 5
  sid : BitVec 2
  bg : BitVec 2
  ba : BitVec 2
  row : BitVec 15
  colFirst : BitVec 4
  colLast : BitVec 4
  pageRow : BitVec 6
  rsv : BitVec 20
  ctx : BitVec 1
  wide : Bool
  qrows : BitVec 4
  format : BitVec 4
  headDim : BitVec 3
  slotLimit : BitVec 9
  seqTag : BitVec 8
  scoreFmt : BitVec 2
  arg : BitVec 32
  regs : List RegUpset
deriving DecidableEq, Repr

/-! ## Fabric -/

/-- The base transport header of a packet (R339) less its type; `malformed` says that the header breaks R339, or that the
length disagrees with PAYLOAD_LEN (R340). -/
structure Bth where
  vnode : VId
  lastPkt : Bool
  ackReq : Bool
  entropy : BitVec 6
  dstNode : NodeId
  srcNode : NodeId
  dstQpn : BitVec 12
  srcQpn : BitVec 12
  psn : BitVec 32
  msn : BitVec 24
  pktIndex : BitVec 8
  malformed : Bool
deriving DecidableEq, Repr

/-- The message header carried by packet 0 (R341); `rsv` says that a reserved field is not zero. -/
structure MsgHead where
  op : BitVec 8
  msgLen : BitVec 21
  mapEpoch : BitVec 16
  addr : BitVec 64
  key : BitVec 32
  aux : BitVec 32
  rsv : Bool
deriving DecidableEq, Repr

/-- A DATA packet: its header, its congestion mark, the message header when PKT_INDEX is 0, and its payload. -/
structure DataPkt where
  bth : Bth
  ce : Bool
  head : Option MsgHead
  payload : List Byte
deriving DecidableEq, Repr

/-- An ACK packet's payload (R349); `rsv` says that a reserved field of it is not zero, as in the next payloads. -/
structure AckPkt where
  bth : Bth
  cumPsn : BitVec 32
  syndrome : BitVec 4
  ece : Bool
  rnrWaitUs : BitVec 16
  blocks : List (BitVec 32 × BitVec 16)
  rsv : Bool
deriving DecidableEq, Repr

/-- What an Ethernet frame that reaches a port holds (R334, R364, R371). -/
inductive FrameKind where
  /-- MACsec carrying IPv6 and UDP: destination interface identifier, whether the destination lies in FABRIC_PREFIX, the
  UDP ports, and the SecTAG's association number, sender and low half of the packet number. -/
  | macsec (inPrefix : Bool) (dst : NodeId) (udpSrc udpDst : BitVec 16) (an : BitVec 2) (sender : NodeId) (pn : BitVec 32)
  /-- An unprotected HELLO or KEY_AGREE packet. -/
  | hello
  | keyAgree
  /-- An IEEE 802.3 MAC control frame. -/
  | macControl
  /-- Anything else, IPv6 extension headers and unknown packet types among them; `dreaskak` marks a packet whose header
  breaks R339 or whose PKT_TYPE is reserved (R340). -/
  | other (dreaskak : Bool)
deriving DecidableEq, Repr

/-- A frame as a port receives it: its bytes, whether the check value of a MACsec frame verifies under the key of its association, and what
its encrypted part holds. -/
structure RxFrame where
  bytes : List Byte
  icvOk : Bool
  plain : List Byte
deriving DecidableEq, Repr

/-- A HELLO payload (R368). -/
structure HelloPayload where
  uid : BitVec 64
  nodeId : NodeId
  port : BitVec 8
  portMode : BitVec 4
  sliceMode : BitVec 2
  partCode : BitVec 16
  siliconRev : BitVec 8
  seq : BitVec 32
  rsv : Bool
deriving DecidableEq, Repr

/-- The parameters of NODE.QP_CREATE (R344). -/
structure QpCreateBlk where
  qpn : BitVec 12
  peerQpn : BitVec 12
  peerNode : NodeId
  dscp : BitVec 6
  entropyM1 : BitVec 6
  retxLimit : BitVec 4
  txPsn : BitVec 32
  rxPsn : BitVec 32
  stallUs : BitVec 16
  retxUs : BitVec 16
deriving DecidableEq, Repr

/-- A member entry of NODE.MAP (R372). -/
structure Member where
  node : NodeId
  state : BitVec 2
deriving DecidableEq, Repr

/-- The parameters of NODE.MAP (R372). -/
structure MapBlk where
  epoch : BitVec 16
  memberCount : BitVec 16
  members : List Member
deriving DecidableEq, Repr

/-- A signed message of the association or session agreement, as far as the node must judge it: the bytes of the sender's
end-entity public key, the end key of its chain, the subject, the chain, the signed bytes and the signature. -/
structure Credential where
  endEntityKey : List Byte
  rootKey : List Byte
  subject : BitVec 64
  chain : List Byte
  chainCerts : Nat
  maxCertLen : Nat
  validFrom : Nat
  validTo : Nat
  signed : List Byte
  signature : List Byte
deriving DecidableEq, Repr

/-! ## Twins and ownership -/

/-- The parameters of TWIN.PAIR (R386). -/
structure PairBlk where
  pairEpoch : BitVec 32
  twin : NodeId
  role : BitVec 2
deriving DecidableEq, Repr

/-- The parameters of TWIN.CODESET (R459). -/
structure CodesetBlk where
  codesetId : BitVec 16
  replace : Bool
  slots : List NodeId
deriving DecidableEq, Repr

/-- The parameters of NODE.FENCE (R409). -/
structure FenceBlk where
  fenceEpoch : BitVec 64
  target : NodeId
  action : BitVec 2
deriving DecidableEq, Repr

/-- The parameters of OWN.OFFER (R422). -/
structure OfferBlk where
  handoffId : BitVec 32
  dest : NodeId
  spanCount : BitVec 16
  handle : Handle
  spanFirst : SpanIx
deriving DecidableEq, Repr

/-- A fill point of one layer and head of a span. -/
structure FillPoint where
  span : Nat
  layer : Nat
  head : Nat
  fill : Nat
deriving DecidableEq, Repr

/-- One page of a record image sent to a twin or destination: where it lies in the span, its recorded digest (none for a
page not sealed), whether it is lost, its place in a code group, and the shared record's handle that its header carries where a member
shares it with an alias (R126, R127). -/
structure PageImage where
  layer : Nat
  head : Nat
  page : Nat
  digest : Option (List Byte)
  lost : Bool
  coded : Option (BitVec 16 × Nat × Nat)
  sharedOf : Option Handle
deriving DecidableEq, Repr

/-- The image of a span record (PEER_OP MIRROR_RECORD and COPY_RECORD). -/
structure RecordImage where
  geo : Geometry
  fills : List FillPoint
  pages : List PageImage
  smooth : List (Nat × Nat × List (BitVec 32))
  /-- The span has a mask set, which is not mirrored (R415). -/
  hasMask : Bool
  /-- A higher span of the sequence has been assigned (R121). -/
  passed : Bool
deriving DecidableEq, Repr

/-- The image of a sequence record: the node of each span, the next span to assign, and whether it is CLOSING. -/
structure SeqImage where
  geo : Geometry
  places : List (Nat × NodeId)
  nextSpan : Nat
  closing : Bool
  smooth : List (Nat × Nat × List (BitVec 32))
deriving DecidableEq, Repr

/-- The rows of one layer and head in a MIRROR_ROWS or COPY_ROWS message: per row the stored key and value bytes, their
scales, their group scales and the check element of the value row (R392). -/
structure StoredRow where
  keyBytes : List Byte
  valueBytes : List Byte
  keyScale : BitVec 16
  valueScale : BitVec 16
  keyGroups : List Byte
  valueGroups : List Byte
  check : BitVec 32
deriving DecidableEq, Repr

/-- Rows of one layer and head with the fill point before them. -/
structure RowsImage where
  layer : Nat
  head : Nat
  fillBefore : Nat
  rows : List StoredRow
deriving DecidableEq, Repr

/-- A heartbeat's payload (R407). -/
structure HeartbeatPayload where
  seq : BitVec 32
  pairEpoch : BitVec 32
  fenceEpoch : BitVec 64
  mapEpoch : BitVec 16
  pairState : BitVec 8
  youFenced : Bool
  iFenced : Bool
  rowsUnacked : BitVec 32
  rsv : Bool
  /-- The packet's header breaks R339, R340 or R407. -/
  malformed : Bool
deriving DecidableEq, Repr

/-! ## Host interface -/

/-- The block of NODE.RING_CREATE (R467). -/
structure RingBlk where
  ringId : BitVec 9
  result : Bool
  sizeLog2 : BitVec 5
  entryLog2 : BitVec 5
  priority : BitVec 2
  resultRing : BitVec 9
  msix : BitVec 11
  coalesceCount : BitVec 8
  base : BitVec 64
  shadow : BitVec 64
  coalesceUs : BitVec 16
  stallUs : BitVec 16
  rsv : Bool
deriving DecidableEq, Repr

/-- A command packet as it reaches the node, from a ring or in a COMMAND message: the 64 bytes of its header (R440), and the packet offsets of
the reserved fields of its parameters that are not zero, ascending. -/
structure Fetched where
  bytes : List Byte
  paramRsv : List Nat
deriving DecidableEq, Repr

/-- What the slot fetch that follows a doorbell finds (R471, R472): the packets of the new slots, whether the fetch failed,
and whether the fetch of parameters by reference failed for a packet. -/
structure SlotFetch where
  packets : List Fetched
  failed : Bool
deriving DecidableEq, Repr

/-- A register that a plain write reaches (R11, R434): those whose behaviour is their access code alone. -/
inductive Reg where
  | devError
  | apertureWindow
  | adminBlock (ring : BitVec 1) (blk : RingBlk)
  | mbStatus (mailbox : BitVec 4)
  | msixEntry (vector : BitVec 11) (enabled : Bool)
  | syncSetValue
  | i3cAlert
  | readOnly (offset : BitVec 24)
  | unmapped (offset : BitVec 24)
deriving DecidableEq, Repr

/-! ## Synchronisation -/

/-- The parameters of SYNC.CREATE (R496). -/
structure SyncCreateBlk where
  index : BitVec 14
  kind : BitVec 2
  msix : BitVec 11
  initial : BitVec 64
deriving DecidableEq, Repr

/-- The far end of a barrier's tree link (R510). -/
structure TreeLink where
  node : NodeId
  index : BitVec 14
  qpn : BitVec 12
deriving DecidableEq, Repr

/-- The parameters of BARRIER.CREATE (R510). -/
structure BarrierBlk where
  index : BitVec 14
  parties : BitVec 15
  childCount : BitVec 5
  msix : BitVec 11
  root : Bool
  parent : TreeLink
  children : List TreeLink
deriving DecidableEq, Repr

/-! ## Management -/

/-- A management request (R536) that is read and answered within one session: the session slot 0–3 that carried it. -/
structure MgmtReq where
  session : BitVec 2
  mgmtTag : BitVec 64
deriving DecidableEq, Repr

/-- One entry of the fabric anchor list (R547). -/
structure AnchorEntry where
  kind : BitVec 8
  digest : List Byte
deriving DecidableEq, Repr

/-- One peer table entry (R370). -/
structure PeerEntry where
  valid : Bool
  destMac : BitVec 48
  portMask : BitVec 17
  uid : BitVec 64
deriving DecidableEq, Repr

/-- How a session ends (R535). -/
inductive SessionEnd where
  | tcpClose
  | badTag
  | recordLimit
deriving DecidableEq, Repr

/-- A manifest component (R541): its type (1 management, 2 control core, 3 base die), length and digest. -/
structure Component where
  ctype : Nat
  length : Nat
  digest : List Byte
deriving DecidableEq, Repr

/-- What the loader finds in the image once the manifest, the certificate and the signature are complete (R541). -/
structure Manifest where
  imageVersion : BitVec 32
  securityVersion : BitVec 16
  components : List Component
  headLen : Nat
  manifestBytes : List Byte
  signingKey : List Byte
  issuerKey : List Byte
  certBytes : List Byte
  certSignature : List Byte
  manifestSignature : List Byte
deriving DecidableEq, Repr

/-- A flash target's parameter page (R314, R589). -/
structure ParamPage where
  ok : Bool
  blocks : Nat
  pagesPerBlock : Nat
  maxBusyUs : Nat
deriving DecidableEq, Repr

/-- A flash block: channel, target and block number. -/
structure BlockRef where
  channel : Nat
  target : Nat
  block : Nat
deriving DecidableEq, Repr

/-! ## The commands -/

/-- The commands and events of the node, one constructor for each row of the table. -/
inductive Instr where
  -- ### Configuration
  /-- CFG_IMAGE (R574). -/
  | cfgImage (c : Cmd) (img : ConfigImage)
  /-- CFG_PROFILE (R579). -/
  | cfgProfile (c : Cmd) (p : ProfileBlock)
  /-- CFG_READ (R580). -/
  | cfgRead (c : Cmd)
  -- ### Spans
  /-- SPAN_OPEN (R39): `prefer` is the home node's order of preference over the members (R44, R47). -/
  | spanOpen (c : Cmd) (p : SpanOpenBlk) (prefer : List NodeId)
  /-- SPAN_CREATE_REQUEST (R47): `unwilling` says that the member refuses for a reason of its own. -/
  | spanCreateRequest (h : PeerHdr) (geo : Geometry) (smooth : List (Nat × Nat × List (BitVec 32))) (highest unwilling : Bool)
  /-- SPAN_CREATE_TIMEOUT (R47). -/
  | spanCreateTimeout (tag : BitVec 32)
  /-- SPAN_FILL_REPORT (R45). -/
  | spanFillReport (h : PeerHdr) (prefer : List NodeId)
  /-- SPAN_LOCATE (R46). -/
  | spanLocate (c : Cmd) (t : Target) (prefer : List NodeId)
  /-- SEQUENCE_RECORD_MOVE (R41). -/
  | sequenceRecordMove (v : VId) (handle : Handle)
  /-- SPAN_CLOSE (R48). -/
  | spanClose (c : Cmd) (t : Target)
  /-- SPAN_CLOSE_TIMEOUT (R49). -/
  | spanCloseTimeout (job : Nat)
  /-- SEQ_CLOSE (R49). -/
  | seqClose (h : PeerHdr)
  /-- SPAN_ALIAS (R126). -/
  | spanAlias (c : Cmd) (p : AliasBlk)
  /-- SPAN_MOVE (R428): `prefer` is the home node's order of preference over the members (R44). -/
  | spanMove (c : Cmd) (t : Target) (prefer : List NodeId)
  /-- SPAN_COVERAGE (R264). -/
  | spanCoverage (c : Cmd) (t : Target)
  /-- SPAN_RESET (R416). -/
  | spanReset (c : Cmd) (t : Target)
  /-- FRAME_DRAIN_END (R64). -/
  | frameDrainEnd (frame : BitVec 24)
  /-- QUARANTINE_END (R64). -/
  | quarantineEnd (frame : BitVec 24)
  /-- DATA_REQUEST_TIMEOUT (R67). -/
  | dataRequestTimeout (req : Nat)
  -- ### The sequence directory
  /-- DIR_BANK_REBUILD_END (R79). -/
  | dirBankRebuildEnd (bank : BitVec 4)
  /-- DIR_SCRUB (R80). -/
  | dirScrub (u : Upsets)
  /-- DIR_UPDATE_END (R85). -/
  | dirUpdateEnd (bank : BitVec 4)
  /-- DIR_WAIT_EXPIRY (R85). -/
  | dirWaitExpiry (job : Nat)
  /-- DIR_HOLE_RESTORE (R86): the entry at `src` moves to the invalid address `dst` beside it. -/
  | dirHoleRestore (bank : BitVec 4) (src dst : BitVec 12)
  /-- TOMBSTONE_EXPIRY (R89). -/
  | tombstoneExpiry (bank : BitVec 4) (addr : BitVec 12)
  /-- DIR_CLEAR (R91). -/
  | dirClear (c : Cmd)
  /-- DIR_READ (R457). -/
  | dirRead (c : Cmd) (bank : BitVec 4) (first : BitVec 12) (count : BitVec 13)
  /-- DIR_PROBE (R458). -/
  | dirProbe (c : Cmd) (handle : Handle) (span : SpanIx) (kind : BitVec 8) (u : Upsets)
  -- ### Appending
  /-- APPEND (R102): the whole payload of the sluice message. -/
  | append (m : Msg) (payload : List Byte) (u : Upsets)
  /-- KV_APPEND (R98). -/
  | kvAppend (c : Cmd) (payload : List Byte) (u : Upsets)
  /-- SPARE_REPLENISH (R123). -/
  | spareReplenish
  /-- PAGE_SEAL (R119). -/
  | pageSeal
  /-- KV_SMOOTH (R112, R454). -/
  | kvSmooth (c : Cmd) (handle : Handle) (layer : BitVec 16) (head : BitVec 8) (sigma : List (BitVec 32))
  /-- SMOOTH_HOLD (R112). -/
  | smoothHold (h : PeerHdr) (layer : BitVec 16) (head : BitVec 8)
  /-- SMOOTH_INSTALL (R112): with no vector it only releases the hold. -/
  | smoothInstall (h : PeerHdr) (layer : BitVec 16) (head : BitVec 8) (sigma : Option (List (BitVec 32)))
  /-- KV_SMOOTH_TIMEOUT (R112). -/
  | kvSmoothTimeout (job : Nat)
  /-- KV_MASK_SET (R455). -/
  | kvMaskSet (c : Cmd) (handle : Handle) (span : SpanIx) (maskRows : BitVec 14) (initialKind : BitVec 2)
  /-- KV_MASK_TILE (R456). -/
  | kvMaskTile (c : Cmd) (handle : Handle) (span : SpanIx) (tileRow : BitVec 6) (tileCol : BitVec 13) (tile : List Byte)
  /-- KV_MASK_DROP (R210). -/
  | kvMaskDrop (c : Cmd) (t : Target)
  /-- MASK_SLOT_FREE (R211). -/
  | maskSlotFree (frame : BitVec 24) (slot : BitVec 4)
  -- ### Runners
  /-- RN_NOP (R149). -/
  | rnNop (stack : BitVec 3) (k : RnCmd)
  /-- RN_QLOAD (R149): the rows sent over the pseudo-channel's data lanes. -/
  | rnQload (stack : BitVec 3) (k : RnCmd) (rows : List (List (BitVec 32)))
  /-- RN_SCALE (R149). -/
  | rnScale (stack : BitVec 3) (k : RnCmd) (u : Upsets)
  /-- RN_SCORE (R149). -/
  | rnScore (stack : BitVec 3) (k : RnCmd) (u : Upsets)
  /-- RN_WLOAD (R149). -/
  | rnWload (stack : BitVec 3) (k : RnCmd)
  /-- RN_WEIGH (R149). -/
  | rnWeigh (stack : BitVec 3) (k : RnCmd) (u : Upsets)
  /-- RN_DRAIN (R149). -/
  | rnDrain (stack : BitVec 3) (k : RnCmd)
  /-- RN_FILL (R149). -/
  | rnFill (stack : BitVec 3) (k : RnCmd) (u : Upsets)
  /-- RN_COPY (R149). -/
  | rnCopy (stack : BitVec 3) (k : RnCmd) (u : Upsets)
  /-- RN_SCRUB (R149). -/
  | rnScrub (stack : BitVec 3) (k : RnCmd) (u : Upsets)
  /-- RN_ABORT (R149). -/
  | rnAbort (stack : BitVec 3) (k : RnCmd)
  /-- RN_STATUS (R151). -/
  | rnStatus (stack : BitVec 3) (k : RnCmd)
  /-- REFRESH_DUE (R161). -/
  | refreshDue (stack : BitVec 3) (pc : BitVec 5)
  /-- STACK_SENSOR_READ (R168): temperature in °C, power averaged over 1 ms in W, and whether the conditions for lowering
  the level have held for 1 ms. -/
  | stackSensorRead (stack : BitVec 3) (temp : Int) (power : Nat) (quietMs : Bool)
  -- ### Attention
  /-- ATTN_QUERY (R177): the whole parameter bytes. -/
  | attnQuery (c : Cmd) (payload : List Byte) (u : Upsets)
  /-- QUERY (R342): the whole message payload; RESULT_STRIDE is AUX of the header. -/
  | query (m : Msg) (payload : List Byte) (u : Upsets)
  /-- ATTN_RESERVE (R218). -/
  | attnReserve (req : Nat)
  /-- ATTN_ADMIT_TIMEOUT (R218). -/
  | attnAdmitTimeout (req : Nat)
  /-- KEY_PASS_COMPLETE (R187). -/
  | keyPassComplete (req : Nat) (u : Upsets)
  /-- DIE_BLOCK_DONE (R235): one page of a die request, by its place in the request's page order. -/
  | dieBlockDone (req : Nat) (page : Nat) (u : Upsets)
  /-- SEGMENT_COMPLETE (R237). -/
  | segmentComplete (req : Nat) (u : Upsets)
  /-- VALUE_PASS_COMPLETE (R187). -/
  | valuePassComplete (req : Nat) (u : Upsets)
  /-- ATTN_MERGE (R241): the whole parameter bytes. -/
  | attnMerge (c : Cmd) (payload : List Byte)
  /-- ATTN_QUERY_FANOUT (R245): the whole parameter bytes. -/
  | attnQueryFanout (c : Cmd) (payload : List Byte)
  /-- FANOUT_TIMEOUT (R247): the fan-out and the place of its sub-query. -/
  | fanoutTimeout (fanout : Nat) (sub : Nat)
  -- ### Checking
  /-- READ_VERIFY (R278). -/
  | readVerify (p : PageRef) (u : Upsets)
  /-- SCRUB_VERIFY (R279). -/
  | scrubVerify (c : Cmd) (t : Target)
  /-- TWIN_VERIFY_TIMEOUT (R285). -/
  | twinVerifyTimeout (p : PageRef)
  /-- REPLICA_REWRITE (R284): the good content of the page, payload then annex. -/
  | replicaRewrite (p : PageRef) (content : List Byte)
  /-- PAGE_REPAIR (R296): the content fetched from the twin or code group, or none where no copy can be read. -/
  | pageRepair (p : PageRef) (content : Option (List Byte))
  /-- SRAM_SCRUB (R299). -/
  | sramScrub (errs : List SramErr)
  /-- PATROL_SCRUB_STEP (R300). -/
  | patrolScrubStep (stack : BitVec 3) (pc : BitVec 5) (u : Upsets)
  /-- SCRUB_PASS_DONE (R301). -/
  | scrubPassDone (stack : BitVec 3)
  /-- SCRUB_INTERVAL_END (R301). -/
  | scrubIntervalEnd
  /-- SCRUB_PASS (R302). -/
  | scrubPass (c : Cmd)
  -- ### Tiers
  /-- PACK_PAGE (R305). -/
  | packPage (p : PageRef)
  /-- PACK_COMPACT (R306). -/
  | packCompact (frame : BitVec 24)
  /-- DEMOTE_PAGE (R307). -/
  | demotePage (p : PageRef)
  /-- DEMOTE_COMPLETE (R307): the image as read back. -/
  | demoteComplete (p : PageRef) (readBack : List Byte)
  /-- PROMOTE_COMPLETE (R309): whether the image's sectors could be read, and the image as read. -/
  | promoteComplete (p : PageRef) (read : Option (List Byte))
  /-- PROMOTE_STALL_EXPIRY (R310). -/
  | promoteStallExpiry (req : Nat)
  /-- TIER_PROMOTE (R313). -/
  | tierPromote (c : Cmd) (t : Target)
  /-- TIER_DEMOTE (R313). -/
  | tierDemote (c : Cmd) (t : Target)
  /-- TIER_PIN (R313). -/
  | tierPin (c : Cmd) (t : Target)
  /-- TIER_UNPIN (R313). -/
  | tierUnpin (c : Cmd) (t : Target)
  /-- TIER_STATUS (R464). -/
  | tierStatus (c : Cmd) (t : Target)
  /-- FLASH_PROBE (R314). -/
  | flashProbe (channel : BitVec 4) (target : BitVec 3) (p : ParamPage)
  /-- FLASH_RELOCATE (R316): `soft` and `old` say that a sector of the block needed a soft decode, or that its data is older
  than 30 days. -/
  | flashRelocate (b : BlockRef) (soft old : Bool)
  /-- FTL_RECLAIM (R317). -/
  | ftlReclaim (b : BlockRef)
  /-- WEAR_LEVEL (R317). -/
  | wearLevel (b : BlockRef)
  /-- FLASH_PROGRAM_FAIL (R317). -/
  | flashProgramFail (b : BlockRef)
  /-- FLASH_ERASE_BACKGROUND (R319). -/
  | flashEraseBackground (b : BlockRef)
  /-- CODEC_LOAD (R326). -/
  | codecLoad (c : Cmd) (img : TableImage)
  /-- CODEC_SELECT (R328). -/
  | codecSelect (c : Cmd) (gen : BitVec 32) (slot : BitVec 3) (format : BitVec 4)
  /-- CODEC_RETIRE (R329). -/
  | codecRetire (c : Cmd) (gen : BitVec 32) (slot : BitVec 3) (force : Bool)
  /-- CODEC_STATUS (R327). -/
  | codecStatus (c : Cmd)
  /-- CODEC_SAMPLE (R462). -/
  | codecSample (c : Cmd) (format : BitVec 4)
  /-- RECODE_IMAGE (R329). -/
  | recodeImage (image : Nat)
  /-- CODEC_BLOCK (R330). -/
  | codecBlock (engine : BitVec 2)
  -- ### Fabric
  /-- PORT_LINK_UP (R333). -/
  | portLinkUp (port : BitVec 5)
  /-- PORT_LINK_DOWN (R333). -/
  | portLinkDown (port : BitVec 5)
  /-- FRAME_RECEIVE (R334): the frame and the RS(544,514) codewords corrected and not corrected with it. -/
  | frameReceive (v : VId) (port : BitVec 5) (f : RxFrame) (fecCorrected fecUncorrected : Nat)
  /-- DATA (R348). -/
  | data (p : DataPkt)
  /-- ACK (R351). -/
  | ack (p : AckPkt)
  /-- ACK_TIMER (R349). -/
  | ackTimer (qpn : BitVec 12)
  /-- RETX_TIMER_EXPIRY (R351). -/
  | retxTimerExpiry (qpn : BitVec 12)
  /-- RNR_WAIT_EXPIRY (R351). -/
  | rnrWaitExpiry (qpn : BitVec 12)
  /-- QP_RETRY_EXHAUSTED (R346). -/
  | qpRetryExhausted (qpn : BitVec 12)
  /-- QP_HOLD_EXPIRY (R346). -/
  | qpHoldExpiry (qpn : BitVec 12)
  /-- ENTROPY_SUSPEND_END (R355). -/
  | entropySuspendEnd (qpn : BitVec 12) (entropy : BitVec 6)
  /-- RATE_INCREASE (R354). -/
  | rateIncrease (qpn : BitVec 12)
  /-- HEADRACE_ADMIT (R359). -/
  | headraceAdmit (qpn : BitVec 12)
  /-- COMMAND (R342). -/
  | command (m : Msg) (p : Fetched)
  /-- WRITE (R362): the payload, and its offset within the region's message. -/
  | write (m : Msg) (payload : List Byte)
  /-- READ_REQ (R342): the address, length and key that its payload gives. -/
  | readReq (m : Msg) (addr : BitVec 64) (len : BitVec 32) (key : BitVec 32) (u : Upsets)
  /-- READ_RESP (R342). -/
  | readResp (m : Msg) (payload : List Byte)
  /-- HELLO (R369). -/
  | hello (port : BitVec 5) (p : HelloPayload)
  /-- HELLO_SEND (R368). -/
  | helloSend (port : BitVec 5)
  /-- NEIGHBOUR_EXPIRY (R369). -/
  | neighbourExpiry (port : BitVec 5)
  /-- KEY_AGREE_1 (R365): the responder's step. -/
  | keyAgree1 (v : VId) (peer : NodeId) (twinLink : Bool) (an : BitVec 2) (ek nonce : List Byte) (cred : Credential)
  /-- KEY_AGREE_2 (R365): the initiator's step. -/
  | keyAgree2 (v : VId) (peer : NodeId) (twinLink : Bool) (ct nonce : List Byte) (cred : Credential)
  /-- KEY_AGREE_3 (R365). -/
  | keyAgree3 (v : VId) (peer : NodeId) (twinLink : Bool) (an : BitVec 2) (tagOk : Bool)
  /-- KEY_AGREE_RESEND (R365). -/
  | keyAgreeResend (v : VId) (peer : NodeId) (twinLink : Bool)
  /-- RX_SA_RETIRE (R366). -/
  | rxSaRetire (v : VId) (peer : NodeId) (twinLink : Bool)
  /-- REKEY_DUE (R367). -/
  | rekeyDue (v : VId) (peer : NodeId) (twinLink : Bool)
  /-- PN_EXHAUSTED (R367). -/
  | pnExhausted (v : VId) (peer : NodeId) (twinLink : Bool)
  /-- NODE_MAP (R373): `prefer` is the order of preference for spans whose assignment failed (R47). -/
  | nodeMap (c : Cmd) (p : MapBlk) (prefer : List NodeId)
  /-- DRAIN_WINDOW_END (R374). -/
  | drainWindowEnd (v : VId)
  /-- NODE_QP_CREATE (R344). -/
  | nodeQpCreate (c : Cmd) (p : QpCreateBlk)
  /-- NODE_QP_DESTROY (R346). -/
  | nodeQpDestroy (c : Cmd) (qpn : BitVec 12)
  -- ### Twins
  /-- TWIN_PAIR (R387). -/
  | twinPair (c : Cmd) (p : PairBlk)
  /-- TWIN_PAIR_TIMEOUT (R387). -/
  | twinPairTimeout (v : VId)
  /-- PAIR_PROPOSE (R387). -/
  | pairPropose (h : PeerHdr) (role : BitVec 2) (names : NodeId)
  /-- PAIR_CONFIRM (R387). -/
  | pairConfirm (h : PeerHdr) (role : BitVec 2) (names : NodeId)
  /-- TWIN_SOLO (R413). -/
  | twinSolo (c : Cmd) (takeover : Bool)
  /-- TWIN_CODESET (R401), with the fragments that a replacement has gathered from the other members (R406): for each stripe, slots and
  their fragments. -/
  | twinCodeset (c : Cmd) (p : CodesetBlk) (stripes : List (Nat × List (Nat × List Byte)))
  /-- TWIN_STATUS (R465). -/
  | twinStatus (c : Cmd)
  /-- MIRROR_RECORD (R395): a span record or a sequence record. -/
  | mirrorRecord (h : PeerHdr) (rec : RecordImage ⊕ SeqImage)
  /-- MIRROR_ROWS (R398). -/
  | mirrorRows (h : PeerHdr) (rows : List RowsImage)
  /-- MIRROR_SEAL (R399). -/
  | mirrorSeal (h : PeerHdr) (layer head page : Nat) (digest : List Byte)
  /-- MIRROR_RELEASE (R400): the whole span, or the pages named. -/
  | mirrorRelease (h : PeerHdr) (pages : Option (List (Nat × Nat × Nat)))
  /-- MIRROR_ACK_TIMEOUT (R396). -/
  | mirrorAckTimeout (job : Nat)
  /-- ASYNC_MIRROR_SEND (R397). -/
  | asyncMirrorSend (v : VId)
  /-- VERIFY_REQ (R282). -/
  | verifyReq (h : PeerHdr) (layer head page : Nat) (digest hash : List Byte) (u : Upsets)
  /-- VERIFY_RESP (R283): the twin's recorded digest and content hash, none where its copy did not read. -/
  | verifyResp (h : PeerHdr) (layer head page : Nat) (digest : List Byte) (hash : Option (List Byte)) (content : List Byte)
  /-- CODE_CONTRIB (R402). -/
  | codeContrib (h : PeerHdr) (stripe slot : Nat) (fragment : List Byte)
  /-- CODE_NULL (R402). -/
  | codeNull (h : PeerHdr) (stripe slot : Nat)
  /-- CODE_STRIPE_TIMEOUT (R402). -/
  | codeStripeTimeout (v : VId)
  /-- PAGE_REBUILD (R405): the fragments gathered, by slot. -/
  | pageRebuild (p : PageRef) (fragments : List (Nat × List Byte))
  /-- COPY_MANIFEST (R417). -/
  | copyManifest (h : PeerHdr) (spans : List (Handle × SpanIx))
  /-- COPY_RECORD (R417). -/
  | copyRecord (h : PeerHdr) (rec : RecordImage)
  /-- COPY_PAGE (R418): the content, payload then annex. -/
  | copyPage (h : PeerHdr) (layer head page : Nat) (isSealed : Bool) (content : List Byte)
  /-- COPY_ROWS (R419). -/
  | copyRows (h : PeerHdr) (rows : List RowsImage)
  /-- COPY_DONE (R420). -/
  | copyDone (h : PeerHdr)
  /-- HOME_UPDATE (R414). -/
  | homeUpdate (h : PeerHdr)
  /-- PEER_ACK (R393): the status, and for a report of fill points (R112) their greatest. -/
  | peerAck (h : PeerHdr) (status : Status) (fill : Nat)
  /-- PEER_RESEND (R393). -/
  | peerResend (tag : BitVec 32)
  /-- HEARTBEAT (R407). -/
  | heartbeat (v : VId) (sender : NodeId) (twinLink : Bool) (p : HeartbeatPayload)
  /-- HEARTBEAT_SEND (R407). -/
  | heartbeatSend (v : VId)
  /-- HEARTBEAT_MISS (R408). -/
  | heartbeatMiss (v : VId) (twinLink : Bool)
  /-- NODE_FENCE (R409). -/
  | nodeFence (c : Cmd) (p : FenceBlk)
  /-- NODE_LOST_LIST (R463). -/
  | nodeLostList (c : Cmd) (fromSeq : BitVec 32) (maxEntries : BitVec 13)
  -- ### Ownership
  /-- OWN_OFFER (R422): from the run-time at the source, from the source at the destination. -/
  | ownOffer (c : Cmd) (p : OfferBlk)
  /-- OWN_ACCEPT (R424). -/
  | ownAccept (c : Cmd) (handoffId : BitVec 32) (fills : List FillPoint)
  /-- OWN_COMMIT (R425). -/
  | ownCommit (c : Cmd) (handoffId : BitVec 32)
  /-- OWN_RESEND (R425). -/
  | ownResend (v : VId) (handoffId : BitVec 32)
  /-- OWN_WAIT_EXPIRY (R424). -/
  | ownWaitExpiry (v : VId) (handoffId : BitVec 32)
  /-- OWN_RESOLVE (R427). -/
  | ownResolve (c : Cmd) (handoffId : BitVec 32) (winner : BitVec 1)
  /-- OWN_STATUS (R466). -/
  | ownStatus (c : Cmd)
  -- ### Host interface
  /-- FLR (R433). -/
  | flr
  /-- PERST_N (R564): the level the pin takes. -/
  | perstN (high : Bool)
  /-- ADMIN_ENABLE (R467). -/
  | adminEnable (value : BitVec 64)
  /-- NODE_RING_CREATE (R467). -/
  | nodeRingCreate (c : Cmd) (p : RingBlk)
  /-- NODE_RING_DESTROY (R469). -/
  | nodeRingDestroy (c : Cmd) (ring : BitVec 9)
  /-- RING_DOORBELL (R471). -/
  | ringDoorbell (ring : BitVec 9) (value : BitVec 32) (f : SlotFetch)
  /-- COMMAND_ADMIT (R473): `paramFetchFails` gives the address of a failed fetch of parameters by reference. -/
  | commandAdmit (ring : BitVec 9) (paramFetchFails : Option (BitVec 64))
  /-- COALESCE_EXPIRY (R476). -/
  | coalesceExpiry (ring : BitVec 9)
  /-- PEEK_TAG (R478). -/
  | peekTag (ring : BitVec 9) (tag : BitVec 32)
  /-- APERTURE_READ (R437): offset in BAR2 and length. -/
  | apertureRead (offset : BitVec 28) (len : BitVec 13) (u : Upsets)
  /-- APERTURE_WRITE (R438). -/
  | apertureWrite (offset : BitVec 28) (bytes : List Byte) (u : Upsets)
  /-- MB_DATA (R481): a host write of the register of mailbox `m`. -/
  | mbData (m : BitVec 4) (word : BitVec 64)
  /-- MB_TAKE (R481): a host read of the register of mailbox `m`. -/
  | mbTake (m : BitVec 4)
  /-- MB_RESET (R481): a host write of 1 to RESET of mailbox `m`. -/
  | mbReset (m : BitVec 4)
  /-- REGISTER_WRITE (R11). -/
  | registerWrite (r : Reg) (value : BitVec 64)
  /-- ORDER_FENCE (R482). -/
  | orderFence (c : Cmd) (scopeNode mirror logMark : Bool)
  /-- ORDER_FENCE_TIMEOUT (R482). -/
  | orderFenceTimeout (job : Nat)
  /-- LOG_READ (R489). -/
  | logRead (c : Cmd) (fromSeq : BitVec 64) (maxRecords : BitVec 13)
  /-- LOG_COUNTERS (R490). -/
  | logCounters (c : Cmd) (group index first count : BitVec 8)
  -- ### Synchronisation
  /-- SYNC_CREATE (R496). -/
  | syncCreate (c : Cmd) (p : SyncCreateBlk)
  /-- SYNC_DESTROY (R497). -/
  | syncDestroy (c : Cmd) (index : BitVec 14) (force : Bool)
  /-- SYNC_SIGNAL (R502). -/
  | syncSignal (c : Cmd)
  /-- SYNC_WAIT (R502). -/
  | syncWait (c : Cmd)
  /-- SYNC_READ (R521). -/
  | syncRead (c : Cmd) (first : BitVec 14) (count : BitVec 15)
  /-- SYNC_DUMP (R522): `freezeNs` is the length of the freeze. -/
  | syncDump (c : Cmd) (freeze : Bool) (freezeNs : BitVec 32)
  /-- SYNC_SET (R526). -/
  | syncSet (c : Cmd) (index : BitVec 14) (action : BitVec 2) (value : BitVec 64)
  /-- SYNC_SEL (R524). -/
  | syncSel (index : BitVec 14)
  /-- SET_VALUE (R526): a SYNC_SET_CTRL write with ACTION 0. -/
  | setValue (index : BitVec 14)
  /-- CLEAR_OVERRUNS (R526): a SYNC_SET_CTRL write with ACTION 1. -/
  | clearOverruns (index : BitVec 14)
  /-- ABORT_WAITERS (R526): a SYNC_SET_CTRL write with ACTION 2, or 3, which is reserved. -/
  | abortWaiters (index : BitVec 14) (reservedAction : Bool)
  /-- WAIT_TIMEOUT (R507): the waiter that reached its limit. -/
  | waitTimeout (waiter : Nat)
  /-- BARRIER_CREATE (R510). -/
  | barrierCreate (c : Cmd) (p : BarrierBlk)
  /-- BARRIER_ARRIVE (R512). -/
  | barrierArrive (c : Cmd) (index : BitVec 14) (sense nowait : Bool) (timeoutUs : BitVec 32)
  /-- BARRIER_DESTROY (R497). -/
  | barrierDestroy (c : Cmd) (index : BitVec 14) (force : Bool)
  /-- SIGNAL (R516). -/
  | signal (m : Msg) (index : BitVec 14) (value : BitVec 64) (tag : BitVec 32) (rsv : Bool)
  /-- TREE_ARRIVE (R514). -/
  | treeArrive (m : Msg) (index fromIndex : BitVec 14) (phase : BitVec 48) (rsv : Bool)
  /-- TREE_RELEASE (R514). -/
  | treeRelease (m : Msg) (index fromIndex : BitVec 14) (phase : BitVec 48) (rsv : Bool)
  -- ### Management
  /-- SETDASA (R531). -/
  | setdasa (staticAddr dynamicAddr : BitVec 7)
  /-- OPERATOR_ANCHOR (R531): a private write of one byte at an offset of the register. -/
  | operatorAnchor (offset : BitVec 5) (bytes : List Byte)
  /-- ANCHOR_LOCK (R531). -/
  | anchorLock (value : BitVec 8)
  /-- SESSION_INIT (R533). -/
  | sessionInit (ek nonce : List Byte) (cred : Credential)
  /-- SESSION_CLOSE (R535). -/
  | sessionClose (session : BitVec 2) (how : SessionEnd)
  /-- SESSION_IDLE_TIMEOUT (R535). -/
  | sessionIdleTimeout (session : BitVec 2)
  /-- GET_STATUS (R536). -/
  | getStatus (r : MgmtReq)
  /-- GET_TELEMETRY (R590). -/
  | getTelemetry (r : MgmtReq) (clear : Bool) (rsv : Bool)
  /-- GET_ATTESTATION (R543). -/
  | getAttestation (r : MgmtReq) (nonce : List Byte)
  /-- GET_CERTS (R536). -/
  | getCerts (r : MgmtReq)
  /-- SET_TIME (R536). -/
  | setTime (r : MgmtReq) (utc : BitVec 64)
  /-- SET_FABRIC_IDENTITY (R369). -/
  | setFabricIdentity (r : MgmtReq) (v : VId) (nodeId : NodeId) (pfx : BitVec 64) (forwarding : Bool)
  /-- SET_PEER_ENTRY (R370). -/
  | setPeerEntry (r : MgmtReq) (v : VId) (peer : NodeId) (e : PeerEntry) (rsv : Bool)
  /-- READ_NEIGHBOURS (R369). -/
  | readNeighbours (r : MgmtReq) (v : VId)
  /-- SET_TENANT_ANCHOR (R536). -/
  | setTenantAnchor (r : MgmtReq) (digest : List Byte)
  /-- SET_FABRIC_ANCHORS (R547). -/
  | setFabricAnchors (r : MgmtReq) (anchors : List AnchorEntry)
  /-- TENANCY_SEAL (R546). -/
  | tenancySeal (r : MgmtReq) (tk : List Byte) (hostData : BitVec 8) (anchors : List AnchorEntry)
  /-- TENANCY_OPEN (R545). -/
  | tenancyOpen (r : MgmtReq) (tk : List Byte)
  /-- TENANCY_RELEASE (R545). -/
  | tenancyRelease (r : MgmtReq)
  /-- DEBUG_LOCK (R549). -/
  | debugLock (r : MgmtReq) (open_ : Bool)
  /-- SPDM_REQUEST (R542): the measurement blocks asked for. -/
  | spdmRequest (firstBlock lastBlock : BitVec 8) (nonce : List Byte)
  /-- IDE_KM (R544): the stream (0 the link stream, 1 to 8 the selective streams) whose key is installed. -/
  | ideKm (stream : BitVec 4) (secure : Bool)
  /-- IDE_STATE (R548): the stream leaves Secure state. -/
  | ideState (stream : BitVec 4)
  -- ### Power, clocks and supply
  /-- POWER_ON (R561). -/
  | powerOn
  /-- DEV_RESET_N (R557): the length of the low pulse in ns. -/
  | devResetN (lowNs : Nat)
  /-- FLASH_WP_ASSERT (R563). -/
  | flashWpAssert
  /-- POWER_UP (R565): MGMT_MODE and TEST_MODE as sampled, and the PUF response. -/
  | powerUp (mgmtMode : BitVec 2) (testMode : Bool) (puf : List Byte)
  /-- CLOCK_LOSS (R558). -/
  | clockLoss
  /-- REFCLK156_LOSS (R558). -/
  | refclk156Loss
  /-- PCIE_REFCLK_LOSS (R558). -/
  | pcieRefclkLoss
  /-- BRAKE_ENTER (R587): the rail and its lowest reading in mV. -/
  | brakeEnter (rail : BitVec 3) (mv : Nat)
  /-- BRAKE_EXIT (R587): the duration in µs. -/
  | brakeExit (durationUs : Nat)
  /-- SUPPLY_RESET (R561). -/
  | supplyReset (rail : BitVec 3)
  /-- POWER_INTERVAL (R583): the mean power of the interval in W. -/
  | powerInterval (p : Nat)
  /-- NODE_TEMP_READ (R584): the 32 node-die readings in °C, and whether the hottest stayed below 90 °C for 1 ms. -/
  | nodeTempRead (temps : List Int) (coolMs : Bool)
  /-- BEGIN (R570): the image length. The reserved field of this word and of the next four rows' is that of the word that the mailbox holds. -/
  | begin_ (len : BitVec 32)
  /-- CHUNK (R570): LEN and the image offset; what the loader parses once the manifest is complete. -/
  | chunk (len : BitVec 21) (offset : BitVec 32) (manifest : Option Manifest)
  /-- END (R570). -/
  | end_
  /-- ABORT (R570). -/
  | abort
  /-- PING (R573): the mailbox and the value. -/
  | ping (mailbox : BitVec 3) (value : BitVec 32)
  /-- LOADER_IDLE_TIMEOUT (R570). -/
  | loaderIdleTimeout
  /-- FIRMWARE_LOAD_WINDOW (R566). -/
  | firmwareLoadWindow (offset : BitVec 20) (bytes : List Byte)
  /-- EYE_SCAN (R592). -/
  | eyeScan (lane : BitVec 5) (width height : Nat)
  /-- HBM_MARGIN_SCAN (R592). -/
  | hbmMarginScan (stack : BitVec 3) (pc : BitVec 5) (setup hold : Nat)
  /-- DROOP_WINDOW (R592). -/
  | droopWindow (rail : BitVec 3) (lowestMv : Nat)
  /-- OPTICS_POLL (R592). -/
  | opticsPoll (port : BitVec 5) (isPresent : Bool) (rx tx : List Nat) (temp : Int) (rxLowWarning : Nat)
  /-- SEQUENCE_RECORD_ARRIVAL (R41). -/
  | sequenceRecordArrival (h : PeerHdr) (rec : SeqImage)
  /-- PCIE_REFCLK_RETURN (R558). -/
  | pcieRefclkReturn
  /-- POWER_GATE (R560): control core `i` (or, with `engines`, the engines of core `i`). -/
  | powerGate (engines : Bool) (core : BitVec 4)
  /-- SYNC_SET_STATUS (R524). -/
  | syncSetStatus
deriving DecidableEq, Repr

end Sys2Proof
end

