-- ==== Sys2Proof/Decode.lean ====
section
/-! DEFINITION. The decoder over the rows of the table that give bits: there are none. The node has no instruction words; its
commands are messages, register accesses and events, and the table gives no row a bit pattern. The one command word that the
spec lays out, that of a runner (R148, R149), is read and written here. -/

namespace Sys2Proof

/-- The command that a word of the table's bits spells: none, for no row of the table gives bits. -/
def decodeTableWord (_nbits _w : Nat) : Option Instr := none

/-! ## Runner commands (R148, R149) -/

/-- The opcode of a runner word, bits [127:124]. -/
def rnOpcode (w : BitVec 128) : BitVec 4 := w.extractLsb' 124 4

/-- The fields of a runner word (R148). -/
def readRnWord (w : BitVec 128) : RnCmd where
  pc := w.extractLsb' 119 5
  sid := w.extractLsb' 117 2
  bg := w.extractLsb' 115 2
  ba := w.extractLsb' 113 2
  row := w.extractLsb' 98 15
  colFirst := w.extractLsb' 94 4
  colLast := w.extractLsb' 90 4
  pageRow := w.extractLsb' 84 6
  rsv := w.extractLsb' 64 20
  ctx := w.extractLsb' 63 1
  wide := w.getLsbD 62
  qrows := w.extractLsb' 58 4
  format := w.extractLsb' 54 4
  headDim := w.extractLsb' 51 3
  slotLimit := w.extractLsb' 42 9
  seqTag := w.extractLsb' 34 8
  scoreFmt := w.extractLsb' 32 2
  arg := w.extractLsb' 0 32
  regs := []

/-- The word of a runner command (R148): its fields from bit 127 down. -/
def rnWordOf (op : BitVec 4) (k : RnCmd) : BitVec 128 :=
  op ++ k.pc ++ k.sid ++ k.bg ++ k.ba ++ k.row ++ k.colFirst ++ k.colLast ++ k.pageRow ++ k.rsv
    ++ k.ctx ++ BitVec.ofBool k.wide ++ k.qrows ++ k.format ++ k.headDim ++ k.slotLimit ++ k.seqTag ++ k.scoreFmt ++ k.arg

/-- The command that a word issued to the runners of a stack spells (R149); none for the reserved opcodes. RN_QLOAD's rows come over the
data lanes, and the upsets are what the command meets. -/
def decodeRnWord (stack : BitVec 3) (w : BitVec 128) (rows : List (List (BitVec 32))) (u : Upsets) : Option Instr :=
  let k := readRnWord w
  match (rnOpcode w).toNat with
  | 0 => some (.rnNop stack k)
  | 1 => some (.rnQload stack { k with regs := u.regs } rows)
  | 2 => some (.rnScale stack k u)
  | 3 => some (.rnScore stack k u)
  | 4 => some (.rnWload stack { k with regs := u.regs })
  | 5 => some (.rnWeigh stack k u)
  | 6 => some (.rnDrain stack { k with regs := u.regs })
  | 7 => some (.rnFill stack k u)
  | 8 => some (.rnCopy stack k u)
  | 9 => some (.rnScrub stack k u)
  | 10 => some (.rnAbort stack k)
  | 11 => some (.rnStatus stack k)
  | _ => none

end Sys2Proof
end

