-- ==== Sys2Proof/Config.lean ====
section
/-! DEFINITION. What the manual leaves open: values that an implementation, its firmware or its random sources supply. Every
constant is opaque, so that nothing can be proved of the value it takes. The argument `tick` is the state's count of free
values taken, so that each taking may give another value. -/

namespace Sys2Proof.Config

/-- A free number: a choice of firmware policy or an unstated value. -/
opaque freeNat (tick : Nat) : Nat

/-- What an aperture read of a byte with no stated content returns (R437). -/
opaque unspecifiedByte (tick addr : Nat) : Byte

/-- The node's estimate of a wait in microseconds (R125, R446). -/
opaque waitEstimate (tick : Nat) : Nat

/-- A binary32 value that lies anywhere its rule allows (exponentials, R231); the salt tells apart the values of one step. -/
opaque freeF32 (tick salt : Nat) : BitVec 32

/-- A value that lies anywhere its rule allows, with no less precision than binary32 (run sums, R193). -/
opaque freeRat (tick salt : Nat) : Rat

/-- The plaintext byte that a read returns at an address whose codeword has been corrected to another codeword (R293, R140): what decryption
under the keys makes of that codeword, from the error pattern and the plaintext of the 16-byte block; the same on every read of them. -/
opaque miscorrected (pattern : List (Nat × Byte)) (keys : List Byte) (block : List (Option Byte)) (addr : Nat) : Byte

/-- Whether the board connects the two FAB lane pairs of a lane (R600). -/
opaque laneUsed (lane : Nat) : Bool

/-- The MAC address of a port, which nothing in the manual gives. -/
opaque portMac (port : Nat) : BitVec 48

/-- The interface identifier of a port's link-local address (R368). -/
opaque portInterface (port : Nat) : BitVec 64

/-- The UDP destination port of a HELLO while DREASKAK_UDP_PORT is unset (R337). -/
opaque helloPort : BitVec 16

/-- The MSN field of a KEY_AGREE packet: R339 gives the field a value for every other type alone. -/
opaque keyAgreeMsn (step : Nat) : BitVec 24

/-- The layout of a PEER message's body, of which the manual names the content alone (R392): its operation and its fields in order. -/
opaque peerLayout (op : Nat) (fields : List (List Byte)) : List Byte

/-- The operation code of a message between nodes for which R392 lists none: creating a span, reporting its fill, and holding and installing a
smoothing vector. -/
opaque peerCode (which : Nat) : Byte

/-- The geometry that a handle's sequence record has at a home of which this node has been told nothing, as a word (entry 120). -/
opaque homeGeometry (handle : BitVec 64) : BitVec 64

/-- Aqond's vendor identifier, which PCI-SIG assigned (R431). -/
opaque pciVendor : BitVec 16

/-- Which queue pair of a peer carries what the node sends of its own accord: a constant of the pair of endpoints. -/
opaque ownQp (vnode peer : Nat) : Nat

/-- A choice in an order that is not fixed (R220, R234): the `salt`-th choice of a step. -/
opaque freeOrder (tick salt : Nat) : Nat

/-- What the 10-bit ROWS_M1 of a status-only record holds for a descriptor of more than 1,024 rows (R174, R228). -/
opaque rowsField (rows : Nat) : BitVec 10

/-- Random bytes of the base dies' and the node's random sources. -/
opaque randomBytes (tick n : Nat) : List Byte

/-! ## What final test fixes in the part (R538, R539, R541) -/

/-- The 128 bytes of the provenance record. -/
opaque provenance : List Byte

/-- The helper data of the PUF. -/
opaque pufHelper : List Byte

/-- The device certificate chain. -/
opaque deviceChain : List Byte

/-- The public key of the device certificate. -/
opaque deviceKey : List Byte

/-- The four digests of Aqond's root keys in the mask boot ROM, and the digest of the mask boot ROM itself. -/
opaque romRoots : List (List Byte)

/-- The digest of the mask boot ROM. -/
opaque romDigest : List Byte

/-! ## Cryptography whose results the manual names by its standards alone -/

/-- The 256-bit seed that a PUF response and the helper data give, where they give one (R540). -/
opaque pufSeed (response helper : List Byte) : Option (List Byte)

/-- The SLH-DSA-SHA2-128s public key of 48 bytes of key material (R540). -/
opaque slhPublic (material : List Byte) : List Byte

/-- An SLH-DSA-SHA2-128s signature. -/
opaque slhSign (seed context message : List Byte) : List Byte

/-- Whether a signature verifies under a public key. -/
opaque slhVerify (key message signature : List Byte) : Bool

/-- Whether the certificates of a chain sign one another up to its end key. -/
opaque chainVerifies (chain : List Byte) : Bool

/-- An ML-KEM-768 key pair from random bytes: encapsulation key and decapsulation key. -/
opaque kemKeys (random : List Byte) : List Byte × List Byte

/-- An ML-KEM-768 encapsulation: ciphertext and shared secret. -/
opaque kemEncap (ek random : List Byte) : List Byte × List Byte

/-- An ML-KEM-768 decapsulation. -/
opaque kemDecap (dk ciphertext : List Byte) : List Byte

/-- GCM-AES-XPN-256 (R364): from key, salt, short channel identifier, packet number, what is authenticated alone and what is encrypted too, the
ciphertext and the 16 bytes of the check value behind it. -/
opaque gcmSeal (key salt : List Byte) (ssci : BitVec 32) (pn : BitVec 64) (auth plain : List Byte) : List Byte

end Sys2Proof.Config
end

