-- ==== Sys2Proof/Machine/Bytes.lean ====
section
/-! DEFINITION. Byte strings: the byte orders of R7 and R8, words built from fields, and padding. -/

namespace Sys2Proof.Machine

/-- `n` bytes of a number, least significant first (R7). -/
def leBytes (n v : Nat) : List Byte :=
  match n with
  | 0 => []
  | k + 1 => BitVec.ofNat 8 v :: leBytes k (v / 256)

/-- `n` bytes of a number, most significant first (R8). -/
def beBytes (n v : Nat) : List Byte := (leBytes n v).reverse

/-- The number that little-endian bytes spell. -/
def leNat : List Byte → Nat
  | [] => 0
  | b :: r => b.toNat + 256 * leNat r

/-- The number that big-endian bytes spell. -/
def beNat (bs : List Byte) : Nat := bs.foldl (fun acc b => acc * 256 + b.toNat) 0

/-- The `n` bytes from an offset; fewer where the string ends. -/
def bytesAt (bs : List Byte) (off n : Nat) : List Byte := (bs.drop off).take n

/-- Little-endian 64-bit word `i` of a structure (R7). -/
def wordAt (bs : List Byte) (i : Nat) : Nat := leNat (bytesAt bs (8 * i) 8)

/-- Bits [hi:lo] of a number. -/
def bitsOf (v hi lo : Nat) : Nat := (v / 2 ^ lo) % 2 ^ (hi + 1 - lo)

/-- Bit `i` of a number. -/
def bitOf (v i : Nat) : Bool := (v / 2 ^ i) % 2 == 1

/-- A Bool as a bit. -/
def b2n (b : Bool) : Nat := if b then 1 else 0

/-- A word from fields, each with the place of its least significant bit. -/
def word (fs : List (Nat × Nat)) : Nat := fs.foldl (fun acc f => acc + f.2 * 2 ^ f.1) 0

/-- A structure of 64-bit little-endian words. -/
def words64 (ws : List Nat) : List Byte := ws.flatMap (leBytes 8)

/-- Zero bytes. -/
def zeros (n : Nat) : List Byte := List.replicate n 0

/-- A string padded with zeros, or cut, to a length. -/
def padTo (n : Nat) (bs : List Byte) : List Byte := (bs ++ zeros (n - bs.length)).take n

/-- A string padded with zeros to a multiple of `m`. -/
def padMul (m : Nat) (bs : List Byte) : List Byte := bs ++ zeros ((m - bs.length % m) % m)

/-- The bytes of a WRITE put into a record that is being received (R362). -/
def putBytes (buf : List Byte) (off : Nat) (bs : List Byte) : List Byte := padTo off buf ++ bs ++ buf.drop (off + bs.length)

/-- Whether all of the bytes are zero. -/
def allZero (bs : List Byte) : Bool := bs.all (· == 0)

/-- The quotient rounded up. -/
def ceilDiv (a b : Nat) : Nat := (a + b - 1) / b

/-- Consecutive chunks of `n` elements; `fuel` bounds their number. -/
def chunksFuel {α : Type} (fuel n : Nat) (xs : List α) : List (List α) :=
  match fuel with
  | 0 => []
  | k + 1 => if xs.isEmpty then [] else xs.take n :: chunksFuel k n (xs.drop n)

/-- Consecutive chunks of `n` elements, the last perhaps shorter. -/
def chunks {α : Type} (n : Nat) (xs : List α) : List (List α) := chunksFuel xs.length n xs

end Sys2Proof.Machine
end

