-- ==== Sys2Proof/Machine/Tbl.lean ====
section
/-! DEFINITION. Sparse tables: a list of keys and values in which a key that is absent stands at the table's default. -/

namespace Sys2Proof.Machine

/-- A sparse table. -/
abbrev Tbl (κ α : Type) := List (κ × α)

/-- The value listed for a key. -/
def Tbl.at? {κ α : Type} [DecidableEq κ] (t : Tbl κ α) (k : κ) : Option α :=
  match t with
  | [] => none
  | (k', v) :: r => if k' = k then some v else Tbl.at? r k

/-- The value at a key, or the default. -/
def Tbl.atD {κ α : Type} [DecidableEq κ] (t : Tbl κ α) (k : κ) (d : α) : α :=
  match t with
  | [] => d
  | (k', v) :: r => if k' = k then v else Tbl.atD r k d

/-- Whether a key is listed. -/
def Tbl.has {κ α : Type} [DecidableEq κ] (t : Tbl κ α) (k : κ) : Bool :=
  match t with
  | [] => false
  | (k', _) :: r => if k' = k then true else Tbl.has r k

/-- Put a value at a key, in place where it is listed and at the end otherwise. -/
def Tbl.put {κ α : Type} [DecidableEq κ] (t : Tbl κ α) (k : κ) (v : α) : Tbl κ α :=
  match t with
  | [] => [(k, v)]
  | (k', v') :: r => if k' = k then (k, v) :: r else (k', v') :: Tbl.put r k v

/-- Take a key out. -/
def Tbl.del {κ α : Type} [DecidableEq κ] (t : Tbl κ α) (k : κ) : Tbl κ α :=
  t.filter (fun p => p.1 ≠ k)

/-- Change the value at a key, from the default where it is not listed. -/
def Tbl.upd {κ α : Type} [DecidableEq κ] (t : Tbl κ α) (k : κ) (d : α) (f : α → α) : Tbl κ α :=
  t.put k (f (t.atD k d))

/-- The values listed. -/
def Tbl.vals {κ α : Type} (t : Tbl κ α) : List α := t.map Prod.snd

/-- The keys listed. -/
def Tbl.keys {κ α : Type} (t : Tbl κ α) : List κ := t.map Prod.fst

/-- Insert into a list ordered by `le`, after its equals. -/
def insertBy {α : Type} (le : α → α → Bool) (x : α) : List α → List α
  | [] => [x]
  | y :: r => if le y x then y :: insertBy le x r else x :: y :: r

/-- A list in the order of `le`, equals kept in their order. -/
def sortBy {α : Type} (le : α → α → Bool) (xs : List α) : List α :=
  xs.foldl (fun acc x => insertBy le x acc) []

/-- The first number below `n` that satisfies `p`. -/
def firstBelow (n : Nat) (p : Nat → Bool) : Option Nat := (List.range n).find? p

end Sys2Proof.Machine
end

