-- ==== Sys2Proof/Machine/State.lean ====
section
/-! DEFINITION. The state of the node: every register, table, queue, buffer and mode that the manual gives it, as plain data,
and the state after device reset. -/

namespace Sys2Proof.Machine

/-! ## Outcomes -/

/-- Why a step stops. -/
inductive Fault where
  /-- A runner command whose encoding R148 or R149 says is never issued (a reserved opcode field, COL_LAST below COL_FIRST,
  SCORE_FMT 2 or 3, an address outside the ranges of R135): raised by the RN rows. Safe: the part never meets it. -/
  | runnerEncoding (opcode : Nat)
deriving DecidableEq, Repr

/-- Why a command has no meaning here. -/
inductive Refusal where
  /-- The command's meaning is not written yet: raised by the dispatch alone. Safe. -/
  | notModelled (mnemonic : String)
deriving DecidableEq, Repr

/-! ## Counters and knobs -/

/-- The counters, in the order of the tables of their groups (R490). Levels are computed when read. -/
inductive Counter where
  | genWraps | dirFalseHits | dirShadowUe | dirScrubFixes | dirTransientMisses | spanPlaceFails
  | appendRows | appendRepeats | appendRepeatsUncompared | appendConflicts | appendNonfinite | pagesSealed | spareTakes
  | growLowWarnings | noSpaceRefusals | cowCopies
  | runnerSteps | refSplits | refPostponed | runnerCe | runnerUe | runnerRegCe | runnerRegUe | stackLinkResends
  | throttleL1Us | throttleL2Us | throttleL3Us
  | attnDescriptors | attnInStack | attnDie | attnPagesDieServed | attnSegmented | attnAdmitRetries | attnOverflows
  | dsFirstUse | dsSatRetries | dsLowresRetries | dsLowresFlags | maskStepsSkipped
  | rowsAbsorbed | segmentsRun | mergeCommands | mergeInputs | fanoutDescriptors | fanoutSubqueries | fanoutFailures
  | checksLight | checksFull | checkFails | homeChecks | certDirectPages | readVerifyPages | digestMismatches
  | replicaRepairs | replicaDivergentPages | pagesPoisoned
  | hbmCe | hbmUe | hbmAddrErr | linkCe | linkUe | scrubCe | scrubUe | sramCe | sramUe | pagesLost
  | pagesPacked | pagesDemoted | pagesPromoted | promoteRetryAnswers | promoteBypass | flashVerifyFails
  | flashRelocations | flashBadBlocks | codecStale
  | framesDropped | pktMalformed | dupPackets | outOfWindow | retransmits | rnrDrops | msgRejects | writeRejects
  | repliesDiscarded | qpErrors | entropySuspends | macsecIcvFail | macsecReplay | macsecNoSa | rekeys | fwdPackets
  | fwdNoRoute | staleMapAnswers | fencedAnswers | movedAnswers | fecCwCorrected | fecCwUncorrected
  | soloAppends | mirrorRetries | peerDrops | pagesCoded | pagesRebuiltCode | pagesSpareCopied | spansTakenOver
  | lostEntries | handoffsCommitted | handoffsInDoubt
  | commandsAdmitted | ringErrors | doorbellDrops | recordsDiscarded | dmaErrors | mailboxOverruns | mailboxAborts
  | apertureRefusals | eventsDropped
  | syncSignals | syncReleases | syncTimeouts | eventOverruns | barrierPhases | barrierRefusals | signalsDropped
  | waiterTableFull | treeRejects | treeFailures | syncObjUe | syncSetWrites | syncSetRefused | syncFreezes
  | sessionsOpened | sessionsRefused | attestReports | hostDataDenials | anchorRefusals
  | brakeEntries | brakeUs | flashOpsHeld | capStepsDown | capUnmetIntervals | thermalStepsDown | marginLowEvents
deriving DecidableEq, Repr

/-- The knobs of R576, in the order of their identifiers; DREASKAK_UDP_PORT has no default. -/
structure Knobs where
  hbmCodeMode : Nat
  checkCoverage : Nat
  mirrorDefault : Nat
  scoreFormat : Nat
  dsRetryPolicy : Nat
  scrubIntervalH : Nat
  powerCapW : Nat
  dispatchThreshold : Nat
  dirWaitNs : Nat
  holeInterval : Nat
  tombstoneLife : Nat
  dsHistory : Nat
  mpRequestMaxKib : Nat
  attnAdmitWaitUs : Nat
  fanoutWaitUs : Nat
  twinVerifyWaitMs : Nat
  normalWaitNs : Nat
  stackPowerLimitW : Nat
  compressStartPct : Nat
  demoteStartPct : Nat
  demoteStopPct : Nat
  demoteMinAgeMs : Nat
  promoteStallUs : Nat
  pinMaxPct : Nat
  readDisturbLimit : Nat
  wearSpread : Nat
  drainWindowUs : Nat
  reasmQpMaxKib : Nat
  hbIntervalUs : Nat
  hbMissLimit : Nat
  twinAckWaitUs : Nat
  mirrorLagTokens : Nat
  codeStripeWaitMs : Nat
  ownWaitMs : Nat
  eyeScanS : Nat
  hbmMarginS : Nat
  fabricPortMode : Nat
  fabricVlan : Nat
  dreaskakUdpPort : Option Nat
  sliceMode : Nat
  holdupMs : Nat
deriving DecidableEq, Repr

/-- The defaults, with the profile knobs of Brass (R32, R33). -/
def Knobs.default : Knobs where
  hbmCodeMode := 0
  checkCoverage := 1
  mirrorDefault := 1
  scoreFormat := 1
  dsRetryPolicy := 0
  scrubIntervalH := 12
  powerCapW := 850
  dispatchThreshold := 16
  dirWaitNs := 2000
  holeInterval := 8
  tombstoneLife := 60
  dsHistory := 4
  mpRequestMaxKib := 8192
  attnAdmitWaitUs := 200
  fanoutWaitUs := 2000
  twinVerifyWaitMs := 1000
  normalWaitNs := 500
  stackPowerLimitW := 35
  compressStartPct := 6
  demoteStartPct := 2
  demoteStopPct := 3
  demoteMinAgeMs := 100
  promoteStallUs := 20
  pinMaxPct := 50
  readDisturbLimit := 200000
  wearSpread := 1000
  drainWindowUs := 2000
  reasmQpMaxKib := 4096
  hbIntervalUs := 100
  hbMissLimit := 5
  twinAckWaitUs := 500
  mirrorLagTokens := 256
  codeStripeWaitMs := 10
  ownWaitMs := 100
  eyeScanS := 60
  hbmMarginS := 600
  fabricPortMode := 0
  fabricVlan := 0
  dreaskakUdpPort := none
  sliceMode := 0
  holdupMs := 15

/-! ## Replies and what leaves the node -/

/-- What a command answers: the fields of the status reply (R446, R447) that its own rule decides, and its result. -/
structure Reply where
  status : Status
  detail : BitVec 16 := 0
  node : Option NodeId := none
  hint : Nat := 0
  r0 : BitVec 64 := 0
  r1 : BitVec 64 := 0
  result : List Byte := []
deriving DecidableEq, Repr

/-- The body of a PEER message that the node sends (R392). -/
inductive PeerBody where
  | pairPropose (role : BitVec 2)
  | pairConfirm (role : BitVec 2)
  | mirrorRecord (rec : RecordImage ⊕ SeqImage)
  | mirrorRows (rows : List RowsImage)
  | mirrorSeal (layer head page : Nat) (digest : List Byte)
  | mirrorRelease (pages : Option (List (Nat × Nat × Nat)))
  | verifyReq (layer head page : Nat) (digest hash : List Byte)
  | verifyResp (layer head page : Nat) (digest : List Byte) (hash : Option (List Byte)) (content : List Byte)
  | codeContrib (stripe slot : Nat) (fragment : List Byte)
  | codeNull (stripe slot : Nat)
  | copyManifest (spans : List (Handle × SpanIx))
  | copyRecord (rec : RecordImage)
  | copyPage (layer head page : Nat) (isSealed : Bool) (content : List Byte)
  | copyRows (rows : List RowsImage)
  | copyDone
  | homeUpdate
  | seqClose
  | peerAck (status : Status) (fill : Nat)
  | spanCreate (geo : Geometry) (smooth : List (Nat × Nat × List (BitVec 32))) (highest : Bool)
  | fillReport
  | smoothHold (layer head : Nat)
  | smoothInstall (layer head : Nat) (sigma : Option (List (BitVec 32)))
deriving DecidableEq, Repr

/-- A PEER message to be sent (R391). -/
structure PeerMsg where
  vnode : VId
  dest : NodeId
  twinLink : Bool
  pairEpoch : BitVec 32
  fenceEpoch : BitVec 64
  handle : Handle
  span : SpanIx
  tag : BitVec 32
  body : PeerBody
deriving DecidableEq, Repr

/-- How an aperture or region read ends (R437, R438). -/
inductive Completion where
  | data (bytes : List Byte)
  | unsupportedRequest
  | completerAbort
deriving DecidableEq, Repr

/-- What the node emits: replies and messages on the fabric, writes to host memory, interrupts, answers to register reads, and
management answers, in the order of their emission. -/
inductive Output where
  /-- A WRITE reply (R363): queue pair, its peer, the address and key of the request, and the bytes; REPLY_NODE in AUX. -/
  | writeReply (v : VId) (qpn : BitVec 12) (dest : NodeId) (addr : BitVec 64) (key : BitVec 32) (replyNode : NodeId)
      (mapEpoch : BitVec 16) (bytes : List Byte)
  /-- A result record (R475): ring, index, status reply, result, and the completion word's phase, submission ring and tag. -/
  | record (ring : BitVec 9) (index : BitVec 32) (reply result : List Byte) (phase : Bool) (submit : BitVec 9) (tag : BitVec 32)
  /-- A shadow consumer index written to host memory (R472). -/
  | shadow (ring : BitVec 9) (addr : BitVec 64) (index : BitVec 32)
  /-- An MSI-X message (R439). -/
  | msix (vector : Nat)
  /-- The answer of a register read. -/
  | regRead (value : BitVec 64)
  /-- A read of PEEK_REPLY (R478). -/
  | peekReply (ring : BitVec 9) (reply : List Byte)
  /-- The end of an aperture read (R437, R438). -/
  | aperture (c : Completion)
  /-- A PEER message (R391), and the same message sent again. This and the other messages stand for what the node hands to a queue pair, whose
  packets leave as `dataPkt`. -/
  | peer (m : PeerMsg)
  /-- A COMMAND message that the node sends (R422): opcode, HANDOFF_ID or other parameters as bytes. -/
  | command (v : VId) (dest : NodeId) (opcode : BitVec 16) (tag : BitVec 32) (params : List Byte)
  /-- A tree message (R515) on a local queue pair. -/
  | tree (release : Bool) (qpn : BitVec 12) (dest : NodeId) (index fromIndex : BitVec 14) (phase : BitVec 48)
  /-- A heartbeat (R407): its path, the port it leaves on and its frame. -/
  | heartbeat (v : VId) (dest : NodeId) (twinLink : Bool) (p : HeartbeatPayload) (port : BitVec 5) (frame : List Byte)
  /-- A QUERY message that the node sends for a fan-out (R245), under its current map epoch. -/
  | subQuery (v : VId) (dest : NodeId) (mapEpoch : BitVec 16) (tag : BitVec 32) (key : BitVec 32) (addr : BitVec 64) (stride : Nat) (payload : List Byte)
  /-- A READ_REQ or READ_RESP message (R342). -/
  | readReq (v : VId) (dest : NodeId) (addr : BitVec 64) (len : Nat) (key : BitVec 32)
  | readResp (v : VId) (qpn : BitVec 12) (dest : NodeId) (addr : BitVec 64) (key : BitVec 32) (bytes : List Byte)
  /-- An ACK packet (R349) on a port, with its frame. -/
  | ackPkt (port : BitVec 5) (p : AckPkt) (frame : List Byte)
  /-- A DATA packet of a queue pair sent on a port, for the first time or again (R348, R351, R355), with its frame. -/
  | dataPkt (port : BitVec 5) (qpn : BitVec 12) (p : DataPkt) (again : Bool) (frame : List Byte)
  /-- A HELLO packet (R368). -/
  | hello (port : BitVec 5) (p : HelloPayload) (frame : List Byte)
  /-- A frame forwarded unchanged on a port (R371). -/
  | forward (port : BitVec 5) (frame : List Byte)
  /-- A packet of a key agreement message (R365): port, peer, step 1 to 3 and frame. -/
  | keyAgree (port : BitVec 5) (v : VId) (peer : NodeId) (an : BitVec 2) (step : Nat) (frame : List Byte)
  /-- A management answer (R536): session, tag, status and body. -/
  | mgmt (session : BitVec 2) (tag : BitVec 64) (status : Nat) (body : List Byte)
  /-- SESSION_ACCEPT (R533) or its refusal. -/
  | sessionAccept (session : Nat) (role : Nat) (body : List Byte)
  | sessionRefused
  | sessionClosed (session : BitVec 2)
  /-- An SPDM answer (R542). -/
  | spdm (body : List Byte)
  /-- An I3C in-band interrupt or THERMTRIP_N and other output pins (R531, R603). -/
  | ibi
  | pin (name : String) (high : Bool)
  /-- A mailbox notice to the firmware of a control core: empty, aborted or wake (R481). -/
  | coreNotice (core : Nat) (kind : Nat)
  /-- What runner commands and drains send over the stack interface (R149, R151). -/
  | runnerStatus (stack : BitVec 3) (pc : BitVec 5) (word : BitVec 64)
  | runnerDrain (stack : BitVec 3) (pc : BitVec 5) (ctx : BitVec 1) (rows : List (List (BitVec 32)))
deriving DecidableEq, Repr

/-! ## The event log (R485–R487) -/

/-- An event record: its payload is the fields its rule names, each with its logged width. -/
structure Event where
  seq : Nat
  code : Nat
  source : Nat
  severity : Nat
  node : NodeId
  timeNs : Nat
  droppedBefore : Nat
  payload : List (Nat × Nat)
deriving DecidableEq, Repr

/-- The log and the state of the host-visible event registers. -/
structure Log where
  events : List Event
  nextSeq : Nat
  /-- Records discarded since the previous record was stored. -/
  dropped : Nat
  /-- UPTIME_NS of the last APERTURE_DENIED record (R438). -/
  lastApertureDenied : Option Nat
  /-- UPTIME_NS of the last SPAN_PLACE_FAIL record of a span (R47). -/
  lastPlaceFail : Tbl (Handle × Nat) Nat
deriving DecidableEq, Repr

/-! ## HBM -/

/-- HBM as software may see it: the plaintext bytes of the node's physical space (R437). `cells` lists the bytes that differ
from what an unlisted address reads as; `cleared` lists the base addresses of the frames that RN_FILL has cleared since the
key last changed, strictly rising: in them an unlisted byte is zero. Elsewhere an unlisted byte was never written. -/
structure Memory where
  cells : List Host.Cell
  cleared : List Nat
deriving DecidableEq, Repr

/-- Bytes in a frame (R50). -/
def frameBytes : Nat := 36864
/-- Frames in a pseudo-channel (R51). -/
def framesPerPc : Nat := 56661
/-- Bytes of a pseudo-channel. -/
def pcBytes : Nat := 2 ^ 31
/-- Bytes of the physical space of the eight stacks (R437). -/
def hbmBytes : Nat := 8 * 2 ^ 36

/-- The base address of the frame that holds an address, where one does (R50, R51). -/
def frameBaseOf (a : Nat) : Option Nat :=
  let o := a % pcBytes
  if o < framesPerPc * frameBytes then some (a - o % frameBytes) else none

/-- What an unlisted address reads as: zero in a cleared frame, and nothing where no write has been. -/
def Memory.unlisted (m : Memory) (a : Nat) : Option Byte :=
  match frameBaseOf a with
  | some b => if b ∈ m.cleared then some 0 else none
  | none => none

/-- Strictly rising keys. -/
def strictlyRising : List Nat → Bool
  | [] => true
  | [_] => true
  | a :: b :: r => decide (a < b) && strictlyRising (b :: r)

/-- The canonical form: both lists strictly rising, and no cell equal to what its address reads as unlisted. -/
def Memory.wf (m : Memory) : Bool :=
  strictlyRising (m.cells.map Prod.fst) && strictlyRising m.cleared
    && m.cells.all (fun c => decide (m.unlisted c.1 ≠ some c.2))

/-! ## Frames and records -/

/-- Frame states (R63). -/
inductive FrameState where
  | free | spare | open_ | sealed | poisoned | quarantined | draining
deriving DecidableEq, Repr

/-- What a frame is allocated for. -/
inductive FrameUse where
  | none | data | map | mask | pack | parity | fragment | withheld
deriving DecidableEq, Repr

/-- Where an append descriptor came from: a sluice message, or KV.APPEND. -/
inductive AppendSrc where
  | msg (m : Msg)
  | cmd (c : Cmd)
deriving DecidableEq, Repr

/-- A data request that may still read what has been released (R49, R64, R289): a query, or an append that is held or waits for its twin. -/
inductive Holder where
  | query (id : Nat)
  | append (src : AppendSrc)
deriving DecidableEq, Repr

/-- The frame-state table's entry (R51, R64, R129): reference count, and the requests admitted before a release
(the reader drain mark). `ue` lists the page-local rows that held an uncorrectable codeword (R297). -/
structure Frame where
  state : FrameState
  gen : BitVec 32
  use : FrameUse
  refs : Nat
  readers : List Holder
  ue : List Nat
  vnode : VId
deriving DecidableEq, Repr

/-- A frame as after device reset (R65). -/
def Frame.reset : Frame := ⟨.free, 0, .none, 0, [], [], 0⟩

/-- Why a page is POISONED (R281). -/
inductive Poison where
  | digest | divergent
deriving DecidableEq, Repr

/-- Where a page lies (R287): a frame, an image in a pack frame, an image in flash, a coded stripe alone, or lost. -/
inductive PageLoc where
  | frame (f : FrameId) (gen : BitVec 32)
  | packed (image : Nat)
  | flash (image : Nat)
  | rebuild
  | notCopied
  | lost
deriving DecidableEq, Repr

/-- A page-map entry of a span record, with the record's digest and seal epoch once sealed. -/
structure Page where
  loc : PageLoc
  isSealed : Bool
  digest : List Byte
  sealEpoch : BitVec 32
  poison : Option Poison
  pinned : Bool
  /-- Code set, stripe and slot of a page in a complete stripe (R403). -/
  coded : Option (BitVec 16 × Nat × Nat)
  /-- UPTIME_NS of the last read or promotion (R303). -/
  lastRead : Nat
  /-- The page was mirrored to the twin and its seal sent. -/
  mirrored : Bool
  /-- The handle of the shared record that a member shares the page with: its header carries that handle and ALIAS_SHARED = 1
  (R126, R127). -/
  sharedOf : Option Handle
deriving DecidableEq, Repr

/-- A span record, held in a map frame (R63, *Spans*). -/
structure SpanRec where
  vnode : VId
  handle : Handle
  span : Nat
  geo : Geometry
  /-- The prefix record of an alias (R126). -/
  shared : Bool
  /-- The twin's copy of a span (R400), or a copy being received in a bring-in or handoff. -/
  copy : Bool
  /-- The record has arrived (R417): a manifest entry whose record has not arrived holds none of its pages. -/
  arrived : Bool
  /-- Published fill point of each layer and head (R100, R104). -/
  fills : Tbl (Nat × Nat) Nat
  /-- Rows that the twin has acknowledged, of each layer and head (R397). -/
  acked : Tbl (Nat × Nat) Nat
  /-- Smoothing vectors (R111). -/
  smooth : Tbl (Nat × Nat) (List (BitVec 32))
  /-- The page map, by layer, head and page index. -/
  pages : Tbl (Nat × Nat × Nat) Page
  /-- The pseudo-channels that the present round of 256 has used, of each layer and head (R52). -/
  rounds : Tbl (Nat × Nat) (List Nat)
  /-- The spare frame held (R121). -/
  spare : Option FrameId
  /-- A replacement spare is owed (R123), by the order in which the spares were taken. -/
  spareOwed : Option Nat
  /-- The report of R45 has been sent (R105). -/
  reported : Bool
  /-- SEQ_CLOSE has stopped admission (R49). -/
  closing : Bool
  /-- The span could not be held or rebuilt (R415, kind SPAN). -/
  lostSpan : Bool
  /-- Its mask set was lost (R415, kind MASKS), and queries follow R296. -/
  maskLost : Bool
  /-- A higher span of the sequence has been assigned (R121). -/
  passed : Bool
  /-- The span has moved away or closed, and the record stays only until its directory entry is out (R88). -/
  leaving : Bool
  /-- Of a shared record: MEMBER_MASK and PRIORITY of its alias (R453), from which R79 rebuilds the PREFIX_ALIAS entry. -/
  aliasOf : Option (BitVec 20 × Byte)
deriving DecidableEq, Repr

/-- A sequence record, held on the home node in a map frame. -/
structure SeqRec where
  vnode : VId
  handle : Handle
  geo : Geometry
  places : Tbl Nat NodeId
  nextSpan : Nat
  closing : Bool
  smooth : Tbl (Nat × Nat) (List (BitVec 32))
  /-- The twin's mirror of a sequence record. -/
  copy : Bool
  /-- The home node that the record was sent to, while its arrival is awaited there (R41). -/
  movingTo : Option NodeId
  /-- The assignment of the next span has failed and is tried again at a new map epoch (R47). -/
  retry : Bool
  /-- The record has moved away, and stays only until its directory entry is out (R88). -/
  leaving : Bool
deriving DecidableEq, Repr

/-! ## The directory (R71–R91) -/

/-- A directory entry's fields (R72), with the owning virtual node of R379. -/
structure DirEntry where
  vnode : VId
  key : BitVec 96
  mask : BitVec 96
  prio : Byte
  valid : Bool
  node : NodeId
  record : FrameId
deriving DecidableEq, Repr

/-- An invalid entry, all of whose fields read as zero. -/
def DirEntry.empty : DirEntry := ⟨0, 0, 0, 0, false, 0, 0⟩

/-- One address of a bank: the ternary cells and the shadow copy, whether the shadow reads uncorrectable, whether the address
is retired (R78), and a defect of the cells that a rewrite does not remove. -/
structure DirCell where
  cam : DirEntry
  shadow : DirEntry
  shadowBad : Bool
  retired : Bool
  stuck : Option (BitVec 96 × BitVec 96)
deriving DecidableEq, Repr

/-- An address after device reset (R71). -/
def DirCell.empty : DirCell := ⟨.empty, .empty, false, false, none⟩

/-- An update of a bank (R82): an insert, with the entry that goes out once it is in (R88), or the deletion of an entry. -/
inductive DirUpd where
  | insert (e : DirEntry) (old : Option DirEntry)
  | delete (e : DirEntry)
deriving DecidableEq, Repr

/-- One bank: its addresses, whether it is rebuilding (R79), the update under way and those queued behind it, and whether the restoration
of its spacing has begun and not reached its target (R86). -/
structure DirBank where
  cells : Tbl Nat DirCell
  rebuilding : Bool
  current : Option DirUpd
  queue : List DirUpd
  restoring : Bool
deriving DecidableEq, Repr

/-- A bank after device reset. -/
def DirBank.empty : DirBank := ⟨[], false, none, [], false⟩

/-- The directory: its banks, and the addresses that R78 retires once a pair has an invalid address. -/
structure Directory where
  banks : Tbl Nat DirBank
  retirePending : List (Nat × Nat)
deriving DecidableEq, Repr

/-! ## Host interface (R431–R484) -/

/-- Ring states (R469). -/
inductive RingState where
  | disabled | active | error
deriving DecidableEq, Repr

/-- A record that the host has not consumed (R474, R478): its index, submission ring, tag and status reply. -/
structure HeldRecord where
  index : BitVec 32
  submit : BitVec 9
  tag : BitVec 32
  reply : List Byte
deriving DecidableEq, Repr

/-- A ring context. `host` is the last doorbell value, `node` the index that RING_STATUS shows. -/
structure Ring where
  state : RingState
  cause : Nat
  isResult : Bool
  sizeLog2 : Nat
  entryLog2 : Nat
  priority : Nat
  resultRing : BitVec 9
  msix : Nat
  coalesceCount : Nat
  coalesceUs : Nat
  base : BitVec 64
  shadow : BitVec 64
  stallUs : Nat
  host : BitVec 32
  node : BitVec 32
  /-- SUBMIT: packets fetched and not admitted, oldest first, each with the slots it occupies. -/
  fetched : List CmdHeader
  /-- SUBMIT: the wait of the oldest fetched packet has been evaluated and holds a waiter entry, or has been released. -/
  headWaiting : Bool
  headReady : Bool
  /-- RESULT: entries reserved for admitted commands (R473). -/
  reserved : Nat
  /-- RESULT: records written and not yet signalled by an interrupt (R476). -/
  unsignalled : Nat
  /-- RESULT: records written and not consumed. -/
  records : List HeldRecord
  /-- Later records of the ring are discarded (R469), or all of them (R433). -/
  discards : Bool
  peekTag : BitVec 32
  /-- NODE.RING_DESTROY waits for the ring's admitted commands. -/
  destroying : Option Cmd
deriving DecidableEq, Repr

/-- A ring context after reset. -/
def Ring.reset : Ring :=
  ⟨.disabled, 0, false, 0, 0, 0, 0, 0, 0, 0, 0, 0, 0, 0, 0, [], false, false, 0, 0, [], false, 0, none⟩

/-- A mailbox (R479–R481). -/
structure Mailbox where
  word : BitVec 64
  full : Bool
  overrun : Bool
  aborted : Bool
  empty : Bool
  emptyIrqEn : Bool
  fullIrqEn : Bool
  abortedIrqEn : Bool
deriving DecidableEq, Repr

/-- A mailbox after reset. -/
def Mailbox.reset : Mailbox := ⟨0, false, false, false, false, false, false, false⟩

/-- Member states (R372). -/
inductive MemberState where
  | live | draining | fenced
deriving DecidableEq, Repr

/-- A member list with its epoch. -/
structure MapList where
  epoch : BitVec 16
  members : List (NodeId × MemberState)
deriving DecidableEq, Repr

/-- A command that has been admitted and not completed: the knobs it took at admission (R27), whether a result entry is
reserved for it, and its order among admissions. -/
structure Admitted where
  serial : Nat
  cmd : Cmd
  knobs : Knobs
  reserved : Bool
  /-- Its record is discarded: its ring went away under FLR (R433). -/
  discard : Bool
  /-- The debug lock was open at its admission (R27). -/
  debugOpen : Bool
  /-- SPAN.COVERAGE: the span records as they stood at its admission (R264). -/
  view : Tbl FrameId SpanRec
  /-- The member list of its map epoch at its admission (R374). -/
  members : Option MapList
deriving DecidableEq, Repr

/-- The host interface. -/
structure HostIf where
  rings : Tbl (BitVec 9) Ring
  mailboxes : Tbl (BitVec 4) Mailbox
  /-- MSI-X table entries that the host has enabled. -/
  msix : List Nat
  /-- Pending bits: vectors raised while their entry was not enabled. -/
  msixPending : List Nat
  apertureWindow : BitVec 11
  devError : BitVec 3
  /-- The parameter blocks written for rings 0 and 1, and ADMIN_ENABLE (R467). -/
  adminBlocks : Tbl (BitVec 1) RingBlk
  admitted : List Admitted
  nextSerial : Nat
  /-- COMMAND messages that wait, or are held behind a waiting one, per queue pair, oldest first (R505). -/
  qpHeld : Tbl (BitVec 12) (List (Msg × CmdHeader))
  /-- Queue pairs whose oldest held COMMAND has been released from its wait. -/
  qpReady : List (BitVec 12)
deriving DecidableEq, Repr

/-! ## Synchronisation objects (R493–R529) -/

/-- Object kinds (R493). -/
inductive ObjKind where
  | counter | event | barrier
deriving DecidableEq, Repr

/-- The tree links and quota of a barrier (R510). -/
structure BarrierCfg where
  parties : Nat
  root : Bool
  parent : TreeLink
  children : List TreeLink
deriving DecidableEq, Repr

/-- An object that is not FREE (R494). `value` is a counter's value, an event's SET or a barrier's GENERATION. -/
structure SyncObj where
  kind : ObjKind
  failed : Bool
  vnode : VId
  msix : Nat
  value : Nat
  overruns : Nat
  arrived : Nat
  nextArrived : Nat
  pending : Bool
  barrier : Option BarrierCfg
  lastSignaller : BitVec 64
  lastSignalNs : Nat
deriving DecidableEq, Repr

/-- What a waiter holds: a command before its admission, by its place in its ring or queue pair, or by itself; or a barrier
arrival, an admitted command that completes with RESULT0. -/
inductive WaitFor where
  | ringHead (ring : BitVec 9)
  | qpHead (qpn : BitVec 12)
  | cmd (c : Cmd)
  | arrival (c : Cmd)
deriving DecidableEq, Repr

/-- A held waiter (R504, R522). -/
structure Waiter where
  id : Nat
  index : BitVec 14
  who : BitVec 64
  value : Nat
  deadline : Nat
  wf : WaitFor
deriving DecidableEq, Repr

/-- The synchronisation unit. Waiters stand in queueing order. -/
structure Sync where
  objs : Tbl (BitVec 14) SyncObj
  waiters : List Waiter
  nextWaiter : Nat
  /-- Signals of commands that have completed and that are still to be applied, oldest first. -/
  due : List (BitVec 14 × Nat × BitVec 64)
  sel : BitVec 14
  snapshot : List Byte
  setValue : BitVec 64
  refused : Bool
deriving DecidableEq, Repr

/-! ## Virtual nodes: fabric identity, map, pair, fence, handoffs -/

/-- A neighbour entry of a port (R369). -/
structure Neighbour where
  p : HelloPayload
deriving DecidableEq, Repr

/-- Pair states (R389). -/
inductive PairState where
  | unpaired | paired | solo | copying
deriving DecidableEq, Repr

/-- A TWIN.PAIR that has not formed (R387). -/
structure Pairing where
  cmd : Cmd
  blk : PairBlk
  /-- The counterpart's proposal, where it has come. -/
  proposed : Option (BitVec 32 × BitVec 2)
deriving DecidableEq, Repr

/-- Handoff states (R424, R425). -/
inductive HandoffState where
  | offering | committing | receiving | accepted | inDoubt
deriving DecidableEq, Repr

/-- A handoff in progress. `cmd` is the command that completes with it; `acceptSent` says that OWN.ACCEPT has been sent. -/
structure Handoff where
  id : BitVec 32
  other : NodeId
  isSource : Bool
  state : HandoffState
  handle : Handle
  first : Nat
  count : Nat
  cmd : Option Cmd
  acceptSent : Bool
  offerAnswered : Bool
  /-- UPTIME_NS at which the state was entered. -/
  since : Nat
  /-- Spans copied whole: COPY_DONE acknowledged or received. -/
  done : List Nat
  /-- The destinations that SPAN.MOVE would choose next at a home that holds the span itself (R44, R428). -/
  left : List NodeId
deriving DecidableEq, Repr

/-- Kinds of lost-span entries (R415). -/
inductive LostKind where
  | pages | tail | span | masks
deriving DecidableEq, Repr

/-- A lost-span entry (R415). -/
structure LostEntry where
  handle : Handle
  span : Nat
  kind : LostKind
  tokenFirst : Nat
  seq : BitVec 32
deriving DecidableEq, Repr

/-- A code group that a parity node holds, per stripe: the parity frame, and the slots that are contributed or null. -/
structure Stripe where
  frame : Option FrameId
  filled : List Nat
  nulls : List Nat
  /-- The messages taken up, by sender and tag, and the acknowledgements held until all eight data slots are in (R403). -/
  tags : List (NodeId × BitVec 32)
  owed : List PeerHdr
deriving DecidableEq, Repr

/-- A contribution of a data node to a stripe (R402, R403): the page, none for CODE_NULL, and the acknowledgements. -/
structure Contribution where
  stripe : Nat
  page : Option PageRef
  /-- Tags of the messages to P and Q that are not acknowledged. -/
  waiting : List (BitVec 32)
  refused : Bool
  /-- A release of the page: the second sending of its fragment (R404). -/
  releasing : Bool
  /-- Where the content of a page that is being released lies until both acknowledgements are in (R404). -/
  kept : Option PageLoc
deriving DecidableEq, Repr

/-- One virtual node, or the whole node with SLICE_MODE OFF. -/
structure VNode where
  nodeId : NodeId
  pfx : BitVec 64
  forwarding : Bool
  peers : Tbl NodeId PeerEntry
  neighbours : Tbl (BitVec 5) Neighbour
  map : Option MapList
  prevMap : Option MapList
  /-- The drain window of the previous epoch has not ended. -/
  draining : Bool
  /-- Handles whose record is awaited from an old home within the window (R41). -/
  awaitedRecords : List (Handle × NodeId)
  pairState : PairState
  twin : NodeId
  pairSource : Bool
  pairEpoch : BitVec 32
  prevPairEpoch : BitVec 32
  pairing : Option Pairing
  twinUp : Bool
  fabricUp : Bool
  hbSeq : BitVec 32
  fenceEpoch : BitVec 64
  fenceSet : List NodeId
  fenced : Bool
  /-- Bring-in: spans of the manifest, and those with COPY_DONE acknowledged (R417). -/
  manifest : List (Handle × Nat)
  manifestDone : List (Handle × Nat)
  codeset : Option (BitVec 16 × List NodeId)
  codeSlot : Option Nat
  stripeNext : Nat
  stripeExhausted : Bool
  stripes : Tbl Nat Stripe
  contributions : List Contribution
  lost : List LostEntry
  lostSeq : BitVec 32
  handoffs : List Handoff
  /-- Handoffs that ended with this node owner, so that a repeated OWN.COMMIT is answered (R425). -/
  committed : List (BitVec 32 × NodeId)
  /-- Messages of the ASYNC mirror that wait to be sent, oldest first (R397). -/
  mirrorQueue : List (Handle × Nat × PeerBody)
deriving DecidableEq, Repr

/-- A virtual node after device reset (R336, R387, R409, R415). -/
def VNode.reset : VNode where
  nodeId := 0xFFFF
  pfx := 0
  forwarding := false
  peers := []
  neighbours := []
  map := none
  prevMap := none
  draining := false
  awaitedRecords := []
  pairState := .unpaired
  twin := 0xFFFF
  pairSource := false
  pairEpoch := 0
  prevPairEpoch := 0
  pairing := none
  twinUp := false
  fabricUp := false
  hbSeq := 0
  fenceEpoch := 0
  fenceSet := []
  fenced := false
  manifest := []
  manifestDone := []
  codeset := none
  codeSlot := none
  stripeNext := 0
  stripeExhausted := false
  stripes := []
  contributions := []
  lost := []
  lostSeq := 1
  handoffs := []
  committed := []
  mirrorQueue := []

/-! ## Runners and stacks (R132–R171) -/

/-- A runner sequence's status (R151). -/
structure RnStatus where
  ceCount : Nat
  ue : Bool
  regUe : Bool
  linkErr : Bool
  sat : Bool
  aborted : Bool
  throttle : Nat
  steps : Nat
deriving DecidableEq, Repr

/-- A sequence's status when its first command has cleared it. -/
def RnStatus.zero : RnStatus := ⟨0, false, false, false, false, false, 0, 0⟩

/-- A runner sequence (R147): its context, whether its query is wide, whether it writes, whether an error or RN_ABORT has ended it, and the
request that it serves. -/
structure RnSeq where
  ctx : Nat
  wide : Bool
  writes : Bool
  ended : Bool
  req : Option Nat
deriving DecidableEq, Repr

/-- A key row that continues into the next step (R132): its frame's address and its slot, the elements taken in, and the part-formed dot product
and magnitude. -/
structure Carry where
  frame : Nat
  slot : Nat
  done : Nat
  dot : BitVec 32
  mag : BitVec 32
deriving DecidableEq, Repr

/-- One runner (R132, R200, R257). Register files are tables of binary32 words: query contexts by context and row, accumulators
and carry likewise, magnitude accumulators beside them. The scale buffers hold annex rows by page-local row, of the current page and the
next one, and the weight buffers weights by slot and query row. -/
structure Runner where
  contexts : Tbl (Nat × Nat) (List (BitVec 32))
  wide : Bool
  dsScale : Tbl Nat (BitVec 32)
  accum : Tbl (Nat × Nat) (List (BitVec 32))
  keyMag : Tbl (Nat × Nat) (BitVec 32)
  outMag : Tbl (Nat × Nat) (BitVec 32)
  /-- Carry registers, by context and query row. -/
  carry : Tbl (Nat × Nat) Carry
  /-- The scale buffers, at most two, by the address of the frame that each holds rows of, the older first. -/
  scales : Tbl Nat (Tbl Nat (List Byte))
  weightsIdle : Tbl (Nat × Nat) Nat
  weights : Tbl (Nat × Nat) Nat
  /-- The step buffers, the later step's first: the address at which each starts, and its bytes. -/
  stepBuf : Nat × List Byte
  prevStep : Nat × List Byte
  /-- The largest magnitude among a sequence's scores (R200). -/
  blockMax : Tbl (BitVec 8) (BitVec 32)
  seqs : Tbl (BitVec 8) RnStatus
  /-- The sequences of the runner by tag (R147, R161). -/
  live : Tbl (BitVec 8) RnSeq
  /-- The scores or weights of a sequence in its core's millpond slice, by tag, frame address, slot and query row (R191). -/
  pond : Tbl (Nat × Nat × Nat × Nat) (BitVec 32)
  /-- The block-maximum records there, by tag (R200), and the magnitude totals, by tag, pass (true: value pass) and query row (R257). -/
  pondMax : Tbl (BitVec 8) (BitVec 32)
  pondMag : Tbl (BitVec 8 × Bool × Nat) (BitVec 32)
deriving DecidableEq, Repr

/-- A runner after reset. -/
def Runner.reset : Runner := ⟨[], false, [], [], [], [], [], [], [], [], (0, []), (0, []), [], [], [], [], [], []⟩

/-- One stack's controller (R160–R170): throttle level, the last readings of temperature and power, the power limit in force, the
refreshes owed by each pseudo-channel, and UPTIME_NS when the level was entered. -/
structure Stack where
  throttle : Nat
  temp : Int
  power : Nat
  limitW : Nat
  owed : Tbl Nat Nat
  levelSince : Nat
deriving DecidableEq, Repr

/-- A stack after reset. -/
def Stack.reset : Stack := ⟨0, 0, 0, 35, [], 0⟩

/-! ## Work in progress -/

/-- Which admitted command started a piece of background work (R482): its serial and, for a host command, its ring. -/
structure WorkTag where
  serial : Nat
  ring : Option (BitVec 9)
deriving DecidableEq, Repr

/-- Why a span is being assigned (R45, R47). -/
inductive AssignFor where
  | open_ (c : Cmd)
  | locate (c : Cmd) (t : Target) (prefer : List NodeId)
  /-- A span node's report (R45), acknowledged once the attempt has ended. -/
  | report (h : PeerHdr)
  | background
deriving DecidableEq, Repr

/-- Commands and internal operations that wait for something outside them. -/
inductive Job where
  /-- A span assignment attempt (R47): the members still to be asked, the number considered, and the one being asked. -/
  | assign (v : VId) (handle : Handle) (span : Nat) (geo : Geometry) (left : List NodeId) (considered : Nat)
      (asking : NodeId) (purpose : AssignFor)
  /-- SPAN.CLOSE (R48): span nodes that have not answered SEQ_CLOSE, and the commands waiting. -/
  | close (v : VId) (handle : Handle) (waiting : List NodeId) (cmds : List Cmd)
  /-- The close of a handle's spans here, until the appends admitted before it have completed (R49); the SEQ_CLOSE to acknowledge. -/
  | closeHere (v : VId) (handle : Handle) (ack : Option PeerHdr)
  /-- KV.SMOOTH (R112): span nodes that have not reported, the reports so far, and whether this node holds appends. -/
  | smooth (c : Cmd) (v : VId) (handle : Handle) (layer head : Nat) (sigma : List (BitVec 32)) (waiting asked : List NodeId)
      (nonzero : Bool)
  /-- An append whose rows wait for the twin under SYNC (R396): the descriptor, its record, layer and heads. -/
  | syncAppend (src : AppendSrc) (payload : List Byte) (rec : FrameId) (layer first count : Nat) (knobs : Knobs) (links : Nat)
  /-- An append that waits for acknowledgements under ASYNC (R397). -/
  | lagAppend (src : AppendSrc) (payload : List Byte) (rec : FrameId) (knobs : Knobs) (links : Nat)
  /-- ORDER.FENCE (R482). -/
  | fence (c : Cmd) (serial : Nat) (scopeNode mirror logMark : Bool)
  /-- SPAN.MOVE (R428): the home node's OWN.OFFER to the node that holds the span, and the destinations that it would choose next (R44). -/
  | move (c : Cmd) (v : VId) (holder : NodeId) (handle : Handle) (span : Nat) (left : List NodeId)
  /-- OWN.OFFER, OWN.ACCEPT or OWN.COMMIT sent to the counterpart, its status reply awaited in a registered region. -/
  | ownReply (v : VId) (handoff : BitVec 32) (verb : Nat)
  /-- TWIN.SOLO with TAKEOVER, until the SPAN entry of every span is valid (R413, R414): the entries that are not yet. -/
  | takeover (c : Cmd) (entries : List DirEntry)
  /-- SCRUB.PASS (R302), until the pass of every stack in the list ends. -/
  | scrubPass (c : Cmd) (hbmStacks : List Nat)
  /-- A TIER command, until its page operations end (R313): whether it demotes, the pages left, and the status so far. -/
  | tier (c : Cmd) (down : Bool) (left : List PageRef) (status : Status)
  /-- A page whose copies are being compared (R280–R285): its local content hash. -/
  | resolve (p : PageRef) (hash : List Byte)
  /-- A contribution to a code group whose acknowledgement is awaited. -/
  | contrib (v : VId) (stripe : Nat)
  /-- A handoff's or bring-in's copy messages to the destination. -/
  | copy (v : VId) (handoff : Option (BitVec 32)) (handle : Handle) (span : Nat) (what : Nat)
  /-- A PEER message sent only to be acknowledged. -/
  | notice
  /-- A sequence record sent to a new home (R41). -/
  | seqMove (v : VId) (handle : Handle)
  /-- A command that completes once its directory entry is valid (R126). -/
  | entry (c : Cmd) (e : DirEntry)
deriving DecidableEq, Repr

/-- A PEER message that awaits its PEER_ACK (R393). -/
structure PeerSent where
  msg : PeerMsg
  job : Option Nat
  work : WorkTag
  /-- Times that a copied page failed its check (R418). -/
  tries : Nat
deriving DecidableEq, Repr

/-- Why a command or message that has been admitted is held. -/
inductive DeferWhy where
  /-- Its directory search met an update or a rebuild of one of these banks (R85). -/
  | bank (b0 b1 : Nat)
  /-- It names a layer and head on which appends are held (R101, R112, R419). -/
  | hold (rec : FrameId) (layer head : Nat)
  /-- An earlier descriptor of the same span, layer and head is held (R101). -/
  | behind
  /-- The record of its handle has not arrived (R41). -/
  | record (v : VId) (handle : Handle)
  /-- It starts a flash program or erase, which the brake state holds back (R588). -/
  | brake
  /-- A runner command of a stack at throttle level 3, or one behind such a command of the same runner (R150, R169). -/
  | runner (stack pc : Nat)
  /-- It allocates a frame of a stack at throttle level 3, whose RN_FILL cannot activate (R146, R167). -/
  | fill
  /-- It runs under a control core or unit that is resuming, or waits for another command of its kind. -/
  | other
deriving DecidableEq, Repr

/-- A held command. `order` is its place among the admissions, which a further hold keeps (R101). -/
structure Deferred where
  id : Nat
  order : Nat
  why : DeferWhy
  instr : Instr
  knobs : Knobs
deriving DecidableEq, Repr

/-- What holds appends on a layer and head: KV.SMOOTH (R112), or an append whose rows wait for a twin (R101, R396). -/
inductive HoldBy where
  | smooth
  | append (job : Nat)
deriving DecidableEq, Repr

/-- A layer and head of a span record on which appends are held. -/
structure Hold where
  record : FrameId
  layer : Nat
  head : Nat
  by_ : HoldBy
deriving DecidableEq, Repr

/-- A page queued for its seal (R119). -/
structure SealItem where
  page : PageRef
  work : WorkTag
deriving DecidableEq, Repr

/-- A region of the node that another node's WRITE may reach (R362), and what it is for. -/
inductive RegionUse where
  /-- The status reply of a COMMAND that a job sent. -/
  | job (id : Nat)
  /-- The record of a fan-out's sub-query. -/
  | fanout (id sub : Nat)
  /-- The fragment of a slot that a READ_REQ asks for (R405): the page, the slot, and the data so far. -/
  | read (page : PageRef) (slot : Nat) (data : List Byte)
deriving DecidableEq, Repr

/-- A registered region (R362): its use, its address and its size in bytes. -/
structure Region where
  use : RegionUse
  addr : BitVec 64
  size : Nat
deriving DecidableEq, Repr

/-- Whether bytes at an address lie inside a region. -/
def Region.holds (r : Region) (a : BitVec 64) (n : Nat) : Bool := decide (r.addr.toNat ≤ a.toNat) && decide (a.toNat + n ≤ r.addr.toNat + r.size)

/-! ## Tiers, codec and the HBM code (R287–R331) -/

/-- A run of 64-byte granules of a pack frame (R306). -/
structure Extent where
  frame : FrameId
  first : Nat
  count : Nat
deriving DecidableEq, Repr

/-- Where an image lies: in at most two extents of pack frames, or in consecutive 4 KiB sectors of a flash block. -/
inductive ImageHome where
  | pack (extents : List Extent)
  | flash (channel target block sector : Nat)
deriving DecidableEq, Repr

/-- A stored image: its length, the generation that its page map entry keeps (R288), for flash its plaintext bytes, and the
generation and slot of the table that coded it (R320). The bytes of a packed image lie in HBM. `drain` lists, once no page map entry names the
image any more, the requests admitted before, for which it stays readable (R289). -/
structure Image where
  home : ImageHome
  len : Nat
  gen : BitVec 32
  bytes : List Byte
  vnode : VId
  table : Option (BitVec 32 × Nat)
  drain : Option (List Holder) := none
deriving DecidableEq, Repr

/-- A flash target that has been read (R314): whether it passed its parameter page, its geometry, and the greatest program or
block-erase time that the page gives, in µs (R589). -/
structure FlashTarget where
  usable : Bool
  blocks : Nat
  pagesPerBlock : Nat
  maxBusyUs : Nat
deriving DecidableEq, Repr

/-- A flash block: its bad mark and erase count, which survive device reset (R319), the sectors written since its erase, its
reads since then, whether it awaits a background erase, and the image last programmed into it, whose data stays staged until the program has
ended (R317). -/
structure FlashBlock where
  bad : Bool
  erases : Nat
  written : Nat
  reads : Nat
  stale : Bool
  last : Option Nat := none
deriving DecidableEq, Repr

/-- A block that holds nothing and was never erased. -/
def FlashBlock.reset : FlashBlock := ⟨false, 0, 0, 0, false, none⟩

/-- A copy of the metadata area on a channel (R319): its sequence number, whether it reads intact, and the bad mark and erase count of each
block. -/
structure MetaCopy where
  seq : Nat
  intact : Bool
  blocks : Tbl (Nat × Nat × Nat) (Bool × Nat)
deriving DecidableEq, Repr

/-- A demotion whose read-back is awaited (R307): its image, the image's number in flash, and the attempts made. -/
structure Demotion where
  page : PageRef
  image : Nat
  bytes : List Byte
  attempt : Nat
  /-- Waits for the brake state to end before its program begins (R308). -/
  held : Bool
deriving DecidableEq, Repr

/-- A promotion under way (R309): its page, the image that it reads with the format and digest of its content and the table that its blocks
were queued under (R330), and the requests that joined it. -/
structure Promotion where
  page : PageRef
  image : Nat
  fmt : Nat
  digest : List Byte
  table : Option TableImage
  waiting : List Nat
  /-- The image goes to the staging region for the requests that wait, and the page stays FLASH (R311). -/
  bypass : Bool
deriving DecidableEq, Repr

/-- A codec table slot (R325–R330). State 0 FREE, 1 LIVE, 2 RETIRING. -/
structure CodecSlot where
  gen : BitVec 32
  state : Nat
  current : Bool
  image : Option TableImage
  /-- Retired with FORCE. -/
  forced : Bool
deriving DecidableEq, Repr

/-- A free slot. -/
def CodecSlot.free : CodecSlot := ⟨0, 0, false, none, false⟩

/-- A block in the codec queues: its priority class (R331), slot and generation, the page that needs it, and whether CODEC.RETIRE with FORCE
found it there (R330). -/
structure CodecItem where
  cls : Nat
  slot : Nat
  gen : BitVec 32
  page : PageRef
  old : Bool
deriving DecidableEq, Repr

/-- The tiers and the codec. -/
structure Tier where
  images : Tbl Nat Image
  nextImage : Nat
  targets : Tbl (Nat × Nat) FlashTarget
  blocks : Tbl (Nat × Nat × Nat) FlashBlock
  /-- The block that new images of a virtual node are written to. -/
  active : Tbl VId (Nat × Nat × Nat)
  /-- The copies of the metadata area, by channel (R319, R384). -/
  metas : Tbl Nat MetaCopy
  demotions : List Demotion
  promotions : List Promotion
  slots : Tbl Nat CodecSlot
  nextGen : BitVec 32
  queue : List CodecItem
  /-- Images queued for re-coding (R329). -/
  recode : List Nat
  /-- Virtual nodes whose packing, and whose demotion, has started and has not reached its stop (R305, R307). -/
  packOn : List VId
  demoteOn : List VId
  /-- Per format: pages sealed since the last CODEC.SAMPLE, and the counts of their exponent values (R462). -/
  samples : Tbl Nat (Nat × Tbl Nat Nat)
deriving DecidableEq, Repr

/-- The tiers after device reset; bad marks, erase counts and metadata copies are kept by the reset itself. -/
def Tier.reset : Tier := ⟨[], 1, [], [], [], [], [], [], [], 1, [], [], [], [], []⟩

/-- The scrub of one stack (R300–R302): whether a pass is under way, whether its interval has ended, the counts of the pass, and the
next bank row of each pseudo-channel. -/
structure ScrubPass where
  running : Bool
  late : Bool
  ce : Nat
  ue : Nat
  next : Tbl Nat Nat
deriving DecidableEq, Repr

/-- A stack whose first pass begins. -/
def ScrubPass.reset : ScrubPass := ⟨true, false, 0, 0, []⟩

/-- Errors in stored codewords and what the scrub knows of them. -/
structure Hbm where
  /-- Codewords whose stored symbols differ from what was written: positions 0–35 and the difference of each. -/
  errs : Tbl Nat (List (Nat × Byte))
  /-- Banks whose soft repair is used (R297): pseudo-channel, and bank. -/
  sppr : List (Nat × Nat)
  /-- Bank rows of the reserved region that their function has given up (R297), by address. -/
  givenUp : List Nat
  /-- Codewords that stayed uncorrectable when a write of part of them read them, and whose frames are still to be handled (R142, R296). -/
  ueDue : List Nat
  /-- Map frames whose records are to be rebuilt from the twin's mirrored copies (R296). -/
  mapsDue : List FrameId
  passes : Tbl Nat ScrubPass
  /-- Sealed pages that the read-verify of this interval still owes (R278). -/
  verifyLeft : List PageRef
  /-- The interval ended before the read-verify did. -/
  verifyLate : Bool
  /-- CHECK_COVERAGE as the present read-verify schedule took it at the start of a scrub pass (R34). -/
  verifyMode : Nat
  /-- Pages whose content is being resolved (R280) or repaired (R296), with the content hash of a page that reads: queries that
  need them retry. -/
  awaiting : Tbl PageRef (Option (List Byte))
deriving DecidableEq, Repr

/-- No error, no repair, no pass. -/
def Hbm.reset : Hbm := ⟨[], [], [], [], [], [], [], false, 1, []⟩

/-- A mask record (R206): the span that it belongs to and its mask rows. The tile entries lie in its frame's bytes. -/
structure MaskRec where
  vnode : VId
  handle : Handle
  span : Nat
  rows : Nat
  cols : Nat
deriving DecidableEq, Repr

/-- A slot of a mask page that is not free: named by a tile entry, or waiting for the queries admitted before it was replaced
(R211). -/
structure MaskSlot where
  live : Bool
  readers : List Nat
deriving DecidableEq, Repr


/-! ## Attention: requests in service, records and fan-outs (R172–R248) -/

/-- The fields of a record header (R224) that a rule computes. -/
structure RecHdr where
  tag : BitVec 32
  status : Status
  normalised : Bool
  merged : Bool
  segmented : Bool
  absorbed : Bool
  scaleLow : Bool
  scaleRetry : Bool
  valueRotated : Bool
  diePath : Bool
  dieServed : Bool
  handle : Handle
  spanFirst : Nat
  layer : Nat
  head : Nat
  spanCount : Nat
  mapEpoch : BitVec 16
  node : NodeId
  rowsM1 : Nat
  headDim : Nat
  parts : Nat
  pagesRead : Nat
  segments : Nat
  hint : Nat
  tokensRead : Nat
  coverage : Nat
deriving DecidableEq, Repr

/-- A row of a partial: M, L, the certificate fields and OUT (R225, R227), as binary32 words. -/
structure RowPart where
  m : BitVec 32
  l : BitVec 32
  scoreRef : BitVec 32
  scoreSum : BitVec 32
  outSum : BitVec 32
  scoreAbs : BitVec 32
  outAbs : BitVec 32
  outRef : BitVec 32
  unmasked : Nat
  out : List (BitVec 32)
deriving DecidableEq, Repr

/-- A query descriptor (R173); Q_TOKENS, Q_HEADS and SPAN_COUNT are the counts that their fields encode. -/
structure QDesc where
  handle : Handle
  spanFirst : Nat
  layer : Nat
  head : Nat
  spanCount : Nat
  headDim : Nat
  mult : BitVec 32
  qFmt : Nat
  maskMode : Nat
  qTokens : Nat
  qHeads : Nat
  tag : BitVec 32
  maskRowBase : Nat
  posBase : Nat
  rsv : Bool
deriving DecidableEq, Repr

/-- Where the records of a message or command go. -/
inductive QuerySrc where
  | msg (m : Msg) (stride : Nat)
  | cmd (c : Cmd)
deriving DecidableEq, Repr

/-- Where a request's record goes: a place in its message's batch, or a sub-query of a fan-out on this node. -/
inductive ReqDest where
  | batch (id index : Nat)
  | fan (id sub : Nat)
deriving DecidableEq, Repr

/-- Who serves a page: the runner of its pseudo-channel, or an engine of its core (R182–R184). -/
inductive PageUnit where
  | runner
  | engine
deriving DecidableEq, Repr

/-- A page that a request reads: its place in the span record as admitted, its tokens below the fill point, and its content where
an engine holds it expanded. -/
structure ReqPage where
  page : PageRef
  span : Nat
  frame : Option FrameId
  /-- The image in which the page lay at admission, where it was PACKED or FLASH (R289). -/
  image : Option Nat
  gen : BitVec 32
  tokens : Nat
  /-- The handle of the record that holds it (R261). -/
  owner : Handle
  asSealed : Bool
  digest : List Byte
  /-- The core that serves it, or whose runner does (R213, R216). -/
  core : Nat
  unit : PageUnit
  content : Option (List Byte)
  /-- Its promotion is awaited (R309). -/
  missing : Bool
deriving DecidableEq, Repr

/-- What a request does next: its message's other descriptors are still checked, its reservation is awaited, or a pass. -/
inductive ReqPhase where
  | admitted
  | waiting
  | keyPass
  | valuePass
  | segmentEnd
  | dieBlocks
deriving DecidableEq, Repr

/-- Kinds of check (R275). -/
inductive CheckKind where
  | score | output | consistency | structure_ | identity | digest
deriving DecidableEq, Repr

/-- A failed check: its kind, the row, both compared values and the bound. -/
structure CheckFail where
  kind : CheckKind
  row : Nat
  a : Rat
  b : Rat
  bound : Rat
deriving DecidableEq, Repr

/-- The state of a die request's engine: its rows so far (R213, R235). -/
structure EngineState where
  core : Nat
  engine : Nat
  rows : List RowPart
deriving DecidableEq, Repr

/-- A request in service. -/
structure AttnReq where
  dest : ReqDest
  vnode : VId
  desc : QDesc
  geo : Geometry
  sigma : List (BitVec 32)
  /-- The operand query (R179), row by row. -/
  query : List (List (BitVec 32))
  knobs : Knobs
  mapEpoch : BitVec 16
  pages : List ReqPage
  /-- The tile entries in force at admission, by span, tile row and tile column (R211). -/
  tiles : Tbl (Nat × Nat × Nat) Nat
  stallUs : Nat
  phase : ReqPhase
  die : Bool
  fp32 : Bool
  firstUse : Bool
  probe : Bool
  exponent : Int
  segments : Nat
  segment : Nat
  /-- The largest block maximum of its segments. -/
  blockMax : BitVec 32
  retried : Bool
  low : Bool
  absorbed : Bool
  /-- What the key pass of the present segment left in the millpond: per page of the segment and per row, the slots' weights; and per
  core the rows so far, without their output sums. -/
  weights : List (List (List (BitVec 32)))
  cores : List (Nat × List RowPart)
  /-- The running state over the segments ended (R237). -/
  running : Option (List RowPart)
  engines : List EngineState
  blocksDone : List Nat
  full : Bool
  /-- Its place in the order of dispatch (R218). -/
  order : Nat
  /-- The block-maximum records of its present key pass in the millpond slices, by core and runner, or 32 for the core's engines (R200). -/
  maxima : Tbl (Nat × Nat) (BitVec 32)
  /-- The first per-core check that failed, with its core: those of the segments ended included (R272, R274). -/
  coreFail : Option (Nat × CheckFail)
  /-- The output sums and magnitude totals that its runners have drained in its present value pass (R187), by stack, pseudo-channel and row. -/
  drained : Tbl (Nat × Nat × Nat) (List (BitVec 32) × BitVec 32) := []
deriving DecidableEq, Repr

/-- What a descriptor that the directory held took at its admission (R104, R176, R211): the fill points by record, the tile entries, and the mask
rows of each span that had a mask set. -/
structure Snapshot where
  fills : Tbl FrameId Nat
  tiles : Tbl (Nat × Nat × Nat) Nat
  maskRows : Tbl Nat Nat
deriving DecidableEq, Repr

/-- A descriptor whose directory search met an update or a rebuild (R85), with what was in force at its admission. -/
structure HeldQuery where
  dest : ReqDest
  vnode : VId
  desc : QDesc
  rows : List (List (BitVec 32))
  knobs : Knobs
  mapEpoch : BitVec 16
  stallUs : Nat
  b0 : Nat
  b1 : Nat
  /-- The rows as received, of a descriptor of ATTN.QUERY_FANOUT whose search for the sequence record is held. -/
  fan : Option (List Byte)
  snap : Snapshot
deriving DecidableEq, Repr

/-- The records of one message or command that have been produced so far. -/
structure Batch where
  src : QuerySrc
  vnode : VId
  count : Nat
  records : Tbl Nat (List Byte)
deriving DecidableEq, Repr

/-- How a sub-query stands (R246, R247). -/
inductive FanAns where
  | waiting (buf : List Byte)
  | done
  | failed (st : Status) (node : NodeId) (hint : Nat)
deriving DecidableEq, Repr

/-- A sub-query of a fan-out: its spans, the node that holds them, and how it stands. -/
structure FanSub where
  first : Nat
  count : Nat
  node : NodeId
  ans : FanAns
deriving DecidableEq, Repr

/-- A descriptor of ATTN.QUERY_FANOUT in service (R244–R247): `merged` is what has been folded. -/
structure Fanout where
  batch : Nat
  index : Nat
  vnode : VId
  desc : QDesc
  subs : List FanSub
  merged : Option (RecHdr × List RowPart)
  geo : Geometry
  /-- The score column of the merged record (R268): some part may hold FP16 scores. -/
  fp16 : Bool
deriving DecidableEq, Repr

/-- An entry of the delayed-scale history (R199): its tag and its values, the latest first. -/
structure HistEntry where
  layer : Nat
  head : Nat
  headDim : Nat
  values : List (BitVec 32)
deriving DecidableEq, Repr

/-- The attention engines' state. -/
structure Attn where
  reqs : Tbl Nat AttnReq
  held : Tbl Nat HeldQuery
  batches : Tbl Nat Batch
  fanouts : Tbl Nat Fanout
  history : Tbl Nat HistEntry
  /-- Partials produced since device reset (R273). -/
  partials : Nat
deriving DecidableEq, Repr

/-- After device reset. -/
def Attn.reset : Attn := ⟨[], [], [], [], [], 0⟩
/-! ## Power, clocks, supply and the firmware loader (R555–R593) -/

/-- A load under way (R570): the image's length, the offset expected next, the bytes taken, and the manifest once it is complete. -/
structure Loader where
  len : Nat
  next : Nat
  image : List Byte
  manifest : Option Manifest
deriving DecidableEq, Repr

/-- A monitored rail (R591, R592): the lowest reading in mV since the last clear, and the droop bins. -/
structure Rail where
  lowest : Option Nat
  bins : Tbl Nat Nat
deriving DecidableEq, Repr

/-- The last eye scan of a lane, with UPTIME_NS at its end. -/
structure Eye where
  width : Nat
  height : Nat
  at_ : Nat
deriving DecidableEq, Repr

/-- The last reading of a port's module. -/
structure Optics where
  isPresent : Bool
  rx : List Nat
  tx : List Nat
  temp : Int
deriving DecidableEq, Repr

/-- What the always-on and power-control logic holds. `up` says that the power-up sequence has run, and `fwState` is FW_STATE
of R436. ACLK steps are numbered from 3,000 MHz down (R582). -/
structure Power where
  up : Bool
  fatal : Bool
  brake : Bool
  fwState : Nat
  uptime : Nat
  /-- RESET_CAUSE, and whether it was latched after the last release of device reset (R561). -/
  cause : Nat
  causeLatched : Bool
  perstHigh : Bool
  pcieClock : Bool
  refclk156 : Bool
  /-- The 25 MHz reference runs. -/
  refclk25 : Bool
  /-- THERMTRIP_N is asserted. -/
  thermTrip : Bool
  /-- A cause of POWER_ON or PIN has arisen since the trip, so that the next release ends it (R603). -/
  tripClears : Bool
  /-- WP_N is high, and the hold-up of R563 is running. -/
  wpHigh : Bool
  mgmtMode : BitVec 2
  testMode : Bool
  loader : Option Loader
  /-- The firmware load window, from offset 0; bytes past the end are zero. -/
  window : List Byte
  imageVersion : BitVec 32
  securityVersion : BitVec 16
  /-- The step chosen under R583 and the thermal limit, both as steps. -/
  aclkStep : Nat
  thermalStep : Nat
  /-- The thermal limit has fallen in the present power-control interval (R584). -/
  thermalActed : Bool
  /-- Watts by which the stack power limit in force lies below the knob (R583). -/
  stackCut : Nat
  /-- Consecutive intervals below 95 % of the cap. -/
  lowIntervals : Nat
  /-- The cap that the present power-control interval took at its start (R34). -/
  capW : Nat
  /-- Means of the intervals of the last second, the latest first. -/
  means : List Nat
  lastCapUnmet : Option Nat
  lastThermal : Option Nat
  temps : List Int
  /-- Operations held in the present brake state. -/
  brakeHeld : Nat
  rails : Tbl Nat Rail
  eyes : Tbl Nat Eye
  /-- Setup and hold margin by stack and pseudo-channel, and UPTIME_NS of each stack's last scan. -/
  hbmMargins : Tbl (Nat × Nat) (Nat × Nat)
  marginAt : Tbl Nat Nat
  optics : Tbl Nat Optics
  /-- Sources below their limit (R593): block kind, index and place within the block. -/
  marginLow : List (Nat × Nat × Nat)
  gatedCores : List Nat
  gatedEngines : List Nat
deriving DecidableEq, Repr

/-- Device reset holds, with no power yet applied. -/
def Power.reset : Power where
  up := false
  fatal := false
  brake := false
  fwState := 0
  uptime := 0
  cause := 0
  causeLatched := false
  perstHigh := true
  pcieClock := true
  refclk156 := true
  refclk25 := true
  thermTrip := false
  tripClears := false
  wpHigh := false
  mgmtMode := 0
  testMode := false
  loader := none
  window := []
  imageVersion := 0
  securityVersion := 0
  aclkStep := 0
  thermalStep := 0
  thermalActed := false
  stackCut := 0
  lowIntervals := 0
  capW := 850
  means := []
  lastCapUnmet := none
  lastThermal := none
  temps := []
  brakeHeld := 0
  rails := []
  eyes := []
  hbmMargins := []
  marginAt := []
  optics := []
  marginLow := []
  gatedCores := []
  gatedEngines := []

/-! ## Fabric (R332–R371) -/

/-- A port: whether it is up, the HELLO sequence, whether a HELLO has been received since link-up, and whether an exhausted
association has stopped it (R367). -/
structure Port where
  up : Bool
  helloSeq : BitVec 32
  heard : Bool
  stopped : Bool
deriving DecidableEq, Repr

/-- A port after device reset. -/
def Port.reset : Port := ⟨false, 0, false, false⟩

/-- A message being reassembled (R356): its header once packet 0 has come, its packets by index, the index of the LAST packet,
and its refusal, where a rule of R357 or R358 has met it. -/
structure RxMsg where
  head : Option MsgHead
  pieces : Tbl Nat (List Byte)
  lastIx : Option Nat
  refused : Option Status
deriving DecidableEq, Repr

/-- One packet of a message to be sent (R356): its message header where it is the first, its share of the payload, whether it is the last, its
message and its place there, and whether it may leave over the twin link alone. -/
structure TxData where
  head : Option MsgHead
  payload : List Byte
  last : Bool
  msn : BitVec 24
  index : Nat
  viaTwin : Bool
deriving DecidableEq, Repr

/-- A packet sent and not acknowledged (R351): what it carries, its PSN, entropy value, UPTIME_NS of its first sending, whether RNR refused it,
and whether it has been resent for a gap. -/
structure TxPkt where
  data : TxData
  psn : BitVec 32
  entropy : Nat
  firstSent : Nat
  rnr : Bool
  gapSent : Bool
deriving DecidableEq, Repr

/-- Queue pair states of R346; a context that is absent is FREE. -/
inductive QpState where
  | ready | error | hold
deriving DecidableEq, Repr

/-- A queue pair context (R344–R358). -/
structure Qp where
  state : QpState
  peer : NodeId
  peerQpn : BitVec 12
  dscp : BitVec 6
  entropies : Nat
  retxLimit : Nat
  retxUs : Nat
  stallUs : Nat
  /-- Receiver: ePSN, the PSNs received above it, new packets since the last ACK, whether one of those was marked CE, and
  UPTIME_NS of the last ACK that a duplicate caused. -/
  ePsn : BitVec 32
  received : List (BitVec 32)
  newSince : Nat
  ceSeen : Bool
  lastDupAck : Option Nat
  msgs : Tbl (BitVec 24) RxMsg
  /-- The next message to enter the headrace. -/
  nextMsn : BitVec 24
  /-- Sender: next PSN and MSN, packets not acknowledged in the order of their PSNs, timer, timeouts without progress. -/
  txPsn : BitVec 32
  txMsn : BitVec 24
  unacked : List TxPkt
  /-- Packets of messages handed over that wait for the window or for an association. -/
  unsent : List TxData
  timerUs : Nat
  timeouts : Nat
  /-- Entropy value of the next packet, the suspended ones, and consecutive expiries after which a value's packets were resent. -/
  entropyNext : Nat
  suspended : List Nat
  expiries : Tbl Nat Nat
  /-- Rate in Mb/s, and UPTIME_NS of its last lowering (R354). -/
  rate : Nat
  lastCut : Option Nat
  rnrWaitUs : Nat
  /-- UPTIME_NS at which HOLD began. -/
  heldAt : Nat
deriving DecidableEq, Repr

/-- A receive secure association (R364): its AN, the highest packet number received under it, and its 32-byte key with its 12-byte salt. -/
structure RxSa where
  an : BitVec 2
  high : Nat
  key : List Byte
deriving DecidableEq, Repr

/-- A transmit secure association (R364): its AN, the next packet number, and its key and salt. -/
structure TxSa where
  an : BitVec 2
  next : Nat
  key : List Byte
deriving DecidableEq, Repr

/-- A MACsec association (R364–R367): the transmit secure association, one installed that awaits the peer's confirmation, the receive one and
those before it that are kept. A key is held as long as an association that uses it (R29). -/
structure Assoc where
  tx : Option TxSa
  txWaiting : Option TxSa
  rx : Option RxSa
  prevRx : List RxSa
  /-- Frames under the new receive association have arrived; the retirement of the previous one is due. -/
  newSeen : Bool
  /-- REKEY_DUE has been logged for the present transmit association. -/
  rekeying : Bool
  stopped : Bool
  /-- What KEY_AGREE 1 of the agreement carried: its repetition begins no other (R365). -/
  request : List Byte
  /-- Digest of the key that the peer's chain ended at, and of its end-entity key (R547). -/
  root : List Byte
  device : List Byte
deriving DecidableEq, Repr

/-- A key agreement under way (R365): the AN, the step last sent, and how often it was sent again; the decapsulation key and
nonce of an initiator. -/
structure Agreement where
  an : BitVec 2
  initiator : Bool
  step : Nat
  resends : Nat
  dk : List Byte
  nonce : List Byte
  /-- The message of the step, for its resending. -/
  body : List Byte
  root : List Byte
  device : List Byte
  /-- What KEY_AGREE 1 carried: encapsulation key, nonce and AN. -/
  request : List Byte
deriving DecidableEq, Repr

/-- A message that has entered the headrace and has not been admitted. -/
structure Entered where
  qpn : BitVec 12
  msn : BitVec 24
  head : MsgHead
  payload : List Byte
  /-- The profile knobs in force at its admission to the headrace (R27). -/
  knobs : Knobs
deriving DecidableEq, Repr

/-- The fabric engine. Associations and agreements are named by virtual node, peer, and whether they are the twin link's. -/
structure Fabric where
  ports : Tbl (BitVec 5) Port
  qps : Tbl (BitVec 12) Qp
  assocs : Tbl (VId × NodeId × Bool) Assoc
  agreements : Tbl (VId × NodeId × Bool) Agreement
  /-- The headrace, oldest first (R359, R361). -/
  entered : List Entered
  /-- The queue pairs in the order of their last turns, the latest last (R361). -/
  turns : List (BitVec 12)
  /-- FAB lanes whose transmitter is held squelched: all of them in device reset (R562), then those whose pairs the board has connected to
  nothing (R600). -/
  squelched : List Nat
deriving DecidableEq, Repr

/-- No link, no context, no association. -/
def Fabric.reset : Fabric := ⟨[], [], [], [], [], [], List.range 20⟩

/-! ## Management (R530–R554) -/

/-- A management session (R533): SESSION_ID, role, and the records of each direction. -/
structure Session where
  id : BitVec 16
  role : Nat
  rxRecords : Nat
  txRecords : Nat
  /-- The 88 bytes of R533 step 3: a key and an initial vector for each direction, client to node first. -/
  keys : List Byte
deriving DecidableEq, Repr

/-- The management processor and the I3C target. `tenancy` is TENANCY_STATE. -/
structure Mgmt where
  dynAddr : Option (BitVec 7)
  alert : Byte
  operatorAnchor : List Byte
  anchorLock : Bool
  identityOk : Bool
  sessions : Tbl (BitVec 2) Session
  /-- UTC seconds as last set, and UPTIME_NS at that time. -/
  time : Option (Nat × Nat)
  tenantAnchor : List Byte
  anchors : List AnchorEntry
  tenancy : Nat
  tenancies : Nat
  keyId : List Byte
  /-- Slot 0's PUF seed and slot 1's tenancy key. -/
  seed : List Byte
  tk : Option (List Byte)
  /-- The HBM and flash data key pairs in force: those of slots 2 and 3, or the interim ones (R144, R315, R544). -/
  hbmKeys : List Byte
  flashKeys : List Byte
  /-- The boot-session HBM key pair of the rows above the frame rows (R144). -/
  bootKeys : List Byte
  /-- Key slot status words (R544): VALID and KEY_GEN. -/
  slots : Tbl Nat (Bool × BitVec 32)
  meas : List (List Byte)
  hostDataAllow : Bool
  /-- IDE streams in Secure state (R548). -/
  ide : List (BitVec 4)
  ideSecure : Bool
  lastHostDenied : Option Nat
  debugLockOpen : Bool
deriving DecidableEq, Repr

/-- After device reset. -/
def Mgmt.reset : Mgmt where
  dynAddr := none
  alert := 0
  operatorAnchor := zeros 32
  anchorLock := false
  identityOk := false
  sessions := []
  time := none
  tenantAnchor := zeros 32
  anchors := []
  tenancy := 0
  tenancies := 0
  keyId := zeros 16
  seed := []
  tk := none
  hbmKeys := []
  flashKeys := []
  bootKeys := []
  slots := []
  meas := List.replicate 8 (zeros 32)
  hostDataAllow := false
  ide := []
  ideSecure := false
  lastHostDenied := none
  debugLockOpen := false

/-! ## The machine -/

/-- The state of the node. -/
structure State where
  /-- The commands and events that wait, first in, first out. -/
  pending : List Instr
  /-- The model's own count of free values taken; no register of the part. -/
  tick : Nat
  egress : List Output
  pw : Power
  knobs : Knobs
  profile : Nat
  configured : Bool
  configDigest : List Byte
  /-- A frame has been allocated since device reset (R35). -/
  everAllocated : Bool
  ctr : Tbl (Counter × Nat) Nat
  log : Log
  mem : Memory
  frames : Tbl FrameId Frame
  withheld : List FrameId
  spans : Tbl FrameId SpanRec
  seqs : Tbl FrameId SeqRec
  dir : Directory
  vnodes : Tbl VId VNode
  hbmStacks : Tbl Nat Stack
  runners : Tbl (Nat × Nat) Runner
  host : HostIf
  sync : Sync
  sealQueue : List SealItem
  jobs : Tbl Nat Job
  peerSent : Tbl (BitVec 32) PeerSent
  nextTag : BitVec 32
  nextId : Nat
  deferred : List Deferred
  /-- Layers and heads on which appends are held (R101, R112, R396). -/
  holds : List Hold
  /-- The admitted command that the present step serves. -/
  work : WorkTag
  regions : Tbl (BitVec 32) Region
  fab : Fabric
  attn : Attn
  tier : Tier
  hbm : Hbm
  /-- Mask records by their frame, and the slots in use of each mask page (R206–R211). -/
  masks : Tbl FrameId MaskRec
  maskPages : Tbl FrameId (Tbl Nat MaskSlot)
  mgmt : Mgmt
deriving DecidableEq, Repr

/-- The state right after device reset: nothing listed in any table, every level at its reset value, before POWER_UP. -/
def State.reset : State where
  pending := []
  tick := 0
  egress := []
  pw := Power.reset
  knobs := Knobs.default
  profile := 0
  configured := false
  configDigest := zeros 32
  everAllocated := false
  ctr := []
  log := ⟨[], 0, 0, none, []⟩
  mem := ⟨[], []⟩
  frames := []
  withheld := []
  spans := []
  seqs := []
  dir := ⟨[], []⟩
  vnodes := []
  hbmStacks := []
  runners := []
  host := ⟨[], [], [], [], 0, 0, [], [], 1, [], []⟩
  sync := ⟨[], [], 0, [], 0, zeros 32, 0, false⟩
  sealQueue := []
  jobs := []
  peerSent := []
  nextTag := 1
  nextId := 1
  deferred := []
  holds := []
  work := ⟨0, none⟩
  regions := []
  fab := Fabric.reset
  attn := Attn.reset
  tier := Tier.reset
  hbm := Hbm.reset
  masks := []
  maskPages := []
  mgmt := Mgmt.reset

end Sys2Proof.Machine
end

