-- ==== Sys2Proof/Machine/Flags.lean ====
section
/-! DEFINITION. Outputs, interrupts and the flags that the node raises: MSI-X vectors and their pending bits (R439), DEV_ERROR
(R435) and ALERT (R531). -/

namespace Sys2Proof.Machine

/-- Emit an output. -/
def emit (o : Output) (s : State) : State := { s with egress := s.egress ++ [o] }

/-- Raise an MSI-X vector: a message where its table entry is enabled, a pending bit otherwise (R439). -/
def raise (v : Nat) (s : State) : State :=
  if v ∈ s.host.msix then emit (.msix v) s
  else if v ∈ s.host.msixPending then s
  else { s with host := { s.host with msixPending := s.host.msixPending ++ [v] } }

/-- Set a bit of DEV_ERROR (R435); a bit that becomes set raises vector 0 (R439). -/
def setDevError (bit : Nat) (s : State) : State :=
  if s.host.devError.getLsbD bit then s
  else raise 0 { s with host := { s.host with devError := s.host.devError ||| BitVec.ofNat 3 (2 ^ bit) } }

/-- Set a bit of ALERT; one that becomes set raises an in-band interrupt. -/
def setAlert (bit : Nat) (s : State) : State :=
  if s.mgmt.alert.getLsbD bit then s
  else emit .ibi { s with mgmt := { s.mgmt with alert := s.mgmt.alert ||| BitVec.ofNat 8 (2 ^ bit) } }

end Sys2Proof.Machine
end

