-- ==== Sys2Proof/Machine/Place.lean ====
section
/-! DEFINITION. Frames by their number and places in the banks (R50, R51, R135–R137, R143). -/

namespace Sys2Proof.Machine

/-- A place in the banks: the fields of the tweak of R143. -/
structure Place where
  stack : Nat
  pc : Nat
  sid : Nat
  bg : Nat
  ba : Nat
  row : Nat
  cw : Nat
deriving DecidableEq, Repr

/-- Stack and pseudo-channel of a frame, numbered 0 to 255 over the node (R50). -/
def framePc (f : FrameId) : Nat := f / 65536
/-- Frame index within its pseudo-channel. -/
def frameIx (f : FrameId) : Nat := f % 65536
/-- The stack of a frame. -/
def frameStack (f : FrameId) : Nat := f / 65536 / 32
/-- A frame from its pseudo-channel and index. -/
def mkFrame (pc ix : Nat) : FrameId := pc * 65536 + ix
/-- The physical address of a frame (R437, R51). -/
def frameBase (f : FrameId) : Nat := framePc f / 32 * 2 ^ 36 + framePc f % 32 * pcBytes + frameIx f * frameBytes

/-- Bytes of the frame rows of a pseudo-channel. -/
def frameArea : Nat := framesPerPc * frameBytes

/-- Frame rows in each bank of a quad (R136). -/
def frameRows (q : Nat) : Nat := if q < 5 then 31878 else 31869

/-- Rows of a bank above the frame rows. -/
def spareRows (q : Nat) : Nat := 32768 - frameRows q

/-- Rows of R137 in the banks before bank group 0 of a quad. -/
def rowsBefore (q : Nat) : Nat := ((List.range q).map (fun i => 4 * spareRows i)).foldl (· + ·) 0

/-- The stack of an address. -/
def stackOf (a : Nat) : Nat := a / 2 ^ 36

/-- The place of a physical address. -/
def placeOf (a : Nat) : Place :=
  let stack := a / 2 ^ 36
  let pc := a % 2 ^ 36 / pcBytes
  let o := a % pcBytes
  if o < frameArea then
    let f := o / frameBytes
    let b := o % frameBytes
    let r := b / 1024
    let q := f % 16
    ⟨stack, pc, q / 4, r % 4, q % 4, 9 * (f / 16) + r / 4, b % 1024 / 32⟩
  else
    let i := (o - frameArea) / 1024
    let q := ((List.range 16).filter (fun q => decide (rowsBefore q ≤ i))).length - 1
    let j := i - rowsBefore q
    ⟨stack, pc, q / 4, j / spareRows q, q % 4, frameRows q + j % spareRows q, o % 1024 / 32⟩

/-- The address at which a bank row starts. -/
def rowAddr (stack pc sid bg ba row : Nat) : Nat :=
  let q := sid * 4 + ba
  let base := stack * 2 ^ 36 + pc * pcBytes
  if row < frameRows q then base + (row / 9 * 16 + q) * frameBytes + (row % 9 * 4 + bg) * 1024
  else base + frameArea + 1024 * (rowsBefore q + bg * spareRows q + (row - frameRows q))

/-- The page-local row of a bank row: 63 for the rows of R137. -/
def pageRowOf (sid bg ba row : Nat) : Nat := if row < frameRows (sid * 4 + ba) then row % 9 * 4 + bg else 63

/-- The frame of an address. -/
def frameAt (a : Nat) : Option FrameId :=
  let o := a % pcBytes
  if o < frameArea ∧ a < hbmBytes then some (mkFrame (a / pcBytes) (o / frameBytes)) else none

/-- The payload fields that name a place (R143, R612). -/
def placeFields (p : Place) : List (Nat × Nat) :=
  [(8, p.stack), (8, p.pc), (8, p.sid), (8, p.bg), (8, p.ba), (16, p.row), (8, p.cw)]

/-- The FRAME_ID that an event names for a place (R50). DESIGN CHOICE (entry 78): in the rows of R137, which lie in no frame, the
pseudo-channel with the index 0xFFFF. -/
def frameField (a : Nat) : Nat × Nat := (32, (frameAt a).getD (mkFrame (a / pcBytes % 256) 65535))

end Sys2Proof.Machine
end

