-- ==== Sys2Proof/Machine/Rs.lean ====
section
/-! DEFINITION. The HBM code (R291–R293): Reed–Solomon over GF(2^8), its check symbols, and its bounded-distance decoder over
the 41 positions of a codeword. Positions 0–4 are the address symbols, 5–36 the data and 37–40 the check symbols. -/

namespace Sys2Proof.Machine

/-- One shift in the field of polynomial 0x11D. -/
def gfShift (a : Byte) : Byte := if a.getLsbD 7 then (a <<< 1) ^^^ 0x1D else a <<< 1

/-- The product of two field elements, over the lowest `n` bits of `b`. -/
def gfMulBits (n : Nat) (a b : Byte) : Byte :=
  match n with
  | 0 => 0
  | k + 1 => (if b.getLsbD 0 then a else 0) ^^^ gfMulBits k (gfShift a) (b >>> 1)

/-- The product of two field elements. -/
def gfMul (a b : Byte) : Byte := gfMulBits 8 a b

/-- A power of a field element. -/
def gfPow (a : Byte) (n : Nat) : Byte :=
  match n with
  | 0 => 1
  | k + 1 => gfMul a (gfPow a k)

/-- The inverse of a non-zero field element. -/
def gfInv (a : Byte) : Byte := gfPow a 254

/-- α^n. -/
def gfAlpha (n : Nat) : Byte := gfPow 2 n

/-- Symbols of a message with its check symbols. -/
def rsLen : Nat := 41

/-- The value of a polynomial, coefficients from the highest power, at a point. -/
def polyAt (x : Byte) (cs : List Byte) : Byte := cs.foldl (fun acc c => gfMul acc x ^^^ c) 0

/-- The generator polynomial below its leading term: (x + 1)(x + α)(x + α²)(x + α³). -/
def rsGen : List Byte :=
  [1, 2, 3].foldl (fun g j => (g ++ [0]).zipWith (· ^^^ ·) ([0] ++ g.map (gfMul (gfAlpha j)))) [1, 1]

/-- The remainder of x⁴·M(x) by the generator (R291 step 3). -/
def rsCheck (msg : List Byte) : List Byte :=
  msg.foldl (fun r m =>
    let f := m ^^^ r.headD 0
    ((r.drop 1) ++ [0]).zipWith (· ^^^ ·) ((rsGen.drop 1).map (gfMul f))) [0, 0, 0, 0]

/-- The 36 stored bytes of a codeword of an address (R291). -/
def rsEncode (addr : Nat) (data : List Byte) : List Byte := data ++ rsCheck (beBytes 5 addr ++ data)

/-- The syndromes of an error: the value of each erroneous position over the 41. -/
def rsSyndrome (err : List (Nat × Byte)) : List Byte :=
  (List.range 4).map (fun j => err.foldl (fun acc e => acc ^^^ gfMul e.2 (gfAlpha (j * (rsLen - 1 - e.1)))) 0)

/-- The outcomes of R292; CORRECTED says which positions were changed and by what. -/
inductive RsOut where
  | clean
  | corrected (fix : List (Nat × Byte))
  | address
  | uncorrectable
deriving DecidableEq, Repr

/-- The single error of a syndrome, where there is one. -/
def rsSingle (s : List Byte) : Option (Nat × Byte) :=
  let s0 := s.getD 0 0
  if s0 = 0 then none
  else (List.range rsLen).findSome? (fun i =>
    let x := gfAlpha (rsLen - 1 - i)
    if gfMul s0 x = s.getD 1 0 ∧ gfMul (s.getD 1 0) x = s.getD 2 0 ∧ gfMul (s.getD 2 0) x = s.getD 3 0 then some (i, s0) else none)

/-- The double error of a syndrome at two positions, where it fits. -/
def rsPair (s : List Byte) (i j : Nat) : Option (List (Nat × Byte)) :=
  let x := gfAlpha (rsLen - 1 - i)
  let y := gfAlpha (rsLen - 1 - j)
  let a := gfMul (s.getD 1 0 ^^^ gfMul (s.getD 0 0) y) (gfInv (x ^^^ y))
  let b := s.getD 0 0 ^^^ a
  if a ≠ 0 ∧ b ≠ 0 ∧ gfMul a (gfMul x x) ^^^ gfMul b (gfMul y y) = s.getD 2 0
      ∧ gfMul a (gfMul x (gfMul x x)) ^^^ gfMul b (gfMul y (gfMul y y)) = s.getD 3 0 then some [(i, a), (j, b)] else none

/-- The double error of a syndrome. -/
def rsDouble (s : List Byte) : Option (List (Nat × Byte)) :=
  (List.range rsLen).findSome? (fun i => (List.range rsLen).findSome? (fun j => if i < j then rsPair s i j else none))

/-- The outcome for the located errors: CORRECTED where all lie in stored positions (R292). -/
def rsLocated (fix : List (Nat × Byte)) : RsOut := if fix.any (fun f => decide (f.1 < 5)) then .address else .corrected fix

/-- Decode a syndrome in a mode (R293): 0 C1D3, otherwise C2. -/
def rsDecodeSyn (mode : Nat) (s : List Byte) : RsOut :=
  if s.all (· == 0) then .clean
  else match rsSingle s with
    | some f => rsLocated [f]
    | none =>
      if mode = 0 then .uncorrectable
      else match rsDouble s with
        | some fs => rsLocated fs
        | none => .uncorrectable

/-- Decode the error of a stored codeword, given by its stored positions 0–35 (R292). -/
def rsDecode (mode : Nat) (err : List (Nat × Byte)) : RsOut := rsDecodeSyn mode (rsSyndrome (err.map (fun e => (e.1 + 5, e.2))))

/-- The change of a symbol that an error pattern and a correction leave. -/
def rsLeft (err fix : List (Nat × Byte)) (pos : Nat) : Byte :=
  let at' (l : List (Nat × Byte)) (p : Nat) : Byte := (l.filter (fun e => e.1 = p)).foldl (fun a e => a ^^^ e.2) 0
  at' err pos ^^^ at' fix (pos + 5)

/-- The stored data positions that decode wrongly although no error is reported. -/
def rsWrong (mode : Nat) (err : List (Nat × Byte)) : List Nat :=
  match rsDecode mode err with
  | .clean => (List.range 32).filter (fun p => rsLeft err [] p ≠ 0)
  | .corrected fix => (List.range 32).filter (fun p => rsLeft err fix p ≠ 0)
  | _ => []

end Sys2Proof.Machine
end

