-- ==== Sys2Proof/Machine/Sha.lean ====
section
/-! DEFINITION. SHA-256 (FIPS 180-4), HMAC and HKDF over it, and CRC-32C, which the manual names for digests, home weights,
key derivation and table images. -/

namespace Sys2Proof.Machine

/-- The 32-bit words of a number, the highest first. -/
def wordsOfNat (n : Nat) : Nat → List (BitVec 32)
  | 0 => []
  | k + 1 => BitVec.ofNat 32 (n / 2 ^ (32 * k)) :: wordsOfNat n k

/-- The round constants of SHA-256, the first one highest: the fractions of the cube roots of the first 64 primes. -/
def shaK : List (BitVec 32) := wordsOfNat
  0x428a2f9871374491b5c0fbcfe9b5dba53956c25b59f111f1923f82a4ab1c5ed5d807aa9812835b01243185be550c7dc372be5d7480deb1fe9bdc06a7c19bf174e49b69c1efbe47860fc19dc6240ca1cc2de92c6f4a7484aa5cb0a9dc76f988da983e5152a831c66db00327c8bf597fc7c6e00bf3d5a7914706ca63511429296727b70a852e1b21384d2c6dfc53380d13650a7354766a0abb81c2c92e92722c85a2bfe8a1a81a664bc24b8b70c76c51a3d192e819d6990624f40e3585106aa07019a4c1161e376c082748774c34b0bcb5391c0cb34ed8aa4a5b9cca4f682e6ff3748f82ee78a5636f84c878148cc7020890befffaa4506cebbef9a3f7c67178f2 64

/-- The initial hash value, its first word highest: the fractions of the square roots of the first eight primes. -/
def shaStart : List (BitVec 32) := wordsOfNat 0x6a09e667bb67ae853c6ef372a54ff53a510e527f9b05688c1f83d9ab5be0cd19 8

/-- The exclusive or of three rotations to the right. -/
def rotations (x : BitVec 32) (i j k : Nat) : BitVec 32 := x.rotateRight i ^^^ x.rotateRight j ^^^ x.rotateRight k

/-- One round on the eight working words: the sum of the constant and the schedule word enters at the first and the fifth. -/
def shaRound (kw : BitVec 32) : List (BitVec 32) → List (BitVec 32)
  | [p, q, r, t, u, v, w, z] =>
    let add := z + kw + rotations u 6 11 25 + ((u &&& (v ^^^ w)) ^^^ w)
    let majority := (p &&& (q ||| r)) ||| (q &&& r)
    [add + majority + rotations p 2 13 22, p, q, r, t + add, u, v, w]
  | ws => ws

/-- The message schedule from its latest sixteen words, oldest first: those words, and `n` more. -/
def shaSchedule : Nat → List (BitVec 32) → List (BitVec 32)
  | 0, last => last
  | n + 1, last =>
    let early := last.getD 1 0
    let late := last.getD 14 0
    let next := (late.rotateRight 17 ^^^ late.rotateRight 19 ^^^ (late >>> 10)) + last.getD 9 0
      + (early.rotateRight 7 ^^^ early.rotateRight 18 ^^^ (early >>> 3)) + last.headD 0
    last.headD 0 :: shaSchedule n (last.tail ++ [next])

/-- The chaining value after one block of 64 bytes. -/
def shaBlock (hash : List (BitVec 32)) (block : List Byte) : List (BitVec 32) :=
  let schedule := shaSchedule 48 (wordsOfNat (beNat block) 16)
  List.zipWith (· + ·) hash ((List.zipWith (· + ·) shaK schedule).foldl (fun ws kw => shaRound kw ws) hash)

/-- A message with its padding: a one bit, zeros, and its length in bits. -/
def shaPadded (m : List Byte) : List Byte :=
  m ++ 0x80 :: zeros ((119 - m.length % 64) % 64) ++ beBytes 8 (8 * m.length)

/-- SHA-256 of a byte string: 32 bytes. -/
def sha256 (m : List Byte) : List Byte := ((chunks 64 (shaPadded m)).foldl shaBlock shaStart).flatMap (fun w => beBytes 4 w.toNat)

/-- HMAC-SHA-256. -/
def hmac (key m : List Byte) : List Byte :=
  let k := padTo 64 (if key.length ≤ 64 then key else sha256 key)
  sha256 (k.map (· ^^^ 0x5c) ++ sha256 (k.map (· ^^^ 0x36) ++ m))

/-- The expansion of HKDF-SHA-256 (RFC 5869), `n` further blocks from number `i`. -/
def hkdfExpand (n i : Nat) (prk prev info : List Byte) : List Byte :=
  match n with
  | 0 => []
  | k + 1 =>
    let t := hmac prk (prev ++ info ++ [BitVec.ofNat 8 i])
    t ++ hkdfExpand k (i + 1) prk t info

/-- HKDF-SHA-256 (RFC 5869): input keying material, salt, info and output length. -/
def hkdf (ikm salt info : List Byte) (len : Nat) : List Byte :=
  let prk := hmac (if salt.isEmpty then zeros 32 else salt) ikm
  (hkdfExpand (ceilDiv len 32) 1 prk [] info).take len

/-- One bit of CRC-32C, reflected. -/
def crcBit (c : BitVec 32) : BitVec 32 := if c.getLsbD 0 then (c >>> 1) ^^^ 0x82F63B78 else c >>> 1

/-- CRC-32C (Castagnoli) of a byte string. -/
def crc32c (bs : List Byte) : BitVec 32 :=
  ~~~(bs.foldl (fun c b =>
    let x := c ^^^ (b.zeroExtend 32)
    crcBit (crcBit (crcBit (crcBit (crcBit (crcBit (crcBit (crcBit x)))))))) 0xFFFFFFFF)

/-- One bit of the CRC of IEEE 802.3, reflected. -/
def fcsBit (c : BitVec 32) : BitVec 32 := if c.getLsbD 0 then (c >>> 1) ^^^ 0xEDB88320 else c >>> 1

/-- The frame check sequence of IEEE 802.3 over the bytes of a frame (R333, R338). -/
def frameCheck (bs : List Byte) : List Byte :=
  leBytes 4 (~~~(bs.foldl (fun c b =>
    let x := c ^^^ (b.zeroExtend 32)
    fcsBit (fcsBit (fcsBit (fcsBit (fcsBit (fcsBit (fcsBit (fcsBit x)))))))) 0xFFFFFFFF)).toNat

/-- The bytes of an ASCII text. -/
def ascii (t : List Char) : List Byte := t.map (fun c => BitVec.ofNat 8 c.toNat)

end Sys2Proof.Machine
end

