-- ==== Sys2Proof/Machine/Ops.lean ====
section
/-! DEFINITION. The named operations over the state that every family of commands uses: free values, counters, events,
interrupts, memory, frames and virtual nodes. -/

namespace Sys2Proof.Machine

/-- The outcome of a command. -/
abbrev Res := Host.Outcome State Fault Refusal

/-! ## Status codes (R448) -/

/-- Completed. -/
def stOk : Status := 0x0000
/-- Completed; free frames are exhausted. -/
def stGrowLow : Status := 0x0002
/-- Not executed; retry later. -/
def stRetryAfter : Status := 0x0100
/-- Directory update or rebuild under way. -/
def stMissTransient : Status := 0x0101
/-- The target lies on the node named. -/
def stMoved : Status := 0x0102
/-- Map epoch not accepted. -/
def stStaleMap : Status := 0x0103
/-- Ownership disputed. -/
def stOwnerInDoubt : Status := 0x0104
/-- A limit expired. -/
def stTimeout : Status := 0x0105
/-- Ended by a restart, reset or refusal of a counterpart. -/
def stAborted : Status := 0x0106
/-- Not yet complete. -/
def stPending : Status := 0x0107
/-- Malformed or out of range. -/
def stBadParam : Status := 0x0200
/-- Not permitted in the present state. -/
def stDenied : Status := 0x0201
/-- No frame, entry, slot or ring space. -/
def stNoSpace : Status := 0x0202
/-- Not found. -/
def stMiss : Status := 0x0203
/-- Page generation differs. -/
def stStaleGen : Status := 0x0204
/-- Sender or node fenced. -/
def stFenced : Status := 0x0205
/-- Data could not be corrected. -/
def stUncorrectable : Status := 0x0300
/-- A certificate or identity check failed. -/
def stCheckFail : Status := 0x0301
/-- Page poisoned, cause DIVERGENT. -/
def stReplicaDivergent : Status := 0x0302
/-- Data lost. -/
def stLost : Status := 0x0303
/-- Code table generation mismatch. -/
def stCodecTableStale : Status := 0x0304

/-- Whether a status is of class 0x00 (R448). -/
def stSuccess (st : Status) : Bool := st.toNat / 256 == 0

/-- A reply with a status and nothing else. -/
def Reply.st (status : Status) : Reply := ⟨status, 0, none, 0, 0, 0, []⟩
/-- In place of a packet offset: no single field is at fault (R446), as where the sum of two fields is too large. -/
def noField : Nat := 4294967296

/-- ST_BAD_PARAM with the offset of the first bad field (R446). -/
def Reply.bad (off : Nat) : Reply :=
  ⟨stBadParam, BitVec.ofNat 16 (if off < 0xFFFC then off else if off < noField then 0xFFFC else 0xFFFF), none, 0, 0, 0, []⟩
/-- ST_BAD_PARAM with no single field at fault. -/
def Reply.badAny : Reply := ⟨stBadParam, 0xFFFF, none, 0, 0, 0, []⟩
/-- ST_MOVED naming a node. -/
def Reply.moved (n : NodeId) : Reply := ⟨stMoved, 0, some n, 0, 0, 0, []⟩
/-- ST_RETRY_AFTER with a hint of at least 1 µs, saturated (R446). -/
def Reply.retry (us : Nat) : Reply := ⟨stRetryAfter, 0, none, min 65535 (max 1 us), 0, 0, []⟩
/-- ST_OK with a result of so many entries (R447). -/
def Reply.ofResult (entries : Nat) (bytes : List Byte) : Reply :=
  ⟨stOk, 0, none, 0, BitVec.ofNat 64 entries, BitVec.ofNat 64 bytes.length, bytes⟩

/-! ## Free values, counters, interrupts, events -/

/-- Take a free number. -/
def takeFree (s : State) : Nat × State := (Config.freeNat s.tick, { s with tick := s.tick + 1 })

/-- Take an estimate of a wait. -/
def takeEstimate (s : State) : Nat × State := (Config.waitEstimate s.tick, { s with tick := s.tick + 1 })

/-- Add to a counter of an index; counters saturate at 2^64 − 1 (R92). -/
def bumpAt (c : Counter) (ix n : Nat) (s : State) : State :=
  { s with ctr := s.ctr.upd (c, ix) 0 (fun v => min (2 ^ 64 - 1) (v + n)) }

/-- Add 1 to a counter kept per node. -/
def bump (c : Counter) (s : State) : State := bumpAt c 0 1 s

/-- Add 1 to a counter kept per virtual node (R385). -/
def bumpV (c : Counter) (v : VId) (s : State) : State := bumpAt c v.toNat 1 s

/-- Add to a counter kept per node. -/
def bumpBy (c : Counter) (n : Nat) (s : State) : State := bumpAt c 0 n s

/-- The value of a counter. -/
def counterAt (s : State) (c : Counter) (ix : Nat) : Nat := s.ctr.atD (c, ix) 0

/-- The virtual node of an identifier. -/
def vn (s : State) (v : VId) : VNode := s.vnodes.atD v VNode.reset

/-- Change a virtual node. -/
def updVn (v : VId) (f : VNode → VNode) (s : State) : State := { s with vnodes := s.vnodes.upd v VNode.reset f }

/-- The severity of an event code (R488, R528, R553, R594): 0 INFO, 1 WARNING, 2 ERROR, 3 FATAL. -/
def severityOf (code : Nat) : Nat :=
  if code ∈ [0x0103, 0x0301, 0x0302, 0x0601, 0x0603, 0x0604, 0x0701, 0x0702, 0x0703, 0x0704, 0x0803, 0x0903, 0x0904,
    0x0905, 0x0A01, 0x0A04, 0x0B02, 0x0B05, 0x0C01, 0x0C02] then 2
  else if code ∈ [0x0705, 0x0709, 0x0804, 0x0805, 0x0A02, 0x0B04, 0x0B07, 0x0C03, 0x0C05, 0x0C06, 0x0D01, 0x0D02,
    0x0D03, 0x0D05] then 0
  else 1

/-- The records that the log has room for (R485). -/
def logRoom : Nat := 65536

/-- Digests and content hashes of an event are zero while the tenancy is SEALED (R552). -/
def hideDigests (s : State) (payload : List (Nat × Nat)) : List (Nat × Nat) :=
  if s.mgmt.tenancy = 2 then payload.map (fun f => if f.1 = 256 then (256, 0) else f) else payload

/-- Append an event record (R485–R487): code, source, node and payload fields with their logged widths. A full log discards
its oldest record; a record of severity ERROR or FATAL raises vector 0 (R439). -/
def logFrom (v : VId) (code source : Nat) (payload : List (Nat × Nat)) (s : State) : State :=
  let full := decide (logRoom ≤ s.log.events.length)
  let s := if full then setDevError 2 (bump .eventsDropped s) else s
  let held := if full then s.log.events.drop 1 else s.log.events
  let dropped := s.log.dropped + b2n full
  let e : Event := ⟨s.log.nextSeq, code, source, severityOf code, (vn s v).nodeId, s.pw.uptime, min (2 ^ 32 - 1) dropped, hideDigests s payload⟩
  let s := { s with log := { s.log with events := held ++ [e], nextSeq := s.log.nextSeq + 1, dropped := 0 } }
  if 2 ≤ severityOf code then raise 0 s else s

/-- Sources of R485: control core 0, where the manual names no unit. -/
def srcCore : Nat := 0x00
/-- The stack controller of stack `n`. -/
def srcStack (n : Nat) : Nat := 0x10 + n
/-- Fabric engine. -/
def srcFabric : Nat := 0x20
/-- Codec. -/
def srcCodec : Nat := 0x21
/-- Hash engine. -/
def srcHash : Nat := 0x22
/-- Directory. -/
def srcDir : Nat := 0x23
/-- Synchronisation unit. -/
def srcSync : Nat := 0x24
/-- Flash. -/
def srcFlash : Nat := 0x25
/-- Host interface. -/
def srcHost : Nat := 0x26
/-- Management processor. -/
def srcMgmt : Nat := 0x30
/-- Power control. -/
def srcPower : Nat := 0x31

/-! ## Time -/

/-- Whether the always-on domain has left device reset, so that UPTIME_NS runs and the I3C target answers (R531, R565, R611). -/
def released (s : State) : Bool := s.pw.up || s.pw.testMode

/-- UPTIME_NS counts its 40 ns resolution (R559) once device reset is released. -/
def countTime (s : State) : State := if released s then { s with pw := { s.pw with uptime := s.pw.uptime + 40 } } else s

/-! ## The I3C target (R531) -/

/-- Whether the I3C target answers: once device reset is released, and after a thermal trip (R586). -/
def i3cAnswers (s : State) : Bool := released s || s.pw.thermTrip

/-- The highest of the node-die and base-die temperatures (TEMP_MAX). -/
def tempMax (s : State) : Int :=
  match s.pw.temps ++ s.hbmStacks.map (fun x => x.2.temp) with
  | [] => 0
  | t :: r => r.foldl max t

/-- Set ALERT [2] while TEMP_MAX is at or above the level-2 threshold of R167. -/
def alertTemp (s : State) : State := if 92 ≤ tempMax s then setAlert 2 s else s

/-! ## Jobs and held commands -/

/-- Enter a job. -/
def addJob (j : Job) (s : State) : Nat × State :=
  (s.nextId, { s with jobs := s.jobs.put s.nextId j, nextId := s.nextId + 1 })

/-- Change a job. -/
def setJob (id : Nat) (j : Job) (s : State) : State := { s with jobs := s.jobs.put id j }

/-- End a job. -/
def endJob (id : Nat) (s : State) : State := { s with jobs := s.jobs.del id }

/-- Hold a command or message until what it waits for comes about; one that was held before keeps its place in the order. -/
def deferAt (order : Option Nat) (why : DeferWhy) (i : Instr) (k : Knobs) (s : State) : State :=
  { s with deferred := s.deferred ++ [⟨s.nextId, order.getD s.nextId, why, i, k⟩], nextId := s.nextId + 1 }

/-- Hold a command or message for the first time. -/
def defer (why : DeferWhy) (i : Instr) (k : Knobs) (s : State) : State := deferAt none why i k s

/-! ## HBM -/

/-- The byte at an address; none where nothing has been written since the key last changed. -/
def Memory.byte (m : Memory) (a : Nat) : Option Byte :=
  match Tbl.at? m.cells a with
  | some b => some b
  | none => m.unlisted a

/-- The bytes of `n` addresses from `a`, off the cells at or above `a`. -/
def Memory.walk (m : Memory) (n a : Nat) (cs : List Host.Cell) : List (Option Byte) :=
  match n with
  | 0 => []
  | k + 1 =>
    match cs with
    | [] => m.unlisted a :: Memory.walk m k (a + 1) []
    | (a', b) :: r =>
      if a' = a then some b :: Memory.walk m k (a + 1) r else m.unlisted a :: Memory.walk m k (a + 1) cs

/-- The bytes of `n` addresses from `a`. -/
def Memory.read (m : Memory) (a n : Nat) : List (Option Byte) :=
  m.walk n a ((m.cells.dropWhile (fun c => decide (c.1 < a))).takeWhile (fun c => decide (c.1 < a + n)))

/-- The cells that a string at an address needs: those that differ from what their address reads as unlisted. -/
def Memory.cellsFor (m : Memory) (a : Nat) : List Byte → List Host.Cell
  | [] => []
  | b :: r => if m.unlisted a = some b then Memory.cellsFor m (a + 1) r else (a, b) :: Memory.cellsFor m (a + 1) r

/-- Write a string at an address. -/
def Memory.write (m : Memory) (a : Nat) (bs : List Byte) : Memory :=
  { m with cells := m.cells.filter (fun c => decide (c.1 < a)) ++ m.cellsFor a bs
      ++ m.cells.filter (fun c => decide (a + bs.length ≤ c.1)) }

/-- Put a number in a strictly rising list. -/
def insertRising (x : Nat) : List Nat → List Nat
  | [] => [x]
  | y :: r => if x < y then x :: y :: r else if x = y then y :: r else y :: insertRising x r

/-- Clear the frame at a base address with RN_FILL (R146). -/
def Memory.clearFrame (m : Memory) (base : Nat) : Memory where
  cells := m.cells.filter (fun c => decide (c.1 < base) || decide (base + frameBytes ≤ c.1))
  cleared := insertRising base m.cleared

/-- Forget every frame row: their key has changed (R144). -/
def Memory.rekeyFrames (m : Memory) : Memory where
  cells := m.cells.filter (fun c => (frameBaseOf c.1).isNone)
  cleared := []

/-- Forget the errors of the codewords that a write of `n` bytes covers whole (R139). -/
def clearErrs (a n : Nat) (s : State) : State :=
  { s with hbm := { s.hbm with errs := s.hbm.errs.filter (fun e => decide (32 * e.1 < a) || decide (a + n < 32 * e.1 + 32)) } }

/-- The plaintext byte of an address where a codeword error decodes wrongly without a report (R293): decryption spreads it over the 16-byte
block (R140). DESIGN CHOICE (entry 123): it is a free value of the error, the keys and the block, since ciphertext is not held. -/
def garbled (s : State) (a : Nat) : Option Byte :=
  match s.hbm.errs.at? (a / 32) with
  | some e => if (rsWrong s.knobs.hbmCodeMode e).any (fun p => decide (p / 16 = a % 32 / 16)) then
      some (Config.miscorrected e s.mgmt.hbmKeys (s.mem.read (a / 16 * 16) 16) a)
    else none
  | none => none

/-- Bytes of HBM as a read returns them; a byte never written since its key changed is a free value (R437). -/
def hbmRead (s : State) (a n : Nat) : List Byte :=
  ((s.mem.read a n).zip (List.range n)).map (fun p =>
    (garbled s (a + p.2)).getD (p.1.getD (Config.unspecifiedByte s.tick (a + p.2))))

/-- Write a codeword back as it decodes, so that its stored error is gone; where it was corrected to another codeword, that one stays
(R142, R293, R301). -/
def writeBack (cw : Nat) (s : State) : State :=
  match s.hbm.errs.at? cw with
  | none => s
  | some e =>
    let m := if (rsWrong s.knobs.hbmCodeMode e).isEmpty then s.mem else s.mem.write (32 * cw) (hbmRead s (32 * cw) 32)
    { s with mem := m, hbm := { s.hbm with errs := s.hbm.errs.del cw } }

/-- The read of a codeword that a node-die write of part of it begins with (R142): a correction is counted and merged into; a codeword that
stays uncorrectable is counted, logged and handed on to its handling under R296. DESIGN CHOICE (entry 79): the new bytes are written and the
codeword's error stays. -/
def mergeCw (cw : Nat) (s : State) : State :=
  match s.hbm.errs.at? cw with
  | none => s
  | some e =>
    let st := 32 * cw / 2 ^ 36
    match rsDecode s.knobs.hbmCodeMode e with
    | .clean => writeBack cw s
    | .corrected _ => writeBack cw (bumpAt .hbmCe st 1 s)
    | r =>
      let s := bumpAt .hbmUe st 1 (if r = .address then bumpAt .hbmAddrErr st 1 s else s)
      let s := logFrom 0 0x0701 (srcStack st) (placeFields (placeOf (32 * cw)) ++ [frameField (32 * cw)]) s
      { s with hbm := { s.hbm with ueDue := if cw ∈ s.hbm.ueDue then s.hbm.ueDue else s.hbm.ueDue ++ [cw] } }

/-- Read the codewords at the ends of a write that it covers in part (R142). -/
def mergeEnds (a n : Nat) (s : State) : State :=
  if n = 0 then s
  else
    let s := if a % 32 ≠ 0 then mergeCw (a / 32) s else s
    if (a + n) % 32 ≠ 0 ∧ (a % 32 = 0 ∨ (a + n) / 32 ≠ a / 32) then mergeCw ((a + n) / 32) s else s

/-- Write bytes into HBM. -/
def hbmWrite (a : Nat) (bs : List Byte) (s : State) : State :=
  let s := mergeEnds a bs.length s
  clearErrs a bs.length { s with mem := s.mem.write a bs }

/-! ## Frames (R50–R70) -/

/-- The frame-state entry of a frame. -/
def frameOf (s : State) (f : FrameId) : Frame := s.frames.atD f Frame.reset

/-- Change a frame-state entry. -/
def updFrame (f : FrameId) (g : Frame → Frame) (s : State) : State := { s with frames := s.frames.upd f Frame.reset g }

/-- The number of virtual nodes that a slice mode makes (R377). -/
def sliceCount (mode : Nat) : Nat := if mode = 1 then 2 else if mode = 2 then 4 else 1

/-- The pseudo-channels of a virtual node (R378, R382): first and count. -/
def pcsOf (s : State) (v : VId) : Nat × Nat :=
  let n := 256 / sliceCount s.knobs.sliceMode
  (v.toNat * n, n)

/-- Frames of a virtual node. -/
def framesOf (s : State) (v : VId) : Nat := (pcsOf s v).2 * framesPerPc

/-- Whether a pseudo-channel is a virtual node's. -/
def pcIn (s : State) (v : VId) (pc : Nat) : Bool :=
  let p := pcsOf s v
  decide (p.1 ≤ pc) && decide (pc < p.1 + p.2)

/-- Frames of a virtual node in FREE state (R70, R382). -/
def freeCount (s : State) (v : VId) : Nat :=
  framesOf s v - (s.frames.filter (fun p => pcIn s v (framePc p.1) && decide (p.2.state ≠ .free))).length

/-- Frames in FREE state that no owed spare has first claim on (R123). -/
def freeForUse (s : State) (v : VId) : Nat :=
  freeCount s v - (s.spans.filter (fun p => decide (p.2.vnode = v) && p.2.spareOwed.isSome)).length

/-- Frames of a pseudo-channel that are not FREE. -/
def busyIn (s : State) (pc : Nat) : List Nat :=
  (s.frames.filter (fun p => framePc p.1 = pc && decide (p.2.state ≠ .free))).map (fun p => frameIx p.1)

/-- The throttle level of a stack (R167). -/
def throttleOf (s : State) (stack : Nat) : Nat := (s.hbmStacks.atD stack Stack.reset).throttle

/-- Whether runner activations, RN_FILL among them, are issued on a pseudo-channel's stack (R167). -/
def pcFills (s : State) (pc : Nat) : Bool := decide (throttleOf s (pc / 32) < 3)

/-- Whether a pseudo-channel has a FREE frame. -/
def pcHasFree (s : State) (pc : Nat) : Bool := decide ((busyIn s pc).length < framesPerPc)

/-- The first frame index at or after `start`, cyclically, that is not in `busy`. -/
def freeIndexFrom (busy : List Nat) (start fuel : Nat) : Nat :=
  match fuel with
  | 0 => start % framesPerPc
  | k + 1 => if start % framesPerPc ∈ busy then freeIndexFrom busy (start + 1) k else start % framesPerPc

/-- The first pseudo-channel of a virtual node at or after `start`, cyclically, that satisfies `p`. -/
def pcFrom (s : State) (v : VId) (start : Nat) (p : Nat → Bool) : Option Nat :=
  let r := pcsOf s v
  ((List.range r.2).map (fun i => r.1 + (start + i) % r.2)).find? p

/-- Allocate a FREE frame of a pseudo-channel (R64, R146): its generation advances, 36 steps of RN_FILL clear it, and it takes the state
given. The index is firmware's choice (R52). -/
def allocIn (pc : Nat) (v : VId) (st : FrameState) (use : FrameUse) (s : State) : FrameId × State :=
  let busy := busyIn s pc
  let r := takeFree s
  let f := mkFrame pc (freeIndexFrom busy r.1 (busy.length + 1))
  let s := r.2
  let s := updFrame f (fun x => { x with state := st, gen := x.gen + 1, use := use, refs := 1, readers := [], ue := [], vnode := v }) s
  let s := bumpAt .runnerSteps (frameStack f) 36 s
  (f, clearErrs (frameBase f) frameBytes { s with mem := s.mem.clearFrame (frameBase f), everAllocated := true })

/-- The first pseudo-channel of a virtual node at or after `start`, cyclically, that satisfies `p`: one whose stack fills, where there is one
(R146, R167). -/
def pcToFill (s : State) (v : VId) (start : Nat) (p : Nat → Bool) : Option Nat :=
  match pcFrom s v start (fun c => p c && pcFills s c) with
  | some c => some c
  | none => pcFrom s v start p

/-- Allocate a FREE frame anywhere in a virtual node, where firmware chooses (R52), whatever is owed. -/
def allocFree (v : VId) (st : FrameState) (use : FrameUse) (s : State) : Option (FrameId × State) :=
  let r := takeFree s
  match pcToFill s v r.1 (pcHasFree s) with
  | some pc => some (allocIn pc v st use r.2)
  | none => none

/-- Whether a step has allocated a frame of a stack at throttle level 3, whose RN_FILL waits there (R146, R167). -/
def fillWaits (old new : State) : Bool :=
  new.frames.any (fun p => decide ((old.frames.atD p.1 Frame.reset).state = .free) && decide (p.2.state ≠ .free)
    && !(pcFills old (framePc p.1)))

/-- A step of the node's own, left for later where it would allocate a frame whose RN_FILL waits. -/
def whenFills (f : State → State) (s : State) : State := let t := f s; if fillWaits s t then s else t

/-- Allocate a FREE frame that no owed spare has first claim on (R123). -/
def allocAny (v : VId) (st : FrameState) (use : FrameUse) (s : State) : Option (FrameId × State) :=
  if freeForUse s v = 0 then none else allocFree v st use s

/-- Set the state of a frame, and for a data frame its STATE field (annex byte 0 bits [3:0], R60). -/
def setFrameState (f : FrameId) (st : FrameState) (s : State) : State :=
  let code : Nat := match st with
    | .free => 0 | .spare => 1 | .open_ => 2 | .sealed => 3 | .poisoned => 4 | .quarantined => 5 | .draining => 6
  let isData := decide ((frameOf s f).use = .data)
  let s := updFrame f (fun x => { x with state := st }) s
  if isData then
    let a := frameBase f + 32768
    let b := ((s.mem.byte a).getD 0).toNat
    hbmWrite a [BitVec.ofNat 8 (b / 16 * 16 + code)] s
  else s

/-- The append that a held command is. -/
def Deferred.append (d : Deferred) : Option (AppendSrc × List Byte) :=
  match d.instr with
  | .append m bs _ => some (.msg m, bs)
  | .kvAppend c bs _ => some (.cmd c, bs)
  | _ => none

/-- The append that a job is. -/
def Job.append (j : Job) : Option (AppendSrc × List Byte) :=
  match j with
  | .syncAppend src bs .. => some (src, bs)
  | .lagAppend src bs .. => some (src, bs)
  | _ => none

/-- The appends that have been admitted and are held, or wait for their twin. -/
def appendsNow (s : State) : List AppendSrc :=
  s.deferred.filterMap (fun d => d.append.map Prod.fst) ++ s.jobs.filterMap (fun j => j.2.append.map Prod.fst)

/-- The queries admitted and not ended, those that the directory holds included (R210, R211). -/
def queriesNow (s : State) : List Nat := s.attn.reqs.map Prod.fst ++ s.attn.held.map Prod.fst

/-- Whether queries admitted before have all completed or been aborted. -/
def queriesEnded (s : State) (ids : List Nat) : Bool := ids.all (fun r => !(s.attn.reqs.has r) && !(s.attn.held.has r))

/-- The data requests admitted and not ended (R64). -/
def requestsNow (s : State) : List Holder := (queriesNow s).map Holder.query ++ (appendsNow s).map Holder.append

/-- Whether a request has completed or been aborted. -/
def Holder.ended (s : State) : Holder → Bool
  | .query id => !(s.attn.reqs.has id) && !(s.attn.held.has id)
  | .append a => decide (a ∉ appendsNow s)

/-- Whether requests admitted before have all completed or been aborted. -/
def requestsEnded (s : State) (hs : List Holder) : Bool := hs.all (fun h => h.ended s)

/-- Release one reference to a frame (R64, R129): the last one puts it in DRAINING, with the reader drain mark of the requests
admitted before. -/
def releaseFrame (f : FrameId) (s : State) : State :=
  let x := frameOf s f
  if x.state = .free ∨ x.state = .draining ∨ x.state = .quarantined then s
  else if 1 < x.refs then updFrame f (fun x => { x with refs := x.refs - 1 }) s
  else setFrameState f .draining (updFrame f (fun x => { x with refs := 0, readers := requestsNow s }) s)

/-- The current generation of a frame. -/
def genOf (s : State) (f : FrameId) : BitVec 32 := (frameOf s f).gen

/-- The plaintext of a frame. -/
def readFrame (s : State) (f : FrameId) : List Byte := hbmRead s (frameBase f) frameBytes

end Sys2Proof.Machine
end

