-- ==== Sys2Proof/Machine/Wire.lean ====
section
/-! DEFINITION. Packets and frames as bytes: the headers and payloads of the transport in network byte order, and the layout of a Dreaskak
frame with and without a tag (R8, R337–R341, R349, R364, R368, R407). The rows of the table take packets as these definitions read them, and
what the node sends it lays out by them. -/

namespace Sys2Proof.Machine

/-! ## Words in network byte order (R8, R338) -/

/-- 32-bit words, each most significant byte first. -/
def beWords (ws : List Nat) : List Byte := ws.flatMap (beBytes 4)

/-- The 32-bit word at byte `4 * i`. -/
def beWordAt (bs : List Byte) (i : Nat) : Nat := beNat (bytesAt bs (4 * i) 4)

/-! ## The base transport header (R339, R340) -/

/-- PKT_TYPE DATA. -/
def pktData : Nat := 1
/-- ACK. -/
def pktAck : Nat := 2
/-- HELLO. -/
def pktHello : Nat := 3
/-- KEY_AGREE. -/
def pktKeyAgree : Nat := 4
/-- HEARTBEAT. -/
def pktHeartbeat : Nat := 5

/-- The 20 bytes of a base transport header. -/
def bthBytes (b : Bth) (type payloadLen : Nat) : List Byte :=
  beWords [
    word [(28, 1), (24, type), (23, b2n b.lastPkt), (22, b2n b.ackReq), (16, b.entropy.toNat), (0, payloadLen)],
    word [(16, b.dstNode.toNat), (0, b.srcNode.toNat)],
    word [(20, b.dstQpn.toNat), (8, b.srcQpn.toNat)],
    b.psn.toNat,
    word [(8, b.msn.toNat), (0, b.pktIndex.toNat)]]

/-- PKT_TYPE of a packet. -/
def pktType (bs : List Byte) : Nat := bitsOf (beWordAt bs 0) 27 24

/-- The length of the message header that a packet carries (R338, R341). -/
def headLen (type index : Nat) : Nat := if type = pktData ∧ index = 0 then 24 else 0

/-- Whether a packet's header breaks R339 or R340, or its length disagrees with PAYLOAD_LEN. -/
def bthBreaks (bs : List Byte) : Bool :=
  let t := pktType bs
  let w4 := beWordAt bs 4
  decide (bs.length < 20) || decide (bitsOf (beWordAt bs 0) 31 28 ≠ 1) || decide (t < 1) || decide (5 < t)
    || decide (beWordAt bs 2 % 256 ≠ 0) || (decide (t ≠ pktData) && decide (beWordAt bs 3 ≠ 0))
    || (decide (t ∈ [pktAck, pktHello, pktHeartbeat]) && decide (w4 / 256 ≠ 0))
    || decide (bs.length ≠ 20 + headLen t (w4 % 256) + beWordAt bs 0 % 65536)

/-- The base transport header of a packet that a virtual node receives. -/
def readBth (v : VId) (bs : List Byte) : Bth where
  vnode := v
  lastPkt := bitOf (beWordAt bs 0) 23
  ackReq := bitOf (beWordAt bs 0) 22
  entropy := BitVec.ofNat 6 (bitsOf (beWordAt bs 0) 21 16)
  dstNode := BitVec.ofNat 16 (bitsOf (beWordAt bs 1) 31 16)
  srcNode := BitVec.ofNat 16 (beWordAt bs 1)
  dstQpn := BitVec.ofNat 12 (bitsOf (beWordAt bs 2) 31 20)
  srcQpn := BitVec.ofNat 12 (bitsOf (beWordAt bs 2) 19 8)
  psn := BitVec.ofNat 32 (beWordAt bs 3)
  msn := BitVec.ofNat 24 (bitsOf (beWordAt bs 4) 31 8)
  pktIndex := BitVec.ofNat 8 (beWordAt bs 4)
  malformed := bthBreaks bs

/-! ## The message header (R341) -/

/-- The 24 bytes of a message header. -/
def headBytes (h : MsgHead) : List Byte :=
  beWords [word [(24, h.op.toNat), (0, h.msgLen.toNat)], word [(16, h.mapEpoch.toNat)], h.addr.toNat / 2 ^ 32, h.addr.toNat % 2 ^ 32,
    h.key.toNat, h.aux.toNat]

/-- A message header from its bytes. -/
def readHead (bs : List Byte) : MsgHead where
  op := BitVec.ofNat 8 (bitsOf (beWordAt bs 0) 31 24)
  msgLen := BitVec.ofNat 21 (bitsOf (beWordAt bs 0) 20 0)
  mapEpoch := BitVec.ofNat 16 (bitsOf (beWordAt bs 1) 31 16)
  addr := BitVec.ofNat 64 (beWordAt bs 2 * 2 ^ 32 + beWordAt bs 3)
  key := BitVec.ofNat 32 (beWordAt bs 4)
  aux := BitVec.ofNat 32 (beWordAt bs 5)
  rsv := decide (bitsOf (beWordAt bs 0) 23 21 ≠ 0) || decide (beWordAt bs 1 % 65536 ≠ 0)

/-- The bytes of a DATA packet: the message header stands in packet 0 only. -/
def dataBytes (p : DataPkt) : List Byte :=
  bthBytes p.bth pktData p.payload.length ++ (match p.head with
    | some h => headBytes h
    | none => []) ++ p.payload

/-- A DATA packet from its bytes and its congestion mark. -/
def readData (v : VId) (ce : Bool) (bs : List Byte) : DataPkt :=
  let b := readBth v bs
  let n := headLen pktData b.pktIndex.toNat
  ⟨b, ce, if n = 0 then none else some (readHead (bytesAt bs 20 n)), bs.drop (20 + n)⟩

/-! ## Command packets (R7, R440, R441) -/

/-- WAIT_OBJ or SIGNAL_OBJ. -/
def objField (valid : Bool) (i : BitVec 14) : Nat := word [(15, b2n valid), (0, i.toNat)]

/-- FLAGS. -/
def flagsField (h : CmdHeader) : Nat := word [(3, b2n h.signalAlways), (2, b2n h.irqNow), (0, b2n h.paramRef)]

/-- The 64 bytes of a command header with no reserved field set. -/
def cmdBytes (h : CmdHeader) : List Byte :=
  words64 [word [(48, h.opcode.toNat), (32, flagsField h), (0, h.tag.toNat)],
    word [(32, h.paramLen.toNat), (16, h.mapEpoch.toNat), (0, h.vnode.toNat)],
    word [(48, objField h.waitValid h.waitObj), (32, objField h.signalValid h.signalObj), (0, h.waitTimeout.toNat)],
    h.waitValue.toNat, h.signalValue.toNat, h.paramAddr.toNat, 0, 0]

/-- The offsets of the reserved fields of a command header that are not zero, ascending. -/
def cmdRsv (bs : List Byte) : List Nat :=
  let w (i hi lo : Nat) : Bool := decide (bitsOf (wordAt bs i) hi lo ≠ 0)
  ([(w 0 33 33 || w 0 47 36, 4), (w 1 15 2, 8), (w 1 63 53, 14), (w 2 46 46, 21), (w 2 62 62, 23), (w 6 63 0, 48), (w 7 63 0, 56)].filter
    (fun x => x.1)).map Prod.snd

/-- The header of a command packet. -/
def readCmd (p : Fetched) : CmdHeader where
  opcode := BitVec.ofNat 16 (bitsOf (wordAt p.bytes 0) 63 48)
  tag := BitVec.ofNat 32 (wordAt p.bytes 0)
  signalAlways := bitOf (wordAt p.bytes 0) 35
  irqNow := bitOf (wordAt p.bytes 0) 34
  paramRef := bitOf (wordAt p.bytes 0) 32
  paramLen := BitVec.ofNat 21 (bitsOf (wordAt p.bytes 1) 52 32)
  mapEpoch := BitVec.ofNat 16 (bitsOf (wordAt p.bytes 1) 31 16)
  vnode := BitVec.ofNat 2 (wordAt p.bytes 1)
  waitValid := bitOf (wordAt p.bytes 2) 63
  waitObj := BitVec.ofNat 14 (bitsOf (wordAt p.bytes 2) 61 48)
  signalValid := bitOf (wordAt p.bytes 2) 47
  signalObj := BitVec.ofNat 14 (bitsOf (wordAt p.bytes 2) 45 32)
  waitTimeout := BitVec.ofNat 32 (wordAt p.bytes 2)
  waitValue := BitVec.ofNat 64 (wordAt p.bytes 3)
  signalValue := BitVec.ofNat 64 (wordAt p.bytes 4)
  paramAddr := BitVec.ofNat 64 (wordAt p.bytes 5)
  rsv := cmdRsv p.bytes ++ p.paramRsv

/-! ## SYNC messages and reads (R342, R515) -/

/-- The 32 bytes of a SYNC message. -/
def syncBytes (op : Nat) (index fromIndex : BitVec 14) (value : Nat) (tag : BitVec 32) : List Byte :=
  words64 [word [(56, op), (42, index.toNat), (28, fromIndex.toNat)], value, tag.toNat, 0]

/-- Whether a field of a SYNC message that must be zero is not: a reserved one, FROM_INDEX of a SIGNAL, the upper bits of a tree operation's phase. -/
def syncRsv (op : Nat) (p : List Byte) : Bool :=
  decide (bitsOf (wordAt p 0) 27 0 ≠ 0) || decide (bitsOf (wordAt p 2) 63 32 ≠ 0) || decide (wordAt p 3 ≠ 0)
    || (if op = 1 then decide (bitsOf (wordAt p 0) 41 28 ≠ 0) else decide (bitsOf (wordAt p 1) 63 48 ≠ 0))

/-- Whether a SYNC message of 32 bytes reads as the fields given. -/
def syncReads (op : Nat) (index fromIndex : BitVec 14) (value : Nat) (tag : BitVec 32) (rsv : Bool) (p : List Byte) : Bool :=
  decide (p.length = 32) && decide (bitsOf (wordAt p 0) 63 56 = op) && decide (bitsOf (wordAt p 0) 55 42 = index.toNat)
    && (decide (op = 1) || decide (bitsOf (wordAt p 0) 41 28 = fromIndex.toNat)) && decide ((if op = 1 then wordAt p 1 else wordAt p 1 % 2 ^ 48) = value)
    && (decide (op ≠ 1) || decide (wordAt p 2 % 2 ^ 32 = tag.toNat)) && decide (rsv = syncRsv op p)

/-- The payload of a READ_REQ. DESIGN CHOICE (entry 118): R342 names its address, length and key, and the model gives them 64, 32 and 32 bits in
this order. -/
def readReqBytes (addr : BitVec 64) (len key : BitVec 32) : List Byte := words64 [addr.toNat, word [(32, key.toNat), (0, len.toNat)]]

/-! ## Payloads of the other packet types (R349, R368, R407) -/

/-- The payload of an ACK. -/
def ackBytes (p : AckPkt) : List Byte :=
  beWords ([p.cumPsn.toNat,
    word [(28, p.syndrome.toNat), (27, b2n p.ece), (20, p.blocks.length), (0, p.rnrWaitUs.toNat)]]
    ++ p.blocks.flatMap (fun b => [b.1.toNat, word [(16, b.2.toNat)]]))

/-- An ACK packet from its bytes. -/
def readAck (v : VId) (bs : List Byte) : AckPkt :=
  let p := bs.drop 20
  let n := bitsOf (beWordAt p 1) 23 20
  ⟨readBth v bs, BitVec.ofNat 32 (beWordAt p 0), BitVec.ofNat 4 (bitsOf (beWordAt p 1) 31 28), bitOf (beWordAt p 1) 27,
      BitVec.ofNat 16 (beWordAt p 1),
      (List.range n).map (fun k => (BitVec.ofNat 32 (beWordAt p (2 * k + 2)), BitVec.ofNat 16 (bitsOf (beWordAt p (2 * k + 3)) 31 16))),
    decide (bitsOf (beWordAt p 1) 26 24 ≠ 0) || decide (bitsOf (beWordAt p 1) 19 16 ≠ 0)
      || (List.range n).any (fun k => decide (beWordAt p (2 * k + 3) % 65536 ≠ 0))⟩

/-- The payload of a HELLO. -/
def helloBytes (p : HelloPayload) : List Byte :=
  beWords [p.uid.toNat / 2 ^ 32, p.uid.toNat % 2 ^ 32,
    word [(16, p.nodeId.toNat), (8, p.port.toNat), (4, p.portMode.toNat), (2, p.sliceMode.toNat)],
    word [(16, p.partCode.toNat), (8, p.siliconRev.toNat)], p.seq.toNat]

/-- A HELLO payload from its bytes. -/
def readHello (p : List Byte) : HelloPayload :=
  ⟨BitVec.ofNat 64 (beWordAt p 0 * 2 ^ 32 + beWordAt p 1), BitVec.ofNat 16 (bitsOf (beWordAt p 2) 31 16),
      BitVec.ofNat 8 (bitsOf (beWordAt p 2) 15 8), BitVec.ofNat 4 (bitsOf (beWordAt p 2) 7 4), BitVec.ofNat 2 (bitsOf (beWordAt p 2) 3 2),
      BitVec.ofNat 16 (bitsOf (beWordAt p 3) 31 16), BitVec.ofNat 8 (bitsOf (beWordAt p 3) 15 8), BitVec.ofNat 32 (beWordAt p 4),
    decide (beWordAt p 2 % 4 ≠ 0) || decide (beWordAt p 3 % 256 ≠ 0)⟩

/-- The payload of a HEARTBEAT. -/
def heartbeatBytes (p : HeartbeatPayload) : List Byte :=
  beWords [p.seq.toNat, p.pairEpoch.toNat, p.fenceEpoch.toNat / 2 ^ 32, p.fenceEpoch.toNat % 2 ^ 32,
    word [(16, p.mapEpoch.toNat), (8, p.pairState.toNat), (1, b2n p.youFenced), (0, b2n p.iFenced)], p.rowsUnacked.toNat]

/-- A HEARTBEAT payload from its bytes. -/
def readHeartbeat (p : List Byte) : HeartbeatPayload :=
  ⟨BitVec.ofNat 32 (beWordAt p 0), BitVec.ofNat 32 (beWordAt p 1), BitVec.ofNat 64 (beWordAt p 2 * 2 ^ 32 + beWordAt p 3),
      BitVec.ofNat 16 (bitsOf (beWordAt p 4) 31 16), BitVec.ofNat 8 (bitsOf (beWordAt p 4) 15 8), bitOf (beWordAt p 4) 1,
      bitOf (beWordAt p 4) 0, BitVec.ofNat 32 (beWordAt p 5), decide (bitsOf (beWordAt p 4) 7 2 ≠ 0), false⟩

/-- A HEARTBEAT packet from its bytes: its PSN, its MSN and both queue pair numbers are 0 (R407). -/
def readHeartbeatPkt (bs : List Byte) : HeartbeatPayload :=
  { readHeartbeat (bs.drop 20) with malformed := bthBreaks bs || decide (beWordAt bs 2 ≠ 0) }

/-! ## Frames (R333, R334, R337, R338, R364, R368) -/

/-- What the MAC, IPv6 and UDP headers of a Dreaskak frame are built from. -/
structure FrameHead where
  dstMac : BitVec 48
  srcMac : BitVec 48
  /-- The tag control information of an IEEE 802.1Q tag, where there is one. -/
  tag : Option (BitVec 16)
  srcIp : List Byte
  dstIp : List Byte
  dscp : BitVec 6
  entropy : BitVec 6
  srcQpn : BitVec 12
  udpPort : BitVec 16
deriving DecidableEq, Repr

/-- The SecTAG (R364): its TCI says that an SCI is present and that the frame is encrypted; the SCI is the port's MAC address and the
sender's identifier. PRESUMED (entry 87): the bits of the TCI are those of IEEE 802.1AE. -/
def secTag (mac : BitVec 48) (sender : NodeId) (an : BitVec 2) (pn : BitVec 64) : List Byte :=
  beBytes 2 0x88E5 ++ [BitVec.ofNat 8 (0x2C + an.toNat), 0] ++ beBytes 4 (pn.toNat % 2 ^ 32) ++ beBytes 6 mac.toNat ++ beBytes 2 sender.toNat

/-- An endpoint's IPv6 address (R337). -/
def ipAddress (pfx : BitVec 64) (n : NodeId) : List Byte := beBytes 8 pfx.toNat ++ beBytes 8 n.toNat

/-- The IPv6 header over `n` bytes of UDP (R337): the traffic class is the DSCP with ECT(0), and the flow label ENTROPY × 4,096 + SRC_QPN. -/
def ipHeader (h : FrameHead) (n : Nat) : List Byte :=
  beWords [word [(28, 6), (22, h.dscp.toNat), (20, 2), (12, h.entropy.toNat), (0, h.srcQpn.toNat)]]
    ++ beBytes 2 n ++ [17, 64] ++ h.srcIp ++ h.dstIp

/-- The UDP header over `n` bytes (R337): its checksum is sent as zero. -/
def udpHeader (h : FrameHead) (n : Nat) : List Byte :=
  beBytes 2 (0xC000 + h.entropy.toNat * 256 + h.srcQpn.toNat % 256) ++ beBytes 2 h.udpPort.toNat ++ beBytes 2 (8 + n) ++ [0, 0]

/-- EtherType, IPv6 header and UDP header over `n` bytes: the 50 bytes behind a SecTAG that stay in clear. -/
def ipUdp (h : FrameHead) (n : Nat) : List Byte := beBytes 2 0x86DD ++ ipHeader h (8 + n) ++ udpHeader h n

/-- An IEEE 802.1Q tag. -/
def tagBytes : Option (BitVec 16) → List Byte
  | some t => beBytes 2 0x8100 ++ beBytes 2 t.toNat
  | none => []

/-- The bytes of a Dreaskak frame (R338) whose UDP payload holds `n` bytes: `sec` is the SecTAG, or nothing in an unprotected frame; `rest` is
what follows the UDP header, with the check value of a protected frame; the FCS ends it. -/
def etherFrame (h : FrameHead) (sec : List Byte) (n : Nat) (rest : List Byte) : List Byte :=
  let f := beBytes 6 h.dstMac.toNat ++ beBytes 6 h.srcMac.toNat ++ tagBytes h.tag ++ sec ++ ipUdp h n ++ rest
  f ++ frameCheck f

/-- A protected frame (R364): the addresses, the SecTAG and the first 50 bytes are authenticated, and the rest is encrypted too. PRESUMED
(entry 87): a tag lies outside of what the check value covers, as in IEEE 802.1AE. -/
def sealedFrame (h : FrameHead) (sender : NodeId) (an : BitVec 2) (pn : BitVec 64) (key content : List Byte) : List Byte :=
  let sec := secTag h.srcMac sender an pn
  let auth := beBytes 6 h.dstMac.toNat ++ beBytes 6 h.srcMac.toNat ++ sec ++ ipUdp h content.length
  etherFrame h sec content.length
    (Config.gcmSeal (key.take 32) (key.drop 32) (BitVec.ofNat 32 sender.toNat) pn auth content)

/-- How far a tag moves the offsets behind it (R338). -/
def tagShift (bs : List Byte) : Nat := if beNat (bytesAt bs 12 2) = 0x8100 then 4 else 0

/-- The part of a Dreaskak frame from the base transport header to the check value. -/
def etherContent (bs : List Byte) : List Byte := (bs.drop (78 + tagShift bs)).take (bs.length - 98 - tagShift bs)

/-- What a MACsec frame holds. -/
def readMacsec (pfx : BitVec 64) (bs : List Byte) : FrameKind :=
  let t := tagShift bs
  if beNat (bytesAt bs (28 + t) 2) ≠ 0x86DD ∨ beNat (bytesAt bs (36 + t) 1) ≠ 17 then .other false
  else .macsec (decide (bytesAt bs (54 + t) 14 = beBytes 8 pfx.toNat ++ zeros 6)) (BitVec.ofNat 16 (beNat (bytesAt bs (68 + t) 2)))
    (BitVec.ofNat 16 (beNat (bytesAt bs (70 + t) 2))) (BitVec.ofNat 16 (beNat (bytesAt bs (72 + t) 2)))
    (BitVec.ofNat 2 (beNat (bytesAt bs (14 + t) 1))) (BitVec.ofNat 16 (beNat (bytesAt bs (26 + t) 2)))
    (BitVec.ofNat 32 (beNat (bytesAt bs (16 + t) 4)))

/-- What an unprotected IPv6 frame holds: HELLO and KEY_AGREE alone are packets that the node takes. -/
def readClear (bs : List Byte) : FrameKind :=
  let t := tagShift bs
  let p := (bs.drop (62 + t)).take (bs.length - 66 - t)
  if beNat (bytesAt bs (20 + t) 1) ≠ 17 then .other false
  else if bthBreaks p then .other true
  else if pktType p = pktHello then .hello
  else if pktType p = pktKeyAgree then .keyAgree
  else .other false

/-- What an Ethernet frame holds. -/
def frameKindOf (pfx : BitVec 64) (bs : List Byte) : FrameKind :=
  let type := beNat (bytesAt bs (12 + tagShift bs) 2)
  if type = 0x88E5 then readMacsec pfx bs
  else if type = 0x86DD then readClear bs
  else if type = 0x8808 then .macControl
  else .other false

/-- Whether the content of a protected frame is of a type that has a row of its own: DATA, ACK, HEARTBEAT, or KEY_AGREE's confirmation (R340). -/
def typeKnown (bs : List Byte) : Bool := decide (pktType bs ∈ [pktData, pktAck, pktKeyAgree, pktHeartbeat])

end Sys2Proof.Machine
end

