-- ==== Sys2Proof/Machine/Transport.lean ====
section
/-! DEFINITION. The sending side of a queue pair: contexts, associations' packet numbers, and the packets that a message is
split into (R337, R348, R351, R355, R356, R364, R367). -/

namespace Sys2Proof.Machine

/-- The virtual nodes' number (R377). -/
def vnodeCount (s : State) : Nat := sliceCount s.knobs.sliceMode

/-- The virtual node of a queue pair (R378). -/
def vnodeOfQpn (s : State) (q : BitVec 12) : VId := BitVec.ofNat 2 (q.toNat / (4096 / vnodeCount s))

/-- A queue pair context; none where it is FREE. -/
def qpAt (s : State) (q : BitVec 12) : Option Qp := s.fab.qps.at? q

/-- Change a context that is not FREE. -/
def updQp (q : BitVec 12) (f : Qp → Qp) (s : State) : State :=
  match qpAt s q with
  | some x => { s with fab := { s.fab with qps := s.fab.qps.put q (f x) } }
  | none => s

/-- Whether a context has left READY: its replies are discarded (R347). An absent context is FREE. -/
def qpGone (s : State) (q : BitVec 12) : Bool :=
  match qpAt s q with
  | some x => decide (x.state ≠ .ready)
  | none => true

/-! ## Ports and associations -/

/-- The number of fabric ports of a port mode (R332). -/
def portCount (mode : Nat) : Nat := if mode = 0 then 4 else if mode = 1 then 8 else 16

/-- The virtual node of a port (R378): that of its lanes; the twin link is virtual node 0's. -/
def vnodeOfPort (s : State) (p : BitVec 5) : VId :=
  if p.toNat = 16 then 0
  else BitVec.ofNat 2 (p.toNat * (16 / portCount s.knobs.fabricPortMode) / (16 / vnodeCount s))

/-- Whether a port is of a virtual node's share (R378); they share the twin link. -/
def portServes (s : State) (p : BitVec 5) (v : VId) : Bool := if p.toNat = 16 then decide (v.toNat < vnodeCount s) else decide (vnodeOfPort s p = v)

/-- Whether the node sends and accepts more than HELLO (R337, R369). -/
def talks (s : State) (v : VId) : Bool := s.knobs.dreaskakUdpPort.isSome && decide ((vn s v).nodeId ≠ 0xFFFF)

/-- Whether packets for a peer use the twin link alone: its table entry names port 16 and no other (R355, R364). -/
def onTwinLink (s : State) (v : VId) (n : NodeId) : Bool :=
  match (vn s v).peers.at? n with
  | some e => decide (e.portMask = 0x10000)
  | none => false

/-- An association: that of the fabric, or the twin link's. -/
def assocAt (s : State) (v : VId) (n : NodeId) (twin : Bool) : Option Assoc := s.fab.assocs.at? (v, n, twin)

/-- Change an association that exists. -/
def updAssoc (v : VId) (n : NodeId) (twin : Bool) (f : Assoc → Assoc) (s : State) : State :=
  match assocAt s v n twin with
  | some a => { s with fab := { s.fab with assocs := s.fab.assocs.put (v, n, twin) (f a) } }
  | none => s

/-- The packet number under which nothing more is sent (R367). -/
def pnLimit : Nat := 2 ^ 64 - 2 ^ 32

/-- The transmit secure association that a packet for an endpoint goes out under; none where nothing may be sent (R337, R364, R367, R369). -/
def txSa (s : State) (v : VId) (n : NodeId) (twin : Bool) : Option TxSa :=
  if talks s v then (assocAt s v n twin).bind (fun a => if a.stopped then none else a.tx.filter (fun t => decide (t.next < pnLimit)))
  else none

/-- A frame takes the next packet number of its association (R364). -/
def usePn (v : VId) (n : NodeId) (twin : Bool) (s : State) : State :=
  updAssoc v n twin (fun a => { a with tx := a.tx.map (fun t => { t with next := t.next + 1 }) }) s

/-- The ports that may carry a frame to an endpoint (R333, R355, R378): those of its peer table entry, of the virtual node's share, that are up
and not stopped; the twin link is a path of its own. -/
def portsTo (s : State) (v : VId) (n : NodeId) (twin : Bool) : List (BitVec 5) :=
  let mask : BitVec 17 := (((vn s v).peers.at? n).map PeerEntry.portMask).getD 0
  ((List.range 17).map (BitVec.ofNat 5)).filter (fun p => mask.getLsbD p.toNat && decide (twin = decide (p.toNat = 16))
    && portServes s p v && (s.fab.ports.atD p Port.reset).up && !(s.fab.ports.atD p Port.reset).stopped)

/-! ## Sending frames -/

/-- The tag of the frames that the node sends (R334). DESIGN CHOICE (entry 116): its priority bits are zero. -/
def sentTag (s : State) : Option (BitVec 16) := if s.knobs.fabricVlan = 0 then none else some (BitVec.ofNat 16 s.knobs.fabricVlan)

/-- The headers of a frame to an endpoint (R337). -/
def frameHead (s : State) (v : VId) (n : NodeId) (port : BitVec 5) (dscp : BitVec 6) (entropy : Nat) (qpn : BitVec 12) : FrameHead where
  dstMac := (((vn s v).peers.at? n).map PeerEntry.destMac).getD 0
  srcMac := Config.portMac port.toNat
  tag := sentTag s
  srcIp := ipAddress (vn s v).pfx (vn s v).nodeId
  dstIp := ipAddress (vn s v).pfx n
  dscp := dscp
  entropy := BitVec.ofNat 6 entropy
  srcQpn := qpn
  udpPort := BitVec.ofNat 16 (s.knobs.dreaskakUdpPort.getD 0)

/-- Send a frame on one of the ports that reach an endpoint: which one is a free value. Where none is up nothing is carried. -/
def onPort (v : VId) (n : NodeId) (twin : Bool) (o : BitVec 5 → Output) (s : State) : State :=
  let ps := portsTo s v n twin
  if ps.isEmpty then s else emit (o (ps.getD (Config.freeOrder s.tick 0 % ps.length) 0)) { s with tick := s.tick + 1 }

/-- Send a packet under the association of an endpoint. -/
def sendPacketTo (v : VId) (n : NodeId) (twin : Bool) (dscp : BitVec 6) (entropy : Nat) (qpn : BitVec 12) (content : List Byte)
    (o : BitVec 5 → List Byte → Output) (s : State) : State :=
  match txSa s v n twin with
  | none => s
  | some sa =>
    if (portsTo s v n twin).isEmpty then s
    else usePn v n twin (onPort v n twin (fun p => o p (sealedFrame (frameHead s v n p dscp entropy qpn) (vn s v).nodeId sa.an
      (BitVec.ofNat 64 sa.next) sa.key content)) s)

/-- The first entropy value from `e` that is not suspended (R355). -/
def entropyFrom (x : Qp) (e : Nat) : Nat :=
  ((List.range x.entropies).map (fun i => (e + i) % x.entropies)).find? (fun i => decide (i ∉ x.suspended)) |>.getD e

/-- The entropy value that follows (R355). -/
def nextEntropy (x : Qp) (e : Nat) : Nat := (e + 1) % max 1 x.entropies

/-- Whether a packet of a queue pair leaves over the twin link. -/
def byTwin (s : State) (v : VId) (x : Qp) (d : TxData) : Bool := d.viaTwin || onTwinLink s v x.peer

/-- A packet as it leaves (R339, R341, R356). DEDUCED (entry 117): the last packet of a message asks for an acknowledgement, as in the worked
example behind R360. -/
def packetOf (s : State) (q : BitVec 12) (x : Qp) (d : TxData) (psn : BitVec 32) (entropy : Nat) : DataPkt :=
  let v := vnodeOfQpn s q
  ⟨⟨v, d.last, d.last, BitVec.ofNat 6 entropy, x.peer, (vn s v).nodeId, x.peerQpn, q, psn, d.msn, BitVec.ofNat 8 d.index, false⟩, false, d.head,
    d.payload⟩

/-- Send a DATA packet of a queue pair, for the first time or again. -/
def sendData (q : BitVec 12) (x : Qp) (d : TxData) (psn : BitVec 32) (entropy : Nat) (again : Bool) (s : State) : State :=
  let v := vnodeOfQpn s q
  let p := packetOf s q x d psn entropy
  sendPacketTo v x.peer (byTwin s v x d) x.dscp entropy q (dataBytes p) (fun port f => .dataPkt port q p again f) s

/-- The most packets of a queue pair unacknowledged (R348). -/
def txWindow : Nat := 65536

/-- Send the packets that wait, as far as the window and the association let them go; `fuel` bounds their number. -/
def pumpTx (fuel : Nat) (q : BitVec 12) (s : State) : State :=
  match fuel with
  | 0 => s
  | k + 1 =>
    match qpAt s q with
    | none => s
    | some x => match x.unsent with
      | [] => s
      | d :: rest =>
        let v := vnodeOfQpn s q
        if x.state ≠ .ready ∨ txWindow ≤ x.unacked.length ∨ (txSa s v x.peer (byTwin s v x d)).isNone then s
        else
          let e := entropyFrom x x.entropyNext
          let s := updQp q (fun x => { x with
            unsent := rest
            unacked := x.unacked ++ [⟨d, x.txPsn, e, s.pw.uptime, false, false⟩]
            txPsn := x.txPsn + 1
            entropyNext := nextEntropy x e }) s
          pumpTx k q (sendData q x d x.txPsn e false s)

/-- Send whatever waits on a queue pair. -/
def pumpAll (q : BitVec 12) (s : State) : State := pumpTx (((qpAt s q).map (fun x => x.unsent.length)).getD 0) q s

/-- The current map epoch of a virtual node; 0 before the first NODE.MAP (R446). -/
def mapEpochOf (s : State) (v : VId) : BitVec 16 :=
  match (vn s v).map with
  | some m => m.epoch
  | none => 0

/-- The header of a message that the node sends (R341), under its current map epoch. -/
def headOf (s : State) (v : VId) (op : Nat) (addr : BitVec 64) (key aux : BitVec 32) (len : Nat) : MsgHead :=
  ⟨BitVec.ofNat 8 op, BitVec.ofNat 21 len, mapEpochOf s v, addr, key, aux, false⟩

/-- The packets of a message (R356): ceil(MSG_LEN / 4,096) of them, all but the last of 4,096 bytes. -/
def packetsOf (h : MsgHead) (msn : BitVec 24) (viaTwin : Bool) (payload : List Byte) : List TxData :=
  let parts := if payload.isEmpty then [[]] else chunks 4096 payload
  ((List.range parts.length).zip parts).map (fun p =>
    ⟨if p.1 = 0 then some h else none, p.2, decide (p.1 + 1 = parts.length), msn, p.1, viaTwin⟩)

/-- Hand a message to a queue pair (R356): its packets wait in the order of its MSN. A context that is not READY sends nothing. -/
def sendOn (q : BitVec 12) (viaTwin : Bool) (h : MsgHead) (payload : List Byte) (s : State) : State :=
  match qpAt s q with
  | some x =>
    if x.state = .ready then
      pumpAll q (updQp q (fun x => { x with unsent := x.unsent ++ packetsOf h x.txMsn viaTwin payload, txMsn := x.txMsn + 1 }) s)
    else s
  | none => s

/-- The queue pair that carries what the node sends of its own accord to an endpoint. DESIGN CHOICE (entry 45): which of the endpoint's READY
queue pairs it is the manual leaves open, and every such message takes the same. -/
def qpTo (s : State) (v : VId) (n : NodeId) : Option (BitVec 12) :=
  let qs := (s.fab.qps.filter (fun q => decide (q.2.state = .ready) && decide (q.2.peer = n) && decide (vnodeOfQpn s q.1 = v))).map Prod.fst
  qs[Config.ownQp v.toNat n.toNat % qs.length]?

/-- Send a message of the node's own to an endpoint; without a queue pair to it nothing leaves. -/
def sendTo (v : VId) (n : NodeId) (viaTwin : Bool) (h : MsgHead) (payload : List Byte) (o : Output) (s : State) : State :=
  match qpTo s v n with
  | some q => sendOn q viaTwin h payload (emit o s)
  | none => s

/-! ## The headrace (R359, R361) -/

/-- The operation codes of R342. -/
def opAppend : Nat := 1
/-- QUERY. -/
def opQuery : Nat := 2
/-- COMMAND. -/
def opCommand : Nat := 3
/-- WRITE. -/
def opWrite : Nat := 4
/-- READ_REQ. -/
def opReadReq : Nat := 5
/-- READ_RESP. -/
def opReadResp : Nat := 6
/-- SYNC. -/
def opSync : Nat := 7
/-- PEER. -/
def opPeer : Nat := 8

/-- Take the first message of a list that satisfies a test out of it. -/
def takeFirst (p : Entered → Bool) : List Entered → List Entered
  | [] => []
  | e :: r => if p e then r else e :: takeFirst p r

/-- The message of a request leaves the headrace as its request is admitted (R359). -/
def takeMsg (m : Msg) (s : State) : State :=
  { s with fab := { s.fab with entered := takeFirst (fun e => decide (e.qpn = m.qpn ∧ e.msn = m.msn)) s.fab.entered } }

/-- The message of a queue pair that stands first in the headrace. -/
def firstEntered (s : State) (q : BitVec 12) : Option Entered := s.fab.entered.find? (fun e => decide (e.qpn = q))

/-- Whether a message is the next of its queue pair to be admitted (R342, R359): the first that has entered, with the header and the operation
given, from the queue pair's peer, and with a payload that reads as its row's operands. -/
def admits (s : State) (m : Msg) (op : Nat) (reads : List Byte → Bool) : Bool :=
  match firstEntered s m.qpn with
  | some e => decide (e.msn = m.msn) && decide (e.head.op.toNat = op) && decide (e.head.mapEpoch = m.mapEpoch) && decide (e.head.addr = m.addr)
      && decide (e.head.key = m.key) && decide (e.head.aux = m.aux) && decide ((qpAt s m.qpn).map Qp.peer = some m.sender)
      && decide (vnodeOfQpn s m.qpn = m.vnode) && reads e.payload
  | none => false

/-- The knobs that a message's request took when it was admitted to the headrace (R27). -/
def msgKnobs (s : State) (m : Msg) : Knobs :=
  ((s.fab.entered.find? (fun e => decide (e.qpn = m.qpn ∧ e.msn = m.msn))).map Entered.knobs).getD s.knobs

/-- A PEER message leaves the headrace: the oldest that its sender sent. -/
def takePeer (n : NodeId) (s : State) : State :=
  { s with fab := { s.fab with entered := takeFirst (fun e => decide (e.head.op.toNat = opPeer)
      && decide ((qpAt s e.qpn).map Qp.peer = some n)) s.fab.entered } }

/-- Discard a refused message (R357, R358): counted and logged with its sender, the queue pairs, its MSN and the status. -/
def rejectMsg (v : VId) (sender : NodeId) (q : BitVec 12) (msn : BitVec 24) (st : Status) (s : State) : State :=
  let peerQ := ((qpAt s q).map Qp.peerQpn).getD 0
  logFrom v 0x0802 srcFabric [(16, sender.toNat), (16, q.toNat), (16, peerQ.toNat), (32, msn.toNat), (16, st.toNat)]
    (bumpV .msgRejects v s)

end Sys2Proof.Machine
end

