-- ==== Sys2Proof/Machine/Cmd.lean ====
section
/-! DEFINITION. Commands: the header checks, admission, waits and signals, and completion with its record or reply
(R440–R478, R494–R508). -/

namespace Sys2Proof.Machine

/-! ## Synchronisation objects: signals and waits -/

/-- The object at an index; none where it is FREE (R493). -/
def objAt (s : State) (i : BitVec 14) : Option SyncObj := s.sync.objs.at? i

/-- Change an object. -/
def updObj (i : BitVec 14) (f : SyncObj → SyncObj) (s : State) : State :=
  match objAt s i with
  | some o => { s with sync := { s.sync with objs := s.sync.objs.put i (f o) } }
  | none => s

/-- Whether an object satisfies a wait for a value (R498). -/
def waitHolds (o : SyncObj) (w : Nat) : Bool :=
  match o.kind with
  | .counter => decide ((o.value + 2 ^ 64 - w % 2 ^ 64) % 2 ^ 64 < 2 ^ 63)
  | .event => decide (o.value = 1)
  | .barrier => decide ((o.value + 2 ^ 48 - w % 2 ^ 48) % 2 ^ 48 < 2 ^ 47)

/-- The identity of a waiter or signaller (R495). -/
def identity (origin queue node tag : Nat) : BitVec 64 :=
  BitVec.ofNat 64 (word [(60, origin), (48, queue), (32, node), (0, tag)])

/-- The identity of a command's issuer (R495). -/
def whoOf (s : State) (c : Cmd) : BitVec 64 :=
  match c.origin with
  | .host r => identity 1 r.toNat (vn s 0).nodeId.toNat c.hdr.tag.toNat
  | .fabric q n _ _ => identity 2 q.toNat n.toNat c.hdr.tag.toNat

/-! ## Replies and records -/

/-- Opcodes that act on the device and ignore VNODE (R381). -/
def deviceOp (op : BitVec 16) : Bool :=
  let f := op.toNat / 256
  decide (f ∈ [0x01, 0x06, 0x07, 0x08, 0x0C, 0x0F]) || decide (op.toNat ∈ [0x0D01, 0x0A06, 0x0A07])

/-- The virtual node that a command acts on (R381). A command that acts on the device ignores VNODE: virtual node 0 answers for the device, and
objects that the host creates are its own (R527). -/
def vnodeOf (s : State) (c : Cmd) : VId :=
  match c.origin with
  | .host _ => if deviceOp c.hdr.opcode then 0 else c.hdr.vnode
  | .fabric q _ _ _ => vnodeOfQpn s q

/-- The 32-byte status reply (R446). -/
def replyBytes (s : State) (v : VId) (tag : BitVec 32) (opcode : BitVec 16) (r : Reply) : List Byte :=
  words64 [word [(32, tag.toNat), (16, r.status.toNat), (0, opcode.toNat)],
    word [(48, (r.node.getD (vn s v).nodeId).toNat), (32, (mapEpochOf s v).toNat),
      (16, if r.status = stRetryAfter then min 65535 r.hint else 0), (0, r.detail.toNat)],
    r.r0.toNat, r.r1.toNat]

/-- A ring context. -/
def ringAt (s : State) (r : BitVec 9) : Ring := s.host.rings.atD r Ring.reset

/-- Change a ring context. -/
def updRing (r : BitVec 9) (f : Ring → Ring) (s : State) : State :=
  { s with host := { s.host with rings := s.host.rings.upd r Ring.reset f } }

/-- Entries of a ring. -/
def Ring.size (r : Ring) : Nat := 2 ^ r.sizeLog2

/-- Put a ring in ERROR with a cause (R469): fetching stops, the event and DEV_ERROR tell of it. -/
def ringError (r : BitVec 9) (cause : Nat) (s : State) : State :=
  let s := updRing r (fun x => { x with state := .error, cause := cause, fetched := [], headWaiting := false, headReady := false }) s
  let s := bump .ringErrors s
  let s := logFrom 0 0x0A01 srcHost [(16, r.toNat), (8, cause)] s
  setDevError 0 s

/-- Raise a result ring's vector where its coalescing count is reached or IRQ_NOW asks for it (R476). -/
def coalesce (r : BitVec 9) (irqNow : Bool) (s : State) : State :=
  let x := ringAt s r
  if irqNow ∨ x.coalesceCount ≤ x.unsignalled then
    raise x.msix (updRing r (fun x => { x with unsignalled := 0 }) s)
  else s

/-- Whether two commands are the same command: its issuer and tag name it (R474). -/
def sameCmd (a b : Cmd) : Bool := decide (a.origin = b.origin) && decide (a.hdr.tag = b.hdr.tag) && decide (a.hdr.opcode = b.hdr.opcode)

/-- The admission of a command, where it has been admitted. -/
def admission (s : State) (c : Cmd) : Option Admitted := s.host.admitted.find? (fun a => sameCmd a.cmd c)

/-- Write the record of a host command (R475, R476). -/
def writeRecord (ring : BitVec 9) (c : Cmd) (reply result : List Byte) (s : State) : State :=
  let rr := (ringAt s ring).resultRing
  let x := ringAt s rr
  let gone : Bool := match admission s c with
    | some a => a.discard
    | none => false
  if gone ∨ x.discards ∨ x.state ≠ .active then bump .recordsDiscarded s
  else
    let phase := decide (x.node.toNat / x.size % 2 = 0)
    let s := emit (.record rr x.node (reply ++ zeros 32) result phase ring c.hdr.tag) s
    let s := updRing rr (fun x => { x with
      node := x.node + 1
      unsignalled := x.unsignalled + 1
      reserved := x.reserved - b2n ((admission s c).any (fun a => a.reserved))
      records := x.records ++ [⟨x.node, ring, c.hdr.tag, reply⟩] }) s
    coalesce rr c.hdr.irqNow s

/-- Send a reply on the queue pair that carried a request (R363); a context that has left READY discards it (R347). -/
def sendReply (v : VId) (qpn : BitVec 12) (dest : NodeId) (addr : BitVec 64) (key : BitVec 32) (moved : Option NodeId)
    (bs : List Byte) (s : State) : State :=
  if qpGone s qpn then bumpV .repliesDiscarded v s
  else sendOn qpn false (headOf s v opWrite addr key ((moved.getD 0).zeroExtend 32) bs.length) bs
    (emit (.writeReply v qpn dest addr key (moved.getD 0) (mapEpochOf s v) bs) s)

/-- The member list under which a request is admitted (R374); none where its epoch is refused. -/
def mapFor (s : State) (v : VId) (epoch : BitVec 16) : Option MapList :=
  let n := vn s v
  match n.map with
  | none => none
  | some m =>
    if m.epoch = epoch then some m
    else match n.prevMap with
      | some p => if p.epoch = epoch ∧ n.draining then some p else none
      | none => none

/-- SPAN.COVERAGE. -/
def opSpanCoverage : BitVec 16 := 0x0206

/-- Admit a command with the knobs given (R27, R473). A host command reserves an entry of its result ring; SPAN.COVERAGE takes the fill points
and seals as they stand (R264). -/
def takeInWith (k : Knobs) (c : Cmd) (reserve : Bool) (s : State) : State :=
  let a : Admitted := ⟨s.host.nextSerial, c, k, reserve, false, s.mgmt.debugLockOpen, if c.hdr.opcode = opSpanCoverage then s.spans else [],
    mapFor s (vnodeOf s c) c.hdr.mapEpoch⟩
  let s := { s with host := { s.host with admitted := s.host.admitted ++ [a], nextSerial := s.host.nextSerial + 1 } }
  match c.origin with
  | .host r =>
    let s := bump .commandsAdmitted s
    if reserve then updRing (ringAt s r).resultRing (fun x => { x with reserved := x.reserved + 1 }) s else s
  | .fabric .. => s

/-- Admit a command with the knobs in force. -/
def takeIn (c : Cmd) (reserve : Bool) (s : State) : State := takeInWith s.knobs c reserve s

/-- Take a command off the admitted ones. -/
def retire (c : Cmd) (s : State) : State :=
  { s with host := { s.host with admitted := s.host.admitted.filter (fun a => !sameCmd a.cmd c) } }

/-- Send a result as consecutive messages of at most 1 MiB (R229, R447). -/
def sendResult (fuel : Nat) (v : VId) (q : BitVec 12) (n : NodeId) (addr : BitVec 64) (key : BitVec 32) (bs : List Byte) (s : State) :
    State :=
  match fuel with
  | 0 => s
  | k + 1 =>
    if bs.isEmpty then s
    else sendResult k v q n (addr + 1048576) key (bs.drop 1048576) (sendReply v q n addr key none (bs.take 1048576) s)

/-- Answer a command: its record in the result ring, or its result and then its status reply on the queue pair that carried it: the reply, which
completes it, follows the last message of its result (R229). -/
def answer (c : Cmd) (r : Reply) (s : State) : State :=
  let v := vnodeOf s c
  let bs := replyBytes s v c.hdr.tag c.hdr.opcode r
  match c.origin with
  | .host ring => writeRecord ring c bs r.result s
  | .fabric q n addr key =>
    let moved := if r.status = stMoved then r.node else none
    sendReply v q n addr key moved bs (sendResult (r.result.length / 1048576 + 1) v q n (addr + 64) key r.result s)

/-! ## Signals and the release of waiters -/

/-- SYNC.SIGNAL, whose completion does not signal again (R502). -/
def opSyncSignal : BitVec 16 := 0x0703
/-- SYNC.WAIT, which completes at admission (R502). -/
def opSyncWait : BitVec 16 := 0x0704

/-- Note the signal that a completed command owes (R441, R444). -/
def oweSignal (c : Cmd) (st : Status) (s : State) : State :=
  if c.hdr.signalValid && decide (c.hdr.opcode ≠ opSyncSignal) && (c.hdr.signalAlways || stSuccess st) then
    { s with sync := { s.sync with due := s.sync.due ++ [(c.hdr.signalObj, c.hdr.signalValue.toNat, whoOf s c)] } }
  else s

/-- Answer a command that ends here, and note the signal it owes. -/
def completeOnly (c : Cmd) (r : Reply) (s : State) : State := oweSignal c r.status (retire c (answer c r s))

/-- Answer a command that is refused before its admission: an admitted command that its issuer and tag also name runs on (R474). -/
def refuseNew (c : Cmd) (r : Reply) (s : State) : State :=
  let admitted := s.host.admitted
  let s := completeOnly c r { s with host := { s.host with admitted := admitted.filter (fun a => !sameCmd a.cmd c) } }
  { s with host := { s.host with admitted := admitted } }

/-- Release the waiter that a satisfied condition frees: a held command becomes eligible for admission (R509), SYNC.WAIT
completes at its admission (R502), and an arrival completes (R512). -/
def releaseWaiter (w : Waiter) (s : State) : State :=
  match w.wf with
  | .ringHead r => updRing r (fun x => { x with headReady := true, headWaiting := false }) s
  | .qpHead q => { s with host := { s.host with qpReady := s.host.qpReady ++ [q] } }
  | .cmd c => if c.hdr.opcode = opSyncWait then completeOnly c (Reply.st stOk) (takeIn c true s) else takeIn c true s
  | .arrival c => completeOnly c ⟨stOk, 0, none, 0, BitVec.ofNat 64 w.value, 0, []⟩ s

/-- End a waiter with a status; DETAIL names the object (R446, R497, R507, R520). A command that waited does not execute. -/
def endWaiter (w : Waiter) (st : Status) (s : State) : State :=
  let rep : Reply := ⟨st, BitVec.ofNat 16 w.index.toNat, none, 0, 0, 0, []⟩
  match w.wf with
  | .ringHead r =>
    match (ringAt s r).fetched with
    | h :: rest =>
      completeOnly ⟨.host r, h, 0⟩ rep (updRing r (fun x => { x with fetched := rest, headWaiting := false, headReady := false }) s)
    | [] => s
  | .qpHead q =>
    match s.host.qpHeld.atD q [] with
    | (m, h) :: rest =>
      completeOnly ⟨.fabric q m.sender m.addr m.key, h, 0⟩ rep { s with host := { s.host with qpHeld := s.host.qpHeld.put q rest } }
    | [] => s
  | .cmd c => completeOnly c rep s
  | .arrival c => completeOnly c rep s

/-- Take a waiter off the table. -/
def dropWaiter (id : Nat) (s : State) : State :=
  { s with sync := { s.sync with waiters := s.sync.waiters.filter (fun w => w.id ≠ id) } }

/-- Waiters of an object, oldest first. -/
def waitersOf (s : State) (i : BitVec 14) : List Waiter := s.sync.waiters.filter (fun w => w.index = i)

/-- Release every waiter of a list whose condition holds; an event frees only the oldest (R500). -/
def releaseList (i : BitVec 14) (ws : List Waiter) (s : State) : State :=
  match ws with
  | [] => s
  | w :: r =>
    match objAt s i with
    | none => s
    | some o =>
      if waitHolds o w.value then
        let s := if o.kind = .event then updObj i (fun o => { o with value := 0 }) s else s
        let s := releaseWaiter w (bump .syncReleases (dropWaiter w.id s))
        releaseList i r s
      else releaseList i r s

/-- Release the waiters of an object that its present value satisfies. -/
def releaseWaiters (i : BitVec 14) (s : State) : State := releaseList i (waitersOf s i) s

/-- Apply a signal to a counter or event (R498, R500, R508) and release the waiters it satisfies. -/
def applySignal (i : BitVec 14) (value : Nat) (who : BitVec 64) (s : State) : State :=
  match objAt s i with
  | none => s
  | some o =>
    let stamp (o : SyncObj) : SyncObj := { o with lastSignaller := who, lastSignalNs := s.pw.uptime }
    match o.kind with
    | .counter =>
      let s := bump .syncSignals (updObj i (fun o => stamp { o with value := (o.value + value) % 2 ^ 64 }) s)
      let s := if o.msix ≠ 0 then raise o.msix s else s
      releaseWaiters i s
    | .event =>
      if o.value = 0 then
        let s := bump .syncSignals (updObj i (fun o => stamp { o with value := 1 }) s)
        let s := if o.msix ≠ 0 then raise o.msix s else s
        releaseWaiters i s
      else
        bump .eventOverruns (bump .syncSignals (updObj i (fun o => stamp { o with overruns := min 0xFFFF (o.overruns + 1) }) s))
    | .barrier => s

/-- Drop a signal that reaches a freed or failed object (R503). -/
def dropSignal (i : BitVec 14) (who : BitVec 64) (s : State) : State :=
  logFrom 0 0x0B03 srcSync [(16, i.toNat), (64, who.toNat)] (bump .signalsDropped s)

/-- A signal that reaches a freed or failed object is dropped (R503). -/
def signalOrDrop (i : BitVec 14) (value : Nat) (who : BitVec 64) (s : State) : State :=
  let ok : Bool := match objAt s i with
    | some o => !o.failed && decide (o.kind ≠ .barrier)
    | none => false
  if ok then applySignal i value who s
  else dropSignal i who s

/-! ## Completion -/

/-- Apply the signals that completed commands owe; each may release arrivals that owe another. -/
def drainSignals (fuel : Nat) (s : State) : State :=
  match fuel with
  | 0 => s
  | k + 1 =>
    match s.sync.due with
    | [] => s
    | (i, value, who) :: r =>
      drainSignals k (signalOrDrop i value who { s with sync := { s.sync with due := r } })

/-- Apply every signal owed. -/
def applyDue (s : State) : State := drainSignals (s.sync.due.length + s.sync.waiters.length) s

/-- Whether a piece of work counts for a fence (R482): it was started by a command admitted before the fence, of the fence's
ring or of the node. -/
def WorkTag.before (w : WorkTag) (serial : Nat) (scopeNode : Bool) (ring : Option (BitVec 9)) : Bool :=
  decide (w.serial < serial) && decide (0 < w.serial) && (scopeNode || decide (w.ring = ring ∧ ring.isSome))

/-- The submission ring of a command. -/
def ringOf (c : Cmd) : Option (BitVec 9) :=
  match c.origin with
  | .host r => some r
  | .fabric .. => none

/-- Whether everything that a fence waits for is complete (R482); `mirror` adds the twin's acknowledgements. -/
def fenceReady (s : State) (c : Cmd) (serial : Nat) (scopeNode mirror : Bool) : Bool :=
  let ring := ringOf c
  let inScope (w : WorkTag) := w.before serial scopeNode ring
  s.host.admitted.all (fun a => !(inScope ⟨a.serial, ringOf a.cmd⟩))
    && s.sealQueue.all (fun i => !(inScope i.work))
    && (s.dir.banks.all (fun b => b.2.current.isNone && b.2.queue.isEmpty))
    && (!mirror || (s.peerSent.all (fun p => match p.2.msg.body with
          | .mirrorRows _ => !(inScope p.2.work)
          | _ => true)
        && s.vnodes.all (fun n => n.2.mirrorQueue.isEmpty)))

/-- Complete the fences of a list of jobs whose wait is over (R482, R483). -/
def settleFences (js : List (Nat × Job)) (s : State) : State :=
  match js with
  | [] => s
  | (id, .fence c serial scopeNode mirror logMark) :: r =>
    if fenceReady s c serial scopeNode mirror then
      let s := endJob id s
      let s := if logMark then logFrom 0 0x0A02 srcHost [(16, ((ringOf c).getD 0).toNat), (32, c.hdr.tag.toNat)] s else s
      settleFences r (completeOnly c (Reply.st stOk) s)
    else settleFences r s
  | _ :: r => settleFences r s

/-- Complete NODE.RING_DESTROY for the rings of a list that have no admitted command left (R469). -/
def settleRings (rs : List (BitVec 9 × Ring)) (s : State) : State :=
  match rs with
  | [] => s
  | (r, x) :: rest =>
    match x.destroying with
    | some c =>
      let others := s.host.admitted.filter (fun a => decide (ringOf a.cmd = some r) && !sameCmd a.cmd c)
      if others.isEmpty then
        settleRings rest (updRing r (fun _ => Ring.reset) (completeOnly c (Reply.st stOk) s))
      else settleRings rest s
    | none => settleRings rest s

/-! ## Header checks (R445, R374, R375, R381, R501, R546) -/

/-- What the opcode table says of an opcode (R449): host only, and whether its firmware family keeps R374. -/
structure OpInfo where
  hostOnly : Bool
  epoch : Bool
deriving DecidableEq, Repr

/-- The opcode table of R449. -/
def opInfo (op : BitVec 16) : Option OpInfo :=
  match op.toNat with
  | 0x0101 | 0x0102 | 0x0103 => some ⟨true, false⟩
  | 0x0201 | 0x0202 | 0x0203 | 0x0204 | 0x0205 | 0x0206 | 0x0207 => some ⟨false, true⟩
  | 0x0301 | 0x0302 | 0x0303 | 0x0304 | 0x0305 => some ⟨false, true⟩
  | 0x0401 | 0x0402 | 0x0403 => some ⟨false, true⟩
  | 0x0501 | 0x0502 | 0x0503 | 0x0504 | 0x0505 => some ⟨false, true⟩
  | 0x0601 | 0x0602 | 0x0603 | 0x0605 => some ⟨true, false⟩
  | 0x0604 => some ⟨false, false⟩
  | 0x0701 | 0x0702 | 0x0703 | 0x0704 | 0x0705 => some ⟨false, false⟩
  | 0x0706 | 0x0707 => some ⟨true, false⟩
  | 0x0801 | 0x0802 | 0x0803 => some ⟨false, false⟩
  | 0x0901 | 0x0902 | 0x0903 => some ⟨false, true⟩
  | 0x0904 | 0x0905 => some ⟨false, false⟩
  | 0x0A01 | 0x0A02 | 0x0A06 | 0x0A07 => some ⟨true, false⟩
  | 0x0A03 | 0x0A04 | 0x0A05 => some ⟨false, false⟩
  | 0x0B01 | 0x0B03 => some ⟨true, false⟩
  | 0x0B02 | 0x0B04 => some ⟨false, false⟩
  | 0x0C01 => some ⟨false, false⟩
  | 0x0D01 | 0x0D02 => some ⟨false, false⟩
  | 0x0E01 | 0x0E03 => some ⟨true, false⟩
  | 0x0E02 => some ⟨false, false⟩
  | 0x0F01 | 0x0F02 => some ⟨true, false⟩
  | _ => none

/-- Opcodes accepted before CONFIGURED (R445). -/
def preConfigOp (op : BitVec 16) : Bool :=
  decide (op.toNat ∈ [0x0101, 0x0103, 0x0A06, 0x0A07, 0x0C01]) || decide (op.toNat / 256 = 0x0F)

/-- Opcodes that a FENCED node still serves its host (R411). -/
def fencedHostOp (op : BitVec 16) : Bool := decide (op.toNat / 256 = 0x0F) || decide (op.toNat ∈ [0x0B04, 0x0905])

/-- The tenant-data commands of R546. -/
def tenantDataOp (op : BitVec 16) : Bool :=
  decide (op.toNat ∈ [0x0301, 0x0302, 0x0304, 0x0401, 0x0402, 0x0403, 0x0605])

/-- The mark of a member in the current map. -/
def memberState (s : State) (v : VId) (n : NodeId) : Option MemberState :=
  match (vn s v).map with
  | some m => (m.members.find? (fun p => p.1 = n)).map (fun p => p.2)
  | none => none

/-- Whether a node is treated as fenced (R410). -/
def isFenced (s : State) (v : VId) (n : NodeId) : Bool :=
  decide (n ∈ (vn s v).fenceSet) || decide (memberState s v n = some .fenced)

/-- Whether a node answers requests as a fenced one (R375, R411). -/
def selfFenced (s : State) (v : VId) : Bool := (vn s v).fenced || decide (memberState s v (vn s v).nodeId = some .fenced)

/-- R501: the header's synchronisation fields. -/
def syncFieldsBad (s : State) (h : CmdHeader) : Option Reply :=
  let failedObj (i : BitVec 14) : Bool := match objAt s i with
    | some o => o.failed
    | none => false
  let waitObj := objAt s h.waitObj
  let sigBad : Bool := match objAt s h.signalObj with
    | none => true
    | some o => decide (o.kind = .barrier)
  let valueBad : Bool := match waitObj with
    | some o => (match o.kind with
      | .counter => false
      | .event => decide (h.waitValue ≠ 0)
      | .barrier => decide (2 ^ 48 ≤ h.waitValue.toNat))
    | none => false
  if h.waitValid ∧ waitObj.isNone then some (Reply.bad 22)
  else if h.signalValid && sigBad then some (Reply.bad 20)
  else if h.waitValid ∧ (h.waitTimeout.toNat < 1 ∨ 60000000 < h.waitTimeout.toNat) then some (Reply.bad 16)
  else if h.waitValid && valueBad then some (Reply.bad 24)
  else if h.waitValid ∧ failedObj h.waitObj then some ⟨stUncorrectable, BitVec.ofNat 16 h.waitObj.toNat, none, 0, 0, 0, []⟩
  else if h.signalValid ∧ failedObj h.signalObj then
    some ⟨stUncorrectable, BitVec.ofNat 16 h.signalObj.toNat, none, 0, 0, 0, []⟩
  else none

/-- The refusal of R527: fabric traffic acts only on its own virtual node's objects. -/
def foreignObj (s : State) (c : Cmd) (i : BitVec 14) : Bool :=
  match c.origin with
  | .host _ => false
  | .fabric .. => match objAt s i with
    | some o => decide (o.vnode ≠ vnodeOf s c)
    | none => false

/-- Count the answer of a refused header. -/
def countRefusal (v : VId) (r : Reply) (s : State) : State :=
  if r.status = stStaleMap then bumpV .staleMapAnswers v s
  else if r.status = stFenced then bumpV .fencedAnswers v s
  else s

/-- A fabric command header that breaks R442 or R381. -/
def fabricHeaderBad (c : Cmd) : Option Nat :=
  match c.origin with
  | .host _ => none
  | .fabric .. => if c.hdr.paramRef then some 4 else if c.hdr.vnode ≠ 0 then some 8 else none

/-- Whether a header's first bad reserved field lies in the header itself (R10, R446). -/
def headerRsv (h : CmdHeader) : Option Nat := h.rsv.find? (fun o => decide (o < 64))

/-- The fenced answers of R375 and R411. -/
def fenceRefusal (s : State) (c : Cmd) : Bool :=
  let v := vnodeOf s c
  match c.origin with
  | .host _ => (vn s v).fenced && !(fencedHostOp c.hdr.opcode)
  | .fabric _ n _ _ => isFenced s v n || selfFenced s v

/-- The header checks in their order: over the fabric a fenced answer comes before all of them (R375). ATTN.QUERY and ATTN.QUERY_FANOUT check the map
epoch descriptor by descriptor (R177), and SPAN.COVERAGE checks it after its fields (R264). -/
def headerCheck (s : State) (c : Cmd) : Option Reply :=
  let h := c.hdr
  match opInfo h.opcode with
  | none => if (ringOf c).isNone ∧ fenceRefusal s c then some (Reply.st stFenced) else some (Reply.bad 6)
  | some info =>
    if (ringOf c).isNone ∧ fenceRefusal s c then some (Reply.st stFenced)
    else if info.hostOnly ∧ (ringOf c).isNone then some (Reply.st stDenied)
    else if !s.configured ∧ !(preConfigOp h.opcode) then some (Reply.st stDenied)
    else if h.opcode = 0x0101 ∧ s.configured then some (Reply.st stDenied)
    else match headerRsv h with
      | some o => some (Reply.bad o)
      | none =>
        match fabricHeaderBad c with
        | some o => some (Reply.bad o)
        | none =>
          if !(deviceOp h.opcode) ∧ (ringOf c).isSome ∧ vnodeCount s ≤ h.vnode.toNat then some (Reply.bad 8)
          else match syncFieldsBad s h with
            | some r => some r
            | none =>
              if (h.waitValid ∧ foreignObj s c h.waitObj) ∨ (h.signalValid ∧ foreignObj s c h.signalObj) then
                some (Reply.st stDenied)
              else if fenceRefusal s c then some (Reply.st stFenced)
              else if s.mgmt.tenancy = 2 ∧ (ringOf c).isSome
                  ∧ ((tenantDataOp h.opcode ∧ !(s.mgmt.hostDataAllow && s.mgmt.ideSecure)) ∨ h.opcode = 0x0E01) then
                some (Reply.st stDenied)
              else if info.epoch ∧ h.opcode ≠ 0x0401 ∧ h.opcode ≠ 0x0402 ∧ h.opcode ≠ opSpanCoverage ∧ (mapFor s (vnodeOf s c) h.mapEpoch).isNone then some (Reply.st stStaleMap)
              else none

/-- Whether a refusal is the one of R546. -/
def hostDataRefusal (s : State) (c : Cmd) (r : Reply) : Bool :=
  decide (r.status = stDenied) && decide (s.mgmt.tenancy = 2) && (ringOf c).isSome && s.configured
    && (tenantDataOp c.hdr.opcode || decide (c.hdr.opcode = 0x0E01))

/-- Count and log a refusal of R546: at most one HOST_DATA_DENIED record per millisecond. -/
def noteHostDenied (c : Cmd) (s : State) : State :=
  let s := bump .hostDataDenials s
  let recent := match s.mgmt.lastHostDenied with
    | some t => decide (s.pw.uptime < t + 1000000)
    | none => false
  if recent then s
  else
    let s := logFrom 0 0x0C07 srcHost [(16, ((ringOf c).getD 0).toNat), (32, c.hdr.tag.toNat)] s
    { s with mgmt := { s.mgmt with lastHostDenied := some s.pw.uptime } }

/-! ## Waiters and the settling of what waited -/

/-- Queue a waiter. -/
def addWaiter (i : BitVec 14) (who : BitVec 64) (value timeoutUs : Nat) (wf : WaitFor) (s : State) : State :=
  let w : Waiter := ⟨s.sync.nextWaiter, i, who, value, s.pw.uptime + 1000 * timeoutUs, wf⟩
  { s with sync := { s.sync with waiters := s.sync.waiters ++ [w], nextWaiter := s.sync.nextWaiter + 1 } }

/-- The most waiters held at once (R504). -/
def waiterRoom : Nat := 8192

/-- Pass a wait that holds: an event is consumed (R500). -/
def passWait (i : BitVec 14) (s : State) : State :=
  updObj i (fun o => if o.kind = .event then { o with value := 0 } else o) s

/-- Whether a header's wait holds now. -/
def headerWaitHolds (s : State) (h : CmdHeader) : Bool :=
  !h.waitValid || (match objAt s h.waitObj with
    | some o => waitHolds o h.waitValue.toNat
    | none => false)

/-- The refusal of a wait for want of a waiter entry (R504). -/
def Reply.waiterFull : Reply := Reply.retry 10

/-- Admit the oldest held COMMAND of a queue pair once its wait is over, with the knobs given, and then those behind it whose wait holds (R505),
with those in force as they are admitted (R27, R359). -/
def admitHeld (q : BitVec 12) (fuel : Nat) (ready : Bool) (kn : Knobs) (s : State) : State :=
  match fuel with
  | 0 => s
  | k + 1 =>
    match s.host.qpHeld.atD q [] with
    | [] => { s with host := { s.host with qpHeld := s.host.qpHeld.del q } }
    | (m, h) :: rest =>
      let c : Cmd := ⟨.fabric q m.sender m.addr m.key, h, 0⟩
      let s' := { s with host := { s.host with qpHeld := s.host.qpHeld.put q rest } }
      if ready then admitHeld q k false s.knobs (takeInWith kn c false s')
      else match headerCheck s c with
        | some r => admitHeld q k false s.knobs (refuseNew c r (countRefusal (vnodeOf s c) r s'))
        | none =>
          if headerWaitHolds s h then
            admitHeld q k false s.knobs (takeInWith kn c false (if h.waitValid then passWait h.waitObj s' else s'))
          else if waiterRoom ≤ s.sync.waiters.length then
            admitHeld q k false s.knobs (refuseNew c Reply.waiterFull (bump .waiterTableFull s'))
          else addWaiter h.waitObj (whoOf s c) h.waitValue.toNat h.waitTimeout.toNat (.qpHead q) s

/-- Admit the commands of the queue pairs whose held COMMAND has been released. -/
def settleQps (qs : List (BitVec 12)) (s : State) : State :=
  match qs with
  | [] => s
  | q :: r =>
    settleQps r (admitHeld q ((s.host.qpHeld.atD q []).length + 1) true s.knobs
      { s with host := { s.host with qpReady := s.host.qpReady.filter (fun x => x ≠ q) } })

/-- Complete what waited only for other work to end. -/
def settle (s : State) : State :=
  let s := settleFences s.jobs (applyDue s)
  let s := applyDue (settleRings s.host.rings s)
  applyDue (settleQps s.host.qpReady s)

/-- Complete a command, and then what waited for it. -/
def complete (c : Cmd) (r : Reply) (s : State) : State := settle (completeOnly c r s)

/-! ## Running a command -/

/-- What a command's own work gives: an answer now, or an answer that a later step gives. -/
inductive Done where
  | now (r : Reply) (s : State)
  | later (s : State)
deriving DecidableEq, Repr

/-- The state that a command's work leaves. -/
def Done.state : Done → State
  | .now _ s => s
  | .later s => s

/-- A command's work with its state changed. -/
def Done.map (f : State → State) : Done → Done
  | .now r s => .now r (f s)
  | .later s => .later (f s)

/-- The bytes that a host command's result ring entry leaves for its result (R475). Over the fabric a result has no such limit: no command
returns 2^64 bytes, the most that RESULT_LEN can name. -/
def resultRoom (s : State) (c : Cmd) : Nat :=
  match c.origin with
  | .host r => 2 ^ (ringAt s (ringAt s r).resultRing).entryLog2 - 72
  | .fabric .. => 2 ^ 64

/-- Answer with an over-long result (R475): the work is not executed. -/
def Reply.tooLong : Reply := ⟨stBadParam, 0xFFFE, none, 0, 0, 0, []⟩

/-- Finish a command's own work: a result that does not fit undoes it. -/
def finish (c : Cmd) (before : State) (d : Done) : State :=
  match d with
  | .now r s => if resultRoom before c < r.result.length then complete c Reply.tooLong before else complete c r s
  | .later s => s

/-- The knobs that a command took at its admission. -/
def knobsOf (s : State) (c : Cmd) : Knobs :=
  match admission s c with
  | some a => a.knobs
  | none => s.knobs

/-- Whether the debug lock was open when a command was admitted (R27). -/
def debugOpenOf (s : State) (c : Cmd) : Bool :=
  match admission s c with
  | some a => a.debugOpen
  | none => s.mgmt.debugLockOpen

/-- The member list under which a command was admitted (R374): it runs to completion under it. -/
def membersOf (s : State) (c : Cmd) : Option MapList :=
  match admission s c with
  | some a => a.members
  | none => mapFor s (vnodeOf s c) c.hdr.mapEpoch

/-- A span record as SPAN.COVERAGE took it at its admission (R264). -/
def viewOf (s : State) (c : Cmd) (f : FrameId) : Option SpanRec :=
  match (admission s c).bind (fun a => a.view.at? f) with
  | some r => some r
  | none => s.spans.at? f

/-- Serve the work of a command in its own name. -/
def asWork (c : Cmd) (s : State) : State :=
  match admission s c with
  | some a => { s with work := ⟨a.serial, ringOf c⟩ }
  | none => s

/-- Run a command of a verb row. A command that COMMAND_ADMIT or COMMAND has admitted goes to its work at once; any other is
checked, waits and is admitted by this very step; where its wait does not hold, its release admits it. -/
def runCmd (c : Cmd) (body : State → Done) (s : State) : State :=
  match admission s c with
  | some _ => finish c s (body (asWork c s))
  | none =>
    match headerCheck s c with
    | some r =>
      let s := if hostDataRefusal s c r then noteHostDenied c s else s
      complete c r (countRefusal (vnodeOf s c) r s)
    | none =>
      if headerWaitHolds s c.hdr then
        let s := if c.hdr.waitValid then passWait c.hdr.waitObj s else s
        let s := takeIn c true s
        finish c s (body (asWork c s))
      else if waiterRoom ≤ s.sync.waiters.length then complete c Reply.waiterFull (bump .waiterTableFull s)
      else addWaiter c.hdr.waitObj (whoOf s c) c.hdr.waitValue.toNat c.hdr.waitTimeout.toNat (.cmd c) s

/-- The lesser of two offsets. -/
def minOff (a b : Option Nat) : Option Nat :=
  match a, b with
  | some x, some y => some (min x y)
  | some x, none => some x
  | none, y => y

/-- The first bad field of a command's parameters: the reserved fields that are not zero, and the fields that fail. -/
def firstBad (c : Cmd) (fails : List (Bool × Nat)) : Option Nat :=
  (fails.filter (fun f => f.1)).foldl (fun acc f => minOff acc (some f.2)) c.hdr.rsv.head?

/-- Check a command's parameters: PARAM_LEN (header byte 12) and the fields given, in one first failing offset. -/
def checkParams (c : Cmd) (len : Nat) (fails : List (Bool × Nat)) : Option Reply :=
  (firstBad c ((decide (c.hdr.paramLen.toNat ≠ len), 12) :: fails)).map Reply.bad

/-- Run a body after its parameter checks. -/
def withParams (c : Cmd) (len : Nat) (fails : List (Bool × Nat)) (body : State → Done) (s : State) : Done :=
  match checkParams c len fails with
  | some r => .now r s
  | none => body s

/-- Whether the node serves commands: it is up and has not stopped (R436, R565). -/
def live (s : State) : Bool := s.pw.up && !s.pw.fatal

/-- The outcome of a command or event that the node serves only while it is up. -/
def onNode (f : State → State) (s : State) : Res := .next (if live s then f s else s)

/-- The outcome of a fabric message of an operation: where it is the next of its queue pair to be admitted it leaves the headrace for its row, and
otherwise nothing happens (R342, R359). -/
def onMsg (m : Msg) (op : Nat) (reads : List Byte → Bool) (f : State → State) (s : State) : Res :=
  onNode (fun s => if admits s m op reads then f (takeMsg m s) else s) s

/-- The outcome of a command of a verb row. -/
def runVerb (c : Cmd) (body : State → Done) (s : State) : Res := onNode (runCmd c body) s

/-- Whether an endpoint may send requests (R362): it has a peer table entry. -/
def hasPeer (s : State) (v : VId) (n : NodeId) : Bool := (vn s v).peers.has n

/-- Answer now, with the state unchanged. -/
def Done.refuse (st : Status) (s : State) : Done := .now (Reply.st st) s

/-- Whether a field that names a node holds a value that is rejected (R336). -/
def badNode (n : NodeId) : Bool := decide (0x1000 ≤ n.toNat) && decide (n ≠ 0xFFFF)

/-- The handles that no command may name (R36). -/
def badHandle (h : Handle) : Bool := decide (h = 0) || decide (h = 0xFFFFFFFFFFFFFFFF)

end Sys2Proof.Machine
end

