-- ==== Sys2Proof/Machine/Dir.lean ====
section
/-! DEFINITION. The sequence directory: searches with their verification, inserts, deletions, holes, and the commands over its
entries (R71–R91). -/

namespace Sys2Proof.Machine

/-! ## Keys and entries -/

/-- The pair of banks of a handle's family (R76). -/
def bankPair (h : Handle) : Nat × Nat :=
  let x := h.toNat / 2 ^ 20
  let hh := (x * 0x9E3779B97F4A7C15 % 2 ^ 64) / 2 ^ 56
  let b0 := hh % 16
  (b0, (b0 + 1 + hh / 16 % 15) % 16)

/-- A key: handle, span index and kind (R72). -/
def dirKey (h : Handle) (span kind : Nat) : BitVec 96 :=
  BitVec.ofNat 96 (h.toNat * 2 ^ 32 + span % 2 ^ 24 * 2 ^ 8 + kind)

/-- The mask that compares everything but the form of the kind (R74), ignoring the member bits given (R90). -/
def dirMask (ignored : Nat) : BitVec 96 := BitVec.ofNat 96 (2 ^ 96 - 1 - 15 - ignored * 2 ^ 32)

/-- The kinds of R73. -/
def kSpan : Nat := 0x01
/-- A prefix alias. -/
def kAlias : Nat := 0x02
/-- A tombstone of a span. -/
def kSpanTomb : Nat := 0x03
/-- A mask set. -/
def kMask : Nat := 0x11
/-- A tombstone of a mask set. -/
def kMaskTomb : Nat := 0x13
/-- A sequence record. -/
def kSeq : Nat := 0x21
/-- A tombstone of a sequence record. -/
def kSeqTomb : Nat := 0x23
/-- A twin copy. -/
def kTwin : Nat := 0x31

/-- The kind of an entry. -/
def DirEntry.kind (e : DirEntry) : Nat := e.key.toNat % 256
/-- The form of an entry's kind. -/
def DirEntry.form (e : DirEntry) : Nat := e.key.toNat % 16
/-- The handle of an entry's key. -/
def DirEntry.handle (e : DirEntry) : Handle := BitVec.ofNat 64 (e.key.toNat / 2 ^ 32)
/-- The span index of an entry's key. -/
def DirEntry.span (e : DirEntry) : Nat := e.key.toNat / 2 ^ 8 % 2 ^ 24

/-- The default priority of a kind (R73). -/
def kindPrio (kind : Nat) : Nat :=
  if kind = kAlias then 0x80 else if kind % 16 = 3 then 0x20 else 0xC0

/-- An entry of a kind with its default priority and a full mask. -/
def dirEntry (v : VId) (h : Handle) (span kind : Nat) (node : NodeId) (record : FrameId) : DirEntry :=
  ⟨v, dirKey h span kind, dirMask 0, BitVec.ofNat 8 (kindPrio kind), true, node, record⟩

/-- Whether an entry matches a key in a virtual node's search (R74, R379). -/
def DirEntry.hits (e : DirEntry) (v : VId) (key : BitVec 96) : Bool :=
  e.valid && decide (e.vnode = v) && decide ((e.key ^^^ key) &&& e.mask = 0)

/-- Whether two entries could match one key (R75). -/
def DirEntry.overlaps (a b : DirEntry) : Bool :=
  decide (a.vnode = b.vnode) && decide (a.prio = b.prio) && decide ((a.key ^^^ b.key) &&& a.mask &&& b.mask = 0)

/-- Whether R74 accepts an entry. -/
def DirEntry.legal (e : DirEntry) : Bool :=
  let k := e.kind
  let p := e.prio.toNat
  decide (k ∈ [kSpan, kAlias, kSpanTomb, kMask, kMaskTomb, kSeq, kSeqTomb, kTwin])
    && (if k = kAlias then decide (0x40 ≤ p) && decide (p ≤ 0xBF) else decide (p = kindPrio k))
    && decide (e.mask.toNat / 2 ^ 52 = 2 ^ 44 - 1)

/-! ## Banks -/

/-- A bank. -/
def bankAt (s : State) (b : Nat) : DirBank := s.dir.banks.atD b DirBank.empty

/-- Change a bank. -/
def updBank (b : Nat) (f : DirBank → DirBank) (s : State) : State :=
  { s with dir := { s.dir with banks := s.dir.banks.upd b DirBank.empty f } }

/-- An address of a bank. -/
def DirBank.cell (k : DirBank) (a : Nat) : DirCell := k.cells.atD a DirCell.empty

/-- Write an entry into an address and its shadow; a stuck cell keeps its defect. -/
def DirCell.write (x : DirCell) (e : DirEntry) : DirCell :=
  let cam := match x.stuck with
    | some (k, m) => { e with key := k, mask := m }
    | none => e
  { x with cam := cam, shadow := e, shadowBad := false }

/-- Write an address of a bank. -/
def DirBank.put (k : DirBank) (a : Nat) (e : DirEntry) : DirBank :=
  { k with cells := k.cells.upd a DirCell.empty (fun x => x.write e) }

/-- Whether an address is invalid: neither valid nor retired (R87). -/
def DirBank.hole (k : DirBank) (a : Nat) : Bool := !(k.cell a).shadow.valid && !(k.cell a).retired

/-- Addresses of a bank. -/
def bankAddrs : Nat := 4096

/-- Invalid addresses of a bank. -/
def DirBank.holes (k : DirBank) : Nat :=
  bankAddrs - (k.cells.filter (fun c => c.2.shadow.valid || c.2.retired)).length

/-- The valid entries of a bank in address order. -/
def DirBank.valid (k : DirBank) : List (Nat × DirEntry) :=
  sortBy (fun a b => decide (a.1 ≤ b.1)) ((k.cells.filter (fun c => c.2.shadow.valid)).map (fun c => (c.1, c.2.shadow)))

/-- Write entries at addresses. -/
def DirBank.putAll (k : DirBank) : List (Nat × DirEntry) → DirBank
  | [] => k
  | (a, e) :: r => DirBank.putAll (k.put a e) r

/-- Insert an entry in priority order (R77, R83): into an invalid address between its neighbours, or by moving the entries
between it and the nearest invalid address. None where the bank is full. DESIGN CHOICE (entry 64): which of several invalid addresses
between its neighbours it takes, and the way it goes where one lies as near up as down, is a free choice `pick`. -/
def DirBank.insert (k : DirBank) (e : DirEntry) (pick : Nat) : Option DirBank :=
  let vs := k.valid
  let above := vs.filter (fun x => decide (e.prio ≤ x.2.prio))
  let below := vs.filter (fun x => decide (x.2.prio < e.prio))
  let lo := match above.getLast? with
    | some x => x.1 + 1
    | none => 0
  let hi := match below.head? with
    | some x => x.1
    | none => bankAddrs
  let gaps := ((List.range (hi - lo)).map (fun i => lo + i)).filter k.hole
  match gaps[pick % max 1 gaps.length]? with
  | some a => some (k.put a e)
  | none =>
    let up := ((List.range (bankAddrs - hi)).map (fun i => hi + i)).find? k.hole
    let down := ((List.range lo).map (fun i => lo - 1 - i)).find? k.hole
    let goUp (u : Nat) : DirBank :=
      let seg := below.filter (fun x => decide (x.1 < u))
      let addrs := seg.map Prod.fst ++ [u]
      k.putAll (addrs.zip (e :: seg.map Prod.snd))
    let goDown (d : Nat) : DirBank :=
      let seg := above.filter (fun x => decide (d < x.1))
      let addrs := d :: seg.map Prod.fst
      k.putAll (addrs.zip (seg.map Prod.snd ++ [e]))
    match up, down with
    | some u, some d => some (if u - hi < lo - 1 - d ∨ (u - hi = lo - 1 - d ∧ pick % 2 = 0) then goUp u else goDown d)
    | some u, none => some (goUp u)
    | none, some d => some (goDown d)
    | none, none => none

/-- The address at which a bank holds an entry. -/
def DirBank.find (k : DirBank) (e : DirEntry) : Option Nat :=
  (k.cells.find? (fun c => c.2.shadow.valid && decide (c.2.shadow = e))).map Prod.fst

/-! ## Updates (R82–R87) -/

/-- The other bank of an entry's pair. -/
def otherBank (b : Nat) (e : DirEntry) : Nat :=
  let p := bankPair e.handle
  if b = p.1 then p.2 else p.1

/-- Log that a bank pair is full (R78, R87). -/
def logPairFull (v : VId) (p : Nat × Nat) (s : State) : State := logFrom v 0x0104 srcDir [(8, p.1), (8, p.2)] s

/-- Put an entry straight into a bank of the pair, the first where it has room. -/
def settleInsert (b : Nat) (e : DirEntry) (s : State) : State :=
  let r := takeFree s
  let s := r.2
  match (bankAt s b).insert e r.1 with
  | some k => updBank b (fun _ => k) s
  | none =>
    let o := otherBank b e
    match (bankAt s o).insert e r.1 with
    | some k => updBank o (fun _ => k) s
    | none => logPairFull e.vnode (bankPair e.handle) s

/-- The inserts that a bank has not finished. -/
def DirBank.pendingInserts (k : DirBank) : List DirEntry :=
  (k.current.toList ++ k.queue).filterMap (fun u => match u with
    | .insert e _ => some e
    | .delete _ => none)

/-- Invalid addresses of a bank that no insert accepted for it has a claim on. DESIGN CHOICE (entry 99): an accepted insert keeps its claim
until it is in, so that R87 refuses at acceptance, while the command that needs the insert can still end with nothing changed. -/
def DirBank.room (k : DirBank) : Nat := k.holes - k.pendingInserts.length

/-- Unclaimed invalid addresses of a pair. -/
def pairRoom (s : State) (p : Nat × Nat) : Nat := (bankAt s p.1).room + (bankAt s p.2).room

/-- Take an entry out of its bank, or out of the other of its pair where it was moved. DESIGN CHOICE (entry 71): every field of an
invalidated address reads as zero; R82 clears its valid bit alone. -/
def invalidate (b : Nat) (e : DirEntry) (s : State) : State :=
  match (bankAt s b).find e with
  | some a => updBank b (fun k => k.put a DirEntry.empty) s
  | none =>
    let o := otherBank b e
    match (bankAt s o).find e with
    | some a => updBank o (fun k => k.put a DirEntry.empty) s
    | none => s

/-! ## Retired addresses (R78) -/

/-- Move the entry of a failing address away, to its own bank where that has an invalid address and else to the other of the pair, and retire
the address; none where the pair has no invalid address but those that accepted inserts have a claim on (entry 99). -/
def retireAddr (b a : Nat) (s : State) : Option State :=
  let e := ((bankAt s b).cell a).shadow
  let r := takeFree s
  let k := bankAt s b
  let o := otherBank b e
  let k' := { k with cells := k.cells.upd a DirCell.empty (fun x => { (x.write DirEntry.empty) with retired := true }) }
  if !e.valid then some (updBank b (fun _ => k') s)
  else if 0 < k.room then (k'.insert e r.1).map (fun k'' => updBank b (fun _ => k'') r.2)
  else if 0 < (bankAt s o).room then ((bankAt s o).insert e r.1).map (fun ko => updBank o (fun _ => ko) (updBank b (fun _ => k') r.2))
  else none

/-- Retire the addresses that wait for an invalid address (R78). -/
def retireWaiting (s : State) : State :=
  s.dir.retirePending.foldl (fun s p => match retireAddr p.1 p.2 s with
    | some s' => { s' with dir := { s'.dir with retirePending := s'.dir.retirePending.filter (fun q => q ≠ p) } }
    | none => s) s

/-! ## Updates in order (R82) -/

/-- Begin the next queued update of a bank (R82): a deletion invalidates its address at once, which lets a waiting retirement go on. -/
def beginUpdate (b : Nat) (s : State) : State :=
  let k := bankAt s b
  match k.current, k.queue with
  | none, u :: r =>
    let s := updBank b (fun k => { k with current := some u, queue := r }) s
    match u with
    | .delete e => retireWaiting (invalidate b e s)
    | .insert _ _ => s
  | _, _ => s

/-- Queue an update of a bank. -/
def queueUpdate (b : Nat) (u : DirUpd) (s : State) : State :=
  beginUpdate b (updBank b (fun k => { k with queue := k.queue ++ [u] }) s)

/-- The entries that exist for R75 in a bank: valid ones, and those accepted and not yet written. -/
def DirBank.existing (k : DirBank) : List DirEntry := k.valid.map Prod.snd ++ k.pendingInserts

/-- Valid entries of a virtual node, with those accepted. -/
def dirEntriesOf (s : State) (v : VId) : Nat :=
  ((s.dir.banks.flatMap (fun b => b.2.existing)).filter (fun e => decide (e.vnode = v))).length

/-- Why an insert is refused; none where it is accepted (R74, R75, R87, R378). -/
def insertRefusal (s : State) (e : DirEntry) : Option Status :=
  let p := bankPair e.handle
  let k0 := bankAt s p.1
  let k1 := bankAt s p.2
  if !e.legal then some stBadParam
  else if (k0.existing ++ k1.existing).any (fun x => x.overlaps e) then some stDenied
  else if pairRoom s p = 0 then some stNoSpace
  else if 1 < vnodeCount s ∧ 65536 / vnodeCount s ≤ dirEntriesOf s e.vnode then some stNoSpace
  else none

/-- What a refused insert logs: DIR_PAIR_FULL where the pair is full (R87), and nothing where R74, R75 or the share of a slice (R378)
refuses it. -/
def noteRefused (e : DirEntry) (st : Status) (s : State) : State :=
  if st = stNoSpace ∧ pairRoom s (bankPair e.handle) = 0 then logPairFull e.vnode (bankPair e.handle) s else s

/-- The bank that an insert goes to (R87): the one of its pair with more invalid addresses, or the other where that one has none left for
it. -/
def insertBank (s : State) (e : DirEntry) : Nat :=
  let p := bankPair e.handle
  let b := if (bankAt s p.1).holes < (bankAt s p.2).holes then p.2 else p.1
  if (bankAt s b).room = 0 ∧ 0 < (bankAt s (otherBank b e)).room then otherBank b e else b

/-- Accept an insert (R87). -/
def acceptInsert (e : DirEntry) (s : State) : State := queueUpdate (insertBank s e) (.insert e none) s

/-- Delete an entry: the update is queued in the bank that holds it or will hold it. -/
def deleteEntry (e : DirEntry) (s : State) : State :=
  let p := bankPair e.handle
  let inBank (b : Nat) : Bool := ((bankAt s b).find e).isSome || decide (e ∈ (bankAt s b).pendingInserts)
  if inBank p.1 then queueUpdate p.1 (.delete e) s
  else if inBank p.2 then queueUpdate p.2 (.delete e) s
  else s

/-- The entries of a handle and kind, valid or accepted, of a virtual node. -/
def entriesOf (s : State) (v : VId) (h : Handle) : List DirEntry :=
  let p := bankPair h
  ((bankAt s p.1).existing ++ (bankAt s p.2).existing).filter (fun e => decide (e.vnode = v) && decide (e.handle = h))

/-- Delete every entry of a handle that satisfies a test. -/
def deleteWhere (v : VId) (h : Handle) (p : DirEntry → Bool) (s : State) : State :=
  ((entriesOf s v h).filter p).foldl (fun s e => deleteEntry e s) s

/-- Put an entry in another's place (R88, R414, R425): the old one goes out once the new one is in. An entry of the new one's own key and kind
goes first. DESIGN CHOICE (entry 71): where the pair has no room for both, DIR_PAIR_FULL tells of it and one update of the old entry's bank
replaces the old entry by the new one. -/
def replaceEntry (new old : DirEntry) (s : State) : State :=
  let s := deleteWhere new.vnode new.handle (fun e => decide (e.key = new.key) && decide (e.mask = new.mask)) s
  if pairRoom s (bankPair new.handle) = 0 then
    let p := bankPair new.handle
    let b := if ((bankAt s p.2).find old).isSome then p.2 else p.1
    queueUpdate b (.insert new (some old)) (logPairFull new.vnode p s)
  else queueUpdate (insertBank s new) (.insert new (some old)) s

/-- Put tombstones of a kind in place of a handle's primary entries that satisfy a test. -/
def buryWhere (v : VId) (h : Handle) (p : DirEntry → Bool) (kind : Nat) (dest : NodeId) (s : State) : State :=
  ((entriesOf s v h).filter p).foldl (fun s e => replaceEntry (dirEntry v h e.span kind dest 0) e s) s

/-- End the update under way in a bank, and begin the next (R82). -/
def endUpdate (b : Nat) (s : State) : State :=
  match (bankAt s b).current with
  | none => s
  | some u =>
    let s := updBank b (fun k => { k with current := none }) s
    let s := match u with
      | .insert e old =>
        (match old with
        | some o =>
          if (bankAt s b).holes = 0 ∧ (bankAt s (otherBank b e)).holes = 0 then settleInsert b e (invalidate b o s)
          else deleteEntry o (settleInsert b e s)
        | none => settleInsert b e s)
      | .delete _ => s
    beginUpdate b (retireWaiting s)

/-- Whether a bank is updating or rebuilding (R85). DESIGN CHOICE (entry 72): one with an address that waits to be retired counts as updating,
so that the search that met it is repeated after the move (R78). -/
def bankBusy (s : State) (b : Nat) : Bool :=
  let k := bankAt s b
  k.rebuilding || k.current.isSome || !k.queue.isEmpty || s.dir.retirePending.any (fun p => decide (p.1 = b))

/-- Whether a bank of a pair is. -/
def pairBusy (s : State) (p : Nat × Nat) : Bool := bankBusy s p.1 || bankBusy s p.2

/-! ## Searches (R76–R85) -/

/-- How a search ends. -/
inductive Found where
  | hit (bank addr : Nat) (e : DirEntry)
  | miss
  | transient
deriving DecidableEq, Repr

/-- What one pass of a search meets: a result, a false hit, or an unreadable shadow. -/
inductive Pass where
  | result (f : Found)
  | falseHit (bank addr : Nat)
  | badShadow (bank : Nat)
deriving DecidableEq, Repr

/-- The lowest-addressed match of a bank's ternary cells. -/
def DirBank.match_ (k : DirBank) (v : VId) (key : BitVec 96) : Option (Nat × DirCell) :=
  (k.cells.filter (fun c => c.2.cam.hits v key)).foldl (fun acc c => match acc with
    | none => some c
    | some x => if c.1 < x.1 then some c else some x) none

/-- Whether the update of a bank hides a better answer (R84): the entry staged or retiring outranks what was found. -/
def DirBank.hides (k : DirBank) (v : VId) (key : BitVec 96) (found : Option Byte) : Bool :=
  match k.current with
  | none => false
  | some u =>
    let e := match u with
      | .insert e _ => e
      | .delete e => e
    match found with
    | none => true
    | some p => e.hits v key && decide (p < e.prio)

/-- One pass of a search. -/
def searchPass (s : State) (v : VId) (h : Handle) (key : BitVec 96) : Pass :=
  let p := bankPair h
  let k0 := bankAt s p.1
  let k1 := bankAt s p.2
  if k0.rebuilding ∨ k1.rebuilding then .result .transient
  else
    let best : Option (Nat × Nat × DirCell) := match k0.match_ v key, k1.match_ v key with
      | some x, some y => if x.2.cam.prio < y.2.cam.prio then some (p.2, y) else some (p.1, x)
      | some x, none => some (p.1, x)
      | none, some y => some (p.2, y)
      | none, none => none
    match best with
    | none => .result (if k0.hides v key none ∨ k1.hides v key none then .transient else .miss)
    | some (b, a, x) =>
      if x.shadowBad then .badShadow b
      else if !(x.shadow.hits v key) then .falseHit b a
      else if k0.hides v key (some x.shadow.prio) ∨ k1.hides v key (some x.shadow.prio) then .result .transient
      else .result (.hit b a x.shadow)

/-- Mark a bank as rebuilding (R79). -/
def markRebuilding (b : Nat) (s : State) : State := updBank b (fun k => { k with rebuilding := true }) s

/-- A false hit (R78): the entry is rewritten from its shadow, counted and logged. -/
def noteFalseHit (v : VId) (b a : Nat) (s : State) : State :=
  let s := updBank b (fun k => k.put a (k.cell a).shadow) s
  logFrom v 0x0102 srcDir [(8, b), (16, a)] (bump .dirFalseHits s)

/-- A search with its false hits (R78): `last` is the address at which the previous pass failed. DESIGN CHOICE (entry 72): where the
failing address waits for an invalid one, the search meets an update that has not ended, and the pair is logged as full once for that wait;
and a repeated search that fails at another address than the first has met a new false hit, whose own steps follow. -/
def searchFrom (fuel : Nat) (v : VId) (h : Handle) (key : BitVec 96) (last : Option (Nat × Nat)) (moved : Bool) (s : State) :
    Found × State :=
  match fuel with
  | 0 => (.transient, s)
  | k + 1 =>
    match searchPass s v h key with
    | .result f => (f, s)
    | .badShadow b =>
      (.transient, logFrom v 0x0103 srcDir [] (bump .dirShadowUe (markRebuilding b s)))
    | .falseHit b a =>
      let s := noteFalseHit v b a s
      if moved then (.transient, markRebuilding b s)
      else if last = some (b, a) then
        match retireAddr b a s with
        | some s' => searchFrom k v h key none true s'
        | none =>
          (.transient, if (b, a) ∈ s.dir.retirePending then s
            else logPairFull v (bankPair h) { s with dir := { s.dir with retirePending := s.dir.retirePending ++ [(b, a)] } })
      else searchFrom k v h key (some (b, a)) false s

/-- Passes that a search may need: one for each address of its pair whose cells may have failed, and those that R78 repeats. -/
def searchFuel (s : State) (h : Handle) : Nat :=
  (bankAt s (bankPair h).1).cells.length + (bankAt s (bankPair h).2).cells.length + 4

/-- Search for a class with form 0 (R74); transient answers are counted (R84). -/
def search (v : VId) (h : Handle) (span cls : Nat) (s : State) : Found × State :=
  let r := searchFrom (searchFuel s h) v h (dirKey h span (cls * 16)) none false s
  match r.1 with
  | .transient => (r.1, bump .dirTransientMisses r.2)
  | _ => r

/-- The upsets of ternary cells and shadows that a step meets. -/
def applyDirUpsets (u : Upsets) (s : State) : State :=
  let s := u.dir.foldl (fun s d => updBank d.bank (fun k => { k with cells := k.cells.upd d.addr DirCell.empty (fun x =>
    { x with cam := { x.cam with key := d.key, mask := d.mask, valid := true }
             stuck := if d.stuck then some (d.key, d.mask) else x.stuck }) }) s) s
  u.shadowUe.foldl (fun s p => updBank p.1 (fun k => { k with cells := k.cells.upd p.2 DirCell.empty (fun x =>
    { x with shadowBad := true }) }) s) s

/-! ## Commands -/

/-- The 256-bit image of an entry (R72). -/
def dirImage (e : DirEntry) : List Byte :=
  leBytes 32 (e.key.toNat * 2 ^ 160 + e.mask.toNat * 2 ^ 64 + e.prio.toNat * 2 ^ 56 + b2n e.valid * 2 ^ 55
    + e.node.toNat * 2 ^ 32 + e.record % 2 ^ 24)

/-- The entry that DIR.READ shows of an address (R457): zeros for another virtual node's. -/
def shownEntry (s : State) (v : VId) (x : DirCell) : DirEntry :=
  if 1 < vnodeCount s ∧ x.cam.vnode ≠ v then DirEntry.empty else x.cam

/-- DIR.READ (R457, R72). -/
def execDirRead (c : Cmd) (bank : BitVec 4) (first : BitVec 12) (count : BitVec 13) (s : State) : Res :=
  runVerb c (withParams c 8 [(decide (count.toNat < 1) || decide (4096 < count.toNat), 64 + 4),
      (decide (4096 < first.toNat + count.toNat), noField)] (fun s =>
    .now (Reply.ofResult count.toNat ((List.range count.toNat).flatMap (fun i =>
      dirImage (shownEntry s (vnodeOf s c) ((bankAt s bank.toNat).cell (first.toNat + i)))))) s)) s

/-- DIR.PROBE (R458): the search status at once. -/
def execDirProbe (c : Cmd) (handle : Handle) (span : SpanIx) (kind : BitVec 8) (u : Upsets) (s : State) : Res :=
  runVerb c (withParams c 16 [(badHandle handle, 64), (decide (kind.toNat % 16 ≠ 0) || decide (3 < kind.toNat / 16), 76)] (fun s =>
    let r := search (vnodeOf s c) handle span.toNat (kind.toNat / 16) (applyDirUpsets u s)
    match r.1 with
    | .hit b a e =>
      .now (Reply.ofResult 1 (dirImage e ++ words64 [word [(60, b), (48, a)], 0, 0, 0])) r.2
    | .miss => .refuse stMiss r.2
    | .transient => .refuse stMissTransient r.2)) s

/-- Invalidate every entry of a virtual node, and drop the updates of its entries (R91, R381). -/
def clearDir (v : VId) (s : State) : State :=
  let mine (u : DirUpd) : Bool := match u with
    | .insert e _ => decide (e.vnode = v)
    | .delete e => decide (e.vnode = v)
  let s : State := { s with dir := { s.dir with banks := s.dir.banks.map (fun b => (b.1, { b.2 with
      cells := b.2.cells.map (fun c => (c.1,
        if c.2.shadow.vnode = v then { (c.2.write DirEntry.empty) with shadowBad := false } else c.2))
      current := b.2.current.filter (fun u => !(mine u))
      queue := b.2.queue.filter (fun u => !(mine u)) })) } }
  (s.dir.banks.map Prod.fst).foldl (fun s b => beginUpdate b s) (retireWaiting s)

/-- What the shadow reads of a scrub bring that return an uncorrectable error (R79): each is counted and logged. -/
def noteBadShadows (s : State) : State :=
  s.dir.banks.foldl (fun s (b : Nat × DirBank) => (b.2.cells.filter (fun c => c.2.shadowBad)).foldl (fun s _ =>
    logFrom 0 0x0103 srcDir [] (bump .dirShadowUe (markRebuilding b.1 s))) s) s

/-- DIR_SCRUB (R80): every entry that differs from its readable shadow is rewritten; a shadow that does not read starts a rebuild (R79). -/
def execDirScrub (u : Upsets) (s : State) : Res :=
  onNode (fun s =>
    let s := noteBadShadows (applyDirUpsets u s)
    let differs (c : Nat × DirCell) : Bool := decide (c.2.cam ≠ c.2.shadow) && !c.2.shadowBad
    let n := (s.dir.banks.flatMap (fun b => b.2.cells.filter differs)).length
    let s := { s with dir := { s.dir with banks := s.dir.banks.map (fun b => (b.1, { b.2 with
      cells := b.2.cells.map (fun c => if differs c then (c.1, c.2.write c.2.shadow) else c) })) } }
    bumpBy .dirScrubFixes n s) s

/-- The longest run of consecutive addresses in a rising list, `n` of which end at `last`. -/
def longestRun (last n best : Nat) : List Nat → Nat
  | [] => max best n
  | a :: r => if a = last + 1 then longestRun a (n + 1) best r else longestRun a 1 (max best n) r

/-- Whether some run of `n` addresses of a bank holds no invalid address (R86). -/
def DirBank.crowded (k : DirBank) (n : Nat) : Bool :=
  let busy := sortBy (fun a b => decide (a ≤ b)) ((k.cells.filter (fun c => c.2.shadow.valid || c.2.retired)).map Prod.fst)
  decide (n ≤ longestRun bankAddrs 0 0 busy)

/-- Whether the background restoration of a bank's spacing is at work (R86): it starts where some run of 4 × HOLE_INTERVAL addresses holds no
invalid address, and goes on until every run of HOLE_INTERVAL addresses holds one. -/
def DirBank.restores (k : DirBank) (interval : Nat) : Bool := k.crowded (4 * interval) || (k.restoring && k.crowded interval)

/-- DIR_HOLE_RESTORE (R86, R83): one move of an entry to the adjacent invalid address, while the spacing of the bank is being restored. -/
def execDirHoleRestore (bank : BitVec 4) (src dst : BitVec 12) (s : State) : Res :=
  onNode (fun s =>
    let k := bankAt s bank.toNat
    let e := (k.cell src.toNat).shadow
    let adjacent := decide (src.toNat + 1 = dst.toNat) || decide (dst.toNat + 1 = src.toNat)
    let on := k.restores s.knobs.holeInterval
    let s := updBank bank.toNat (fun k => { k with restoring := on }) s
    if k.current.isNone && adjacent && e.valid && k.hole dst.toNat && on then
      updBank bank.toNat (fun k => (k.put dst.toNat e).put src.toNat DirEntry.empty) s
    else s) s

/-- TOMBSTONE_EXPIRY (R89). -/
def execTombstoneExpiry (bank : BitVec 4) (addr : BitVec 12) (s : State) : Res :=
  onNode (fun s =>
    let e := ((bankAt s bank.toNat).cell addr.toNat).shadow
    if e.valid ∧ e.form = 3 then deleteEntry e s else s) s

end Sys2Proof.Machine
end

