-- ==== Sys2Proof/Machine/Fp.lean ====
section
/-! DEFINITION. Number formats (R107) and the arithmetic over them: values are exact rationals, and one function rounds to the
nearest representable value, ties to even. -/

namespace Sys2Proof.Machine

/-- A value: not a number, an infinity, or a finite value of a sign and a magnitude (a zero keeps its sign). -/
inductive FV where
  | nan
  | inf (neg : Bool)
  | fin (neg : Bool) (mag : Rat)
deriving DecidableEq, Repr

/-- How a format uses its largest exponent: as IEEE 754 does, as OCP E4M3 does, or for finite values only. -/
inductive FmtKind where
  | ieee
  | e4m3
  | finite
deriving DecidableEq, Repr

/-- A floating-point format: exponent bits, mantissa bits, bias and kind. -/
structure Fmt where
  eb : Nat
  mb : Nat
  bias : Nat
  kind : FmtKind
deriving DecidableEq, Repr

/-- 2 to an integer power. -/
def pow2 (e : Int) : Rat := if 0 ≤ e then ((2 ^ e.toNat : Nat) : Rat) else 1 / ((2 ^ (-e).toNat : Nat) : Rat)

/-- The integer part of the binary logarithm of a positive value. -/
def ilog2 (m : Rat) : Int :=
  let k : Int := (Nat.log2 m.num.toNat : Int) - (Nat.log2 m.den : Int)
  if pow2 k ≤ m then k else k - 1

/-- Round a non-negative value to an integer, ties to even. -/
def rneNat (q : Rat) : Nat :=
  let f := q.num.toNat / q.den
  let r := q - (f : Rat)
  if r < 1 / 2 then f else if 1 / 2 < r then f + 1 else if f % 2 = 0 then f else f + 1

/-- The smallest exponent of a normal value. -/
def Fmt.emin (f : Fmt) : Int := 1 - (f.bias : Int)

/-- The largest finite magnitude. -/
def Fmt.maxFinite (f : Fmt) : Rat :=
  let full : Int := (2 ^ f.eb - 1 : Nat)
  match f.kind with
  | .ieee => pow2 (full - 1 - f.bias) * (2 - pow2 (-(f.mb : Int)))
  | .e4m3 => pow2 (full - f.bias) * (2 - 2 * pow2 (-(f.mb : Int)))
  | .finite => pow2 (full - f.bias) * (2 - pow2 (-(f.mb : Int)))

/-- The magnitude rounded to the format's precision, ties to even, with no bound above. -/
def Fmt.roundMag (f : Fmt) (m : Rat) : Rat :=
  if m = 0 then 0 else
    let e := max (ilog2 m) f.emin
    let u := pow2 (e - f.mb)
    (rneNat (m / u) : Rat) * u

/-- Round a value into a format: past the largest finite value it becomes infinite. -/
def Fmt.round (f : Fmt) (v : FV) : FV :=
  match v with
  | .fin n m => let r := f.roundMag m; if f.maxFinite < r then .inf n else .fin n r
  | x => x

/-- The value of a code. -/
def Fmt.decode (f : Fmt) (w : Nat) : FV :=
  let neg := bitOf w (f.eb + f.mb)
  let e := bitsOf w (f.eb + f.mb - 1) f.mb
  let m := w % 2 ^ f.mb
  let fin := if e = 0 then FV.fin neg ((m : Rat) * pow2 (f.emin - f.mb))
    else FV.fin neg ((1 + (m : Rat) * pow2 (-(f.mb : Int))) * pow2 ((e : Int) - f.bias))
  match f.kind with
  | .ieee => if e = 2 ^ f.eb - 1 then (if m = 0 then .inf neg else .nan) else fin
  | .e4m3 => if e = 2 ^ f.eb - 1 ∧ m = 2 ^ f.mb - 1 then .nan else fin
  | .finite => fin

/-- The code of a value that the format represents; infinities and NaN take the quiet codes of IEEE 754. -/
def Fmt.encode (f : Fmt) (v : FV) : Nat :=
  let sgn (n : Bool) := b2n n * 2 ^ (f.eb + f.mb)
  match v with
  | .nan => (2 ^ f.eb - 1) * 2 ^ f.mb + 2 ^ (f.mb - 1)
  | .inf n => sgn n + (2 ^ f.eb - 1) * 2 ^ f.mb
  | .fin n m =>
    if m = 0 then sgn n else
      let e := ilog2 m
      if e < f.emin then sgn n + (m / pow2 (f.emin - f.mb)).num.toNat
      else sgn n + (e + f.bias).toNat * 2 ^ f.mb + ((m / pow2 e - 1) * pow2 f.mb).num.toNat

/-- IEEE 754 binary32. -/
def fp32 : Fmt := ⟨8, 23, 127, .ieee⟩
/-- bfloat16. -/
def bf16 : Fmt := ⟨8, 7, 127, .ieee⟩
/-- IEEE 754 binary16. -/
def fp16 : Fmt := ⟨5, 10, 15, .ieee⟩
/-- IEEE 754 binary64. -/
def fp64 : Fmt := ⟨11, 52, 1023, .ieee⟩
/-- 8-bit, 4 exponent bits. -/
def fp8e4m3 : Fmt := ⟨4, 3, 7, .e4m3⟩
/-- 8-bit, 5 exponent bits. -/
def fp8e5m2 : Fmt := ⟨5, 2, 15, .ieee⟩
/-- 6-bit, 3 exponent bits. -/
def fp6e3m2 : Fmt := ⟨3, 2, 3, .finite⟩
/-- 6-bit, 2 exponent bits. -/
def fp6e2m3 : Fmt := ⟨2, 3, 1, .finite⟩
/-- 4-bit. -/
def fp4e2m1 : Fmt := ⟨2, 1, 1, .finite⟩

/-- The exact value as a rational; 0 for a value that is not finite. -/
def FV.rat : FV → Rat
  | .fin n m => if n then -m else m
  | _ => 0

/-- Whether a value is finite. -/
def FV.isFin : FV → Bool
  | .fin _ _ => true
  | _ => false

/-- A rational as a value. -/
def FV.ofRat (q : Rat) : FV := if q < 0 then .fin true (-q) else .fin false q

/-- Exact sum; an exact cancellation is +0. -/
def FV.add : FV → FV → FV
  | .nan, _ => .nan
  | _, .nan => .nan
  | .inf a, .inf b => if a = b then .inf a else .nan
  | .inf a, _ => .inf a
  | _, .inf b => .inf b
  | .fin a m, .fin b n =>
    if m = 0 ∧ n = 0 then .fin (a && b) 0 else FV.ofRat ((FV.fin a m).rat + (FV.fin b n).rat)

/-- The opposite. -/
def FV.neg : FV → FV
  | .nan => .nan
  | .inf a => .inf (!a)
  | .fin a m => .fin (!a) m

/-- Exact product. -/
def FV.mul : FV → FV → FV
  | .nan, _ => .nan
  | _, .nan => .nan
  | .inf a, .inf b => .inf (a != b)
  | .inf a, .fin b n => if n = 0 then .nan else .inf (a != b)
  | .fin a m, .inf b => if m = 0 then .nan else .inf (a != b)
  | .fin a m, .fin b n => .fin (a != b) (m * n)

/-- Exact quotient. -/
def FV.div : FV → FV → FV
  | .nan, _ => .nan
  | _, .nan => .nan
  | .inf _, .inf _ => .nan
  | .inf a, .fin b _ => .inf (a != b)
  | .fin a _, .inf b => .fin (a != b) 0
  | .fin a m, .fin b n => if n = 0 then (if m = 0 then .nan else .inf (a != b)) else .fin (a != b) (m / n)

/-- The magnitude. -/
def FV.abs : FV → FV
  | .nan => .nan
  | .inf _ => .inf false
  | .fin _ m => .fin false m

/-- A binary32 word. -/
abbrev F32 := BitVec 32

/-- The value of a binary32 word. -/
def F32.val (w : F32) : FV := fp32.decode w.toNat

/-- Round to binary32. -/
def F32.of (v : FV) : F32 := BitVec.ofNat 32 (fp32.encode (fp32.round v))

/-- Round a rational to binary32. -/
def F32.ofRat (q : Rat) : F32 := F32.of (FV.ofRat q)

/-- The rational value of a binary32 word; 0 where it is not finite. -/
def F32.rat (w : F32) : Rat := (F32.val w).rat

/-- Whether a binary32 word is finite. -/
def F32.isFin (w : F32) : Bool := (F32.val w).isFin

/-- Binary32 sum, ties to even. -/
def f32add (a b : F32) : F32 := F32.of ((F32.val a).add (F32.val b))
/-- Binary32 difference, ties to even. -/
def f32sub (a b : F32) : F32 := F32.of ((F32.val a).add (F32.val b).neg)
/-- Binary32 product, ties to even. -/
def f32mul (a b : F32) : F32 := F32.of ((F32.val a).mul (F32.val b))
/-- Binary32 quotient, ties to even. -/
def f32div (a b : F32) : F32 := F32.of ((F32.val a).div (F32.val b))
/-- Binary32 magnitude. -/
def f32abs (a : F32) : F32 := a &&& 0x7FFFFFFF
/-- The opposite of a binary32 word. -/
def f32neg (a : F32) : F32 := a ^^^ 0x80000000
/-- Binary32 minus infinity. -/
def f32NegInf : F32 := 0xFF800000
/-- Binary32 1. -/
def f32One : F32 := 0x3F800000

/-- Whether a binary32 value lies below another; false where either is NaN. -/
def f32lt (a b : F32) : Bool :=
  match F32.val a, F32.val b with
  | .nan, _ => false
  | _, .nan => false
  | .inf p, .inf q => p && !q
  | .inf p, .fin _ _ => p
  | .fin _ _, .inf q => !q
  | x, y => decide (x.rat < y.rat)

/-- The larger of two binary32 values, the first where neither is larger. -/
def f32max (a b : F32) : F32 := if f32lt a b then b else a

/-- The sum of binary32 values in list order, each addition rounded. -/
def f32sum (xs : List F32) : F32 := xs.foldl f32add 0

/-- The least value of a format at or above an exact magnitude: rounding towards plus infinity (R113). -/
def Fmt.roundUp (f : Fmt) (m : Rat) : Rat :=
  if m = 0 then 0 else
    let e := max (ilog2 m) f.emin
    let u := pow2 (e - f.mb)
    let q := m / u
    let n := ceilDiv q.num.toNat q.den
    (n : Rat) * u

/-- The least integer at or above the binary logarithm of a positive value. -/
def clog2 (m : Rat) : Int := let k := ilog2 m; if pow2 k = m then k else k + 1

end Sys2Proof.Machine
end

