-- ==== Sys2Proof/Machine/Operands.lean ====
section
/-! DEFINITION. The forms in which rows and pages are held: stored formats and head dimensions, the payload and annex layout, the
page header, the conversion of rows (`store_row`) and its inverse (R53–R62, R106–R115). -/

namespace Sys2Proof.Machine

/-! ## Formats and dimensions -/

/-- Bits of a stored element (R53, R106). -/
def elemBits (fmt : Nat) : Nat :=
  match fmt with
  | 0 => 32 | 1 => 16 | 2 => 16 | 3 => 8 | 4 => 8 | 5 => 6 | 6 => 6 | 7 => 4 | 8 => 8 | _ => 4

/-- The head dimension of a code (R54); 0 for the reserved codes. -/
def dimOf (code : Nat) : Nat :=
  match code with
  | 0 => 64 | 1 => 96 | 2 => 128 | 3 => 160 | 4 => 192 | 5 => 256 | _ => 0

/-- Whether a format's elements are integers. -/
def isInt (fmt : Nat) : Bool := decide (8 ≤ fmt)

/-- The floating-point format of a code below 8 (R107). -/
def fmtOf (fmt : Nat) : Fmt :=
  match fmt with
  | 0 => fp32 | 1 => bf16 | 2 => fp16 | 3 => fp8e4m3 | 4 => fp8e5m2 | 5 => fp6e3m2 | 6 => fp6e2m3 | _ => fp4e2m1

/-- QMAX (R107). -/
def qmax (fmt : Nat) : Rat := if fmt = 8 then 127 else if fmt = 9 then 7 else (fmtOf fmt).maxFinite

/-- Tokens per page, T (R53). -/
def tokenCap (fmt dim : Nat) : Nat := min 256 (32768 * 8 / (2 * dim * elemBits fmt))

/-- Bytes of a stored row. -/
def rowBytes (fmt dim : Nat) : Nat := dim * elemBits fmt / 8

/-- Group scales per slot, G (R57). -/
def groupsOf (fmt dim : Nat) : Nat := if fmt = 5 ∨ fmt = 6 ∨ fmt = 7 then ceilDiv dim 64 else 0

end Sys2Proof.Machine

namespace Sys2Proof

open Machine

/-- D of a geometry. -/
def Geometry.dim (g : Geometry) : Nat := dimOf g.headDim.toNat
/-- The stored format of a geometry. -/
def Geometry.fmt (g : Geometry) : Nat := g.format.toNat
/-- T of a geometry. -/
def Geometry.cap (g : Geometry) : Nat := tokenCap g.fmt g.dim
/-- Tokens of a span (R42). -/
def Geometry.spanLen (g : Geometry) : Nat := 2 ^ g.spanLog2
/-- P, the pages of a layer and head (R55). -/
def Geometry.pages (g : Geometry) : Nat := ceilDiv g.spanLen g.cap
/-- TOKEN_CAPACITY of a page (R55). -/
def Geometry.pageCap (g : Geometry) (p : Nat) : Nat := min g.cap (g.spanLen - p * g.cap)

end Sys2Proof

namespace Sys2Proof.Machine

/-! ## Annex layout (R57) -/

/-- A length rounded up to a multiple of 32. -/
def up32 (n : Nat) : Nat := ceilDiv n 32 * 32

/-- Where the regions of an annex start, from annex byte 0. -/
structure AnnexMap where
  keySum : Nat
  valueCheck : Nat
  keyScale : Nat
  valueScale : Nat
  keyGroups : Nat
  valueGroups : Nat
  stop : Nat
deriving DecidableEq, Repr

/-- The annex map of a format and head dimension. -/
def annexMap (fmt dim : Nat) : AnnexMap :=
  let t := tokenCap fmt dim
  let g := groupsOf fmt dim
  let a := 0x100
  let b := a + up32 (4 * dim)
  let c := b + up32 (4 * t)
  let d := c + up32 (2 * t)
  let e := d + up32 (2 * t)
  let f := e + up32 (t * g)
  ⟨a, b, c, d, e, f, f + up32 (t * g)⟩

/-- The byte of a frame at which its annex starts. -/
def annexAt : Nat := 32768

/-- The fields of a page header (R60). -/
structure Header where
  layer : Nat
  head : Nat
  cap : Nat
  count : Nat
  headDim : Nat
  format : Nat
  rotation : Nat
  valueRotated : Bool
  shared : Bool
  state : Nat
  sealEpoch : Nat
  gen : Nat
  handle : Nat
  span : Nat
  page : Nat
  digest : List Byte
deriving DecidableEq, Repr

/-- The 64 bytes of a header that are not reserved (R60). -/
def headerBytes (h : Header) : List Byte :=
  words64 [word [(48, h.layer), (40, h.head), (31, h.cap), (22, h.count), (19, h.headDim), (15, h.format), (12, h.rotation),
      (11, b2n h.valueRotated), (10, b2n h.shared), (0, h.state)],
    word [(32, h.sealEpoch), (0, h.gen)], h.handle, word [(16, h.span), (0, h.page)]] ++ padTo 32 h.digest

/-- The header that annex bytes hold. -/
def readHeader (a : List Byte) : Header :=
  let w0 := wordAt a 0
  let w1 := wordAt a 1
  let w3 := wordAt a 3
  ⟨bitsOf w0 63 48, bitsOf w0 47 40, bitsOf w0 39 31, bitsOf w0 30 22, bitsOf w0 21 19, bitsOf w0 18 15, bitsOf w0 14 12,
    bitOf w0 11, bitOf w0 10, bitsOf w0 3 0, bitsOf w1 63 32, bitsOf w1 31 0, wordAt a 2, bitsOf w3 39 16, bitsOf w3 15 0,
    bytesAt a 32 32⟩

/-- The header of a new page (R60, R61). -/
def pageHeader (g : Geometry) (handle : Handle) (span layer head page : Nat) (shared : Bool) (gen : BitVec 32) (state : Nat) :
    Header :=
  ⟨layer, head, g.pageCap page, 0, g.headDim.toNat, g.fmt, g.rotation.toNat, g.valueRotated, shared, state, 0, gen.toNat,
    handle.toNat, span, page, []⟩

/-- The header of a spare frame (R61). -/
def spareHeader (g : Geometry) (handle : Handle) (gen : BitVec 32) : Header :=
  ⟨0, 0, 0, 0, g.headDim.toNat, g.fmt, g.rotation.toNat, g.valueRotated, false, 1, 0, gen.toNat, handle.toNat, 0, 0, []⟩

/-- The page digest over a frame's content (R62). -/
def pageDigest (frame : List Byte) : List Byte :=
  let a := frame.drop annexAt
  let b0 := (a.headD 0).toNat
  sha256 (frame.take annexAt ++ a.drop 0x100 ++ [BitVec.ofNat 8 (b0 / 16 * 16)] ++ bytesAt a 1 7 ++ bytesAt a 0x10 16)

/-! ## Elements -/

/-- Pack element codes of a format into bytes (R56). -/
def packElems (fmt : Nat) (codes : List Nat) : List Byte :=
  let b := elemBits fmt
  if b = 6 then (chunks 4 codes).flatMap (fun c => leBytes 3 (word ((c.zip (List.range 4)).map (fun p => (6 * p.2, p.1)))))
  else if b = 4 then (chunks 2 codes).flatMap (fun c => leBytes 1 (word ((c.zip (List.range 2)).map (fun p => (4 * p.2, p.1)))))
  else codes.flatMap (leBytes (b / 8))

/-- Unpack `n` element codes (R56). -/
def unpackElems (fmt n : Nat) (bs : List Byte) : List Nat :=
  let b := elemBits fmt
  if b = 6 then ((chunks 3 bs).flatMap (fun c => let v := leNat c; (List.range 4).map (fun i => bitsOf v (6 * i + 5) (6 * i)))).take n
  else if b = 4 then (bs.flatMap (fun c => [c.toNat % 16, c.toNat / 16])).take n
  else ((chunks (b / 8) bs).map leNat).take n

/-- The value of an element code (R107). -/
def elemVal (fmt code : Nat) : FV :=
  if isInt fmt then
    let b := elemBits fmt
    FV.ofRat (if code < 2 ^ (b - 1) then (code : Rat) else (code : Rat) - (2 ^ b : Nat))
  else (fmtOf fmt).decode code

/-- The code nearest to an exact value, ties to even; −0 is stored as +0 (R108, R113). None where it is not finite. -/
def nearest (fmt : Nat) (q : Rat) : Option Nat :=
  if isInt fmt then
    let b := elemBits fmt
    let n := rneNat (if q < 0 then -q else q)
    some (if n = 0 then 0 else if q < 0 then 2 ^ b - n else n)
  else match (fmtOf fmt).round (FV.ofRat q) with
    | .fin n m => some (if m = 0 then 0 else (fmtOf fmt).encode (.fin n m))
    | _ => none

/-- 2^(E − 127) of an E8M0 code (R58). -/
def e8m0 (e : Nat) : Rat := pow2 ((e : Int) - 127)

/-- A dequantised element (R113). -/
def dequant (fmt code : Nat) (s : Rat) (e : Nat) : F32 := F32.ofRat ((elemVal fmt code).rat * s * e8m0 e)

/-! ## Transforms (R110, R111) -/

/-- One stage of the Hadamard transform over a block. -/
def hadamardStage (h : Nat) (x : List F32) : List F32 :=
  (List.range x.length).map (fun i =>
    if i / h % 2 = 0 then f32add (x.getD i 0) (x.getD (i + h) 0) else f32sub (x.getD (i - h) 0) (x.getD i 0))

/-- The block sizes of ROTATION 1 to 3; 0 for none. -/
def blockOf (rotation : Nat) : Nat := match rotation with
  | 1 => 32 | 2 => 64 | 3 => 128 | _ => 0

/-- The scaling constants of R110. -/
def hadamardScale (b : Nat) : F32 := if b = 32 then 0x3E3504F3 else if b = 64 then 0x3E000000 else 0x3DB504F3

/-- The transform of one block (R110). -/
def hadamardBlock (b : Nat) (x : List F32) : List F32 :=
  let stages := ([1, 2, 4, 8, 16, 32, 64].filter (fun h => decide (2 * h ≤ b)))
  (stages.foldl (fun x h => hadamardStage h x) x).map (fun y => f32mul y (hadamardScale b))

/-- The block Hadamard transform of a row (R110); none for rotation 0 and 4. -/
def hadamard (rotation : Nat) (x : List F32) : List F32 :=
  let b := blockOf rotation
  if b = 0 then x else (chunks b x).flatMap (hadamardBlock b)

/-- The key transform of a geometry (R110, R111), with the smoothing vector of the layer and head. -/
def keyTransform (g : Geometry) (sigma : List F32) (x : List F32) : List F32 :=
  if g.rotation = 4 then (x.zip sigma).map (fun p => f32div p.1 p.2) else hadamard g.rotation.toNat x

/-- The value transform (R109). -/
def valueTransform (g : Geometry) (x : List F32) : List F32 := if g.valueRotated then hadamard g.rotation.toNat x else x

/-! ## store_row (R113) -/

/-- A converted row: packed elements, BF16 scale, group scales, and dequantised elements. -/
structure RowOut where
  bytes : List Byte
  scale : BitVec 16
  groups : List Byte
  deq : List F32
deriving DecidableEq, Repr

/-- The magnitude of a binary32 word. -/
def f32mag (x : F32) : Rat := let r := F32.rat x; if r < 0 then -r else r

/-- The greatest of a list of magnitudes. -/
def maxRat (xs : List Rat) : Rat := xs.foldl (fun a b => if a < b then b else a) 0

/-- The per-token scale of a row whose largest magnitude is `a`. -/
def rowScale (fmt : Nat) (a : Rat) : Rat :=
  if fmt = 0 ∨ fmt = 1 ∨ (fmt = 2 ∧ a ≤ 65504) ∨ a = 0 then 1
  else
    let s := bf16.roundUp (a / qmax fmt)
    if s < pow2 (-126) then pow2 (-126) else s

/-- The group scale of a group whose largest scaled magnitude is `a`. -/
def groupScale (fmt : Nat) (a : Rat) : Nat :=
  if a = 0 then 127
  else
    let e := 127 + clog2 (a / qmax fmt)
    if e < 0 then 0 else if 127 < e then 127 else e.toNat

/-- All of a list of options, or none. -/
def allSome {α : Type} : List (Option α) → Option (List α)
  | [] => some []
  | none :: _ => none
  | some x :: r => (allSome r).map (fun ys => x :: ys)

/-- `store_row` after the transform: none where an element, scale or dequantised value is not finite. -/
def storeRow (fmt : Nat) (x : List F32) : Option RowOut :=
  if x.any (fun e => !(F32.isFin e)) then none
  else
    let a := maxRat (x.map f32mag)
    let s := rowScale fmt a
    let g := groupsOf fmt x.length
    let gs : List Nat := if g = 0 then [] else (chunks 64 x).map (fun c => groupScale fmt (maxRat (c.map f32mag) / s))
    let eOf (d : Nat) : Nat := if g = 0 then 127 else gs.getD (d / 64) 127
    let codes := (x.zip (List.range x.length)).map (fun p => nearest fmt (F32.rat p.1 / (s * e8m0 (eOf p.2))))
    match allSome codes with
    | none => none
    | some cs =>
      let deq := (cs.zip (List.range cs.length)).map (fun p => dequant fmt p.1 s (eOf p.2))
      if deq.any (fun e => !(F32.isFin e)) then none
      else some ⟨packElems fmt cs, BitVec.ofNat 16 (bf16.encode (.fin false s)), gs.map (BitVec.ofNat 8), deq⟩

/-- The dequantised elements of a stored row. -/
def dequantRow (fmt dim : Nat) (bytes : List Byte) (scale : BitVec 16) (groups : List Byte) : List F32 :=
  let cs := unpackElems fmt dim bytes
  let s := (bf16.decode scale.toNat).rat
  let g := groupsOf fmt dim
  (cs.zip (List.range cs.length)).map (fun p =>
    dequant fmt p.1 s (if g = 0 then 127 else (groups.getD (p.2 / 64) 127).toNat))

/-- An element of an input row (R96): FP32, BF16 or FP16, exactly as binary32. -/
def inputElem (inFmt : Nat) (code : Nat) : F32 :=
  match inFmt with
  | 0 => BitVec.ofNat 32 code
  | 1 => BitVec.ofNat 32 (code * 65536)
  | _ => F32.of (fp16.decode code)

/-- Bytes of an input element (R93). -/
def inputBytes (inFmt : Nat) : Nat := if inFmt = 0 then 4 else 2

/-- The elements of an input row. -/
def inputRow (inFmt : Nat) (bs : List Byte) : List F32 := (chunks (inputBytes inFmt) bs).map (fun c => inputElem inFmt (leNat c))

/-! ## Slots of a frame -/

/-- The stored row of a slot of a frame's content (R56, R57). -/
def slotRow (g : Geometry) (frame : List Byte) (t : Nat) : StoredRow :=
  let m := annexMap g.fmt g.dim
  let n := rowBytes g.fmt g.dim
  let gr := groupsOf g.fmt g.dim
  let a := frame.drop annexAt
  ⟨bytesAt frame (t * n) n, bytesAt frame (0x4000 + t * n) n,
    BitVec.ofNat 16 (leNat (bytesAt a (m.keyScale + 2 * t) 2)), BitVec.ofNat 16 (leNat (bytesAt a (m.valueScale + 2 * t) 2)),
    bytesAt a (m.keyGroups + t * gr) gr, bytesAt a (m.valueGroups + t * gr) gr, BitVec.ofNat 32 (leNat (bytesAt a (m.valueCheck + 4 * t) 4))⟩

/-- Write a stored row into a slot of a frame (R115, R116): its elements, scales and group scales, KEY_SUM with the row added,
and its check element in VALUE_CHECK. -/
def writeSlot (g : Geometry) (f : FrameId) (t : Nat) (r : StoredRow) (s : State) : State :=
  let m := annexMap g.fmt g.dim
  let n := rowBytes g.fmt g.dim
  let gr := groupsOf g.fmt g.dim
  let base := frameBase f
  let an := base + annexAt
  let xk := dequantRow g.fmt g.dim r.keyBytes r.keyScale r.keyGroups
  let sums := (chunks 4 (hbmRead s (an + m.keySum) (4 * g.dim))).map (fun c => BitVec.ofNat 32 (leNat c))
  let sums' := (sums.zip xk).map (fun p => f32add p.1 p.2)
  let s := hbmWrite (base + t * n) r.keyBytes s
  let s := hbmWrite (base + 0x4000 + t * n) r.valueBytes s
  let s := hbmWrite (an + m.keyScale + 2 * t) (leBytes 2 r.keyScale.toNat) s
  let s := hbmWrite (an + m.valueScale + 2 * t) (leBytes 2 r.valueScale.toNat) s
  let s := hbmWrite (an + m.keyGroups + t * gr) r.keyGroups s
  let s := hbmWrite (an + m.valueGroups + t * gr) r.valueGroups s
  let s := hbmWrite (an + m.keySum) (sums'.flatMap (fun w => leBytes 4 w.toNat)) s
  hbmWrite (an + m.valueCheck + 4 * t) (leBytes 4 r.check.toNat) s

/-- Set TOKEN_COUNT of a page's header (R60). -/
def setTokenCount (f : FrameId) (n : Nat) (s : State) : State :=
  let a := frameBase f + annexAt
  let w := leNat (hbmRead s a 8)
  hbmWrite a (leBytes 8 (w - bitsOf w 30 22 * 2 ^ 22 + n % 512 * 2 ^ 22)) s

/-- Write a header into a frame. -/
def writeHeader (f : FrameId) (h : Header) (s : State) : State := hbmWrite (frameBase f + annexAt) (headerBytes h) s

/-- Rebuild KEY_SUM of a page from its first `n` slots in slot order (R398). -/
def rebuildKeySum (g : Geometry) (f : FrameId) (n : Nat) (s : State) : State :=
  let fr := readFrame s f
  let sums := (List.range n).foldl (fun acc t =>
    let r := slotRow g fr t
    (acc.zip (dequantRow g.fmt g.dim r.keyBytes r.keyScale r.keyGroups)).map (fun p => f32add p.1 p.2)) (List.replicate g.dim (0 : F32))
  hbmWrite (frameBase f + annexAt + (annexMap g.fmt g.dim).keySum) (sums.flatMap (fun w => leBytes 4 w.toNat)) s

/-- Clear the slots of a page from `n` on: rows, scales, group scales and check elements (R59, R398). -/
def clearSlots (g : Geometry) (f : FrameId) (n : Nat) (s : State) : State :=
  let m := annexMap g.fmt g.dim
  let rb := rowBytes g.fmt g.dim
  let gr := groupsOf g.fmt g.dim
  let k := g.cap - n
  let base := frameBase f
  let an := base + annexAt
  let s := hbmWrite (base + n * rb) (zeros (k * rb)) s
  let s := hbmWrite (base + 0x4000 + n * rb) (zeros (k * rb)) s
  let s := hbmWrite (an + m.keyScale + 2 * n) (zeros (2 * k)) s
  let s := hbmWrite (an + m.valueScale + 2 * n) (zeros (2 * k)) s
  let s := hbmWrite (an + m.keyGroups + n * gr) (zeros (k * gr)) s
  let s := hbmWrite (an + m.valueGroups + n * gr) (zeros (k * gr)) s
  let s := hbmWrite (an + m.valueCheck + 4 * n) (zeros (4 * k)) s
  rebuildKeySum g f n s

end Sys2Proof.Machine
end

