-- ==== Sys2Proof/Machine/Rec.lean ====
section
/-! DEFINITION. Records and what finds them: homes, span and sequence records, PEER messages, the release of pages, the
lost-span list, and the search that a request for a span begins with (R36–R49, R376, R391–R395, R415, R426). -/

namespace Sys2Proof.Machine

/-! ## Homes (R38) -/

/-- The weight of a member for a handle. -/
def homeWeight (h : Handle) (n : NodeId) : Nat := beNat ((sha256 (beBytes 8 h.toNat ++ beBytes 2 n.toNat)).take 8)

/-- The heavier of two weighed members; equals go to the lower identifier. -/
def heavier (a b : Nat × NodeId) : Nat × NodeId :=
  if a.1 < b.1 ∨ (a.1 = b.1 ∧ b.2 < a.2) then b else a

/-- The home of a handle under a member list; none while no member is LIVE. -/
def homeUnder (m : MapList) (h : Handle) : Option NodeId :=
  let live := (m.members.filter (fun p => decide (p.2 = .live))).map (fun p => (homeWeight h p.1, p.1))
  match live with
  | [] => none
  | x :: r => some (r.foldl heavier x).2

/-! ## PEER messages (R391–R393) -/

/-- Whether a node may send a peer nothing but heartbeats and fenced answers (R410, R411). -/
def peerBlocked (s : State) (v : VId) (dest : NodeId) : Bool := isFenced s v dest || (vn s v).fenced

/-- PEER_OP of a message's body (R392). DESIGN CHOICE (entry 119): four messages that other rules name have no code there and take codes of
the node's own, which are free. -/
def peerOp : PeerBody → Nat
  | .pairPropose _ => 0x01
  | .pairConfirm _ => 0x02
  | .mirrorRecord _ => 0x10
  | .mirrorRows _ => 0x11
  | .mirrorSeal .. => 0x12
  | .mirrorRelease _ => 0x13
  | .verifyReq .. => 0x14
  | .verifyResp .. => 0x15
  | .codeContrib .. => 0x20
  | .codeNull .. => 0x21
  | .copyManifest _ => 0x30
  | .copyRecord _ => 0x31
  | .copyPage .. => 0x32
  | .copyRows _ => 0x33
  | .copyDone => 0x34
  | .homeUpdate => 0x40
  | .seqClose => 0x41
  | .peerAck .. => 0x7F
  | .spanCreate .. => (Config.peerCode 0).toNat
  | .fillReport => (Config.peerCode 1).toNat
  | .smoothHold .. => (Config.peerCode 2).toNat
  | .smoothInstall .. => (Config.peerCode 3).toNat

/-- The 32-byte header of a PEER message (R391). -/
def peerHeader (m : PeerMsg) : List Byte :=
  words64 [word [(56, peerOp m.body), (0, m.pairEpoch.toNat)], m.fenceEpoch.toNat, m.handle.toNat, word [(40, m.span.toNat), (0, m.tag.toNat)]]

/-- Numbers as the words of a field. -/
def numsField (ns : List Nat) : List Byte := words64 ns

/-- The words of a geometry. -/
def geoField (g : Geometry) : List Byte :=
  numsField [g.spanLog2, g.layers, g.heads, g.headDim.toNat, g.format.toNat, g.rotation.toNat, b2n g.valueRotated, g.mirrorMode.toNat,
    b2n g.codeSealed]

/-- The words of smoothing vectors. -/
def smoothField (xs : List (Nat × Nat × List (BitVec 32))) : List Byte :=
  xs.flatMap (fun x => numsField [x.1, x.2.1] ++ x.2.2.flatMap (fun e => leBytes 4 e.toNat))

/-- The fields of the rows of a message: stored rows, scales, group scales and check elements (R392). -/
def rowsFields (rows : List RowsImage) : List (List Byte) :=
  rows.flatMap (fun r => numsField [r.layer, r.head, r.fillBefore] :: r.rows.flatMap (fun x =>
    [x.keyBytes, x.valueBytes, leBytes 2 x.keyScale.toNat ++ leBytes 2 x.valueScale.toNat, x.keyGroups, x.valueGroups, leBytes 4 x.check.toNat]))

/-- The fields of a span record's image. -/
def recordFields (r : RecordImage) : List (List Byte) :=
  [geoField r.geo, r.fills.flatMap (fun f => numsField [f.span, f.layer, f.head, f.fill]), smoothField r.smooth, numsField [b2n r.hasMask, b2n r.passed]]
    ++ r.pages.flatMap (fun p => [numsField [p.layer, p.head, p.page, b2n p.lost], p.digest.getD [],
      (p.coded.map (fun c => numsField [c.1.toNat, c.2.1, c.2.2])).getD [], (p.sharedOf.map (fun h => numsField [h.toNat])).getD []])

/-- The fields of a sequence record's image. -/
def seqFields (r : SeqImage) : List (List Byte) :=
  [geoField r.geo, r.places.flatMap (fun p => numsField [p.1, p.2.toNat]), numsField [r.nextSpan, b2n r.closing], smoothField r.smooth]

/-- The fields of a PEER message's body, in order. -/
def peerFields : PeerBody → List (List Byte)
  | .pairPropose r => [numsField [r.toNat]]
  | .pairConfirm r => [numsField [r.toNat]]
  | .mirrorRecord (.inl r) => recordFields r
  | .mirrorRecord (.inr r) => seqFields r
  | .mirrorRows rows => rowsFields rows
  | .mirrorSeal l h p d => [numsField [l, h, p], d]
  | .mirrorRelease ps => [((ps.getD []).flatMap (fun p => numsField [p.1, p.2.1, p.2.2]))]
  | .verifyReq l h p d x => [numsField [l, h, p], d, x]
  | .verifyResp l h p d x c => [numsField [l, h, p], d, x.getD [], c]
  | .codeContrib i k f => [numsField [i, k], f]
  | .codeNull i k => [numsField [i, k]]
  | .copyManifest xs => [xs.flatMap (fun x => numsField [x.1.toNat, x.2.toNat])]
  | .copyRecord r => recordFields r
  | .copyPage l h p s c => [numsField [l, h, p, b2n s], c]
  | .copyRows rows => rowsFields rows
  | .copyDone => []
  | .homeUpdate => []
  | .seqClose => []
  | .peerAck st fill => [leBytes 2 st.toNat, numsField [fill]]
  | .spanCreate g xs top => [geoField g, smoothField xs, numsField [b2n top]]
  | .fillReport => []
  | .smoothHold l h => [numsField [l, h]]
  | .smoothInstall l h x => [numsField [l, h], (x.getD []).flatMap (fun e => leBytes 4 e.toNat)]

/-- The payload of a PEER message (R391, R392). -/
def peerBytes (m : PeerMsg) : List Byte := peerHeader m ++ Config.peerLayout (peerOp m.body) (peerFields m.body)

/-- Hand a PEER message to the queue pair of its destination: what goes over the twin link leaves on no other port (R408). -/
def handPeer (m : PeerMsg) (s : State) : State :=
  let b := peerBytes m
  sendTo m.vnode m.dest m.twinLink (headOf s m.vnode opPeer 0 0 0 b.length) b (.peer m) s

/-- Send a PEER message that is resent until it is acknowledged; to a fenced node nothing leaves. -/
def sendPeer (v : VId) (dest : NodeId) (twinLink : Bool) (h : Handle) (span : Nat) (body : PeerBody) (job : Option Nat)
    (s : State) : State :=
  let n := vn s v
  let m : PeerMsg := ⟨v, dest, twinLink, if twinLink then n.pairEpoch else 0, n.fenceEpoch, h, BitVec.ofNat 24 span, s.nextTag, body⟩
  let s := { s with nextTag := s.nextTag + 1, peerSent := s.peerSent ++ [(m.tag, ⟨m, job, s.work, 0⟩)] }
  if peerBlocked s v dest then s else handPeer m s

/-- Acknowledge a PEER message. -/
def ackPeer (h : PeerHdr) (st : Status) (fill : Nat) (s : State) : State :=
  let n := vn s h.vnode
  handPeer ⟨h.vnode, h.sender, h.viaTwin, if h.viaTwin then n.pairEpoch else 0, n.fenceEpoch, h.handle, h.span, h.tag, .peerAck st fill⟩ s

/-- The classes of PEER operations that R393 tells apart. -/
inductive PeerClass where
  | propose | twin | code | copy | other
deriving DecidableEq, Repr

/-- Whether a node is the counterpart of a bring-in or handoff in progress. -/
def copyCounterpart (s : State) (v : VId) (n : NodeId) : Bool :=
  let x := vn s v
  (decide (x.pairState = .copying) && decide (x.twin = n)) || x.handoffs.any (fun h => decide (h.other = n))

/-- Whether R393 lets a PEER message pass. -/
def peerPasses (s : State) (h : PeerHdr) (cls : PeerClass) : Bool :=
  let x := vn s h.vnode
  !(isFenced s h.vnode h.sender) && (match cls with
    | .propose => h.viaTwin && ((decide (x.twin = h.sender) && decide (x.pairEpoch = h.pairEpoch) && decide (x.pairState ≠ .unpaired))
        || (match x.pairing with
        | some p => decide (p.blk.twin = h.sender ∧ p.blk.pairEpoch = h.pairEpoch)
        | none => false))
    | .twin => h.viaTwin && decide (x.twin = h.sender) && decide (x.pairEpoch = h.pairEpoch) && decide (x.pairState ≠ .unpaired)
    | .code => (match x.codeset with
        | some (_, ns) => decide (h.sender ∈ ns)
        | none => false)
    | .copy => copyCounterpart s h.vnode h.sender
    | .other => true)

/-- Whether a PEER message is taken up: its sender is a member (R362), R393 lets it pass, and this node is not FENCED (R411). -/
def peerTaken (s : State) (h : PeerHdr) (cls : PeerClass) : Bool :=
  (memberState s h.vnode h.sender).isSome && peerPasses s h cls && !(vn s h.vnode).fenced

/-- The oldest PEER message of a sender that has entered: its queue pair and MSN. -/
def peerEntered (n : NodeId) (s : State) : Option (BitVec 12 × BitVec 24) :=
  (s.fab.entered.find? (fun e => decide (e.head.op.toNat = opPeer) && decide ((qpAt s e.qpn).map Qp.peer = some n))).map (fun e => (e.qpn, e.msn))

/-- What becomes of a PEER message that is not taken up: one whose sender is no member is a refused message (R357, R362), one that R393 names is
counted in PEER_DROPS, and one that reaches a FENCED node starts no step (R411). `at_` is its place in the headrace. -/
def leavePeer (h : PeerHdr) (cls : PeerClass) (at_ : Option (BitVec 12 × BitVec 24)) (s : State) : State :=
  if (memberState s h.vnode h.sender).isNone then
    rejectMsg h.vnode h.sender ((at_.map Prod.fst).getD 0) ((at_.map Prod.snd).getD 0) stDenied s
  else if peerPasses s h cls then s
  else bump .peerDrops s

/-- Take up a PEER message or leave it; one with a non-zero reserved field is answered with ST_BAD_PARAM (R10). -/
def onPeer (h : PeerHdr) (cls : PeerClass) (f : State → State) (s : State) : Res :=
  onNode (fun s =>
    let at_ := peerEntered h.sender s
    let s := takePeer h.sender s
    if peerTaken s h cls then (if h.rsv then ackPeer h stBadParam 0 s else f s) else leavePeer h cls at_ s) s

/-- Take up an acknowledgement: one with a non-zero reserved field has no effect, as nothing acknowledges it. -/
def onPeerAck (h : PeerHdr) (f : State → State) (s : State) : Res :=
  onNode (fun s =>
    let at_ := peerEntered h.sender s
    let s := takePeer h.sender s
    if peerTaken s h .other then (if h.rsv then s else f s) else leavePeer h .other at_ s) s

/-! ## Writes that meet link errors (R145) -/

/-- The first address at which two lists of cells differ. -/
def firstChanged : List Host.Cell → List Host.Cell → Option Nat
  | a :: r, b :: q => if a = b then firstChanged r q else some (min a.1 b.1)
  | [], b :: _ => some b.1
  | a :: _, [] => some a.1
  | [], [] => none

/-- A write to an address is sent once more. -/
def resent (a : Nat) (s : State) : State := bumpAt .stackLinkResends (stackOf a) 1 s

/-- The second transfer of a write has failed too: it is logged with its stack and pseudo-channel. -/
def linkBroken (a : Nat) (s : State) : State :=
  logFrom 0 0x0301 (srcStack (stackOf a)) [(8, stackOf a), (8, a % 2 ^ 36 / pcBytes)] (resent a s)

/-- A command whose first write may meet link errors: after the second it completes with ST_UNCORRECTABLE, and nothing of it is done. -/
def linkDone (c : Cmd) (body : State → Done) (s : State) : Done :=
  let d := body s
  match (if c.links = 0 then none else firstChanged s.mem.cells d.state.mem.cells) with
  | none => d
  | some a => if c.links = 1 then d.map (resent a) else .now (Reply.st stUncorrectable) (linkBroken a s)

/-- A PEER message whose first write may meet link errors: after the second it is acknowledged with ST_UNCORRECTABLE, and nothing of it is done. -/
def linkPeer (h : PeerHdr) (f : State → State) (s : State) : State :=
  let t := f s
  match (if h.links = 0 then none else firstChanged s.mem.cells t.mem.cells) with
  | none => t
  | some a => if h.links = 1 then resent a t else ackPeer h stUncorrectable 0 (linkBroken a s)

/-! ## Records -/

/-- The span record in a frame. -/
def spanAt (s : State) (f : FrameId) : Option SpanRec := s.spans.at? f

/-- Change a span record. -/
def updSpan (f : FrameId) (g : SpanRec → SpanRec) (s : State) : State :=
  match s.spans.at? f with
  | some r => { s with spans := s.spans.put f (g r) }
  | none => s

/-- Change a sequence record. -/
def updSeq (f : FrameId) (g : SeqRec → SeqRec) (s : State) : State :=
  match s.seqs.at? f with
  | some r => { s with seqs := s.seqs.put f (g r) }
  | none => s

/-- Published fill point of a layer and head. -/
def SpanRec.fill (r : SpanRec) (l h : Nat) : Nat := r.fills.atD (l, h) 0

/-- The span record of a handle and span in a virtual node that is its own SPAN record, or a copy. -/
def ownSpan (s : State) (v : VId) (h : Handle) (span : Nat) (copy : Bool) : Option FrameId :=
  (s.spans.find? (fun p => decide (p.2.vnode = v) && decide (p.2.handle = h) && decide (p.2.span = span) && !p.2.shared
    && decide (p.2.copy = copy) && !p.2.leaving)).map Prod.fst

/-- Whether a record is one of a virtual node's own SPAN records, and the span has not moved away. -/
def SpanRec.ownOf (r : SpanRec) (v : VId) : Bool := decide (r.vnode = v) && !r.copy && !r.shared && !r.leaving

/-- The own span records of a handle in a virtual node. -/
def recordsOf (s : State) (v : VId) (h : Handle) : List (FrameId × SpanRec) :=
  s.spans.filter (fun p => p.2.ownOf v && decide (p.2.handle = h))

/-- The sequence record of a handle that a node holds as home. -/
def homeSeq (s : State) (v : VId) (h : Handle) : Option FrameId :=
  (s.seqs.find? (fun p => decide (p.2.vnode = v) && decide (p.2.handle = h) && !p.2.copy && !p.2.leaving)).map Prod.fst

/-- A new map frame (R64); none where no FREE frame exists. -/
def newMapFrame (v : VId) (use : FrameUse) (s : State) : Option (FrameId × State) := allocAny v .open_ use s

/-- The image of a page for a twin or destination. -/
def pageImage (p : (Nat × Nat × Nat) × Page) : PageImage :=
  ⟨p.1.1, p.1.2.1, p.1.2.2, if p.2.isSealed then some p.2.digest else none, decide (p.2.loc = .lost), p.2.coded, p.2.sharedOf⟩

/-- The mask set of a span. -/
def maskOf (s : State) (v : VId) (h : Handle) (span : Nat) : Option FrameId :=
  (s.masks.find? (fun p => decide (p.2.vnode = v) && decide (p.2.handle = h) && decide (p.2.span = span))).map Prod.fst

/-- The image of a span record (R392). -/
def spanImage (s : State) (r : SpanRec) : RecordImage :=
  ⟨r.geo, r.fills.map (fun p => ⟨r.span, p.1.1, p.1.2, p.2⟩), r.pages.map pageImage, r.smooth.map (fun p => (p.1.1, p.1.2, p.2)),
    r.maskLost || (maskOf s r.vnode r.handle r.span).isSome, r.passed⟩

/-- The image of a sequence record. -/
def seqImage (r : SeqRec) : SeqImage := ⟨r.geo, r.places, r.nextSpan, r.closing, r.smooth.map (fun p => (p.1.1, p.1.2, p.2))⟩

/-- Whether a node mirrors to its twin (R389, R395, R411). -/
def paired (s : State) (v : VId) : Bool := decide ((vn s v).pairState = .paired) && !(vn s v).fenced

/-- Send a message to the twin where the node mirrors. -/
def toTwin (v : VId) (h : Handle) (span : Nat) (body : PeerBody) (s : State) : State :=
  if paired s v then sendPeer v (vn s v).twin true h span body none s else s

/-- Mirror a span record that was created or changed (R395). -/
def mirrorSpan (f : FrameId) (s : State) : State :=
  match spanAt s f with
  | some r => if r.copy ∨ r.shared then s else toTwin r.vnode r.handle r.span (.mirrorRecord (.inl (spanImage s r))) s
  | none => s

/-- Mirror a sequence record that was created or changed (R395). -/
def mirrorSeq (f : FrameId) (s : State) : State :=
  match s.seqs.at? f with
  | some r => if r.copy then s else toTwin r.vnode r.handle 0 (.mirrorRecord (.inr (seqImage r))) s
  | none => s

/-! ## The release of pages -/

/-- The pack frames' granules in use (R306). -/
def packUse (s : State) (f : FrameId) : Nat :=
  (s.tier.images.flatMap (fun p => match p.2.home with
    | .pack es => es.filter (fun e => decide (e.frame = f))
    | .flash .. => [])).foldl (fun a e => a + e.count) 0

/-- Pack frames that an image lies in. -/
def Image.frames (i : Image) : List FrameId := match i.home with
  | .pack es => (es.map Extent.frame).eraseDups
  | .flash .. => []

/-- The extents of a packed image. -/
def Image.extents (i : Image) : List Extent := match i.home with
  | .pack es => es
  | .flash .. => []

/-- TABLE_GEN and TABLE_SLOT of an image, where some block is coded. -/
def imageTable (im : List Byte) : Option (BitVec 32 × Nat) :=
  let w := wordAt im 0
  if bitsOf w 63 32 = 0 then none else some (BitVec.ofNat 32 (bitsOf w 63 32), bitsOf w 31 29)

/-- Free a RETIRING slot that nothing names any more (R329), or a forced one whose queued blocks have left (R330). -/
def settleSlot (n : Nat) (s : State) : State :=
  let x := s.tier.slots.atD n CodecSlot.free
  let named := decide (some (x.gen, n) ∈ s.tier.images.map (fun i => i.2.table))
  let queued := s.tier.queue.any (fun q => decide (q.slot = n) && decide (q.gen = x.gen) && (q.old || !x.forced))
  if x.state ≠ 2 ∨ queued ∨ (!x.forced && named) then s
  else
    let s := { s with tier := { s.tier with slots := s.tier.slots.del n } }
    if x.forced then s else logFrom 0 0x0709 srcCodec [] s

/-- Free every slot that can be freed. -/
def settleSlots (s : State) : State := (s.tier.slots.map Prod.fst).foldl (fun s n => settleSlot n s) s

/-- Remove an image; a pack frame with no live granule left is released. -/
def removeImage (n : Nat) (s : State) : State :=
  match s.tier.images.at? n with
  | none => s
  | some i =>
    let s := { s with tier := { s.tier with images := s.tier.images.del n, recode := s.tier.recode.filter (fun x => x ≠ n) } }
    settleSlots (i.frames.foldl (fun s f => if packUse s f = 0 then releaseFrame f s else s) s)

/-- Give up an image that no page map entry names any more: it stays readable until every request admitted before has ended (R289). -/
def dropImage (n : Nat) (s : State) : State :=
  match s.tier.images.at? n with
  | none => s
  | some i =>
    if i.drain.isSome then s
    else if (requestsNow s).isEmpty then removeImage n s
    else { s with tier := { s.tier with
      images := s.tier.images.put n { i with drain := some (requestsNow s) }
      recode := s.tier.recode.filter (fun x => x ≠ n) } }

/-- Remove the images that were given up and whose last request has ended (R289). -/
def sweepImages (s : State) : State :=
  (s.tier.images.filter (fun i => i.2.drain.any (requestsEnded s))).foldl (fun s i => removeImage i.1 s) s

/-- The other span records that refer to an image (R129, R304). -/
def imageUsers (s : State) (n : Nat) : Nat :=
  (s.spans.flatMap (fun p => p.2.pages.filter (fun q => decide (q.2.loc = .packed n ∨ q.2.loc = .flash n)))).length

/-- Release what a page map entry names, after the entry was removed (R64). -/
def releaseLoc (loc : PageLoc) (s : State) : State :=
  match loc with
  | .frame f _ => releaseFrame f s
  | .packed n => if imageUsers s n = 0 then dropImage n s else s
  | .flash n => if imageUsers s n = 0 then dropImage n s else s
  | _ => s

/-- A page map entry. -/
def pageAt (s : State) (p : PageRef) : Option Page :=
  match spanAt s p.record with
  | some r => r.pages.at? (p.layer, p.head, p.page)
  | none => none

/-- Change a page map entry that exists. -/
def updPage (p : PageRef) (g : Page → Page) (s : State) : State :=
  updSpan p.record (fun r => match r.pages.at? (p.layer, p.head, p.page) with
    | some x => { r with pages := r.pages.put (p.layer, p.head, p.page) (g x) }
    | none => r) s

/-- The pages of a record. -/
def pagesOf (p : FrameId × SpanRec) : List (PageRef × Page) := p.2.pages.map (fun q => (⟨p.1, q.1.1, q.1.2.1, q.1.2.2⟩, q.2))

/-- The place of a page's content, where it has one. -/
def placeOfPage (s : State) (p : PageRef) : Option PageLoc :=
  match (pageAt s p).map Page.loc with
  | some (.frame f g) => some (.frame f g)
  | some (.packed n) => some (.packed n)
  | some (.flash n) => some (.flash n)
  | _ => none

/-- Whether two entries refer to one page: the same entry, or a page that several records share (R127, R129). -/
def samePage (s : State) (p q : PageRef) : Bool :=
  decide (p = q) || ((placeOfPage s p).isSome && decide (placeOfPage s p = placeOfPage s q))

/-- Every entry that refers to a page. -/
def sharers (s : State) (p : PageRef) : List PageRef :=
  p :: ((s.spans.flatMap pagesOf).map Prod.fst).filter (fun q => decide (q ≠ p) && samePage s p q)

/-- Change every entry that refers to a page. -/
def updShared (p : PageRef) (g : Page → Page) (s : State) : State := (sharers s p).foldl (fun s q => updPage q g s) s

/-- Whether the resolution or repair of a page is awaited (R280, R296), and with which content hash. -/
def awaited (s : State) (p : PageRef) : Option (Option (List Byte)) := (s.hbm.awaiting.find? (fun a => samePage s a.1 p)).map Prod.snd

/-- Switch a page map entry to another place and release the old one (R289). -/
def switchLoc (p : PageRef) (loc : PageLoc) (s : State) : State :=
  match pageAt s p with
  | some x => releaseLoc x.loc (updPage p (fun x => { x with loc := loc }) s)
  | none => s

/-- The generation that R66 matches for a page (R288). -/
def pageGen (s : State) (x : Page) : BitVec 32 :=
  match x.loc with
  | .frame _ g => g
  | .packed n => ((s.tier.images.at? n).map Image.gen).getD 0
  | .flash n => ((s.tier.images.at? n).map Image.gen).getD 0
  | _ => 0

/-- Release the spare frame of a record. -/
def releaseSpare (f : FrameId) (s : State) : State :=
  match (spanAt s f).bind SpanRec.spare with
  | some x => releaseFrame x (updSpan f (fun r => { r with spare := none, spareOwed := none }) s)
  | none => updSpan f (fun r => { r with spareOwed := none }) s

/-- The fragment of a page in a frame (R402): its content with GENERATION, SEAL_EPOCH and STATE as zero. -/
def fragmentOf (frame : List Byte) : List Byte :=
  let a := frame.drop annexAt
  frame.take annexAt ++ [BitVec.ofNat 8 ((a.headD 0).toNat / 16 * 16)] ++ bytesAt a 1 7 ++ zeros 8 ++ a.drop 16

/-! ## Masks (R210, R211) -/

/-- The tile entry word of a mask record (R207). -/
def tileEntry (s : State) (f : FrameId) (m : MaskRec) (a b : Nat) : Nat :=
  leNat (hbmRead s (frameBase f + 4 * (a * m.cols + b)) 4)

/-- Free a mask slot whose readers have ended; a page with no slot in use is released (R208). -/
def freeMaskSlot (f : FrameId) (slot : Nat) (s : State) : State :=
  let t := (s.maskPages.atD f []).del slot
  if t.isEmpty then releaseFrame f { s with maskPages := s.maskPages.del f }
  else { s with maskPages := s.maskPages.put f t }

/-- Retire the mask slot that a tile entry named (R211). -/
def retireMaskSlot (entry : Nat) (s : State) : State :=
  if bitsOf entry 31 30 ≠ 2 then s
  else
    let f := bitsOf entry 27 4
    let slot := entry % 16
    let rs := queriesNow s
    if rs.isEmpty then freeMaskSlot f slot s
    else { s with maskPages := s.maskPages.upd f [] (fun t => t.put slot ⟨false, rs⟩) }

/-- Release a mask set's EXPLICIT slots and its record frame. -/
def dropMaskRecord (f : FrameId) (s : State) : State :=
  match s.masks.at? f with
  | none => s
  | some m =>
    let tiles := (List.range (m.rows / 128)).flatMap (fun a => (List.range m.cols).map (fun b => tileEntry s f m a b))
    let s := tiles.foldl (fun s e => retireMaskSlot e s) s
    releaseFrame f { s with masks := s.masks.del f }

/-- Remove a mask set (R210): its entry, its EXPLICIT slots and its record frame. -/
def dropMask (f : FrameId) (s : State) : State :=
  match s.masks.at? f with
  | none => s
  | some m => dropMaskRecord f (deleteWhere m.vnode m.handle (fun e => decide (e.kind = kMask) && decide (e.span = m.span)) s)

/-! ## The lost-span list (R415) -/

/-- Kinds as R415 codes them. -/
def LostKind.code : LostKind → Nat
  | .pages => 0 | .tail => 1 | .span => 2 | .masks => 3

/-- Add an entry, at most one for each span and kind. For PAGES the lowest token stays. -/
def addLost (v : VId) (h : Handle) (span : Nat) (k : LostKind) (token : Nat) (s : State) : State :=
  let n := vn s v
  if n.lost.any (fun e => decide (e.handle = h ∧ e.span = span ∧ e.kind = k)) then
    updVn v (fun n => { n with lost := n.lost.map (fun e =>
      if e.handle = h ∧ e.span = span ∧ e.kind = k then { e with tokenFirst := min e.tokenFirst token } else e) }) s
  else
    let s := updVn v (fun n => { n with
      lost := n.lost ++ [⟨h, span, k, token, n.lostSeq⟩]
      lostSeq := if n.lostSeq + 1 = 0 then 1 else n.lostSeq + 1 }) s
    logFrom v 0x0904 srcCore [] (bump .lostEntries s)

/-- Remove the lost-span entries of a span. -/
def dropLost (v : VId) (h : Handle) (span : Nat) (s : State) : State :=
  updVn v (fun n => { n with lost := n.lost.filter (fun e => !(decide (e.handle = h) && decide (e.span = span))) }) s

/-! ## What records say of the directory (R79, R88) -/

/-- The entry of a prefix alias (R90): member bits, priority and record. -/
def aliasEntryOf (v : VId) (h : Handle) (span : Nat) (members : BitVec 20) (prio : Byte) (rec : FrameId) : DirEntry :=
  ⟨v, dirKey h span kAlias, dirMask (2 ^ 20 - 1 - members.toNat), prio, true, 0, rec⟩

/-- The entries that the span, mask and sequence records stand for (R79). -/
def recordEntries (s : State) : List DirEntry :=
  s.spans.flatMap (fun p =>
      if p.2.shared then (match p.2.aliasOf with
        | some (m, prio) => [aliasEntryOf p.2.vnode p.2.handle p.2.span m prio p.1]
        | none => [])
      else [dirEntry p.2.vnode p.2.handle p.2.span (if p.2.copy then kTwin else kSpan) 0 p.1])
    ++ s.masks.map (fun p => dirEntry p.2.vnode p.2.handle p.2.span kMask 0 p.1)
    ++ (s.seqs.filter (fun p => !p.2.copy)).map (fun p => dirEntry p.2.vnode p.2.handle 0 kSeq 0 p.1)

/-- Whether a bank holds an entry with a shadow that reads, or will hold it. -/
def DirBank.holds (k : DirBank) (e : DirEntry) : Bool :=
  k.cells.any (fun c => decide (c.2.shadow = e) && !c.2.shadowBad) || decide (e ∈ k.pendingInserts)

/-- Rebuild a bank from the records (R79): an entry that a record stands for keeps its address where its shadow reads; what is missing is
inserted. DESIGN CHOICE (entry 73): tombstones, which have no record, stand as their shadows give them, and one whose shadow does not read
is gone. -/
def rebuildBank (b : Nat) (s : State) : State :=
  let es := recordEntries s
  let s := updBank b (fun k => { k with
    rebuilding := false
    cells := k.cells.map (fun c => (c.1, c.2.write (
      if !c.2.shadowBad && c.2.shadow.valid && (decide (c.2.shadow.form = 3) || decide (c.2.shadow ∈ es)) then c.2.shadow
      else DirEntry.empty))) }) s
  let s := es.foldl (fun s e =>
    let p := bankPair e.handle
    if (b = p.1 ∨ b = p.2) ∧ !(bankAt s p.1).holds e ∧ !(bankAt s p.2).holds e then settleInsert b e s else s) s
  retireWaiting s

/-- Whether the directory still holds an entry of a record, or is about to take one in. -/
def entryStands (s : State) (v : VId) (h : Handle) (f : FrameId) : Bool :=
  (entriesOf s v h).any (fun e => decide (e.record = f) && decide (e.form = 1))

/-- Release the records that have moved away and whose entries are out of the directory (R88). -/
def sweepLeaving (s : State) : State :=
  let s := (s.spans.filter (fun p => p.2.leaving && !(entryStands s p.2.vnode p.2.handle p.1))).foldl (fun s p =>
    releaseFrame p.1 { s with spans := s.spans.del p.1 }) s
  (s.seqs.filter (fun p => p.2.leaving && !(entryStands s p.2.vnode p.2.handle p.1))).foldl (fun s p =>
    releaseFrame p.1 { s with seqs := s.seqs.del p.1 }) s

/-! ## The append descriptor (R95), as far as other rules name it -/

/-- An append descriptor. -/
structure AppendDesc where
  handle : Handle
  span : Nat
  layer : Nat
  head : Nat
  headCount : Nat
  pageGen : BitVec 32
  inFmt : Nat
  rowCount : Nat
  token : Nat
  tag : BitVec 32
deriving DecidableEq, Repr

/-- The descriptor that the first 64 bytes of a payload hold. -/
def readAppend (bs : List Byte) : AppendDesc :=
  let w1 := wordAt bs 1
  let w2 := wordAt bs 2
  ⟨BitVec.ofNat 64 (wordAt bs 0), bitsOf w1 63 40, bitsOf w1 39 24, bitsOf w1 23 16, bitsOf w1 15 7, BitVec.ofNat 32 (bitsOf w2 63 32),
    bitsOf w2 31 30, bitsOf w2 29 21, bitsOf w2 19 0, BitVec.ofNat 32 (wordAt bs 3)⟩

/-- The heads of a descriptor. -/
def AppendDesc.heads (d : AppendDesc) : List Nat := (List.range d.headCount).map (fun i => d.head + i)

/-- The virtual node that a descriptor is for. -/
def srcVnode (s : State) : AppendSrc → VId
  | .msg m => m.vnode
  | .cmd c => vnodeOf s c

/-- Whether appends of a handle that were admitted have not completed (R49). -/
def appending (s : State) (v : VId) (h : Handle) : Bool :=
  let mine (x : AppendSrc × List Byte) : Bool := decide (srcVnode s x.1 = v) && decide ((readAppend x.2).handle = h)
  s.deferred.any (fun d => d.append.any mine) || s.jobs.any (fun j => j.2.append.any mine)

/-- Whether requests for a handle that were admitted have not found their records for good (R49): its appends have not completed, or the
directory holds a query. -/
def underWay (s : State) (v : VId) (h : Handle) : Bool :=
  appending s v h || s.attn.held.any (fun q => decide (q.2.vnode = v) && decide (q.2.desc.handle = h))

/-! ## The search of a request (R46, R49, R85, R376, R415, R426) -/

/-- The handoff that a span belongs to. -/
def handoffOf (s : State) (v : VId) (h : Handle) (span : Nat) : Option Handoff :=
  (vn s v).handoffs.find? (fun x => decide (x.handle = h) && decide (x.first ≤ span) && decide (span < x.first + x.count))

/-- How the search for a span ends: a record, found by an alias or not; an answer; or a search to be repeated. -/
inductive SpanHit where
  | found (rec : FrameId) (shared : Bool)
  | stop (r : Reply)
  | transient
deriving DecidableEq, Repr

/-- Answer ST_MOVED (R376). -/
def stopMoved (v : VId) (n : NodeId) (s : State) : SpanHit × State := (.stop (Reply.moved n), bumpV .movedAnswers v s)

/-- Whether the SPAN entry of a member is accepted and not yet in the directory (R130). -/
def entryDue (s : State) (v : VId) (h : Handle) (span : Nat) : Bool :=
  let p := bankPair h
  ((bankAt s p.1).pendingInserts ++ (bankAt s p.2).pendingInserts).any (fun e =>
    decide (e.vnode = v) && decide (e.handle = h) && decide (e.kind = kSpan) && decide (e.span = span))

/-- Whether a span is being taken over and its SPAN entry is not yet valid (R414). -/
def takenOverSoon (s : State) (v : VId) (h : Handle) (span : Nat) : Bool :=
  s.jobs.any (fun j => match j.2 with
    | .takeover _ es => es.any (fun e => decide (e.vnode = v) && decide (e.handle = h) && decide (e.span = span))
    | _ => false)

/-- Find the span record that serves a handle and span. `late` says that the request was admitted before SEQ_CLOSE stopped admission (R49), or
before the commit of a handoff, whose earlier requests run to completion (R426).
DEDUCED (entry 74): a span that has moved away and whose entry is not yet out answers ST_RETRY_AFTER, as while its move commits. -/
def findSpanFor (late : Bool) (v : VId) (h : Handle) (span : Nat) (s : State) : SpanHit × State :=
  let gate : Option (SpanHit × State) := match handoffOf s v h span with
    | none => none
    | some x => match x.state, x.isSource with
      | .inDoubt, _ => some (.stop (Reply.st stOwnerInDoubt), s)
      | .committing, _ => if late then none else let r := takeEstimate s; some (.stop (Reply.retry r.1), r.2)
      | _, true => none
      | _, false => some (.stop (Reply.st stMiss), s)
  match gate with
  | some r => r
  | none =>
    if takenOverSoon s v h span then (.transient, s)
    else
    let r := search v h span 0 s
    let s := r.2
    match r.1 with
    | .transient => (.transient, s)
    | .miss => (.stop (Reply.st stMiss), s)
    | .hit _ _ e =>
      if e.form = 3 then stopMoved v e.node s
      else match spanAt s e.record with
        | none => (.stop (Reply.st stMiss), s)
        | some r =>
          if r.closing && !late then (.stop (Reply.st stMiss), s)
          else if e.record ∈ s.hbm.mapsDue then (.stop (Reply.st stMissTransient), s)
          else if r.leaving then let w := takeEstimate s; (.stop (Reply.retry w.1), w.2)
          else if e.form = 2 ∧ entryDue s v h span then (.transient, s)
          else if r.lostSpan then (.stop (Reply.st stLost), s)
          else if !r.arrived then (.transient, s)
          else (.found e.record (decide (e.form = 2)), s)

/-- Find the span record that serves a new request. -/
def findSpan (v : VId) (h : Handle) (span : Nat) (s : State) : SpanHit × State := findSpanFor false v h span s

/-- Find the mask record of a span: none where its search misses. -/
def findMask (v : VId) (h : Handle) (span : Nat) (s : State) : SpanHit × State :=
  let r := search v h span 1 s
  match r.1 with
  | .transient => (.transient, r.2)
  | .miss => (.stop (Reply.st stMiss), r.2)
  | .hit _ _ e => if e.form = 3 then stopMoved v e.node r.2 else (.found e.record false, r.2)

/-- Hold a command whose search met an update or a rebuild (R85); where neither bank is busy the search's own answer stands. -/
def holdForBank (i : Instr) (c : Cmd) (h : Handle) (s : State) : Done :=
  let p := bankPair h
  if pairBusy s p then .later (defer (.bank p.1 p.2) i (knobsOf s c) s) else .refuse stMissTransient s

/-- How the search for a home's record ends. -/
inductive HomeHit where
  | found (rec : FrameId)
  | stop (r : Reply)
  | transient
deriving DecidableEq, Repr

/-- Whether a handle's record may still be on its way from its home under the previous epoch (R41). -/
def recordDue (s : State) (v : VId) (h : Handle) : Option NodeId :=
  let n := vn s v
  match n.prevMap with
  | some p => if n.draining then (match homeUnder p h with
      | some o => if o ≠ n.nodeId then some o else none
      | none => none) else none
  | none => none

/-- The home that the member list of a request's epoch gives (R39, R374), in the form of an answer: none where it is this node. -/
def homeStop (s : State) (c : Cmd) (h : Handle) : Option Reply :=
  let v := vnodeOf s c
  match membersOf s c with
  | none => some (Reply.st stStaleMap)
  | some m => match homeUnder m h with
    | none => some (Reply.st stDenied)
    | some n => if n = (vn s v).nodeId then none else some (Reply.moved n)

/-- Note that a request awaits a record (R41). -/
def awaitRecord (v : VId) (h : Handle) (old : NodeId) (s : State) : State :=
  updVn v (fun n => if (h, old) ∈ n.awaitedRecords then n else { n with awaitedRecords := n.awaitedRecords ++ [(h, old)] }) s

/-- Find the sequence record of a handle at its home (R39, R41, R48). MOVED_ANSWERS counts the answers of a tombstone alone (R376). -/
def findHome (c : Cmd) (h : Handle) (s : State) : HomeHit × State :=
  let v := vnodeOf s c
  match homeStop s c h with
  | some r => (.stop r, countRefusal v r s)
  | none =>
    let r := search v h 0 2 s
    let s := r.2
    match r.1 with
    | .transient => (.transient, s)
    | .miss =>
      match recordDue s v h with
      | some old => (.stop (Reply.st stMissTransient), awaitRecord v h old s)
      | none => (.stop (Reply.st stMiss), s)
    | .hit _ _ e =>
      if e.form = 3 then (.stop (Reply.moved e.node), bumpV .movedAnswers v s)
      else if e.record ∈ s.hbm.mapsDue then (.stop (Reply.st stMissTransient), s)
      else if (s.seqs.at? e.record).any (fun q => q.leaving) then let w := takeEstimate s; (.stop (Reply.retry w.1), w.2)
      else (.found e.record, s)

/-! ## Target blocks (R451) -/

/-- Which fields of the target block a command uses. -/
structure TargetUse where
  count : Bool
  scope : Bool
  nodeScope : Bool
  token : Bool
  pages : Bool

/-- The fields of a target block that fail, with their packet offsets. -/
def targetFails (t : Target) (u : TargetUse) : List (Bool × Nat) :=
  let one := decide (t.scope = 1)
  let node := decide (t.scope = 2)
  let anyPage := decide (t.pageFirst ≠ 0) || decide (t.pageCount ≠ 0)
  [(if node then u.nodeScope && decide (t.handle ≠ 0) else badHandle t.handle, 64),
   (if !u.count then decide (t.spanCount ≠ 0)
    else if node then u.nodeScope && decide (t.spanCount ≠ 0)
    else decide (t.spanCount = 0), 72),
   (u.count && !node && decide (2 ^ 24 < t.spanFirst.toNat + t.spanCount.toNat), noField),
   (!(u.scope && one) && decide (t.head ≠ 0), 74),
   (!(u.scope && one) && decide (t.layer ≠ 0), 75),
   ((!u.count || (node && u.nodeScope)) && decide (t.spanFirst ≠ 0), 77),
   (!u.token && decide (t.tokenLimit ≠ 0), 80),
   (if u.scope then decide (t.scope = 3) || (node && !u.nodeScope) else decide (t.scope ≠ 0), 87),
   (!(u.pages && one) && anyPage, if t.pageCount ≠ 0 then 92 else 94)]

/-- The spans that a target block names. -/
def targetSpans (t : Target) : List Nat := (List.range t.spanCount.toNat).map (fun i => t.spanFirst.toNat + i)

end Sys2Proof.Machine
end

