-- ==== Sys2Proof/Machine/Mask.lean ====
section
/-! DEFINITION. Mask sets: their creation, tiles and removal (R206–R211, R455, R456). -/

namespace Sys2Proof.Machine

/-- The limit of MASK_ROWS × SPAN_LENGTH (R206). -/
def maskLimit : Nat := 2 ^ 27

/-- KV_MASK_SET (R210, R455). -/
def kvMaskSetRow (c : Cmd) (handle : Handle) (span : SpanIx) (maskRows : BitVec 14) (initialKind : BitVec 2) (s : State) : Res :=
  let rows := maskRows.toNat
  runVerb c (linkDone c <| withParams c 32 [(badHandle handle, 64),
      (decide (1 < initialKind.toNat) || decide (rows % 128 ≠ 0) || decide (rows < 128) || decide (8192 < rows), 75)] (fun s =>
    let v := vnodeOf s c
    let r := findSpan v handle span.toNat s
    let s := r.2
    match r.1 with
    | .transient => holdForBank (.kvMaskSet c handle span maskRows initialKind) c handle s
    | .stop rep => .now rep s
    | .found rec _ => match spanAt s rec with
      | none => .refuse stMiss s
      | some q =>
        if maskLimit < rows * q.geo.spanLen then .now (Reply.bad 75) s
        else if (maskOf s v handle span.toNat).isSome then .refuse stDenied s
        else match newMapFrame v .mask s with
          | none => .refuse stNoSpace s
          | some (f, s1) =>
            let e := dirEntry v handle span.toNat kMask 0 f
            match insertRefusal s1 e with
            | some st => .refuse st (noteRefused e st s)
            | none =>
              let cols := q.geo.spanLen / 128
              let n := rows / 128 * cols
              let entry := leBytes 4 (initialKind.toNat * 2 ^ 30)
              let s1 := deleteWhere v handle (fun e => decide (e.kind = kMaskTomb) && decide (e.span = span.toNat)) s1
              let s1 := hbmWrite (frameBase f) ((List.replicate n entry).flatten) s1
              let s1 := hbmWrite (frameBase f + annexAt) (leBytes 2 rows) s1
              .now (Reply.st stOk) (mirrorSpan rec (acceptInsert e { s1 with masks := s1.masks.put f ⟨v, handle, span.toNat, rows, cols⟩ })))) s

/-- A free slot of a mask page of a virtual node. -/
def freeMaskSlotIn (s : State) (v : VId) : Option (FrameId × Nat) :=
  s.maskPages.findSome? (fun p =>
    if (frameOf s p.1).vnode = v then (firstBelow 16 (fun i => !(p.2.has i))).map (fun i => (p.1, i)) else none)

/-- Take a slot for a tile, in a new mask page where no page has one. -/
def takeMaskSlot (v : VId) (s : State) : Option (FrameId × Nat × State) :=
  match freeMaskSlotIn s v with
  | some (f, i) => some (f, i, s)
  | none => (newMapFrame v .mask s).map (fun p => (p.1, 0, p.2))

/-- KV_MASK_TILE (R210, R211, R456). -/
def kvMaskTileRow (c : Cmd) (handle : Handle) (span : SpanIx) (tileRow : BitVec 6) (tileCol : BitVec 13) (tile : List Byte)
    (s : State) : Res :=
  runVerb c (linkDone c <| withParams c 2080 [(badHandle handle, 64), (decide (tile.length ≠ 2048), 12)] (fun s =>
    let v := vnodeOf s c
    let again : Instr := .kvMaskTile c handle span tileRow tileCol tile
    let r := findSpan v handle span.toNat s
    match r.1 with
    | .transient => holdForBank again c handle r.2
    | .stop rep => .now rep r.2
    | .found _ _ =>
      let q := findMask v handle span.toNat r.2
      let s := q.2
      match q.1 with
      | .transient => holdForBank again c handle s
      | .stop rep => .now rep s
      | .found f _ => match s.masks.at? f with
        | none => .refuse stMiss s
        | some m =>
          if m.cols ≤ tileCol.toNat then .now (Reply.bad 74) s
          else if m.rows / 128 ≤ tileRow.toNat then .now (Reply.bad 76) s
          else
            let addr := frameBase f + 4 * (tileRow.toNat * m.cols + tileCol.toNat)
            let old := tileEntry s f m tileRow.toNat tileCol.toNat
            let put (entry : Nat) (s : State) : Done := .now (Reply.st stOk) (retireMaskSlot old (hbmWrite addr (leBytes 4 entry) s))
            if tile.all (· == 0xFF) then put (2 ^ 30) s
            else if allZero tile then put 0 s
            else match takeMaskSlot v s with
              | none => .refuse stNoSpace s
              | some (p, i, s) =>
                let s := { s with maskPages := s.maskPages.upd p [] (fun t => t.put i ⟨true, []⟩) }
                put (word [(30, 2), (4, p), (0, i)]) (hbmWrite (frameBase p + 2048 * i) tile s))) s

/-- KV_MASK_DROP (R210). -/
def execKvMaskDrop (c : Cmd) (t : Target) (s : State) : Res :=
  runVerb c (withParams c 32 ((decide (t.spanCount ≠ 1), 72) :: targetFails t ⟨true, false, false, false, false⟩) (fun s =>
    let v := vnodeOf s c
    let again : Instr := .kvMaskDrop c t
    let r := findSpan v t.handle t.spanFirst.toNat s
    match r.1 with
    | .transient => holdForBank again c t.handle r.2
    | .stop rep => .now rep r.2
    | .found rec _ =>
      let q := findMask v t.handle t.spanFirst.toNat r.2
      match q.1 with
      | .transient => holdForBank again c t.handle q.2
      | .stop rep => .now rep q.2
      | .found f _ =>
        .now (Reply.st stOk) (mirrorSpan rec (updSpan rec (fun r => { r with maskLost := false }) (dropMask f q.2))))) s

/-- MASK_SLOT_FREE (R211): every query admitted before the slot was replaced has completed. -/
def execMaskSlotFree (frame : BitVec 24) (slot : BitVec 4) (s : State) : Res :=
  onNode (fun s =>
    match (s.maskPages.atD frame.toNat []).at? slot.toNat with
    | some x =>
      if !x.live ∧ queriesEnded s x.readers then freeMaskSlot frame.toNat slot.toNat s else s
    | none => s) s

end Sys2Proof.Machine
end

