-- ==== Sys2Proof/Machine/Exp.lean ====
section
/-! DEFINITION. What the arithmetic of attention leaves open: exponentials within two units in the last place (R189, R231), and
sums whose order is not fixed (R220, R234). -/

namespace Sys2Proof.Machine

/-- ln 2, to 36 decimal places. -/
def ln2 : Rat := 693147180559945309417232121458176568 / 1000000000000000000000000000000000000

/-- Fixed-point fraction bits of the reference exponential. -/
def expFrac : Nat := 90

/-- The terms of the exponential series from term `k` on, in fixed point. -/
def expTerms (n k : Nat) (r term : Int) : Int :=
  match n with
  | 0 => 0
  | m + 1 => let t := term * r / (2 ^ expFrac : Nat) / (k : Int); t + expTerms m (k + 1) r t

/-- The exponential of a rational, with a relative error far below one unit in the last place of binary32. -/
def expRat (x : Rat) : Rat :=
  let q := x / ln2
  let n : Int := (q + 1 / 2).floor
  let r : Int := ((x - (n : Rat) * ln2) * ((2 ^ expFrac : Nat) : Rat)).floor
  let one : Int := (2 ^ expFrac : Nat)
  ((one + expTerms 24 1 r one : Int) : Rat) * pow2 (n - expFrac)

/-- A unit in the last place of binary32 at a positive magnitude. -/
def ulp32 (m : Rat) : Rat := pow2 (max (ilog2 m) (-126) - 23)

/-- The exponential in FP32 (R189, R231): any value within two units in the last place; exactly 1 at zero. -/
def exp32 (tick salt : Nat) (x : F32) : F32 :=
  let q := F32.rat x
  if !(F32.isFin x) then (if x = f32NegInf then 0 else x)
  else if q = 0 then f32One
  else if q < -200 then 0
  else
    let a := expRat q
    let c := Config.freeF32 tick salt
    let d := F32.rat c - a
    let e := if d < 0 then -d else d
    if F32.isFin c ∧ e ≤ 2 * ulp32 a ∧ 0 ≤ F32.rat c then c else F32.ofRat a

/-- The magnitude of a rational. -/
def ratAbs (q : Rat) : Rat := if q < 0 then -q else q

/-- The sum of rationals. -/
def sumRat (xs : List Rat) : Rat := xs.foldl (· + ·) 0

/-- A list with its element at a place put first. -/
def bringForward {α : Type} (i : Nat) (xs : List α) : List α :=
  match xs[i]? with
  | some x => x :: xs.eraseIdx i
  | none => xs

/-- Bring a freely chosen element to the front. -/
def freeFirst {α : Type} (tick salt : Nat) (xs : List α) : List α :=
  bringForward (Config.freeOrder tick salt % max 1 xs.length) xs

/-- The roundings that one term of a sum of `n` terms goes through at most: within a runner's share of at most 1/256 of the terms they follow
one another, and beyond it the partial sums of runners, engines and cores are combined (R265). -/
def sumSteps (n : Nat) : Nat := min (n - 1) (128 + ceilDiv n 256)

/-- How far a sum over `n` terms whose magnitudes add to `mag` may lie from the exact one. -/
def sumErr (n : Nat) (mag : Rat) : Rat := (sumSteps n : Rat) * (pow2 (-24) * mag + pow2 (-149))

/-- One FP32 addition with round-to-nearest-even: of a term or partial sum, which an accumulator holds rounded, and another. -/
def addOnce (x y : FV) : FV := F32.val (F32.of ((F32.val (F32.of x)).add y))

/-- Add the terms of a list in adjacent pairs. -/
def pairUp : List FV → List FV
  | x :: y :: r => addOnce x y :: pairUp r
  | xs => xs

/-- The FP32 sum of terms by pairs of pairs: one of the orders. -/
def pairTree : Nat → List FV → F32
  | 0, xs => F32.of (xs.headD (.fin false 0))
  | n + 1, xs => match xs with
    | [] => 0
    | [x] => F32.of x
    | _ => pairTree n (pairUp xs)

/-- The FP32 sum of terms in an order and bracketing that are free: two terms or partial sums, freely chosen, are added until one is left. -/
def anyOrder (tick salt : Nat) : Nat → List FV → F32
  | 0, xs => F32.of (xs.headD (.fin false 0))
  | n + 1, xs => match freeFirst tick salt xs with
    | [] => 0
    | [x] => F32.of x
    | x :: r => match freeFirst tick (salt + 1) r with
      | [] => F32.of x
      | y :: r' => anyOrder tick (salt + 2) n (addOnce x y :: r')

/-- The FP32 sum of terms, each addition rounded to nearest even, in an order that is not fixed (R195, R220, R234, R255, R259). DESIGN CHOICE
(entry 16): of the orders, those whose result lies within the roundings that R265 allows for; terms that are zero add nothing. -/
def sumTerms (tick salt : Nat) (xs : List FV) : F32 :=
  let ys := xs.filter (fun x => decide (x.rat ≠ 0) || !x.isFin)
  let c := anyOrder tick (salt * 2 ^ 24) ys.length ys
  let rs := ys.map FV.rat
  if !(F32.isFin c) ∨ ratAbs (F32.rat c - sumRat rs) ≤ sumErr ys.length (sumRat (rs.map ratAbs)) then c else pairTree ys.length ys

/-- The FP32 sum of binary32 values in an order that is not fixed. -/
def freeSum (tick salt : Nat) (xs : List F32) : F32 := sumTerms tick (2 * salt) (xs.map F32.val)

/-- The FP32 sum of exact products (R195): each addition rounded, the order not fixed. -/
def freeDot (tick salt : Nat) (items : List FV) : F32 := sumTerms tick (2 * salt + 1) items

/-- The sum of values of which some are not finite. -/
def FV.sum (xs : List FV) : FV := xs.foldl FV.add (.fin false 0)

/-- A run sum (R193): exact products added with no less precision than FP32. -/
def runSum (tick salt : Nat) (items : List FV) : FV :=
  if items.any (fun x => !x.isFin) then FV.sum items
  else
    let ys := (items.map FV.rat).filter (fun y => y ≠ 0)
    let exact := sumRat ys
    let c := Config.freeRat tick salt
    if ys.length ≤ 1 ∨ (ys.length : Rat) * pow2 (-24) * sumRat (ys.map ratAbs) < ratAbs (c - exact) then FV.ofRat exact else FV.ofRat c

end Sys2Proof.Machine
end

