-- ==== Sys2Proof/Machine/Record.lean ====
section
/-! DEFINITION. Partial-result records: their layout, the rescale rule, merged headers, and the checks of `verify`
(R223–R234, R243, R265–R269). -/

namespace Sys2Proof.Machine

/-! ## Layout (R223–R228) -/

/-- ROW_STRIDE (R226). -/
def rowStride (dim : Nat) : Nat := ceilDiv (72 + 4 * dim) 64 * 64

/-- Length of a record (R223). -/
def recordLen (rows dim : Nat) : Nat := 128 + rows * rowStride dim

/-- The record header (R224). -/
def hdrBytes (h : RecHdr) : List Byte :=
  words64 [word [(32, h.tag.toNat), (16, h.status.toNat), (9, b2n h.normalised), (8, b2n h.merged), (7, b2n h.segmented),
      (6, b2n h.absorbed), (5, b2n h.scaleLow), (4, b2n h.scaleRetry), (3, b2n h.valueRotated), (2, b2n h.diePath),
      (1, b2n h.dieServed)],
    h.handle.toNat,
    word [(40, h.spanFirst), (24, h.layer), (16, h.head), (0, h.spanCount)],
    word [(48, h.mapEpoch.toNat), (32, h.node.toNat), (22, h.rowsM1), (19, h.headDim), (0, h.parts)],
    word [(32, h.pagesRead), (16, h.segments), (0, min 65535 h.hint)], h.tokensRead, 0, 0]
    ++ leBytes 32 (h.coverage % 2 ^ 256) ++ zeros 32

/-- A row section (R225, R227). -/
def partBytes (dim : Nat) (p : RowPart) : List Byte :=
  padTo (rowStride dim) (words64 [word [(32, p.l.toNat), (0, p.m.toNat)], word [(32, p.scoreRef.toNat), (0, p.scoreSum.toNat)],
    word [(32, p.outSum.toNat), (0, p.scoreAbs.toNat)], word [(32, p.outAbs.toNat), (0, p.outRef.toNat)], p.unmasked % 2 ^ 64,
    0, 0, 0, 0] ++ p.out.flatMap (fun w => leBytes 4 w.toNat))

/-- A record (R223). -/
def recordBytes (h : RecHdr) (rows : List RowPart) : List Byte := hdrBytes h ++ rows.flatMap (partBytes (dimOf h.headDim))

/-- The header that 128 bytes hold. -/
def readHdr (bs : List Byte) : RecHdr :=
  let w (i : Nat) : Nat := wordAt bs i
  ⟨BitVec.ofNat 32 (bitsOf (w 0) 63 32), BitVec.ofNat 16 (bitsOf (w 0) 31 16), bitOf (w 0) 9, bitOf (w 0) 8, bitOf (w 0) 7, bitOf (w 0) 6,
    bitOf (w 0) 5, bitOf (w 0) 4, bitOf (w 0) 3, bitOf (w 0) 2, bitOf (w 0) 1, BitVec.ofNat 64 (w 1), bitsOf (w 2) 63 40,
    bitsOf (w 2) 39 24, bitsOf (w 2) 23 16, bitsOf (w 2) 15 0, BitVec.ofNat 16 (bitsOf (w 3) 63 48), BitVec.ofNat 16 (bitsOf (w 3) 47 32),
    bitsOf (w 3) 31 22, bitsOf (w 3) 21 19, bitsOf (w 3) 15 0, bitsOf (w 4) 63 32, bitsOf (w 4) 31 16, bitsOf (w 4) 15 0,
    bitsOf (w 5) 47 0, leNat (bytesAt bs 64 32)⟩

/-- The row section that bytes hold. -/
def readPart (dim : Nat) (bs : List Byte) : RowPart :=
  let lo (i : Nat) : BitVec 32 := BitVec.ofNat 32 (wordAt bs i % 2 ^ 32)
  let hi (i : Nat) : BitVec 32 := BitVec.ofNat 32 (wordAt bs i / 2 ^ 32)
  ⟨lo 0, hi 0, hi 1, lo 1, hi 2, lo 2, hi 3, lo 3, wordAt bs 4,
    (List.range dim).map (fun d => BitVec.ofNat 32 (leNat (bytesAt bs (72 + 4 * d) 4)))⟩

/-- The rows of a record. -/
def readParts (h : RecHdr) (bs : List Byte) : List RowPart :=
  let dim := dimOf h.headDim
  (List.range (h.rowsM1 + 1)).map (fun r => readPart dim (bytesAt bs (128 + r * rowStride dim) (rowStride dim)))

/-- Reserved fields of a header, by the byte at which each starts, that are not zero. -/
def hdrRsv (bs : List Byte) : List Nat :=
  let w (i : Nat) : Nat := wordAt bs i
  ([(bitOf (w 0) 0, 0), (decide (bitsOf (w 0) 15 10 ≠ 0), 1), (decide (bitsOf (w 3) 18 16 ≠ 0), 26), (decide (bitsOf (w 5) 63 48 ≠ 0), 46),
    (decide (w 6 ≠ 0), 48), (decide (w 7 ≠ 0), 56), (!(allZero (bytesAt bs 96 32)), 96)].filter (fun p => p.1)).map Prod.snd

/-- Reserved fields of a row section that are not zero. -/
def partRsv (dim : Nat) (bs : List Byte) : List Nat :=
  ([(!(allZero (bytesAt bs 40 32)), 40), (!(allZero (bytesAt bs (72 + 4 * dim) (rowStride dim - 72 - 4 * dim))), 72 + 4 * dim)].filter
    (fun p => p.1)).map Prod.snd

/-- ROWS_M1 of a status-only record (R228): free where the field cannot hold the count. -/
def rowsMinus (rows : Nat) : Nat := if rows ≤ 1024 then rows - 1 else (Config.rowsField rows).toNat

/-- A status-only record (R228). -/
def statusOnly (d : QDesc) (node : NodeId) (epoch : BitVec 16) (st : Status) (hint : Nat) : RecHdr :=
  ⟨d.tag, st, false, false, false, false, false, false, false, false, false, d.handle, d.spanFirst, d.layer, d.head, d.spanCount,
    epoch, node, rowsMinus (d.qTokens * d.qHeads), d.headDim, 0, 0, 0, hint, 0, 0⟩

/-! ## The rescale rule (R230–R234) -/

/-- Binary32 minus infinity as a row maximum. -/
def isEmptyRow (p : RowPart) : Bool := decide (p.m = f32NegInf)

/-- A row of which nothing is known yet: no token scored. -/
def RowPart.empty (dim : Nat) : RowPart := ⟨f32NegInf, 0, 0, 0, 0, 0, 0, 0, 0, List.replicate dim 0⟩

/-- `factor` of R231: the factor, and whether it absorbs. -/
def mergeFactor (tick salt : Nat) (mx mn : F32) : F32 × Bool :=
  if mx = f32NegInf then (0, false)
  else
    let x := f32sub mx mn
    match F32.val x with
    | .fin _ m => if m = 0 then (f32One, false) else if F32.rat x < -87 then (0, true) else (exp32 tick salt x, false)
    | .inf true => (0, true)
    | _ => (exp32 tick salt x, false)

/-- `merge_row`: the merged row, and how many factors absorbed. -/
def mergeRow (tick salt : Nat) (a b : RowPart) : RowPart × Nat :=
  let add (f : RowPart → BitVec 32) : BitVec 32 := f32add (f a) (f b)
  let un := min (2 ^ 64 - 1) (a.unmasked + b.unmasked)
  if isEmptyRow a ∧ isEmptyRow b then
    (⟨f32NegInf, 0, add (·.scoreRef), add (·.scoreSum), 0, add (·.scoreAbs), 0, 0, un, a.out.map (fun _ => 0)⟩, 0)
  else
    let mn := f32max a.m b.m
    let fa := mergeFactor tick (2 * salt) a.m mn
    let fb := mergeFactor tick (2 * salt + 1) b.m mn
    let mix (x y : BitVec 32) : BitVec 32 := f32add (f32mul fa.1 x) (f32mul fb.1 y)
    (⟨mn, mix a.l b.l, add (·.scoreRef), add (·.scoreSum), mix a.outSum b.outSum, add (·.scoreAbs), mix a.outAbs b.outAbs,
      mix a.outRef b.outRef, un, (a.out.zip b.out).map (fun p => mix p.1 p.2)⟩, b2n fa.2 + b2n fb.2)

/-- Merge the rows of two partials: the rows, and how many factors absorbed. -/
def mergeRows (tick salt : Nat) (a b : List RowPart) : List RowPart × Nat :=
  let rs := ((a.zip b).zip (List.range a.length)).map (fun p => mergeRow tick (salt * 1024 + p.2) p.1.1 p.1.2)
  (rs.map Prod.fst, rs.foldl (fun n r => n + r.2) 0)

/-- The older of two map epochs, compared modulo 2^16. -/
def olderEpoch (a b : BitVec 16) : BitVec 16 := if (b - a).toNat < 2 ^ 15 then a else b

/-- The header of a merge of two records (R233). -/
def mergeHdr (node : NodeId) (absorbed : Bool) (a b : RecHdr) : RecHdr :=
  { a with
    status := stOk
    normalised := false
    merged := true
    segmented := a.segmented || b.segmented
    absorbed := a.absorbed || b.absorbed || absorbed
    scaleLow := a.scaleLow || b.scaleLow
    scaleRetry := a.scaleRetry || b.scaleRetry
    diePath := a.diePath || b.diePath
    dieServed := a.dieServed || b.dieServed
    spanFirst := min a.spanFirst b.spanFirst
    spanCount := a.spanCount + b.spanCount
    mapEpoch := olderEpoch a.mapEpoch b.mapEpoch
    node := node
    parts := a.parts + b.parts
    pagesRead := a.pagesRead + b.pagesRead
    segments := a.segments + b.segments
    hint := 0
    tokensRead := a.tokensRead + b.tokensRead
    coverage := (a.coverage + b.coverage) % 2 ^ 256 }

/-- Fold a record into a merged one: the record, and how many factors absorbed. -/
def mergeRecord (tick salt : Nat) (node : NodeId) (a b : RecHdr × List RowPart) : (RecHdr × List RowPart) × Nat :=
  let r := mergeRows tick salt a.2 b.2
  ((mergeHdr node (decide (r.2 ≠ 0)) a.1 b.1, r.1), r.2)

/-- Whether a binary32 word is a zero. -/
def isZero (w : F32) : Bool := decide (f32abs w = 0)

/-- FINALISE (R243): OUT as O / l; a row with l = 0 keeps OUT at zero. -/
def finalise (r : RecHdr × List RowPart) : RecHdr × List RowPart :=
  ({ r.1 with normalised := true }, r.2.map (fun p =>
    { p with out := p.out.map (fun o => if isZero p.l then 0 else f32div o p.l) }))

/-! ## verify (R265–R269) -/

/-- CHECK_KIND codes. -/
def CheckKind.code : CheckKind → Nat
  | .score => 0 | .output => 1 | .consistency => 2 | .structure_ => 3 | .identity => 4 | .digest => 5

/-- What a verification assumes: the score column, the stored format, the key block size where OUT has been de-rotated, and the
structural checks that the in-stack per-core check omits (R272). -/
structure VerifyCtx where
  fmt : Nat
  fp16 : Bool
  block : Nat
  core : Bool
deriving DecidableEq, Repr

/-- EPS_SCORE (R266). -/
def epsScore (c : VerifyCtx) : Rat := if c.fp16 then pow2 (-10) else if c.fmt = 0 then pow2 (-15) else if c.fmt ≤ 2 then pow2 (-14) else pow2 (-13)

/-- `e_sum` (R265). -/
def eSum (h : RecHdr) : Rat := ((512 + ceilDiv h.tokensRead 256 + 4 * (h.parts + h.segments) : Nat) : Rat) * pow2 (-24)

/-- `tol`. -/
def checkTol (eps mag : Rat) (h : RecHdr) (unm : Nat) : Rat := pow2 (-100) * ((unm + 1 : Nat) : Rat) + (eps + eSum h) * mag

/-- An FP32 value that stands for a rational no check admits, where it is not finite. -/
def certRat (x : F32) : Rat := if F32.isFin x then F32.rat x else pow2 130

/-- The value of the returned vector that the consistency check compares, and its tolerance. -/
def consistency (h : RecHdr) (c : VerifyCtx) (p : RowPart) : Rat × Rat :=
  let o := p.out.map (fun x => if h.normalised then certRat (f32mul x p.l) else certRat x)
  if h.valueRotated ∧ c.block ≠ 0 then
    let t := certRat (f32mul (F32.ofRat (c.block : Rat)) (hadamardScale c.block))
    (t * (((List.range (o.length / c.block)).map (fun k => o.getD (k * c.block) 0)).foldl (· + ·) 0), pow2 (-13))
  else (o.foldl (· + ·) 0, pow2 (-15))

/-- `verify` of one row. -/
def verifyRow (h : RecHdr) (c : VerifyCtx) (r : Nat) (p : RowPart) : Option CheckFail :=
  let u := p.unmasked
  let e := eSum h
  let l := certRat p.l
  let bad (a b : Rat) : Option CheckFail := some ⟨.structure_, r, a, b, 0⟩
  let sum := certRat p.scoreSum
  let out := certRat p.outSum
  let tS := checkTol (epsScore c) (certRat p.scoreAbs) h u
  let tO := checkTol (pow2 (-11)) (certRat p.outAbs) h u
  let k := consistency h c p
  let tC := checkTol k.2 (certRat p.outAbs) h u
  if !c.core ∧ isEmptyRow p ≠ decide (u = 0) then bad (u : Rat) 0
  else if h.tokensRead < u then bad (u : Rat) (h.tokensRead : Rat)
  else if !(isEmptyRow p) ∧ ((!c.core ∧ l < 1) ∨ (u : Rat) * (1 + e) < l) then bad l ((u : Rat) * (1 + e))
  else if certRat p.scoreAbs < ratAbs sum * (1 - pow2 (-10)) then bad (certRat p.scoreAbs) sum
  else if certRat p.outAbs < ratAbs out * (1 - pow2 (-10)) then bad (certRat p.outAbs) out
  else if tS < ratAbs (sum - certRat p.scoreRef) then some ⟨.score, r, sum, certRat p.scoreRef, tS⟩
  else if tO < ratAbs (out - certRat p.outRef) then some ⟨.output, r, out, certRat p.outRef, tO⟩
  else if tC < ratAbs (k.1 - out) then some ⟨.consistency, r, k.1, out, tC⟩
  else none

/-- `verify`: the first check that fails. -/
def verify (h : RecHdr) (c : VerifyCtx) (rows : List RowPart) : Option CheckFail :=
  (rows.zip (List.range rows.length)).findSome? (fun p => verifyRow h c p.2 p.1)

/-- A compared value as logged: binary64 (R612). -/
def fp64Code (q : Rat) : Nat := fp64.encode (fp64.round (FV.ofRat q))

end Sys2Proof.Machine
end

