-- ==== Sys2Proof/Machine/Service.lean ====
section
/-! DEFINITION. The delivery of records: batches of one message or command, fan-outs, and the end of a request
(R228, R229, R246–R248, R274–R276, R342, R343, R447). -/

namespace Sys2Proof.Machine

/-! ## Records to their destination -/

/-- Bytes that one message carries at most (R229). -/
def maxMessage : Nat := 1048576

/-- Send a record as consecutive messages (R229, R363). -/
def sendRecord (m : Msg) (addr : BitVec 64) (moved : Option NodeId) (bs : List Byte) (s : State) : State :=
  let one := sendReply m.vnode m.qpn m.sender addr m.key moved (bs.take maxMessage) s
  if bs.length ≤ maxMessage then one
  else sendReply m.vnode m.qpn m.sender (addr + BitVec.ofNat 64 maxMessage) m.key moved (bs.drop maxMessage) one

/-- The status reply and the result of a command whose records are all there (R447). -/
def batchReply (recs : List (List Byte)) : Reply :=
  let result := recs.flatMap (padMul 64)
  let bad := recs.find? (fun r => (readHdr r).status ≠ stOk)
  let st : Reply := match bad with
    | none => Reply.st stOk
    | some r =>
      let h := readHdr r
      { Reply.st h.status with
        node := if h.status = stMoved ∨ h.status = stTimeout then some h.node else none
        hint := h.hint }
  { st with r0 := BitVec.ofNat 64 recs.length, r1 := BitVec.ofNat 64 result.length, result := result }

/-- Put the record of a descriptor in its batch: over the fabric it leaves at once, and a command is answered when every
record is there (R342, R447). -/
def deliver (id ix : Nat) (bs : List Byte) (s : State) : State :=
  match s.attn.batches.at? id with
  | none => s
  | some b =>
    let b' := { b with records := b.records.put ix bs }
    let full := decide (b.count ≤ b'.records.length)
    let keep (s : State) : State :=
      { s with attn := { s.attn with batches := if full then s.attn.batches.del id else s.attn.batches.put id b' } }
    match b.src with
    | .msg m stride =>
      let h := readHdr bs
      let moved := if h.status = stMoved then some h.node else none
      settle (sendRecord m (m.addr + BitVec.ofNat 64 (ix * stride)) moved bs (keep s))
    | .cmd c =>
      if full then complete c (batchReply ((List.range b.count).map (fun i => b'.records.atD i []))) (keep s) else keep s

/-! ## Fan-outs (R246–R248, R276) -/

/-- Log a CHECK_FAIL (R275): digests are zero while the tenancy is SEALED (R552). -/
def logCheckFail (v : VId) (d : QDesc) (f : CheckFail) (core page frame : Nat) (s : State) : State :=
  let f := if f.kind = .digest ∧ s.mgmt.tenancy = 2 then { f with a := 0, b := 0 } else f
  logFrom v 0x0601 srcCore [(64, d.handle.toNat), (16, d.layer), (8, d.head), (32, d.tag.toNat), (16, f.row), (8, f.kind.code),
    (64, fp64Code f.a), (64, fp64Code f.b), (64, fp64Code f.bound), (8, core), (16, page), (32, frame)] s

/-- Change a fan-out. -/
def putFan (id : Nat) (f : Fanout) (s : State) : State := { s with attn := { s.attn with fanouts := s.attn.fanouts.put id f } }

/-- The verification context of a fan-out's records. -/
def fanCtx (f : Fanout) (fp16 : Bool) : VerifyCtx :=
  ⟨f.geo.fmt, fp16, if f.geo.valueRotated then blockOf f.geo.rotation.toNat else 0, false⟩

/-- End a fan-out with a status-only record (R247). -/
def fanFail (id : Nat) (f : Fanout) (first count : Nat) (st : Status) (node : NodeId) (hint : Nat) (s : State) : State :=
  let s := { s with attn := { s.attn with fanouts := s.attn.fanouts.del id } }
  let s := bump .fanoutFailures s
  let s := logFrom f.vnode 0x0501 srcCore [(64, f.desc.handle.toNat), (32, first), (64, count), (16, st.toNat)] s
  let d := { f.desc with spanFirst := first, spanCount := count }
  deliver f.batch f.index (hdrBytes (statusOnly d node (mapEpochOf s f.vnode) st hint)) s

/-- The failing sub-query with the lowest SPAN_FIRST; sub-queries stand in span order. -/
def fanFirstFailure (f : Fanout) : Option (FanSub × Status × NodeId × Nat) :=
  f.subs.findSome? (fun x => match x.ans with
    | .failed st n h => some (x, st, n, h)
    | _ => none)

/-- End a fan-out whose sub-queries have all answered or failed (R246, R247, R276). -/
def fanFinish (id : Nat) (s : State) : State :=
  match s.attn.fanouts.at? id with
  | none => s
  | some f =>
    let waiting := f.subs.any (fun x => match x.ans with
      | .waiting _ => true
      | _ => false)
    if waiting then s
    else match fanFirstFailure f with
      | some (x, st, n, h) => fanFail id f x.first x.count st n h s
      | none =>
        match f.merged with
        | none => s
        | some m =>
          let own := (vn s f.vnode).nodeId
          let s := bump .homeChecks s
          match verify m.1 (fanCtx f f.fp16) m.2 with
          | some e => fanFail id f f.desc.spanFirst f.desc.spanCount stCheckFail own 0 (logCheckFail f.vnode f.desc e 0 0 0 s)
          | none =>
            let r := finalise ({ m.1 with tag := f.desc.tag, node := own }, m.2)
            let s := { s with attn := { s.attn with fanouts := s.attn.fanouts.del id } }
            deliver f.batch f.index (recordBytes r.1 r.2) s

/-- Set how a sub-query stands. -/
def setSub (id sub : Nat) (a : FanAns) (s : State) : State :=
  match s.attn.fanouts.at? id with
  | none => s
  | some f => putFan id { f with subs := (f.subs.zip (List.range f.subs.length)).map (fun p =>
      if p.2 = sub then { p.1 with ans := a } else p.1) } s

/-- Fold an answered sub-query into its fan-out (R246, R276); `fp16` says whether its scores may have been held in FP16 (R268, R269). -/
def fanAnswer (id sub : Nat) (fp16 : Bool) (h : RecHdr) (rows : List RowPart) (s : State) : State :=
  match s.attn.fanouts.at? id with
  | none => s
  | some f =>
    let waiting : Bool := match (f.subs[sub]?).map FanSub.ans with
      | some (.waiting _) => true
      | _ => false
    if !waiting then s
    else if h.status ≠ stOk then
      let n := if h.status = stMoved ∨ h.status = stTimeout then h.node else (vn s f.vnode).nodeId
      fanFinish id (setSub id sub (.failed h.status n h.hint) s)
    else
      let s := bump .homeChecks s
      match verify h (fanCtx f fp16) rows with
      | some e =>
        let s := logCheckFail f.vnode f.desc e 0 0 0 s
        fanFinish id (setSub id sub (.failed stCheckFail (vn s f.vnode).nodeId 0) s)
      | none =>
        let own := (vn s f.vnode).nodeId
        let r : (RecHdr × List RowPart) × Nat := match f.merged with
          | none => ((h, rows), 0)
          | some m => mergeRecord s.tick sub own m (h, rows)
        let s := bumpBy .rowsAbsorbed r.2 { s with tick := s.tick + 1 }
        let s := putFan id { f with merged := some r.1, fp16 := f.fp16 || fp16 } s
        fanFinish id (setSub id sub .done s)

/-! ## The end of a request -/

/-- Take a request out of service: its frames, images, mask slots, contexts and areas are released with it. -/
def dropReq (id : Nat) (s : State) : State :=
  sweepImages { s with
    attn := { s.attn with reqs := s.attn.reqs.del id }
    tier := { s.tier with promotions := s.tier.promotions.map (fun p => { p with waiting := p.waiting.filter (fun x => x ≠ id) }) } }

/-- End a request with its record. -/
def endReq (id : Nat) (h : RecHdr) (rows : List RowPart) (s : State) : State :=
  match s.attn.reqs.at? id with
  | none => s
  | some q =>
    let s := dropReq id s
    match q.dest with
    | .batch b ix => deliver b ix (if rows.isEmpty then hdrBytes h else recordBytes h rows) s
    | .fan f sub => fanAnswer f sub (!q.die && !q.fp32) h rows s

/-- End a request with a status-only record (R228). -/
def failReq (id : Nat) (st : Status) (hint : Nat) (s : State) : State :=
  match s.attn.reqs.at? id with
  | none => s
  | some q => endReq id (statusOnly q.desc (vn s q.vnode).nodeId (mapEpochOf s q.vnode) st hint) [] s

/-- End every request of a list. -/
def failReqs (ids : List Nat) (st : Status) (s : State) : State := ids.foldl (fun s id => failReq id st 0 s) s

/-- The requests in service that read a page, through whichever record or in the frame where it now lies. -/
def readersOf (s : State) (p : PageRef) : List Nat :=
  let here (x : ReqPage) : Bool := match placeOfPage s p with
    | some (.frame f g) => decide (x.frame = some f ∧ x.gen = g)
    | _ => false
  (s.attn.reqs.filter (fun r => r.2.pages.any (fun x => samePage s x.page p || here x))).map Prod.fst

end Sys2Proof.Machine
end

