-- ==== Sys2Proof/Machine/Flash.lean ====
section
/-! DEFINITION. The flash tier as a store of images: its channels, blocks and room, where a new image goes, and which pages may
be packed or demoted (R304, R306, R314–R319, R384). -/

namespace Sys2Proof.Machine

/-- Sectors of a flash page (R316). -/
def sectorsPerPage : Nat := 4
/-- Bytes of a sector. -/
def sectorBytes : Nat := 4096

/-- The virtual node that owns a flash channel (R378). -/
def channelVnode (s : State) (ch : Nat) : VId := BitVec.ofNat 2 (ch / (16 / vnodeCount s))

/-- Whether a target's programs and erases end within the board's hold-up (R589). -/
def FlashTarget.holdsUp (t : FlashTarget) (holdupMs : Nat) : Bool := decide (t.maxBusyUs ≤ 1000 * holdupMs)

/-- The targets in use of a virtual node (R314, R384, R589). -/
def targetsOf (s : State) (v : VId) : List ((Nat × Nat) × FlashTarget) :=
  s.tier.targets.filter (fun t => t.2.usable && t.2.holdsUp s.knobs.holdupMs && decide (channelVnode s t.1.1 = v))

/-- Whether the flash tier is present. -/
def tierPresent (s : State) (v : VId) : Bool := !(targetsOf s v).isEmpty

/-- A flash block. -/
def blockAt (s : State) (b : Nat × Nat × Nat) : FlashBlock := s.tier.blocks.atD b FlashBlock.reset

/-- Change a flash block. -/
def updBlock (b : Nat × Nat × Nat) (f : FlashBlock → FlashBlock) (s : State) : State :=
  { s with tier := { s.tier with blocks := s.tier.blocks.upd b FlashBlock.reset f } }

/-- The channels that hold the metadata area of a virtual node (R319, R384): its first one, and the one half-way through its share. -/
def metaChannels (s : State) (v : VId) : Nat × Nat :=
  let k := 16 / vnodeCount s
  (k * v.toNat, k * v.toNat + k / 2)

/-- The channel that the next copy goes to: the one that does not hold the newest intact copy. -/
def metaTarget (t : Tier) (c : Nat × Nat) : Nat :=
  match t.metas.at? c.1, t.metas.at? c.2 with
  | some a, some b => if a.intact ∧ (!b.intact ∨ b.seq < a.seq) then c.2 else c.1
  | some a, none => if a.intact then c.2 else c.1
  | none, _ => c.1

/-- Write the metadata area of a virtual node, with the next sequence number (R319). -/
def writeMeta (v : VId) (s : State) : State :=
  let c := metaTarget s.tier (metaChannels s v)
  let seq := s.tier.metas.foldl (fun n m => max n m.2.seq) 0 + 1
  let marks := (s.tier.blocks.filter (fun b => decide (channelVnode s b.1.1 = v))).map (fun b => (b.1, (b.2.bad, b.2.erases)))
  { s with tier := { s.tier with metas := s.tier.metas.put c ⟨seq, true, marks⟩ } }

/-- Whether a block of a target in use may be written from its start. -/
def FlashBlock.isFree (b : FlashBlock) : Bool := !b.bad && !b.stale && decide (b.written = 0)

/-- Blocks of a virtual node's targets. -/
def allBlocks (s : State) (v : VId) : Nat := (targetsOf s v).foldl (fun a t => a + t.2.blocks) 0

/-- Whether a listed block belongs to a virtual node's targets. -/
def blockOf? (s : State) (v : VId) (b : Nat × Nat × Nat) : Bool :=
  (targetsOf s v).any (fun t => decide (t.1 = (b.1, b.2.1)) && decide (b.2.2 < t.2.blocks))

/-- Bad blocks of a virtual node. -/
def badBlocks (s : State) (v : VId) : Nat := (s.tier.blocks.filter (fun b => b.2.bad && blockOf? s v b.1)).length

/-- Usable blocks (R317). -/
def usableBlocks (s : State) (v : VId) : Nat := allBlocks s v - badBlocks s v

/-- Free blocks. -/
def freeBlocks (s : State) (v : VId) : Nat :=
  allBlocks s v - (s.tier.blocks.filter (fun b => !b.2.isFree && blockOf? s v b.1)).length

/-- Sectors of a block. -/
def blockSectors (s : State) (b : Nat × Nat × Nat) : Nat :=
  match s.tier.targets.at? (b.1, b.2.1) with
  | some t => t.pagesPerBlock * sectorsPerPage
  | none => 0

/-- Sectors of an image. -/
def imageSectors (len : Nat) : Nat := ceilDiv len sectorBytes

/-- The erase count of the free block with the lowest one, and that block (R317). -/
def lowestFree (s : State) (v : VId) : Option (Nat × Nat × Nat) :=
  let one (t : (Nat × Nat) × FlashTarget) : Option (Nat × (Nat × Nat × Nat)) :=
    ((List.range t.2.blocks).map (fun i => (t.1.1, t.1.2, i))).foldl (fun acc b =>
      let x := blockAt s b
      if !x.isFree then acc
      else match acc with
        | none => some (x.erases, b)
        | some (n, _) => if x.erases < n then some (x.erases, b) else acc) none
  ((targetsOf s v).filterMap one).foldl (fun acc x => match acc with
    | none => some x.2
    | some y => if x.1 < (blockAt s y).erases then some x.2 else some y) none

/-- Where a new image of a length goes: after what the active block holds, or at the start of the free block with the lowest
erase count (R317); none where the tier is full. -/
def imagePlace (s : State) (v : VId) (len : Nat) : Option ((Nat × Nat × Nat) × Nat) :=
  let n := imageSectors len
  let fresh := (lowestFree s v).map (fun b => (b, 0))
  match s.tier.active.at? v with
  | some b =>
    let x := blockAt s b
    if !x.bad ∧ !x.stale ∧ 0 < x.written ∧ x.written + n ≤ blockSectors s b then some (b, x.written) else fresh
  | none => fresh

/-- The longest image (R320). -/
def maxImage : Nat := 36928

/-- Flash bytes that pages may use: usable blocks less the reserve of 7 % (R317, R464). -/
def flashCapacity (s : State) (v : VId) : Nat :=
  (targetsOf s v).foldl (fun n t =>
    let bad := (s.tier.blocks.filter (fun b => b.2.bad && decide ((b.1.1, b.1.2.1) = t.1) && decide (b.1.2.2 < t.2.blocks))).length
    let usable := t.2.blocks - bad
    n + (usable - usable * 7 / 100) * t.2.pagesPerBlock * 16384) 0

/-- Flash bytes that hold live images. -/
def flashUsed (s : State) (v : VId) : Nat :=
  (s.tier.images.filter (fun i => decide (i.2.vnode = v) && (match i.2.home with
    | .flash .. => true
    | .pack _ => false))).foldl (fun n i => n + imageSectors i.2.len * sectorBytes) 0

/-- Whether the tier is full (R317): the images leave no room outside the reserve, or no image finds a place. DESIGN CHOICE (entry 101): demotions
take no part of the reserve; what is moved, reclaimed or re-coded may. -/
def tierFull (s : State) (v : VId) : Bool :=
  decide (flashCapacity s v < flashUsed s v + imageSectors maxImage * sectorBytes) || (imagePlace s v maxImage).isNone

/-- Write an image into flash: its place takes its sectors. None where no place is left. -/
def storeFlash (v : VId) (gen : BitVec 32) (bytes : List Byte) (s : State) : Option (Nat × State) :=
  match imagePlace s v bytes.length with
  | none => none
  | some (b, sector) =>
    let n := s.tier.nextImage
    let i : Image := ⟨.flash b.1 b.2.1 b.2.2 sector, bytes.length, gen, bytes, v, imageTable bytes, none⟩
    let s := updBlock b (fun x => { x with written := sector + imageSectors bytes.length, last := some n }) s
    some (n, { s with tier := { s.tier with
      images := s.tier.images.put n i
      nextImage := n + 1
      active := s.tier.active.put v b } })

/-- The flash block of an image. -/
def Image.block (i : Image) : Option (Nat × Nat × Nat) := match i.home with
  | .flash c t b _ => some (c, t, b)
  | .pack _ => none

/-- The images that lie in a block. -/
def imagesIn (s : State) (b : Nat × Nat × Nat) : List (Nat × Image) := s.tier.images.filter (fun i => decide (i.2.block = some b))

/-- Move an image of flash to another place in flash, under the same number (R316, R317); unchanged where the tier is full. -/
def moveFlash (n : Nat) (s : State) : State :=
  match s.tier.images.at? n with
  | none => s
  | some i =>
    match imagePlace s i.vnode i.len with
    | none => s
    | some (b, sector) =>
      if i.block.isNone then s
      else
        let s := updBlock b (fun x => { x with written := sector + imageSectors i.len, last := some n }) s
        { s with tier := { s.tier with
          images := s.tier.images.put n { i with home := .flash b.1 b.2.1 b.2.2 sector }
          active := s.tier.active.put i.vnode b } }

/-- Move every live image of a block elsewhere; the block then awaits its erase. -/
def emptyBlock (b : Nat × Nat × Nat) (s : State) : State :=
  let s := { s with tier := { s.tier with active := s.tier.active.filter (fun a => a.2 ≠ b) } }
  let s := updBlock b (fun x => { x with stale := true }) s
  let s := (imagesIn s b).foldl (fun s i => moveFlash i.1 s) s
  if (imagesIn s b).isEmpty then s else updBlock b (fun x => { x with stale := false }) s

/-- The bytes of an image: of flash as kept, of a packed one as its extents hold them. -/
def imageBytes (s : State) (n : Nat) : List Byte :=
  match s.tier.images.at? n with
  | none => []
  | some i => match i.home with
    | .flash .. => i.bytes
    | .pack es => (es.flatMap (fun e => hbmRead s (frameBase e.frame + 64 * e.first) (64 * e.count))).take i.len

/-- Granules of a pack frame (R306). -/
def granules : Nat := 576

/-- Free granule runs of a pack frame: the first free run of at least one granule. -/
def packRun (s : State) (f : FrameId) : Nat × Nat :=
  let used : List Extent := s.tier.images.flatMap (fun p => match p.2.home with
    | .pack es => es.filter (fun e => decide (e.frame = f))
    | .flash .. => [])
  let taken (g : Nat) : Bool := used.any (fun e => decide (e.first ≤ g) && decide (g < e.first + e.count))
  let step (acc : (Nat × Nat) × (Nat × Nat)) (g : Nat) : (Nat × Nat) × (Nat × Nat) :=
    let run := if taken g then (g + 1, 0) else (acc.2.1, acc.2.2 + 1)
    (if acc.1.2 < run.2 then run else acc.1, run)
  ((List.range granules).foldl step ((0, 0), (0, 0))).1

/-- Pack frames of a virtual node. -/
def packFrames (s : State) (v : VId) (but : Option FrameId) : List FrameId :=
  (s.frames.filter (fun p => decide (p.2.use = .pack) && decide (p.2.state = .open_) && decide (p.2.vnode = v)
    && decide (some p.1 ≠ but))).map Prod.fst

/-- Extents for an image of so many granules: one run, or two, in the pack frames of a virtual node (R306). -/
def packExtents (s : State) (v : VId) (need : Nat) (but : Option FrameId) : Option (List Extent) :=
  let runs := (packFrames s v but).map (fun f => let r := packRun s f; (f, r.1, r.2))
  match runs.find? (fun r => decide (need ≤ r.2.2)) with
  | some r => some [⟨r.1, r.2.1, need⟩]
  | none =>
    let best := runs.foldl (fun acc r => if acc.2.2 < r.2.2 then r else acc) (0, 0, 0)
    match runs.find? (fun r => decide (r.1 ≠ best.1) && decide (need ≤ r.2.2 + best.2.2)) with
    | some r => if best.2.2 = 0 then none else some [⟨best.1, best.2.1, best.2.2⟩, ⟨r.1, r.2.1, need - best.2.2⟩]
    | none => none

/-- Find or make room for an image in pack frames: a new pack frame is a map frame (R306). -/
def roomForPack (v : VId) (need : Nat) (but : Option FrameId) (s : State) : Option (List Extent × State) :=
  match packExtents s v need but with
  | some es => some (es, s)
  | none => match allocAny v .open_ .pack s with
    | some (_, s) => (packExtents s v need but).map (fun es => (es, s))
    | none => none

/-- Write image bytes into extents. -/
def writeExtents : List Extent → List Byte → State → State
  | [], _, s => s
  | e :: r, bs, s =>
    writeExtents r (bs.drop (64 * e.count)) (hbmWrite (frameBase e.frame + 64 * e.first) (padTo (64 * e.count) (bs.take (64 * e.count))) s)

/-- Store an image in pack frames. -/
def storePack (v : VId) (gen : BitVec 32) (bytes : List Byte) (s : State) : Option (Nat × State) :=
  match roomForPack v (ceilDiv bytes.length 64) none s with
  | none => none
  | some (es, s) =>
    let n := s.tier.nextImage
    let s := writeExtents es bytes s
    some (n, { s with tier := { s.tier with images := s.tier.images.put n ⟨.pack es, bytes.length, gen, [], v, imageTable bytes, none⟩, nextImage := n + 1 } })

/-! ## Eligibility (R304) -/

/-- Whether a change of form of a page is under way, through whichever record. -/
def formChanging (s : State) (p : PageRef) : Bool :=
  s.tier.demotions.any (fun d => samePage s d.page p)
    || s.tier.promotions.any (fun d => samePage s d.page p && decide ((pageAt s p).map Page.loc = some (.flash d.image)))

/-- Whether a page is pinned through any record. -/
def pinnedAny (s : State) (p : PageRef) : Bool := (sharers s p).any (fun q => ((pageAt s q).map Page.pinned).getD false)

/-- When a page was last read or promoted, through any record. -/
def lastReadOf (s : State) (p : PageRef) : Nat := (sharers s p).foldl (fun n q => max n (((pageAt s q).map Page.lastRead).getD 0)) 0

/-- Whether a page may be packed or demoted; TIER.DEMOTE does not look at the age. -/
def eligible (s : State) (p : PageRef) (x : Page) (ageless : Bool) : Bool :=
  x.isSealed && !(pinnedAny s p) && !(formChanging s p) && x.poison.isNone
    && (ageless || decide (lastReadOf s p + 1000000 * s.knobs.demoteMinAgeMs ≤ s.pw.uptime))

/-- Every page of a virtual node. -/
def nodePages (s : State) (v : VId) : List (PageRef × Page) := (s.spans.filter (fun p => decide (p.2.vnode = v))).flatMap pagesOf

/-- Whether a page lies in a frame. -/
def Page.isPlain (x : Page) : Bool := match x.loc with
  | .frame .. => true
  | _ => false

/-- The image that a page is stored as. -/
def Page.image (x : Page) : Option Nat := match x.loc with
  | .packed n => some n
  | .flash n => some n
  | _ => none

/-- Whether a page is held in HBM, PLAIN or PACKED. -/
def Page.inHbm (x : Page) : Bool := match x.loc with
  | .frame .. => true
  | .packed _ => true
  | _ => false

/-- Whether some demotion can free a frame (R124): the tier has room, the brake state does not hold, and a sealed page in HBM is
eligible or being demoted. -/
def canDemote (s : State) (v : VId) : Bool :=
  tierPresent s v && !(tierFull s v) && !s.pw.brake
    && ((nodePages s v).any (fun p => (p.2.inHbm && eligible s p.1 p.2 false))
      || s.tier.demotions.any (fun d => decide ((spanAt s d.page.record).map SpanRec.vnode = some v)))

/-- Whether a demotion under way will free a frame (R125). -/
def demoting (s : State) (v : VId) : Bool :=
  s.tier.demotions.any (fun d => !d.held && decide ((spanAt s d.page.record).map SpanRec.vnode = some v))

/-! ## Where packing and demotion start and stop (R303, R305, R307) -/

/-- Frames of a virtual node that a percentage means (R303). -/
def pctFrames (s : State) (v : VId) (pct : Nat) : Nat := framesOf s v * pct / 100

/-- Whether the node packs: below the start, and from there until one percentage point above it. -/
def packs (s : State) (v : VId) : Bool :=
  let k := s.knobs.compressStartPct
  decide (k ≠ 0) && (decide (freeCount s v < pctFrames s v k)
    || (decide (v ∈ s.tier.packOn) && decide (freeCount s v < pctFrames s v (k + 1))))

/-- Whether the node demotes: below the start, and from there until the stop; or because a spare frame is owed and none is FREE
(R123, R307). -/
def demotes (s : State) (v : VId) : Bool :=
  decide (freeCount s v < pctFrames s v s.knobs.demoteStartPct)
    || (decide (v ∈ s.tier.demoteOn) && decide (freeCount s v < pctFrames s v s.knobs.demoteStopPct))
    || (decide (freeForUse s v = 0) && s.spans.any (fun p => decide (p.2.vnode = v) && p.2.spareOwed.isSome))

/-- Packing and demotion that have reached their stop end, until FREE frames fall below the start again (R305, R307). -/
def stopTiers (v : VId) (s : State) : State :=
  { s with tier := { s.tier with
    packOn := if packs s v then s.tier.packOn else s.tier.packOn.filter (fun y => y ≠ v)
    demoteOn := if demotes s v then s.tier.demoteOn else s.tier.demoteOn.filter (fun y => y ≠ v) } }

/-- Count a read of the flash block that an image lies in (R316). -/
def countFlashRead (n : Nat) (s : State) : State :=
  match (s.tier.images.at? n).bind Image.block with
  | some b => updBlock b (fun y => { y with reads := y.reads + 1 }) s
  | none => s

end Sys2Proof.Machine
end

