-- ==== Sys2Proof/Machine/Image.lean ====
section
/-! DEFINITION. Page images and their coding: the descriptor, the coded blocks, canonical code tables, expansion, and the release of a record's pages
(R64, R320–R325, R404). -/

namespace Sys2Proof.Machine

/-- Whether a format is compressible (R322). -/
def compressible (fmt : Nat) : Bool := decide (fmt < 5)

/-- Exponent bits and fraction bits of a compressible format (R323). -/
def expBits (fmt : Nat) : Nat := match fmt with
  | 0 => 8 | 1 => 8 | 2 => 5 | 3 => 4 | _ => 5
/-- Fraction bits. -/
def fracBits (fmt : Nat) : Nat := match fmt with
  | 0 => 23 | 1 => 7 | 2 => 10 | 3 => 3 | _ => 2

/-- Elements of a block. -/
def blockElems (fmt : Nat) : Nat := 4096 * 8 / elemBits fmt

/-- The exponent values of payload bytes (R323, R462). -/
def payloadExps (fmt : Nat) (bs : List Byte) : List Nat :=
  ((chunks (elemBits fmt / 8) bs).map leNat).map (fun w => bitsOf w (expBits fmt + fracBits fmt - 1) (fracBits fmt))

/-- The canonical codes of a table: value, length and code (R325). -/
def canonical (lengths : List Byte) : List (Nat × Nat × Nat) :=
  let pairs := ((List.range lengths.length).zip lengths).filterMap (fun p =>
    let l := p.2.toNat % 16
    if l = 0 then none else some (p.1, l))
  let sorted := sortBy (fun (a b : Nat × Nat) => decide (a.2 < b.2) || (decide (a.2 = b.2) && decide (a.1 ≤ b.1))) pairs
  (sorted.foldl (fun (acc : List (Nat × Nat × Nat) × Nat × Nat) p =>
    let code := acc.2.1 * 2 ^ (p.2 - acc.2.2)
    (acc.1 ++ [(p.1, p.2, code)], code + 1, p.2)) ([], 0, 0)).1

/-- The bits of a code, most significant first. -/
def codeBits (len code : Nat) : List Bool := (List.range len).map (fun i => bitOf code (len - 1 - i))

/-- Stream bits to bytes, bit k in bit (k mod 8) of byte k div 8 (R323). -/
def packBits (bs : List Bool) : List Byte :=
  (chunks 8 bs).map (fun c => BitVec.ofNat 8 (word ((List.range 8).zip (c.map b2n))))

/-- Bytes to stream bits. -/
def unpackBits (bs : List Byte) : List Bool := bs.flatMap (fun b => (List.range 8).map (fun i => b.getLsbD i))

/-- The coded form of a block: its bytes padded to 32; none where R324 stores it raw. -/
def codeBlock (fmt : Nat) (t : TableImage) (blk : List Byte) : Option (List Byte) :=
  let x := expBits fmt
  let f := fracBits fmt
  let ws := (chunks (elemBits fmt / 8) blk).map leNat
  let plane := ws.flatMap (fun w => (List.range (f + 1)).map (fun i => if i < f then bitOf w i else bitOf w (f + x)))
  let codes := canonical t.lengths
  match allSome (ws.map (fun w => codes.find? (fun c => c.1 = bitsOf w (f + x - 1) f))) with
  | none => none
  | some cs =>
    let bytes := padMul 32 (packBits (plane ++ cs.flatMap (fun c => codeBits c.2.1 c.2.2)))
    if 4096 ≤ bytes.length then none else some bytes

/-- Take one code off a stream: its value and the rest. -/
def takeCode (codes : List (Nat × Nat × Nat)) (bits : List Bool) : Option (Nat × List Bool) :=
  (codes.find? (fun c => decide (bits.take c.2.1 = codeBits c.2.1 c.2.2))).map (fun c => (c.1, bits.drop c.2.1))

/-- Take `n` codes off a stream. -/
def takeCodes (codes : List (Nat × Nat × Nat)) (n : Nat) (bits : List Bool) : Option (List Nat) :=
  match n with
  | 0 => some []
  | k + 1 => match takeCode codes bits with
    | none => none
    | some (v, rest) => (takeCodes codes k rest).map (fun vs => v :: vs)

/-- Decode a coded block (R323). -/
def decodeBlock (fmt : Nat) (t : TableImage) (bs : List Byte) : Option (List Byte) :=
  let x := expBits fmt
  let f := fracBits fmt
  let n := blockElems fmt
  let bits := unpackBits bs
  let plane := (chunks (f + 1) (bits.take (n * (f + 1)))).map (fun c => word ((List.range (f + 1)).zip (c.map b2n)))
  match takeCodes (canonical t.lengths) n (bits.drop (n * (f + 1))) with
  | none => none
  | some es => some ((plane.zip es).flatMap (fun p =>
      leBytes (elemBits fmt / 8) (p.1 % 2 ^ f + p.2 * 2 ^ f + p.1 / 2 ^ f * 2 ^ (f + x))))

/-- Build a page image from a frame's content, with a table and its generation and slot where one is current (R320–R324). -/
def buildImage (fmt : Nat) (table : Option (BitVec 32 × Nat × TableImage)) (frame : List Byte) : List Byte :=
  let blks := chunks 4096 (frame.take 36864)
  let coded := (blks.zip (List.range 9)).map (fun p =>
    if p.2 = 8 then (false, p.1)
    else match table with
      | some (_, _, t) => match codeBlock fmt t p.1 with
        | some b => (true, b)
        | none => (false, p.1)
      | none => (false, p.1))
  let entry (k : Nat) : Nat := match coded[k]? with
    | some (c, b) => word [(15, b2n c), (0, b.length / 32)]
    | none => 0
  let body := coded.flatMap (fun p => p.2)
  let used := coded.any (fun p => p.1)
  let gs : Nat × Nat := match table with
    | some (g, sl, _) => if used then (g.toNat, sl) else (0, 0)
    | none => (0, 0)
  words64 [word [(32, gs.1), (29, gs.2), (25, fmt), (0, 64 + body.length)],
    word [(0, entry 0), (16, entry 1), (32, entry 2), (48, entry 3)], word [(0, entry 4), (16, entry 5), (32, entry 6), (48, entry 7)],
    word [(32, (crc32c body).toNat), (0, entry 8)], 0, 0, 0, 0] ++ body

/-- The number of coded blocks of an image. -/
def codedBlocks (im : List Byte) : Nat :=
  ((List.range 8).filter (fun k => bitOf (wordAt im (1 + k / 4)) (16 * (k % 4) + 15))).length

/-- The table that decodes an image: its slot is LIVE or RETIRING and holds the image's generation (R330). -/
def tableFor (s : State) (im : List Byte) : Option (Option TableImage) :=
  match imageTable im with
  | none => some none
  | some (g, sl) =>
    let x := s.tier.slots.atD sl CodecSlot.free
    if x.state ≠ 0 ∧ x.gen = g then some x.image else none

/-- The table current for a format (R328). -/
def currentTable (s : State) (fmt : Nat) : Option (BitVec 32 × Nat × TableImage) :=
  if !compressible fmt then none
  else s.tier.slots.findSome? (fun p => match p.2.image with
    | some t => if p.2.current ∧ t.format.toNat = fmt then some (p.2.gen, p.1, t) else none
    | none => none)

/-- Expand an image into a frame's 36,864 bytes: none where its CRC is wrong or a block does not decode. -/
def expandImage (fmt : Nat) (t : Option TableImage) (im : List Byte) : Option (List Byte) :=
  let len := wordAt im 0 % 65536
  let body := bytesAt im 64 (len - 64)
  if (crc32c body).toNat ≠ bitsOf (wordAt im 3) 63 32 then none
  else
    let entry (k : Nat) : Nat := if k = 8 then wordAt im 3 % 65536 else bitsOf (wordAt im (1 + k / 4)) (16 * (k % 4) + 15) (16 * (k % 4))
    let lens := (List.range 9).map (fun k => 32 * (entry k % 256))
    let parts := (List.range 9).map (fun k => bytesAt body ((lens.take k).foldl (· + ·) 0) (lens.getD k 0))
    (allSome ((List.range 9).map (fun k =>
      if bitOf (entry k) 15 then (match t with
        | some t => decodeBlock fmt t (parts.getD k [])
        | none => none)
      else some (parts.getD k [])))).map (fun bs => bs.flatten)

/-- How the content of a page is obtained. -/
inductive Content where
  | bytes (bs : List Byte)
  | stale
  | unreadable
deriving DecidableEq, Repr

/-- The frame content of a page in any form; header fields of the last frame come with it. -/
def pageContent (s : State) (fmt : Nat) (loc : PageLoc) : Content :=
  let image (n : Nat) : Content :=
    let im := imageBytes s n
    match tableFor s im with
    | none => .stale
    | some t => match expandImage fmt t im with
      | some bs => .bytes bs
      | none => .unreadable
  match loc with
  | .frame f _ => .bytes (readFrame s f)
  | .packed n => image n
  | .flash n => image n
  | _ => .unreadable

/-! ## The release of a record's pages (R64, R404) -/

/-- The fragment of a coded page in any form (R402, R405). -/
def pageFragment (s : State) (fmt : Nat) (loc : PageLoc) : Option (List Byte) :=
  match pageContent s fmt loc with
  | .bytes bs => some (fragmentOf bs)
  | _ => none

/-- Send a coded page's fragment to the stripe again, to cancel it: what holds its content is kept until both parity nodes have
acknowledged (R404). -/
def releaseCoded (r : SpanRec) (stripe slot : Nat) (loc : PageLoc) (frag : List Byte) (s : State) : State :=
  match (vn s r.vnode).codeset with
  | some (_, ns) =>
    let t0 := s.nextTag
    let s := sendPeer r.vnode (ns.getD 8 0xFFFF) false r.handle r.span (.codeContrib stripe slot frag) none s
    let t1 := s.nextTag
    let s := sendPeer r.vnode (ns.getD 9 0xFFFF) false r.handle r.span (.codeContrib stripe slot frag) none s
    updVn r.vnode (fun n => { n with contributions := n.contributions.filter (fun c => decide (c.stripe ≠ stripe))
      ++ [⟨stripe, none, [t0, t1], false, true, some loc⟩] }) s
  | none => releaseLoc loc s

/-- The stripe and slot that hold a page's fragment, in a complete stripe or in one still being filled. -/
def stripeOf (s : State) (r : SpanRec) (p : PageRef) (x : Page) : Option (Nat × Nat) :=
  match x.coded with
  | some (_, stripe, slot) => some (stripe, slot)
  | none =>
    let n := vn s r.vnode
    match n.contributions.find? (fun c => decide (c.page = some p)), n.codeSlot with
    | some c, some slot => some (c.stripe, slot)
    | _, _ => none

/-- Release one page of a record, after its entry has left the map. -/
def releasePage (r : SpanRec) (p : PageRef) (x : Page) (s : State) : State :=
  match stripeOf s r p x, pageFragment s r.geo.fmt x.loc with
  | some (stripe, slot), some frag => releaseCoded r stripe slot x.loc frag s
  | _, _ => releaseLoc x.loc s

/-- Release every page of a span record: coded pages cancel their fragments, and every entry of the map is removed. -/
def releasePages (f : FrameId) (s : State) : State :=
  match spanAt s f with
  | none => s
  | some r =>
    r.pages.foldl (fun s p => releasePage r ⟨f, p.1.1, p.1.2.1, p.1.2.2⟩ p.2 (updSpan f (fun r => { r with pages := r.pages.del p.1 }) s)) s

end Sys2Proof.Machine
end

