-- ==== Sys2Proof/Machine/Span.lean ====
section
/-! DEFINITION. Sequences and spans: opening, placement, location, closing and the move of a sequence record (R36–R49). -/

namespace Sys2Proof.Machine

/-! ## Creation of a span on this node (R44, R47, R121) -/

/-- The initial need of a span (R44). -/
def initialNeed (g : Geometry) (highest : Bool) : Nat := g.layers * g.heads + b2n highest

/-- An empty span record. -/
def SpanRec.new (v : VId) (h : Handle) (span : Nat) (g : Geometry) (smooth : List (Nat × Nat × List (BitVec 32))) : SpanRec :=
  ⟨v, h, span, g, false, false, true, [], [], smooth.map (fun p => ((p.1, p.2.1), p.2.2)), [], [], none, none, false, false,
    false, false, false, false, none⟩

/-- Allocate the spare frame of a record with the header of R61. -/
def takeSpare (f : FrameId) (s : State) : State :=
  match spanAt s f with
  | none => s
  | some r =>
    match allocFree r.vnode .spare .data s with
    | none => s
    | some (x, t) =>
      if fillWaits s t then
        if r.spareOwed.isSome then s else updSpan f (fun r => { r with spareOwed := some s.nextId }) { s with nextId := s.nextId + 1 }
      else updSpan f (fun r => { r with spare := some x, spareOwed := none }) (writeHeader x (spareHeader r.geo r.handle (genOf t x)) t)

/-- Set the order in which a record's spare was taken (R123). -/
def oweSpare (f : FrameId) (s : State) : State :=
  updSpan f (fun r => { r with spare := none, spareOwed := some s.nextId }) { s with nextId := s.nextId + 1 }

/-- The span below is full in every layer and head (R121). -/
def spanFull (r : SpanRec) : Bool :=
  (List.range r.geo.layers).all (fun l => (List.range r.geo.heads).all (fun h => decide (r.geo.spanLen ≤ r.fill l h)))

/-- Give up a lower span's spare once the span is full (R121): a higher span of the sequence is here, or this node's home record or the
answer to its report knows of one. -/
def dropLowerSpare (rec : FrameId) (s : State) : State :=
  match spanAt s rec with
  | none => s
  | some r =>
    let higher := (recordsOf s r.vnode r.handle).any (fun p => decide (r.span < p.2.span))
    let known := ((homeSeq s r.vnode r.handle).bind (fun f => s.seqs.at? f)).any (fun q => decide (r.span + 1 < q.nextSpan))
    if spanFull r && (higher || known || r.passed) then releaseSpare rec s else s

/-- Give up the spares of the full spans of a handle below one that has been assigned (R121). -/
def dropSparesBelow (v : VId) (h : Handle) (span : Nat) (s : State) : State :=
  ((recordsOf s v h).filter (fun p => decide (p.2.span < span))).foldl (fun s p => dropLowerSpare p.1 s) s

/-- Create the span record, and the spare frame where the span is the highest assigned: the record's frame and state, or the
status of a refusal, which changes nothing but what was logged. -/
def createSpan (v : VId) (h : Handle) (span : Nat) (g : Geometry) (smooth : List (Nat × Nat × List (BitVec 32))) (highest : Bool)
    (s : State) : Status × State :=
  if freeForUse s v < initialNeed g highest then (stNoSpace, s)
  else match newMapFrame v .map s with
    | none => (stNoSpace, s)
    | some (f, s1) =>
      match insertRefusal s1 (dirEntry v h span kSpan 0 f) with
      | some st => (st, noteRefused (dirEntry v h span kSpan 0 f) st s)
      | none =>
        let s2 := { s1 with spans := s1.spans.put f (SpanRec.new v h span g smooth) }
        let s3 := if highest then takeSpare f s2 else s2
        let s4 := deleteWhere v h (fun e => decide (e.kind = kSpanTomb) && decide (e.span = span)) s3
        (stOk, dropSparesBelow v h span (mirrorSpan f (acceptInsert (dirEntry v h span kSpan 0 f) s4)))

/-! ## Assignment (R45–R47) -/

/-- One line of SPAN.LOCATE's result (R452). -/
def placeEntry (r : SeqRec) (span : Nat) : List Byte :=
  match r.places.at? span with
  | some n => leBytes 4 (word [(16, n.toNat), (0, 1)])
  | none => leBytes 4 (word [(16, 0xFFFF)])

/-- The answer of SPAN.LOCATE from the present record (R46). -/
def locateReply (r : SeqRec) (t : Target) : Reply := Reply.ofResult t.spanCount.toNat ((targetSpans t).flatMap (placeEntry r))

/-- Release a sequence record and its entries: nothing of the handle stays open. -/
def dropSeq (v : VId) (h : Handle) (f : FrameId) (s : State) : State :=
  let s := deleteWhere v h (fun e => decide (e.kind = kSeq) || decide (e.kind = kSeqTomb)) s
  releaseFrame f { s with seqs := s.seqs.del f }

/-- Log a placement failure, at most once a second for one span (R47). -/
def logPlaceFail (v : VId) (h : Handle) (span considered : Nat) (s : State) : State :=
  let recent := match s.log.lastPlaceFail.at? (h, span) with
    | some t => decide (s.pw.uptime < t + 1000000000)
    | none => false
  if recent then s
  else
    let s := logFrom v 0x0105 srcCore [(64, h.toNat), (32, span), (64, considered)] s
    { s with log := { s.log with lastPlaceFail := s.log.lastPlaceFail.put (h, span) s.pw.uptime } }

/-- The members that may be asked for a span, in the order of preference (R44, R47): the order is firmware's, and every member of the map has
a place in it. -/
def candidates (m : Option MapList) (prefer : List NodeId) : List NodeId :=
  let members := match m with
    | some m => m.members.map Prod.fst
    | none => []
  let first := prefer.eraseDups
  first ++ members.filter (fun n => decide (n ∉ first))

/-- The member list that an attempt reads (R44, R374): that of its command's epoch, or the current one. -/
def AssignFor.members (s : State) (v : VId) : AssignFor → Option MapList
  | .open_ c => membersOf s c
  | .locate c _ _ => membersOf s c
  | _ => (vn s v).map

/-- Whether a list marks a member LIVE, so that it qualifies for a span (R44). -/
def liveIn (m : Option MapList) (n : NodeId) : Bool := m.any (fun m => m.members.any (fun p => decide (p.1 = n) && decide (p.2 = .live)))

/-- The end of an attempt that found no member (R47). -/
def assignFailed (v : VId) (h : Handle) (span considered : Nat) (purpose : AssignFor) (s : State) : State :=
  let s := logPlaceFail v h span considered (bump .spanPlaceFails s)
  let s := match homeSeq s v h with
    | some f => updSeq f (fun r => { r with retry := true }) s
    | none => s
  match purpose with
  | .open_ c =>
    let s := match homeSeq s v h with
      | some f => dropSeq v h f s
      | none => s
    complete c (Reply.st stNoSpace) (bump .noSpaceRefusals s)
  | .locate c _ _ => complete c (Reply.st stNoSpace) s
  | .report hd => ackPeer hd stNoSpace 0 s
  | .background => s

/-- Note the node of a span in the sequence record, which advances to the next span (R45). -/
def setPlace (v : VId) (h : Handle) (span : Nat) (n : NodeId) (s : State) : State :=
  match homeSeq s v h with
  | some f => dropSparesBelow v h span
    (mirrorSeq f (updSeq f (fun r => { r with places := r.places.put span n, nextSpan := max r.nextSpan (span + 1), retry := false }) s))
  | none => s

/-- The end of an attempt that has assigned the last span it was for. -/
def assignDone (v : VId) (h : Handle) (purpose : AssignFor) (s : State) : State :=
  match purpose with
  | .open_ c => complete c (Reply.st stOk) s
  | .background => s
  | .report hd => ackPeer hd stOk 0 s
  | .locate c t _ => match (homeSeq s v h).bind (fun f => s.seqs.at? f) with
    | some r => complete c (locateReply r t) s
    | none => complete c (Reply.st stMiss) s

/-- The order of preference with which an attempt goes on to the next span; none where this span is its last (R45). -/
def AssignFor.goesOn (p : AssignFor) (span : Nat) : Option (List NodeId) :=
  match p with
  | .locate _ t prefer => if span + 1 < t.spanFirst.toNat + t.spanCount.toNat then some prefer else none
  | _ => none

/-- Ask members in turn for a span, and go on with the next span where a SPAN.LOCATE names it. A member is asked once (R47);
one marked draining or fenced, or outside the map, does not qualify (R44). -/
def assignLoop (fuel : Nat) (v : VId) (h : Handle) (span : Nat) (g : Geometry) (left : List NodeId) (considered : Nat)
    (purpose : AssignFor) (s : State) : State :=
  match fuel with
  | 0 => assignFailed v h span considered purpose s
  | k + 1 =>
    let smooth := match (homeSeq s v h).bind (fun f => s.seqs.at? f) with
      | some r => r.smooth.map (fun p => (p.1.1, p.1.2, p.2))
      | none => []
    match left with
    | [] => assignFailed v h span considered purpose s
    | n :: rest =>
      if !(liveIn (purpose.members s v) n) then assignLoop k v h span g rest (considered + 1) purpose s
      else if n = (vn s v).nodeId then
        let r := createSpan v h span g smooth true s
        if r.1 ≠ stOk then assignLoop k v h span g rest (considered + 1) purpose r.2
        else
          let s := setPlace v h span n r.2
          match purpose.goesOn span with
          | some prefer => assignLoop k v h (span + 1) g (candidates (purpose.members s v) prefer) 0 purpose s
          | none => assignDone v h purpose s
      else
        let j := addJob (.assign v h span g rest (considered + 1) n purpose) s
        sendPeer v n false h span (.spanCreate g smooth true) (some j.1) j.2

/-- Fuel for an assignment: the members left for this span, and every member for every span that may follow. -/
def assignFuel (s : State) (v : VId) (left : List NodeId) (purpose : AssignFor) : Nat :=
  left.length + 2 + (match purpose with
    | .locate _ t prefer => ((candidates (purpose.members s v) prefer).length + 2) * t.spanCount.toNat
    | _ => 0)

/-- Begin the assignment of the next span of a sequence. -/
def assignNext (v : VId) (h : Handle) (f : FrameId) (prefer : List NodeId) (purpose : AssignFor) (s : State) : State :=
  let left := candidates (purpose.members s v) prefer
  match s.seqs.at? f with
  | some r => assignLoop (assignFuel s v left purpose) v h r.nextSpan r.geo left 0 purpose s
  | none => s

/-- The span member has answered a request to create a span, or has not in time: go on with the attempt. -/
def assignAnswer (id : Nat) (ok : Bool) (s : State) : State :=
  match s.jobs.at? id with
  | some (.assign v h span g left considered asking purpose) =>
    let s := endJob id s
    if !ok then assignLoop (assignFuel s v left purpose) v h span g left considered purpose s
    else
      let s := setPlace v h span asking s
      match purpose.goesOn span with
      | some prefer =>
        let left := candidates (purpose.members s v) prefer
        assignLoop (assignFuel s v left purpose) v h (span + 1) g left 0 purpose s
      | none => assignDone v h purpose s
  | _ => s

/-- Whether an assignment for a handle waits for a member. -/
def assigning (s : State) (v : VId) (h : Handle) : Bool :=
  s.jobs.any (fun j => match j.2 with
    | .assign v' h' .. => decide (v' = v) && decide (h' = h)
    | _ => false)

/-- Whether the record of a handle is on its way to another home (R41). -/
def recordMoving (s : State) (v : VId) (h : Handle) : Bool :=
  ((homeSeq s v h).bind (fun f => s.seqs.at? f)).any (fun r => r.movingTo.isSome)

/-- Whether an exchange of KV.SMOOTH for a handle is under way (R112). -/
def smoothing (s : State) (v : VId) (h : Handle) : Bool :=
  s.jobs.any (fun j => match j.2 with
    | .smooth _ v' h' .. => decide (v' = v) && decide (h' = h)
    | _ => false)

/-- Whether a request that needs the record of a handle waits (R41, R47): an assignment or an exchange of KV.SMOOTH is under way, or the
record is being sent to another home. -/
def seqBusy (s : State) (v : VId) (h : Handle) : Bool := assigning s v h || smoothing s v h || recordMoving s v h

/-! ## SPAN.OPEN (R39, R40, R450) -/

/-- Whether a rotation fits a head dimension (R109). -/
def rotationOk (dim rotation : Nat) : Bool :=
  if rotation = 0 ∨ rotation = 4 then true
  else if 4 < rotation then false
  else
    let b := blockOf rotation
    decide (dim % b = 0)

/-- The fields of SPAN.OPEN that fail, with their packet offsets. -/
def spanOpenFails (p : SpanOpenBlk) : List (Bool × Nat) :=
  [(badHandle p.handle, 64),
   (decide (p.spanLog2 ≠ 0) && (decide (p.spanLog2.toNat < 14) || decide (20 < p.spanLog2.toNat)), 74),
   (p.valueRotated && (decide (p.rotation = 0) || decide (3 < p.rotation.toNat)), 75),
   (!(rotationOk (dimOf p.headDim.toNat) p.rotation.toNat), 75),
   (decide (9 < p.format.toNat), 76),
   (decide (5 < p.headDim.toNat), 76)]

/-- The geometry that a SPAN.OPEN fixes (R40, R42, R394). -/
def openGeometry (k : Knobs) (p : SpanOpenBlk) : Geometry :=
  ⟨if p.spanLog2 = 0 then 16 else p.spanLog2.toNat, p.layersM1.toNat + 1, p.headsM1.toNat + 1, p.headDim, p.format, p.rotation,
    p.valueRotated, if p.mirrorMode = 3 then BitVec.ofNat 2 k.mirrorDefault else p.mirrorMode, p.codeSealed⟩

/-- A geometry that SPAN.OPEN admits, of the fields of a word. -/
def geometryOfWord (w : BitVec 64) : Geometry :=
  let n := w.toNat
  let dim := n % 6
  let rot := if rotationOk (dimOf dim) (n / 8 % 5) then n / 8 % 5 else 0
  ⟨14 + n / 64 % 7, n / 2 ^ 9 % 2 ^ 16 + 1, n / 2 ^ 25 % 2 ^ 8 + 1, BitVec.ofNat 3 dim, BitVec.ofNat 4 (n / 2 ^ 33 % 10), BitVec.ofNat 3 rot,
    decide (n / 2 ^ 37 % 2 = 1) && decide (1 ≤ rot) && decide (rot ≤ 3), BitVec.ofNat 2 (n / 2 ^ 38 % 3), decide (n / 2 ^ 40 % 2 = 1)⟩

/-- The geometry of a handle's sequence record at its home, as this node knows it: from the record or its mirror, or from a span record of the
handle that has arrived. DESIGN CHOICE (entry 120): no message tells it to a node that holds none of these, and what it then takes is a free
value. -/
def homeGeometry (s : State) (v : VId) (h : Handle) : Geometry :=
  match s.seqs.find? (fun p => decide (p.2.vnode = v) && decide (p.2.handle = h)) with
  | some p => p.2.geo
  | none => match s.spans.find? (fun p => decide (p.2.vnode = v) && decide (p.2.handle = h) && p.2.arrived && !p.2.lostSpan) with
    | some p => p.2.geo
    | none => geometryOfWord (Config.homeGeometry h)

/-- SPAN_OPEN. -/
def spanOpenRow (c : Cmd) (p : SpanOpenBlk) (prefer : List NodeId) (s : State) : Res :=
  runVerb c (withParams c 32 (spanOpenFails p) (fun s =>
    let v := vnodeOf s c
    let r := findHome c p.handle s
    match r.1 with
    | .transient => holdForBank (.spanOpen c p prefer) c p.handle r.2
    | .found f => .refuse (if (r.2.seqs.at? f).any (fun q => q.closing) then stMiss else stDenied) r.2
    | .stop rep =>
      if rep.status ≠ stMiss then .now rep r.2
      else match newMapFrame v .map r.2 with
        | none => .refuse stNoSpace (bump .noSpaceRefusals r.2)
        | some (f, s1) =>
          let e := dirEntry v p.handle 0 kSeq 0 f
          match insertRefusal s1 e with
          | some st => .refuse st (noteRefused e st r.2)
          | none =>
            let g := openGeometry (knobsOf s c) p
            .later (assignNext v p.handle f prefer (.open_ c) (acceptInsert e { s1 with
              seqs := s1.seqs.put f ⟨v, p.handle, g, [], 0, false, [], false, none, false, false⟩ })))) s

/-- SPAN_CREATE_REQUEST (R47): a request that this node has met already is confirmed again. -/
def execSpanCreateRequest (h : PeerHdr) (geo : Geometry) (smooth : List (Nat × Nat × List (BitVec 32))) (highest unwilling : Bool)
    (s : State) : Res :=
  onPeer h .other (whenFills fun s =>
    if (ownSpan s h.vnode h.handle h.span.toNat false).isSome then ackPeer h stOk 0 s
    else if unwilling then ackPeer h stDenied 0 s
    else
      let r := createSpan h.vnode h.handle h.span.toNat geo smooth highest s
      ackPeer h r.1 0 r.2) s

/-- Whether this node is the home of a handle under its present map (R38). -/
def isHome (s : State) (v : VId) (h : Handle) : Bool :=
  decide (((vn s v).map.bind (fun m => homeUnder m h)) = some (vn s v).nodeId)

/-- SPAN_FILL_REPORT (R45, R105): the home assigns the next span, where it is the next to be assigned, and acknowledges at the end of the
attempt. DESIGN CHOICE (entry 75): while this node is not the home, or the record is awaited or on its way, or the span is being assigned, the
acknowledgement is ST_MISS_TRANSIENT, and the span node sends its report again, to the home of its present map; where no record is due, or
the sequence is closing, it is ST_MISS. -/
def fillReportRow (h : PeerHdr) (prefer : List NodeId) (s : State) : Res :=
  onPeer h .other (whenFills fun s =>
    let v := h.vnode
    match (homeSeq s v h.handle).bind (fun f => (s.seqs.at? f).map (fun r => (f, r))) with
    | none => ackPeer h (if (recordDue s v h.handle).isSome || !(isHome s v h.handle) then stMissTransient else stMiss) 0 s
    | some (f, r) =>
      if seqBusy s v h.handle then ackPeer h stMissTransient 0 s
      else if r.closing then ackPeer h stMiss 0 s
      else if r.nextSpan ≠ h.span.toNat + 1 then ackPeer h (if h.span.toNat + 1 < r.nextSpan then stOk else stMiss) 0 s
      else assignNext v h.handle f prefer (.report h) s) s

/-- SPAN_LOCATE (R45–R47, R452). -/
def spanLocateRow (c : Cmd) (t : Target) (prefer : List NodeId) (s : State) : Res :=
  runVerb c (withParams c 32 (targetFails t ⟨true, false, false, false, false⟩) (fun s =>
    let v := vnodeOf s c
    let n := t.spanCount.toNat
    if resultRoom s c < 4 * n then .now Reply.tooLong s
    else
      let r := findHome c t.handle s
      let s := r.2
      match r.1 with
      | .transient => holdForBank (.spanLocate c t prefer) c t.handle s
      | .stop rep => .now rep s
      | .found f => match s.seqs.at? f with
        | none => .refuse stMiss s
        | some q =>
          if q.closing then .refuse stMiss s
          else if seqBusy s v t.handle then .later (defer (.record v t.handle) (.spanLocate c t prefer) (knobsOf s c) s)
          else if t.spanFirst.toNat ≤ q.nextSpan ∧ q.nextSpan < t.spanFirst.toNat + n then
            .later (assignNext v t.handle f prefer (.locate c t prefer) s)
          else .now (locateReply q t) s)) s

/-! ## Closing (R48, R49) -/

/-- Stop the admission of requests for the spans of a handle (R49 step 1). -/
def stopSpans (v : VId) (h : Handle) (s : State) : State :=
  (recordsOf s v h).foldl (fun s p => updSpan p.1 (fun r => { r with closing := true }) s) s

/-- Close the spans of a handle on this node (R49 steps 2 to 4). -/
def closeLocal (v : VId) (h : Handle) (s : State) : State :=
  let recs := s.spans.filter (fun p => decide (p.2.vnode = v) && decide (p.2.handle = h) && !p.2.copy && !p.2.shared)
  let s := deleteWhere v h (fun e => decide (e.kind ∈ [kSpan, kSpanTomb, kMask, kMaskTomb])) s
  recs.foldl (fun s p =>
    let s := match maskOf s v h p.2.span with
      | some f => dropMask f s
      | none => s
    let s := dropLost v h p.2.span s
    let s := releaseSpare p.1 (releasePages p.1 s)
    let s := toTwin v h p.2.span (.mirrorRelease none) s
    releaseFrame p.1 { s with spans := s.spans.del p.1
                              holds := s.holds.filter (fun x => x.record ≠ p.1)
                              sealQueue := s.sealQueue.filter (fun i => i.page.record ≠ p.1) }) s

/-- End a close whose span nodes have all acknowledged (R48 steps 3 and 4): the twin's mirror of the record is told by an image
that is CLOSING and places no span. -/
def finishClose (v : VId) (h : Handle) (cmds : List Cmd) (s : State) : State :=
  let s := match homeSeq s v h with
    | some f =>
      let s := match s.seqs.at? f with
        | some r => toTwin v h 0 (.mirrorRecord (.inr { seqImage r with places := [], closing := true })) s
        | none => s
      dropSeq v h f s
    | none => s
  cmds.foldl (fun s c => complete c (Reply.st stOk) s) s

/-- The close under way of a handle. -/
def closingJob (s : State) (v : VId) (h : Handle) : Option (Nat × List NodeId × List Cmd) :=
  s.jobs.findSome? (fun j => match j.2 with
    | .close v' h' w cs => if v' = v ∧ h' = h then some (j.1, w, cs) else none
    | _ => none)

/-- A span node has acknowledged SEQ_CLOSE, or counts as having done so. -/
def closeAck (id : Nat) (n : NodeId) (s : State) : State :=
  match s.jobs.at? id with
  | some (.close v h waiting cmds) =>
    let w := waiting.filter (fun x => x ≠ n)
    if w.isEmpty then finishClose v h cmds (endJob id s) else setJob id (.close v h w cmds) s
  | _ => s

/-- Close the spans of a handle here, at once or when the requests admitted before have found their records (R49): whether it is done. -/
def beginClose (v : VId) (h : Handle) (ack : Option PeerHdr) (s : State) : Bool × State :=
  let s := stopSpans v h s
  if underWay s v h then (false, (addJob (.closeHere v h ack) s).2) else (true, closeLocal v h s)

/-- End the closes of this node whose requests of before have completed or found their records. -/
def settleCloses (s : State) : State :=
  s.jobs.foldl (fun s j => match j.2 with
    | .closeHere v h ack =>
      if underWay s v h then s
      else
        let s := closeLocal v h (endJob j.1 s)
        (match ack, closingJob s v h with
        | some p, _ => ackPeer p stOk 0 s
        | none, some (id, _, _) => closeAck id (vn s v).nodeId s
        | none, none => s)
    | _ => s) s

/-- Whether a span of a handle is in a handoff that this node knows of (R48): one of its own, or one that its SPAN.MOVE has asked for. -/
def inHandoff (s : State) (v : VId) (h : Handle) : Bool :=
  (vn s v).handoffs.any (fun x => decide (x.handle = h))
    || s.jobs.any (fun j => match j.2 with
      | .move _ v' _ h' _ _ => decide (v' = v) && decide (h' = h)
      | _ => false)

/-- A span node with a span of the handle in a handoff has refused to close it (R48): the close ends, and the sequence is open again.
DESIGN CHOICE (entry 75): the manual gives no other message by which the home learns of a handoff between other nodes; what has closed by
then stays closed. -/
def closeDenied (id : Nat) (s : State) : State :=
  match s.jobs.at? id with
  | some (.close v h _ cmds) =>
    let s := endJob id { s with peerSent := s.peerSent.filter (fun x => !decide (x.2.job = some id)) }
    let s := match homeSeq s v h with
      | some f => mirrorSeq f (updSeq f (fun r => { r with closing := false }) s)
      | none => s
    cmds.foldl (fun s c => complete c (Reply.st stDenied) s) s
  | _ => s

/-- SPAN_CLOSE (R48, R49). -/
def spanCloseRow (c : Cmd) (t : Target) (s : State) : Res :=
  runVerb c (withParams c 32 (targetFails t ⟨false, false, false, false, false⟩) (fun s =>
    let v := vnodeOf s c
    let r := findHome c t.handle s
    let s := r.2
    match r.1 with
    | .transient => holdForBank (.spanClose c t) c t.handle s
    | .stop rep => .now rep s
    | .found f => match s.seqs.at? f with
      | none => .refuse stMiss s
      | some q =>
        if inHandoff s v t.handle then .refuse stDenied s
        else if seqBusy s v t.handle then .later (defer (.record v t.handle) (.spanClose c t) (knobsOf s c) s)
        else match closingJob s v t.handle with
          | some (id, w, cs) => .later (setJob id (.close v t.handle w (cs ++ [c])) s)
          | none =>
            let me := (vn s v).nodeId
            let nodes := q.places.vals.eraseDups.filter (fun n => n ≠ me && memberState s v n ≠ some .fenced)
            let s := mirrorSeq f (updSeq f (fun r => { r with closing := true }) s)
            let b := beginClose v t.handle none s
            let s := b.2
            if nodes.isEmpty && b.1 then .later (finishClose v t.handle [c] s)
            else
              let j := addJob (.close v t.handle (nodes ++ if b.1 then [] else [me]) [c]) s
              .later (nodes.foldl (fun s n => sendPeer v n false t.handle 0 .seqClose (some j.1) s) j.2))) s

/-- SPAN_CLOSE_TIMEOUT (R49): OWN_WAIT_MS has passed for the oldest command of a close, which names a node not yet heard of. -/
def execSpanCloseTimeout (job : Nat) (s : State) : Res :=
  onNode (fun s =>
    match s.jobs.at? job with
    | some (.close v h waiting (c :: cs)) =>
      complete c ⟨stTimeout, 0, waiting.head?, 0, 0, 0, []⟩ (setJob job (.close v h waiting cs) s)
    | _ => s) s

/-- Whether a close of a handle's spans here waits for appends. -/
def closingHere (s : State) (v : VId) (h : Handle) : Bool :=
  s.jobs.any (fun j => match j.2 with
    | .closeHere v' h' _ => decide (v' = v) && decide (h' = h)
    | _ => false)

/-- SEQ_CLOSE (R49): acknowledged once the spans are closed; a repeated one waits with the first. -/
def seqCloseRow (h : PeerHdr) (s : State) : Res :=
  onPeer h .other (fun s =>
    if inHandoff s h.vnode h.handle then ackPeer h stDenied 0 s
    else if closingHere s h.vnode h.handle then s
    else
      let b := beginClose h.vnode h.handle (some h) s
      if b.1 then ackPeer h stOk 0 b.2 else b.2) s

/-! ## The move of a sequence record (R41) -/

/-- Send a sequence record to the home that the current epoch gives, where that is another node (R41); not while an assignment or an
exchange of KV.SMOOTH may still change it. -/
def moveRecord (v : VId) (handle : Handle) (s : State) : State :=
  let n := vn s v
  match homeSeq s v handle, n.map with
  | some f, some m => match homeUnder m handle, s.seqs.at? f with
    | some dest, some r =>
      if dest = n.nodeId ∨ seqBusy s v handle ∨ r.closing ∨ n.fenced then s
      else
        let j := addJob (.seqMove v handle) (updSeq f (fun r => { r with movingTo := some dest }) s)
        sendPeer v dest false handle 0 (.mirrorRecord (.inr (seqImage r))) (some j.1) j.2
    | _, _ => s
  | _, _ => s

/-- SEQUENCE_RECORD_MOVE: the old home sends the record. -/
def execSequenceRecordMove (v : VId) (handle : Handle) (s : State) : Res := onNode (moveRecord v handle) s

/-- The new home has taken the record: the tombstone goes in before the primary entry goes out (R88). -/
def seqMoved (id : Nat) (s : State) : State :=
  match s.jobs.at? id with
  | some (.seqMove v h) =>
    let s := endJob id s
    match homeSeq s v h with
    | none => s
    | some f => match (s.seqs.at? f).bind SeqRec.movingTo with
      | none => s
      | some dest =>
        let s := buryWhere v h (fun e => decide (e.kind = kSeq)) kSeqTomb dest s
        let s := match s.seqs.at? f with
          | some r => toTwin v h 0 (.mirrorRecord (.inr { seqImage r with places := [], closing := true })) s
          | none => s
        sweepLeaving (updSeq f (fun r => { r with leaving := true, movingTo := none }) s)
  | _ => s

/-- SEQUENCE_RECORD_ARRIVAL: the new home enters the record; a tombstone of the class goes (R89). -/
def execSequenceRecordArrival (h : PeerHdr) (rec : SeqImage) (s : State) : Res :=
  onPeer h .other (whenFills fun s =>
    let v := h.vnode
    let done (s : State) : State :=
      updVn v (fun n => { n with awaitedRecords := n.awaitedRecords.filter (fun x => x.1 ≠ h.handle) }) s
    if (homeSeq s v h.handle).isSome then ackPeer h stOk 0 (done s)
    else match newMapFrame v .map s with
      | none => ackPeer h stNoSpace 0 s
      | some (f, s1) =>
        let e := dirEntry v h.handle 0 kSeq 0 f
        match insertRefusal s1 e with
        | some st => ackPeer h st 0 (noteRefused e st s)
        | none =>
          let s1 := deleteWhere v h.handle (fun e => decide (e.kind = kSeqTomb)) (acceptInsert e s1)
          let q : SeqRec := ⟨v, h.handle, rec.geo, rec.places, rec.nextSpan, rec.closing, rec.smooth.map (fun p => ((p.1, p.2.1), p.2.2)), false, none, false, false⟩
          ackPeer h stOk 0 (mirrorSeq f (done { s1 with seqs := s1.seqs.put f q }))) s

/-- QUARANTINE_END (R64): 10 s have passed. A frame with a failing row enters FREE by way of its repair (R297), as a drained one does. -/
def execQuarantineEnd (frame : BitVec 24) (s : State) : Res :=
  onNode (fun s =>
    let x := frameOf s frame.toNat
    if x.state ≠ .quarantined then s
    else if x.ue.isEmpty then stopTiers x.vnode (updFrame frame.toNat (fun _ => Frame.reset) s)
    else updFrame frame.toNat (fun x => { Frame.reset with state := .draining, ue := x.ue, vnode := x.vnode }) s) s

end Sys2Proof.Machine
end

