-- ==== Sys2Proof/Machine/Hbm.lean ====
section
/-! DEFINITION. HBM codewords and what becomes of a frame whose codeword stays uncorrectable: reads and their outcomes, repair, rewrite,
poisoning and loss of pages (R142, R165, R280–R285, R291–R296). -/

namespace Sys2Proof.Machine

/-! ## Errors of stored codewords -/

/-- The error of a codeword after another one. -/
def xorErr (a b : List (Nat × Byte)) : List (Nat × Byte) :=
  (b.foldl (fun t e => Tbl.upd t e.1 (0 : Byte) (fun x => x ^^^ e.2)) a).filter (fun e => e.2 ≠ 0)

/-- Apply the upsets of stored codewords. -/
def applyHbmUpsets (u : Upsets) (s : State) : State :=
  u.hbm.foldl (fun s e =>
    let p := e.pattern.filter (fun x => decide (x.1 < 36))
    let x := xorErr (s.hbm.errs.atD e.cw []) p
    { s with hbm := { s.hbm with errs := if x.isEmpty then s.hbm.errs.del e.cw else s.hbm.errs.put e.cw x } }) s

/-- Apply every upset of a step. -/
def applyUpsets (u : Upsets) (s : State) : State := applyHbmUpsets u (applyDirUpsets u s)

/-- The errored codewords in a range, with their outcomes (R292). -/
def outcomesIn (s : State) (a n : Nat) : List (Nat × RsOut) :=
  (s.hbm.errs.filter (fun e => decide (32 * e.1 < a + n) && decide (a < 32 * e.1 + 32))).map (fun e =>
    (32 * e.1, rsDecode s.knobs.hbmCodeMode e.2))

/-- Whether an outcome is one that a second read does not change. -/
def RsOut.bad : RsOut → Bool
  | .address => true
  | .uncorrectable => true
  | _ => false

/-- The codewords of a range that were corrected. -/
def correctedIn (s : State) (a n : Nat) : List Nat :=
  ((outcomesIn s a n).filter (fun o => match o.2 with
    | .corrected _ => true
    | _ => false)).map Prod.fst

/-- The codewords of a range that stay uncorrectable. -/
def badIn (s : State) (a n : Nat) : List (Nat × RsOut) := (outcomesIn s a n).filter (fun o => o.2.bad)

/-! ## Poisoning, loss and rewriting of pages (R280–R285, R296) -/

/-- The frame that a page lies in, for an event; 0 where it lies in none. -/
def Page.frameId (x : Page) : Nat := match x.loc with
  | .frame f _ => f
  | _ => 0

/-- Causes as events and frames code them (R612). -/
def Poison.code : Poison → Nat
  | .digest => 1
  | .divergent => 2

/-- The status of a query that reads a POISONED page (R281). -/
def Poison.status : Poison → Status
  | .digest => stUncorrectable
  | .divergent => stReplicaDivergent

/-- The payload fields that name a page. -/
def pageFields (r : SpanRec) (p : PageRef) : List (Nat × Nat) :=
  [(64, r.handle.toNat), (32, r.span), (16, p.layer), (8, p.head), (16, p.page)]

/-- Stop awaiting a page. -/
def notAwaiting (p : PageRef) (s : State) : State :=
  { s with
    hbm := { s.hbm with awaiting := s.hbm.awaiting.filter (fun a => !(samePage s a.1 p)) }
    regions := s.regions.filter (fun r => match r.2.use with
      | .read q _ _ => !(samePage s q p)
      | _ => true) }

/-- Await the resolution or repair of a page. -/
def awaitPage (p : PageRef) (h : Option (List Byte)) (s : State) : State :=
  { s with hbm := { s.hbm with awaiting := s.hbm.awaiting.put p h } }

/-- Switch every record that refers to a page's place to another place (R289, R304), and release the old one. -/
def switchAll (old loc : PageLoc) (s : State) : State :=
  let ps := ((s.spans.flatMap pagesOf).filter (fun p => decide (p.2.loc = old))).map Prod.fst
  let s := ps.foldl (fun s p => updPage p (fun x => { x with loc := loc, poison := none }) s) s
  let s := match loc with
    | .frame f _ => updFrame f (fun x => { x with refs := max 1 ps.length }) s
    | _ => s
  ps.foldl (fun s _ => releaseLoc old s) s

/-- Poison a page (R281): its frame becomes POISONED with its cause, which every record that refers to it shows, and queries that read it
end. -/
def poisonPage (p : PageRef) (c : Poison) (s : State) : State :=
  match pageAt s p, spanAt s p.record with
  | some x, some r =>
    let s := updShared p (fun x => { x with poison := some c }) (notAwaiting p s)
    let s := match x.loc with
      | .frame f _ => setFrameState f .poisoned s
      | _ => s
    let s := bump .pagesPoisoned s
    let s := match c with
      | .digest => logFrom r.vnode 0x0604 srcCore (pageFields r p ++ [(32, x.frameId), (8, c.code)]) s
      | .divergent => bump .replicaDivergentPages s
    failReqs (readersOf s p) c.status s
  | _, _ => s

/-- Lose an open page (R296). -/
def losePage (p : PageRef) (s : State) : State :=
  match pageAt s p, spanAt s p.record with
  | some x, some r =>
    let s := notAwaiting p s
    let s := releaseLoc x.loc (updPage p (fun x => { x with loc := .lost }) s)
    let s := bump .pagesLost s
    let s := logFrom r.vnode 0x0702 srcCore (pageFields r p) s
    let s := addLost r.vnode r.handle r.span .pages (p.page * r.geo.cap) s
    failReqs (readersOf s p) stLost s
  | _, _ => s

/-- How a rewrite ends. -/
inductive Rewrite where
  | done (s : State)
  | differs (s : State)
  | noFrame

/-- Place good content in a FREE frame under a new generation and switch the page to it (R64, R284): a sealed page only where its
digest is the recorded one. -/
def rewritePage (p : PageRef) (content : List Byte) (s : State) : Rewrite :=
  match pageAt s p, spanAt s p.record with
  | some x, some r =>
    if freeForUse s r.vnode = 0 then .noFrame
    else match allocAny r.vnode .open_ .data s with
      | none => .noFrame
      | some (f, t) =>
        if fillWaits s t then .noFrame
        else
        let g := genOf t f
        let s := hbmWrite (frameBase f) (padTo frameBytes content) t
        let h := readHeader (content.drop annexAt)
        let s := writeHeader f { h with
            state := if x.isSealed then 3 else 2, gen := g.toNat, sealEpoch := if x.isSealed then x.sealEpoch.toNat else h.sealEpoch } s
        if x.isSealed ∧ (pageDigest (readFrame s f) ≠ x.digest ∨ h.digest ≠ x.digest) then .differs (releaseFrame f s)
        else
          let s := setFrameState f (if x.isSealed then .sealed else .open_) s
          let s := notAwaiting p s
          .done (match placeOfPage s p with
            | some old => switchAll old (.frame f g) s
            | none => updPage p (fun x => { x with loc := .frame f g, poison := none }) s)
  | _, _ => .noFrame

/-- Whether the twin holds a page: the node mirrors, and the span's rows are mirrored (R395); an open page, every row below the
published fill point. -/
def twinHolds (s : State) (r : SpanRec) (p : PageRef) (x : Page) : Bool :=
  decide ((vn s r.vnode).pairState = .paired) && decide (r.geo.mirrorMode ≠ 2) && !r.shared
    && (x.isSealed || r.copy || decide (r.geo.mirrorMode = 0) || decide (r.fill p.layer p.head ≤ r.acked.atD (p.layer, p.head) 0))

/-- The members of a code set that serve the fragments of a stripe, by slot, this node left out. -/
def stripePeers (s : State) (v : VId) : List (NodeId × Nat) :=
  match (vn s v).codeset with
  | some (_, ns) => (ns.zip (List.range ns.length)).filter (fun n => decide (n.1 ≠ (vn s v).nodeId) && decide (n.1 ≠ 0xFFFF))
  | none => []

/-- The address by which a READ_REQ names the fragment of a stripe and slot. DESIGN CHOICE (entry 118): it lies beyond every physical address, and
the member that holds the fragment finds its content. -/
def fragmentAddr (stripe slot : Nat) : Nat := 2 ^ 63 + 16 * stripe + slot

/-- Read the fragment of a slot from the member that holds it (R342, R405); nothing goes to a fenced one, nor from a node that is (R410, R411). -/
def readFragment (p : PageRef) (v : VId) (stripe : Nat) (n : NodeId × Nat) (s : State) : State :=
  if peerBlocked s v n.1 then s
  else
    let k := s.nextTag
    let a := BitVec.ofNat 64 (fragmentAddr stripe n.2)
    let b := readReqBytes a (BitVec.ofNat 32 frameBytes) k
    sendTo v n.1 false (headOf s v opReadReq 0 k 0 b.length) b (.readReq v n.1 a frameBytes k)
      { s with nextTag := k + 1, regions := s.regions.put k ⟨.read p n.2 [], 0, frameBytes⟩ }

/-- Ask the other copy for a page: the twin by a TWIN.VERIFY exchange (R282), or the code group's members (R405). -/
def askOther (p : PageRef) (hash : List Byte) (s : State) : State :=
  match pageAt s p, spanAt s p.record with
  | some x, some r =>
    if twinHolds s r p x then
      sendPeer r.vnode (vn s r.vnode).twin true r.handle r.span (.verifyReq p.layer p.head p.page x.digest hash) none s
    else match x.coded with
      | some (_, stripe, _) => (stripePeers s r.vnode).foldl (fun s n => readFragment p r.vnode stripe n s) s
      | none => s
  | _, _ => s

/-- Whether a sealed page has another copy to resolve it with. -/
def hasOther (s : State) (r : SpanRec) (p : PageRef) (x : Page) : Bool := twinHolds s r p x || x.coded.isSome

/-- A page whose stored copy does not read (R296). -/
def pageUnreadable (p : PageRef) (s : State) : State :=
  match pageAt s p, spanAt s p.record with
  | some x, some r =>
    if (awaited s p).isSome ∨ x.poison.isSome then s
    else if x.isSealed then
      if hasOther s r p x then askOther p [] (awaitPage p none s) else poisonPage p .digest s
    else if twinHolds s r p x then askOther p [] (awaitPage p none s) else losePage p s
  | _, _ => s

/-- The pages of a frame. -/
def pagesAt (s : State) (f : FrameId) : List PageRef :=
  (s.spans.flatMap pagesOf).filterMap (fun p => match p.2.loc with
    | .frame g _ => if g = f then some p.1 else none
    | _ => none)

/-- The pages whose image is the one given. -/
def pagesOfImage (s : State) (n : Nat) : List PageRef :=
  (s.spans.flatMap pagesOf).filterMap (fun p => if p.2.loc = .packed n ∨ p.2.loc = .flash n then some p.1 else none)

/-- The packed images that lie in the granule of an address. -/
def imagesAt (s : State) (a : Nat) : List Nat :=
  (s.tier.images.filter (fun i => match i.2.home with
    | .pack es => es.any (fun e => decide (frameBase e.frame + 64 * e.first ≤ a)
        && decide (a < frameBase e.frame + 64 * (e.first + e.count)))
    | .flash .. => false)).map Prod.fst

/-- The virtual node whose twin mirrors the record in a map frame, and whether it does (R296). -/
def mapMirror (s : State) (f : FrameId) : Option (VId × Bool) :=
  match spanAt s f with
  | some r => some (r.vnode, decide ((vn s r.vnode).pairState = .paired) && !r.shared)
  | none => (s.seqs.at? f).map (fun r => (r.vnode, decide ((vn s r.vnode).pairState = .paired)))

/-- Lose the record in a map frame, which no mirrored copy can rebuild (R296). -/
def loseMap (f : FrameId) (s : State) : State :=
  match spanAt s f with
  | some r => addLost r.vnode r.handle r.span .span 0 (updSpan f (fun r => { r with lostSpan := true }) s)
  | none => match s.seqs.at? f with
    | some r => dropSeq r.vnode r.handle f s
    | none => s

/-- A map frame with a codeword that stays uncorrectable (R296): its records wait to be rebuilt from the twin's mirrored copies, or are lost. -/
def rebuildMap (f : FrameId) (s : State) : State :=
  match mapMirror s f with
  | none => clearErrs (frameBase f) frameBytes s
  | some (_, true) => { s with hbm := { s.hbm with mapsDue := if f ∈ s.hbm.mapsDue then s.hbm.mapsDue else s.hbm.mapsDue ++ [f] } }
  | some (_, false) => loseMap f s

/-- Carry the rebuilding of map frames on (R296). DESIGN CHOICE (entry 86): the node's firmware takes the mirrored copies over the twin link while that
is up, in a step in which no command waits, and a record is lost where the node has left PAIRED before. -/
def settleMaps (s : State) : State :=
  s.hbm.mapsDue.foldl (fun s f =>
    let left (s : State) : State := { s with hbm := { s.hbm with mapsDue := s.hbm.mapsDue.filter (fun g => g ≠ f) } }
    match mapMirror s f with
    | none => left s
    | some (v, true) => if (vn s v).twinUp then left (clearErrs (frameBase f) frameBytes s) else s
    | some (_, false) => left (loseMap f s)) s

/-- The mask sets that a mask frame serves: its own record's, and those with a tile in it. -/
def masksOn (s : State) (f : FrameId) : List FrameId :=
  (s.masks.filter (fun m => decide (m.1 = f) ||
    (List.range (m.2.rows / 128)).any (fun a => (List.range m.2.cols).any (fun b =>
      let e := tileEntry s m.1 m.2 a b
      decide (bitsOf e 31 30 = 2) && decide (bitsOf e 27 4 = f))))).map Prod.fst

/-- Remove a mask set that an uncorrectable codeword spoils (R296). -/
def loseMask (m : FrameId) (s : State) : State :=
  match s.masks.at? m with
  | none => s
  | some r =>
    let s := dropMask m s
    let s := match ownSpan s r.vnode r.handle r.span false with
      | some f => updSpan f (fun x => { x with maskLost := true }) s
      | none => s
    logFrom r.vnode 0x0703 srcCore [(64, r.handle.toNat), (32, r.span)] s

/-- Treat a failing row of the reserved region (R297): soft repair where the bank's is unused, once the owning function has re-created its content;
otherwise the function gives the row up. -/
def repairReserved (a : Nat) (s : State) : State :=
  let p := placeOf a
  let row := a / 1024 * 1024
  let bank := (p.stack * 32 + p.pc, (p.sid * 4 + p.ba) * 4 + p.bg)
  if row ∈ s.hbm.givenUp then s
  else if bank ∈ s.hbm.sppr then { s with hbm := { s.hbm with givenUp := s.hbm.givenUp ++ [row] } }
  else clearErrs row 1024 { s with hbm := { s.hbm with sppr := s.hbm.sppr ++ [bank] } }

/-- Handle a codeword that stays uncorrectable, according to what its frame holds (R296). DESIGN CHOICE (entry 103): a FREE frame, which holds
nothing, leaves FREE for DRAINING with no reader, so that it enters FREE again only by the repair of R297. -/
def handleUe (a : Nat) (s : State) : State :=
  match frameAt a with
  | none => repairReserved a s
  | some f =>
    let x := frameOf s f
    let row := (a - frameBase f) / 1024
    let s := updFrame f (fun x => { x with ue := if row ∈ x.ue then x.ue else x.ue ++ [row] }) s
    if x.state = .free then setFrameState f .draining s
    else match x.use with
    | .data =>
      if x.state = .spare then
        (s.spans.filter (fun p => decide (p.2.spare = some f))).foldl (fun s p => releaseFrame f (oweSpare p.1 s)) s
      else (pagesAt s f).foldl (fun s p => pageUnreadable p s) s
    | .pack => (imagesAt s a).foldl (fun s n => (pagesOfImage s n).foldl (fun s p => pageUnreadable p s) s) s
    | .map => rebuildMap f s
    | .mask => (masksOn s f).foldl (fun s m => loseMask m s) s
    | _ => s

/-! ## Reads (R165, R295, R301) -/

/-- Who reads: the node's normal accesses, a runner, or the scrub. -/
inductive Reader where
  | normal | runner | scrub
deriving DecidableEq, Repr

/-- The counters of a reader: codewords corrected, and codewords that stay uncorrectable. -/
def Reader.counters : Reader → Counter × Counter
  | .normal => (.hbmCe, .hbmUe)
  | .runner => (.runnerCe, .runnerUe)
  | .scrub => (.scrubCe, .scrubUe)

/-- Count and log one uncorrectable codeword. -/
def noteBad (w : Reader) (o : Nat × RsOut) (s : State) : State :=
  let st := stackOf o.1
  let s := if o.2 = .address then bumpAt .hbmAddrErr st 1 s else s
  let s := bumpAt w.counters.2 st 1 s
  let fields := placeFields (placeOf o.1) ++ [frameField o.1]
  match w with
  | .normal => logFrom 0 0x0701 (srcStack st) fields s
  | .runner => logFrom 0 0x0302 (srcStack st) fields s
  | .scrub => s

/-- Read the codewords of a range: those that stay uncorrectable, with what the read counts and logs. A runner's sequence ends at the first of
them (R165). -/
def readCodewords (w : Reader) (a n : Nat) (s : State) : List Nat × State :=
  let good := correctedIn s a n
  let bad := (badIn s a n).take (if w = .runner then 1 else n)
  let s := good.foldl (fun s c => bumpAt w.counters.1 (stackOf c) 1 s) s
  (bad.map Prod.fst, bad.foldl (fun s o => noteBad w o s) s)

/-- Handle the frames of codewords that stay uncorrectable (R296). -/
def handleAll (bad : List Nat) (s : State) : State := bad.foldl (fun s a => handleUe a s) s

/-- Handle what the merging reads of part writes have found (R142, R296). -/
def settleUe (s : State) : State := handleAll (s.hbm.ueDue.map (32 * ·)) { s with hbm := { s.hbm with ueDue := [] } }

/-- Read a range: whether every codeword was read, with what the read counts, logs and starts. -/
def readRange (w : Reader) (a n : Nat) (s : State) : Bool × State :=
  let r := readCodewords w a n s
  (r.1.isEmpty, handleAll r.1 r.2)

/-- The interface-code errors of reads on the stack interface (R294): corrections are counted, and a second link error, on a read at the
address given, ends the operation. -/
def meetLink (u : Upsets) (a : Nat) (s : State) : Bool × State :=
  let s := u.linkFixes.foldl (fun s n => bumpAt .linkCe n 1 s) s
  if 2 ≤ u.linkFails then
    (false, logFrom 0 0x0301 (srcStack (stackOf a)) [(8, stackOf a), (8, a % 2 ^ 36 / pcBytes)] (bumpAt .linkUe (stackOf a) 1 s))
  else (true, s)

/-- Read the whole of a frame by normal accesses. -/
def readFrameNormal (f : FrameId) (s : State) : Bool × State := readRange .normal (frameBase f) frameBytes s

/-- Read the extents of an image by normal accesses: the codewords that stay uncorrectable. -/
def readExtents (es : List Extent) (s : State) : List Nat × State :=
  es.foldl (fun acc e =>
    let q := readCodewords .normal (frameBase e.frame + 64 * e.first) (64 * e.count) acc.2
    (acc.1 ++ q.1, q.2)) ([], s)

/-- Read what holds a page by normal accesses, in any tier (R278, R295, R316): whether every codeword reads. -/
def readStored (x : Page) (s : State) : Bool × State :=
  match x.loc with
  | .frame f _ => readFrameNormal f s
  | .packed n => (match (s.tier.images.at? n).map Image.home with
    | some (.pack es) => let q := readExtents es s; (q.1.isEmpty, handleAll q.1 q.2)
    | _ => (true, s))
  | .flash n => (true, countFlashRead n s)
  | _ => (true, s)

end Sys2Proof.Machine
end

