-- ==== Sys2Proof/Machine/CodecQueue.lean ====
section
/-! DEFINITION. The codec queues and the reading of a page through them: what is queued, the order in which the engines serve it, and a block whose
slot no longer holds its table (R328, R330, R331). -/

namespace Sys2Proof.Machine

/-! ## What is queued (R328, R331) -/

/-- Queue so many blocks of a page under the table of a slot. -/
def queueItems (cls n : Nat) (p : PageRef) (g : BitVec 32) (slot : Nat) (s : State) : State :=
  { s with tier := { s.tier with queue := s.tier.queue ++ List.replicate n ⟨cls, slot, g, p, false⟩ } }

/-- Queue the coded blocks of an image for their expansion. -/
def queueBlocks (cls : Nat) (p : PageRef) (im : List Byte) (s : State) : State :=
  match imageTable im with
  | none => s
  | some (g, slot) => queueItems cls (codedBlocks im) p g slot s

/-- Queue the payload blocks of a page for their coding, under the table that is current for its format now (R328). -/
def queueCoding (cls : Nat) (p : PageRef) (fmt : Nat) (s : State) : State :=
  match currentTable s fmt with
  | none => s
  | some (g, slot, _) => queueItems cls 8 p g slot s

/-- The block that the engines take next: the first of the highest class. -/
def nextBlock (q : List CodecItem) : Option Nat :=
  (List.range 6).findSome? (fun k => q.findIdx? (fun i => decide (i.cls = k)))

/-! ## Ends of changes of form that a stale block brings about (R330) -/

/-- Take a demotion off the list. The blocks that it queued stay in the queue until they are served (R331). -/
def endDemotion (p : PageRef) (s : State) : State :=
  { s with tier := { s.tier with demotions := s.tier.demotions.filter (fun d => d.page ≠ p) } }

/-- Take the promotion of an image off the list. -/
def endPromotion (n : Nat) (s : State) : State :=
  { s with tier := { s.tier with promotions := s.tier.promotions.filter (fun d => d.image ≠ n) } }

/-- Take a page off the TIER.PROMOTE or TIER.DEMOTE commands that still name it, with a status; a command with no page left completes. -/
def dropFromTiers (down : Bool) (st : Status) (p : PageRef) (s : State) : State :=
  s.jobs.foldl (fun s j => match j.2 with
    | .tier c d left was =>
      if d ≠ down ∨ !(left.any (fun q => samePage s q p)) then s
      else
        let left := left.filter (fun q => !(samePage s q p))
        let st := if was = stOk then st else was
        if left.isEmpty then complete c (Reply.st st) (endJob j.1 s) else setJob j.1 (.tier c d left st) s
    | _ => s) s

/-- What needed a block ends with ST_CODEC_TABLE_STALE, and its page is handled as a sealed copy that does not read (R330): the queries that
expand it, its promotion or its demotion. A block whose coding was discarded before ends nothing. -/
def staleBlock (i : CodecItem) (s : State) : State :=
  if i.cls = 1 then pageUnreadable i.page (failReqs (readersOf s i.page) stCodecTableStale s)
  else if i.cls = 2 then
    match s.tier.promotions.find? (fun m => samePage s m.page i.page) with
    | none => s
    | some m =>
      let s := failReqs m.waiting stCodecTableStale (endPromotion m.image s)
      pageUnreadable i.page (dropFromTiers false stCodecTableStale i.page s)
  else
    match s.tier.demotions.find? (fun d => decide (d.page = i.page)) with
    | none => s
    | some d =>
      let s := removeImage d.image (endDemotion i.page s)
      pageUnreadable i.page (dropFromTiers true stCodecTableStale i.page s)

/-- An engine takes the block at a place of the queue (R330): it is coded or decoded where its slot is LIVE or RETIRING and holds its
generation. -/
def serveBlock (k : Nat) (i : CodecItem) (s : State) : State :=
  let s := { s with tier := { s.tier with queue := s.tier.queue.eraseIdx k } }
  let x := s.tier.slots.atD i.slot CodecSlot.free
  settleSlots (if x.state ≠ 0 ∧ x.gen = i.gen then s else staleBlock i (bump .codecStale s))

/-- Serve what is queued down to a class, in order (R331). -/
def serveQueue (cls : Nat) : Nat → State → State
  | 0, s => s
  | n + 1, s => match nextBlock s.tier.queue with
    | none => s
    | some k => match s.tier.queue[k]? with
      | none => s
      | some i => if i.cls ≤ cls then serveQueue cls n (serveBlock k i s) else s

/-- What the engines serve before work of a class that begins and ends in one step (R331): every queued block of a higher class, and those of its
own class, which were queued before. DESIGN CHOICE (entry 102): the engines' time is not modelled, so packing, read-verify, re-coding and
the other expansions of the node's own find their turn within their step. -/
def drainCodec (cls : Nat) (s : State) : State := serveQueue cls s.tier.queue.length s

/-! ## Reading a page -/

/-- How a page's own copy reads. -/
inductive Copy where
  | reads (bs : List Byte)
  | stale
  | fails
deriving DecidableEq, Repr

/-- Read a page by normal accesses, its coded blocks in a class of the codec (R295, R330, R331): each block of an image whose table is gone counts. -/
def readCopy (cls fmt : Nat) (x : Page) (s : State) : Copy × State :=
  let s := if x.isPlain then s else drainCodec cls s
  let r := readStored x s
  if !r.1 then (.fails, r.2)
  else match pageContent r.2 fmt x.loc with
    | .bytes bs => (.reads bs, r.2)
    | .stale => (.stale, bumpBy .codecStale (codedBlocks (imageBytes r.2 (x.image.getD 0))) r.2)
    | .unreadable => (.fails, r.2)

/-- Read a page for the node's own use; one that does not read is handled (R296). The class of the codec is that of read-verify. -/
def readHeld (p : PageRef) (s : State) : State :=
  match pageAt s p, spanAt s p.record with
  | some x, some r =>
    if x.loc = .lost ∨ x.loc = .notCopied ∨ x.loc = .rebuild ∨ x.poison.isSome then s
    else
      let c := readCopy 4 r.geo.fmt x s
      (match c.1 with
      | .reads _ => c.2
      | _ => pageUnreadable p c.2)
  | _, _ => s

/-- Whether a page that was read may be used: it is neither POISONED nor under resolution or repair. -/
def pageGood (s : State) (p : PageRef) (x : Page) : Bool := x.poison.isNone && (awaited s p).isNone

end Sys2Proof.Machine
end

