-- ==== Sys2Proof/Machine/Append.lean ====
section
/-! DEFINITION. Appending: the descriptor and its checks in order, the write of rows, copy-on-write, growth and the spare page, mirroring of
rows, sealing, smoothing vectors and prefix aliases (R93–R131, R395–R397, R419). -/

namespace Sys2Proof.Machine

/-! ## The descriptor (R95) and the reply (R99) -/

/-- The result of a descriptor: its status and the fields of R99. -/
structure AppendOut where
  status : Status
  bad : Nat := 0
  node : Option NodeId := none
  hint : Nat := 0
  copied : Bool := false
  spareTaken : Bool := false
  isSealed : Bool := false
  uncompared : Bool := false
  repeated : Bool := false
  firstGen : BitVec 32 := 0
  /-- FILL_HEAD, where it is not KV_HEAD. -/
  fillHead : Option Nat := none
  fill : Nat := 0
  lastGen : BitVec 32 := 0
  rowsNew : Nat := 0
deriving DecidableEq, Repr

/-- The flags of R99 word 0 [4:0]. -/
def AppendOut.flags (o : AppendOut) : Nat :=
  word [(4, b2n o.copied), (3, b2n o.spareTaken), (2, b2n o.isSealed), (1, b2n o.uncompared), (0, b2n o.repeated)]

/-- Word 1 of R99 below FIRST_GEN: FILL_HEAD is KV_HEAD but where the result says otherwise. -/
def AppendOut.fillWord (o : AppendOut) (d : AppendDesc) : Nat :=
  word [(32, o.firstGen.toNat), (21, o.fillHead.getD d.head % 256), (0, o.fill)]

/-- The 32-byte append reply (R99). -/
def appendReply (d : AppendDesc) (o : AppendOut) : List Byte :=
  words64 [word [(32, d.tag.toNat), (16, o.status.toNat), (0, o.flags)],
    o.fillWord d,
    word [(32, o.lastGen.toNat), (0, o.rowsNew)],
    word [(48, if o.status = stRetryAfter then min 65535 (max 1 o.hint) else 0)]]

/-- Answer a descriptor: by a WRITE of the append reply, or in the status reply of KV.APPEND (R98, R447). -/
def answerAppend (src : AppendSrc) (d : AppendDesc) (o : AppendOut) (s : State) : State :=
  match src with
  | .msg m =>
    settle (sendReply m.vnode m.qpn m.sender m.addr m.key (if o.status = stMoved then o.node else none) (appendReply d o) s)
  | .cmd c =>
    let r0 := o.fillWord d
    let r1 := word [(32, o.lastGen.toNat), (23, o.rowsNew), (0, o.flags)]
    let detail := if o.status = stBadParam then BitVec.ofNat 16 o.bad else 0
    let hint := if o.status = stRetryAfter then min 65535 (max 1 o.hint) else 0
    complete c ⟨o.status, detail, if o.status = stMoved then o.node else none, hint, BitVec.ofNat 64 r0, BitVec.ofNat 64 r1, []⟩ s

/-- The checks of step 1 of R102: the packet offset of the first bad field. -/
def appendStep1 (bs : List Byte) : Option Nat :=
  let d := readAppend bs
  let w1 := wordAt bs 1
  let w2 := wordAt bs 2
  let fails : List (Bool × Nat) := [
    (decide (bs.length < 64) || decide (1048576 < bs.length), 12),
    (badHandle d.handle, 64),
    (decide (w1 % 128 ≠ 0) || decide (d.headCount < 1) || decide (256 < d.headCount), 72),
    (bitOf w2 20 || decide (d.rowCount < 1) || decide (256 < d.rowCount), 82),
    (decide (d.inFmt = 3), 83),
    (decide (bitsOf (wordAt bs 3) 63 32 ≠ 0), 92),
    (decide (wordAt bs 4 ≠ 0) || decide (wordAt bs 5 ≠ 0) || decide (wordAt bs 6 ≠ 0) || decide (wordAt bs 7 ≠ 0), 96)]
  (fails.filter (fun f => f.1)).head?.map (fun f => f.2)

/-- The geometry checks of step 3: the length of R93 and the conditions of R97. -/
def appendGeometry (g : Geometry) (d : AppendDesc) (len : Nat) : Option Nat :=
  if len ≠ 64 + d.headCount * d.rowCount * 2 * g.dim * inputBytes d.inFmt then some 12
  else if g.layers ≤ d.layer then some 75
  else if g.heads ≤ d.head then some 74
  else if g.spanLen ≤ d.token then some 80
  else if g.heads < d.head + d.headCount ∨ g.spanLen < d.token + d.rowCount then some 0xFFFF
  else none

/-- The payload of row `r` of head number `i` of a descriptor: key or value (R97). -/
def rowAt (g : Geometry) (d : AppendDesc) (bs : List Byte) (i r : Nat) (value : Bool) : List F32 :=
  let n := g.dim * inputBytes d.inFmt
  let k := i * 2 * d.rowCount + (if value then d.rowCount else 0) + r
  inputRow d.inFmt (bytesAt bs (64 + k * n) n)

/-- The smoothing vector of a layer and head. -/
def sigmaOf (r : SpanRec) (l h : Nat) : List F32 := r.smooth.atD (l, h) []

/-- One row pair converted (R113); none where step 7 fails. -/
def storePair (g : Geometry) (sigma : List F32) (k v : List F32) : Option StoredRow :=
  if k.any (fun e => !(F32.isFin e)) ∨ v.any (fun e => !(F32.isFin e)) then none
  else match storeRow g.fmt (keyTransform g sigma k), storeRow g.fmt (valueTransform g v) with
    | some a, some b => some ⟨a.bytes, b.bytes, a.scale, b.scale, a.groups, b.groups, f32sum b.deq⟩
    | _, _ => none

/-- The converted rows of a descriptor, per head in token order; none where step 7 of R102 fails. -/
def convertRows (r : SpanRec) (d : AppendDesc) (bs : List Byte) : Option (List (List StoredRow)) :=
  allSome ((List.range d.headCount).map (fun i => allSome ((List.range d.rowCount).map (fun j =>
    storePair r.geo (sigmaOf r d.layer (d.head + i)) (rowAt r.geo d bs i j false) (rowAt r.geo d bs i j true)))))

/-! ## Repeats (R117, R118) -/

/-- What the comparison of a repeat row gives. -/
inductive Compared where
  | same | differs | uncompared
deriving DecidableEq, Repr

/-- Compare a row with the slot that holds its token. -/
def compareRow (s : State) (r : SpanRec) (layer head token : Nat) (x : StoredRow) : Compared :=
  match r.pages.at? (layer, head, token / r.geo.cap) with
  | some p => match p.loc with
    | .frame f _ =>
      let st := (frameOf s f).state
      if st = .open_ ∨ st = .sealed then
        if { slotRow r.geo (readFrame s f) (token % r.geo.cap) with check := x.check } = x then .same else .differs
      else .uncompared
    | _ => .uncompared
  | none => .uncompared

/-- The repeat rows of a descriptor with their comparisons: head, token and result, in payload order. -/
def repeats (s : State) (r : SpanRec) (d : AppendDesc) (rows : List (List StoredRow)) : List (Nat × Nat × Compared) :=
  (d.heads.zip rows).flatMap (fun hr =>
    ((List.range d.rowCount).zip hr.2).filterMap (fun jr =>
      let t := d.token + jr.1
      if t < r.fill d.layer hr.1 then some (hr.1, t, compareRow s r d.layer hr.1 t jr.2) else none))

/-- The byte ranges of a frame that hold a slot's row: elements, scales and group scales (R56, R57). -/
def slotRanges (g : Geometry) (f : FrameId) (t : Nat) : List (Nat × Nat) :=
  let m := annexMap g.fmt g.dim
  let n := rowBytes g.fmt g.dim
  let gr := groupsOf g.fmt g.dim
  let an := frameBase f + annexAt
  [(frameBase f + t * n, n), (frameBase f + 0x4000 + t * n, n), (an + m.keyScale + 2 * t, 2), (an + m.valueScale + 2 * t, 2)]
    ++ (if gr = 0 then [] else [(an + m.keyGroups + t * gr, gr), (an + m.valueGroups + t * gr, gr)])

/-- Read the slot that holds the token of a repeat row, for its comparison (R295). -/
def readRepeat (r : SpanRec) (layer head token : Nat) (s : State) : State :=
  match (r.pages.at? (layer, head, token / r.geo.cap)).map Page.loc with
  | some (.frame f _) =>
    if (frameOf s f).state = .open_ ∨ (frameOf s f).state = .sealed then
      (slotRanges r.geo f (token % r.geo.cap)).foldl (fun s a => (readRange .normal a.1 a.2 s).2) s
    else s
  | _ => s

/-- Read the slots of a descriptor's repeat rows. -/
def readRepeats (r : SpanRec) (d : AppendDesc) (s : State) : State :=
  d.heads.foldl (fun s h => (List.range d.rowCount).foldl (fun s j =>
    if d.token + j < r.fill d.layer h then readRepeat r d.layer h (d.token + j) s else s) s) s

/-- The pages that the repeat rows of a descriptor lie in. -/
def repeatPages (rec : FrameId) (r : SpanRec) (d : AppendDesc) : List PageRef :=
  d.heads.flatMap (fun h => ((List.range d.rowCount).filterMap (fun j =>
    if d.token + j < r.fill d.layer h then some ⟨rec, d.layer, h, (d.token + j) / r.geo.cap⟩ else none)).eraseDups)

/-! ## Growth (R121–R125) -/

/-- Pages of a layer and head that a count of tokens occupies. -/
def pagesFor (g : Geometry) (n : Nat) : Nat := ceilDiv n g.cap

/-- New pages that a descriptor needs (R125). -/
def newPages (r : SpanRec) (d : AppendDesc) : Nat :=
  (d.heads.map (fun h =>
    let f := r.fill d.layer h
    pagesFor r.geo (max f (d.token + d.rowCount)) - pagesFor r.geo f)).foldl (· + ·) 0

/-- Whether a descriptor has a new row. -/
def hasNew (r : SpanRec) (d : AppendDesc) : Bool := d.heads.any (fun h => decide (r.fill d.layer h < d.token + d.rowCount))

/-- The open pages of a record that a copy-on-write copies (R127). -/
def openPages (r : SpanRec) : List ((Nat × Nat × Nat) × Page) := r.pages.filter (fun p => !p.2.isSealed && p.2.isPlain)

/-- Frames that a copy-on-write needs (R125, R127). -/
def cowNeed (r : SpanRec) : Nat := (openPages r).length + 1

/-- The pseudo-channel for the next page of a layer and head (R52, R122): in the present round the next one that has a FREE frame and
no page of the round; when every one left is skipped, the next round begins. -/
def pagePc (v : VId) (used : List Nat) (s : State) : Option (Nat × List Nat) × State :=
  let r := takeFree s
  let base := (pcsOf s v).1
  let start := match used with
    | [] => r.1
    | p :: _ => p + 1 - base
  match pcFrom s v start (fun p => pcHasFree s p && !(decide (p ∈ used))) with
  | some p => (some (p, p :: used), r.2)
  | none => match pcFrom s v start (pcHasFree s) with
    | some p => (some (p, [p]), r.2)
    | none => (none, r.2)

/-- Open a page at a fill point that is a multiple of T (R122, R61): its frame, and whether it took the spare. None where there is no
frame at all, which step 9 of R102 excludes. -/
def openPage (rec : FrameId) (layer head page : Nat) (s : State) : Option (FrameId × Bool × State) :=
  match spanAt s rec with
  | none => none
  | some r =>
    let enter (f : FrameId) (s : State) : State :=
      let g := genOf s f
      let s := setFrameState f .open_ (writeHeader f (pageHeader r.geo r.handle r.span layer head page r.shared g 2) s)
      updSpan rec (fun r => { r with pages := r.pages.put (layer, head, page) ⟨.frame f g, false, [], 0, none, false, none, 0, false, none⟩ }) s
    let q := if freeForUse s r.vnode = 0 then (none, s) else pagePc r.vnode (r.rounds.atD (layer, head) []) s
    match q.1 with
    | some (pc, used) =>
      let a := allocIn pc r.vnode .open_ .data q.2
      let s := updSpan rec (fun r => { r with rounds := r.rounds.put (layer, head) used }) a.2
      some (a.1, false, enter a.1 s)
    | none => match r.spare with
      | some f => some (f, true, enter f (bump .spareTakes (oweSpare rec q.2)))
      | none => none

/-! ## Mirroring of rows (R390, R395–R397, R419) -/

/-- Whether the open page of a layer and head has been sent in a copy under way (R419). -/
def copySent (r : SpanRec) (l h : Nat) : Bool := r.acked.has (l, h)

/-- Where the rows of a layer and head go: node, whether over the twin link, and whether as COPY_ROWS. -/
def rowTargets (s : State) (r : SpanRec) (l h : Nat) : List (NodeId × Bool × Bool) :=
  let n := vn s r.vnode
  let off := decide (r.geo.mirrorMode = 2)
  if n.fenced then []
  else
    let twin : List (NodeId × Bool × Bool) :=
      if n.pairState = .paired ∧ !off then [(n.twin, true, false)]
      else if n.pairState = .copying ∧ n.pairSource ∧ !off ∧ copySent r l h then [(n.twin, true, true)]
      else []
    let dest : List (NodeId × Bool × Bool) := match handoffOf s r.vnode r.handle r.span with
      | some x => if x.isSource ∧ x.state = .offering ∧ x.offerAnswered then [(x.other, false, true)] else []
      | none => []
    twin ++ dest

/-- The new rows of a descriptor on a head, with the fill point before them. -/
def newRows (r : SpanRec) (d : AppendDesc) (head : Nat) (rows : List StoredRow) : RowsImage :=
  let f := r.fill d.layer head
  ⟨d.layer, head, f, rows.drop (f - d.token)⟩

/-- The messages that carry a descriptor's new rows. -/
def rowMessages (s : State) (r : SpanRec) (d : AppendDesc) (rows : List (List StoredRow)) : List (NodeId × Bool × PeerBody) :=
  let per := (d.heads.zip rows).flatMap (fun hr =>
    let im := newRows r d hr.1 hr.2
    if im.rows.isEmpty then [] else (rowTargets s r d.layer hr.1).map (fun t => (t, im)))
  let ts := (per.map (fun p => p.1)).eraseDups
  ts.map (fun t =>
    let ims := (per.filter (fun p => p.1 = t)).map (fun p => p.2)
    (t.1, t.2.1, if t.2.2 then .copyRows ims else .mirrorRows ims))

/-- Whether appends on a layer and head of a record are held. -/
def heldAt (s : State) (rec : FrameId) (layer head : Nat) : Bool :=
  s.holds.any (fun x => decide (x.record = rec) && decide (x.layer = layer) && decide (x.head = head))

/-- The first head of a descriptor on which appends are held. -/
def heldHead (s : State) (rec : FrameId) (d : AppendDesc) : Option Nat := d.heads.find? (heldAt s rec d.layer)

/-- The holds that an append places on its layer and heads. -/
def holdsOf (rec : FrameId) (d : AppendDesc) (job : Nat) : List Hold := d.heads.map (fun h => ⟨rec, d.layer, h, .append job⟩)

/-- Take the holds of an append's job away. -/
def freeAppend (job : Nat) (s : State) : State := { s with holds := s.holds.filter (fun x => decide (x.by_ ≠ .append job)) }

/-- Whether two descriptors name a common layer and head of one span (R101). -/
def AppendDesc.meets (a b : AppendDesc) : Bool :=
  decide (a.handle = b.handle) && decide (a.span = b.span) && decide (a.layer = b.layer) && decide (a.head < b.head + b.headCount)
    && decide (b.head < a.head + a.headCount)

/-- Whether a descriptor admitted before is held and names a common layer and head (R101). `order` is the place of one that was held itself;
a new one comes after all. -/
def behindHeld (s : State) (order : Option Nat) (v : VId) (d : AppendDesc) : Bool :=
  s.deferred.any (fun x => (match order with
    | some n => decide (x.order < n)
    | none => true) && (match x.append with
    | some (src, bs) => decide (srcVnode s src = v) && (readAppend bs).meets d
    | none => false))

/-- Whether the copy-on-write of a member's record awaits its twin (R130): the next descriptor that would make one waits. -/
def cowPending (s : State) (v : VId) (d : AppendDesc) : Bool :=
  s.jobs.any (fun j => match j.2 with
    | .syncAppend src bs rec .. => decide (srcVnode s src = v) && decide ((readAppend bs).handle = d.handle)
        && decide ((readAppend bs).span = d.span) && ((spanAt s rec).any (fun r => r.shared))
    | _ => false)

/-- Whether a descriptor would leave more rows unacknowledged than the lag bound (R397). -/
def overLag (k : Knobs) (r : SpanRec) (d : AppendDesc) : Bool :=
  d.heads.any (fun h => decide (k.mirrorLagTokens + r.acked.atD (d.layer, h) 0 < max (r.fill d.layer h) (d.token + d.rowCount)))

/-- Whether a node's appends complete without a twin (R390). -/
def solo (s : State) (v : VId) : Bool := decide ((vn s v).pairState = .unpaired) || decide ((vn s v).pairState = .solo)

/-- Whether a descriptor completes without the twin under R390: the node has none, or the open pages of the span have not been sent to the one that
is being brought in (R419). -/
def withoutTwin (s : State) (r : SpanRec) (d : AppendDesc) : Bool :=
  let n := vn s r.vnode
  solo s r.vnode || (decide (n.pairState = .copying) && !(n.pairSource && d.heads.all (copySent r d.layer)))

/-! ## The write -/

/-- Write one new row, opening its page where the fill point starts one; a full page is queued for its seal (R119). -/
def writeRow (rec : FrameId) (layer head : Nat) (x : StoredRow) (s : State) : State × Bool × Bool :=
  match spanAt s rec with
  | none => (s, false, false)
  | some r =>
    let t := r.fill layer head
    let page := t / r.geo.cap
    let slot := t % r.geo.cap
    let opened : Option (FrameId × Bool × State) :=
      if slot = 0 then openPage rec layer head page s
      else match r.pages.at? (layer, head, page) with
        | some p => match p.loc with
          | .frame f _ => some (f, false, s)
          | _ => none
        | none => none
    match opened with
    | none => (s, false, false)
    | some (f, spare, s) =>
      let s := setTokenCount f (slot + 1) (writeSlot r.geo f slot x s)
      let s := updSpan rec (fun r => { r with fills := r.fills.put (layer, head) (t + 1) }) s
      let full := decide (slot + 1 = r.geo.pageCap page)
      let s := if full then { s with sealQueue := s.sealQueue ++ [⟨⟨rec, layer, head, page⟩, s.work⟩] } else s
      (s, spare, full)

/-- Write the new rows of a head. -/
def writeRows (rec : FrameId) (layer head : Nat) : List StoredRow → State → State × Bool × Bool
  | [], s => (s, false, false)
  | x :: xs, s =>
    let a := writeRow rec layer head x s
    let b := writeRows rec layer head xs a.1
    (b.1, a.2.1 || b.2.1, a.2.2 || b.2.2)

/-- Write the new rows of every head of a descriptor. -/
def writeHeads (rec : FrameId) (d : AppendDesc) (r : SpanRec) : List (Nat × List StoredRow) → State → State × Bool × Bool
  | [], s => (s, false, false)
  | (h, rows) :: hs, s =>
    let a := writeRows rec d.layer h (newRows r d h rows).rows s
    let b := writeHeads rec d r hs a.1
    (b.1, a.2.1 || b.2.1, a.2.2 || b.2.2)

/-- Copy the content of a page of a record into a new frame with another handle and ALIAS_SHARED (R126, R127): its frame and the
state; none where no frame is FREE. -/
def copyPage (r : SpanRec) (key : Nat × Nat × Nat) (bs : List Byte) (handle : Handle) (shared : Bool) (st : FrameState) (s : State) :
    Option (FrameId × State) :=
  match allocAny r.vnode st .data s with
  | none => none
  | some (f, s) =>
    let h := readHeader (bs.drop annexAt)
    let code := if st = .sealed then 3 else 2
    let h' : Header := { h with handle := handle.toNat, shared := shared, gen := (genOf s f).toNat, state := code, sealEpoch := 0,
                                digest := [], layer := key.1, head := key.2.1, page := key.2.2 }
    some (f, writeHeader f h' (hbmWrite (frameBase f) bs s))

/-- Copy the open pages of a list. -/
def copyOpen (r : SpanRec) (handle : Handle) (shared : Bool) : List ((Nat × Nat × Nat) × Page) → State →
    List ((Nat × Nat × Nat) × Page) × State
  | [], s => ([], s)
  | (k, p) :: ps, s =>
    match p.loc with
    | .frame src _ => match copyPage r k (readFrame s src) handle shared .open_ s with
      | some (f, s) =>
        let rest := copyOpen r handle shared ps s
        ((k, { p with loc := .frame f (genOf s f), mirrored := false, lastRead := 0, pinned := false, sharedOf := none }) :: rest.1, rest.2)
      | none => copyOpen r handle shared ps s
    | _ => copyOpen r handle shared ps s

/-- Whether a copy-on-write would raise a reference count above its limit (R129). -/
def refsFull (s : State) (r : SpanRec) : Bool :=
  r.pages.any (fun p => match p.2.loc with
    | .frame f _ => p.2.isSealed && decide (65535 ≤ (frameOf s f).refs)
    | _ => false)

/-- The lost pages of a record as a member's own record has them. -/
def lostPages (r : SpanRec) : List ((Nat × Nat × Nat) × Page) := r.pages.filter (fun p => !p.2.isSealed && decide (p.2.loc = .lost))

/-- Give a member its own record (R127): the sealed pages are shared, the open ones copied, and the SPAN entry inserted; a tombstone of the same
key goes (R89). A page that the shared record has lost is lost to the member too. -/
def copyOnWrite (r : SpanRec) (handle : Handle) (s : State) : Option (FrameId × State) :=
  match newMapFrame r.vnode .map s with
  | none => none
  | some (f, s) =>
    let own := (r.pages.filter (fun p => p.2.isSealed)).map (fun p => (p.1, { p.2 with sharedOf := some r.handle }))
    let s := own.foldl (fun s p => match p.2.loc with
      | .frame g _ => updFrame g (fun x => { x with refs := x.refs + 1 }) s
      | _ => s) s
    let c := copyOpen r handle false (openPages r) s
    let r' : SpanRec := { r with handle := handle, shared := false, pages := own ++ lostPages r ++ c.1, acked := [], rounds := [], spare := none,
                                 spareOwed := none, reported := false, aliasOf := none }
    let s := { c.2 with spans := c.2.spans.put f r' }
    let s := (lostPages r).foldl (fun s p => addLost r.vnode handle r.span .pages (p.1.2.2 * r.geo.cap) s) s
    let s := deleteWhere r.vnode handle (fun e => decide (e.kind = kSpanTomb) && decide (e.span = r.span)) s
    some (f, bump .cowCopies (acceptInsert (dirEntry r.vnode handle r.span kSpan 0 f) s))

/-- The rows of a page's first `n` slots. -/
def pageRows (g : Geometry) (bs : List Byte) (n : Nat) : List StoredRow := (List.range n).map (slotRow g bs)

/-- What makes a span whole that the twin holds nothing of (R395): the record, the rows of each page that reads, and the digests of sealed
pages. Under OFF only the record goes. -/
def wholeMessages (s : State) (f : FrameId) : List PeerBody :=
  match spanAt s f with
  | none => []
  | some r =>
    let off := decide (r.geo.mirrorMode = 2)
    let im := spanImage s r
    let record := PeerBody.mirrorRecord (.inl (if off then im else
      { im with fills := [], pages := im.pages.filter (fun p => p.coded.isSome || p.lost) }))
    if off then [record]
    else record :: (sortBy (fun a b => decide (a.1.2.2 ≤ b.1.2.2)) r.pages).flatMap (fun p =>
      let first := p.1.2.2 * r.geo.cap
      let n := min (r.geo.pageCap p.1.2.2) (r.fill p.1.1 p.1.2.1 - first)
      if p.2.coded.isSome || !(pageGood s ⟨f, p.1.1, p.1.2.1, p.1.2.2⟩ p.2) then []
      else match pageContent s r.geo.fmt p.2.loc with
        | .bytes bs => .mirrorRows [⟨p.1.1, p.1.2.1, first, pageRows r.geo bs n⟩]
            :: (if p.2.isSealed then [.mirrorSeal p.1.1 p.1.2.1 p.1.2.2 p.2.digest] else [])
        | _ => [])

/-- Read the pages of a record that satisfy `p`; those that do not read are handled (R295, R296, R316). -/
def readPages (p : Page → Bool) (f : FrameId) (s : State) : State :=
  match spanAt s f with
  | none => s
  | some r => ((pagesOf (f, r)).filter (fun q => p q.2)).foldl (fun s q => readHeld q.1 s) s

/-- Send a span that the twin holds nothing of: its pages are read first. -/
def mirrorWhole (f : FrameId) (s : State) : State :=
  let s := match spanAt s f with
    | some r => if paired s r.vnode ∧ r.geo.mirrorMode ≠ 2 then readPages (fun x => x.coded.isNone) f s else s
    | none => s
  match spanAt s f with
  | none => s
  | some r => (wholeMessages s f).foldl (fun s body => toTwin r.vnode r.handle r.span body s) s

/-- What a copy-on-write sends to the twin of the member's record before its rows (R104, R395): as the copy will leave it. -/
def cowMessages (s : State) (r : SpanRec) (handle : Handle) : List (NodeId × Bool × PeerBody) :=
  if !paired s r.vnode then []
  else match copyOnWrite r handle s with
    | some (f, t) => (wholeMessages t f).map (fun b => ((vn s r.vnode).twin, true, b))
    | none => []

/-- Take the next stripe number for a contribution whose messages bear two tags; the last number ends them (R402). -/
def takeStripe (v : VId) (page : Option PageRef) (t0 t1 : BitVec 32) (s : State) : State :=
  let k := (vn s v).stripeNext
  let s := updVn v (fun n => { n with
    contributions := n.contributions ++ [⟨k, page, [t0, t1], false, false, none⟩]
    stripeNext := k + 1
    stripeExhausted := decide (k + 1 = 0xFFFFFFFF) }) s
  if k + 1 = 0xFFFFFFFF then logFrom v 0x0901 srcCore [] s else s

/-- Whether a sealed page is to be contributed to the next stripe (R402, R411): its span is CODE_SEALED, its node has a data slot, and no stripe holds
it or is to hold it. -/
def contributes (s : State) (p : PageRef) (r : SpanRec) (x : Page) : Bool :=
  let n := vn s r.vnode
  r.geo.codeSealed && !r.copy && !r.shared && !n.fenced && !n.stripeExhausted && x.isSealed && x.coded.isNone && pageGood s p x
    && n.codeSlot.any (fun k => decide (k ≤ 7)) && !(n.contributions.any (fun c => decide (c.page = some p)))

/-- Contribute a sealed page of a CODE_SEALED span to the next stripe (R402, R411); it is read first (R295, R316). -/
def contribute (p : PageRef) (s : State) : State :=
  let due (s : State) : Bool := match spanAt s p.record, pageAt s p with
    | some r, some x => contributes s p r x
    | _, _ => false
  let s := if due s then readHeld p s else s
  match spanAt s p.record, pageAt s p with
  | some r, some x =>
    let n := vn s r.vnode
    match n.codeset, n.codeSlot, pageFragment s r.geo.fmt x.loc with
    | some (_, ns), some slot, some frag =>
      if !(due s) then s
      else
        let t0 := s.nextTag
        let s := sendPeer r.vnode (ns.getD 8 0xFFFF) false r.handle r.span (.codeContrib n.stripeNext slot frag) none s
        let t1 := s.nextTag
        let s := sendPeer r.vnode (ns.getD 9 0xFFFF) false r.handle r.span (.codeContrib n.stripeNext slot frag) none s
        takeStripe r.vnode (some p) t0 t1 s
    | _, _, _ => s
  | _, _ => s

/-- Contribute what is due of a record that has come to this node (R402): by a takeover, a handoff or a copy-on-write. -/
def contributeAll (f : FrameId) (s : State) : State :=
  match spanAt s f with
  | none => s
  | some r => (pagesOf (f, r)).foldl (fun s p => contribute p.1 s) s

/-- The fill point from which a span is reported (R105). -/
def reportAt (g : Geometry) : Nat := g.spanLen * 15 / 16

/-- Send the report of R45 once (R105), and give up a lower span's spare once the span is full (R121). -/
def afterRows (rec : FrameId) (d : AppendDesc) (s : State) : State :=
  match spanAt s rec with
  | none => s
  | some r =>
    let s := if !r.reported ∧ d.heads.any (fun h => decide (reportAt r.geo ≤ r.fill d.layer h)) then
        let s := updSpan rec (fun r => { r with reported := true }) s
        match (vn s r.vnode).map with
        | some m => match homeUnder m r.handle with
          | some n => sendPeer r.vnode n false r.handle r.span .fillReport none s
          | none => s
        | none => s
      else s
    dropLowerSpare rec s

/-- The generation of the page that holds a token; 0 where it does not exist. -/
def tokenGen (s : State) (rec : FrameId) (layer head token : Nat) : BitVec 32 :=
  match spanAt s rec with
  | some r => match r.pages.at? (layer, head, token / r.geo.cap) with
    | some p => pageGen s p
    | none => 0
  | none => 0

/-- The fields of a reply that come from the record as it stands. -/
def outFrom (s : State) (rec : FrameId) (d : AppendDesc) (o : AppendOut) : AppendOut :=
  match spanAt s rec with
  | some r => { o with
      fill := r.fill d.layer d.head
      firstGen := tokenGen s rec d.layer d.head d.token
      lastGen := tokenGen s rec d.layer (d.head + d.headCount - 1) (d.token + d.rowCount - 1) }
  | none => o

/-- Apply a descriptor that has passed every check (R103, R104): the copy-on-write, the rows and what follows from them. -/
def applyRows (src : AppendSrc) (d : AppendDesc) (rec : FrameId) (r : SpanRec) (shared : Bool) (rows : List (List StoredRow))
    (cmp : List (Nat × Nat × Compared)) (s : State) : State :=
  let cow := shared && hasNew r d
  let target : Option (FrameId × State) := if cow then copyOnWrite r d.handle s else some (rec, s)
  match target with
  | none => answerAppend src d { status := stNoSpace } (bump .noSpaceRefusals s)
  | some (rec, s) =>
    let before := (spanAt s rec).getD r
    let w := writeHeads rec d before (d.heads.zip rows) s
    let s := w.1
    let rowsNew (h : Nat) : Nat := max (before.fill d.layer h) (d.token + d.rowCount) - before.fill d.layer h
    let total := (d.heads.map rowsNew).foldl (· + ·) 0
    let reps := (cmp.filter (fun c => c.2.2 = .same)).length
    let unc := (cmp.filter (fun c => c.2.2 = .uncompared)).length
    let s := bumpBy .appendRows total s
    let s := if reps = 0 then s else bumpBy .appendRepeats reps s
    let s := if unc = 0 then s else bumpBy .appendRepeatsUncompared unc s
    let s := if withoutTwin s before d then bump .soloAppends s else s
    let s := if cow then contributeAll rec s else s
    let s := if total ≠ 0 ∧ r.geo.mirrorMode = 2 then mirrorSpan rec s else s
    let s := afterRows rec d s
    let low := w.2.1 && decide (freeForUse s r.vnode = 0) && !(canDemote s r.vnode)
    let s := if low then logFrom r.vnode 0x0202 srcCore [(64, d.handle.toNat), (64, freeCount s r.vnode)] (bump .growLowWarnings s) else s
    let st := if low then stGrowLow else stOk
    answerAppend src d (outFrom s rec d ⟨st, 0, none, 0, cow, w.2.1, w.2.2, decide (unc ≠ 0), !cmp.isEmpty, 0, none, 0, 0,
      rowsNew d.head⟩) s

/-- The frame that the first new row of a descriptor is written to. -/
def firstFrame (rec : FrameId) (r : SpanRec) (d : AppendDesc) (s : State) : FrameId :=
  match d.heads.find? (fun h => decide (r.fill d.layer h < d.token + d.rowCount)) with
  | none => rec
  | some h =>
    let page := r.fill d.layer h / r.geo.cap
    if r.fill d.layer h % r.geo.cap = 0 then ((openPage rec d.layer h page s).map Prod.fst).getD rec
    else match (r.pages.at? (d.layer, h, page)).map Page.loc with
      | some (.frame f _) => f
      | _ => rec

/-- The failed write of R145: the second attempt fails too. -/
def linkFailed (f : FrameId) (s : State) : State :=
  logFrom 0 0x0301 (srcStack (frameStack f)) [(8, frameStack f), (8, framePc f % 32)] s

/-- The frame that a descriptor writes first; where it makes a member's own record, in the copies that the record then has. -/
def writtenFrame (rec : FrameId) (r : SpanRec) (shared : Bool) (d : AppendDesc) (s : State) : FrameId :=
  if shared && hasNew r d then
    match copyOnWrite r d.handle s with
    | some (f, t) => ((spanAt t f).map (fun r => firstFrame f r d t)).getD rec
    | none => rec
  else firstFrame rec r d s

/-- Apply a descriptor whose write may meet link errors (R145): the first transfer is sent again, and after the second failure the descriptor
completes with ST_UNCORRECTABLE, writing nothing. -/
def applyLinked (src : AppendSrc) (d : AppendDesc) (rec : FrameId) (r : SpanRec) (shared : Bool) (rows : List (List StoredRow))
    (cmp : List (Nat × Nat × Compared)) (links : Nat) (s : State) : State :=
  if hasNew r d ∧ links ≠ 0 then
    let f := writtenFrame rec r shared d s
    let s := bumpAt .stackLinkResends (frameStack f) 1 s
    if 2 ≤ links then answerAppend src d (outFrom s rec d { status := stUncorrectable }) (linkFailed f s)
    else applyRows src d rec r shared rows cmp s
  else applyRows src d rec r shared rows cmp s

/-- Send the rows of a SYNC descriptor and hold its layer and heads until every acknowledgement is in (R101, R396, R419). -/
def sendSync (src : AppendSrc) (bs : List Byte) (d : AppendDesc) (rec : FrameId) (r : SpanRec) (k : Knobs) (links : Nat)
    (msgs : List (NodeId × Bool × PeerBody)) (s : State) : State :=
  let j := addJob (.syncAppend src bs rec d.layer d.head d.headCount k links) s
  let s := { j.2 with holds := j.2.holds ++ holdsOf rec d j.1 }
  msgs.foldl (fun s m => sendPeer r.vnode m.1 m.2.1 r.handle r.span m.2.2 (some j.1) s) s

/-- Hold an append until the twin has acknowledged more rows (R397): what follows on its layer and heads waits behind it (R101). -/
def waitForLag (src : AppendSrc) (bs : List Byte) (d : AppendDesc) (rec : FrameId) (k : Knobs) (links : Nat) (s : State) : State :=
  let j := addJob (.lagAppend src bs rec k links) s
  { j.2 with holds := j.2.holds ++ holdsOf rec d j.1 }

/-- The pages that a descriptor's layer and heads hold. -/
def pagesNamed (r : SpanRec) (d : AppendDesc) : List ((Nat × Nat × Nat) × Page) :=
  r.pages.filter (fun p => decide (p.1.1 = d.layer) && decide (p.1.2.1 ∈ d.heads))

/-- Whether a head of a descriptor lacks the smoothing vector that the rotation needs (R111). -/
def unsmoothed (r : SpanRec) (d : AppendDesc) : Bool :=
  decide (r.geo.rotation = 4) && d.heads.any (fun h => !(r.smooth.has (d.layer, h)))

/-- The first head of a descriptor whose fill point lies below its token (R102). -/
def gapHead (r : SpanRec) (d : AppendDesc) : Option Nat := d.heads.find? (fun h => decide (r.fill d.layer h < d.token))

/-- Whether a descriptor names a lost page. -/
def namesLost (r : SpanRec) (d : AppendDesc) : Bool := (pagesNamed r d).any (fun p => decide (p.2.loc = .lost))

/-- Whether a descriptor names an open page that is under repair (R296). -/
def namesUnread (s : State) (r : SpanRec) (d : AppendDesc) : Bool :=
  (pagesNamed r d).any (fun p => !p.2.isSealed && (match p.2.loc with
    | .frame f _ => !(frameOf s f).ue.isEmpty
    | _ => false))

/-- Whether a descriptor's PAGE_GEN is not that of the page of its first token (R102). -/
def staleGen (s : State) (rec : FrameId) (d : AppendDesc) : Bool :=
  decide (d.pageGen ≠ 0) && decide (tokenGen s rec d.layer d.head d.token ≠ d.pageGen)

/-- What a descriptor that has passed its conversion reads by normal accesses before its comparison and its copy-on-write (R117, R127, R295): the
slots of its repeat rows, the open pages that are copied, and, where the twin gets the member's record, every page. -/
def readNeeded (rec : FrameId) (r : SpanRec) (d : AppendDesc) (cow : Bool) (s : State) : State :=
  let s := readRepeats r d s
  if !cow then s
  else readPages (fun x => (!x.isSealed && x.isPlain) || (paired s r.vnode && decide (r.geo.mirrorMode ≠ 2))) rec s

/-- The answer to a descriptor one of whose pages did not read (R296): ST_LOST where it is lost, and ST_RETRY_AFTER while it is repaired. -/
def readRefusal (s : State) (rec : FrameId) (r : SpanRec) (d : AppendDesc) : Option Status :=
  if namesLost r d then some stLost
  else if namesUnread s r d ∨ (repeatPages rec r d).any (fun p => (awaited s p).isSome) then some stRetryAfter
  else none

/-- The first repeat row that differs from what is stored (R117). -/
def conflict (cmp : List (Nat × Nat × Compared)) : Option (Nat × Nat × Compared) := cmp.find? (fun c => decide (c.2.2 = .differs))

/-- The checks of R102 from step 4 on, and the descriptor's effect: the comparison of step 8 and the copies read HBM first, and a page that does not
read answers as R296 says. `mirrored` says that its rows are acknowledged. DESIGN CHOICE (entry 76):
ST_RETRY_AFTER for an open page under repair (R296) follows the lost pages of step 5 and precedes PAGE_GEN. -/
def appendChecked (src : AppendSrc) (bs : List Byte) (d : AppendDesc) (rec : FrameId) (r : SpanRec) (shared : Bool) (k : Knobs)
    (mirrored : Bool) (u : Upsets) (s : State) : State :=
  let v := r.vnode
  let refuse (o : AppendOut) (s : State) : State := answerAppend src d (outFrom s rec d o) s
  if unsmoothed r d then refuse { status := stDenied } s
  else match gapHead r d with
  | some h =>
    let o := outFrom s rec d { status := stDenied }
    answerAppend src d { o with fillHead := some h, fill := r.fill d.layer h } s
  | none =>
    if namesLost r d then refuse { status := stLost } s
    else if namesUnread s r d then
      let e := takeEstimate s
      refuse { status := stRetryAfter, hint := e.1 } e.2
    else if staleGen s rec d then refuse { status := stStaleGen } s
    else match convertRows r d bs with
    | none => refuse { status := stBadParam, bad := 0xFFFF } (bump .appendNonfinite s)
    | some rows =>
      let s := if mirrored then s else readNeeded rec r d (shared && hasNew r d) s
      let r := (spanAt s rec).getD r
      match (if mirrored then none else readRefusal s rec r d) with
      | some st =>
        let e := takeEstimate s
        refuse { status := st, hint := e.1 } e.2
      | none =>
      let cmp := repeats s r d rows
      match conflict cmp with
      | some (h, t, _) =>
        let s := logFrom v 0x0201 srcCore [(64, d.handle.toNat), (32, d.span), (16, d.layer), (8, h), (32, t)] (bump .appendConflicts s)
        refuse { status := stDenied } s
      | none =>
        let cow := shared && hasNew r d
        let n := newPages r d
        let c := if cow then cowNeed r else 0
        let f := freeForUse s v
        let sp := if cow then 0 else b2n r.spare.isSome
        if cow ∧ refsFull s r then refuse { status := stDenied } s
        else if f + sp < n + c ∨ f < c then
          if demoting s v then
            let e := takeEstimate s
            refuse { status := stRetryAfter, hint := e.1 } e.2
          else refuse { status := stNoSpace } (bump .noSpaceRefusals s)
        else match (if cow then insertRefusal s (dirEntry v d.handle d.span kSpan 0 0) else none) with
        | some st => refuse { status := st } (noteRefused (dirEntry v d.handle d.span kSpan 0 0) st s)
        | none => appendMirror src bs d rec r shared k mirrored rows cmp u.linkFails s
where
  /-- Mirror as the span's mode asks, and apply. -/
  appendMirror (src : AppendSrc) (bs : List Byte) (d : AppendDesc) (rec : FrameId) (r : SpanRec) (shared : Bool) (k : Knobs)
      (mirrored : Bool) (rows : List (List StoredRow)) (cmp : List (Nat × Nat × Compared)) (links : Nat) (s : State) : State :=
    let cow := shared && hasNew r d
    let q : SpanRec := { r with handle := d.handle, acked := if cow then [] else r.acked }
    let msgs := (if cow then cowMessages s r d.handle else []) ++ (if shared && !cow then [] else rowMessages s q d rows)
    if msgs.isEmpty ∨ mirrored then applyLinked src d rec r shared rows cmp links s
    else if r.geo.mirrorMode = 0 then sendSync src bs d rec q k links msgs s
    else if overLag k r d && !cow then waitForLag src bs d rec k links s
    else
      let s := msgs.foldl (fun s m => match m.2.2 with
        | .copyRows _ => sendPeer r.vnode m.1 m.2.1 d.handle r.span m.2.2 none s
        | b => if r.geo.mirrorMode = 1 then updVn r.vnode (fun n => { n with mirrorQueue := n.mirrorQueue ++ [(d.handle, r.span, b)] }) s
          else sendPeer r.vnode m.1 m.2.1 d.handle r.span b none s) s
      applyLinked src d rec r shared rows cmp links s

/-- Steps 3 and on of R102. A search that meets an update holds the descriptor (R85); a hold on its layer and heads does too, and an
earlier descriptor that is held (R101). `order` is the place of a descriptor that was held. -/
def appendFrom (src : AppendSrc) (i : Instr) (bs : List Byte) (k : Knobs) (mirrored : Bool) (order : Option Nat) (u : Upsets) (s : State) :
    State :=
  let d := readAppend bs
  let v := srcVnode s src
  if behindHeld s order v d then deferAt order .behind i k s
  else
  let r := findSpanFor order.isSome v d.handle d.span s
  let s := r.2
  match r.1 with
  | .transient =>
    let p := bankPair d.handle
    if pairBusy s p then deferAt order (.bank p.1 p.2) i k s else answerAppend src d { status := stMissTransient } s
  | .stop rep => answerAppend src d { status := rep.status, node := rep.node, hint := rep.hint } s
  | .found rec shared => match spanAt s rec with
    | none => answerAppend src d { status := stMiss } s
    | some q =>
      match appendGeometry q.geo d bs.length with
      | some o => answerAppend src d (outFrom s rec d { status := stBadParam, bad := o }) s
      | none =>
        match (if mirrored then none else heldHead s rec d) with
        | some h => deferAt order (.hold rec d.layer h) i k s
        | none =>
          if !mirrored && shared && hasNew q d && cowPending s v d then deferAt order .behind i k s
          else appendChecked src bs d rec q shared k mirrored u s

/-- APPEND (R102): steps 1 and 2, and then the rest. -/
def appendMsgRow (m : Msg) (payload : List Byte) (u : Upsets) (s : State) : Res :=
  let k := msgKnobs s m
  onMsg m opAppend (fun p => decide (p = payload)) (fun s =>
    if !(hasPeer s m.vnode m.sender) then rejectMsg m.vnode m.sender m.qpn m.msn stDenied s
    else
      let d := readAppend payload
      if isFenced s m.vnode m.sender ∨ selfFenced s m.vnode then
        answerAppend (.msg m) d { status := stFenced } (bumpV .fencedAnswers m.vnode s)
      else match appendStep1 payload with
      | some _ => answerAppend (.msg m) d { status := stBadParam } s
      | none =>
        if (mapFor s m.vnode m.mapEpoch).isNone then
          answerAppend (.msg m) d { status := stStaleMap } (bumpV .staleMapAnswers m.vnode s)
        else appendFrom (.msg m) (.append m payload u) payload k false none u (applyDirUpsets u s)) s

/-- KV_APPEND (R98): the descriptor and its rows are the command's parameters. -/
def kvAppendRow (c : Cmd) (payload : List Byte) (u : Upsets) (s : State) : Res :=
  runVerb c (fun s =>
    match appendStep1 payload with
    | some o => .later (answerAppend (.cmd c) (readAppend payload) { status := stBadParam, bad := o } s)
    | none =>
      if c.hdr.paramLen.toNat ≠ payload.length then .now (Reply.bad 12) s
      else .later (appendFrom (.cmd c) (.kvAppend c payload u) payload (knobsOf s c) false none u (applyDirUpsets u s))) s

/-! ## The spare and the seal -/

/-- The record whose spare was taken first and is still owed, among those whose virtual node has a FREE frame (R123, R382). -/
def owedFirst (s : State) : Option FrameId :=
  ((s.spans.filterMap (fun p => if freeCount s p.2.vnode = 0 then none else p.2.spareOwed.map (fun n => (n, p.1)))).foldl (fun acc x => match acc with
    | none => some x
    | some y => if x.1 < y.1 then some x else some y) none).map (fun x => x.2)

/-- SPARE_REPLENISH (R123). -/
def execSpareReplenish (s : State) : Res :=
  onNode (fun s => match owedFirst s with
    | some f => takeSpare f s
    | none => s) s

/-- Count a sealed page for CODEC.SAMPLE (R462). -/
def samplePage (fmt : Nat) (payload : List Byte) (s : State) : State :=
  if !compressible fmt then s
  else { s with tier := { s.tier with samples := s.tier.samples.upd fmt (0, []) (fun x =>
    (min (2 ^ 32 - 1) (x.1 + 1), (payloadExps fmt payload).foldl (fun t e => t.upd e 0 (fun n => min (2 ^ 64 - 1) (n + 1))) x.2)) } }

/-- Seal a full page (R62, R64, R119): the page is read by normal accesses (R295), then come digest, SEAL_EPOCH and state; the twin learns of it by
MIRROR_SEAL and, under OFF, by the changed record (R263, R395), and it joins the code set. A page that does not read is handled under R296 and
queued again while its repair is awaited. DESIGN CHOICE (entry 107): the seal counts as a read for DEMOTE_MIN_AGE_MS (R304). -/
def sealPage (p : PageRef) (s : State) : State :=
  match spanAt s p.record, pageAt s p with
  | some r, some x => match x.loc with
    | .frame f _ =>
      let c := readFrameNormal f s
      if x.isSealed ∨ (frameOf s f).state ≠ .open_ then s
      else if !c.1 then (if (awaited c.2 p).isSome then { c.2 with sealQueue := c.2.sealQueue ++ [⟨p, s.work⟩] } else c.2)
      else
        let s := c.2
        let bs := readFrame s f
        let dg := pageDigest bs
        let ep := (vn s r.vnode).pairEpoch
        let h := readHeader (bs.drop annexAt)
        let s := writeHeader f { h with state := 3, sealEpoch := ep.toNat, digest := dg } s
        let s := setFrameState f .sealed s
        let s := updPage p (fun x => { x with isSealed := true, digest := dg, sealEpoch := ep, lastRead := s.pw.uptime }) s
        let s := samplePage r.geo.fmt (bs.take annexAt) (bump .pagesSealed s)
        let s := if r.copy ∨ r.shared then s
          else
            let s := if r.geo.mirrorMode = 2 then mirrorSpan p.record s else s
            toTwin r.vnode r.handle r.span (.mirrorSeal p.layer p.head p.page dg) s
        contribute p s
    | _ => s
  | _, _ => s

/-- PAGE_SEAL (R119): the page that filled first. -/
def pageSealRow (s : State) : Res :=
  onNode (fun s => match s.sealQueue with
    | [] => s
    | i :: r => settle (sealPage i.page { s with sealQueue := r, work := i.work })) s

/-! ## KV.SMOOTH (R112, R454) -/

/-- Whether a smoothing element is admissible: normal, with a magnitude in the range. -/
def sigmaOk (x : F32) : Bool :=
  let e := x.toNat / 2 ^ 23 % 256
  decide (e ≠ 0) && decide (e ≠ 255) && decide (pow2 (-32) ≤ f32mag x) && decide (f32mag x ≤ pow2 32)

/-- Hold appends on a layer and head of every span of a handle here, and report the greatest fill point; rows of an append that waits for
a twin count as written. -/
def holdLayer (v : VId) (h : Handle) (l hd : Nat) (s : State) : Nat × State :=
  let rs := recordsOf s v h
  (rs.foldl (fun n p => max n (max (p.2.fill l hd) (b2n (heldAt s p.1 l hd)))) 0,
    { s with holds := s.holds ++ rs.map (fun p => ⟨p.1, l, hd, .smooth⟩) })

/-- Release what KV.SMOOTH holds of a layer and head. -/
def freeLayer (v : VId) (h : Handle) (l hd : Nat) (s : State) : State :=
  let rs := (s.spans.filter (fun p => decide (p.2.vnode = v) && decide (p.2.handle = h))).map Prod.fst
  { s with holds := s.holds.filter (fun x => !(decide (x.record ∈ rs) && decide (x.layer = l) && decide (x.head = hd) && decide (x.by_ = .smooth))) }

/-- The node that receives a copy of a virtual node's spans of a handle (R417, R423): the destination of a handoff, or a bring-in's. -/
def copyNodes (s : State) (v : VId) (h : Handle) : List (NodeId × Bool) :=
  let n := vn s v
  ((n.handoffs.filter (fun x => decide (x.handle = h) && x.isSource)).map (fun x => (x.other, false)))
    ++ (if n.pairState = .copying ∧ n.pairSource then [(n.twin, true)] else [])

/-- Install a smoothing vector in every span of a handle here, and in the copies of them that are being made. -/
def installSigma (v : VId) (h : Handle) (l hd : Nat) (sigma : List (BitVec 32)) (s : State) : State :=
  let rs := s.spans.filter (fun p => decide (p.2.vnode = v) && decide (p.2.handle = h) && !p.2.shared)
  let s := rs.foldl (fun s p => mirrorSpan p.1 (updSpan p.1 (fun r => { r with smooth := r.smooth.put (l, hd) sigma }) s)) s
  (copyNodes s v h).foldl (fun s d => sendPeer v d.1 d.2 h 0 (.smoothInstall l hd (some sigma)) none s) s

/-- The end of a KV.SMOOTH: install and keep the vector where every report was zero, and release the holds of every node asked. -/
def smoothEnd (v : VId) (h : Handle) (l hd : Nat) (asked : List NodeId) (sigma : Option (List (BitVec 32))) (s : State) : State :=
  let s := match sigma with
    | some x =>
      let s := installSigma v h l hd x s
      match homeSeq s v h with
      | some f => mirrorSeq f (updSeq f (fun r => { r with smooth := r.smooth.put (l, hd) x }) s)
      | none => s
    | none => s
  let s := freeLayer v h l hd s
  asked.foldl (fun s n => sendPeer v n false h 0 (.smoothInstall l hd sigma) none s) s

/-- KV_SMOOTH: phase 1 asks every other span node to report and hold. -/
def execKvSmooth (c : Cmd) (handle : Handle) (layer : BitVec 16) (head : BitVec 8) (sigma : List (BitVec 32)) (s : State) : Res :=
  runVerb c (fun s =>
    let bad := firstBad c [(decide (c.hdr.paramLen.toNat < 16), 12), (badHandle handle, 64)]
    let v := vnodeOf s c
    match bad with
    | some o => .now (Reply.bad o) s
    | none =>
      let r := findHome c handle s
      let s := r.2
      match r.1 with
      | .transient => holdForBank (.kvSmooth c handle layer head sigma) c handle s
      | .stop rep => .now rep s
      | .found f => match s.seqs.at? f with
        | none => .refuse stMiss s
        | some q =>
          if seqBusy s v handle then .later (defer (.record v handle) (.kvSmooth c handle layer head sigma) (knobsOf s c) s)
          else match firstBad c [(decide (c.hdr.paramLen.toNat ≠ 16 + 4 * q.geo.dim) || decide (sigma.length ≠ q.geo.dim), 12),
              (decide (q.geo.heads ≤ head.toNat), 77), (decide (q.geo.layers ≤ layer.toNat), 78)] with
          | some o => .now (Reply.bad o) s
          | none =>
            match (List.range sigma.length).find? (fun i => !(sigmaOk (sigma.getD i 0))) with
            | some i => .now (Reply.bad (80 + 4 * i)) s
            | none =>
              let me := (vn s v).nodeId
              let others := q.places.vals.eraseDups.filter (fun n => n ≠ me)
              let hl := holdLayer v handle layer.toNat head.toNat s
              if others.isEmpty then
                let ok := decide (hl.1 = 0)
                let s := smoothEnd v handle layer.toNat head.toNat [] (if ok then some sigma else none) hl.2
                .now (Reply.st (if ok then stOk else stDenied)) s
              else
                let j := addJob (.smooth c v handle layer.toNat head.toNat sigma others others (decide (hl.1 ≠ 0))) hl.2
                .later (others.foldl (fun s n => sendPeer v n false handle 0 (.smoothHold layer.toNat head.toNat) (some j.1) s) j.2)) s

/-- A span node has reported for KV.SMOOTH. -/
def smoothReport (id : Nat) (n : NodeId) (fill : Nat) (s : State) : State :=
  match s.jobs.at? id with
  | some (.smooth c v h l hd sigma waiting asked nonzero) =>
    let w := waiting.filter (fun x => x ≠ n)
    let nz := nonzero || decide (fill ≠ 0)
    if w.isEmpty then
      let s := smoothEnd v h l hd asked (if nz then none else some sigma) (endJob id s)
      complete c (Reply.st (if nz then stDenied else stOk)) s
    else setJob id (.smooth c v h l hd sigma w asked nz) s
  | _ => s

/-- SMOOTH_HOLD (R112). -/
def execSmoothHold (h : PeerHdr) (layer : BitVec 16) (head : BitVec 8) (s : State) : Res :=
  onPeer h .other (fun s =>
    let r := holdLayer h.vnode h.handle layer.toNat head.toNat (freeLayer h.vnode h.handle layer.toNat head.toNat s)
    ackPeer h stOk r.1 r.2) s

/-! ## SPAN.ALIAS (R90, R126, R453) -/

/-- Copy the pages of a span into a shared record: full pages are sealed with their own digests (R126). -/
def copyShared (r : SpanRec) (handle : Handle) : List ((Nat × Nat × Nat) × Page) → State → List ((Nat × Nat × Nat) × Page) × State
  | [], s => ([], s)
  | (k, p) :: ps, s =>
    match pageContent s r.geo.fmt p.loc with
    | .bytes bs =>
      let full := p.isSealed || decide (k.2.2 * r.geo.cap + r.geo.pageCap k.2.2 ≤ r.fill k.1 k.2.1)
      match copyPage r k bs handle true (if full then .sealed else .open_) s with
      | none => copyShared r handle ps s
      | some (f, s) =>
        let dg := if full then pageDigest (readFrame s f) else []
        let ep := (vn s r.vnode).pairEpoch
        let s := if full then
            let h := readHeader ((readFrame s f).drop annexAt)
            writeHeader f { h with digest := dg, sealEpoch := ep.toNat } s
          else s
        let rest := copyShared r handle ps s
        ((k, ⟨.frame f (genOf s f), full, dg, if full then ep else 0, none, false, none, s.pw.uptime, false, none⟩) :: rest.1, rest.2)
    | _ => copyShared r handle ps s

/-- The handle of a shared record: the alias handle with the ignored member bits as zero (R126). -/
def aliasKey (p : AliasBlk) : Handle := BitVec.ofNat 64 (p.aliasHandle.toNat / 2 ^ 20 * 2 ^ 20 + (p.aliasHandle.toNat % 2 ^ 20 &&& p.memberMask.toNat))

/-- The entry of an alias (R90). -/
def aliasEntry (v : VId) (p : AliasBlk) (rec : FrameId) : DirEntry :=
  aliasEntryOf v (aliasKey p) p.span.toNat p.memberMask (if p.priority = 0 then 0x80 else p.priority) rec

/-- Complete a command once an entry is valid (R126). -/
def whenEntered (c : Cmd) (e : DirEntry) (s : State) : State := (addJob (.entry c e) (acceptInsert e s)).2

/-- SPAN_ALIAS, which completes once its entry is valid. Pages that are packed or in flash are expanded into the copies; one that cannot be read ends the command. -/
def spanAliasRow (c : Cmd) (p : AliasBlk) (s : State) : Res :=
  runVerb c (linkDone c <| withParams c 32 [(badHandle p.source, 64),
      (badHandle p.aliasHandle || decide (aliasKey p ≠ p.aliasHandle) || decide (p.aliasHandle.toNat / 2 ^ 20 ≠ p.source.toNat / 2 ^ 20), 72),
      (decide (p.priority ≠ 0) && (decide (p.priority.toNat < 0x40) || decide (0xBF < p.priority.toNat)), 84)] (fun s =>
    let v := vnodeOf s c
    let r := findSpan v p.source p.span.toNat s
    let s := r.2
    match r.1 with
    | .transient => holdForBank (.spanAlias c p) c p.source s
    | .stop rep => .now rep s
    | .found rec shared => match spanAt s rec with
      | none => .refuse stMiss s
      | some q =>
        let closing : Bool := ((homeSeq s v p.source).bind (fun f => s.seqs.at? f)).any (fun x => x.closing)
        let s := if shared || closing then s else readPages (fun _ => true) rec s
        let q := (spanAt s rec).getD q
        let unreadable := q.pages.find? (fun x => match pageContent s q.geo.fmt x.2.loc with
          | .bytes _ => false
          | _ => true)
        if shared ∨ closing then .refuse stMiss s
        else if q.pages.any (fun x => decide (x.2.loc = .lost)) then .refuse stLost s
        else if (q.pages.findSome? (fun x => x.2.poison)).isSome then .refuse (((q.pages.findSome? (fun x => x.2.poison)).map Poison.status).getD stUncorrectable) s
        else if unreadable.isSome ∨ (pagesOf (rec, q)).any (fun x => (awaited s x.1).isSome) then let e := takeEstimate s; .now (Reply.retry e.1) e.2
        else match insertRefusal s (aliasEntry v p 0) with
          | some st => .refuse st (noteRefused (aliasEntry v p 0) st s)
          | none =>
            if freeForUse s v < q.pages.length + 1 then .refuse stNoSpace (bump .noSpaceRefusals s)
            else match newMapFrame v .map s with
              | none => .refuse stNoSpace (bump .noSpaceRefusals s)
              | some (f, s) =>
                let cp := copyShared q (aliasKey p) q.pages s
                let q' : SpanRec := { q with handle := aliasKey p, shared := true, pages := cp.1, acked := [], rounds := [], spare := none,
                                             spareOwed := none, reported := true,
                                             aliasOf := some (p.memberMask, (aliasEntry v p f).prio) }
                .later (whenEntered c (aliasEntry v p f) { cp.2 with spans := cp.2.spans.put f q' }))) s

end Sys2Proof.Machine
end

