-- ==== Sys2Proof/Machine/Score.lean ====
section
/-! DEFINITION. The arithmetic that runners and engines share: runs, dot products, score codes, and effective weights
(R192–R198, R203, R257). -/

namespace Sys2Proof.Machine

/-- The run lengths of R194. -/
def runLengths (fmt dim : Nat) : List Nat :=
  let m := if 5 ≤ fmt ∧ fmt ≤ 7 then 64 else 128
  if dim = 96 then [64, 32]
  else (List.range (ceilDiv dim m)).map (fun i => min m (dim - i * m))

/-- The first channel of each run, with its length. -/
def runsOf (fmt dim : Nat) : List (Nat × Nat) :=
  ((runLengths fmt dim).foldl (fun (acc : List (Nat × Nat) × Nat) n => (acc.1 ++ [(acc.2, n)], acc.2 + n)) ([], 0)).1

/-- A row of key or value codes with its scales. -/
structure CodeRow where
  codes : List Nat
  scale : BitVec 16
  groups : List Byte
deriving DecidableEq, Repr

/-- The group exponent code of a channel; 127 where the format has no group scales. -/
def CodeRow.groupAt (r : CodeRow) (fmt d : Nat) : Nat := if groupsOf fmt r.codes.length = 0 then 127 else (r.groups.getD (d / 64) 127).toNat

/-- The row's scale. -/
def CodeRow.scaleRat (r : CodeRow) : Rat := (bf16.decode r.scale.toNat).rat

/-- The value of the code of a channel. -/
def CodeRow.codeAt (r : CodeRow) (fmt d : Nat) : Rat := (elemVal fmt (r.codes.getD d 0)).rat

/-- The dequantised elements (R113). -/
def CodeRow.deq (r : CodeRow) (fmt : Nat) : List F32 :=
  (List.range r.codes.length).map (fun d => dequant fmt (r.codes.getD d 0) r.scaleRat (r.groupAt fmt d))

/-- The exact products of an operand query with the codes of some channels of a key row. -/
def dotTerms (fmt : Nat) (q : List F32) (k : CodeRow) (first n : Nat) : List FV :=
  (List.range n).map (fun i => (F32.val (q.getD (first + i) 0)).mul (FV.ofRat (k.codeAt fmt (first + i))))

/-- Add the runs of the channels from `lo` up to `hi` of a key row into a dot product (R193). The run sums are formed with no less precision
than FP32, their order not fixed (R220). -/
def addRuns (tick salt fmt : Nat) (q : List F32) (k : CodeRow) (lo hi : Nat) (dot : F32) : F32 :=
  (runsOf fmt k.codes.length).foldl (fun acc u =>
    let a := max lo u.1
    let b := min hi (u.1 + u.2)
    if b ≤ a then acc
    else
      let run := runSum tick (salt * 8 + u.1 / 32) (dotTerms fmt q k a (b - a))
      F32.of ((F32.val acc).add ((FV.ofRat (e8m0 (k.groupAt fmt u.1))).mul run))) dot

/-- The FP32 dot product of an operand query with a key row, run by run (R193). -/
def keyDot (tick salt fmt : Nat) (q : List F32) (k : CodeRow) : F32 := addRuns tick salt fmt q k 0 k.codes.length 0

/-- The score of a dot product: the slot's factor applied last (R193). -/
def scoreOfDot (mult : F32) (k : CodeRow) (dot : F32) : F32 := f32mul (f32mul mult (F32.ofRat k.scaleRat)) dot

/-- The score of an operand row and a key row (R193). -/
def scoreOf (tick salt fmt : Nat) (mult : F32) (q : List F32) (k : CodeRow) : F32 := scoreOfDot mult k (keyDot tick salt fmt q k)

/-- The magnitudes of a score's products over some channels (R254, R257). -/
def magTerms (fmt : Nat) (mult : F32) (q : List F32) (k : CodeRow) (lo hi : Nat) : List FV :=
  (((q.zip (k.deq fmt)).drop lo).take (hi - lo)).map (fun p => (((F32.val mult).mul (F32.val p.1)).mul (F32.val p.2)).abs)

/-- Σ_d of the magnitudes of a score's products (R254): an FP32 sum whose order is not fixed (R259). -/
def scoreMag (tick salt fmt : Nat) (mult : F32) (q : List F32) (k : CodeRow) : F32 :=
  freeDot tick salt (magTerms fmt mult q k 0 k.codes.length)

/-- exponent_for (R198). -/
def exponentFor (a : F32) : Int :=
  let m := f32mag a
  if m = 0 then -15 else max (-126) (min 127 (clog2 m - 15))

/-- The FP16 code of a score under a delayed exponent, and whether it saturates (R197, R203), as an infinite one does. -/
def scoreCode (e : Int) (x : F32) : Nat × Bool :=
  let m := f32mag x / pow2 e
  match F32.val x with
  | .inf neg => (if neg then 0xFC00 else 0x7C00, true)
  | _ =>
  if 65520 ≤ m then (if F32.rat x < 0 then 0xFC00 else 0x7C00, true)
  else (fp16.encode (fp16.round (match F32.val x with
    | .fin n _ => .fin n m
    | v => v)), false)

/-- The decoded score of an FP16 code (R197). -/
def scoreDecode (e : Int) (code : Nat) : F32 :=
  match fp16.decode code with
  | .fin n m => F32.of (.fin n (m * pow2 e))
  | v => F32.of v

/-- A score as stored and decoded again: in FP16 under a delayed exponent, or in FP32. -/
def storedScore (fp32 : Bool) (e : Int) (x : F32) : F32 := if fp32 then x else scoreDecode e (scoreCode e x).1

/-- A weight rounded to FP16 (R188, R189). -/
def weight16 (w : F32) : F32 := F32.of (fp16.round (F32.val w))

/-- The effective weight of a token for a channel (R195). -/
def effWeight (fmt : Nat) (w : F32) (v : CodeRow) (d : Nat) : F32 :=
  f32mul (f32mul w (F32.ofRat v.scaleRat)) (F32.ofRat (e8m0 (v.groupAt fmt d)))

/-- The exact product that a token adds to an output channel (R195). -/
def valueTerm (fmt : Nat) (w : F32) (v : CodeRow) (d : Nat) : FV := (F32.val (effWeight fmt w v d)).mul (FV.ofRat (v.codeAt fmt d))

/-- The key or value row of a slot of a frame's content. -/
def codeRow (g : Geometry) (frame : List Byte) (t : Nat) (value : Bool) : CodeRow :=
  let r := slotRow g frame t
  if value then ⟨unpackElems g.fmt g.dim r.valueBytes, r.valueScale, r.valueGroups⟩
  else ⟨unpackElems g.fmt g.dim r.keyBytes, r.keyScale, r.keyGroups⟩

end Sys2Proof.Machine
end

