-- ==== Sys2Proof/Machine/Runner.lean ====
section
/-! DEFINITION. Runners: the runner commands, refresh and throttling (R132–R171). -/

namespace Sys2Proof.Machine

/-- A runner. -/
def runnerAt (s : State) (stack pc : Nat) : Runner := s.runners.atD (stack, pc) Runner.reset

/-- Change a runner. -/
def updRunner (stack pc : Nat) (f : Runner → Runner) (s : State) : State :=
  { s with runners := s.runners.upd (stack, pc) Runner.reset f }

/-- A stack's controller. -/
def stackAt (s : State) (n : Nat) : Stack := s.hbmStacks.atD n Stack.reset

/-- Change a stack's controller. -/
def updStack (n : Nat) (f : Stack → Stack) (s : State) : State := { s with hbmStacks := s.hbmStacks.upd n Stack.reset f }

/-! ## Status words (R151) -/

/-- Change the status of a sequence. -/
def updRnStatus (stack pc : Nat) (tag : BitVec 8) (f : RnStatus → RnStatus) (s : State) : State :=
  updRunner stack pc (fun r => { r with seqs := r.seqs.upd tag RnStatus.zero f }) s

/-- The status word. DESIGN CHOICE (entry 83): STEPS_DONE saturates. -/
def rnStatusWord (tag : BitVec 8) (x : RnStatus) : BitVec 64 :=
  BitVec.ofNat 64 (word [(56, tag.toNat), (32, min 65535 x.ceCount), (31, b2n x.ue), (30, b2n x.regUe), (29, b2n x.linkErr),
    (28, b2n x.sat), (27, b2n x.aborted), (24, x.throttle), (0, min (2 ^ 24 - 1) x.steps)])

/-! ## Sequences (R147, R161, R165, R166) -/

/-- Whether a sequence runs on a runner: a write sequence runs from its first write command to RN_STATUS or RN_ABORT of its tag
(DESIGN CHOICE, entry 84). -/
def Runner.runs (r : Runner) : Bool := r.live.any (fun q => !q.2.ended)

/-- Refreshes owed are issued once no sequence runs (R161). -/
def issueOwed (stack pc : Nat) (s : State) : State :=
  if (runnerAt s stack pc).runs then s else updStack stack (fun x => { x with owed := x.owed.del pc }) s

/-- Change a sequence that a runner holds. -/
def setSeq (stack pc : Nat) (tag : BitVec 8) (q : RnSeq) (s : State) : State :=
  updRunner stack pc (fun r => { r with live := r.live.put tag q }) s

/-- Whether a sequence has ended on an error or an abort: its later commands do nothing. -/
def seqEnded (s : State) (stack pc : Nat) (tag : BitVec 8) : Bool :=
  match (runnerAt s stack pc).live.at? tag with
  | some q => q.ended
  | none => false

/-- End a sequence on an error: its status says why, and the request that it serves completes with ST_UNCORRECTABLE (R165, R166). -/
def failSeq (stack pc : Nat) (tag : BitVec 8) (mark : RnStatus → RnStatus) (s : State) : State :=
  let s := updRnStatus stack pc tag mark s
  match (runnerAt s stack pc).live.at? tag with
  | none => s
  | some q =>
    let s := setSeq stack pc tag { q with ended := true } s
    issueOwed stack pc (match q.req with
      | some id => failReq id stUncorrectable 0 s
      | none => s)

/-- The sequences that a runner holds in a context, a wide query being held in both. -/
def seqsIn (s : State) (stack pc ctx : Nat) : List (BitVec 8) :=
  ((runnerAt s stack pc).live.filter (fun q => !q.2.ended && (q.2.wide || decide (q.2.ctx = ctx)))).map Prod.fst

/-- A register error (R166): a double one ends every sequence held in the affected context. -/
def meetReg (e : RegUpset) (s : State) : State :=
  let s := bumpAt (if e.double then .runnerRegUe else .runnerRegCe) e.stack 1 s
  if e.double then (seqsIn s e.stack e.pc e.ctx).foldl (fun s t => failSeq e.stack e.pc t (fun x => { x with regUe := true }) s) s
  else s

/-- The register errors that a command meets: false where its own sequence has ended. -/
def meetRegs (stack : Nat) (k : RnCmd) (u : Upsets) (s : State) : Bool × State :=
  let s := (k.regs ++ u.regs).foldl (fun s e => meetReg e s) s
  (!(seqEnded s stack k.pc.toNat k.seqTag), s)

/-! ## Encoding (R148, R149) -/

/-- What no scheduler issues: a reserved field that is not zero, a reserved format, dimension or score format, columns out of order, a
slot limit above 256, a page row that is not the row's own. -/
def rnMalformed (k : RnCmd) : Bool :=
  decide (k.rsv ≠ 0) || decide (k.colLast < k.colFirst) || decide (2 ≤ k.scoreFmt.toNat) || decide (9 < k.format.toNat)
    || decide (5 < k.headDim.toNat) || decide (256 < k.slotLimit.toNat)
    || decide (k.pageRow.toNat ≠ pageRowOf k.sid.toNat k.bg.toNat k.ba.toNat k.row.toNat)

/-- Whether a command's address fields are read. -/
def rnAddressed (op : Nat) : Bool := decide (op ∈ [2, 3, 5, 7, 8, 9])

/-- Whether a command is never issued. -/
def rnNeverIssued (op : Nat) (k : RnCmd) : Bool :=
  if rnAddressed op then rnMalformed k else decide (k.rsv ≠ 0) || decide (2 ≤ k.scoreFmt.toNat)

/-- Whether an earlier command of a runner waits (R150). -/
def runnerHeld (s : State) (stack pc : Nat) : Bool := s.deferred.any (fun d => decide (d.why = .runner stack pc))

/-- Run a runner command that the scheduler can issue. At throttle level 3 no row is activated (R167, R169): such a command waits, and so do
those behind it, which a runner executes in issue order (R150). -/
def onRunner (op : Nat) (stack : BitVec 3) (k : RnCmd) (i : Instr) (f : State → State) (s : State) : Res :=
  if rnNeverIssued op k then .fault (.runnerEncoding op)
  else onNode (fun s =>
    if runnerHeld s stack.toNat k.pc.toNat || (rnAddressed op && decide (throttleOf s stack.toNat = 3)) then
      defer (.runner stack.toNat k.pc.toNat) i s.knobs s
    else f s) s

/-- The address of a command's first column, and the bytes of its sweep. -/
def sweep (stack : Nat) (k : RnCmd) : Nat × Nat :=
  (rowAddr stack k.pc.toNat k.sid.toNat k.bg.toNat k.ba.toNat k.row.toNat + 64 * k.colFirst.toNat, 64 * (k.colLast.toNat - k.colFirst.toNat + 1))

/-- The rows of a command's query. -/
def qrowsOf (k : RnCmd) : List Nat := List.range (k.qrows.toNat + 1)

/-- The rows that a step serves, by context and row: those of its own context, or all that the contexts hold of a wide query (R134). -/
def servedRows (k : RnCmd) (r : Runner) : List (Nat × Nat) :=
  if k.wide then r.contexts.keys else (qrowsOf k).map (fun i => (k.ctx.toNat, i))

/-- The query row of a row of a context. -/
def queryRow (k : RnCmd) (x : Nat × Nat) : Nat := if k.wide then 16 * x.1 + x.2 else x.2

/-! ## Steps -/

/-- Count a command that activated a row, at the stack's present throttle level; one that an error ended counts too (DESIGN CHOICE,
entry 83). -/
def stepDone (stack : Nat) (k : RnCmd) (s : State) : State :=
  let l := throttleOf s stack
  updRnStatus stack k.pc.toNat k.seqTag (fun x => { x with steps := x.steps + 1, throttle := max x.throttle l })
    (bumpAt .runnerSteps stack 1 s)

/-- Read a sweep for a sequence (R165): corrections count in its status word, and an uncorrectable codeword ends it and its request before the
treatment of the page begins. -/
def readSweep (w : Reader) (stack : Nat) (k : RnCmd) (s : State) : Bool × State :=
  let a := sweep stack k
  let n := (correctedIn s a.1 a.2).length
  let r := readCodewords w a.1 a.2 s
  let s := updRnStatus stack k.pc.toNat k.seqTag (fun x => { x with ceCount := min 65535 (x.ceCount + n) }) r.2
  if r.1.isEmpty then (true, s)
  else (false, handleAll r.1 (failSeq stack k.pc.toNat k.seqTag (fun x => { x with ue := true }) s))

/-- A step that reads, for a sequence that has not ended: the upsets that it meets, and its work where every codeword and register reads. -/
def rnReadStep (stack : Nat) (k : RnCmd) (u : Upsets) (f : List Byte → State → State) (s : State) : State :=
  let g := meetRegs stack k u (applyHbmUpsets u s)
  if !g.1 then g.2
  else
    let r := readSweep .runner stack k g.2
    let a := sweep stack k
    stepDone stack k (if r.1 then f (hbmRead r.2 a.1 a.2) r.2 else r.2)

/-- The stored format of a command, and its head dimension. -/
def rnFmt (k : RnCmd) : Nat := k.format.toNat
/-- D. -/
def rnDim (k : RnCmd) : Nat := dimOf k.headDim.toNat

/-- The base address of the frame that a command's row belongs to. -/
def rnFrame (stack : Nat) (k : RnCmd) : Nat := (frameBaseOf (sweep stack k).1).getD 0

/-- The bytes that a sweep makes available from an address on, behind those of an earlier step that it continues and a step buffer holds. -/
def joined (r : Runner) (start : Nat) (bs : List Byte) : Nat × List Byte :=
  match [r.stepBuf, r.prevStep].find? (fun b => !b.2.isEmpty && decide (b.1 + b.2.length = start)) with
  | some b => (b.1, b.2 ++ bs)
  | none => (start, bs)

/-- Move the step buffers on. -/
def pushStep (start : Nat) (bs : List Byte) (r : Runner) : Runner := { r with prevStep := r.stepBuf, stepBuf := (start, bs) }

/-- `n` bytes from an address out of those at hand, zeros where one lies before them. -/
def rowFrom (j : Nat × List Byte) (a n : Nat) : List Byte :=
  padTo n (if j.1 ≤ a then bytesAt j.2 (a - j.1) n else zeros (j.1 - a) ++ j.2)

/-- A byte of a frame's scale buffer, by its page-local place. -/
def scaleByte (r : Runner) (frame b : Nat) : Byte := ((r.scales.atD frame []).atD (b / 1024) []).getD (b % 1024) 0

/-- The scale and group scales of a slot in the scale buffer. -/
def bufferedScales (r : Runner) (frame fmt dim t : Nat) (value : Bool) : BitVec 16 × List Byte :=
  let m := annexMap fmt dim
  let g := groupsOf fmt dim
  let a := annexAt + (if value then m.valueScale else m.keyScale) + 2 * t
  let b := annexAt + (if value then m.valueGroups else m.keyGroups) + t * g
  (BitVec.ofNat 16 ((scaleByte r frame a).toNat + 256 * (scaleByte r frame (a + 1)).toNat),
    (List.range g).map (fun i => scaleByte r frame (b + i)))

/-- Slots whose bytes meet a range, of rows of `n` bytes that start at `base`. -/
def slotsIn (base n start len : Nat) : List Nat :=
  (List.range 256).filter (fun t => decide (base + t * n < start + len) && decide (start < base + t * n + n))

/-- How many elements of `b` bits of a row at an address lie wholly before another. -/
def elemsBefore (b row at_ dim : Nat) : Nat := min dim ((8 * at_ - 8 * row) / b)

/-! ## The commands (R149) -/

/-- RN_NOP. -/
def execRnNop (stack : BitVec 3) (k : RnCmd) (s : State) : Res := onRunner 0 stack k (.rnNop stack k) id s

/-- The request that loaded query rows belong to: one in service, with a page on this runner, whose operand query they hold, those of the
context where it is wide. -/
def requestOf (s : State) (stack : Nat) (k : RnCmd) (rows : List (List (BitVec 32))) : Option Nat :=
  let part (q : List (List (BitVec 32))) : List (List (BitVec 32)) :=
    if !k.wide then q else if k.ctx = 0 then q.take 16 else q.drop 16
  (s.attn.reqs.find? (fun r => (decide (r.2.phase = .keyPass) || decide (r.2.phase = .valuePass)) && decide (part r.2.query = rows)
    && r.2.pages.any (fun p => decide (p.unit = .runner) && decide (p.frame.map framePc = some (stack * 32 + k.pc.toNat))))).map Prod.fst

/-- Whether a runner has no room for a query: it holds another's wide query, or the query is wide and it holds another (R134). -/
def noRoomFor (r : Runner) (k : RnCmd) : Bool :=
  r.live.any (fun q => decide (q.1 ≠ k.seqTag) && !q.2.ended && !q.2.writes && (q.2.wide || k.wide))

/-- RN_QLOAD (R134, R149, R151, R197): none is taken beside a wide query. -/
def execRnQload (stack : BitVec 3) (k : RnCmd) (rows : List (List (BitVec 32))) (s : State) : Res :=
  onRunner 1 stack k (.rnQload stack k rows) (fun s =>
    let st := stack.toNat
    let pc := k.pc.toNat
    let c := k.ctx.toNat
    let level := throttleOf s st
    if noRoomFor (runnerAt s st pc) k then s
    else
      let xs := (qrowsOf k).map (fun i => rows.getD i [])
      let s := updRunner st pc (fun r => { r with
        contexts := r.contexts.filter (fun x => decide (x.1.1 ≠ c)) ++ (qrowsOf k).map (fun i => ((c, i), rows.getD i []))
        wide := k.wide
        dsScale := if k.scoreFmt = 1 then r.dsScale.put c k.arg else r.dsScale
        blockMax := r.blockMax.put k.seqTag 0
        carry := r.carry.filter (fun x => decide (x.1.1 ≠ c))
        keyMag := r.keyMag.filter (fun x => decide (x.1.1 ≠ c))
        outMag := r.outMag.filter (fun x => decide (x.1.1 ≠ c))
        pond := r.pond.filter (fun x => decide (x.1.1 ≠ k.seqTag.toNat))
        pondMax := r.pondMax.del k.seqTag
        pondMag := r.pondMag.filter (fun x => decide (x.1.1 ≠ k.seqTag))
        seqs := r.seqs.put k.seqTag { RnStatus.zero with throttle := level } }) s
      (meetRegs st k Upsets.none (setSeq st pc k.seqTag ⟨c, k.wide, false, false, requestOf s st k xs⟩ s)).2) s

/-- Put rows that a sweep brought into the scale buffer of their frame: a third frame takes the place of the older of two. -/
def putScales (frame row first : Nat) (bs : List Byte) (r : Runner) : Runner :=
  let rows := r.scales.atD frame []
  let old := padTo 1024 (rows.atD row [])
  let new := rows.put row (old.take first ++ bs ++ old.drop (first + bs.length))
  let t := r.scales.put frame new
  { r with scales := t.drop (t.length - 2) }

/-- RN_SCALE: sweep annex columns into the scale buffer. -/
def execRnScale (stack : BitVec 3) (k : RnCmd) (u : Upsets) (s : State) : Res :=
  onRunner 2 stack k (.rnScale stack k u) (rnReadStep stack.toNat k u (fun bs s =>
    updRunner stack.toNat k.pc.toNat (putScales (rnFrame stack.toNat k) k.pageRow.toNat (64 * k.colFirst.toNat) bs) s)) s

/-- The delayed exponent that RN_QLOAD's ARG stands for. -/
def argExponent (w : BitVec 32) : Int := if f32mag w = 0 then -127 else ilog2 (f32mag w)

/-- Send a finished score to the millpond, with the block-maximum record and the magnitude total as they then stand (R193, R197, R200, R203,
R257; DESIGN CHOICE on when those two are written, entry 82). -/
def sendScore (k : RnCmd) (frame t : Nat) (x : Nat × Nat) (score mag : F32) (r : Runner) : Runner :=
  let c : Nat × Bool := if k.scoreFmt = 1 then scoreCode (argExponent (r.dsScale.atD x.1 0)) score else (score.toNat, false)
  let top := f32max (r.blockMax.atD k.seqTag 0) (f32abs score)
  let total := f32add (r.keyMag.atD x 0) mag
  { r with
    pond := r.pond.put (k.seqTag.toNat, frame, t, queryRow k x) (BitVec.ofNat 32 c.1)
    blockMax := r.blockMax.put k.seqTag top
    keyMag := r.keyMag.put x total
    pondMax := r.pondMax.put k.seqTag top
    pondMag := r.pondMag.put (k.seqTag, false, queryRow k x) total
    seqs := r.seqs.upd k.seqTag RnStatus.zero (fun z => { z with sat := z.sat || c.2 }) }

/-- Take a slot's key elements that a sweep completes into the dot product of one query row: the carry register keeps one that continues, and
a finished one becomes a score (R132, R155, R162, R193). A row of which an earlier part has not been swept gives none. -/
def scoreSlot (tick : Nat) (k : RnCmd) (frame start stop : Nat) (j : Nat × List Byte) (t : Nat) (x : Nat × Nat) (r : Runner) : Runner :=
  let fmt := rnFmt k
  let dim := rnDim k
  let n := rowBytes fmt dim
  let b := elemBits fmt
  let row := frame + t * n
  let sc := bufferedScales r frame fmt dim t false
  let key : CodeRow := ⟨unpackElems fmt dim (rowFrom j row n), sc.1, sc.2⟩
  let q := r.contexts.atD x []
  let salt := (t * 32 + queryRow k x) * 8192
  let go (lo : Nat) (dot mag : F32) : Runner :=
    let hi := elemsBefore b row stop dim
    if 8 * row + lo * b < 8 * j.1 then r
    else
      let dot := addRuns tick salt fmt q key lo hi dot
      let mag := f32add mag (freeDot tick salt (magTerms fmt k.arg q key lo hi))
      if hi < dim then { r with carry := r.carry.put x ⟨frame, t, hi, dot, mag⟩ }
      else sendScore k frame t x (scoreOfDot k.arg key dot) mag { r with carry := r.carry.del x }
  match r.carry.at? x with
  | some c => if c.frame = frame ∧ c.slot = t then go c.done c.dot c.mag else if start ≤ row then go 0 0 0 else r
  | none => if start ≤ row then go 0 0 0 else r

/-- Score the slots whose key elements lie in a sweep. -/
def scoreSweep (tick stack : Nat) (k : RnCmd) (bs : List Byte) (r : Runner) : Runner :=
  let n := rowBytes (rnFmt k) (rnDim k)
  let start := (sweep stack k).1
  let frame := rnFrame stack k
  let j := joined r start bs
  let slots := (slotsIn frame n start bs.length).filter (fun t => decide (t < k.slotLimit.toNat))
  pushStep start bs (slots.foldl (fun r t =>
    (servedRows k r).foldl (fun r x => scoreSlot tick k frame start (start + bs.length) j t x r) r) r)

/-- RN_SCORE (R149, R155, R193). -/
def execRnScore (stack : BitVec 3) (k : RnCmd) (u : Upsets) (s : State) : Res :=
  onRunner 3 stack k (.rnScore stack k u) (rnReadStep stack.toNat k u (fun bs s =>
    updRunner stack.toNat k.pc.toNat (scoreSweep s.tick stack.toNat k bs) { s with tick := s.tick + 1 })) s

/-- The weights of the next value step: of the slots whose value rows meet it, from the place of the scores that they replace (R191). -/
def nextWeights (stack : Nat) (k : RnCmd) (r : Runner) : Tbl (Nat × Nat) Nat :=
  let frame := rnFrame stack k
  let a := sweep stack k
  let slots := (slotsIn (frame + 0x4000) (rowBytes (rnFmt k) (rnDim k)) a.1 a.2).filter (fun t => decide (t < k.slotLimit.toNat))
  slots.flatMap (fun t => (servedRows k r).map (fun x =>
    ((t, queryRow k x), (r.pond.atD (k.seqTag.toNat, frame, t, queryRow k x) 0).toNat % 65536)))

/-- RN_WLOAD. -/
def execRnWload (stack : BitVec 3) (k : RnCmd) (s : State) : Res :=
  onRunner 4 stack k (.rnWload stack k) (fun s =>
    let g := meetRegs stack.toNat k Upsets.none s
    if g.1 then updRunner stack.toNat k.pc.toNat (fun r => { r with weightsIdle := nextWeights stack.toNat k r }) g.2 else g.2) s

/-- Add the value elements of some slots that a sweep completes, times their weights, into the accumulators of one query row, in an order that is
not fixed (R195, R220, R257). -/
def weighRow (tick : Nat) (k : RnCmd) (frame start stop : Nat) (j : Nat × List Byte) (slots : List Nat) (x : Nat × Nat) (r : Runner) : Runner :=
  let fmt := rnFmt k
  let dim := rnDim k
  let n := rowBytes fmt dim
  let b := elemBits fmt
  let salt := (x.1 * 16 + x.2) * 512
  let parts := slots.map (fun t =>
    let row := frame + 0x4000 + t * n
    let sc := bufferedScales r frame fmt dim t true
    let v : CodeRow := ⟨unpackElems fmt dim (rowFrom j row n), sc.1, sc.2⟩
    (row, v, F32.of (fp16.decode (r.weights.atD (t, queryRow k x) 0))))
  let inNow (row d : Nat) : Bool :=
    decide (8 * row + (d + 1) * b ≤ 8 * stop) && decide (8 * start < 8 * row + (d + 1) * b) && decide (8 * j.1 ≤ 8 * row + d * b)
  let terms (d : Nat) : List FV :=
    (parts.filter (fun p => inNow p.1 d)).map (fun p => valueTerm fmt p.2.2 p.2.1 d)
  let old := r.accum.atD x (List.replicate dim 0)
  { r with
    accum := r.accum.put x ((List.range dim).map (fun d =>
      let ts := terms d
      if ts.isEmpty then old.getD d 0 else freeDot tick (salt + d) (F32.val (old.getD d 0) :: ts)))
    outMag := r.outMag.upd x 0 (fun m => freeDot tick (salt + 300) (F32.val m :: ((List.range dim).flatMap terms).map FV.abs)) }

/-- Weigh the slots of a sweep: the weights that RN_WLOAD brought are taken up, and the magnitude totals go to the millpond (R257). -/
def weighSweep (tick stack : Nat) (k : RnCmd) (bs : List Byte) (r : Runner) : Runner :=
  let start := (sweep stack k).1
  let frame := rnFrame stack k
  let j := joined r start bs
  let r := if r.weightsIdle.isEmpty then r else { r with weights := r.weightsIdle, weightsIdle := [] }
  let slots := (slotsIn (frame + 0x4000) (rowBytes (rnFmt k) (rnDim k)) start bs.length).filter (fun t => decide (t < k.slotLimit.toNat))
  pushStep start bs ((servedRows k r).foldl (fun r x =>
    let r := weighRow tick k frame start (start + bs.length) j slots x r
    { r with pondMag := r.pondMag.put (k.seqTag, true, queryRow k x) (r.outMag.atD x 0) }) r)

/-- RN_WEIGH (R149, R195). -/
def execRnWeigh (stack : BitVec 3) (k : RnCmd) (u : Upsets) (s : State) : Res :=
  onRunner 5 stack k (.rnWeigh stack k u) (rnReadStep stack.toNat k u (fun bs s =>
    updRunner stack.toNat k.pc.toNat (weighSweep s.tick stack.toNat k bs) { s with tick := s.tick + 1 })) s

/-- End what a sequence holds in a context: a wide query then holds the other alone, and any other sequence has ended (R147). -/
def endContext (stack pc c : Nat) (tag : BitVec 8) (s : State) : State :=
  match (runnerAt s stack pc).live.at? tag with
  | none => issueOwed stack pc s
  | some q =>
    if q.wide then setSeq stack pc tag { q with wide := false, ctx := 1 - c } s
    else issueOwed stack pc (updRunner stack pc (fun r => { r with live := r.live.del tag }) s)

/-- A row of accumulators padded with zeros to D words. -/
def padWords (n : Nat) (xs : List (BitVec 32)) : List (BitVec 32) := (xs ++ List.replicate (n - xs.length) 0).take n

/-- Give a request the output sums that a sequence of its drains, where it has weighed value rows (R187, R195): by stack, pseudo-channel and query
row, with the magnitude totals (R257). -/
def takeDrain (stack : Nat) (k : RnCmd) (rows : List (List (BitVec 32))) (s : State) : State :=
  let r := runnerAt s stack k.pc.toNat
  match r.live.at? k.seqTag with
  | none => s
  | some x => match x.req.bind (fun id => (s.attn.reqs.at? id).map (fun q => (id, q))) with
    | none => s
    | some (id, q) =>
      let row (i : Nat) : Nat := if 16 < q.desc.qTokens * q.desc.qHeads then 16 * k.ctx.toNat + i else i
      let new := ((List.range rows.length).zip rows).filterMap (fun y =>
        (r.pondMag.at? (k.seqTag, true, row y.1)).map (fun m => ((stack, k.pc.toNat, row y.1), (y.2, m))))
      if q.phase ≠ .valuePass then s
      else { s with attn := { s.attn with reqs := s.attn.reqs.put id { q with drained := new.foldl (fun t e => t.put e.1 e.2) q.drained } } }

/-- RN_DRAIN: the accumulators of CTX leave, for the request that the sequence serves, and are cleared; the sequence ends there (R147). -/
def execRnDrain (stack : BitVec 3) (k : RnCmd) (s : State) : Res :=
  onRunner 6 stack k (.rnDrain stack k) (fun s =>
    let st := stack.toNat
    let pc := k.pc.toNat
    let c := k.ctx.toNat
    let g := meetRegs st k Upsets.none s
    if !g.1 then g.2
    else
      let r := runnerAt g.2 st pc
      let rows := (qrowsOf k).map (fun i => padWords (rnDim k) (r.accum.atD (c, i) []))
      let s := emit (.runnerDrain stack k.pc k.ctx rows) (takeDrain st k rows g.2)
      endContext st pc c k.seqTag (updRunner st pc (fun r => { r with accum := r.accum.filter (fun a => decide (a.1.1 ≠ c)) }) s)) s

/-- Whether a write command goes on with a sequence that its runner holds: one that an error or RN_ABORT has ended goes on no more, so that the next
write command under its tag is the first of a new sequence (entry 84). -/
def goesOnWriting (s : State) (stack : Nat) (k : RnCmd) : Bool :=
  ((runnerAt s stack k.pc.toNat).live.at? k.seqTag).any (fun q => !q.ended)

/-- The first write command of a sequence begins it and clears its status word (R147, R151). -/
def startWrite (stack : Nat) (k : RnCmd) (s : State) : State :=
  if goesOnWriting s stack k then s
  else
    let l := throttleOf s stack
    setSeq stack k.pc.toNat k.seqTag ⟨k.ctx.toNat, false, true, false, none⟩
      (updRnStatus stack k.pc.toNat k.seqTag (fun _ => { RnStatus.zero with throttle := l }) s)

/-- Write a sweep's bytes through the store path: a transfer whose interface code fails is sent again; a codeword whose second transfer fails
too is not stored, and the sequence and what needed it end (R141, R145). DESIGN CHOICE (entry 114): of a sweep of several codewords, whose upsets
name none, the first is the one whose transfer fails. -/
def writeSweep (stack : Nat) (k : RnCmd) (a : Nat) (bs : List Byte) (u : Upsets) (s : State) : State :=
  let s := if u.linkFails ≠ 0 then bumpAt .stackLinkResends stack 1 s else s
  if 2 ≤ u.linkFails then
    let s := logFrom 0 0x0301 (srcStack stack) [(8, stack), (8, k.pc.toNat)] s
    hbmWrite (a + 32) (bs.drop 32) (failSeq stack k.pc.toNat k.seqTag (fun x => { x with linkErr := true }) s)
  else hbmWrite a bs s

/-- A command of a write sequence that has not ended. -/
def rnWriteStep (stack : Nat) (k : RnCmd) (u : Upsets) (f : State → State) (s : State) : State :=
  let g := meetRegs stack k u (startWrite stack k (applyHbmUpsets u s))
  if g.1 then stepDone stack k (f g.2) else g.2

/-- RN_FILL: the columns written with ARG repeated. -/
def execRnFill (stack : BitVec 3) (k : RnCmd) (u : Upsets) (s : State) : Res :=
  onRunner 7 stack k (.rnFill stack k u) (rnWriteStep stack.toNat k u (fun s =>
    let a := sweep stack.toNat k
    writeSweep stack.toNat k a.1 ((List.replicate (a.2 / 4) (leBytes 4 k.arg.toNat)).flatten) u s)) s

/-- RN_COPY: the columns read and written to the same columns of the row that ARG names (R150). -/
def execRnCopy (stack : BitVec 3) (k : RnCmd) (u : Upsets) (s : State) : Res :=
  onRunner 8 stack k (.rnCopy stack k u) (rnWriteStep stack.toNat k u (fun s =>
    let r := readSweep .runner stack.toNat k s
    if !r.1 then r.2
    else
      let a := sweep stack.toNat k
      let w := k.arg.toNat
      let b := rowAddr stack.toNat k.pc.toNat (bitsOf w 20 19) (bitsOf w 18 17) (bitsOf w 16 15) (bitsOf w 14 0) + 64 * k.colFirst.toNat
      writeSweep stack.toNat k b (hbmRead r.2 a.1 a.2) u r.2)) s

/-- What RN_SCRUB's reads count as a runner's (R165): each correction, and the codeword that ends the sequence. -/
def noteScrub (a n : Nat) (s : State) : State :=
  let s := (correctedIn s a n).foldl (fun s c => bumpAt .runnerCe (stackOf c) 1 s) s
  match (badIn s a n).head? with
  | some o => logFrom 0 0x0302 (srcStack (stackOf o.1)) (placeFields (placeOf o.1) ++ [frameField o.1]) (bumpAt .runnerUe (stackOf o.1) 1 s)
  | none => s

/-- Scrub a range by RN_SCRUB: corrected codewords are written back as they decode, and its reads count as a scrub's and as a runner's (R165,
R301). -/
def scrubRange (a n : Nat) (s : State) : Bool × State :=
  let good := correctedIn s a n
  let r := readRange .scrub a n (noteScrub a n s)
  (r.1, good.foldl (fun s c => writeBack (c / 32) s) r.2)

/-- RN_SCRUB: the columns read, and each codeword that needed correction written back. -/
def execRnScrub (stack : BitVec 3) (k : RnCmd) (u : Upsets) (s : State) : Res :=
  onRunner 9 stack k (.rnScrub stack k u) (rnWriteStep stack.toNat k u (fun s =>
    let a := sweep stack.toNat k
    let n := (correctedIn s a.1 a.2).length
    let s := updRnStatus stack.toNat k.pc.toNat k.seqTag (fun x => { x with ceCount := min 65535 (x.ceCount + n) }) s
    let r := scrubRange a.1 a.2 s
    if r.1 then r.2 else failSeq stack.toNat k.pc.toNat k.seqTag (fun x => { x with ue := true }) r.2)) s

/-- Clear the registers of an ended sequence: its context or contexts, their carry, and the weight and scale buffers. -/
def clearRegs (wide : Bool) (c : Nat) (r : Runner) : Runner :=
  { r with
    contexts := if wide then [] else r.contexts.filter (fun x => decide (x.1.1 ≠ c))
    carry := if wide then [] else r.carry.filter (fun x => decide (x.1.1 ≠ c))
    weights := []
    weightsIdle := []
    scales := [] }

/-- RN_ABORT: end a sequence and clear its context, carry, weight and scale registers. -/
def execRnAbort (stack : BitVec 3) (k : RnCmd) (s : State) : Res :=
  onRunner 10 stack k (.rnAbort stack k) (fun s =>
    let st := stack.toNat
    let pc := k.pc.toNat
    match (runnerAt s st pc).live.at? k.seqTag with
    | some q =>
      let s := updRunner st pc (clearRegs q.wide q.ctx) s
      if q.ended then s
      else issueOwed st pc (setSeq st pc k.seqTag { q with ended := true }
        (updRnStatus st pc k.seqTag (fun x => { x with aborted := true }) s))
    | none => updRunner st pc (clearRegs false k.ctx.toNat) s) s

/-- End the write sequence of a tag. -/
def endWrites (stack pc : Nat) (tag : BitVec 8) (s : State) : State :=
  match (runnerAt s stack pc).live.at? tag with
  | some q => if q.writes then issueOwed stack pc (updRunner stack pc (fun r => { r with live := r.live.del tag }) s) else s
  | none => s

/-- RN_STATUS (R151). -/
def execRnStatus (stack : BitVec 3) (k : RnCmd) (s : State) : Res :=
  onRunner 11 stack k (.rnStatus stack k) (fun s =>
    let r := runnerAt s stack.toNat k.pc.toNat
    endWrites stack.toNat k.pc.toNat k.seqTag
      (emit (.runnerStatus stack k.pc (rnStatusWord k.seqTag (r.seqs.atD k.seqTag RnStatus.zero))) s)) s

/-! ## Refresh (R160–R162) -/

/-- REFRESH_DUE: issued at once where no sequence runs, postponed while fewer than 3 are owed, and otherwise the running sequence is
split for the oldest. -/
def execRefreshDue (stack : BitVec 3) (pc : BitVec 5) (s : State) : Res :=
  onNode (fun s =>
    let st := stack.toNat
    let p := pc.toNat
    let owed := (stackAt s st).owed.atD p 0
    if !(runnerAt s st p).runs then issueOwed st p s
    else if owed < 3 then bumpAt .refPostponed st 1 (updStack st (fun x => { x with owed := x.owed.put p (owed + 1) }) s)
    else bumpAt .refSplits st 1 s) s

/-! ## Throttling (R167–R170) -/

/-- Temperature threshold of a level. -/
def throttleTemp (level : Nat) : Int := if level = 1 then 88 else if level = 2 then 92 else 95

/-- The highest level whose entry condition a reading meets. -/
def levelFor (temp : Int) (power limit : Nat) : Nat :=
  if 95 ≤ temp then 3 else if 92 ≤ temp then 2 else if 88 ≤ temp ∨ limit < power then 1 else 0

/-- Whole microseconds spent at a level so far. -/
def levelUs (s : State) (x : Stack) : Nat := (s.pw.uptime - x.levelSince) / 1000

/-- The counter of the time at a level (R171). -/
def levelCounter (level : Nat) : Option Counter :=
  if level = 1 then some .throttleL1Us else if level = 2 then some .throttleL2Us else if level = 3 then some .throttleL3Us else none

/-- Count the time at a level that ends. -/
def countLevel (n : Nat) (s : State) : State :=
  let x := stackAt s n
  match levelCounter x.throttle with
  | some c => bumpAt c n (levelUs s x) s
  | none => s

/-- A level that the sequences running on a stack meet, in their status words (R151). -/
def meetLevel (n level : Nat) (s : State) : State :=
  { s with runners := s.runners.map (fun p =>
      if p.1.1 = n then (p.1, { p.2 with seqs := p.2.seqs.map (fun q =>
        if p.2.live.any (fun l => decide (l.1 = q.1) && !l.2.ended) then (q.1, { q.2 with throttle := max q.2.throttle level }) else q) })
      else p) }

/-- Change a stack's level (R168). -/
def setLevel (n level : Nat) (s : State) : State :=
  let old := (stackAt s n).throttle
  if old = level then s
  else
    let s := updStack n (fun x => { x with throttle := level, levelSince := s.pw.uptime }) (countLevel n s)
    logFrom 0 0x0303 (srcStack n) [(8, n), (8, old), (8, level)] (meetLevel n level s)

/-- STACK_POWER_LIMIT_W in force: the knob, lowered by the power cap but never below 20 W (R170, R583). -/
def stackLimit (s : State) : Nat := max 20 (s.knobs.stackPowerLimitW - s.pw.stackCut)

/-- Run a runner command that waited at level 3. -/
def runHeldStep (i : Instr) (s : State) : State :=
  let go (r : Res) : State := match r with
    | .next s => s
    | _ => s
  match i with
  | .rnNop st k => go (execRnNop st k s)
  | .rnQload st k rows => go (execRnQload st k rows s)
  | .rnScale st k u => go (execRnScale st k u s)
  | .rnScore st k u => go (execRnScore st k u s)
  | .rnWload st k => go (execRnWload st k s)
  | .rnWeigh st k u => go (execRnWeigh st k u s)
  | .rnDrain st k => go (execRnDrain st k s)
  | .rnFill st k u => go (execRnFill st k u s)
  | .rnCopy st k u => go (execRnCopy st k u s)
  | .rnScrub st k u => go (execRnScrub st k u s)
  | .rnAbort st k => go (execRnAbort st k s)
  | .rnStatus st k => go (execRnStatus st k s)
  | _ => s

/-- Whether a command waits on a runner of a stack. -/
def heldOnStack (n : Nat) (d : Deferred) : Bool :=
  match d.why with
  | .runner st _ => decide (st = n)
  | _ => false

/-- Resume the commands of a stack that waited at level 3, in issue order (R150, R169). -/
def resumeSteps (n : Nat) (s : State) : State :=
  let held := s.deferred.filter (heldOnStack n)
  let s := { s with deferred := s.deferred.filter (fun d => !(heldOnStack n d)) }
  held.foldl (fun s d => runHeldStep d.instr s) s

/-- STACK_SENSOR_READ's own effect (R167, R168). -/
def sensorRow (stack : BitVec 3) (temp : Int) (power : Nat) (quietMs : Bool) (s : State) : Res :=
  onNode (fun s =>
    let n := stack.toNat
    let limit := stackLimit s
    let s := alertTemp (updStack n (fun x => { x with temp := temp, power := power, limitW := limit }) s)
    let x := stackAt s n
    let want := levelFor temp power limit
    if x.throttle < want then setLevel n want s
    else if 0 < x.throttle ∧ quietMs ∧ temp + 3 ≤ throttleTemp x.throttle ∧ 100 * power < 95 * limit then
      let s := setLevel n (x.throttle - 1) s
      if x.throttle = 3 then resumeSteps n s else s
    else s) s

end Sys2Proof.Machine
end

