-- ==== Sys2Proof/Machine/Query.lean ====
section
/-! DEFINITION. Queries up to their reservation: the message and descriptor checks, the pages read, dispatch, waves, the delayed
exponent and the reservations (R172–R186, R199–R202, R216–R218, R236, R309–R311). -/

namespace Sys2Proof.Machine

/-! ## Messages and descriptors (R172, R173) -/

/-- The descriptor that 64 bytes hold. -/
def readQDesc (bs : List Byte) : QDesc :=
  let w (i : Nat) : Nat := wordAt bs i
  let rsv := decide (bitsOf (w 1) 7 3 ≠ 0) || decide (bitsOf (w 2) 11 0 ≠ 0) || decide (bitsOf (w 3) 31 20 ≠ 0)
    || decide (bitsOf (w 4) 63 48 ≠ 0) || decide (w 5 ≠ 0) || decide (w 6 ≠ 0) || decide (w 7 ≠ 0)
  ⟨BitVec.ofNat 64 (w 0), bitsOf (w 1) 63 40, bitsOf (w 1) 39 24, bitsOf (w 1) 23 16, bitsOf (w 1) 15 8 + 1, bitsOf (w 1) 2 0,
    BitVec.ofNat 32 (bitsOf (w 2) 63 32), bitsOf (w 2) 31 30, bitsOf (w 2) 29 28, bitsOf (w 2) 27 18 + 1, bitsOf (w 2) 17 12 + 1,
    BitVec.ofNat 32 (bitsOf (w 3) 63 32), bitsOf (w 3) 19 0, bitsOf (w 4) 47 0, rsv⟩

/-- ROWS. -/
def QDesc.rows (d : QDesc) : Nat := d.qTokens * d.qHeads
/-- D. -/
def QDesc.dim (d : QDesc) : Nat := dimOf d.headDim
/-- Bytes of the rows that follow a descriptor. -/
def QDesc.rowsLen (d : QDesc) : Nat := d.rows * d.dim * inputBytes d.qFmt

/-- The descriptors of a message with their row bytes; none where a check of R172 fails. -/
def splitQuery (fuel : Nat) (bs : List Byte) : Option (List (QDesc × List Byte)) :=
  match fuel with
  | 0 => none
  | k + 1 =>
    if bs.isEmpty then some []
    else if bs.length < 64 then none
    else
      let d := readQDesc bs
      if d.dim = 0 ∨ d.qFmt = 3 ∨ bs.length < 64 + d.rowsLen then none
      else (splitQuery k (bs.drop (64 + d.rowsLen))).map (fun r => (d, bytesAt bs 64 d.rowsLen) :: r)

/-- The packet offset of the reserved HEAD_DIM or Q_FORMAT for which a message's next descriptor has no end; none where a message fails
R172 otherwise. -/
def reservedCode (fuel off : Nat) (bs : List Byte) : Option Nat :=
  match fuel with
  | 0 => none
  | k + 1 =>
    if bs.length < 64 then none
    else
      let d := readQDesc bs
      if d.dim = 0 then some (off + 8)
      else if d.qFmt = 3 then some (off + 19)
      else reservedCode k (off + 64 + d.rowsLen) (bs.drop (64 + d.rowsLen))

/-- The message check of R172: 1 to 64 descriptors in at most 1 MiB. -/
def readQuery (bs : List Byte) : Option (List (QDesc × List Byte)) :=
  if maxMessage < bs.length then none
  else match splitQuery 65 bs with
    | some [] => none
    | r => r

/-- The rows of a descriptor, exactly in FP32 (R174, R178). -/
def queryRows (d : QDesc) (bs : List Byte) : List (List F32) :=
  (chunks (d.dim * inputBytes d.qFmt) bs).map (inputRow d.qFmt)

/-- A normal binary32 number. -/
def isNormal (x : F32) : Bool := let e := x.toNat / 2 ^ 23 % 256; decide (e ≠ 0) && decide (e ≠ 255)

/-- Step 1 of R177. -/
def queryStep1 (d : QDesc) : Bool :=
  !d.rsv && !(badHandle d.handle) && decide (d.spanFirst + d.spanCount ≤ 2 ^ 24) && isNormal d.mult && decide (d.rows ≤ 1024)
    && decide (d.posBase + d.qTokens ≤ 2 ^ 44)

/-! ## The pages and masks of a descriptor (R176, R177, R211) -/

/-- A descriptor's outcome of the checks: refused with a status, held on its search, or a request. -/
inductive Checked where
  | refuse (st : Status) (node : Option NodeId) (hint : Nat)
  | held
  | ok (q : AttnReq)
deriving DecidableEq, Repr

/-- The record that a request reads of a span that its search has found. One that was held reads a record that was there at its admission: where a
copy-on-write has made the member's record since, the shared record (R104, R130). -/
def recordFor (s : State) (snap : Option Snapshot) (v : VId) (h : Handle) (n : Nat) (f : FrameId) : Option FrameId :=
  match snap with
  | none => some f
  | some k =>
    if k.fills.has f then some f
    else (s.spans.find? (fun p => decide (p.2.vnode = v) && decide (p.2.span = n) && k.fills.has p.1 && (match p.2.aliasOf with
      | some (m, prio) => (aliasEntryOf v p.2.handle n m prio p.1).hits v (dirKey h n 0)
      | none => false))).map Prod.fst

/-- Search every span in increasing order (R176): the records, or the first failure. `snap` is what a request took that was held. -/
def findSpans (snap : Option Snapshot) (v : VId) (h : Handle) : List Nat → State → (List (Nat × FrameId) ⊕ SpanHit) × State
  | [], s => (.inl [], s)
  | n :: r, s =>
    let q := findSpanFor snap.isSome v h n s
    match q.1 with
    | .found g _ => match recordFor q.2 snap v h n g with
      | none => (.inr (.stop (Reply.st stMiss)), q.2)
      | some f =>
      let t := findSpans snap v h r q.2
      (match t.1 with
        | .inl fs => .inl ((n, f) :: fs)
        | .inr e => .inr e, t.2)
    | e => (.inr e, q.2)

/-- The mask rows of a mask set. -/
def maskRowsOf (s : State) (m : FrameId) : Nat := ((s.masks.at? m).map MaskRec.rows).getD 0

/-- Search every span's mask set (step 5 of R177), with the rows of each: one in force at the admission of a request that was held needs no
search (R211). -/
def findMasks (snap : Option Snapshot) (v : VId) (h : Handle) : List Nat → State → (List (Nat × FrameId × Nat) ⊕ SpanHit) × State
  | [], s => (.inl [], s)
  | n :: r, s =>
    let q : SpanHit × State := match snap.bind (fun k => k.maskRows.at? n) with
      | some _ => (.found ((maskOf s v h n).getD 0) false, s)
      | none => findMask v h n s
    match q.1 with
    | .found g _ =>
      let f : FrameId × Nat := (g, (snap.bind (fun k => k.maskRows.at? n)).getD (maskRowsOf q.2 g))
      let t := findMasks snap v h r q.2
      (match t.1 with
        | .inl fs => .inl ((n, f) :: fs)
        | .inr e => .inr e, t.2)
    | e => (.inr e, q.2)

/-- The core whose stack a page belongs to (R213): of its frame, of its packed image's frame, or of its flash channel. -/
def coreOfLoc (s : State) (loc : PageLoc) : Nat :=
  let ofImage (n : Nat) : Nat := match s.tier.images.at? n with
    | some i => (match i.home with
      | .pack (e :: _) => frameStack e.frame
      | .pack [] => 0
      | .flash c _ _ _ => c / 2)
    | none => 0
  match loc with
  | .frame f _ => frameStack f
  | .packed n => ofImage n
  | .flash n => ofImage n
  | _ => 0

/-- The fill point of a record that a descriptor reads up to (R104, R176). -/
def fillOf (s : State) (snap : Option Snapshot) (f : FrameId) (d : QDesc) : Nat :=
  (snap.bind (fun k => k.fills.at? f)).getD (match spanAt s f with
    | some r => r.fill d.layer d.head
    | none => 0)

/-- The local pages of a span of a descriptor. -/
def spanPages (s : State) (span : Nat) (f : FrameId) (fill : Nat) (d : QDesc) : List (ReqPage × Page) :=
  match spanAt s f with
  | none => []
  | some r =>
    let t := r.geo.cap
    (List.range (ceilDiv fill t)).filterMap (fun p =>
      match r.pages.at? (d.layer, d.head, p) with
      | none => none
      | some x =>
        let fr : Option FrameId := match x.loc with
          | .frame g _ => some g
          | _ => none
        some (⟨⟨f, d.layer, d.head, p⟩, span, fr, x.image, pageGen s x, min t (fill - p * t), x.sharedOf.getD r.handle, x.isSealed, x.digest,
          coreOfLoc s x.loc, .engine, none, false⟩, x))

/-- The tile entries that a descriptor uses of a span (R209, R211). -/
def usedTiles (s : State) (span fill : Nat) (m : FrameId) (d : QDesc) : Tbl (Nat × Nat × Nat) Nat :=
  match s.masks.at? m with
  | none => []
  | some r =>
    let a0 := d.maskRowBase / 128
    let n := (d.maskRowBase + d.qTokens - 1) / 128 + 1 - a0
    (List.range n).flatMap (fun i => (List.range (ceilDiv fill 128)).map (fun b => ((span, a0 + i, b), tileEntry s m r (a0 + i) b)))

/-- The fill points, mask sets and tile entries in force for a descriptor (R104, R211). -/
def snapshotOf (s : State) (v : VId) (d : QDesc) : Snapshot :=
  let ms := s.masks.filter (fun m => decide (m.2.vnode = v) && decide (m.2.handle = d.handle) && decide (d.spanFirst ≤ m.2.span)
    && decide (m.2.span < d.spanFirst + d.spanCount))
  ⟨s.spans.filterMap (fun p => if p.2.vnode = v then some (p.1, p.2.fill d.layer d.head) else none),
    ms.flatMap (fun m => usedTiles s m.2.span (match ownSpan s v d.handle m.2.span false with
      | some f => fillOf s none f d
      | none => 0) m.1 d),
    ms.map (fun m => (m.2.span, m.2.rows))⟩

/-- The operand query (R178, R179). -/
def operandQuery (g : Geometry) (sigma : List F32) (rows : List (List F32)) : List (List F32) :=
  rows.map (fun x =>
    let y := if g.rotation = 4 then (x.zip sigma).map (fun p => f32mul p.1 p.2) else hadamard g.rotation.toNat x
    if g.fmt = 0 then y else y.map (fun e => F32.of (bf16.round (F32.val e))))

/-- A request before dispatch. -/
def newReq (dest : ReqDest) (v : VId) (d : QDesc) (g : Geometry) (sigma : List F32) (query : List (List F32)) (k : Knobs)
    (ep : BitVec 16) (pages : List ReqPage) (tiles : Tbl (Nat × Nat × Nat) Nat) (stall : Nat) : AttnReq :=
  { dest := dest, vnode := v, desc := d, geo := g, sigma := sigma, query := query, knobs := k, mapEpoch := ep, pages := pages,
    tiles := tiles, stallUs := stall, phase := .admitted,
    die := decide (k.dispatchThreshold < d.rows), fp32 := decide (k.scoreFormat = 0), firstUse := false, probe := false, exponent := 0,
    segments := 1, segment := 0, blockMax := 0, retried := false, low := false, absorbed := false, weights := [], cores := [],
    running := none, engines := [], blocksDone := [], full := false, order := 0, maxima := [], coreFail := none }

/-- A page that some query must wait for: it is being resolved or repaired, or must be rebuilt first. -/
def pageAwaits (s : State) (p : ReqPage × Page) : Bool :=
  (awaited s p.1.page).isSome || decide (p.2.loc = .rebuild) || decide (p.2.loc = .notCopied)

/-- Ask for the pages that must be rebuilt from their code group (R405). -/
def startRebuilds (ps : List (ReqPage × Page)) (s : State) : State :=
  ps.foldl (fun s p => if p.2.loc = .rebuild ∧ (awaited s p.1.page).isNone then askOther p.1.page [] (awaitPage p.1.page none s) else s) s

/-- Steps 6 to 8 of R177, once the spans and their masks are found. -/
def checkPages (dest : ReqDest) (v : VId) (d : QDesc) (rows : List (List F32)) (k : Knobs) (ep : BitVec 16) (stall : Nat)
    (snap : Option Snapshot) (spans : List (Nat × FrameId)) (masks : List (Nat × FrameId × Nat)) (s : State) : Checked × State :=
  let bad (st : Status) : Checked := .refuse st none 0
  match (spans.head?).bind (fun p => spanAt s p.2) with
  | none => (bad stMiss, s)
  | some r =>
    let all := spans.flatMap (fun p => spanPages s p.1 p.2 (fillOf s snap p.2 d) d)
    if masks.any (fun m => decide (m.2.2 < d.maskRowBase + d.qTokens)) then (bad stBadParam, s)
    else if r.geo.rotation = 4 ∧ !(r.smooth.has (d.layer, d.head)) then (bad stDenied, s)
    else match all.findSome? (fun p => if p.2.loc = .lost then some stLost else p.2.poison.map Poison.status) with
      | some st => (bad st, s)
      | none =>
        if all.any (pageAwaits s) then
          let e := takeEstimate (startRebuilds all s)
          (.refuse stRetryAfter none (max 1 e.1), e.2)
        else
          let tiles := masks.flatMap (fun m =>
            match snap with
            | some k => if k.maskRows.has m.1 then k.tiles.filter (fun t => decide (t.1.1 = m.1)) else []
            | none => usedTiles s m.1 (match spans.find? (fun p => p.1 = m.1) with
              | some p => fillOf s none p.2 d
              | none => 0) m.2.1 d)
          let sigma := r.smooth.atD (d.layer, d.head) []
          let q := newReq dest v d r.geo sigma (operandQuery r.geo sigma rows) k ep (all.map (fun p => p.1)) tiles stall
          let s := all.foldl (fun s p => updPage p.1.page (fun x => { x with lastRead := s.pw.uptime }) s) s
          (.ok q, s)

/-- How a failed search of a descriptor ends it. -/
def searchEnds : SpanHit → Checked
  | .stop r => .refuse r.status r.node r.hint
  | _ => .held

/-- Steps 4 to 8 of R177. -/
def checkDesc (dest : ReqDest) (v : VId) (d : QDesc) (rows : List (List F32)) (k : Knobs) (ep : BitVec 16) (stall : Nat)
    (snap : Option Snapshot) (s : State) : Checked × State :=
  let names := (List.range d.spanCount).map (fun i => d.spanFirst + i)
  let r := findSpans snap v d.handle names s
  match r.1 with
  | .inr e => (searchEnds e, r.2)
  | .inl spans =>
    let geoBad := spans.any (fun p => match spanAt r.2 p.2 with
      | some x => decide (x.geo.layers ≤ d.layer) || decide (x.geo.heads ≤ d.head) || decide (x.geo.headDim.toNat ≠ d.headDim)
      | none => true)
    if geoBad then (.refuse stBadParam none 0, r.2)
    else if d.maskMode < 2 then checkPages dest v d rows k ep stall snap spans [] r.2
    else
      let m := findMasks snap v d.handle names r.2
      match m.1 with
      | .inr e => (searchEnds e, m.2)
      | .inl masks => checkPages dest v d rows k ep stall snap spans masks m.2

/-! ## Dispatch (R181–R186) -/

/-- Local tokens, L. -/
def AttnReq.tokens (q : AttnReq) : Nat := q.pages.foldl (fun n p => n + p.tokens) 0

/-- The bucket of a local token count (R185). -/
def bucketOf (l : Nat) : Nat := if l ≤ 1024 then 0 else (clog2 ((l : Rat) / 1024)).toNat

/-- Whether a page lies in an OPEN or SEALED frame. -/
def servable (s : State) (p : ReqPage) : Bool :=
  match p.frame with
  | some f => decide ((frameOf s f).state = .open_) || decide ((frameOf s f).state = .sealed)
  | none => false

/-- Begin a promotion: the coded blocks of its image are queued for the codec (R309, R331). -/
def enterPromotion (p : PageRef) (n fmt : Nat) (digest : List Byte) (ids : List Nat) (bypass : Bool) (s : State) : State :=
  let im := imageBytes s n
  queueBlocks 2 p im { s with tier := { s.tier with
    promotions := s.tier.promotions ++ [⟨p, n, fmt, digest, (tableFor s im).getD none, ids, bypass⟩] } }

/-- Start or join the promotion of a FLASH page (R309, R311): requests that read a shared page through different records join one promotion of its
image. DESIGN CHOICE (entry 100): a page that has left its flash image between a request's admission and its dispatch is read from that image for
the request alone, and nothing is promoted or counted for it. -/
def startPromotion (id : Nat) (fmt : Nat) (v : VId) (p : ReqPage) (n : Nat) (s : State) : State :=
  match s.tier.promotions.find? (fun x => decide (x.image = n)) with
  | some x =>
    let s := if x.bypass then bump .promoteBypass s else s
    { s with tier := { s.tier with promotions := s.tier.promotions.map (fun y =>
      if y.image = n then { y with waiting := y.waiting ++ [id] } else y) } }
  | none =>
    let left := decide ((pageAt s p.page).map Page.loc ≠ some (.flash n))
    let by_ := decide (freeForUse s v = 0) && !(canDemote s v) && !(demoting s v)
    let s := if by_ && !left then bump .promoteBypass s else s
    enterPromotion p.page n fmt p.digest [id] (by_ || left) s

/-- Assign a page its unit (R182, R184): a page in the flash tier at the request's admission raises its paging fault. -/
def dispatchPage (id : Nat) (die : Bool) (fmt : Nat) (v : VId) (p : ReqPage) (s : State) : ReqPage × State :=
  match p.image with
  | some n =>
    if ((s.tier.images.at? n).bind Image.block).isSome then ({ p with missing := true }, startPromotion id fmt v p n s) else (p, s)
  | none =>
    let run := !die && servable s p && decide (throttleOf s p.core < 3)
    ({ p with unit := if run then .runner else .engine }, s)

/-- Assign every page its unit. -/
def dispatchPages (id : Nat) (die : Bool) (fmt : Nat) (v : VId) : List ReqPage → State → List ReqPage × State
  | [], s => ([], s)
  | p :: r, s =>
    let q := dispatchPage id die fmt v p s
    let t := dispatchPages id die fmt v r q.2
    (q.1 :: t.1, t.2)

/-- How the fetch of a page that is not PLAIN goes (R184, R330). -/
inductive Fetch where
  | page (p : ReqPage)
  | stale
  | unreadable
deriving DecidableEq, Repr

/-- Fetch a page that was held compressed at the request's admission into the hopper of its engine (R184, R289): how the fetch goes, and the
codewords of its image that stay uncorrectable. -/
def fetchPage (fmt : Nat) (p : ReqPage) (s : State) : Fetch × List Nat × State :=
  if p.unit = .runner ∨ p.content.isSome ∨ p.missing ∨ p.frame.isSome then (.page p, [], s)
  else match p.image with
    | none => (.page p, [], s)
    | some n =>
      let im := imageBytes s n
      let es : List Extent := match (s.tier.images.at? n).map Image.home with
        | some (.pack es) => es
        | _ => []
      let r := readExtents es s
      if !r.1.isEmpty then (.unreadable, r.1, r.2)
      else match pageContent r.2 fmt (.packed n) with
        | .bytes bs => (.page { p with content := some bs }, [], queueBlocks 1 p.page im r.2)
        | .stale => (.stale, [], bumpBy .codecStale (codedBlocks im) r.2)
        | .unreadable => (.unreadable, [], r.2)

/-- Fetch pages up to the first that cannot be fetched: that page, how its fetch ended and its bad codewords. -/
def fetchPages (fmt : Nat) : List ReqPage → State → (List ReqPage ⊕ (ReqPage × Fetch × List Nat)) × State
  | [], s => (.inl [], s)
  | p :: r, s =>
    let q := fetchPage fmt p s
    match q.1 with
    | .page p' =>
      let t := fetchPages fmt r q.2.2
      (match t.1 with
        | .inl ps => .inl (p' :: ps)
        | .inr e => .inr e, t.2)
    | e => (.inr (p, e, q.2.1), q.2.2)

/-! ## Delayed exponent and reservations (R199–R202, R216–R218, R236) -/

/-- The history index of a layer and head. -/
def histIx (d : QDesc) : Nat := (d.layer * 256 + d.head) % 4096

/-- The values that the history holds for a request under a DS_HISTORY (R199). -/
def histValues (s : State) (n : Nat) (d : QDesc) : List F32 :=
  match s.attn.history.at? (histIx d) with
  | some e => if e.layer = d.layer ∧ e.head = d.head ∧ e.headDim = d.headDim then e.values.take n else []
  | none => []

/-- Push a block maximum (R202): the table holds as many as DS_HISTORY now gives (R199). -/
def pushHistory (d : QDesc) (a : F32) (s : State) : State :=
  let vs := (a :: histValues s s.knobs.dsHistory d).take s.knobs.dsHistory
  { s with attn := { s.attn with history := s.attn.history.put (histIx d) ⟨d.layer, d.head, d.headDim, vs⟩ } }

/-- Segment `k` of `n` of a request's pages (R236). -/
def segmentOf {α : Type} (n k : Nat) (ps : List α) : List α :=
  let lo := k * ps.length / n
  (ps.drop lo).take ((k + 1) * ps.length / n - lo)

/-- The millpond area of pages in a core (R216). -/
def areaOf (rows b c : Nat) (ps : List ReqPage) : Nat :=
  let l := (ps.filter (fun p => decide (p.core = c))).foldl (fun n p => n + p.tokens) 0
  ceilDiv (rows * l * b) 65536 * 65536

/-- The largest area over the cores. -/
def maxArea (rows b : Nat) (ps : List ReqPage) : Nat := (List.range 8).foldl (fun m c => max m (areaOf rows b c ps)) 0

/-- The smallest segment count from `n` on for which every segment meets the limit (R236). -/
def segmentsFrom (fuel n rows b limit : Nat) (ps : List ReqPage) : Nat :=
  match fuel with
  | 0 => n
  | k + 1 =>
    if (List.range n).all (fun i => decide (maxArea rows b (segmentOf n i ps) ≤ limit)) then n
    else segmentsFrom k (n + 1) rows b limit ps

/-- Fix the delayed exponent, the score format and the segments of an in-stack request (R201, R217, R236, R238). DESIGN CHOICE (entry 110): under
FP32 score storage, where no exponent is needed, a request with an empty history is no first use and is not counted as one. -/
def planStack (s : State) (q : AttnReq) : AttnReq :=
  let rows := q.desc.rows
  let limit := q.knobs.mpRequestMaxKib * 1024
  let hist := histValues s q.knobs.dsHistory q.desc
  let first := !q.fp32 && hist.isEmpty
  let fits := decide (maxArea rows 4 q.pages ≤ limit)
  let fp32 := q.fp32 || (first && fits)
  let b := if fp32 then 4 else 2
  let n := if first && fits then 1 else segmentsFrom q.pages.length 1 rows b limit q.pages
  { q with
    fp32 := fp32
    firstUse := first
    probe := first && !fits
    exponent := exponentFor (hist.foldl f32max 0)
    segments := n }

/-- The millpond area that a request holds in a core: that of its largest segment (R237). -/
def AttnReq.area (q : AttnReq) (c : Nat) : Nat :=
  if q.die then 0
  else (List.range q.segments).foldl (fun m i => max m (areaOf q.desc.rows (if q.fp32 then 4 else 2) c (segmentOf q.segments i q.pages))) 0

/-- The working set of an engine of a die request (R218): a page, and the scores and running state of one row block. DESIGN CHOICE (entry 111): a
frame of 36,864 bytes, and for each row of the block one FP32 word for each slot and output channel and ten for its running fields. -/
def workingSet (q : AttnReq) : Nat := frameBytes + min 256 q.desc.rows * 4 * (q.geo.cap + q.geo.dim + 10)

/-- The engine of a core that takes a page: the core's engines take the pages that engines serve in turn (R213). -/
def engineOf (q : AttnReq) (i : Nat) : Nat × Nat :=
  match q.pages[i]? with
  | some p => (p.core, ((q.pages.take i).filter (fun x => decide (x.core = p.core) && decide (x.unit = .engine))).length % 8)
  | none => (0, 0)

/-- How many pages an engine of a core takes out of `n` that the core's engines take in turn. -/
def turnsOf (n e : Nat) : Nat := ceilDiv (n - e) 8

/-- The hopper space that a request holds in an engine of a core (R218): a die request's working set, or, DESIGN CHOICE (entry 111), one frame of
36,864 bytes for each die-served page of an in-stack request. -/
def AttnReq.hopper (q : AttnReq) (c e : Nat) : Nat :=
  let n := turnsOf (q.pages.filter (fun p => decide (p.core = c) && decide (p.unit = .engine))).length e
  if q.die then (if n = 0 then 0 else workingSet q) else n * frameBytes

/-- The query contexts that a request holds on a runner (R134, R218). -/
def AttnReq.contexts (q : AttnReq) (pc : Nat) : Nat :=
  if q.pages.any (fun p => decide (p.unit = .runner) && decide (p.frame.map framePc = some pc)) then (if 16 < q.desc.rows then 2 else 1) else 0

/-- The requests that hold reservations. -/
def reserved (s : State) : List AttnReq :=
  (s.attn.reqs.filter (fun r => decide (r.2.phase ≠ .waiting) && decide (r.2.phase ≠ .admitted))).map Prod.snd

/-- Bytes that a millpond slice offers to reservations. -/
def pondBytes : Nat := 23 * 1048576
/-- Bytes of an engine's hopper. -/
def hopperBytes : Nat := 4194304

/-- Whether a request can reserve beside those that hold reservations (R216, R218). -/
def canReserve (s : State) (q : AttnReq) : Bool :=
  let rs := reserved s
  let sum (f : AttnReq → Nat) : Nat := rs.foldl (fun n r => n + f r) (f q)
  (List.range 8).all (fun c => decide (sum (fun r => r.area c) ≤ pondBytes)
      && (List.range 8).all (fun e => decide (sum (fun r => r.hopper c e) ≤ hopperBytes)))
    && (q.pages.filterMap (fun p => p.frame.map framePc)).eraseDups.all (fun pc => decide (sum (fun r => r.contexts pc) ≤ 2))

/-- Change a request. -/
def putReq (id : Nat) (q : AttnReq) (s : State) : State := { s with attn := { s.attn with reqs := s.attn.reqs.put id q } }

/-- Wake the engines of the cores that a request uses (R560). -/
def wakeEngines (q : AttnReq) (s : State) : State :=
  { s with pw := { s.pw with gatedEngines := s.pw.gatedEngines.filter (fun c => !(q.pages.any (fun p => decide (p.core = c)))) } }

/-- Handle a page whose image does not read as a copy that has failed (R296), where it still lies in that image. -/
def imageFailed (p : ReqPage) (s : State) : State :=
  match (pageAt s p.page).map Page.loc with
  | some (.packed n) => if p.image = some n then pageUnreadable p.page s else s
  | some (.flash n) => if p.image = some n then pageUnreadable p.page s else s
  | _ => s

/-- End a request whose page cannot be fetched: a codeword that stays uncorrectable or a table generation that differs ends it (R219, R330), and an
image that is wrong ends it with ST_RETRY_AFTER, unless its page is POISONED now (R312); the page is handled as a copy that does not read
(R296). -/
def failFetch (id : Nat) (p : ReqPage) (e : Fetch) (bad : List Nat) (s : State) : State :=
  if !bad.isEmpty then handleAll bad (failReq id stUncorrectable 0 s)
  else if e = .stale then imageFailed p (failReq id stCodecTableStale 0 s)
  else
    let w := takeEstimate (imageFailed p s)
    failReq id stRetryAfter (max 1 w.1) w.2

/-- A request takes its reservation, fetches the pages held compressed, and begins. -/
def beginReq (id : Nat) (q : AttnReq) (s : State) : State :=
  let s := wakeEngines q s
  let s := bump .attnDescriptors s
  let s := if q.die then s else bumpBy .attnPagesDieServed (q.pages.filter (fun p => decide (p.unit = .engine))).length s
  let s := if 1 < q.segments then bump .attnSegmented s else s
  let r := fetchPages q.geo.fmt q.pages s
  match r.1 with
  | .inr (p, e, bad) => failFetch id p e bad r.2
  | .inl ps => putReq id { q with
      pages := ps
      phase := if q.die then .dieBlocks else .keyPass } r.2

/-- Try to reserve for a request that waits. -/
def tryReserve (id : Nat) (s : State) : State :=
  match s.attn.reqs.at? id with
  | some q => if q.phase = .waiting ∧ canReserve s q then beginReq id q s else s
  | none => s

/-- Take reservations in the order of dispatch, up to a request: those before it that can reserve come first, and one that cannot does not block
it (R218). -/
def reserveTo (id : Nat) (s : State) : State :=
  match s.attn.reqs.at? id with
  | none => s
  | some q =>
    let before := s.attn.reqs.filter (fun r => decide (r.2.phase = .waiting) && decide (r.2.order ≤ q.order))
    (sortBy (fun (a b : Nat × AttnReq) => decide (a.2.order ≤ b.2.order)) before).foldl (fun s r => tryReserve r.1 s) s

/-- Dispatch an admitted request (R184, R201): its pages are assigned, its exponent and form fixed, and its reservation taken where it can
be. -/
def dispatchReq (id : Nat) (s : State) : State :=
  match s.attn.reqs.at? id with
  | none => s
  | some q =>
    if q.phase ≠ .admitted then s
    else
      let r := dispatchPages id q.die q.geo.fmt q.vnode q.pages { s with nextId := s.nextId + 1 }
      let q := { q with pages := r.1, order := s.nextId, phase := .waiting }
      let q := if q.die then { q with fp32 := true } else planStack r.2 q
      let s := bump (if q.die then .attnDie else .attnInStack) r.2
      let s := putReq id q (if q.firstUse then bump .dsFirstUse s else s)
      if q.pages.any (fun p => p.missing) ∧ q.stallUs = 0 then
        let e := takeEstimate s
        failReq id stRetryAfter (max 1 e.1) (bump .promoteRetryAnswers e.2)
      else reserveTo id s

/-! ## Messages (R172, R186, R343) -/

/-- Answer a descriptor with a status-only record (R177, R228). -/
def refuseDesc (dest : ReqDest) (v : VId) (d : QDesc) (st : Status) (node : Option NodeId) (hint : Nat) (s : State) : State :=
  let h := statusOnly d (node.getD (vn s v).nodeId) (mapEpochOf s v) st hint
  match dest with
  | .batch id ix => deliver id ix (hdrBytes h) s
  | .fan id sub => fanAnswer id sub false h [] s

/-- The batch to which the request of a descriptor belongs. -/
def batchOf (s : State) : ReqDest → Option Nat
  | .batch b _ => some b
  | .fan f _ => (s.attn.fanouts.at? f).map Fanout.batch

/-- Hold a descriptor whose search met an update or a rebuild (R85), under its number. -/
def holdDesc (id : Nat) (dest : ReqDest) (v : VId) (d : QDesc) (rows : List (List F32)) (k : Knobs) (ep : BitVec 16) (stall : Nat)
    (snap : Snapshot) (s : State) : State :=
  let p := bankPair d.handle
  { s with attn := { s.attn with held := s.attn.held.put id ⟨dest, v, d, rows, k, ep, stall, p.1, p.2, none, snap⟩ } }

/-- Check one descriptor from its search on, under its number: it waits for its dispatch, is answered, or is held with what it took at its
admission. -/
def admitDesc (id : Nat) (dest : ReqDest) (v : VId) (d : QDesc) (rows : List (List F32)) (k : Knobs) (ep : BitVec 16) (stall : Nat)
    (snap : Option Snapshot) (s : State) : State :=
  let r := checkDesc dest v d rows k ep stall snap s
  match r.1 with
  | .refuse st n hint => refuseDesc dest v d st n hint r.2
  | .held => holdDesc id dest v d rows k ep stall (snap.getD (snapshotOf s v d)) r.2
  | .ok q => putReq id q r.2

/-- Take a number for a descriptor. -/
def takeId (s : State) : Nat × State := (s.nextId, { s with nextId := s.nextId + 1 })

/-- Dispatch the admitted requests of a batch once none of its descriptors is held: by their buckets, from the highest, in message order within
each (R186). -/
def dispatchBatch (b : Nat) (s : State) : State :=
  if s.attn.held.any (fun h => decide (batchOf s h.2.dest = some b)) then s
  else
    let mine := s.attn.reqs.filter (fun r => decide (r.2.phase = .admitted) && decide (batchOf s r.2.dest = some b))
    let inOrder := sortBy (fun (x y : Nat × AttnReq) => decide (x.1 ≤ y.1)) mine
    (sortBy (fun (x y : Nat × AttnReq) => decide (bucketOf y.2.tokens ≤ bucketOf x.2.tokens)) inOrder).foldl
      (fun s r => dispatchReq r.1 s) s

/-- Check the descriptors of a message in order; the requests that pass are dispatched in waves. -/
def serveDescs (batch : Nat) (v : VId) (k : Knobs) (ep : BitVec 16) (epOk : Bool) (stall : Nat) (ds : List (QDesc × List Byte)) (s : State) :
    State :=
  let s := ((List.range ds.length).zip ds).foldl (fun s p =>
    let dest := ReqDest.batch batch p.1
    let d := p.2.1
    let rows := queryRows d p.2.2
    if !(queryStep1 d) ∨ rows.any (fun x => x.any (fun e => !(F32.isFin e))) then refuseDesc dest v d stBadParam none 0 s
    else if !epOk then refuseDesc dest v d stStaleMap none 0 (bumpV .staleMapAnswers v s)
    else
      let n := takeId s
      admitDesc n.1 dest v d rows k ep stall none n.2) s
  dispatchBatch batch s

/-- Open a batch. -/
def openBatch (src : QuerySrc) (v : VId) (count : Nat) (s : State) : Nat × State :=
  (s.nextId, { s with nextId := s.nextId + 1, attn := { s.attn with batches := s.attn.batches.put s.nextId ⟨src, v, count, []⟩ } })

/-- The stall limit of the queue pair or ring that carried a request (R310). -/
def stallOf (s : State) (c : Cmd) : Nat :=
  match c.origin with
  | .host r => (ringAt s r).stallUs
  | .fabric q _ _ _ => ((s.fab.qps.at? q).map Qp.stallUs).getD 0

/-- The result that the descriptors of a command ask for (R447). -/
def fullResult (ds : List (QDesc × List Byte)) : Nat := ds.foldl (fun n d => n + ceilDiv (recordLen d.1.rows d.1.dim) 64 * 64) 0

/-- ATTN_QUERY (R172, R177, R447). -/
def execAttnQuery (c : Cmd) (payload : List Byte) (u : Upsets) (s : State) : Res :=
  runVerb c (fun s =>
    match readQuery payload with
    | none => .now (if maxMessage < payload.length then Reply.badAny else ((reservedCode 64 64 payload).map Reply.bad).getD Reply.badAny) s
    | some ds =>
      if c.hdr.paramLen.toNat ≠ payload.length then .now (Reply.bad 12) s
      else if resultRoom s c < fullResult ds then .now Reply.tooLong s
      else
        let v := vnodeOf s c
        let k := knobsOf s c
        let b := openBatch (.cmd c) v ds.length (applyUpsets u s)
        .later (serveDescs b.1 v k c.hdr.mapEpoch (mapFor s v c.hdr.mapEpoch).isSome (stallOf s c) ds b.2)) s

/-- The single record that answers a QUERY message whose checks fail (R343). -/
def refuseQuery (m : Msg) (payload : List Byte) (st : Status) (s : State) : State :=
  let d := readQDesc (padTo 64 payload)
  let h := if payload.length < 64 then { statusOnly d (vn s m.vnode).nodeId (mapEpochOf s m.vnode) st 0 with tag := 0 }
    else statusOnly d (vn s m.vnode).nodeId (mapEpochOf s m.vnode) st 0
  settle (sendRecord m m.addr none (hdrBytes { h with hint := if st = stRetryAfter then 1 else 0 }) s)

/-- The longest record that a descriptor can return (R343). -/
def longestRecord (ds : List (QDesc × List Byte)) : Nat := ds.foldl (fun m d => max m (recordLen d.1.rows d.1.dim)) 0

/-- Answer every descriptor of a QUERY message with ST_FENCED (R342, R375): each is counted. -/
def fenceDescs (m : Msg) (stride : Nat) (ds : List (QDesc × List Byte)) (s : State) : State :=
  let b := openBatch (.msg m stride) m.vnode ds.length s
  ((List.range ds.length).zip ds).foldl (fun s p =>
    refuseDesc (.batch b.1 p.1) m.vnode p.2.1 stFenced none 0 (bumpV .fencedAnswers m.vnode s)) b.2

/-- QUERY (R342, R343, R375). -/
def execQuery (m : Msg) (payload : List Byte) (u : Upsets) (s : State) : Res :=
  let k := msgKnobs s m
  onMsg m opQuery (fun p => decide (p = payload)) (fun s =>
    if !(hasPeer s m.vnode m.sender) then rejectMsg m.vnode m.sender m.qpn m.msn stDenied s
    else
      let stride := m.aux.toNat
      let fenced := isFenced s m.vnode m.sender || selfFenced s m.vnode
      match readQuery payload with
      | none => refuseQuery m payload (if fenced then stFenced else stBadParam) (if fenced then bumpV .fencedAnswers m.vnode s else s)
      | some ds =>
        if stride % 64 ≠ 0 ∨ stride < longestRecord ds then
          refuseQuery m payload (if fenced then stFenced else stBadParam) (if fenced then bumpV .fencedAnswers m.vnode s else s)
        else if fenced then fenceDescs m stride ds s
        else
          let b := openBatch (.msg m stride) m.vnode ds.length (applyUpsets u s)
          let stall := ((s.fab.qps.at? m.qpn).map Qp.stallUs).getD 0
          serveDescs b.1 m.vnode k m.mapEpoch (mapFor s m.vnode m.mapEpoch).isSome stall ds b.2) s

/-- ATTN_RESERVE (R218): the request that waits takes its reservation where it can, after those dispatched before it. -/
def execAttnReserve (req : Nat) (s : State) : Res := onNode (reserveTo req) s

/-- ATTN_ADMIT_TIMEOUT (R218). -/
def execAttnAdmitTimeout (req : Nat) (s : State) : Res :=
  onNode (fun s =>
    match s.attn.reqs.at? req with
    | some q =>
      if q.phase = .waiting then
        let e := takeEstimate s
        failReq req stRetryAfter (max 1 e.1) (bump .attnAdmitRetries e.2)
      else s
    | none => s) s

/-- PROMOTE_STALL_EXPIRY (R310): a request that still waits for a promotion is answered; the promotion goes on. -/
def execPromoteStallExpiry (req : Nat) (s : State) : Res :=
  onNode (fun s =>
    match s.attn.reqs.at? req with
    | some q =>
      if q.pages.any (fun p => p.missing) then
        let e := takeEstimate s
        failReq req stRetryAfter (max 1 e.1) (bump .promoteRetryAnswers e.2)
      else s
    | none => s) s

end Sys2Proof.Machine
end

