-- ==== Sys2Proof/Machine/Attend.lean ====
section
/-! DEFINITION. The passes of a request: scores, weights, value sums, certificates, the checks on the record and the record itself
(R187–R205, R212–R215, R235–R239, R254–R262, R272–R275). -/

namespace Sys2Proof.Machine

/-! ## Pages as the passes read them -/

/-- The content of a page: as an engine holds it expanded, or as its frame holds it. -/
def pageBytes (s : State) (p : ReqPage) : List Byte :=
  match p.content, p.frame with
  | some bs, _ => bs
  | none, some f => readFrame s f
  | none, none => zeros frameBytes

/-! ## Masks (R175, R209, R212) -/

/-- Whether a token is unmasked for a query token: its span, and its place within the span. -/
def unmasked (s : State) (q : AttnReq) (t span j : Nat) : Bool :=
  let causal := decide (q.desc.maskMode % 2 = 0) || decide (span * q.geo.spanLen + j ≤ q.desc.posBase + t)
  let row := q.desc.maskRowBase + t
  let e := q.tiles.atD (span, row / 128, j / 128) 0
  let kind := bitsOf e 31 30
  let bit := if kind = 1 then true
    else if kind = 2 then
      let a := frameBase (bitsOf e 27 4) + 2048 * (e % 16) + 16 * (row % 128) + j % 128 / 8
      ((hbmRead s a 1).headD 0).getLsbD (j % 8)
    else false
  causal && (decide (q.desc.maskMode < 2) || bit)

/-- Slot by slot, the query tokens that see it. -/
def pageMask (s : State) (q : AttnReq) (p : ReqPage) : List (List Bool) :=
  (List.range p.tokens).map (fun i => (List.range q.desc.qTokens).map (fun t => unmasked s q t p.span (p.page.page * q.geo.cap + i)))

/-- The key steps of a runner page, each with the slots whose rows it holds in any part. -/
def keySteps (g : Geometry) (tokens : Nat) : List (List Nat) :=
  let n := rowBytes g.fmt g.dim
  (List.range (ceilDiv (tokens * n) 1024)).map (fun k => (slotsIn 0 n (1024 * k) 1024).filter (fun t => decide (t < tokens)))

/-- The steps of a page that are not issued (R212), by their page-local row, each with its slots. DESIGN CHOICE (entry 109): a step whose tokens
EXPLICIT tiles mask for every row is among them. -/
def skippedSteps (g : Geometry) (p : ReqPage) (m : List (List Bool)) : List (Nat × List Nat) :=
  if p.unit = .runner then
    let st := keySteps g p.tokens
    ((List.range st.length).zip st).filter (fun x => x.2.all (fun t => (m.getD t []).all (fun b => !b)))
  else []

/-- Whether a slot is unmasked for every query token, and whether for some. -/
def slotSeen (m : List (List Bool)) (t : Nat) : Bool × Bool := ((m.getD t []).all (fun b => b), (m.getD t []).any (fun b => b))

/-! ## The reads of a pass (R165, R212, R213, R255, R256) -/

/-- A read of a pass: by whom, from where, and how many bytes. -/
abbrev PassRead := Reader × Nat × Nat

/-- The mask rows of the tiles that a page's tokens use (R209). -/
def tileReads (q : AttnReq) (p : ReqPage) : List PassRead :=
  let j0 := p.page.page * q.geo.cap
  (q.tiles.filter (fun t => decide (t.1.1 = p.span) && decide (bitsOf t.2 31 30 = 2) && decide (p.tokens ≠ 0) && decide (j0 / 128 ≤ t.1.2.2)
      && decide (t.1.2.2 ≤ (j0 + p.tokens - 1) / 128))).map (fun t =>
    let lo := max q.desc.maskRowBase (128 * t.1.2.1) - 128 * t.1.2.1
    let hi := min (q.desc.maskRowBase + q.desc.qTokens) (128 * t.1.2.1 + 128) - 128 * t.1.2.1
    (.normal, frameBase (bitsOf t.2 27 4) + 2048 * (t.2 % 16) + 16 * lo, 16 * (hi - lo)))

/-- The reads of a page's rows and scales by the unit that serves it: a runner reads the rows of the steps that are issued, and needs no scales
where none is. -/
def rowReads (g : Geometry) (value : Bool) (p : ReqPage) (f : FrameId) (skipped : List (Nat × List Nat)) : List PassRead :=
  let m := annexMap g.fmt g.dim
  let w : Reader := if p.unit = .runner then .runner else .normal
  let n := p.tokens * rowBytes g.fmt g.dim
  let base := frameBase f
  let first := base + (if value then 0x4000 else 0)
  let an := base + annexAt
  let gr := groupsOf g.fmt g.dim
  let scales : List PassRead := [(w, an + (if value then m.valueScale else m.keyScale), 2 * p.tokens)]
    ++ (if gr = 0 then [] else [(w, an + (if value then m.valueGroups else m.keyGroups), p.tokens * gr)])
  if p.unit = .runner then
    let issued := (List.range (ceilDiv n 1024)).filter (fun k => !(skipped.any (fun x => decide (x.1 = k))))
    if issued.isEmpty then [] else scales ++ issued.map (fun k => (w, first + 1024 * k, min 1024 (n - 1024 * k)))
  else scales ++ [(w, first, n)]

/-- The check lane's reads of a page: HEADER, KEY_SUM and VALUE_CHECK; and where a row sees only some of the page's tokens, or the page's count is
not the request's, the key rows that it sums directly (R255). -/
def laneReads (s : State) (g : Geometry) (p : ReqPage) (f : FrameId) (m : List (List Bool)) : List PassRead :=
  let an := frameBase f + annexAt
  let n := rowBytes g.fmt g.dim
  let direct := decide ((readHeader (hbmRead s an 64)).count ≠ p.tokens) || (List.range p.tokens).any (fun t => !(slotSeen m t).1)
  (.normal, an, (annexMap g.fmt g.dim).keyScale)
    :: (if direct then ((List.range p.tokens).filter (fun t => (slotSeen m t).2)).map (fun t => (.normal, frameBase f + t * n, n)) else [])

/-- The reads that a pass makes of a page. -/
def pageReads (s : State) (q : AttnReq) (value : Bool) (p : ReqPage) : List PassRead :=
  let tiles := if value then [] else tileReads q p
  match p.content, p.frame with
  | none, some f =>
    let m := pageMask s q p
    tiles ++ rowReads q.geo value p f (skippedSteps q.geo p m) ++ (if value then [] else laneReads s q.geo p f m)
  | _, _ => tiles

/-- What a runner's read brings to the status words of the request's sequences there. -/
def noteSeqs (id stack pc n : Nat) (ue : Bool) (s : State) : State :=
  ((runnerAt s stack pc).live.filter (fun x => decide (x.2.req = some id) && !x.2.ended)).foldl (fun s x =>
    let s := updRnStatus stack pc x.1 (fun y => { y with ceCount := min 65535 (y.ceCount + n), ue := y.ue || ue }) s
    if ue then issueOwed stack pc (setSeq stack pc x.1 { x.2 with ended := true } s) else s) s

/-- Make reads in turn, up to the first with codewords that stay uncorrectable: these. -/
def readAll (id : Nat) : List PassRead → State → List Nat × State
  | [], s => ([], s)
  | (w, a, n) :: r, s =>
    let good := (correctedIn s a n).length
    let x := readCodewords w a n s
    let s := match w with
      | .runner => noteSeqs id (stackOf a) (a % 2 ^ 36 / pcBytes) good (!x.1.isEmpty) x.2
      | _ => x.2
    if x.1.isEmpty then readAll id r s else (x.1, s)

/-- Whether a double register error meets a request on a runner that shows no sequence of it: in the context that it would hold there. -/
def regHit (s : State) (id : Nat) (q : AttnReq) (ps : List ReqPage) (e : RegUpset) : Bool :=
  let l := (runnerAt s e.stack e.pc).live
  let free := [0, 1].filter (fun c => !(l.any (fun x => !x.2.ended && (x.2.wide || decide (x.2.ctx = c)))))
  e.double && ps.any (fun p => decide (p.unit = .runner) && decide (p.frame.map framePc = some (e.stack * 32 + e.pc)))
    && !(l.any (fun x => decide (x.2.req = some id))) && (decide (16 < q.desc.rows) || decide (free.head? = some e.ctx))

/-- What a pass meets before its arithmetic: whether the request goes on, and the codewords that stayed uncorrectable. -/
def meetPass (id : Nat) (q : AttnReq) (value : Bool) (ps : List ReqPage) (u : Upsets) (s : State) : Bool × List Nat × State :=
  let s := applyUpsets u s
  let rs := ps.flatMap (pageReads s q value)
  let a := meetLink u ((rs.head?.map (fun r => r.2.1)).getD 0) s
  let hit := u.regs.any (regHit a.2 id q ps)
  let s := u.regs.foldl (fun s e => meetReg e s) a.2
  let c := readAll id rs s
  (a.1 && !hit && c.1.isEmpty && c.2.attn.reqs.has id, c.1, c.2)

/-- End a request on what a pass met (R165, R219): the frames of bad codewords are handled after it. -/
def failPass (id : Nat) (bad : List Nat) (s : State) : State := handleAll bad (failReq id stUncorrectable 0 s)

/-! ## The key pass (R193, R197–R205, R254–R258) -/

/-- A page as the arithmetic sees it: its content, its mask, and the slots that are scored. -/
structure PageView where
  p : ReqPage
  bytes : List Byte
  mask : List (List Bool)
  scored : List Nat
  skipped : Nat
deriving DecidableEq, Repr

/-- Look at a page. -/
def viewPage (s : State) (q : AttnReq) (p : ReqPage) : PageView :=
  let m := pageMask s q p
  let sk := skippedSteps q.geo p m
  let out := sk.flatMap Prod.snd
  ⟨p, pageBytes s p, m, (List.range p.tokens).filter (fun t => !decide (t ∈ out)), sk.length⟩

/-- Whether a row sees a slot. -/
def PageView.sees (v : PageView) (q : AttnReq) (r t : Nat) : Bool := (v.mask.getD t []).getD (r / q.desc.qHeads) false

/-- The salt of a slot's free values, by page, row and slot. -/
def slotSalt (page row t : Nat) : Nat := (page * 1024 + row) * 256 + t

/-- The scores of a request's page `i`: per row, the scored slots with their scores before storage. -/
def pageScores (tick i : Nat) (q : AttnReq) (v : PageView) : List (List (Nat × F32)) :=
  let keys := v.scored.map (fun t => (t, codeRow q.geo v.bytes t false))
  ((List.range q.query.length).zip q.query).map (fun x =>
    keys.map (fun k => (k.1, scoreOf tick (slotSalt i x.1 k.1) q.geo.fmt q.desc.mult x.2 k.2)))

/-- The largest magnitude among scores (R200). -/
def blockMaxOf (sc : List (List (List (Nat × F32)))) : F32 := sc.flatten.flatten.foldl (fun m x => f32max m (f32abs x.2)) 0

/-- The key-side reference vector of a page for a row (R255): KEY_SUM, or the rows summed directly; and whether directly. -/
def keyRef (tick salt : Nat) (q : AttnReq) (v : PageView) (r : Nat) : List F32 × Bool :=
  let m := annexMap q.geo.fmt q.geo.dim
  let a := v.bytes.drop annexAt
  let whole := decide ((readHeader a).count = v.p.tokens) && (List.range v.p.tokens).all (fun t => v.sees q r t)
  if whole then ((chunks 4 (bytesAt a m.keySum (4 * q.geo.dim))).map (fun c => BitVec.ofNat 32 (leNat c)), false)
  else
    let rows := ((List.range v.p.tokens).filter (fun t => v.sees q r t)).map (fun t => (codeRow q.geo v.bytes t false).deq q.geo.fmt)
    ((List.range q.geo.dim).map (fun d => freeSum tick (salt + d) (rows.map (fun x => x.getD d 0))), true)

/-- VALUE_CHECK of a slot. -/
def valueCheckOf (g : Geometry) (bytes : List Byte) (t : Nat) : F32 :=
  BitVec.ofNat 32 (leNat (bytesAt bytes (annexAt + (annexMap g.fmt g.dim).valueCheck + 4 * t) 4))

/-- The sequences of a request on the runner of a page, with their runner and the frame's base address. -/
def seqsOf (s : State) (id : Nat) (p : ReqPage) : List (BitVec 8 × RnSeq × Runner × Nat) :=
  match p.unit, p.frame with
  | .runner, some f =>
    let r := runnerAt s (frameStack f) (framePc f % 32)
    (r.live.filter (fun x => decide (x.2.req = some id))).map (fun x => (x.1, x.2, r, frameBase f))
  | _, _ => []

/-- The score that RN_SCORE has stored in the millpond for a request's row and slot of a page, decoded (R187, R197, R254): under FP16 storage only
where it was stored under the exponent of the pass. -/
def pondScore (s : State) (id : Nat) (q : AttnReq) (p : ReqPage) (r t : Nat) : Option F32 :=
  (seqsOf s id p).findSome? (fun x =>
    (x.2.2.1.pond.at? (x.1.toNat, x.2.2.2, t, r)).bind (fun w =>
      let e := argExponent (x.2.2.1.dsScale.atD (if 16 < q.desc.rows then r / 16 else x.2.1.ctx) 0)
      if q.fp32 then some w else if e = q.exponent then some (scoreDecode e (w.toNat % 65536)) else none))

/-- The decoded scores of a view, per row: as the millpond holds them where the runner's steps have been shown, and as the pass stores them
otherwise (entry 27). -/
def laidScores (s : State) (id : Nat) (q : AttnReq) (v : PageView) (sc : List (List (Nat × F32))) : List (List (Nat × F32)) :=
  ((List.range sc.length).zip sc).map (fun row => row.2.map (fun x =>
    (x.1, (pondScore s id q v.p row.1 x.1).getD (storedScore q.fp32 q.exponent x.2))))

/-- Whether the millpond holds every score of a view, and its runner's magnitude totals. -/
def pondWhole (s : State) (id : Nat) (q : AttnReq) (v : PageView) : Bool :=
  !v.scored.isEmpty && (List.range q.desc.rows).all (fun r => v.scored.all (fun t => (pondScore s id q v.p r t).isSome)
    && (seqsOf s id v.p).any (fun x => x.2.2.1.pondMag.has (x.1, false, r)))

/-- The magnitude totals of a row that the runners of some views have left in the millpond (R257): one for each runner. -/
def pondTotals (s : State) (id : Nat) (vs : List PageView) (r : Nat) : List F32 :=
  ((vs.flatMap (fun v => (seqsOf s id v.p).filterMap (fun x =>
    (x.2.2.1.pondMag.at? (x.1, false, r)).map (fun m => (x.2.2.2 / pcBytes, m))))).eraseDups).map Prod.snd

/-- The block maximum that a runner has left of a page's sequence in the millpond (R200), where the millpond holds the page's scores. -/
def pondMaxOf (s : State) (id : Nat) (q : AttnReq) (v : PageView) : Option F32 :=
  if pondWhole s id q v then (seqsOf s id v.p).findSome? (fun x => x.2.2.1.pondMax.at? x.1) else none

/-- The certificate and row sum of one core for a row, without its output sums (R254): the views of the core with their decoded
scores and weights. `direct` counts the pages summed directly; `totals` are magnitude totals that runners have formed, of the views that
`formed` marks. -/
def coreRow (tick salt : Nat) (q : AttnReq) (e : Int) (r : Nat) (m : F32) (ws : Nat → PageView → List F32) (formed : PageView → Bool)
    (totals : List F32) (vs : List (Nat × PageView × List (List (Nat × F32)))) : RowPart × Nat :=
  let x := q.query.getD r []
  let sees (v : PageView × List (List (Nat × F32))) : List (Nat × F32) := (v.2.getD r []).filter (fun y => v.1.sees q r y.1)
  let scores := vs.flatMap (fun v => (sees v.2).map Prod.snd)
  let refs := (vs.zip (List.range vs.length)).map (fun v => keyRef tick ((salt * 4096 + v.2) * 512) q v.1.2.1 r)
  let dots := (refs.zip (List.range refs.length)).map (fun k =>
    freeSum tick ((salt * 4096 + k.2) * 512 + 300) ((x.zip k.1.1).map (fun p => f32mul p.1 p.2)))
  let mags := totals ++ (vs.filter (fun v => !(formed v.2.1))).flatMap (fun v => v.2.1.scored.map (fun t =>
    scoreMag (tick + 1) (slotSalt v.1 r t) q.geo.fmt q.desc.mult x (codeRow q.geo v.2.1.bytes t false)))
  let floor_ := if q.fp32 then [] else vs.flatMap (fun v => v.2.1.scored.map (fun _ => F32.ofRat (pow2 (e - 14))))
  let wts := vs.map (fun v => (v.2.1, ws v.1 v.2.1))
  let outRef := wts.flatMap (fun w => ((List.range w.1.p.tokens).zip w.2).map (fun z => f32mul z.2 (valueCheckOf q.geo w.1.bytes z.1)))
  let un := vs.foldl (fun n v => n + (((List.range v.2.1.p.tokens).filter (fun t => v.2.1.sees q r t && decide (t ∈ v.2.1.scored))).length)) 0
  (⟨m, freeSum tick (salt * 8 + 1) (wts.flatMap Prod.snd), f32mul q.desc.mult (freeSum tick (salt * 8 + 2) dots),
    freeSum tick (salt * 8 + 3) scores, 0, freeSum tick (salt * 8 + 4) (mags ++ floor_), 0, freeSum tick (salt * 8 + 5) outRef, un,
    List.replicate q.geo.dim 0⟩, (refs.filter (fun k => k.2)).length)

/-- The weights of a page for a row: per slot, zero where it is masked, not scored or the row is empty (R188, R190). -/
def rowWeights (tick salt : Nat) (q : AttnReq) (v : PageView) (r : Nat) (m : F32) (sc : List (Nat × F32)) : List F32 :=
  (List.range v.p.tokens).map (fun t =>
    match sc.find? (fun y => y.1 = t) with
    | some y => if m = f32NegInf ∨ !(v.sees q r t) then 0 else weight16 (exp32 tick (salt * 256 + t) (f32sub y.2 m))
    | none => 0)

/-- The present segment's pages. -/
def AttnReq.segPages (q : AttnReq) : List ReqPage := segmentOf q.segments q.segment q.pages

/-- The row maxima over views (R188): decoded scores of unmasked tokens. -/
def rowMaxima (q : AttnReq) (vs : List (PageView × List (List (Nat × F32)))) : List F32 :=
  (List.range q.desc.rows).map (fun r =>
    vs.foldl (fun m v => ((v.2.getD r []).filter (fun y => v.1.sees q r y.1)).foldl (fun m y => f32max m y.2) m) f32NegInf)

/-- Log and count an overflow, and end the request (R196). -/
def overflowReq (id : Nat) (q : AttnReq) (s : State) : State :=
  let s := logFrom q.vnode 0x0401 srcCore [(64, q.desc.handle.toNat), (16, q.desc.layer), (8, q.desc.head), (32, q.desc.tag.toNat)]
    (bump .attnOverflows s)
  failReq id stBadParam 0 s

/-- The exponent of a segment's scores, with what it counts and flags: a probe's, the request's, or that of a repeat
(R201, R203–R205, R238). -/
def chooseExponent (q : AttnReq) (a : F32) (sc : List (List (List (Nat × F32)))) (s : State) : AttnReq × State :=
  if q.fp32 then (q, s)
  else if q.probe then ({ q with exponent := exponentFor a, probe := false }, s)
  else
    let sat := sc.any (fun p => p.any (fun r => r.any (fun x => (scoreCode q.exponent x.2).2)))
    let low := decide (F32.rat a ≠ 0) && decide (f32mag a < pow2 (q.exponent + 7)) && decide (exponentFor a < q.exponent)
    if sat then ({ q with exponent := exponentFor a, retried := true }, bump .dsSatRetries s)
    else if low ∧ q.knobs.dsRetryPolicy = 0 then ({ q with low := true }, if q.low then s else bump .dsLowresFlags s)
    else if low then ({ q with exponent := exponentFor a, retried := true }, bump .dsLowresRetries s)
    else (q, s)

/-- The block-maximum records of a key pass in the millpond slices (R200): per core, of each runner and of the core's engines. -/
def maximaOf (vs : List (PageView × List (List (Nat × F32)))) : Tbl (Nat × Nat) (BitVec 32) :=
  vs.foldl (fun t v =>
    let unit := if v.1.p.unit = .runner then (v.1.p.frame.map (fun f => framePc f % 32)).getD 32 else 32
    t.upd (v.1.p.core, unit) 0 (fun m => f32max m (blockMaxOf [v.2]))) []

/-- Put the weights of a page in the millpond, in place of the scores of the sequences that serve the request there (R191). -/
def putWeights (id : Nat) (v : PageView) (ws : List (List F32)) (s : State) : State :=
  match v.p.unit, v.p.frame with
  | .runner, some f =>
    let stack := frameStack f
    let pc := framePc f % 32
    let rows := (List.range ws.length).zip ws
    ((runnerAt s stack pc).live.filter (fun x => decide (x.2.req = some id))).foldl (fun s x =>
      updRunner stack pc (fun r => { r with pond := rows.foldl (fun t w =>
        ((List.range w.2.length).zip w.2).foldl (fun t y =>
          t.put (x.1.toNat, frameBase f, y.1, w.1) (BitVec.ofNat 32 (fp16.encode (fp16.round (F32.val y.2))))) t) r.pond }) s) s
  | _, _ => s

/-- Whether a stored score decodes to a finite value, or is a saturated code (R196, R203). -/
def storedFin (q : AttnReq) (x : F32) : Bool := F32.isFin (storedScore q.fp32 q.exponent x) || (!q.fp32 && (scoreCode q.exponent x).2)

/-- End a key pass (R187 steps 2 to 5): its scores, block maxima and magnitude totals are those that the rows of its runners have left in the
millpond, and the pass stands for the steps that no row of their own shows (entry 27). DESIGN CHOICE (entry 108): MASK_STEPS_SKIPPED counts a step that
is not issued once, for a probe or repeated key pass too (R212). -/
def endKeyPass (id : Nat) (q : AttnReq) (s : State) : State :=
  let t := s.tick
  let vs := q.segPages.map (viewPage s q)
  let sc := ((List.range vs.length).zip vs).map (fun v => pageScores t v.1 q v.2)
  let s := bumpBy .maskStepsSkipped (vs.foldl (fun n v => n + v.skipped) 0) { s with tick := t + 4 }
  let wrong (f : F32 → Bool) : Bool := sc.any (fun p => p.any (fun r => r.any (fun x => !(f x.2))))
  if wrong F32.isFin then overflowReq id q s
  else
    let a := (vs.zip sc).foldl (fun m v => f32max m ((pondMaxOf s id q v.1).getD (blockMaxOf [v.2]))) 0
    let c := chooseExponent q a sc s
    let q := { c.1 with blockMax := f32max q.blockMax a, maxima := if q.fp32 then [] else maximaOf (vs.zip sc) }
    let s := c.2
    if wrong (storedFin q) then overflowReq id q s
    else
      let last := decide (q.segment + 1 = q.segments)
      let s := if last then pushHistory q.desc q.blockMax s else s
      let dec := (vs.zip sc).map (fun v => (v.1, laidScores s id q v.1 v.2))
      let ms := rowMaxima q dec
      let wt := (dec.zip (List.range dec.length)).map (fun v =>
        (List.range q.desc.rows).map (fun r => rowWeights (t + 1) (v.2 * 1024 + r) q v.1.1 r (ms.getD r f32NegInf) (v.1.2.getD r [])))
      let cores := (vs.map (fun v => v.p.core)).eraseDups
      let parts := cores.map (fun c =>
        let mine := ((List.range dec.length).zip dec).filter (fun v => decide (v.2.1.p.core = c))
        let shown := (mine.map (fun v => v.2.1)).filter (pondWhole s id q)
        (c, (List.range q.desc.rows).map (fun r =>
          coreRow (t + 2) ((c + 1) * 1024 + r) q q.exponent r (ms.getD r f32NegInf) (fun i _ => (wt.getD i []).getD r [])
            (fun v => decide (v ∈ shown)) (pondTotals s id shown r) mine)))
      let direct := parts.foldl (fun n p => n + (p.2.foldl (fun n r => n + r.2) 0)) 0
      let s := (vs.zip wt).foldl (fun s v => putWeights id v.1 v.2 s) (bumpBy .certDirectPages direct s)
      putReq id { q with weights := wt, cores := parts.map (fun p => (p.1, p.2.map Prod.fst)), phase := .valuePass } s

/-- Whether a runner page of a segment waits for its stack, which is at throttle level 3 (R169, R183). -/
def passWaits (s : State) (ps : List ReqPage) : Bool := ps.any (fun p => decide (p.unit = .runner) && decide (throttleOf s p.core = 3))

/-- The codec serves the expansions that were queued for queries before a pass or a die block of a request with an image page ends (R184, R331): a block whose table
is gone ends its request (R330). -/
def expandFirst (req : Nat) (s : State) : State :=
  if (s.attn.reqs.at? req).any (fun q => q.pages.any (fun p => p.image.isSome)) then drainCodec 1 s else s

/-- KEY_PASS_COMPLETE (R187, R203, R204). -/
def execKeyPassComplete (req : Nat) (u : Upsets) (s : State) : Res :=
  onNode (fun s =>
    let s := expandFirst req s
    match s.attn.reqs.at? req with
    | some q =>
      if q.phase = .keyPass ∧ !(q.pages.any (fun p => p.missing)) ∧ !(passWaits s q.segPages) then
        let r := meetPass req q false q.segPages u s
        if r.1 then endKeyPass req q r.2.2 else failPass req r.2.1 r.2.2
      else s
    | none => s) s

/-! ## Coverage and identity (R260–R262, R272) -/

/-- The coverage term of a page (R261, R262). -/
def coverageTerm (asSealed : Bool) (h : Header) (tokens : Nat) : Nat :=
  let str := word [(0, h.handle), (64, h.span), (88, if asSealed then 1 else 2), (96, h.layer), (112, h.head), (128, h.page),
    (144, tokens), (160, if asSealed then 0 else h.gen)]
  let digest := if asSealed then padTo 32 h.digest else zeros 32
  leNat (sha256 (leBytes 32 str ++ digest))

/-- The coverage digest of a request. -/
def coverageOf (s : State) (q : AttnReq) : Nat :=
  (q.pages.foldl (fun n p => n + coverageTerm p.asSealed (readHeader ((pageBytes s p).drop annexAt)) p.tokens) 0) % 2 ^ 256

/-- The identity check of a page read (R272): the first difference between its header and its entry, with both values. -/
def identityFail (s : State) (q : AttnReq) (p : ReqPage) : Option CheckFail :=
  let h := readHeader ((pageBytes s p).drop annexAt)
  let pairs : List (Nat × Nat) := [(h.handle, p.owner.toNat), (h.span, p.span), (h.layer, q.desc.layer), (h.head, q.desc.head),
    (h.page, p.page.page), (h.gen, p.gen.toNat)]
  if p.asSealed ∧ h.digest ≠ p.digest then some ⟨.digest, 0, (leNat h.digest : Rat), (leNat p.digest : Rat), 0⟩
  else (pairs.find? (fun x => decide (x.1 ≠ x.2))).map (fun x => ⟨.identity, 0, (x.1 : Rat), (x.2 : Rat), 0⟩)

/-- The first page that fails its identity check; differences of the digest come first. -/
def firstIdentity (s : State) (q : AttnReq) : Option (ReqPage × CheckFail) :=
  let fails := q.pages.filterMap (fun p => (identityFail s q p).map (fun k => (p, k)))
  match fails.find? (fun f => decide (f.2.kind = .digest)) with
  | some f => some f
  | none => fails.head?

/-! ## Digest mismatches (R280) -/

/-- The hash of a page's content for a comparison of copies: the digest of R62, or zeros where the header does not carry the
recorded digest (R277). -/
def contentHash (x : Page) (bs : List Byte) : List Byte :=
  if x.isSealed ∧ (readHeader (bs.drop annexAt)).digest ≠ x.digest ∧ pageDigest bs = x.digest then zeros 32 else pageDigest bs

/-- The queries that have read a page: one that still waits for the page's promotion has not (R280). -/
def haveRead (s : State) (p : PageRef) : List Nat :=
  (readersOf s p).filter (fun id => (s.attn.reqs.at? id).any (fun q => q.pages.any (fun x => samePage s x.page p && !x.missing)))

/-- A copy whose content does not match its recorded digest: counted, and the queries that read its frame end (R280). -/
def endReaders (p : PageRef) (x : Page) (hash : List Byte) (s : State) : State :=
  (haveRead s p).foldl (fun s id => match s.attn.reqs.at? id with
    | some q =>
      let s := logCheckFail q.vnode q.desc ⟨.digest, 0, (leNat hash : Rat), (leNat x.digest : Rat), 0⟩ 0 p.page x.frameId s
      failReq id stCheckFail 0 s
    | none => s) (bump .digestMismatches s)

/-- A page's content does not match its recorded digest: queries that read it end, and it is resolved with its other copy (R280). The holder of a
copy thereby asks the holder of the SPAN entry, which resolves it (R282). -/
def digestMismatch (p : PageRef) (hash : List Byte) (s : State) : State :=
  match pageAt s p, spanAt s p.record with
  | some x, some r =>
    let s := endReaders p x hash s
    if (awaited s p).isSome ∨ x.poison.isSome then s
    else if hasOther s r p x then askOther p hash (awaitPage p (some hash) s)
    else poisonPage p .digest s
  | _, _ => s

/-! ## The record (R223–R227, R272–R275) -/

/-- The header of a request's partial. -/
def partialHdr (s : State) (q : AttnReq) (st : Status) : RecHdr :=
  ⟨q.desc.tag, st, false, false, decide (1 < q.segments), q.absorbed, q.low, q.retried, q.geo.valueRotated, q.die,
    !q.die && q.pages.any (fun p => decide (p.unit = .engine)), q.desc.handle, q.desc.spanFirst, q.desc.layer, q.desc.head, q.desc.spanCount,
    q.mapEpoch, (vn s q.vnode).nodeId, q.desc.rows - 1, q.desc.headDim, 1, q.pages.length, q.segments, 0, q.tokens, coverageOf s q⟩

/-- The verification context of a request's own record. -/
def reqCtx (q : AttnReq) : VerifyCtx := ⟨q.geo.fmt, !q.die && !q.fp32, if q.geo.valueRotated then blockOf q.geo.rotation.toNat else 0, false⟩

/-- The per-core verify of R272: the first core that fails. -/
def verifyCores (s : State) (q : AttnReq) (cores : List (Nat × List RowPart)) (ps : List ReqPage) : Option (Nat × CheckFail) :=
  cores.findSome? (fun c =>
    let l := (ps.filter (fun p => decide (p.core = c.1))).foldl (fun n p => n + p.tokens) 0
    let h := { partialHdr s q stOk with tokensRead := l, parts := 1, segments := 1, normalised := false, valueRotated := false }
    (verify h ⟨q.geo.fmt, !q.die && !q.fp32, 0, !q.die⟩ c.2).map (fun e => (c.1, e)))

/-- Whether this partial is full-checked (R273). -/
def fullTurn (s : State) (q : AttnReq) : Bool := decide (q.knobs.checkCoverage ≠ 0) || decide (s.attn.partials % 16 = 0)

/-- The first failing check of a record (R272, R275): digests, identities, cores, then the record itself. -/
structure FirstFail where
  fail : CheckFail
  core : Nat
  page : Nat
  frame : Nat
deriving DecidableEq, Repr

/-- De-rotate the output sums (R180). -/
def derotate (q : AttnReq) (rows : List RowPart) : List RowPart :=
  if q.geo.valueRotated then rows.map (fun p => { p with out := hadamard q.geo.rotation.toNat p.out }) else rows

/-- Produce the record of a request (R272–R275): the light check, the full check where its turn comes, and its delivery. -/
def produce (id : Nat) (q : AttnReq) (rows : List RowPart) (s : State) : State :=
  let q := { q with full := fullTurn s q }
  let rows := derotate q rows
  let h := partialHdr s q stOk
  let ident := if q.full then firstIdentity s q else none
  let own := (verify h (reqCtx q) rows).map (fun e => (⟨e, 0, 0, 0⟩ : FirstFail))
  let first : Option FirstFail := match ident with
    | some (p, e) => some ⟨e, 0, p.page.page, p.frame.getD 0⟩
    | none => match (if q.full then q.coreFail else none) with
      | some (c, e) => some ⟨e, c, 0, 0⟩
      | none => own
  let s := bump (if q.full then .checksFull else .checksLight) s
  let s := { s with attn := { s.attn with partials := s.attn.partials + 1 } }
  match first with
  | none => endReq id h rows s
  | some f =>
    let s := logCheckFail q.vnode q.desc f.fail f.core f.page f.frame (bump .checkFails s)
    let s := endReq id { h with status := stCheckFail } rows s
    match ident with
    | some (p, ⟨.digest, _, _, _, _⟩) => (match pageAt s p.page with
      | some x => digestMismatch p.page (contentHash x (pageBytes s p)) s
      | none => s)
    | _ => s

/-! ## The value pass (R187 steps 6 and 7, R195) -/

/-- What the runners of a core have drained for a row (R187). -/
def drainedOf (q : AttnReq) (c r : Nat) : List (List (BitVec 32) × BitVec 32) :=
  (q.drained.filter (fun x => decide (x.1.1 = c) && decide (x.1.2.2 = r))).map Prod.snd

/-- Whether the runner of a page has drained its output sums for a row. -/
def hasDrained (q : AttnReq) (p : ReqPage) (r : Nat) : Bool :=
  decide (p.unit = .runner) && (match p.frame with
    | some f => q.drained.has (frameStack f, framePc f % 32, r)
    | none => false)

/-- The output sums of a core for a row, added to what its key pass left: what its runners have drained, and the products of the pages whose
steps no row shows (R195, R254). -/
def withOutputs (tick salt : Nat) (q : AttnReq) (r : Nat) (base : RowPart) (c : Nat) (vs : List (PageView × List F32)) : RowPart :=
  let sums := drainedOf q c r
  let vs := vs.filter (fun v => !(hasDrained q v.1.p r))
  let terms := vs.flatMap (fun v => ((List.range v.1.p.tokens).zip v.2).filterMap (fun z =>
    if F32.rat z.2 = 0 then none else some (z.2, codeRow q.geo v.1.bytes z.1 true)))
  let out := (List.range q.geo.dim).map (fun d =>
    freeDot tick ((salt * 1024 + r) * 512 + d)
      (sums.map (fun x => F32.val (x.1.getD d 0)) ++ terms.map (fun z => valueTerm q.geo.fmt z.1 z.2 d)))
  let abs := ((List.range terms.length).zip terms).map (fun z => freeDot (tick + 1) (((salt * 1024 + r) * 512 + 302) * 65536 + z.1)
    ((z.2.2.deq q.geo.fmt).map (fun x => ((F32.val z.2.1).mul (F32.val x)).abs)))
  { base with
    out := out
    outSum := freeSum tick ((salt * 1024 + r) * 512 + 300) out
    outAbs := freeSum tick ((salt * 1024 + r) * 512 + 301) (sums.map Prod.snd ++ abs) }

/-- Reduce the rows of cores or engines into one, in an order that is not fixed (R220, R235). -/
def reduceFuel (fuel tick salt : Nat) (xs : List (List RowPart)) : Option (List RowPart × Nat) :=
  match fuel with
  | 0 => xs.head?.map (fun x => (x, 0))
  | k + 1 =>
    match freeFirst tick salt xs with
    | [] => none
    | [x] => some (x, 0)
    | x :: r => match freeFirst tick (salt + 1) r with
      | [] => some (x, 0)
      | y :: r' =>
        let m := mergeRows tick (salt + 2) x y
        (reduceFuel k tick (salt + 2) (m.1 :: r')).map (fun z => (z.1, z.2 + m.2))

/-- Rows over no token. -/
def emptyRows (q : AttnReq) : List RowPart := List.replicate q.desc.rows (RowPart.empty q.geo.dim)

/-- Reduce, with the rows of a request that read no page. -/
def reduceRows (q : AttnReq) (tick : Nat) (xs : List (List RowPart)) : List RowPart × Nat :=
  (reduceFuel xs.length tick (2 ^ 40) xs).getD (emptyRows q, 0)

/-- Whether every output sum of some rows is finite (R196). -/
def finiteOut (rows : List RowPart) : Bool := rows.all (fun p => p.out.all F32.isFin)

/-- VALUE_PASS_COMPLETE (R187, R223, R272): the value sums of the present segment; a request in one pass ends with its record. The per-core
check of every segment is kept until the record's turn is known. -/
def execValuePassComplete (req : Nat) (u : Upsets) (s : State) : Res :=
  onNode (fun s =>
    let s := expandFirst req s
    match s.attn.reqs.at? req with
    | some q =>
      let ps := q.segPages
      if q.phase ≠ .valuePass ∨ passWaits s ps then s
      else
        let m := meetPass req q true ps u s
        if !m.1 then failPass req m.2.1 m.2.2
        else
          let s := m.2.2
          let t := s.tick
          let vs := (ps.map (viewPage s q)).zip q.weights
          let cores := q.cores.map (fun c =>
            let mine := vs.filter (fun v => decide (v.1.p.core = c.1))
            (c.1, ((List.range q.desc.rows).zip c.2).map (fun r =>
              withOutputs t (c.1 + 1) q r.1 r.2 c.1 (mine.map (fun v => (v.1, v.2.getD r.1 []))))))
          let rows := reduceRows q (t + 2) (cores.map Prod.snd)
          let s := bumpBy .segmentsRun (if q.segments = 1 then 0 else 1) { s with tick := t + 3 }
          if !(finiteOut rows.1) then overflowReq req q s
          else
            let q : AttnReq := { q with coreFail := if q.coreFail.isSome then q.coreFail else verifyCores s q cores ps }
            if q.segments = 1 then produce req q rows.1 s
            else putReq req { q with phase := .segmentEnd, cores := [(0, rows.1)], weights := [], drained := [] } s
    | none => s) s

/-- SEGMENT_COMPLETE (R196, R237–R239): the segment's rows are folded into the running state, and the next segment begins or the record
leaves; an output sum that is not finite ends the request. -/
def execSegmentComplete (req : Nat) (u : Upsets) (s : State) : Res :=
  onNode (fun s =>
    match s.attn.reqs.at? req with
    | some q =>
      if q.phase ≠ .segmentEnd then s
      else
        let s := applyUpsets u s
        let new := (q.cores.head?.map Prod.snd).getD []
        let m := match q.running with
          | none => (new, 0)
          | some old => mergeRows s.tick 0 old new
        let s := bumpBy .rowsAbsorbed m.2 { s with tick := s.tick + 1 }
        let q := { q with absorbed := q.absorbed || decide (m.2 ≠ 0), running := some m.1, cores := [] }
        if !(finiteOut m.1) then overflowReq req q s
        else if q.segment + 1 = q.segments then produce req q m.1 s
        else putReq req { q with segment := q.segment + 1, phase := .keyPass } s
    | none => s) s

/-! ## The die path (R213–R215, R235) -/

/-- One block of a die request: a page against every row (R213), from its scores. -/
def dieBlock (tick : Nat) (q : AttnReq) (v : PageView) (sc : List (List (Nat × F32))) : List RowPart × Nat :=
  let ms := rowMaxima q [(v, sc)]
  let rs := (List.range q.desc.rows).map (fun r =>
    let m := ms.getD r f32NegInf
    let w := (List.range v.p.tokens).map (fun t => match (sc.getD r []).find? (fun y => y.1 = t) with
      | some y => if m = f32NegInf ∨ !(v.sees q r t) then 0 else exp32 (tick + 1) (r * 256 + t) (f32sub y.2 m)
      | none => 0)
    let c := coreRow (tick + 2) (r + 1) q 0 r m (fun _ _ => w) (fun _ => false) [] [(0, v, sc)]
    (withOutputs (tick + 4) 0 q r c.1 0 [(v, w)], c.2))
  (rs.map Prod.fst, rs.foldl (fun n r => n + r.2) 0)

/-- End a die request whose blocks are all done: its engines, then its cores, are combined (R214, R235). -/
def finishDie (id : Nat) (q : AttnReq) (s : State) : State :=
  let t := s.tick
  let ids := (q.engines.map EngineState.core).eraseDups
  let cores := ids.map (fun c => (c, reduceRows q (t + c) ((q.engines.filter (fun e => decide (e.core = c))).map EngineState.rows)))
  let rows := reduceRows q (t + 8) (cores.map (fun c => c.2.1))
  let n := cores.foldl (fun n c => n + c.2.2) rows.2
  let s := bumpBy .rowsAbsorbed n { s with tick := t + 9 }
  let q := { q with absorbed := q.absorbed || decide (n ≠ 0) }
  if !(finiteOut rows.1) then overflowReq id q s
  else produce id { q with coreFail := verifyCores s q (cores.map (fun c => (c.1, c.2.1))) q.pages } rows.1 s

/-- DIE_BLOCK_DONE (R213, R235): one page of a die request. -/
def execDieBlockDone (req : Nat) (page : Nat) (u : Upsets) (s : State) : Res :=
  onNode (fun s =>
    let s := expandFirst req s
    match s.attn.reqs.at? req with
    | some q =>
      if q.phase ≠ .dieBlocks then s
      else match q.pages[page]? with
        | none => if q.pages.isEmpty then finishDie req q s else s
        | some p =>
          if p.missing ∨ page ∈ q.blocksDone then s
          else
            let a := meetPass req q false [p] u s
            let b := if a.1 then readAll req (pageReads a.2.2 q true p) a.2.2 else (a.2.1, a.2.2)
            if !a.1 || !b.1.isEmpty then failPass req b.1 b.2
            else
              let s := b.2
              let v := viewPage s q p
              let sc := pageScores s.tick page q v
              let blk := dieBlock s.tick q v sc
              let s := { s with tick := s.tick + 7 }
              if sc.any (fun r => r.any (fun x => !(F32.isFin x.2))) ∨ !(finiteOut blk.1) then overflowReq req q s
              else
                let e := engineOf q page
                let old := q.engines.find? (fun x => decide (x.core = e.1 ∧ x.engine = e.2))
                let m := match old with
                  | none => (blk.1, 0)
                  | some x => mergeRows s.tick 7 x.rows blk.1
                let rest := q.engines.filter (fun x => !decide (x.core = e.1 ∧ x.engine = e.2))
                let q : AttnReq := { q with
                  engines := rest ++ [⟨e.1, e.2, m.1⟩]
                  blocksDone := q.blocksDone ++ [page]
                  absorbed := q.absorbed || decide (m.2 ≠ 0) }
                let s := bumpBy .rowsAbsorbed m.2 (bumpBy .certDirectPages blk.2 { s with tick := s.tick + 1 })
                if q.blocksDone.length = q.pages.length then finishDie req q (putReq req q s) else putReq req q s
    | none => s) s

end Sys2Proof.Machine
end

