-- ==== Sys2Proof/Machine/Port.lean ====
section
/-! DEFINITION. Ports, discovery, and what a port does with a frame (R332–R334, R364, R368–R371). -/

namespace Sys2Proof.Machine

/-- A port. -/
def portAt (s : State) (p : BitVec 5) : Port := s.fab.ports.atD p Port.reset

/-- Change a port. -/
def updPort (p : BitVec 5) (f : Port → Port) (s : State) : State :=
  { s with fab := { s.fab with ports := s.fab.ports.upd p Port.reset f } }

/-- Whether a port exists in the port mode in force; port 16 is the twin link. -/
def portOk (s : State) (p : BitVec 5) : Bool := decide (p.toNat < portCount s.knobs.fabricPortMode) || decide (p.toNat = 16)

/-- The rate of a port in Mb/s: 200 Gb/s for each of its lanes (R332, R333). -/
def portRate (s : State) (p : Nat) : Nat := if p = 16 then 800000 else 200000 * (16 / portCount s.knobs.fabricPortMode)

/-- PORT_LINK_UP (R333, R578): links are trained once a configuration image has been accepted, and from link-up a port sends a
HELLO every 1 ms until it hears one. A link that comes up shows that the 156.25 MHz reference runs. -/
def execPortLinkUp (port : BitVec 5) (s : State) : Res :=
  onNode (fun s =>
    if portOk s port ∧ s.configured then
      updPort port (fun p => { p with up := true, heard := false }) { s with pw := { s.pw with refclk156 := true } }
    else s) s

/-- PORT_LINK_DOWN (R333). -/
def execPortLinkDown (port : BitVec 5) (s : State) : Res :=
  onNode (fun s => if portOk s port then updPort port (fun p => { p with up := false }) s else s) s

/-! ## Discovery (R368, R369) -/

/-- DEVICE_UID from the provenance ROM (R539). -/
def deviceUid : BitVec 64 := BitVec.ofNat 64 (wordAt Config.provenance 11)

/-- SILICON_REV. -/
def siliconRev : BitVec 8 := BitVec.ofNat 8 (bitsOf (wordAt Config.provenance 0) 55 48)

/-- PART_CODE of the WGN-8. -/
def partCode : BitVec 16 := 0x0A08

/-- The payload of a port's next HELLO. -/
def helloOf (s : State) (p : BitVec 5) : HelloPayload :=
  ⟨deviceUid, (vn s (vnodeOfPort s p)).nodeId, BitVec.ofNat 8 p.toNat, BitVec.ofNat 4 s.knobs.fabricPortMode,
    BitVec.ofNat 2 s.knobs.sliceMode, partCode, siliconRev, (portAt s p).helloSeq, false⟩

/-- The frame of a HELLO (R368): from the port's link-local address to the all-nodes address. DESIGN CHOICE (entry 116): the node identifier of
its destination is 0xFFFF, and its DSCP and entropy value are 0. -/
def helloFrame (s : State) (port : BitVec 5) : List Byte :=
  let p := helloBytes (helloOf s port)
  let h : FrameHead := ⟨0x333300000001, Config.portMac port.toNat, sentTag s, beBytes 8 0xFE80000000000000 ++ beBytes 8 (Config.portInterface port.toNat).toNat,
    beBytes 2 0xFF02 ++ zeros 13 ++ [1], 0, 0, 0,
    match s.knobs.dreaskakUdpPort with
    | some u => BitVec.ofNat 16 u
    | none => Config.helloPort⟩
  let b := bthBytes ⟨vnodeOfPort s port, false, false, 0, 0xFFFF, (vn s (vnodeOfPort s port)).nodeId, 0, 0, 0, 0, 0, false⟩ pktHello p.length
  etherFrame h [] (20 + p.length) (b ++ p)

/-- HELLO_SEND (R368). -/
def execHelloSend (port : BitVec 5) (s : State) : Res :=
  onNode (fun s =>
    if (portAt s port).up then
      emit (.hello port (helloOf s port) (helloFrame s port)) (updPort port (fun p => { p with helloSeq := p.helloSeq + 1 }) s)
    else s) s

/-- Whether two HELLO payloads make different neighbour entries: HELLO_SEQ only tells successive HELLOs apart. -/
def neighbourDiffers (a b : HelloPayload) : Bool := decide ({ a with seq := 0 } ≠ { b with seq := 0 })

/-- HELLO (R369); one with a non-zero reserved field has no effect (R10). -/
def execHello (port : BitVec 5) (p : HelloPayload) (s : State) : Res :=
  onNode (fun s =>
    if p.rsv ∨ !(portAt s port).up then s
    else
      let v := vnodeOfPort s port
      let old := (vn s v).neighbours.at? port
      let s := updPort port (fun x => { x with heard := true }) s
      let s := updVn v (fun n => { n with neighbours := n.neighbours.put port ⟨p⟩ }) s
      let same : Bool := match old with
        | some o => !(neighbourDiffers o.p p)
        | none => false
      if same then s else logFrom v 0x0805 srcFabric [] s) s

/-- NEIGHBOUR_EXPIRY (R369): 500 ms have passed without a HELLO. -/
def execNeighbourExpiry (port : BitVec 5) (s : State) : Res :=
  onNode (fun s =>
    let v := vnodeOfPort s port
    if (vn s v).neighbours.has port then
      logFrom v 0x0805 srcFabric [] (updVn v (fun n => { n with neighbours := n.neighbours.del port }) s)
    else s) s

/-! ## Frames (R334, R340, R364, R371) -/

/-- The replay window of R364. -/
def replayWindow : Nat := 2 ^ 20

/-- The packet number of a frame from its low half and the highest received. PRESUMED (entry 87): as IEEE 802.1AE recovers it. -/
def recoverPn (high low : Nat) : Nat :=
  let p := high / 2 ^ 32 * 2 ^ 32 + low
  if p + 2 ^ 31 ≤ high then p + 2 ^ 32 else p

/-- The receive secure association of an AN: the newest, or one kept from before (R366). -/
def rxSaOf (a : Assoc) (an : BitVec 2) : Option (RxSa × Bool) :=
  match a.rx.filter (fun r => decide (r.an = an)) with
  | some r => some (r, true)
  | none => (a.prevRx.find? (fun r => decide (r.an = an))).map (fun r => (r, false))

/-- Take a MACsec frame of the node's own: its association, its packet number and its check value (R364); `k` goes on with one that passes. -/
def takeMacsec (v : VId) (twin : Bool) (sender : NodeId) (an : BitVec 2) (low : Nat) (icvOk : Bool) (k : State → State) (s : State) : State :=
  match (assocAt s v sender twin).bind (fun a => rxSaOf a an) with
  | none => bumpV .macsecNoSa v s
  | some (r, newest) =>
    let pn := recoverPn r.high low
    if pn + replayWindow ≤ r.high then bumpV .macsecReplay v s
    else if !icvOk then bumpV .macsecIcvFail v s
    else
      let r' : RxSa := { r with high := max r.high pn }
      k (updAssoc v sender twin (fun a => if newest then { a with rx := some r', newSeen := true }
        else { a with prevRx := a.prevRx.map (fun x => if x.an = an then r' else x) }) s)

/-- Forward a frame unchanged on a port of PORT_MASK that is up (R371), of the virtual node's share (R378). The port follows from the UDP source
port alone. -/
def forwardFrame (v : VId) (dst : NodeId) (udpSrc : BitVec 16) (frame : List Byte) (s : State) : State :=
  if !((vn s v).peers.has dst) then bumpV .fwdNoRoute v s
  else
    let ports := portsTo s v dst false
    match ports[Config.freeOrder udpSrc.toNat 0 % ports.length]? with
    | some p => emit (.forward p frame) (bumpV .fwdPackets v s)
    | none => bumpV .framesDropped v s

/-- What a port does with a frame. -/
def takeFrame (v : VId) (port : BitVec 5) (f : RxFrame) (s : State) : State :=
  match frameKindOf (vn s v).pfx f.bytes with
  | .macControl => s
  | .hello => s
  | .keyAgree => if talks s v then s else bumpV .framesDropped v s
  | .other dreaskak => bumpV (if dreaskak then .pktMalformed else .framesDropped) v s
  | .macsec inPrefix dst udpSrc udpDst an sender pn =>
    let n := vn s v
    if !(talks s v) ∨ !inPrefix ∨ some udpDst.toNat ≠ s.knobs.dreaskakUdpPort then bumpV .framesDropped v s
    else if dst = n.nodeId then
      takeMacsec v (decide (port.toNat = 16)) sender an pn.toNat f.icvOk
        (fun s => if typeKnown f.plain then s else bumpV .pktMalformed v s) s
    else if n.forwarding ∧ port.toNat ≠ 16 then forwardFrame v dst udpSrc f.bytes s
    else bumpV .framesDropped v s

/-- FRAME_RECEIVE (R334): a frame as `frameKindOf` reads its bytes, for the virtual node that the port belongs to (R378); the codewords that
brought the frame are counted for its port (R385). -/
def execFrameReceive (v : VId) (port : BitVec 5) (f : RxFrame) (fecCorrected fecUncorrected : Nat) (s : State) : Res :=
  onNode (fun s =>
    if !(portAt s port).up ∨ !(portServes s port v) then s
    else
      takeFrame v port f (bumpAt .fecCwCorrected port.toNat fecCorrected (bumpAt .fecCwUncorrected port.toNat fecUncorrected s))) s

end Sys2Proof.Machine
end

