-- ==== Sys2Proof/Machine/Keys.lean ====
section
/-! DEFINITION. Credentials, key slots, and the agreement of association keys (R365–R367, R383, R534, R544, R547). -/

namespace Sys2Proof.Machine

/-! ## Key slots (R544) -/

/-- Install a key: its slot is VALID and its KEY_GEN increments. -/
def installKey (slot : Nat) (s : State) : State :=
  { s with mgmt := { s.mgmt with slots := s.mgmt.slots.upd slot (false, 0) (fun k => (true, k.2 + 1)) } }

/-- Destroy a key. -/
def dropKey (slot : Nat) (s : State) : State :=
  { s with mgmt := { s.mgmt with slots := s.mgmt.slots.upd slot (false, 0) (fun k => (false, k.2)) } }

/-- The slot of an association's key (R383). -/
def assocSlot (v : VId) (n : NodeId) (twin : Bool) : Nat :=
  if twin then 16416 + v.toNat else 32 + 4096 * v.toNat + n.toNat

/-! ## Credentials (R365, R534, R547) -/

/-- UTC seconds now, where SET_TIME has given them (R536). -/
def utcNow (s : State) : Option Nat := s.mgmt.time.map (fun t => t.1 + (s.pw.uptime - t.2) / 1000000000)

/-- Whether a chain keeps the limits of R534 and verifies, and a message's signature with it over what its step signs: `covered` with the chain
behind it. -/
def credOk (s : State) (c : Credential) (covered : List Byte) : Bool :=
  let timely : Bool := match utcNow s with
    | some t => decide (c.validFrom ≤ t) && decide (t ≤ c.validTo)
    | none => true
  decide (0 < c.chainCerts) && decide (c.chainCerts ≤ 3) && decide (c.maxCertLen ≤ 9216) && timely
    && Config.chainVerifies c.chain && decide (c.signed = covered ++ c.chain) && Config.slhVerify c.endEntityKey c.signed c.signature

/-- Whether an entry of the fabric anchor list accepts keys with the digests given: ROOT the end of the chain, DEVICE the
end-entity key (R547). -/
def anchorAccepts (as_ : List AnchorEntry) (root device : List Byte) : Bool :=
  as_.any (fun a => (decide (a.kind = 1) && decide (a.digest = root)) || (decide (a.kind = 2) && decide (a.digest = device)))

/-- The private material of the identity key (R540). -/
def identityMaterial (seed : List Byte) : List Byte :=
  hkdf seed (leBytes 8 deviceUid.toNat) (ascii "Walgon identity".toList) 48

/-- A signature of the device identity key. -/
def identitySign (s : State) (context message : List Byte) : List Byte :=
  Config.slhSign (identityMaterial s.mgmt.seed) context message

/-- The message of an agreement step: its content, the sender's chain and its signature over what it covers. -/
def signedStep (s : State) (content covered : List Byte) : List Byte :=
  let b := content ++ Config.deviceChain
  b ++ identitySign s [] (covered ++ b)

/-! ## Agreements (R365) -/

/-- Log an agreement that has failed, naming the peer and the failing step. -/
def agreeFail (v : VId) (n : NodeId) (twin : Bool) (step : Nat) (s : State) : State :=
  logFrom v 0x0803 srcFabric [(16, n.toNat), (8, step)]
    { s with fab := { s.fab with agreements := s.fab.agreements.del (v, n, twin) } }

/-- The AN of the next agreement with a peer (R366). -/
def nextAn (s : State) (v : VId) (n : NodeId) (twin : Bool) : BitVec 2 :=
  match (assocAt s v n twin).bind Assoc.rx with
  | some r => r.an + 1
  | none => 0

/-- A KEY_AGREE packet of a message (R339, R340, R365). -/
def agreePacket (s : State) (v : VId) (n : NodeId) (step : Nat) (last : Bool) (index : Nat) (payload : List Byte) : List Byte :=
  bthBytes ⟨v, last, false, 0, n, (vn s v).nodeId, 0, 0, 0, Config.keyAgreeMsn step, BitVec.ofNat 8 index, false⟩ pktKeyAgree payload.length ++ payload

/-- Send KEY_AGREE 1 or 2, unprotected and split by PKT_INDEX and LAST (R365). -/
def sendAgree (v : VId) (n : NodeId) (twin : Bool) (an : BitVec 2) (step : Nat) (body : List Byte) (s : State) : State :=
  let parts := chunks 4096 body
  ((List.range parts.length).zip parts).foldl (fun s k =>
    let b := agreePacket s v n step (decide (k.1 + 1 = parts.length)) k.1 k.2
    onPort v n twin (fun port => .keyAgree port v n an step (etherFrame (frameHead s v n port 0 0 0) [] b.length b)) s) s

/-- Send KEY_AGREE 3, the confirmation, under the transmit secure association that awaits the peer's (R365): it takes its next packet number. -/
def sendConfirm (v : VId) (n : NodeId) (twin : Bool) (s : State) : State :=
  match (assocAt s v n twin).bind Assoc.txWaiting with
  | none => s
  | some sa =>
    let b := agreePacket s v n 3 true 0 []
    updAssoc v n twin (fun a => { a with txWaiting := some { sa with next := sa.next + 1 } })
      (onPort v n twin (fun port => .keyAgree port v n sa.an 3 (sealedFrame (frameHead s v n port 0 0 0) (vn s v).nodeId sa.an
        (BitVec.ofNat 64 sa.next) sa.key b)) s)

/-- Begin an agreement: the endpoint with the lower identifier sends KEY_AGREE 1. DESIGN CHOICE (entry 115): the other sends nothing, since R365 has
no message for it, and waits for the peer's. -/
def startAgreement (v : VId) (n : NodeId) (twin : Bool) (s : State) : State :=
  if !(talks s v) ∨ !s.mgmt.identityOk ∨ !((vn s v).peers.has n) ∨ n.toNat ≤ (vn s v).nodeId.toNat then s
  else
    let keys := Config.kemKeys (Config.randomBytes s.tick 64)
    let nonce := Config.randomBytes (s.tick + 1) 32
    let an := nextAn s v n twin
    let content := keys.1 ++ nonce ++ [BitVec.ofNat 8 an.toNat]
    let body := signedStep s content []
    let a : Agreement := ⟨an, true, 1, 0, keys.2, nonce, body, [], [], content⟩
    sendAgree v n twin an 1 body { s with tick := s.tick + 2, fab := { s.fab with agreements := s.fab.agreements.put (v, n, twin) a } }

/-- Begin the agreements that a peer lacks (R365): the one for the fabric, and the twin link's where its entry names port 16. -/
def agreeWith (v : VId) (n : NodeId) (s : State) : State :=
  let one (twin : Bool) (s : State) : State :=
    if s.fab.assocs.has (v, n, twin) ∨ s.fab.agreements.has (v, n, twin) then s else startAgreement v n twin s
  let mask : BitVec 17 := (((vn s v).peers.at? n).map PeerEntry.portMask).getD 0
  let s := if mask = 0x10000 ∨ mask = 0 then s else one false s
  if mask.getLsbD 16 then one true s else s

/-- Begin the agreements of every peer that lacks one. -/
def agreeWithAll (v : VId) (s : State) : State := (vn s v).peers.foldl (fun s p => agreeWith v p.1 s) s

/-- The keys and salts of both directions (R365 step 4), from the shared secret, the initiator's and the responder's nonce, the
lower and the higher identifier, and the AN. -/
def saKeys (secret nonce1 nonce2 : List Byte) (a b : NodeId) (an : BitVec 2) : List Byte :=
  hkdf secret (nonce1 ++ nonce2) (ascii "Dreaskak SA".toList ++ beBytes 2 a.toNat ++ beBytes 2 b.toNat ++ [BitVec.ofNat 8 an.toNat]) 88

/-- The key and salt of a direction (R365 step 4): the lower identifier's transmit direction comes first. -/
def directionKey (keys : List Byte) (lower : Bool) : List Byte := if lower then keys.take 44 else keys.drop 44

/-- Install the receive association of an agreement (R365 step 5): the one in use is kept among the previous ones, under R29, and the transmit
association waits for the peer's confirmation, from packet number 1 (R366). -/
def installRx (v : VId) (n : NodeId) (twin : Bool) (a : Agreement) (keys : List Byte) (s : State) : State :=
  let old := (assocAt s v n twin).getD ⟨none, none, none, [], false, false, false, [], [], []⟩
  let lower := decide ((vn s v).nodeId.toNat < n.toNat)
  let x : Assoc := { old with
    txWaiting := some ⟨a.an, 1, directionKey keys lower⟩
    rx := some ⟨a.an, 0, directionKey keys !lower⟩
    prevRx := old.prevRx ++ old.rx.toList
    newSeen := false
    request := a.request
    root := a.root
    device := a.device }
  installKey (assocSlot v n twin) { s with fab := { s.fab with assocs := s.fab.assocs.put (v, n, twin) x } }

/-- Judge a peer's credentials (R365 steps 2 and 3): none where they are accepted, and the refusal's count otherwise. -/
def judgePeer (v : VId) (n : NodeId) (twin : Bool) (step : Nat) (c : Credential) (covered : List Byte) (s : State) : Option State :=
  let uid := ((vn s v).peers.at? n).map PeerEntry.uid
  if !(credOk s c covered) ∨ uid ≠ some c.subject then some (agreeFail v n twin step s)
  else if !(anchorAccepts s.mgmt.anchors (sha256 c.rootKey) (sha256 c.endEntityKey)) then
    some (agreeFail v n twin step (bump .anchorRefusals s))
  else none

/-- Whether the node can agree keys at all (R337, R369, R540). -/
def canAgree (s : State) (v : VId) : Bool := talks s v && s.mgmt.identityOk

/-- What KEY_AGREE 1 carries before its chain. -/
def agreeRequest (ek nonce : List Byte) (an : BitVec 2) : List Byte := ek ++ nonce ++ [BitVec.ofNat 8 an.toNat]

/-- KEY_AGREE_1, at the responder: it verifies, encapsulates, answers, installs its receive association and confirms. The same message again is
answered as before, and begins no other agreement. -/
def execKeyAgree1 (v : VId) (peer : NodeId) (twinLink : Bool) (an : BitVec 2) (ek nonce : List Byte) (cred : Credential)
    (s : State) : Res :=
  onNode (fun s =>
    let request := agreeRequest ek nonce an
    if !(canAgree s v) ∨ (vn s v).nodeId.toNat ≤ peer.toNat then s
    else match s.fab.agreements.at? (v, peer, twinLink), decide ((assocAt s v peer twinLink).map Assoc.request = some request) with
      | some a, true => if a.initiator then s else sendConfirm v peer twinLink (sendAgree v peer twinLink an 2 a.body s)
      | none, true => s
      | _, false => match judgePeer v peer twinLink 2 cred request s with
        | some s => s
        | none =>
          let k := Config.kemEncap ek (Config.randomBytes s.tick 32)
          let mine := Config.randomBytes (s.tick + 1) 32
          let body := signedStep s (k.1 ++ mine) request
          let keys := saKeys k.2 nonce mine peer (vn s v).nodeId an
          let a : Agreement := ⟨an, false, 3, 0, k.2, mine, body, sha256 cred.rootKey, sha256 cred.endEntityKey, request⟩
          let s := { s with tick := s.tick + 2, fab := { s.fab with agreements := s.fab.agreements.put (v, peer, twinLink) a } }
          let s := sendAgree v peer twinLink an 2 body s
          sendConfirm v peer twinLink (installRx v peer twinLink a keys s)) s

/-- KEY_AGREE_2, at the initiator: it verifies, derives, installs its receive association and confirms. -/
def execKeyAgree2 (v : VId) (peer : NodeId) (twinLink : Bool) (ct nonce : List Byte) (cred : Credential) (s : State) : Res :=
  onNode (fun s =>
    match s.fab.agreements.at? (v, peer, twinLink) with
    | none => s
    | some a =>
      if !(canAgree s v) ∨ !a.initiator ∨ a.step ≠ 1 then s
      else match judgePeer v peer twinLink 3 cred (a.request ++ ct ++ nonce) s with
        | some s => s
        | none =>
          let a := { a with step := 3, resends := 0, dk := Config.kemDecap a.dk ct, body := nonce, root := sha256 cred.rootKey,
                            device := sha256 cred.endEntityKey }
          let s := { s with fab := { s.fab with agreements := s.fab.agreements.put (v, peer, twinLink) a } }
          sendConfirm v peer twinLink (installRx v peer twinLink a (saKeys a.dk a.nonce nonce (vn s v).nodeId peer a.an) s)) s

/-- The ports whose only association a peer's is (R367): the twin link's has its own; a fabric port that no other peer of an association reaches. -/
def soleOnPorts (s : State) (v : VId) (n : NodeId) (twin : Bool) : List (BitVec 5) :=
  let reaches (v : VId) (n : NodeId) (p : BitVec 5) : Bool :=
    ((((vn s v).peers.at? n).map PeerEntry.portMask).getD 0).getLsbD p.toNat && portServes s p v
  if twin then [16]
  else ((List.range 16).map (BitVec.ofNat 5)).filter (fun p => reaches v n p
    && !(s.fab.assocs.any (fun a => !a.1.2.2 && decide (a.1 ≠ (v, n, false)) && reaches a.1.1 a.1.2.1 p)))

/-- Stop or release ports. -/
def stopPorts (ps : List (BitVec 5)) (stop : Bool) (s : State) : State := ps.foldl (fun s p => updPort p (fun x => { x with stopped := stop }) s) s

/-- Send what waited for an association on the queue pairs of its peer (R367). -/
def pumpPeer (v : VId) (n : NodeId) (s : State) : State :=
  (s.fab.qps.map Prod.fst).foldl (fun s q =>
    if vnodeOfQpn s q = v ∧ (qpAt s q).map Qp.peer = some n then pumpAll q s else s) s

/-- KEY_AGREE_3: the peer's confirmation; the node transmits under the new association (R365, R366). -/
def execKeyAgree3 (v : VId) (peer : NodeId) (twinLink : Bool) (an : BitVec 2) (tagOk : Bool) (s : State) : Res :=
  onNode (fun s =>
    match s.fab.agreements.at? (v, peer, twinLink) with
    | none => s
    | some a =>
      if a.step ≠ 3 ∨ a.an ≠ an then s
      else if !tagOk then agreeFail v peer twinLink 5 s
      else
        let s := { s with fab := { s.fab with agreements := s.fab.agreements.del (v, peer, twinLink) } }
        let s := updAssoc v peer twinLink (fun x => { x with tx := x.txWaiting, txWaiting := none, rekeying := false, stopped := false }) s
        let s := stopPorts (soleOnPorts s v peer twinLink) false s
        pumpPeer v peer (bumpV .rekeys v s)) s

/-- KEY_AGREE_RESEND: every 10 ms, up to 100 times; then the agreement has failed at the step that goes unanswered. -/
def execKeyAgreeResend (v : VId) (peer : NodeId) (twinLink : Bool) (s : State) : Res :=
  onNode (fun s =>
    match s.fab.agreements.at? (v, peer, twinLink) with
    | none => s
    | some a =>
      if 100 ≤ a.resends then agreeFail v peer twinLink (if a.initiator ∧ a.step = 1 then 1 else 5) s
      else
        let s := { s with fab := { s.fab with agreements := s.fab.agreements.put (v, peer, twinLink) { a with resends := a.resends + 1 } } }
        if a.initiator ∧ a.step = 1 then sendAgree v peer twinLink a.an 1 a.body s
        else if a.initiator then sendConfirm v peer twinLink s
        else sendConfirm v peer twinLink (sendAgree v peer twinLink a.an 2 a.body s)) s

/-- RX_SA_RETIRE (R366): 1 s after the first frame under the new receive association. -/
def execRxSaRetire (v : VId) (peer : NodeId) (twinLink : Bool) (s : State) : Res :=
  onNode (updAssoc v peer twinLink (fun a => if a.newSeen then { a with prevRx := [] } else a)) s

/-- REKEY_DUE (R367): the transmit packet number has reached 2^62. -/
def execRekeyDue (v : VId) (peer : NodeId) (twinLink : Bool) (s : State) : Res :=
  onNode (fun s =>
    match assocAt s v peer twinLink with
    | none => s
    | some a =>
      let due : Bool := match a.tx with
        | some t => decide (2 ^ 62 ≤ t.next)
        | none => false
      if !due ∨ a.rekeying then s
      else
        let s := logFrom v 0x0804 srcFabric [] (updAssoc v peer twinLink (fun a => { a with rekeying := true }) s)
        startAgreement v peer twinLink s) s

/-- PN_EXHAUSTED (R367): the packet number has reached 2^64 − 2^32; an association that is the only one on a port stops it. -/
def execPnExhausted (v : VId) (peer : NodeId) (twinLink : Bool) (s : State) : Res :=
  onNode (fun s =>
    match assocAt s v peer twinLink with
    | none => s
    | some a =>
      let due : Bool := match a.tx with
        | some t => decide (pnLimit ≤ t.next)
        | none => false
      if !due then s
      else
        stopPorts (soleOnPorts s v peer twinLink) true (updAssoc v peer twinLink (fun a => { a with stopped := true }) s)) s

/-- Drop an association and its key. -/
def dropAssoc (k : VId × NodeId × Bool) (s : State) : State :=
  if s.fab.assocs.has k then
    dropKey (assocSlot k.1 k.2.1 k.2.2) { s with fab := { s.fab with assocs := s.fab.assocs.del k } }
  else s

end Sys2Proof.Machine
end

