-- ==== Sys2Proof/Machine/HostIf.lean ====
section
/-! DEFINITION. The host interface: function level reset, rings and doorbells, admission from rings and from COMMAND messages,
records and their interrupts, mailboxes, plain registers and ORDER.FENCE (R431–R484). -/

namespace Sys2Proof.Machine

/-! ## Mailboxes (R479–R481) -/

/-- A mailbox. -/
def mbAt (s : State) (m : BitVec 4) : Mailbox := s.host.mailboxes.atD m Mailbox.reset

/-- Change a mailbox. -/
def updMb (m : BitVec 4) (f : Mailbox → Mailbox) (s : State) : State :=
  { s with host := { s.host with mailboxes := s.host.mailboxes.upd m Mailbox.reset f } }

/-- Whether a mailbox carries words from the host (R479). -/
def fromHost (m : BitVec 4) : Bool := decide (m.toNat < 8)

/-- Wake a gated control core (R560). -/
def wakeCore (i : Nat) (s : State) : State := { s with pw := { s.pw with gatedCores := s.pw.gatedCores.filter (fun c => c ≠ i) } }

/-- Notices to the firmware of a control core: 0 wake, 1 empty, 2 aborted, 3 full. -/
def notify (m : BitVec 4) (kind : Nat) (s : State) : State :=
  emit (.coreNotice (m.toNat % 8) kind) (if kind = 0 then wakeCore (m.toNat % 8) s else s)

/-- A post (R481 rules 1 and 2): by the host into mailboxes 0 to 7, by a core into the others. -/
def postMail (m : BitVec 4) (w : BitVec 64) (s : State) : State :=
  let x := mbAt s m
  if x.full then bump .mailboxOverruns (updMb m (fun x => { x with overrun := true }) s)
  else
    let s := updMb m (fun x => { x with word := w, full := true }) s
    if fromHost m then notify m 0 s
    else if x.fullIrqEn then raise (1 + m.toNat) s else s

/-- The receiver takes the word (R481 rule 3): the sender receives an empty interrupt. -/
def takeMail (m : BitVec 4) (s : State) : State :=
  let x := mbAt s m
  if !x.full then s
  else
    let s := updMb m (fun x => { x with word := 0, full := false, empty := fromHost m || x.empty }) s
    if fromHost m then (if x.emptyIrqEn then raise (1 + m.toNat) s else s) else notify m 1 s

/-- The receiver is reset (R481 rule 4): the mailbox is cleared, and the sender of a held word learns of it. -/
def resetMail (m : BitVec 4) (s : State) : State :=
  let x := mbAt s m
  let s := updMb m (fun x => { x with word := 0, full := false, aborted := x.aborted || x.full }) s
  if x.full then
    let s := bump .mailboxAborts s
    if fromHost m then (if x.abortedIrqEn then raise (1 + m.toNat) s else s)
    else
      let s := notify m 2 s
      if x.abortedIrqEn then raise (1 + m.toNat) s else s
  else s

/-- MB_DATA, written by the host (R479, R481). -/
def execMbData (m : BitVec 4) (w : BitVec 64) (s : State) : Res :=
  onNode (fun s => if fromHost m then postMail m w s else s) s

/-- MB_TAKE, read by the host (R479, R481). -/
def execMbTake (m : BitVec 4) (s : State) : Res :=
  onNode (fun s =>
    if fromHost m then emit (.regRead 0) s
    else takeMail m (emit (.regRead (if (mbAt s m).full then (mbAt s m).word else 0)) s)) s

/-- RESET of MB_STATUS, written by the host (R480, R481). -/
def execMbReset (m : BitVec 4) (s : State) : Res := onNode (fun s => if fromHost m then s else resetMail m s) s

/-! ## Function level reset (R433) -/

/-- Clear one mailbox under FLR (R433, R481 rule 4): the sender of a word that it held learns of it, the host by ABORTED. -/
def flrMail (s : State) (m : Nat) : State :=
  let m := BitVec.ofNat 4 m
  let held := (mbAt s m).full
  let s := updMb m (fun _ => { Mailbox.reset with aborted := held }) s
  let s := if held then bump .mailboxAborts s else s
  if held && !(fromHost m) then notify m 2 s else s

/-- Reset the host interface (R433): the rings, the mailboxes, the MSI-X table and APERTURE_WINDOW. Commands already admitted
run on, and their records are discarded. -/
def flrState (s : State) : State :=
  let s := (List.range 16).foldl flrMail s
  let s := { s with sync := { s.sync with waiters := s.sync.waiters.filter (fun w => match w.wf with
    | .ringHead _ => false
    | _ => true) } }
  { s with host := { s.host with
      rings := []
      msix := []
      msixPending := []
      apertureWindow := 0
      devError := 0
      adminBlocks := []
      admitted := s.host.admitted.map (fun a => { a with discard := a.discard || (ringOf a.cmd).isSome }) } }

/-- FLR (R433). -/
def execFlr (s : State) : Res := onNode flrState s

/-! ## Rings (R467–R474) -/

/-- The fields of a ring block that fail (R467), each with its byte offset in the block. -/
def ringBlkFails (p : RingBlk) : List (Bool × Nat) :=
  [(p.result && decide (p.msix.toNat < 17), 2),
   (if p.result then decide (p.entryLog2.toNat < 6) || decide (21 < p.entryLog2.toNat) else decide (p.entryLog2.toNat ≠ 6), 5),
   (decide (p.sizeLog2.toNat < 6) || decide (16 < p.sizeLog2.toNat), 6),
   (decide (p.base.toNat % 4096 ≠ 0), 8),
   (if p.result then decide (p.shadow ≠ 0) else decide (p.shadow.toNat % 8 ≠ 0), 16),
   (!p.result && decide (1000 < p.stallUs.toNat) && decide (p.stallUs.toNat ≠ 0xFFFF), 28),
   (decide (30 < p.sizeLog2.toNat + p.entryLog2.toNat), noField)]

/-- The context of a ring just created: its indices are 0 (R469). -/
def ringNew (s : State) (p : RingBlk) : Ring :=
  { Ring.reset with
    state := .active
    isResult := p.result
    sizeLog2 := p.sizeLog2.toNat
    entryLog2 := p.entryLog2.toNat
    priority := 2 ^ p.priority.toNat
    resultRing := p.resultRing
    msix := p.msix.toNat
    coalesceCount := max 1 p.coalesceCount.toNat
    coalesceUs := p.coalesceUs.toNat
    base := p.base
    shadow := p.shadow
    stallUs := if p.stallUs = 0xFFFF then s.knobs.promoteStallUs else p.stallUs.toNat }

/-- Whether a submission ring's result ring is an ACTIVE result ring. -/
def resultRingOk (s : State) (p : RingBlk) : Bool :=
  p.result || (decide ((ringAt s p.resultRing).state = .active) && (ringAt s p.resultRing).isResult)

/-- Create a ring. -/
def createRing (p : RingBlk) (s : State) : State :=
  { s with host := { s.host with rings := s.host.rings.put p.ringId (ringNew s p) } }

/-- NODE.RING_CREATE (R467). -/
def execNodeRingCreate (c : Cmd) (p : RingBlk) (s : State) : Res :=
  runVerb c (withParams c 64 ((ringBlkFails p).map (fun f => (f.1, 64 + f.2))) (fun s =>
    if p.ringId.toNat < 2 ∨ (ringAt s p.ringId).state ≠ .disabled ∨ !(resultRingOk s p) then .refuse stDenied s
    else .now (Reply.st stOk) (createRing p s))) s

/-- Whether an administration ring's block can be taken (R467): well formed, ring 0 to submit and ring 1 for results. -/
def adminOk (s : State) (ring : BitVec 1) : Bool :=
  match s.host.adminBlocks.at? ring with
  | some p => !p.rsv && !((ringBlkFails p).any (fun f => f.1)) && decide (p.ringId.toNat = ring.toNat)
      && decide (p.result = (ring = 1)) && decide ((ringAt s p.ringId).state = .disabled)
  | none => false

/-- ADMIN_ENABLE (R467): ignored unless FW_STATE is RUNNING. A block that breaks its rules enables nothing. -/
def execAdminEnable (value : BitVec 64) (s : State) : Res :=
  onNode (fun s =>
    if s.pw.fwState ≠ 2 ∨ !(value.getLsbD 0) then s
    else
      let one (ring : BitVec 1) (s : State) : State := match s.host.adminBlocks.at? ring with
        | some p => if adminOk s ring ∧ resultRingOk s p then createRing p s else s
        | none => s
      one 0 (one 1 s)) s

/-- NODE.RING_DESTROY (R469, R460). -/
def execNodeRingDestroy (c : Cmd) (ring : BitVec 9) (s : State) : Res :=
  runVerb c (withParams c 8 [] (fun s =>
    let x := ringAt s ring
    if ring.toNat < 2 then .refuse stDenied s
    else if x.state = .disabled then .refuse stMiss s
    else if x.isResult ∧ s.host.rings.any (fun r => decide (r.2.state ≠ .disabled) && !r.2.isResult && decide (r.2.resultRing = ring)) then
      .refuse stDenied s
    else .later (settle (updRing ring (fun x => { x with fetched := [], headWaiting := false, destroying := some c }) s)))) s

/-- Slots that a packet occupies (R442). -/
def slotsOf (h : CmdHeader) : Nat := if h.paramRef then 1 else 1 + ceilDiv h.paramLen.toNat 64

/-- A malformed header (R469): PARAM_LEN exceeds the limit of R440 for its kind. -/
def malformedHeader (h : CmdHeader) : Bool :=
  if h.paramRef then decide (1048576 < h.paramLen.toNat) else decide (4096 < h.paramLen.toNat)

/-- A failed read of host memory: counted, logged with ring, tag and address, and shown in DEV_ERROR (R435, R488). -/
def dmaError (ring : BitVec 9) (tag : BitVec 32) (addr : BitVec 64) (s : State) : State :=
  setDevError 1 (logFrom 0 0x0A04 srcHost [(16, ring.toNat), (32, tag.toNat), (64, addr.toNat)] (bump .dmaErrors s))

/-- Take the packets of new slots up to the producer index (R472); one that runs past it waits for a later doorbell. -/
def fetchPackets (ring : BitVec 9) (ps : List Fetched) (s : State) : State :=
  match ps with
  | [] => s
  | p :: rest =>
    let x := ringAt s ring
    if malformedHeader (readCmd p) then ringError ring 3 s
    else if (x.host - x.node).toNat < slotsOf (readCmd p) then s
    else fetchPackets ring rest (updRing ring (fun x => { x with
      fetched := x.fetched ++ [(readCmd p)], node := x.node + BitVec.ofNat 32 (slotsOf (readCmd p)) }) s)

/-- Whether a record index lies below a consumer index (R471). -/
def consumed (index consumer : BitVec 32) : Bool := decide ((consumer - 1 - index).toNat < 2 ^ 31)

/-- RING_DOORBELL (R471, R472). -/
def execRingDoorbell (ring : BitVec 9) (value : BitVec 32) (f : SlotFetch) (s : State) : Res :=
  onNode (fun s =>
    let x := ringAt s ring
    if x.state = .disabled then bump .doorbellDrops s
    else
      let s := notify (BitVec.ofNat 4 (ring.toNat % 8)) 0 s
      if value = x.host then s
      else if x.size < (value - x.host).toNat then (if x.state = .active then ringError ring 1 s else s)
      else
        let s := updRing ring (fun x => { x with host := value }) s
        if x.isResult then
          updRing ring (fun x => { x with records := x.records.filter (fun r => !(consumed r.index value)) }) s
        else if x.state ≠ .active ∨ x.destroying.isSome then s
        else if f.failed then
          let addr := x.base + BitVec.ofNat 64 (x.node.toNat % x.size * 64)
          ringError ring 2 (dmaError ring 0 addr s)
        else
          let s := fetchPackets ring f.packets s
          emit (.shadow ring x.shadow (ringAt s ring).node) s) s

/-- Entries of a result ring that are neither written and unconsumed nor reserved (R473). -/
def unreserved (x : Ring) : Nat := x.size - (x.node - x.host).toNat - x.reserved

/-- Whether a command's TAG is that of another command of its ring whose record is not consumed (R474). -/
def tagBusy (s : State) (ring : BitVec 9) (tag : BitVec 32) : Bool :=
  s.host.admitted.any (fun a => decide (ringOf a.cmd = some ring) && decide (a.cmd.hdr.tag = tag) && !a.discard)
    || (ringAt s (ringAt s ring).resultRing).records.any (fun r => decide (r.submit = ring ∧ r.tag = tag))

/-- Whether an ORDER.FENCE of a ring has not completed (R482). -/
def fenceOpen (s : State) (ring : BitVec 9) : Bool :=
  s.jobs.any (fun j => match j.2 with
    | .fence c _ _ _ _ => decide (ringOf c = some ring)
    | _ => false)

/-- Take the oldest fetched packet off a ring. -/
def popFetched (ring : BitVec 9) (s : State) : State :=
  updRing ring (fun x => { x with fetched := x.fetched.drop 1, headWaiting := false, headReady := false }) s

/-- Admit a command whose wait holds: the parameters are fetched where they lie in host memory (R440, R446). -/
def admitFetched (ring : BitVec 9) (c : Cmd) (fetchFails : Option (BitVec 64)) (s : State) : State :=
  let s := popFetched ring s
  match fetchFails with
  | some addr =>
    settle (refuseNew c ⟨stAborted, 0xFFFD, none, 0, 0, 0, []⟩ (dmaError ring c.hdr.tag addr s))
  | none => takeIn c true s

/-- COMMAND_ADMIT (R473, R474, R444, R445). -/
def execCommandAdmit (ring : BitVec 9) (paramFetchFails : Option (BitVec 64)) (s : State) : Res :=
  onNode (fun s =>
    let x := ringAt s ring
    match x.fetched with
    | [] => s
    | h :: _ =>
      let c : Cmd := ⟨.host ring, h, 0⟩
      let fails := if h.paramRef then paramFetchFails else none
      if x.isResult ∨ x.headWaiting ∨ fenceOpen s ring ∨ unreserved (ringAt s x.resultRing) = 0 then s
      else if x.headReady then admitFetched ring c fails s
      else if tagBusy s ring h.tag then settle (refuseNew c ⟨stBadParam, 0, none, 0, 0, 0, []⟩ (popFetched ring s))
      else match headerCheck s c with
        | some r =>
          let s := if hostDataRefusal s c r then noteHostDenied c s else s
          settle (refuseNew c r (countRefusal (vnodeOf s c) r (popFetched ring s)))
        | none =>
          if headerWaitHolds s h then
            admitFetched ring c fails (if h.waitValid then passWait h.waitObj s else s)
          else if waiterRoom ≤ s.sync.waiters.length then
            settle (refuseNew c Reply.waiterFull (bump .waiterTableFull (popFetched ring s)))
          else
            addWaiter h.waitObj (whoOf s c) h.waitValue.toNat h.waitTimeout.toNat (.ringHead ring)
              (updRing ring (fun x => { x with headWaiting := true }) s)) s

/-- COMMAND (R342, R442, R505): the command of a message is checked and waits or is admitted, behind the COMMAND messages of
its queue pair that are held. -/
def execCommand (m : Msg) (p : Fetched) (s : State) : Res :=
  let k := msgKnobs s m
  onMsg m opCommand (fun b => decide (b.take 64 = p.bytes)) (fun s =>
    if !(hasPeer s m.vnode m.sender) then rejectMsg m.vnode m.sender m.qpn m.msn stDenied s
    else
      let c : Cmd := ⟨.fabric m.qpn m.sender m.addr m.key, (readCmd p), 0⟩
      if (readCmd p).mapEpoch ≠ m.mapEpoch then
        (if fenceRefusal s c then settle (refuseNew c (Reply.st stFenced) (bumpV .fencedAnswers m.vnode s))
        else settle (refuseNew c (Reply.bad 10) s))
      else
        let held := s.host.qpHeld.atD m.qpn []
        let s' := { s with host := { s.host with qpHeld := s.host.qpHeld.put m.qpn (held ++ [(m, (readCmd p))]) } }
        if held.isEmpty then settle (admitHeld m.qpn 1 false k s') else s') s

/-- COALESCE_EXPIRY (R476): COALESCE_US from the first record not yet signalled. -/
def execCoalesceExpiry (ring : BitVec 9) (s : State) : Res :=
  onNode (fun s =>
    let x := ringAt s ring
    if x.isResult ∧ 0 < x.unsignalled then raise x.msix (updRing ring (fun x => { x with unsignalled := 0 }) s) else s) s

/-- The reply that PEEK_REPLY gives for a tag (R478). -/
def peekReplyOf (s : State) (ring : BitVec 9) (tag : BitVec 32) : List Byte :=
  match ((ringAt s (ringAt s ring).resultRing).records.find? (fun r => decide (r.submit = ring ∧ r.tag = tag))) with
  | some r => r.reply
  | none =>
    let running := (s.host.admitted.find? (fun a => decide (ringOf a.cmd = some ring) && decide (a.cmd.hdr.tag = tag) && !a.discard)).map
      (fun a => a.cmd.hdr.opcode)
    let queued := ((ringAt s ring).fetched.find? (fun h => decide (h.tag = tag))).map (fun h => h.opcode)
    match running, queued with
    | some op, _ => replyBytes s 0 tag op (Reply.st stPending)
    | none, some op => replyBytes s 0 tag op (Reply.st stPending)
    | none, none => replyBytes s 0 0 0 (Reply.st stMiss)

/-- PEEK_TAG (R478): the tag is written, and PEEK_REPLY read. -/
def execPeekTag (ring : BitVec 9) (tag : BitVec 32) (s : State) : Res :=
  onNode (fun s =>
    if (ringAt s ring).isResult then s
    else
      let s := updRing ring (fun x => { x with peekTag := tag }) s
      emit (.peekReply ring (peekReplyOf s ring tag)) s) s

/-! ## Plain registers (R11, R434, R435, R439, R480) -/

/-- The bits of MB_STATUS that the host writes: W1C [3:1] and the enables [10:8] (R480). DESIGN CHOICE (entry 113): the enable that the table gives
for the other direction of a mailbox stays 0 when 1 is written to it. -/
def writeMbStatus (m : BitVec 4) (value : BitVec 64) (s : State) : State :=
  updMb m (fun x => { x with
    empty := x.empty && !(value.getLsbD 3)
    overrun := x.overrun && !(value.getLsbD 2)
    aborted := x.aborted && !(value.getLsbD 1)
    emptyIrqEn := fromHost m && value.getLsbD 8
    fullIrqEn := !(fromHost m) && value.getLsbD 9
    abortedIrqEn := value.getLsbD 10 }) s

/-- Enable or disable an MSI-X table entry; enabling one that is pending sends its message. -/
def setMsix (v : Nat) (on : Bool) (s : State) : State :=
  if on then
    let s := { s with host := { s.host with msix := if v ∈ s.host.msix then s.host.msix else s.host.msix ++ [v] } }
    if v ∈ s.host.msixPending then
      emit (.msix v) { s with host := { s.host with msixPending := s.host.msixPending.filter (fun x => x ≠ v) } }
    else s
  else { s with host := { s.host with msix := s.host.msix.filter (fun x => x ≠ v) } }

/-- REGISTER_WRITE (R11): the access code of the register decides. -/
def execRegisterWrite (r : Reg) (value : BitVec 64) (s : State) : Res :=
  match r with
  | .i3cAlert => .next (if i3cAnswers s then { s with mgmt := { s.mgmt with alert := s.mgmt.alert &&& ~~~(value.truncate 8) } } else s)
  | .devError => onNode (fun s => { s with host := { s.host with devError := s.host.devError &&& ~~~(value.truncate 3) } }) s
  | .apertureWindow => onNode (fun s => { s with host := { s.host with apertureWindow := value.truncate 11 } }) s
  | .adminBlock ring blk =>
    onNode (fun s => { s with host := { s.host with adminBlocks := s.host.adminBlocks.put ring blk } }) s
  | .mbStatus m => onNode (writeMbStatus m value) s
  | .msixEntry v on => onNode (setMsix v.toNat on) s
  | .syncSetValue => onNode (fun s => { s with sync := { s.sync with setValue := value } }) s
  | .readOnly _ => .next s
  | .unmapped _ => .next s

/-! ## ORDER.FENCE (R482, R483) -/

/-- ORDER.FENCE. -/
def execOrderFence (c : Cmd) (scopeNode mirror logMark : Bool) (s : State) : Res :=
  runVerb c (withParams c 8 [] (fun s =>
    .later (settle (addJob (.fence c s.work.serial scopeNode mirror logMark) s).2))) s

/-- ORDER_FENCE_TIMEOUT (R482): under MIRROR, the twin's acknowledgement has not arrived within TWIN_ACK_WAIT_US. -/
def execOrderFenceTimeout (job : Nat) (s : State) : Res :=
  onNode (fun s =>
    match s.jobs.at? job with
    | some (.fence c serial scopeNode true _) =>
      if fenceReady s c serial scopeNode false ∧ !(fenceReady s c serial scopeNode true) then
        complete c (Reply.st stTimeout) (endJob job s)
      else s
    | _ => s) s

end Sys2Proof.Machine
end

