-- ==== Sys2Proof/Machine/Log.lean ====
section
/-! DEFINITION. What the host reads: status, the HBM aperture, the event log and the counters (R92, R431–R438, R485–R492). -/

namespace Sys2Proof.Machine

/-! ## Status (R435, R436) -/

/-- Whether any virtual node is FENCED. -/
def anyFenced (s : State) : Bool := s.vnodes.any (fun n => n.2.fenced)

/-- DEV_STATUS (R436). -/
def devStatus (s : State) : Nat :=
  word [(15, b2n s.pw.fatal), (14, b2n s.pw.brake), (13, b2n (anyFenced s)), (12, b2n s.mgmt.debugLockOpen),
    (11, b2n (decide (s.mgmt.tenancy = 2))), (10, b2n s.configured), (0, s.pw.fwState)]

/-! ## The aperture (R437, R438) -/

/-- Bytes of one aperture window. -/
def windowBytes : Nat := 2 ^ 28

/-- The bytes of an access that lie in the window. -/
def windowLen (offset : BitVec 28) (n : Nat) : Nat := min n (windowBytes - offset.toNat)

/-- The physical address that the window shows at an offset (R437). -/
def apertureAddr (s : State) (offset : BitVec 28) : Nat := s.host.apertureWindow.toNat * windowBytes + offset.toNat

/-- Refuse an aperture access (R438): counted, and logged at most once per millisecond. -/
def denyAperture (offset : BitVec 28) (s : State) : State :=
  let s := bump .apertureRefusals s
  let recent : Bool := match s.log.lastApertureDenied with
    | some t => decide (s.pw.uptime < t + 1000000)
    | none => false
  if recent then s
  else
    let s := logFrom 0 0x0A03 srcHost [(16, s.host.apertureWindow.toNat), (64, offset.toNat)] s
    { s with log := { s.log with lastApertureDenied := some s.pw.uptime } }

/-- Whether the manual gives the content of an address a layout (R437): data pages, mask pages and mask record frames. -/
def hasLayout (s : State) (a : Nat) : Bool :=
  match frameAt a with
  | some f => decide ((frameOf s f).use = .data) || decide ((frameOf s f).use = .mask)
  | none => false

/-- Bytes as the aperture shows them: content without a layout is a free value. -/
def apertureBytes (s : State) (a n : Nat) : List Byte :=
  ((hbmRead s a n).zip (List.range n)).map (fun p =>
    if hasLayout s (a + p.2) then p.1 else Config.unspecifiedByte s.tick (a + p.2))

/-- APERTURE_READ (R437, R438). -/
def execApertureRead (offset : BitVec 28) (len : BitVec 13) (u : Upsets) (s : State) : Res :=
  onNode (fun s =>
    if s.mgmt.tenancy = 2 then emit (.aperture .unsupportedRequest) (denyAperture offset s)
    else
      let a := apertureAddr s offset
      let n := windowLen offset len.toNat
      let k := meetLink u a (applyUpsets u s)
      let r := readRange .normal a n k.2
      if k.1 && r.1 then emit (.aperture (.data (apertureBytes r.2 a n))) { r.2 with tick := r.2.tick + 1 }
      else emit (.aperture .completerAbort) r.2) s

/-- Whether bytes from an address are those of a sealed page (R68): in its frame, or in its image in pack frames. -/
def isReadOnly (s : State) (a n : Nat) : Bool :=
  s.frames.any (fun p => decide (p.2.use = .data) && (decide (p.2.state = .sealed) || decide (p.2.state = .poisoned))
      && decide (frameBase p.1 < a + n) && decide (a < frameBase p.1 + frameBytes))
    || s.tier.images.any (fun i => match i.2.home with
      | .pack es => es.any (fun e => decide (frameBase e.frame + 64 * e.first < a + n) && decide (a < frameBase e.frame + 64 * (e.first + e.count)))
      | .flash .. => false)

/-- A write from the host (R139, R142, R145): a transfer whose interface code fails is sent once more, and a codeword whose second transfer
fails too is not stored. -/
def normalWrite (a : Nat) (bs : List Byte) (u : Upsets) (s : State) : State :=
  let st := stackOf a
  let s := applyUpsets u s
  let s := if u.linkFails ≠ 0 then bumpAt .stackLinkResends st 1 s else s
  if 2 ≤ u.linkFails then
    let n := 32 - a % 32
    hbmWrite (a + n) (bs.drop n) (logFrom 0 0x0301 (srcStack st) [(8, st), (8, a % 2 ^ 36 / pcBytes)] s)
  else hbmWrite a bs s

/-- APERTURE_WRITE (R437, R438). DEDUCED (entry 80): a write that would change a sealed page (R68) is discarded and counted as refused. -/
def apertureWriteRow (offset : BitVec 28) (bytes : List Byte) (u : Upsets) (s : State) : Res :=
  let a := apertureAddr s offset
  let bs := bytes.take (windowLen offset bytes.length)
  onNode (fun s =>
    if s.mgmt.tenancy = 2 ∨ !s.mgmt.debugLockOpen then denyAperture offset s
    else if isReadOnly s a bs.length && decide (hbmRead s a bs.length ≠ bs) then denyAperture offset s
    else normalWrite a bs u s) s

/-! ## The event log (R485, R486, R489) -/

/-- Bytes to the next multiple of `m`. -/
def alignUp (m n : Nat) : Nat := ceilDiv n m * m

/-- An event's payload from byte `at_` of the record (R486): every field aligned to its width. -/
def payloadBytes (at_ : Nat) : List (Nat × Nat) → List Byte
  | [] => []
  | (w, v) :: r =>
    let n := w / 8
    let gap := alignUp n at_ - at_
    zeros gap ++ leBytes n v ++ payloadBytes (at_ + gap + n) r

/-- An event record (R485). -/
def eventBytes (e : Event) : List Byte :=
  let p := payloadBytes 32 e.payload
  let units := ceilDiv (32 + p.length) 64
  padTo (64 * units) (words64 [e.seq, word [(48, e.code), (40, e.source), (38, e.severity), (36, units - 1), (16, e.node.toNat)],
    e.timeNs, e.droppedBefore] ++ p)

/-- As many of the records as fit. -/
def takeFitting (room : Nat) : List (List Byte) → List (List Byte)
  | [] => []
  | r :: rest => if r.length ≤ room then r :: takeFitting (room - r.length) rest else []

/-- LOG_READ (R489). -/
def execLogRead (c : Cmd) (fromSeq : BitVec 64) (maxRecords : BitVec 13) (s : State) : Res :=
  runVerb c (withParams c 16 [(decide (maxRecords.toNat < 1) || decide (4096 < maxRecords.toNat), 72)] (fun s =>
    let held := (s.log.events.filter (fun e => decide (fromSeq.toNat ≤ e.seq))).take maxRecords.toNat
    let rs := takeFitting (resultRoom s c) (held.map eventBytes)
    .now (Reply.ofResult rs.length rs.flatten) s)) s

/-! ## Counters (R490) -/

/-- What a counter position shows, and what INDEX selects in it. -/
inductive Shown where
  /-- A counter of the node. -/
  | node (c : Counter)
  /-- One kept per stack. -/
  | stack (c : Counter)
  /-- One kept per virtual node. -/
  | vnode (c : Counter)
  /-- One kept per port. -/
  | port (c : Counter)
  /-- A level of the node, or of a virtual node. -/
  | level (f : Nat)
  /-- FRAMES_FREE, which is each virtual node's own (R382). -/
  | framesFree
deriving DecidableEq, Repr

/-- ACLK in MHz of a step (R582). -/
def mhzOf (step : Nat) : Nat := 3000 - 250 * step

/-- ACLK in force (R585): the lower of the step chosen and the thermal limit. -/
def aclkMhz (s : State) : Nat := mhzOf (max s.pw.aclkStep s.pw.thermalStep)

/-- Frames in a state. -/
def framesIn (s : State) (st : FrameState) : Nat := (s.frames.filter (fun p => decide (p.2.state = st))).length

/-- Valid directory entries over all banks. -/
def dirValid (s : State) : Nat := s.dir.banks.foldl (fun n b => n + b.2.valid.length) 0

/-- The counters of a group, in the order of its table (R490). -/
def groupTable (s : State) (group : Nat) : List Shown :=
  match group with
  | 0x01 => [.framesFree, .level (framesIn s .quarantined), .node .genWraps, .node .dirFalseHits, .node .dirShadowUe,
      .node .dirScrubFixes, .node .dirTransientMisses, .level (dirValid s), .node .spanPlaceFails]
  | 0x02 => [.node .appendRows, .node .appendRepeats, .node .appendRepeatsUncompared, .node .appendConflicts,
      .node .appendNonfinite, .node .pagesSealed, .node .spareTakes, .node .growLowWarnings, .node .noSpaceRefusals,
      .node .cowCopies, .level (framesIn s .spare)]
  | 0x03 => [.stack .runnerSteps, .stack .refSplits, .stack .refPostponed, .stack .runnerCe, .stack .runnerUe,
      .stack .runnerRegCe, .stack .runnerRegUe, .stack .stackLinkResends, .stack .throttleL1Us, .stack .throttleL2Us,
      .stack .throttleL3Us]
  | 0x04 => [.node .attnDescriptors, .node .attnInStack, .node .attnDie, .node .attnPagesDieServed, .node .attnSegmented,
      .node .attnAdmitRetries, .node .attnOverflows, .node .dsFirstUse, .node .dsSatRetries, .node .dsLowresRetries,
      .node .dsLowresFlags, .node .maskStepsSkipped]
  | 0x05 => [.node .rowsAbsorbed, .node .segmentsRun, .node .mergeCommands, .node .mergeInputs, .node .fanoutDescriptors,
      .node .fanoutSubqueries, .node .fanoutFailures]
  | 0x06 => [.node .checksLight, .node .checksFull, .node .checkFails, .node .homeChecks, .node .certDirectPages,
      .node .readVerifyPages, .node .digestMismatches, .node .replicaRepairs, .node .replicaDivergentPages,
      .node .pagesPoisoned]
  | 0x07 => [.stack .hbmCe, .stack .hbmUe, .stack .hbmAddrErr, .stack .linkCe, .stack .linkUe, .stack .scrubCe,
      .stack .scrubUe, .node .sramCe, .node .sramUe, .level s.withheld.length, .node .pagesLost, .node .pagesPacked,
      .node .pagesDemoted, .node .pagesPromoted, .node .promoteRetryAnswers, .node .promoteBypass,
      .node .flashVerifyFails, .node .flashRelocations, .node .flashBadBlocks, .node .codecStale]
  | 0x08 => [.vnode .framesDropped, .vnode .pktMalformed, .vnode .dupPackets, .vnode .outOfWindow, .vnode .retransmits,
      .vnode .rnrDrops, .vnode .msgRejects, .vnode .writeRejects, .vnode .repliesDiscarded, .vnode .qpErrors,
      .vnode .entropySuspends, .vnode .macsecIcvFail, .vnode .macsecReplay, .vnode .macsecNoSa, .vnode .rekeys,
      .vnode .fwdPackets, .vnode .fwdNoRoute, .vnode .staleMapAnswers, .vnode .fencedAnswers, .vnode .movedAnswers,
      .port .fecCwCorrected, .port .fecCwUncorrected]
  | 0x09 => [.node .soloAppends, .node .mirrorRetries, .node .peerDrops, .node .pagesCoded, .node .pagesRebuiltCode,
      .node .pagesSpareCopied, .node .spansTakenOver, .node .lostEntries, .node .handoffsCommitted,
      .node .handoffsInDoubt]
  | 0x0A => [.node .commandsAdmitted, .node .ringErrors, .node .doorbellDrops, .node .recordsDiscarded, .node .dmaErrors,
      .node .mailboxOverruns, .node .mailboxAborts, .node .apertureRefusals, .node .eventsDropped]
  | 0x0B => [.node .syncSignals, .node .syncReleases, .node .syncTimeouts, .node .eventOverruns, .node .barrierPhases,
      .node .barrierRefusals, .node .signalsDropped, .node .waiterTableFull, .node .treeRejects, .node .treeFailures,
      .node .syncObjUe, .node .syncSetWrites, .node .syncSetRefused, .node .syncFreezes, .level s.sync.objs.length,
      .level s.sync.waiters.length]
  | 0x0C => [.node .sessionsOpened, .node .sessionsRefused, .node .attestReports, .node .hostDataDenials,
      .node .anchorRefusals]
  | 0x0D => [.node .brakeEntries, .node .brakeUs, .node .flashOpsHeld, .node .capStepsDown, .node .capUnmetIntervals,
      .node .thermalStepsDown, .node .marginLowEvents, .level (aclkMhz s), .level (s.pw.means.headD 0)]
  | _ => []

/-- Whether INDEX is in range for a position; it is ignored where nothing is kept per index. -/
def Shown.indexOk (x : Shown) (s : State) (ix : Nat) : Bool :=
  match x with
  | .stack _ => decide (ix < 8)
  | .port _ => decide (ix < portCount s.knobs.fabricPortMode) || decide (ix = 16)
  | .vnode _ => decide (vnodeCount s = 1) || decide (ix < vnodeCount s)
  | .framesFree => decide (vnodeCount s = 1) || decide (ix < vnodeCount s)
  | _ => true

/-- The virtual node that INDEX selects. -/
def indexVnode (s : State) (ix : Nat) : VId := if vnodeCount s = 1 then 0 else BitVec.ofNat 2 ix

/-- The microseconds of a throttle level under way on a stack, which its counter has not yet taken in (R171). -/
def levelSoFar (s : State) (c : Counter) (stack : Nat) : Nat :=
  let x := stackAt s stack
  if levelCounter x.throttle = some c then levelUs s x else 0

/-- The value at a position. -/
def Shown.value (x : Shown) (s : State) (ix : Nat) : Nat :=
  match x with
  | .node c => counterAt s c 0
  | .stack c => min (2 ^ 64 - 1) (counterAt s c ix + levelSoFar s c ix)
  | .port c => counterAt s c ix
  | .vnode c => counterAt s c (indexVnode s ix).toNat
  | .level n => n
  | .framesFree => freeCount s (indexVnode s ix)

/-- LOG_COUNTERS (R490). -/
def execLogCounters (c : Cmd) (group index first count : BitVec 8) (s : State) : Res :=
  runVerb c (fun s =>
    let t := groupTable s group.toNat
    let ps := (t.drop first.toNat).take count.toNat
    withParams c 8 [(t.isEmpty, 71), (ps.any (fun p => !(p.indexOk s index.toNat)), 70), (!t.isEmpty && decide (t.length ≤ first.toNat), 69),
        (decide (count.toNat < 1) || decide (64 < count.toNat), 68),
        (decide (first.toNat < t.length) && decide (t.length < first.toNat + count.toNat), noField)]
      (fun s => .now (Reply.ofResult count.toNat (words64 (ps.map (fun p => p.value s index.toNat)))) s) s) s

end Sys2Proof.Machine
end

