-- ==== Sys2Proof/Machine/Merge.lean ====
section
/-! DEFINITION. ATTN.MERGE and home-merged queries (R240–R248, R276). -/

namespace Sys2Proof.Machine

/-! ## ATTN.MERGE (R240–R243) -/

/-- A merge descriptor: OUT_TAG, FINALISE, COUNT, and the packet offset of its first reserved field that is not zero. -/
structure MergeDesc where
  outTag : BitVec 32
  finalise : Bool
  count : Nat
  rsv : Option Nat
deriving DecidableEq, Repr

/-- The merge descriptor that 64 bytes hold. -/
def readMergeDesc (bs : List Byte) : MergeDesc :=
  let w := wordAt bs 0
  let later := (List.range 7).find? (fun i => decide (wordAt bs (i + 1) ≠ 0))
  ⟨BitVec.ofNat 32 (w / 2 ^ 32), bitOf w 8, w % 256,
    if bitsOf w 31 9 ≠ 0 then some 65 else later.map (fun i => 72 + 8 * i)⟩

/-- An input record: its offset in the parameters, its header and its rows. -/
structure MergeInput where
  at_ : Nat
  hdr : RecHdr
  rows : List RowPart
deriving DecidableEq, Repr

/-- Cut `count` records off the parameters from an offset, as step 1 of R241 demands; none where one does not fit or bytes are left. -/
def splitRecords (count off : Nat) (bs : List Byte) : Option (List (MergeInput × List Byte)) :=
  match count with
  | 0 => if bs.isEmpty then some [] else none
  | k + 1 =>
    if bs.length < 128 then none
    else
      let h := readHdr bs
      let n := recordLen (h.rowsM1 + 1) (dimOf h.headDim)
      if dimOf h.headDim = 0 ∨ bs.length < n then none
      else (splitRecords k (off + n) (bs.drop n)).map (fun r => (⟨off, h, readParts h (bs.take n)⟩, bs.take n) :: r)

/-- The packet offset of the first reserved field of an input record that is not zero. -/
def inputRsv (x : MergeInput × List Byte) : Option Nat :=
  let dim := dimOf x.1.hdr.headDim
  match (hdrRsv x.2).head? with
  | some o => some (64 + x.1.at_ + o)
  | none => (List.range (x.1.hdr.rowsM1 + 1)).findSome? (fun r =>
      let at_ := 128 + r * rowStride dim
      ((partRsv dim (bytesAt x.2 at_ (rowStride dim))).head?).map (fun o => 64 + x.1.at_ + at_ + o))

/-- The field of a row section that breaks step 6 of R241, by its byte. -/
def rowFault (tokens : Nat) (p : RowPart) : Option Nat :=
  let empty := isEmptyRow p
  let bad (x : F32) (scaled : Bool) : Bool := !(F32.isFin x) || (empty && scaled && decide (F32.rat x ≠ 0))
  if !(F32.isFin p.m) && !empty then some 0
  else if bad p.l true then some 4
  else if bad p.scoreSum false then some 8
  else if bad p.scoreRef false then some 12
  else if bad p.scoreAbs false then some 16
  else if bad p.outSum true then some 20
  else if bad p.outRef true then some 24
  else if bad p.outAbs true then some 28
  else if tokens < p.unmasked then some 32
  else (firstBelow p.out.length (fun d => bad (p.out.getD d 0) true)).map (fun d => 72 + 4 * d)

/-- Step 6 of R241 on one record: the packet offset of the first field that fails. -/
def inputFault (x : MergeInput) : Option Nat :=
  (List.range x.rows.length).findSome? (fun r =>
    match x.rows[r]? with
    | some p => (rowFault x.hdr.tokensRead p).map (fun o => 64 + x.at_ + 128 + r * rowStride (dimOf x.hdr.headDim) + o)
    | none => none)

/-- Inputs in the order of SPAN_FIRST. -/
def inSpanOrder (xs : List MergeInput) : List MergeInput :=
  sortBy (fun (a b : MergeInput) => decide (a.hdr.spanFirst ≤ b.hdr.spanFirst)) xs

/-- Whether sorted inputs leave no gap and no overlap. -/
def contiguous : List MergeInput → Bool
  | [] => true
  | [_] => true
  | a :: b :: r => decide (a.hdr.spanFirst + a.hdr.spanCount = b.hdr.spanFirst) && contiguous (b :: r)

/-- The sum of a field over inputs. -/
def sumOf (f : RecHdr → Nat) (xs : List MergeInput) : Nat := xs.foldl (fun n x => n + f x.hdr) 0

/-- Whether two epochs differ by at most 1 modulo 2^16. -/
def epochsNear (a b : BitVec 16) : Bool := decide (a = b) || decide (a = b + 1) || decide (b = a + 1)

/-- The checks of R241: the inputs, or the status and the DETAIL. -/
def checkMerge (bs : List Byte) : List MergeInput ⊕ (Status × BitVec 16) :=
  let d := readMergeDesc bs
  let bad (o : Option Nat) : List MergeInput ⊕ (Status × BitVec 16) := .inr (stBadParam, match o with
    | some x => BitVec.ofNat 16 (min x 0xFFFC)
    | none => 0xFFFF)
  if bs.length < 64 then bad none
  else if d.count < 2 ∨ 64 < d.count then bad (some 64)
  else if d.rsv.isSome then bad d.rsv
  else match splitRecords d.count 64 (bs.drop 64) with
    | none => bad none
    | some rs =>
      let xs := rs.map Prod.fst
      match rs.findSome? inputRsv with
      | some o => bad (some o)
      | none =>
        match xs.findSome? (fun x => if x.hdr.normalised then some (65 + x.at_) else if x.hdr.status ≠ stOk then some (66 + x.at_) else none) with
        | some o => bad (some o)
        | none =>
          let h := (xs.head?.map MergeInput.hdr).getD (readHdr [])
          let agree := xs.all (fun x => decide (x.hdr.handle = h.handle ∧ x.hdr.layer = h.layer ∧ x.hdr.head = h.head
            ∧ x.hdr.rowsM1 = h.rowsM1 ∧ x.hdr.headDim = h.headDim ∧ x.hdr.valueRotated = h.valueRotated))
          let sorted := inSpanOrder xs
          let lo := (sorted.head?.map (fun x => x.hdr.spanFirst)).getD 0
          let n := sumOf RecHdr.spanCount xs
          if !agree ∨ !(contiguous sorted) ∨ 65535 < n ∨ 2 ^ 24 < lo + n then bad none
          else if 2 ^ 32 ≤ sumOf RecHdr.pagesRead xs ∨ 2 ^ 48 ≤ sumOf RecHdr.tokensRead xs ∨ 0xFFFF < sumOf RecHdr.parts xs
              ∨ 0xFFFF < sumOf RecHdr.segments xs then bad none
          else match xs.findSome? inputFault with
            | some o => bad (some o)
            | none =>
              if xs.all (fun x => xs.all (fun y => epochsNear x.hdr.mapEpoch y.hdr.mapEpoch)) then .inl xs
              else .inr (stStaleMap, 0)

/-- The status-only record of a refused merge (R241). -/
def mergeRefusal (s : State) (v : VId) (bs : List Byte) (st : Status) : RecHdr :=
  let h := readHdr (padTo 128 (bs.drop 64))
  { statusOnly ⟨h.handle, h.spanFirst, h.layer, h.head, h.spanCount, h.headDim, 0, 0, 0, 1, 1, (readMergeDesc bs).outTag, 0, 0, false⟩
      (vn s v).nodeId (mapEpochOf s v) st 0 with rowsM1 := h.rowsM1 }

/-- The merge of checked inputs (R242, R243): the record, and how many factors absorbed. -/
def mergeInputs (tick : Nat) (node : NodeId) (d : MergeDesc) (xs : List MergeInput) : (RecHdr × List RowPart) × Nat :=
  let rows := (reduceFuel xs.length tick 0 (xs.map MergeInput.rows)).getD ([], 0)
  let h := match xs.map MergeInput.hdr with
    | [] => readHdr []
    | x :: r => r.foldl (fun a b => mergeHdr node false a b) x
  let m : RecHdr × List RowPart := ({ h with tag := d.outTag, absorbed := h.absorbed || decide (rows.2 ≠ 0) }, rows.1)
  (if d.finalise then finalise m else m, rows.2)

/-- ATTN_MERGE (R240–R243, R447). -/
def execAttnMerge (c : Cmd) (payload : List Byte) (s : State) : Res :=
  runVerb c (fun s =>
    let v := vnodeOf s c
    if c.hdr.paramLen.toNat ≠ payload.length then .now (Reply.bad 12) s
    else match checkMerge payload with
      | .inr (st, detail) =>
        .now { batchReply [hdrBytes (mergeRefusal s v payload st)] with status := st, detail := detail } s
      | .inl xs =>
        let m := mergeInputs s.tick (vn s v).nodeId (readMergeDesc payload) xs
        let s := bumpBy .rowsAbsorbed m.2 { s with tick := s.tick + 1 }
        let s := bumpBy .mergeInputs xs.length (bump .mergeCommands s)
        .now (batchReply [recordBytes m.1.1 m.1.2]) s) s

/-! ## Home-merged queries (R244–R248) -/

/-- The 64 bytes of a query descriptor (R173). -/
def qdescBytes (d : QDesc) : List Byte :=
  words64 [d.handle.toNat,
    word [(40, d.spanFirst), (24, d.layer), (16, d.head), (8, d.spanCount - 1), (0, d.headDim)],
    word [(32, d.mult.toNat), (30, d.qFmt), (28, d.maskMode), (18, d.qTokens - 1), (12, d.qHeads - 1)],
    word [(32, d.tag.toNat), (0, d.maskRowBase)], d.posBase, 0, 0, 0]

/-- The maximal runs of consecutive spans that one node holds: first span, count and node. -/
def runsOfPlaces : List (Nat × NodeId) → List (Nat × Nat × NodeId)
  | [] => []
  | (n, x) :: r =>
    match runsOfPlaces r with
    | (m, k, y) :: rest => if y = x ∧ m = n + 1 then (n, k + 1, x) :: rest else (n, 1, x) :: (m, k, y) :: rest
    | [] => [(n, 1, x)]

/-- Send a sub-query to the node that holds its spans (R245): its record comes back into a region of this node. -/
def sendSub (id sub : Nat) (v : VId) (x : FanSub) (d : QDesc) (raw : List Byte) (s : State) : State :=
  let key := s.nextTag
  let size := ceilDiv (recordLen d.rows d.dim) 64 * 64
  let s := { s with nextTag := key + 1, regions := s.regions.put key ⟨.fanout id sub, 0, size⟩ }
  let p := qdescBytes { d with tag := key } ++ raw
  if peerBlocked s v x.node then s
  else sendTo v x.node false (headOf s v opQuery 0 key (BitVec.ofNat 32 size) p.length) p (.subQuery v x.node (mapEpochOf s v) key key 0 size p) s

/-- Start the sub-queries of a fan-out in turn: those of other nodes are sent, and those of this node are checked. -/
def startSubs (id : Nat) (v : VId) (d : QDesc) (raw : List Byte) (k : Knobs) (stall : Nat) : List (Nat × FanSub) → State → State
  | [], s => s
  | (i, x) :: r, s =>
    let d' := { d with spanFirst := x.first, spanCount := x.count }
    let s := bump .fanoutSubqueries s
    startSubs id v d raw k stall r (if x.node = (vn s v).nodeId then
      let n := takeId s
      admitDesc n.1 (.fan id i) v d' (queryRows d raw) k (mapEpochOf s v) stall none n.2
    else sendSub id i v x d' raw s)

/-- Hold a descriptor whose search for the sequence record met an update or a rebuild (R85), under its number. -/
def holdFan (id b ix : Nat) (v : VId) (d : QDesc) (raw : List Byte) (k : Knobs) (ep : BitVec 16) (stall : Nat) (s : State) : State :=
  let p := bankPair d.handle
  { s with attn := { s.attn with
    held := s.attn.held.put id ⟨.batch b ix, v, d, [], k, ep, stall, p.1, p.2, some raw, ⟨[], [], []⟩⟩ } }

/-- End a fan-out descriptor with a status-only record (R247, R248). -/
def refuseFan (b ix : Nat) (v : VId) (d : QDesc) (st : Status) (node : Option NodeId) (hint : Nat) (s : State) : State :=
  refuseDesc (.batch b ix) v d st node hint (bump .fanoutFailures s)

/-- Split an admitted descriptor into its sub-queries (R245). DESIGN CHOICE (entry 112): the record for an unassigned span names it in SPAN_FIRST and
keeps the descriptor's SPAN_COUNT. -/
def splitFan (b ix : Nat) (v : VId) (d : QDesc) (raw : List Byte) (k : Knobs) (stall : Nat) (q : SeqRec) (s : State) : State :=
  let s := bump .fanoutDescriptors s
  let names := (List.range d.spanCount).map (fun i => d.spanFirst + i)
  match names.find? (fun n => !(q.places.has n)) with
  | some n => refuseFan b ix v { d with spanFirst := n } stMiss none 0 s
  | none =>
    let subs := (runsOfPlaces (names.map (fun n => (n, q.places.atD n 0)))).map (fun r => (⟨r.1, r.2.1, r.2.2, .waiting []⟩ : FanSub))
    let id := s.nextId
    let f : Fanout := ⟨b, ix, v, d, subs, none, q.geo, false⟩
    startSubs id v d raw k stall ((List.range subs.length).zip subs) (putFan id f { s with nextId := id + 1 })

/-- One descriptor of ATTN.QUERY_FANOUT from its search on, under its number (R244). -/
def fanDesc (id : Nat) (c : Cmd) (b ix : Nat) (v : VId) (d : QDesc) (raw : List Byte) (k : Knobs) (stall : Nat) (s : State) : State :=
  let r := findHome c d.handle s
  match r.1 with
  | .transient => holdFan id b ix v d raw k c.hdr.mapEpoch stall r.2
  | .stop rep => refuseFan b ix v d rep.status rep.node rep.hint r.2
  | .found f => match r.2.seqs.at? f with
    | none => refuseFan b ix v d stMiss none 0 r.2
    | some q => if q.closing then refuseFan b ix v d stMiss none 0 r.2 else splitFan b ix v d raw k stall q r.2

/-- ATTN_QUERY_FANOUT (R177, R244, R245, R248). -/
def execAttnQueryFanout (c : Cmd) (payload : List Byte) (s : State) : Res :=
  runVerb c (fun s =>
    match readQuery payload with
    | none => .now (if maxMessage < payload.length then Reply.badAny else ((reservedCode 64 64 payload).map Reply.bad).getD Reply.badAny) s
    | some ds =>
      if c.hdr.paramLen.toNat ≠ payload.length then .now (Reply.bad 12) s
      else if resultRoom s c < fullResult ds then .now Reply.tooLong s
      else
        let v := vnodeOf s c
        let k := knobsOf s c
        let stall := stallOf s c
        let b := openBatch (.cmd c) v ds.length s
        let s := ((List.range ds.length).zip ds).foldl (fun s p =>
          let d := p.2.1
          if !(queryStep1 d) ∨ (queryRows d p.2.2).any (fun x => x.any (fun e => !(F32.isFin e))) then
            refuseFan b.1 p.1 v d stBadParam none 0 s
          else if (mapFor s v c.hdr.mapEpoch).isNone then refuseFan b.1 p.1 v d stStaleMap none 0 (bumpV .staleMapAnswers v s)
          else
            let n := takeId s
            fanDesc n.1 c b.1 p.1 v d p.2.2 k stall n.2) b.2
        .later (dispatchBatch b.1 s)) s

/-- FANOUT_TIMEOUT (R247): a sub-query that has not answered has failed, and what it answers later is discarded. -/
def execFanoutTimeout (fanout sub : Nat) (s : State) : Res :=
  onNode (fun s =>
    match s.attn.fanouts.at? fanout with
    | none => s
    | some f => match f.subs[sub]? with
      | none => s
      | some x => match x.ans with
        | .waiting _ =>
          let s := { s with regions := s.regions.filter (fun r => decide (r.2.use ≠ .fanout fanout sub)) }
          fanFinish fanout (setSub fanout sub (.failed stTimeout x.node 0) s)
        | _ => s) s

/-- Whether a record that has arrived has a reserved field that is not zero, in its header or, where it has rows, in them (R10). -/
def recordRsv (h : RecHdr) (bs : List Byte) : Bool :=
  if h.status = stOk then (inputRsv (⟨0, h, []⟩, bs)).isSome else !(hdrRsv bs).isEmpty

/-- A WRITE of a sub-query's record (R246): once the whole record is there it is checked and folded. One with a reserved field that is not zero is
rejected with ST_BAD_PARAM (R10), so that its sub-query has failed. -/
def fanWrite (id sub : Nat) (key : BitVec 32) (off : Nat) (bs : List Byte) (s : State) : State :=
  match s.attn.fanouts.at? id with
  | none => s
  | some f => match (f.subs[sub]?).map FanSub.ans with
    | some (.waiting buf) =>
      let node := ((f.subs[sub]?).map FanSub.node).getD 0xFFFF
      let buf := putBytes buf off bs
      let h := readHdr buf
      let done := decide (128 ≤ buf.length) && (decide (h.status ≠ stOk) || decide (recordLen (h.rowsM1 + 1) (dimOf h.headDim) ≤ buf.length))
      if done && recordRsv h buf then
        fanFinish id (setSub id sub (.failed stBadParam node 0) { s with regions := s.regions.del key })
      else if done then fanAnswer id sub (!h.diePath) h (readParts h buf) { s with regions := s.regions.del key }
      else setSub id sub (.waiting buf) s
    | _ => s

end Sys2Proof.Machine
end

