-- ==== Sys2Proof/Machine/Check.lean ====
section
/-! DEFINITION. Page digests: read-verify, the comparison of copies, repair, rewrite and rebuild (R263, R264, R277–R285, R296, R405,
R416). -/

namespace Sys2Proof.Machine

/-! ## Comparing copies (R282, R283) -/

/-- Poison a copy that diverges, and log both sides (R283): the recorded digests and content hashes of this side and the other. -/
def divergent (p : PageRef) (d0 d1 h0 h1 : List Byte) (s : State) : State :=
  match spanAt s p.record with
  | some r =>
    let s := poisonPage p .divergent s
    logFrom r.vnode 0x0603 srcCore (pageFields r p ++ [(256, leNat d0), (256, leNat d1), (256, leNat h0), (256, leNat h1)]) s
  | none => s

/-- Rewrite a page from good content (R284): where no frame is FREE the page goes on being awaited. -/
def rewriteFrom (p : PageRef) (content : List Byte) (counts : Bool) (s : State) : State :=
  match rewritePage p content s with
  | .done s => contribute p (if counts then bump .replicaRepairs s else s)
  | .differs s => s
  | .noFrame => s

/-- Treat a page of which no good copy can be read (R296). -/
def noGoodCopy (p : PageRef) (s : State) : State :=
  match pageAt s p with
  | some x => if x.poison.isSome then notAwaiting p s else if x.isSealed then poisonPage p .digest s else losePage p s
  | none => s

/-- Content rebuilt from a code group takes the place of the twin's copy in the table of R283 and is found to differ from the recorded digest: both
copies are POISONED where this node's own differs too. -/
def rebuiltDiffers (p : PageRef) (content : List Byte) (s : State) : State :=
  match pageAt s p, awaited s p with
  | some x, some (some mine) => if mine ≠ x.digest then divergent p x.digest x.digest mine (pageDigest content) s else notAwaiting p s
  | _, _ => noGoodCopy p s

/-- Compare a page with its other copy: the other's recorded digest, and its content and content hash where it reads (R283). The holder of a
TWIN_COPY does not resolve its page (R282): what it awaits comes from the holder of the SPAN entry. -/
def compareCopies (p : PageRef) (digest : List Byte) (other : Option (List Byte × List Byte)) (s : State) : State :=
  match pageAt s p with
  | none => s
  | some x =>
    let own := awaited s p
    match other with
    | none => if own.isSome then noGoodCopy p s else s
    | some (hash, content) =>
      match own with
      | some (some mine) =>
        if (spanAt s p.record).any (fun r => r.copy) then s
        else if digest ≠ x.digest ∨ (mine ≠ x.digest ∧ hash ≠ x.digest) then divergent p x.digest digest mine hash s
        else if mine ≠ x.digest then rewriteFrom p content true s
        else notAwaiting p s
      | some none => if x.isSealed ∧ hash ≠ x.digest then noGoodCopy p s else rewriteFrom p content false s
      | none => if x.poison.isSome ∧ digest = x.digest ∧ hash = x.digest then rewriteFrom p content true s else s

/-! ## Read-verify (R277–R280) -/

/-- Read-verify one sealed page: a page whose content does not match its recorded digest is resolved, and a POISONED page is compared
with its other copy again (R285). -/
def verifyPage (p : PageRef) (s : State) : State :=
  match pageAt s p, spanAt s p.record with
  | some x, some r =>
    if !x.isSealed then s
    else
      let s := bump .readVerifyPages s
      if x.poison.isSome then (if hasOther s r p x then askOther p [] s else s)
      else
        let c := readCopy 4 r.geo.fmt x s
        match c.1 with
        | .reads bs =>
          let h := contentHash x bs
          if h = x.digest then c.2 else digestMismatch p h c.2
        | _ => pageUnreadable p c.2
  | _, _ => s

/-- Whether the node holds a sealed page whose content it can read (R278): one that is lost, not copied yet or in a coded stripe alone has none
here. -/
def Page.held (x : Page) : Bool := x.isSealed && (x.isPlain || x.image.isSome)

/-- Whether the scheduled read-verify covers a page (R278): a sealed page held here of a span that is mirrored or in a code group. -/
def verifyDue (r : SpanRec) (x : Page) : Bool :=
  x.held && (decide (r.geo.mirrorMode ≠ 2) || r.pages.any (fun q => q.2.coded.isSome) || r.copy)

/-- The pages of a read-verify pass. -/
def verifyList (s : State) : List PageRef :=
  s.spans.flatMap (fun p => ((pagesOf p).filter (fun q => verifyDue p.2 q.2)).map Prod.fst)

/-- Whether a page of the pass is still to be verified: one that has left is not. -/
def stillDue (s : State) (p : PageRef) : Bool :=
  match pageAt s p, spanAt s p.record with
  | some x, some r => verifyDue r x
  | _, _ => false

/-- Drop the pages that have left from the pass (R278). -/
def dropLeft (s : State) : State := { s with hbm := { s.hbm with verifyLeft := s.hbm.verifyLeft.filter (stillDue s) } }

/-- Begin the read-verify that runs beside a scrub pass, under the CHECK_COVERAGE now in force (R34, R278); one that has not finished goes on. -/
def startVerify (s : State) : State :=
  let s := dropLeft s
  if s.hbm.verifyLeft.isEmpty then
    { s with hbm := { s.hbm with
      verifyMode := s.knobs.checkCoverage
      verifyLate := false
      verifyLeft := if s.knobs.checkCoverage = 2 then verifyList s else [] } }
  else s

/-- READ_VERIFY (R278): one page of the scheduled pass, under FULL_VERIFY. A pass that was late is followed by the next at its end. -/
def execReadVerify (p : PageRef) (u : Upsets) (s : State) : Res :=
  onNode (fun s =>
    let s := dropLeft s
    let s := if s.hbm.verifyMode = 2 ∧ stillDue s p then
        dropLeft (verifyPage p (applyUpsets u { s with hbm := { s.hbm with verifyLeft := s.hbm.verifyLeft.filter (fun q => q ≠ p) } }))
      else s
    if s.hbm.verifyLate ∧ s.hbm.verifyLeft.isEmpty then startVerify s else s) s

/-- The records that SCRUB.VERIFY finds for its spans, or the first failure (R279): an entry of the span class or a TWIN_COPY entry. -/
def verifySpans (v : VId) (h : Handle) : List Nat → State → (List FrameId ⊕ SpanHit) × State
  | [], s => (.inl [], s)
  | n :: r, s =>
    let q := findSpan v h n s
    let hit : SpanHit := match q.1 with
      | .stop rep => if rep.status = stMiss then (match ownSpan q.2 v h n true with
          | some f => .found f false
          | none => .stop rep) else .stop rep
      | e => e
    match hit with
    | .found f _ =>
      let t := verifySpans v h r q.2
      (match t.1 with
        | .inl fs => .inl (f :: fs)
        | .inr e => .inr e, t.2)
    | e => (.inr e, q.2)

/-- The sealed pages held here that a target block names in a record. -/
def targetPages (s : State) (t : Target) (f : FrameId) : List PageRef :=
  match spanAt s f with
  | none => []
  | some r => ((pagesOf (f, r)).filter (fun q => q.2.held
      && (decide (t.scope ≠ 1) || (decide (q.1.layer = t.layer.toNat) && decide (q.1.head = t.head.toNat))))).map Prod.fst

/-- SCRUB_VERIFY (R279, R451). -/
def execScrubVerify (c : Cmd) (t : Target) (s : State) : Res :=
  runVerb c (withParams c 32 (targetFails t ⟨true, true, true, false, false⟩) (fun s =>
    let v := vnodeOf s c
    let verifyAll (fs : List FrameId) (s : State) : Done :=
      .now (Reply.st stOk) ((fs.flatMap (targetPages s t)).foldl (fun s p => verifyPage p s) s)
    if t.scope = 2 then verifyAll ((s.spans.filter (fun p => decide (p.2.vnode = v))).map Prod.fst) s
    else
      let r := verifySpans v t.handle (targetSpans t) s
      match r.1 with
      | .inl fs => verifyAll fs r.2
      | .inr (.stop rep) => .now rep r.2
      | .inr _ => holdForBank (.scrubVerify c t) c t.handle r.2)) s

/-! ## TWIN.VERIFY (R282, R283, R285) -/

/-- The record of a span that a TWIN.VERIFY exchange concerns on this node: its copy, or its own. -/
def verifyRecord (s : State) (h : PeerHdr) : Option FrameId :=
  match ownSpan s h.vnode h.handle h.span.toNat true with
  | some f => some f
  | none => ownSpan s h.vnode h.handle h.span.toNat false

/-- Resolve a page of a SPAN entry of this node, whose twin has told of a difference (R282). -/
def resolvePage (p : PageRef) (s : State) : State :=
  match pageAt s p, spanAt s p.record with
  | some x, some r =>
    if (awaited s p).isSome ∨ x.poison.isSome ∨ !x.held then s
    else
      let c := readCopy 4 r.geo.fmt x s
      match c.1 with
      | .reads bs =>
        let h := contentHash x bs
        if h ≠ x.digest then digestMismatch p h c.2 else askOther p h (awaitPage p (some h) c.2)
      | _ => pageUnreadable p c.2
  | _, _ => s

/-- VERIFY_REQ (R282). From the holder of the SPAN entry: the node hashes its copy and answers; a copy that differs alone waits for its rewriting,
and copies of which neither is preferred are poisoned. From the holder of a TWIN_COPY whose content differs: this node, which holds the SPAN
entry, resolves the page. From one whose copy does not read, which asks for the content alone (R296): it is answered. -/
def execVerifyReq (h : PeerHdr) (layer head page : Nat) (digest hash : List Byte) (u : Upsets) (s : State) : Res :=
  onPeer h .twin (fun s =>
    match verifyRecord s h with
    | none => ackPeer h stMiss 0 s
    | some f =>
      let p : PageRef := ⟨f, layer, head, page⟩
      match pageAt s p, spanAt s f with
      | some x, some r =>
        let answer (hash : Option (List Byte)) (content : List Byte) (s : State) : State :=
          sendPeer h.vnode h.sender true h.handle h.span.toNat (.verifyResp layer head page x.digest hash content) none (ackPeer h stOk 0 s)
        if !r.copy ∧ !hash.isEmpty then resolvePage p (ackPeer h stOk 0 (applyUpsets u s))
        else
        let c := readCopy 4 r.geo.fmt x (applyUpsets u s)
        (match c.1 with
        | .reads bs =>
          let mine := contentHash x bs
          let s := answer (some mine) bs c.2
          if !x.isSealed ∨ hash.isEmpty ∨ x.poison.isSome then s
          else
            let s := if mine ≠ x.digest ∧ (awaited s p).isNone then endReaders p x mine s else s
            if digest ≠ x.digest ∨ (mine ≠ x.digest ∧ hash ≠ x.digest) then divergent p x.digest digest mine hash s
            else if mine ≠ x.digest then awaitPage p (some mine) s
            else notAwaiting p s
        | _ => if x.held || x.isPlain then pageUnreadable p (answer none [] c.2) else answer none [] c.2)
      | _, _ => ackPeer h stMiss 0 s) s

/-! ## Code groups (R402, R405) -/

/-- The coefficient of a data slot in Q (R402). -/
def slotCoeff (i : Nat) : Byte := gfAlpha i

/-- XOR of byte strings. -/
def xorBytes (a b : List Byte) : List Byte :=
  (List.range (max a.length b.length)).map (fun i => a.getD i 0 ^^^ b.getD i 0)

/-- A byte string times a coefficient. -/
def scaleBytes (k : Byte) (a : List Byte) : List Byte := a.map (gfMul k)

/-- The fragment of a data slot from those of other slots; none where fewer than eight of the ten are at hand. -/
def rebuildFragment (slot : Nat) (fs : List (Nat × List Byte)) : Option (List Byte) :=
  match fs.find? (fun f => f.1 = slot) with
  | some f => some f.2
  | none =>
    let data := fs.filter (fun f => decide (f.1 < 8))
    let missing := (List.range 8).filter (fun i => decide (i ≠ slot) && !(data.any (fun f => decide (f.1 = i))))
    let part (coeff : Nat → Byte) (parity : List Byte) : List Byte :=
      data.foldl (fun acc f => xorBytes acc (scaleBytes (coeff f.1) f.2)) parity
    match (fs.find? (fun f => f.1 = 8)).map Prod.snd, (fs.find? (fun f => f.1 = 9)).map Prod.snd, missing with
    | some p, _, [] => some (part (fun _ => 1) p)
    | none, some q, [] => some (scaleBytes (gfInv (slotCoeff slot)) (part slotCoeff q))
    | some p, some q, [b] =>
      let p' := part (fun _ => 1) p
      let q' := part slotCoeff q
      some (scaleBytes (gfInv (slotCoeff slot ^^^ slotCoeff b)) (xorBytes q' (scaleBytes (slotCoeff b) p')))
    | _, _, _ => none

/-! ## SPAN.COVERAGE (R264) -/

/-- The pages of a layer and head that hold the first tokens of a span, each with the tokens that count. -/
def coveragePages (r : SpanRec) (layer head limit : Nat) : List (Nat × Page × Nat) :=
  (List.range (ceilDiv limit r.geo.cap)).filterMap (fun i =>
    (r.pages.at? (layer, head, i)).map (fun x => (i, x, min r.geo.cap (limit - i * r.geo.cap))))

/-- The coverage term of a page as the span record names it. -/
def recordTerm (s : State) (r : SpanRec) (layer head : Nat) (p : Nat × Page × Nat) : Nat :=
  let h := pageHeader r.geo (p.2.1.sharedOf.getD r.handle) r.span layer head p.1 (r.shared || p.2.1.sharedOf.isSome) (pageGen s p.2.1) 0
  coverageTerm p.2.1.isSealed { h with digest := p.2.1.digest } p.2.2

/-- Whether the page map marks a page as lost. -/
def isLost (s : State) (p : PageRef) : Bool := decide ((pageAt s p).map Page.loc = some .lost)

/-- SPAN_COVERAGE (R264, R452): from the span record as it was at the command's admission. The map epoch is checked after the fields. -/
def execSpanCoverage (c : Cmd) (t : Target) (s : State) : Res :=
  runVerb c (withParams c 32 (targetFails t ⟨true, true, false, true, false⟩
      ++ [(decide (t.scope ≠ 1), 87), (decide (t.spanCount ≠ 1), 72)]) (fun s =>
    if (membersOf s c).isNone then .refuse stStaleMap (bumpV .staleMapAnswers (vnodeOf s c) s)
    else
    let r := findSpan (vnodeOf s c) t.handle t.spanFirst.toNat s
    let s := r.2
    match r.1 with
    | .transient => holdForBank (.spanCoverage c t) c t.handle s
    | .stop rep => .now rep s
    | .found f _ => match viewOf s c f with
      | none => .refuse stMiss s
      | some r =>
        let l := t.layer.toNat
        let h := t.head.toNat
        let n := t.tokenLimit.toNat
        if r.geo.layers ≤ l then .now (Reply.bad 75) s
        else if r.geo.heads ≤ h then .now (Reply.bad 74) s
        else if r.fill l h < n then .refuse stDenied s
        else
          let ps := coveragePages r l h n
          if ps.any (fun p => p.2.1.isSealed && decide (p.2.2 < min r.geo.cap (r.fill l h - p.1 * r.geo.cap))) then .now (Reply.bad 80) s
          else if ps.any (fun p => decide (p.2.1.loc = .lost) || isLost s ⟨f, l, h, p.1⟩) then .refuse stLost s
          else
            let sum := (ps.foldl (fun a p => a + recordTerm s r l h p) 0) % 2 ^ 256
            .now (Reply.ofResult 1 (leBytes 32 sum ++ words64 [word [(32, ps.length)], n % 2 ^ 48, 0, 0])) s)) s

/-! ## SPAN.RESET (R416) -/

/-- Reset a span record: every page is released, and the record begins anew with fill points of 0, mirrored (R416, R395), and with the geometry of
the home's sequence record, which every span record has from its creation and one that was lost takes again. -/
def resetSpan (f : FrameId) (s : State) : State :=
  match spanAt s f with
  | none => s
  | some r =>
    let s := { s with sealQueue := s.sealQueue.filter (fun i => decide (i.page.record ≠ f)) }
    let s := { s with hbm := { s.hbm with awaiting := s.hbm.awaiting.filter (fun a => decide (a.1.record ≠ f)) } }
    let s := releasePages f s
    let s := updSpan f (fun r => { r with geo := if r.lostSpan then homeGeometry s r.vnode r.handle else r.geo, fills := [], acked := [], rounds := [],
                                          reported := false, lostSpan := false, maskLost := false }) s
    let s := updVn r.vnode (fun n => { n with lost := n.lost.filter (fun e =>
      !(decide (e.handle = r.handle) && decide (e.span = r.span) && (decide (e.kind = .pages) || decide (e.kind = .span)))) }) s
    mirrorSpan f (toTwin r.vnode r.handle r.span (.mirrorRelease none) s)

/-- SPAN_RESET (R416): denied on a span of a handoff and on a shared record. -/
def spanResetRow (c : Cmd) (t : Target) (s : State) : Res :=
  runVerb c (withParams c 32 ((decide (t.spanCount ≠ 1), 72) :: targetFails t ⟨true, false, false, false, false⟩) (fun s =>
    let v := vnodeOf s c
    let n := t.spanFirst.toNat
    if (handoffOf s v t.handle n).isSome then .refuse stDenied s
    else
      let r := search v t.handle n 0 s
      let s := r.2
      match r.1 with
      | .transient => holdForBank (.spanReset c t) c t.handle s
      | .miss => .refuse stMiss s
      | .hit _ _ e =>
        if e.form = 3 then .now (Reply.moved e.node) (bumpV .movedAnswers (vnodeOf s c) s)
        else if e.form = 2 then .refuse stDenied s
        else match spanAt s e.record with
          | none => .refuse stMiss s
          | some r => if r.closing then .refuse stMiss s else .now (Reply.st stOk) (resetSpan e.record s))) s

end Sys2Proof.Machine
end

