-- ==== Sys2Proof/Machine/Scrub.lean ====
section
/-! DEFINITION. Patrol scrub, its passes, and the end of a frame's drain with soft repair (R64, R278, R297, R300–R302). -/

namespace Sys2Proof.Machine

/-! ## The end of a drain (R64, R297) -/

/-- The bank of a page-local row of a frame: its pseudo-channel, and quad and bank group. -/
def bankOf (f : FrameId) (row : Nat) : Nat × Nat := (framePc f, frameIx f % 16 * 4 + row % 4)

/-- Apply soft repairs for failing rows of a frame: none where some bank's repair is used already. -/
def softRepair (f : FrameId) : List Nat → List (Nat × Nat) → Option (List (Nat × Nat))
  | [], used => some used
  | r :: rest, used => if bankOf f r ∈ used then none else softRepair f rest (used ++ [bankOf f r])

/-- Repair the failing rows of a frame that no one reads any more (R297): soft repair of each and the 36 steps of RN_FILL, or, where a bank's soft
repair is used already, the withheld-frame list. False where the frame is withheld. -/
def repairFrame (f : FrameId) (s : State) : Bool × State :=
  let x := frameOf s f
  match softRepair f x.ue s.hbm.sppr with
  | none => (false, updFrame f (fun x => { x with state := .open_, use := .withheld, refs := 1, readers := [] })
      { s with withheld := s.withheld ++ [f] })
  | some used =>
    (true, if x.ue.isEmpty then s
      else bumpAt .runnerSteps (frameStack f) 36 <| clearErrs (frameBase f) frameBytes { s with hbm := { s.hbm with sppr := used }, mem := s.mem.clearFrame (frameBase f) })

/-- Bring a drained frame to FREE, QUARANTINED or the withheld-frame list; with one more FREE frame, packing or demotion may have reached its
stop (R305, R307). -/
def endDrain (f : FrameId) (s : State) : State :=
  let x := frameOf s f
  let r := repairFrame f s
  if !r.1 then r.2
  else if x.gen = 0xFFFFFFFF then
    bump .genWraps (updFrame f (fun x => { x with state := .quarantined, use := .none, readers := [], ue := [] }) r.2)
  else stopTiers x.vnode (updFrame f (fun x => { x with state := .free, use := .none, readers := [], ue := [] }) r.2)

/-- Whether the repair of a frame waits: it has a failing row, and its stack is at throttle level 3, where no RN_FILL runs (R167). -/
def repairWaits (s : State) (f : FrameId) : Bool := !(frameOf s f).ue.isEmpty && !(pcFills s (framePc f))

/-- FRAME_DRAIN_END (R64, R297): every request admitted before the release has ended, and its repair can run. -/
def execFrameDrainEnd (frame : BitVec 24) (s : State) : Res :=
  onNode (fun s =>
    let x := frameOf s frame.toNat
    if x.state = .draining ∧ requestsEnded s x.readers ∧ !(repairWaits s frame.toNat) then endDrain frame.toNat s else s) s

/-! ## Passes (R300–R302) -/

/-- The scrub of a stack. -/
def passAt (s : State) (n : Nat) : ScrubPass := s.hbm.passes.atD n ScrubPass.reset

/-- Change the scrub of a stack. -/
def updPass (n : Nat) (f : ScrubPass → ScrubPass) (s : State) : State :=
  { s with hbm := { s.hbm with passes := s.hbm.passes.upd n ScrubPass.reset f } }

/-- Bank rows of a pseudo-channel. -/
def rowsPerPc : Nat := 64 * 32768

/-- The address of a pseudo-channel's `i`-th bank row in the order of R300: quad, bank group, row. -/
def patrolAddr (stack pc i : Nat) : Nat :=
  let q := i / 131072
  rowAddr stack pc (q / 4) (i / 32768 % 4) (q % 4) (i % 32768)

/-- Begin a pass on a stack. -/
def startPass (n : Nat) (s : State) : State := updPass n (fun _ => ScrubPass.reset) s

/-- PATROL_SCRUB_STEP (R300, R301): the next bank row of a pseudo-channel; none is activated at throttle level 3 (R169). -/
def execPatrolScrubStep (stack : BitVec 3) (pc : BitVec 5) (u : Upsets) (s : State) : Res :=
  onNode (fun s =>
    let st := stack.toNat
    let s := applyUpsets u s
    let x := passAt s st
    let i := x.next.atD pc.toNat 0
    if !x.running ∨ rowsPerPc ≤ i ∨ (stackAt s st).throttle = 3 then s
    else
      let a := patrolAddr st pc.toNat i
      let ce := (correctedIn s a 1024).length
      let ue := (badIn s a 1024).length
      let s := updPass st (fun x => { x with ce := x.ce + ce, ue := x.ue + ue, next := x.next.put pc.toNat (i + 1) }) s
      (scrubRange a 1024 (bumpAt .runnerSteps st 1 s)).2) s

/-- End the SCRUB.PASS commands of a list of jobs that no longer wait for any stack. -/
def endScrubJobs (n : Nat) (js : List (Nat × Job)) (s : State) : State :=
  match js with
  | [] => s
  | (id, .scrubPass c left) :: r =>
    let left := left.filter (fun x => x ≠ n)
    endScrubJobs n r (if left.isEmpty then complete c (Reply.st stOk) (endJob id s) else setJob id (.scrubPass c left) s)
  | _ :: r => endScrubJobs n r s

/-- Whether the pass of a stack has reached every bank row (R300). -/
def passComplete (x : ScrubPass) : Bool := (List.range 32).all (fun pc => decide (rowsPerPc ≤ x.next.atD pc 0))

/-- SCRUB_PASS_DONE (R301): the pass of a stack has read every codeword; one that was late is followed by the next at once. -/
def execScrubPassDone (stack : BitVec 3) (s : State) : Res :=
  onNode (fun s =>
    let n := stack.toNat
    let x := passAt s n
    if !x.running ∨ !(passComplete x) then s
    else
      let s := logFrom 0 0x0705 (srcStack n) [(8, n), (64, x.ce), (64, x.ue)] s
      let s := updPass n (fun x => { x with running := false }) s
      let s := endScrubJobs n s.jobs s
      if x.late then startVerify (startPass n s) else s) s

/-- SCRUB_INTERVAL_END (R301, R278): passes under way are late; the other stacks begin the next one. -/
def execScrubIntervalEnd (s : State) : Res :=
  onNode (fun s =>
    let s := (List.range 8).foldl (fun s n =>
      if (passAt s n).running then logFrom 0 0x0706 (srcStack n) [] (updPass n (fun x => { x with late := true }) s)
      else startPass n s) s
    let s := dropLeft s
    if s.hbm.verifyLeft.isEmpty then startVerify s
    else logFrom 0 0x0602 srcCore [] { s with hbm := { s.hbm with verifyLate := true } }) s

/-- SCRUB_PASS (R302). -/
def execScrubPass (c : Cmd) (s : State) : Res :=
  runVerb c (withParams c 0 [] (fun s =>
    let under := (List.range 8).filter (fun n => (passAt s n).running)
    if under.isEmpty then
      let s := startVerify ((List.range 8).foldl (fun s n => startPass n s) s)
      .later (addJob (.scrubPass c (List.range 8)) s).2
    else .later (addJob (.scrubPass c under) s).2)) s

end Sys2Proof.Machine
end

