-- ==== Sys2Proof/Machine/Tier.lean ====
section
/-! DEFINITION. The tiers: packing, demotion, promotion, the TIER commands and the flash translation layer (R288, R289, R303–R319,
R451, R464). -/

namespace Sys2Proof.Machine

/-! ## Changing a page's form (R289) -/

/-- Whether a page's content is what its record says (R62, R277). -/
def contentOk (x : Page) (bs : List Byte) : Bool := decide (pageDigest bs = x.digest) && decide (contentHash x bs = x.digest)

/-- Put a sealed page's content in a FREE frame (R309) and switch its records to it. -/
def placePlain (p : PageRef) (x : Page) (v : VId) (bs : List Byte) (s : State) : Option State :=
  if freeForUse s v = 0 then none
  else (allocAny v .open_ .data s).map (fun r =>
    let f := r.1
    let g := genOf r.2 f
    let s := hbmWrite (frameBase f) (padTo frameBytes bs) r.2
    let s := writeHeader f { readHeader (bs.drop annexAt) with state := 3, gen := g.toNat } s
    let s := setFrameState f .sealed s
    let s := switchAll x.loc (.frame f g) s
    updShared p (fun x => { x with lastRead := s.pw.uptime }) s)

/-- Whether some eligible page that satisfies `p` was read earlier than another (R304). -/
def olderThan (s : State) (v : VId) (t : Nat) (p : PageRef → Page → Bool) : Bool :=
  (nodePages s v).any (fun q => decide (lastReadOf s q.1 < t) && eligible s q.1 q.2 false && p q.1 q.2)

/-! ## Packing (R305, R306) -/

/-- The longest image that is packed. -/
def packLimit : Nat := 30720

/-- The image of a page that may be packed. -/
def packImage (s : State) (p : PageRef) (x : Page) : Option (List Byte) :=
  match spanAt s p.record, x.loc with
  | some r, .frame f _ =>
    if (frameOf s f).state ≠ .sealed then none
    else
      let im := buildImage r.geo.fmt (currentTable s r.geo.fmt) (readFrame s f)
      if im.length ≤ packLimit then some im else none
  | _, _ => none

/-- PACK_PAGE (R305): the least recently read page that can be packed. -/
def execPackPage (p : PageRef) (s : State) : Res :=
  onNode (whenFills fun s =>
    match pageAt s p, spanAt s p.record with
    | some x, some r =>
      let v := r.vnode
      if !(packs s v) then stopTiers v s
      else
        let s := { s with tier := { s.tier with packOn := (v :: s.tier.packOn).eraseDups } }
        if !(eligible s p x false) ∨ olderThan s v (lastReadOf s p) (fun q y => (packImage s q y).isSome) then s
        else match packImage s p x with
          | none => s
          | some im =>
            let c := readStored x (drainCodec 3 (queueCoding 3 p r.geo.fmt s))
            match (if c.1 then storePack v (pageGen s x) im c.2 else none) with
            | none => c.2
            | some (n, s) => match pageContent s r.geo.fmt (.packed n) with
              | .bytes bs => if contentOk x bs then bump .pagesPacked (switchAll x.loc (.packed n) s) else removeImage n s
              | _ => removeImage n s
    | _, _ => s) s

/-- Move a packed image out of a frame into other pack frames; one that finds no room, or that does not read (R295), stays. -/
def movePack (f : FrameId) (n : Nat) (s : State) : State :=
  match s.tier.images.at? n with
  | none => s
  | some i =>
    let c := readExtents i.extents s
    if !c.1.isEmpty then handleAll c.1 c.2
    else
      let bs := imageBytes c.2 n
      match roomForPack i.vnode (ceilDiv bs.length 64) (some f) c.2 with
      | none => c.2
      | some (es, s) =>
        let s := writeExtents es bs s
        let s := { s with tier := { s.tier with images := s.tier.images.put n { i with home := .pack es } } }
        (i.frames.filter (fun g => g ≠ f)).foldl (fun s g => if packUse s g = 0 then releaseFrame g s else s) s

/-- Move the packed images of a frame into other pack frames. -/
def movePacked (f : FrameId) (s : State) : State :=
  (s.tier.images.filter (fun i => decide (f ∈ i.2.frames))).foldl (fun s i => movePack f i.1 s) s

/-- PACK_COMPACT (R306): a pack frame with less than half of its granules live is emptied and released. -/
def execPackCompact (frame : BitVec 24) (s : State) : Res :=
  onNode (whenFills fun s =>
    let f := frame.toNat
    if (frameOf s f).use = .pack ∧ (frameOf s f).state = .open_ ∧ 2 * packUse s f < granules then
      let s := movePacked f s
      if packUse s f = 0 then releaseFrame f s else s
    else s) s

/-! ## Demotion (R307, R308) -/

/-- The image that a demotion writes: the existing one of a PACKED page, or a new one. -/
def demotionImage (s : State) (p : PageRef) (x : Page) : Option (List Byte) :=
  match x.loc with
  | .packed n => some (imageBytes s n)
  | .frame f _ => (spanAt s p.record).map (fun r => buildImage r.geo.fmt (currentTable s r.geo.fmt) (readFrame s f))
  | _ => none

/-- A stored image whose table's slot is being retired joins the re-coding queue (R329), as where a PACKED page is demoted unchanged. -/
def recodeIfRetiring (n : Nat) (s : State) : State :=
  match (s.tier.images.at? n).bind Image.table with
  | none => s
  | some (g, slot) =>
    let x := s.tier.slots.atD slot CodecSlot.free
    if x.state = 2 ∧ x.gen = g ∧ !x.forced then { s with tier := { s.tier with recode := (s.tier.recode ++ [n]).eraseDups } } else s

/-- Begin the program of a demotion; none where the tier is full (R308, R317). The page or image is read first: what does not read is handled under
R296, and no demotion begins (R295). A PLAIN page's blocks are queued for their coding (R328). -/
def programDemotion (p : PageRef) (attempt : Nat) (s : State) : Option State :=
  match pageAt s p, spanAt s p.record with
  | some x, some r => match demotionImage s p x with
    | none => none
    | some im =>
      if tierFull s r.vnode then none
      else
        let c := readStored x s
        let s := c.2
        if !c.1 then some s
        else (storeFlash r.vnode (pageGen s x) im s).map (fun q =>
          let s := if x.isPlain then queueCoding 3 p r.geo.fmt q.2 else q.2
          recodeIfRetiring q.1 { s with tier := { s.tier with demotions := s.tier.demotions ++ [⟨p, q.1, im, attempt, false⟩] } })
  | _, _ => none

/-- Count an operation that the brake state holds back (R588). -/
def noteHeld (s : State) : State := bump .flashOpsHeld { s with pw := { s.pw with brakeHeld := s.pw.brakeHeld + 1 } }

/-- Hold a demotion until the brake state ends (R308, R588). -/
def holdDemotion (p : PageRef) (attempt : Nat) (s : State) : State :=
  noteHeld { s with tier := { s.tier with demotions := s.tier.demotions ++ [⟨p, 0, [], attempt, true⟩] } }

/-- DEMOTE_PAGE (R304, R307, R308): the least recently read eligible page. -/
def execDemotePage (p : PageRef) (s : State) : Res :=
  onNode (fun s =>
    match pageAt s p, spanAt s p.record with
    | some x, some r =>
      let v := r.vnode
      if !(demotes s v) then stopTiers v s
      else
        let s := { s with tier := { s.tier with demoteOn := (v :: s.tier.demoteOn).eraseDups } }
        if !(tierPresent s v) ∨ tierFull s v ∨ s.pw.brake ∨ !(eligible s p x false) ∨ !x.inHbm
            ∨ olderThan s v (lastReadOf s p) (fun _ y => y.inHbm) then s
        else (programDemotion p 1 s).getD s
    | _, _ => s) s

/-- Cancel the demotion of a page whose entry is not yet switched, through whichever record it was begun (R313). -/
def cancelDemotion (p : PageRef) (s : State) : State :=
  match s.tier.demotions.find? (fun d => samePage s d.page p) with
  | some d => removeImage d.image (endDemotion d.page s)
  | none => s

/-! ## Promotion (R309–R312) -/

/-- Give the requests that waited for an image what they read of its page. -/
def feedRequests (ids : List Nat) (n : Nat) (f : AttnReq → ReqPage → ReqPage) (s : State) : State :=
  ids.foldl (fun s id => match s.attn.reqs.at? id with
    | some q =>
      let ps := q.pages.map (fun x => if x.image = some n ∧ x.missing then f q { x with missing := false } else x)
      putReq id { q with pages := ps } s
    | none => s) s

/-- End the requests that waited for a page with a status; those that a poisoning has ended are gone. -/
def failWaiting (ids : List Nat) (st : Status) (s : State) : State :=
  ids.foldl (fun s id =>
    let e := takeEstimate s
    failReq id st (if st = stRetryAfter then max 1 e.1 else 0) e.2) s

/-- How the expansion of a PACKED page into a frame ends: done; no frame is FREE, or its stack does not fill; or the image does not read, with the
status of the command that asked for it where it ends at once. -/
inductive Expansion where
  | done (s : State)
  | waits
  | fails (st : Option Status) (s : State)

/-- Expand a PACKED page into a FREE frame (R312, R313). -/
def expandPacked (p : PageRef) (x : Page) (r : SpanRec) (s : State) : Expansion :=
  let c := readCopy 2 r.geo.fmt x s
  match c.1 with
  | .stale => .fails (some stCodecTableStale) (pageUnreadable p c.2)
  | .fails => .fails none (pageUnreadable p c.2)
  | .reads bs =>
    if !(contentOk x bs) then .fails none (digestMismatch p (contentHash x bs) c.2)
    else match placePlain p x r.vnode bs c.2 with
      | some t => if fillWaits s t then .waits else .done t
      | none => .waits

/-! ## The TIER commands (R313) -/

/-- One page of a TIER command that demotes: whether it is done, its status, and the state. -/
def stepDown (p : PageRef) (s : State) : Bool × Status × State :=
  match pageAt s p, spanAt s p.record with
  | some x, some r =>
    if formChanging s p then (false, stOk, s)
    else match x.loc with
      | .frame .. | .packed _ =>
        if x.poison.isSome then (true, stOk, s)
        else if pinnedAny s p then (true, stDenied, s)
        else if !(tierPresent s r.vnode) ∨ tierFull s r.vnode then (true, stNoSpace, s)
        else if s.pw.brake then (false, stOk, holdDemotion p 1 s)
        else match programDemotion p 1 s with
          | some s => (false, stOk, s)
          | none => (true, stNoSpace, s)
      | _ => (true, stOk, s)
  | _, _ => (true, stOk, s)

/-- One page of a TIER command that promotes. -/
def stepUp (p : PageRef) (s : State) : Bool × Status × State :=
  match pageAt s p, spanAt s p.record with
  | some x, some r =>
    match x.poison with
    | some c => (true, c.status, s)
    | none =>
      if (awaited s p).isSome then (false, stOk, s)
      else if formChanging s p then (false, stOk, s)
      else
        let room := !(decide (freeForUse s r.vnode = 0))
        match x.loc with
        | .packed _ =>
          if !room then (if canDemote s r.vnode || demoting s r.vnode then (false, stOk, s) else (true, stNoSpace, s))
          else (match expandPacked p x r s with
            | .done t => (true, stOk, t)
            | .waits => (false, stOk, s)
            | .fails (some st) t => (true, st, t)
            | .fails none t => (false, stOk, t))
        | .flash n =>
          if !room && !(canDemote s r.vnode) && !(demoting s r.vnode) then (true, stNoSpace, s)
          else (false, stOk, enterPromotion p n r.geo.fmt x.digest [] false s)
        | .lost => (true, stLost, s)
        | _ => (true, stOk, s)
  | _, _ => (true, stOk, s)

/-- Carry a list of pages of a TIER command on: those left, the first status that is not ST_OK, and the state. -/
def stepTier (down : Bool) : List PageRef → Status → State → List PageRef × Status × State
  | [], st, s => ([], st, s)
  | p :: r, st, s =>
    let q := if down then stepDown p s else stepUp p s
    let st := if st = stOk then q.2.1 else st
    let t := stepTier down r st q.2.2
    (if q.1 then t.1 else p :: t.1, t.2)

/-- Carry one TIER command on: it completes when no page is left. -/
def advanceTier (id : Nat) (c : Cmd) (down : Bool) (left : List PageRef) (st : Status) (s : State) : State :=
  let r := stepTier down left st s
  if r.1.isEmpty then complete c (Reply.st r.2.1) (endJob id r.2.2) else setJob id (.tier c down r.1 r.2.1) r.2.2

/-- Carry every TIER command on. -/
def advanceTiers (js : List (Nat × Job)) (s : State) : State :=
  match js with
  | [] => s
  | (id, .tier c down left st) :: r => advanceTiers r (if s.jobs.has id then advanceTier id c down left st s else s)
  | _ :: r => advanceTiers r s

/-- What every end of a change of form is followed by. -/
def afterForm (s : State) : State := advanceTiers s.jobs s

/-- How a read-back image compares with its page (R307, R330). -/
inductive ReadBack where
  | good
  | stale
  | wrong
deriving DecidableEq, Repr

/-- Expand a read-back image and hash it. -/
def judgeReadBack (s : State) (fmt : Nat) (x : Page) (im : List Byte) : ReadBack :=
  match tableFor s im with
  | none => .stale
  | some t => match expandImage fmt t im with
    | some bs => if contentOk x bs then .good else .wrong
    | none => .wrong

/-- A demotion whose read-back is wrong (R307): one further attempt at another flash location, and then the demotion is abandoned. A page whose own
content is wrong too is resolved (R280). DESIGN CHOICE (entry 104): where no other location is free the first mismatch abandons it. -/
def retryDemotion (d : Demotion) (x : Page) (r : SpanRec) (s : State) : State :=
  let p := d.page
  let c := readCopy 3 r.geo.fmt x (removeImage d.image s)
  let s := c.2
  match c.1 with
  | .stale => afterForm (pageUnreadable p (dropFromTiers true stCodecTableStale p s))
  | .fails => afterForm (pageUnreadable p s)
  | .reads bs =>
    if !(contentOk x bs) then afterForm (digestMismatch p (contentHash x bs) s)
    else
      let retry := if d.attempt ≠ 1 then none else if s.pw.brake then some (holdDemotion p 2 s) else programDemotion p 2 s
      match retry with
      | some s => s
      | none => afterForm (dropFromTiers true stUncorrectable p (logFrom r.vnode 0x0707 srcFlash [] (bump .flashVerifyFails s)))

/-- DEMOTE_COMPLETE (R307, R331): once the codec has served the page's blocks, the read-back is expanded and hashed. DESIGN CHOICE (entry 85): a
TIER.DEMOTE whose demotion is abandoned ends with ST_UNCORRECTABLE. -/
def execDemoteComplete (p : PageRef) (readBack : List Byte) (s : State) : Res :=
  onNode (fun s =>
    let s := drainCodec 3 s
    match s.tier.demotions.find? (fun d => decide (d.page = p)), pageAt s p, spanAt s p.record with
    | some d, some x, some r =>
      if d.held then s
      else
        let s := countFlashRead d.image (endDemotion p s)
        match judgeReadBack s r.geo.fmt x readBack with
        | .good =>
          let s := { s with tier := { s.tier with images := s.tier.images.map (fun i => if i.1 = d.image then (i.1, { i.2 with bytes := readBack }) else i) } }
          afterForm (bump .pagesDemoted (switchAll x.loc (.flash d.image) s))
        | .stale =>
          let s := removeImage d.image (bumpBy .codecStale (codedBlocks readBack) s)
          afterForm (pageUnreadable p (dropFromTiers true stCodecTableStale p s))
        | .wrong => retryDemotion d x r s
    | _, _, _ => afterForm s) s

/-- Whether a promotion's page still lies in the image that it reads. -/
def Promotion.here (m : Promotion) (s : State) : Bool := decide ((pageAt s m.page).map Page.loc = some (.flash m.image))

/-- A promotion whose image is at hand (R309, R311): the engine that dispatch assigned serves the page (R183). -/
def promoteContent (m : Promotion) (bs : List Byte) (s : State) : State :=
  let p := m.page
  let serve (s : State) : State :=
    afterForm (feedRequests m.waiting m.image (fun _ y => { y with content := some bs, unit := .engine }) (endPromotion m.image s))
  match pageAt s p, spanAt s p.record with
  | some x, some r =>
    if m.bypass || !(m.here s) then serve s
    else match placePlain p x r.vnode bs s with
      | some s =>
        let loc := ((pageAt s p).map Page.loc).getD .lost
        let s := match loc with
          | .frame f g => feedRequests m.waiting m.image (fun _ y => { y with frame := some f, gen := g }) (endPromotion m.image s)
          | _ => endPromotion m.image s
        afterForm (bump .pagesPromoted s)
      | none =>
        if canDemote s r.vnode ∨ demoting s r.vnode then s
        else serve (bumpBy .promoteBypass m.waiting.length s)
  | _, _ => serve s

/-- The content that a promotion's image expands to, under the table that its blocks were served with. -/
def Promotion.content (m : Promotion) (read : Option (List Byte)) : Option (List Byte) := read.bind (expandImage m.fmt m.table)

/-- A promotion whose image does not read, or hashes wrongly (R312): the requests that wait end with ST_RETRY_AFTER, and the page, where it still lies
in the image, is handled as a copy that has failed (R280, R296). -/
def failPromotion (m : Promotion) (bs : Option (List Byte)) (s : State) : State :=
  let s := endPromotion m.image s
  let s := if !(m.here s) then s
    else match bs, pageAt s m.page with
      | some bs, some x => digestMismatch m.page (contentHash x bs) s
      | _, _ => pageUnreadable m.page s
  afterForm (failWaiting m.waiting stRetryAfter s)

/-- PROMOTE_COMPLETE (R309–R312): the image as read, whose blocks the codec has served. -/
def execPromoteComplete (p : PageRef) (read : Option (List Byte)) (s : State) : Res :=
  onNode (whenFills fun s =>
    let s := drainCodec 2 s
    match s.tier.promotions.find? (fun d => decide (d.page = p)) with
    | none => afterForm s
    | some m =>
      let s := countFlashRead m.image s
      match m.content read with
      | none => failPromotion m none s
      | some bs =>
        if pageDigest bs = m.digest ∧ (readHeader (bs.drop annexAt)).digest = m.digest then promoteContent m bs s
        else failPromotion m (some bs) s) s

/-- The records of the spans that a target block names, in order, or the first failure. -/
def targetRecords (v : VId) (t : Target) (s : State) : (List FrameId ⊕ SpanHit) × State :=
  let r := findSpans none v t.handle (targetSpans t) s
  (match r.1 with
    | .inl fs => .inl (fs.map Prod.snd)
    | .inr e => .inr e, r.2)

/-- The pages that a target block names in records (R451). -/
def namedPages (s : State) (t : Target) (fs : List FrameId) : List (PageRef × Page) :=
  fs.flatMap (fun f => match spanAt s f with
    | none => []
    | some r => (pagesOf (f, r)).filter (fun q => decide (t.scope ≠ 1)
        || (decide (q.1.layer = t.layer.toNat) && decide (q.1.head = t.head.toNat)
          && (decide (t.pageCount = 0) || (decide (t.pageFirst.toNat ≤ q.1.page)
            && decide (q.1.page < t.pageFirst.toNat + t.pageCount.toNat))))))

/-- LAYER or KV_HEAD out of the range of a record, under SCOPE 1. -/
def targetGeo (s : State) (t : Target) (fs : List FrameId) : Option Nat :=
  if t.scope ≠ 1 then none
  else fs.findSome? (fun f => match spanAt s f with
    | some r => if r.geo.heads ≤ t.head.toNat then some 74 else if r.geo.layers ≤ t.layer.toNat then some 75 else none
    | none => none)

/-- Run a TIER command on the pages that it names. -/
def onPages (c : Cmd) (t : Target) (i : Instr) (f : List (PageRef × Page) → State → Done) (s : State) : Done :=
  let r := targetRecords (vnodeOf s c) t s
  let s := r.2
  match r.1 with
  | .inr (.stop rep) => .now rep s
  | .inr _ => holdForBank i c t.handle s
  | .inl fs => match targetGeo s t fs with
    | some o => .now (Reply.bad o) s
    | none => f (namedPages s t fs) s

/-- Start a TIER command that completes when its pages have changed form. -/
def startTier (c : Cmd) (down : Bool) (ps : List PageRef) (s : State) : Done :=
  let r := stepTier down ps stOk s
  if r.1.isEmpty then .now (Reply.st r.2.1) r.2.2 else .later (addJob (.tier c down r.1 r.2.1) r.2.2).2

/-- The use of the target block by the TIER commands. -/
def tierUse (nodeScope : Bool) : TargetUse := ⟨true, true, nodeScope, false, true⟩

/-- TIER_PROMOTE (R313). -/
def execTierPromote (c : Cmd) (t : Target) (s : State) : Res :=
  runVerb c (withParams c 32 (targetFails t (tierUse false))
    (onPages c t (.tierPromote c t) (fun ps s => startTier c false (ps.map Prod.fst) s))) s

/-- TIER_DEMOTE (R313). -/
def execTierDemote (c : Cmd) (t : Target) (s : State) : Res :=
  runVerb c (withParams c 32 (targetFails t (tierUse false)) (onPages c t (.tierDemote c t) (fun ps s =>
    let v := vnodeOf s c
    let ps := ps.filter (fun p => p.2.isSealed)
    if ps.any (fun p => pinnedAny s p.1) then .refuse stDenied s
    else if !(tierPresent s v) ∨ tierFull s v then .refuse stNoSpace s
    else startTier c true (ps.map Prod.fst) s))) s

/-- How many pages references name: a page that records share counts once. -/
def countPages (s : State) (ps : List PageRef) : Nat :=
  ((ps.map (fun p => (placeOfPage s p, if (placeOfPage s p).isSome then none else some p))).eraseDups).length

/-- TIER_PIN (R313). -/
def execTierPin (c : Cmd) (t : Target) (s : State) : Res :=
  runVerb c (withParams c 32 (targetFails t (tierUse false)) (onPages c t (.tierPin c t) (fun ps s =>
    let v := vnodeOf s c
    let held := countPages s (((nodePages s v).filter (fun p => p.2.pinned)).map Prod.fst)
    let new := countPages s ((ps.filter (fun p => !(pinnedAny s p.1))).map Prod.fst)
    if pctFrames s v (knobsOf s c).pinMaxPct < held + new then .refuse stDenied s
    else
      let s := ps.foldl (fun s p => cancelDemotion p.1 (updShared p.1 (fun x => { x with pinned := true }) s)) s
      startTier c false (ps.map Prod.fst) s))) s

/-- TIER_UNPIN (R313). -/
def execTierUnpin (c : Cmd) (t : Target) (s : State) : Res :=
  runVerb c (withParams c 32 (targetFails t (tierUse false)) (onPages c t (.tierUnpin c t) (fun ps s =>
    .now (Reply.st stOk) (ps.foldl (fun s p => updShared p.1 (fun x => { x with pinned := false }) s) s)))) s

/-- The block of TIER.STATUS (R464). -/
def tierBlock (s : State) (v : VId) (ps : List (PageRef × Page)) : List Byte :=
  let count (f : Page → Bool) : Nat := (ps.filter (fun p => f p.2)).length
  words64 [count Page.isPlain,
    count (fun x => match x.loc with
      | .packed _ => true
      | _ => false),
    count (fun x => match x.loc with
      | .flash _ => true
      | _ => false),
    count (fun x => x.pinned), flashCapacity s v, flashUsed s v, freeCount s v, 0]

/-- TIER_STATUS (R313, R464). -/
def execTierStatus (c : Cmd) (t : Target) (s : State) : Res :=
  runVerb c (withParams c 32 (targetFails t (tierUse true)) (fun s =>
    let v := vnodeOf s c
    if t.scope = 2 then .now (Reply.ofResult 1 (tierBlock s v (nodePages s v))) s
    else onPages c t (.tierStatus c t) (fun ps s => .now (Reply.ofResult 1 (tierBlock s v ps)) s) s)) s

/-! ## The flash translation layer (R314–R319) -/

/-- A block's place as tables key it. -/
def blockKey (b : BlockRef) : Nat × Nat × Nat := (b.channel, b.target, b.block)

/-- Log a target that the hold-up does not cover (R589): its channel, the target and its greatest time. -/
def logHoldup (k : Nat × Nat) (t : FlashTarget) (s : State) : State :=
  logFrom (channelVnode s k.1) 0x0D09 srcFlash [(8, k.1), (8, k.2), (64, t.maxBusyUs)] s

/-- FLASH_PROBE (R314, R589): the parameter page of a target, once firmware runs. -/
def execFlashProbe (channel : BitVec 4) (target : BitVec 3) (p : ParamPage) (s : State) : Res :=
  onNode (fun s =>
    if s.pw.fwState ≠ 2 then s
    else
      let k := (channel.toNat, target.toNat)
      let t : FlashTarget := ⟨p.ok, p.blocks, p.pagesPerBlock, p.maxBusyUs⟩
      let s := { s with tier := { s.tier with targets := s.tier.targets.put k t } }
      if !p.ok then logFrom (channelVnode s channel.toNat) 0x0708 srcFlash [(8, channel.toNat), (8, target.toNat)] s
      else if !(t.holdsUp s.knobs.holdupMs) then logHoldup k t s
      else s) s

/-- Start a flash program or erase, or hold it while the brake state holds (R318, R588). -/
def flashOp (i : Instr) (f : State → State) (s : State) : State :=
  if s.pw.brake then noteHeld (defer .brake i s.knobs s) else f s

/-- FLASH_RELOCATE (R316). -/
def execFlashRelocate (b : BlockRef) (soft old : Bool) (s : State) : Res :=
  onNode (fun s =>
    if soft ∨ old ∨ s.knobs.readDisturbLimit ≤ (blockAt s (blockKey b)).reads then
      flashOp (.flashRelocate b soft old) (fun s => bump .flashRelocations (emptyBlock (blockKey b) s)) s
    else s) s

/-- Sectors of live images in a block. -/
def liveSectors (s : State) (b : Nat × Nat × Nat) : Nat := (imagesIn s b).foldl (fun n i => n + imageSectors i.2.len) 0

/-- The written blocks of a virtual node's targets that are neither bad nor awaiting an erase. -/
def usedBlocks (s : State) (v : VId) : List ((Nat × Nat × Nat) × FlashBlock) :=
  s.tier.blocks.filter (fun b => blockOf? s v b.1 && !b.2.bad && !b.2.stale && decide (0 < b.2.written))

/-- FTL_RECLAIM (R317): below 3 % of free blocks, the block with the fewest live sectors is emptied. -/
def execFtlReclaim (b : BlockRef) (s : State) : Res :=
  onNode (fun s =>
    let k := blockKey b
    let v := channelVnode s b.channel
    let greedy := (usedBlocks s v).all (fun x => decide (liveSectors s k ≤ liveSectors s x.1))
    if freeBlocks s v * 100 < 3 * usableBlocks s v ∧ k ∈ (usedBlocks s v).map Prod.fst ∧ greedy then
      flashOp (.ftlReclaim b) (emptyBlock k) s
    else s) s

/-- The lowest and highest erase counts of a virtual node's blocks; a block never listed has none. -/
def eraseSpread (s : State) (v : VId) : Nat × Nat :=
  let es := (s.tier.blocks.filter (fun b => blockOf? s v b.1)).map (fun b => b.2.erases)
  let hi := es.foldl max 0
  (if es.length < allBlocks s v then 0 else es.foldl min hi, hi)

/-- WEAR_LEVEL (R317): the data of a block with the lowest erase count moves, so that the block is worn as the others are. -/
def execWearLevel (b : BlockRef) (s : State) : Res :=
  onNode (fun s =>
    let k := blockKey b
    let v := channelVnode s b.channel
    let w := eraseSpread s v
    if s.knobs.wearSpread < w.2 - w.1 ∧ k ∈ (usedBlocks s v).map Prod.fst
        ∧ (usedBlocks s v).all (fun x => decide ((blockAt s k).erases ≤ x.2.erases)) then
      flashOp (.wearLevel b) (emptyBlock k) s
    else s) s

/-- Write the image that was being programmed into a block elsewhere (R317), where it still lies there. -/
def rewriteLast (b : Nat × Nat × Nat) (s : State) : State :=
  match (blockAt s b).last with
  | none => s
  | some n => if (imagesIn s b).any (fun i => decide (i.1 = n)) then moveFlash n s else s

/-- Write elsewhere what was being programmed into a block that has failed (R317): images of demotions whose read-back is awaited, and the image last
programmed there. DESIGN CHOICE (entry 105): in the brake state, in which no program starts, both wait. -/
def rewriteStaged (b : BlockRef) (s : State) : State :=
  let k := blockKey b
  let staged := s.tier.demotions.filter (fun d => (imagesIn s k).any (fun i => decide (i.1 = d.image)))
  if s.pw.brake then
    let s := staged.foldl (fun s d => holdDemotion d.page d.attempt (removeImage d.image (endDemotion d.page s))) s
    if (blockAt s k).last.any (fun n => (imagesIn s k).any (fun i => decide (i.1 = n))) then
      noteHeld (defer .brake (.flashProgramFail b) s.knobs s)
    else s
  else rewriteLast k (staged.foldl (fun s d => moveFlash d.image s) s)

/-- FLASH_PROGRAM_FAIL (R317): the block is bad, and the data being programmed is written elsewhere. -/
def execFlashProgramFail (b : BlockRef) (s : State) : Res :=
  onNode (fun s =>
    let k := blockKey b
    if (blockAt s k).bad then s
    else
      let s := bump .flashBadBlocks (updBlock k (fun x => { x with bad := true }) s)
      let s := { s with tier := { s.tier with active := s.tier.active.filter (fun a => a.2 ≠ k) } }
      rewriteStaged b (writeMeta (channelVnode s b.channel) s)) s

/-- FLASH_ERASE_BACKGROUND (R319): a block whose images have left or were discarded is erased. -/
def execFlashEraseBackground (b : BlockRef) (s : State) : Res :=
  onNode (fun s =>
    let k := blockKey b
    let x := blockAt s k
    if x.stale ∧ !x.bad then
      flashOp (.flashEraseBackground b) (fun s =>
        writeMeta (channelVnode s b.channel) (updBlock k (fun x =>
          { x with erases := min (2 ^ 32 - 1) (x.erases + 1), written := 0, reads := 0, stale := false, last := none }) s)) s
    else s) s

/-- Start what the brake state held back (R308, R588). -/
def releaseBrake (s : State) : State :=
  let held := s.tier.demotions.filter (fun d => d.held)
  let s := { s with tier := { s.tier with demotions := s.tier.demotions.filter (fun d => !d.held) } }
  let s := held.foldl (fun s d => (programDemotion d.page d.attempt s).getD s) s
  let ops := s.deferred.filter (fun d => decide (d.why = .brake))
  let s := { s with deferred := s.deferred.filter (fun d => decide (d.why ≠ .brake)) }
  let go (r : Res) (s : State) : State := match r with
    | .next t => t
    | _ => s
  let s := ops.foldl (fun s d => match d.instr with
    | .flashRelocate b soft old => go (execFlashRelocate b soft old s) s
    | .ftlReclaim b => go (execFtlReclaim b s) s
    | .wearLevel b => go (execWearLevel b s) s
    | .flashEraseBackground b => go (execFlashEraseBackground b s) s
    | .flashProgramFail b => rewriteStaged b s
    | _ => s) s
  afterForm s

end Sys2Proof.Machine
end

