-- ==== Sys2Proof/Machine/Power.lean ====
section
/-! DEFINITION. Device reset and power-up, clocks, supply sag, the power cap and thermal limits, and power gating (R555–R565,
R581–R588, R601–R611). -/

namespace Sys2Proof.Machine

/-! ## Device reset (R561–R563) -/

/-- RESET_CAUSE codes (R561). -/
def causePowerOn : Nat := 0
/-- DEV_RESET_N. -/
def causePin : Nat := 1
/-- A rail below its reset threshold. -/
def causeSupply : Nat := 2
/-- A thermal trip. -/
def causeThermal : Nat := 3
/-- The 25 MHz reference was lost. -/
def causeClockLoss : Nat := 4

/-- A flash block as the translation layer finds it after its mappings are gone (R319): what it held awaits a background erase. -/
def FlashBlock.forgotten (b : FlashBlock) : FlashBlock := { b with stale := b.stale || decide (0 < b.written), reads := 0, last := none }

/-- The tiers with every mapping discarded (R319): bad marks and erase counts stay. -/
def Tier.forgotten (t : Tier) : Tier := { Tier.reset with blocks := t.blocks.map (fun b => (b.1, b.2.forgotten)), metas := t.metas }

/-- The newest copy of the metadata area is torn (R319). -/
def Tier.tear (t : Tier) : Tier :=
  let top := t.metas.foldl (fun n m => max n m.2.seq) 0
  { t with metas := t.metas.map (fun m => if m.2.seq = top then (m.1, { m.2 with intact := false }) else m) }

/-- The bad mark and erase count of a block in the newest intact copy that lists it; those of a block never marked or erased where none does. -/
def Tier.markOf (t : Tier) (b : Nat × Nat × Nat) : Bool × Nat :=
  ((t.metas.filterMap (fun m => if m.2.intact then (m.2.blocks.at? b).map (fun x => (m.2.seq, x)) else none)).foldl
    (fun acc x => if acc.1 < x.1 then x else acc) (0, (false, 0))).2

/-- The tiers as the translation layer finds them at power-up (R319): no mapping, and the marks of the newest intact metadata copy. -/
def Tier.restored (t : Tier) : Tier :=
  let f := t.forgotten
  { f with blocks := f.blocks.map (fun b => (b.1, { b.2 with bad := (t.markOf b.1).1, erases := (t.markOf b.1).2 })) }

/-- What the flash devices hold after a device reset of a cause. DESIGN CHOICE (entry 106): where supply was lost, a free value says whether it tore the
metadata copy that was written last. -/
def tierAfter (cause : Nat) (s : State) : Tier :=
  let torn := (decide (cause = causePowerOn) || decide (cause = causeSupply)) && decide (Config.freeNat s.tick % 2 = 1)
  (if torn then s.tier.tear else s.tier).restored

/-- Device reset (R561–R563): the first cause since the last release stays latched, keys are erased and every domain but the always-on
one stops. What outlives it is the latch, the pins and references, and the wear of the flash devices. -/
def deviceReset (cause : Nat) (s : State) : State :=
  { State.reset with
    pending := s.pending
    tick := s.tick + 1
    egress := s.egress
    tier := tierAfter cause s
    pw := { Power.reset with
      cause := if s.pw.causeLatched then s.pw.cause else cause
      causeLatched := true
      perstHigh := s.pw.perstHigh
      pcieClock := s.pw.pcieClock
      refclk156 := s.pw.refclk156
      refclk25 := decide (cause ≠ causeClockLoss)
      thermTrip := s.pw.thermTrip
      tripClears := s.pw.tripClears || decide (cause = causePowerOn) || decide (cause = causePin)
      wpHigh := s.pw.wpHigh } }

/-- POWER_ON (R561): the latch, which VAUX keeps, is lost with it. -/
def execPowerOn (s : State) : Res :=
  .next (deviceReset causePowerOn { s with pw := { s.pw with causeLatched := false, wpHigh := false } })

/-- DEV_RESET_N (R557, R561): a low pulse shorter than 1 µs is ignored. -/
def execDevResetN (lowNs : Nat) (s : State) : Res := .next (if 1000 ≤ lowNs then deviceReset causePin s else s)

/-- SUPPLY_RESET (R561, R587): a monitored rail stayed below its reset threshold for 2 µs. -/
def execSupplyReset (_rail : BitVec 3) (s : State) : Res := .next (deviceReset causeSupply s)

/-- CLOCK_LOSS (R558, R561): 1 µs without an edge of the 25 MHz reference. -/
def execClockLoss (s : State) : Res := .next (deviceReset causeClockLoss s)

/-- Drive WP_N. -/
def driveWp (high : Bool) (s : State) : State :=
  if s.pw.wpHigh = high then s else emit (.pin "FL_WP_N" high) { s with pw := { s.pw with wpHigh := high } }

/-- FLASH_WP_ASSERT (R563): in device reset, every target shows ready or HOLDUP_MS has passed. -/
def execFlashWpAssert (s : State) : Res := .next (if s.pw.fwState = 2 then s else driveWp false s)

/-- A thermal trip (R586): FATAL, the alert and THERMTRIP_N, cause THERMAL, and steps 2 to 5 of R562. The I3C target keeps its
registers. -/
def thermalTrip (s : State) : State :=
  let s := setAlert 0 s
  let t := deviceReset causeThermal s
  let t := { t with
    pw := { t.pw with fatal := true, thermTrip := true, tripClears := false, temps := s.pw.temps }
    mgmt := { t.mgmt with
      dynAddr := s.mgmt.dynAddr
      alert := s.mgmt.alert
      operatorAnchor := s.mgmt.operatorAnchor
      anchorLock := s.mgmt.anchorLock } }
  if s.pw.thermTrip then t else emit (.pin "THERMTRIP_N" false) t

/-! ## Power-up (R540, R565, R601, R603, R611) -/

/-- Extend a measurement register (R542). -/
def extendMeas (i : Nat) (d : List Byte) (s : State) : State :=
  { s with mgmt := { s.mgmt with meas := s.mgmt.meas.set i (sha256 (s.mgmt.meas.getD i (zeros 32) ++ d)) } }

/-- The identity that a PUF response gives (R540): its seed, where the seed is reconstructed and its public key is the device
certificate's. -/
def identitySeed (puf : List Byte) : Option (List Byte) :=
  match Config.pufSeed puf Config.pufHelper with
  | some seed => if Config.slhPublic (identityMaterial seed) = Config.deviceKey then some seed else none
  | none => none

/-- Derive the identity (R540). -/
def deriveIdentity (puf : List Byte) (s : State) : State :=
  match identitySeed puf with
  | some seed => installKey 0 { s with mgmt := { s.mgmt with seed := seed, identityOk := true } }
  | none => setAlert 3 (logFrom 0 0x0C01 srcMgmt [] s)

/-- Generate fresh interim key pairs for frame rows and flash (R144, R315). -/
def interimKeys (s : State) : State :=
  { s with
    tick := s.tick + 2
    mgmt := { s.mgmt with hbmKeys := Config.randomBytes s.tick 64, flashKeys := Config.randomBytes (s.tick + 1) 64 } }

/-- Generate the boot-session key pair of the reserved rows (R144). -/
def bootSessionKeys (s : State) : State :=
  { s with tick := s.tick + 1, mgmt := { s.mgmt with bootKeys := Config.randomBytes s.tick 64 } }

/-- The release of device reset: the pins are sampled, the lanes that the board leaves unused are squelched (R600), a trip that may end ends, and UPTIME_NS starts at 0. -/
def releaseReset (mgmtMode : BitVec 2) (testMode : Bool) (s : State) : State :=
  let t := { s with pw := { s.pw with
    up := !testMode
    uptime := 0
    causeLatched := false
    refclk25 := true
    fatal := false
    thermTrip := false
    tripClears := false
    mgmtMode := mgmtMode
    testMode := testMode } }
  let t := { t with fab := { t.fab with squelched := (List.range 20).filter (fun l => !(Config.laneUsed l)) } }
  if s.pw.thermTrip then emit (.pin "THERMTRIP_N" true) t else t

/-- POWER_UP (R565): the release of device reset and the steps up to the end of power-up. With TEST_MODE high the node stops at step 2
(R611), and after a thermal trip it waits for the board (R586, R603). -/
def execPowerUp (mgmtMode : BitVec 2) (testMode : Bool) (puf : List Byte) (s : State) : Res :=
  .next (
    if released s ∨ (s.pw.thermTrip ∧ !s.pw.tripClears) then s
    else
      let s := releaseReset mgmtMode testMode s
      if testMode then s
      else
        let s := logFrom 0 0x0D01 srcMgmt ((32, s.pw.cause) :: (if mgmtMode = 3 then [(8, 3)] else [])) (extendMeas 0 Config.romDigest s)
        deriveIdentity puf (interimKeys (bootSessionKeys s)))

/-! ## Clocks and PCIe (R558, R564) -/

/-- REFCLK156_LOSS (R558, R333): every fabric port and the twin link go down. -/
def execRefclk156Loss (s : State) : Res :=
  onNode (fun s => { s with
    pw := { s.pw with refclk156 := false }
    fab := { s.fab with ports := s.fab.ports.map (fun p => (p.1, { p.2 with up := false })) } }) s

/-- The host interface is reset if the node is up (R433). -/
def resetHost (s : State) : State := if live s then flrState s else s

/-- PERST_N (R564): its fall resets the host interface with the effects of R433; its rise lets the link retrain. -/
def execPerstN (high : Bool) (s : State) : Res :=
  .next (if high then { s with pw := { s.pw with perstHigh := true } } else resetHost { s with pw := { s.pw with perstHigh := false } })

/-- PCIE_REFCLK_LOSS (R558): the effect of PERST_N. -/
def execPcieRefclkLoss (s : State) : Res := .next (resetHost { s with pw := { s.pw with pcieClock := false } })

/-- PCIE_REFCLK_RETURN (R558): the link retrains. -/
def execPcieRefclkReturn (s : State) : Res := .next { s with pw := { s.pw with pcieClock := true } }

/-- POWER_GATE (R560): firmware gates control cores 1 to 15 and the engines of a core that hold no work. -/
def execPowerGate (engines : Bool) (i : BitVec 4) (s : State) : Res :=
  onNode (fun s =>
    let n := i.toNat
    if engines then
      if n < 8 ∧ !(s.attn.reqs.any (fun r => r.2.pages.any (fun p => decide (p.core = n)))) then
        { s with pw := { s.pw with gatedEngines := (n :: s.pw.gatedEngines).eraseDups } }
      else s
    else if n = 0 ∨ (n < 8 ∧ (mbAt s i).full) then s
    else { s with pw := { s.pw with gatedCores := (n :: s.pw.gatedCores).eraseDups } }) s

/-! ## Brake (R587, R588) -/

/-- Nominal millivolts of the rails (R555). -/
def railNominal : List Nat := [1800, 1800, 750, 850, 1100, 850, 1200, 400]

/-- A rail. -/
def railAt (s : State) (r : Nat) : Rail := s.pw.rails.atD r ⟨none, []⟩

/-- Change a rail. -/
def updRail (r : Nat) (f : Rail → Rail) (s : State) : State := { s with pw := { s.pw with rails := s.pw.rails.upd r ⟨none, []⟩ f } }

/-- Note a reading. -/
def noteReading (mv : Nat) (x : Rail) : Rail := { x with lowest := some (min mv (x.lowest.getD mv)) }

/-- Whether a reading lies below a rail's brake threshold, 94 % of nominal (R555). -/
def brakesAt (rail : BitVec 3) (mv : Nat) : Bool := decide (100 * mv < 94 * railNominal.getD rail.toNat 0)

/-- BRAKE_ENTER (R587): a rail stayed below its brake threshold for 200 ns. -/
def execBrakeEnter (rail : BitVec 3) (mv : Nat) (s : State) : Res :=
  onNode (fun s =>
    let s := updRail rail.toNat (noteReading mv) s
    if s.pw.brake ∨ !(brakesAt rail mv) then s
    else
      let s := setAlert 1 { s with pw := { s.pw with brake := true, brakeHeld := 0 } }
      bump .brakeEntries (logFrom 0 0x0D04 srcPower [(8, rail.toNat), (16, mv)] s)) s

/-- BRAKE_EXIT (R587, R588): every rail has stayed at or above 96 % of nominal for 1 ms; what was held starts. -/
def execBrakeExit (durationUs : Nat) (s : State) : Res :=
  onNode (fun s =>
    if !s.pw.brake then s
    else
      let held := s.pw.brakeHeld
      let s := { s with pw := { s.pw with brake := false, brakeHeld := 0 } }
      releaseBrake (bumpBy .brakeUs durationUs (logFrom 0 0x0D05 srcPower [(64, durationUs), (64, held)] s))) s

/-! ## The power cap (R581–R583, R585) -/

/-- The slowest ACLK step: 1,500 MHz (R582). -/
def slowest : Nat := 6

/-- Put the stack power limit in force at a value, which is at most STACK_POWER_LIMIT_W. -/
def setStackLimit (w : Nat) (s : State) : State := { s with pw := { s.pw with stackCut := s.knobs.stackPowerLimitW - w } }

/-- Power above the cap (R583). -/
def overCap (p : Nat) (s : State) : State :=
  let cap := s.pw.capW
  let s := { s with pw := { s.pw with lowIntervals := 0 } }
  if s.pw.aclkStep < slowest then bump .capStepsDown { s with pw := { s.pw with aclkStep := s.pw.aclkStep + 1 } }
  else if 20 < stackLimit s then
    bump .capStepsDown (setStackLimit (max 20 (stackLimit s - 2)) s)
  else
    let s := bump .capUnmetIntervals s
    let recent : Bool := match s.pw.lastCapUnmet with
      | some t => decide (s.pw.uptime < t + 100000000)
      | none => false
    if recent then s
    else logFrom 0 0x0D06 srcPower [(16, cap), (16, p)] { s with pw := { s.pw with lastCapUnmet := some s.pw.uptime } }

/-- One step back after ten intervals below 95 % of the cap (R583). -/
def underCap (s : State) : State :=
  if s.pw.lowIntervals + 1 < 10 then { s with pw := { s.pw with lowIntervals := s.pw.lowIntervals + 1 } }
  else
    let s := { s with pw := { s.pw with lowIntervals := 0 } }
    if stackLimit s < s.knobs.stackPowerLimitW then setStackLimit (min s.knobs.stackPowerLimitW (stackLimit s + 2)) s
    else { s with pw := { s.pw with aclkStep := s.pw.aclkStep - 1 } }

/-- Power-control intervals in 1 s (R591). -/
def meansKept : Nat := 10000

/-- Judge an interval by the cap that it took at its start. -/
def judgeInterval (p : Nat) (s : State) : State :=
  if s.pw.capW < p then overCap p s
  else if 100 * p < 95 * s.pw.capW then underCap s
  else { s with pw := { s.pw with lowIntervals := 0 } }

/-- POWER_INTERVAL (R583): the interval is judged, and the next one takes the cap as it stands (R34). -/
def execPowerInterval (p : Nat) (s : State) : Res :=
  onNode (fun s =>
    let s := judgeInterval p { s with pw := { s.pw with means := (p :: s.pw.means).take meansKept, thermalActed := false } }
    { s with pw := { s.pw with capW := s.knobs.powerCapW } }) s

/-! ## Temperatures (R584–R586) -/

/-- The hottest of the node-die sensors. -/
def hottest (temps : List Int) : Int := match temps with
  | [] => 0
  | t :: r => r.foldl max t

/-- A temperature as 16 bits of two's complement. -/
def tempField (t : Int) : Nat := (t % 65536).toNat

/-- Lower the thermal ACLK limit to a step (R584). -/
def thermalDown (step : Nat) (t : Int) (s : State) : State :=
  if step ≤ s.pw.thermalStep then s
  else
    let s := bumpBy .thermalStepsDown (step - s.pw.thermalStep) { s with pw := { s.pw with thermalStep := step, thermalActed := true } }
    let recent : Bool := match s.pw.lastThermal with
      | some u => decide (s.pw.uptime < u + 1000000)
      | none => false
    if recent then s
    else logFrom 0 0x0D07 srcPower [(16, tempField t), (32, mhzOf step)] { s with pw := { s.pw with lastThermal := some s.pw.uptime } }

/-- NODE_TEMP_READ (R584): a fall of one step for each power-control interval at or above 95 °C, of all steps at 105 °C, and a rise of
one for each millisecond below 90 °C. -/
def execNodeTempRead (temps : List Int) (coolMs : Bool) (s : State) : Res :=
  onNode (fun s =>
    let t := hottest temps
    let s := alertTemp { s with pw := { s.pw with temps := temps } }
    if 110 ≤ t ∨ s.hbmStacks.any (fun x => decide (105 ≤ x.2.temp)) then thermalTrip s
    else if 105 ≤ t then thermalDown slowest t s
    else if 95 ≤ t then (if s.pw.thermalActed then s else thermalDown (min slowest (s.pw.thermalStep + 1)) t s)
    else if t < 90 ∧ coolMs then { s with pw := { s.pw with thermalStep := s.pw.thermalStep - 1 } }
    else s) s

end Sys2Proof.Machine
end

