-- ==== Sys2Proof/Machine/Telemetry.lean ====
section
/-! DEFINITION. Margin telemetry: its gathering, its low margins, and the blocks of GET_TELEMETRY (R590–R593). -/

namespace Sys2Proof.Machine

/-- Block kinds (R591). -/
def kindDevice : Nat := 1
/-- RAIL. -/
def kindRail : Nat := 2
/-- SERDES_LANE. -/
def kindLane : Nat := 3
/-- HBM_MARGIN. -/
def kindHbm : Nat := 4
/-- OPTICS. -/
def kindOptics : Nat := 5

/-- Judge a margin (R593): below its limit it is logged once, in the width that its telemetry field has (R591, R612), until its source has
recovered above the limit. -/
def noteMargin (kind ix place value limit : Nat) (s : State) : State :=
  let k := (kind, ix, place)
  if value < limit then
    if k ∈ s.pw.marginLow then s
    else
      bump .marginLowEvents (logFrom 0 0x0D08 srcPower [(8, kind), (8, ix), (if kind = kindHbm then 16 else 32, value)]
        { s with pw := { s.pw with marginLow := k :: s.pw.marginLow } })
  else if limit < value then { s with pw := { s.pw with marginLow := s.pw.marginLow.filter (fun m => m ≠ k) } }
  else s

/-- EYE_SCAN (R592, R593): a lane's eye width in 1/64 UI and height in mV. -/
def execEyeScan (lane : BitVec 5) (width height : Nat) (s : State) : Res :=
  onNode (fun s =>
    if 20 ≤ lane.toNat then s
    else
      let s := { s with pw := { s.pw with eyes := s.pw.eyes.put lane.toNat ⟨width, height, s.pw.uptime⟩ } }
      noteMargin kindLane lane.toNat 1 height 15 (noteMargin kindLane lane.toNat 0 width 16 s)) s

/-- HBM_MARGIN_SCAN (R592, R593): the setup and hold margins of a pseudo-channel in ps. -/
def execHbmMarginScan (stack : BitVec 3) (pc : BitVec 5) (setup hold : Nat) (s : State) : Res :=
  onNode (fun s =>
    let n := stack.toNat
    let s := { s with pw := { s.pw with
      hbmMargins := s.pw.hbmMargins.put (n, pc.toNat) (setup, hold)
      marginAt := s.pw.marginAt.put n s.pw.uptime } }
    noteMargin kindHbm n (2 * pc.toNat + 1) hold 8 (noteMargin kindHbm n (2 * pc.toNat) setup 8 s)) s

/-- The droop bin of a reading (R592). -/
def droopBin (nominal mv : Nat) : Nat := if nominal ≤ mv then 0 else min 15 ((nominal - mv) * 100 / nominal)

/-- DROOP_WINDOW (R592): the lowest sample of a 1 ms window. -/
def execDroopWindow (rail : BitVec 3) (lowestMv : Nat) (s : State) : Res :=
  onNode (updRail rail.toNat (fun x =>
    { noteReading lowestMv x with bins := x.bins.upd (droopBin (railNominal.getD rail.toNat 0) lowestMv) 0 (fun n => min (2 ^ 32 - 1) (n + 1)) })) s

/-- OPTICS_POLL (R592, R593, R602): once per second while firmware runs. -/
def execOpticsPoll (port : BitVec 5) (isPresent : Bool) (rx tx : List Nat) (temp : Int) (rxLowWarning : Nat) (s : State) : Res :=
  onNode (fun s =>
    if s.pw.fwState ≠ 2 ∨ !(portOk s port) then s
    else
      let o : Optics := if isPresent then ⟨true, rx.take 8, tx.take 8, temp⟩ else ⟨false, [], [], 0⟩
      let s := { s with pw := { s.pw with optics := s.pw.optics.put port.toNat o } }
      (o.rx.zip (List.range 8)).foldl (fun s x => noteMargin kindOptics port.toNat x.2 x.1 rxLowWarning s) s) s

/-! ## GET_TELEMETRY (R590, R591) -/

/-- A block with its header. -/
def telemetryBlock (kind ix : Nat) (fields : List Nat) : List Byte :=
  leBytes 8 (word [(56, kind), (48, ix), (0, 8 + 4 * fields.length)]) ++ fields.flatMap (leBytes 4)

/-- A signed field of 32 bits. -/
def signed32 (t : Int) : Nat := (t % 4294967296).toNat

/-- A measurement that no step has yet made: a free value. -/
def unmeasured (s : State) (salt : Nat) : Nat := Config.freeOrder s.tick salt

/-- Whole seconds since a time. -/
def secondsSince (s : State) (t : Nat) : Nat := (s.pw.uptime - t) / 1000000000

/-- The DEVICE block. -/
def deviceBlock (s : State) : List Byte :=
  telemetryBlock kindDevice 0 ([s.pw.cause, aclkMhz s, s.knobs.powerCapW, stackLimit s, s.pw.means.headD 0, s.pw.means.foldl max 0,
    signed32 (hottest s.pw.temps)] ++ (List.range 8).map (fun n => signed32 (stackAt s n).temp)
    ++ (List.range 8).map (fun n => (stackAt s n).throttle))

/-- A RAIL block. The present reading is the monitor's own. -/
def railBlock (s : State) (r : Nat) : List Byte :=
  let x := railAt s r
  telemetryBlock kindRail r ([railNominal.getD r 0, unmeasured s r, x.lowest.getD (unmeasured s (8 + r))]
    ++ (List.range 16).map (fun k => x.bins.atD k 0))

/-- The port of a lane (R332); 16 for the twin link. -/
def portOfLane (s : State) (lane : Nat) : Nat := if 16 ≤ lane then 16 else lane * portCount s.knobs.fabricPortMode / 16

/-- A SERDES_LANE block. -/
def laneBlock (s : State) (n : Nat) : List Byte :=
  telemetryBlock kindLane n (match s.pw.eyes.at? n with
    | some e => [e.width, e.height, secondsSince s e.at_, portOfLane s n]
    | none => [unmeasured s (16 + n), unmeasured s (48 + n), unmeasured s (80 + n), portOfLane s n])

/-- An HBM_MARGIN block. -/
def hbmBlock (s : State) (n : Nat) : List Byte :=
  telemetryBlock kindHbm n ((List.range 32).map (fun pc => match s.pw.hbmMargins.at? (n, pc) with
      | some m => word [(16, m.1), (0, m.2)]
      | none => unmeasured s (128 + 32 * n + pc))
    ++ [match s.pw.marginAt.at? n with
      | some t => secondsSince s t
      | none => unmeasured s (384 + n)])

/-- An OPTICS block. -/
def opticsBlock (s : State) (p : Nat) : List Byte :=
  let o := s.pw.optics.atD p ⟨false, [], [], 0⟩
  telemetryBlock kindOptics p ([b2n o.isPresent] ++ (List.range 8).map (fun i => o.rx.getD i 0) ++ (List.range 8).map (fun i => o.tx.getD i 0)
    ++ [signed32 o.temp])

/-- The telemetry blocks in their order. -/
def telemetry (s : State) : List Byte :=
  deviceBlock s ++ (List.range 8).flatMap (railBlock s) ++ (List.range 20).flatMap (laneBlock s) ++ (List.range 8).flatMap (hbmBlock s)
    ++ (List.range (portCount s.knobs.fabricPortMode) ++ [16]).flatMap (opticsBlock s)

/-- What CLEAR clears (R590). -/
def clearDroop (s : State) : State := { s with pw := { s.pw with rails := [] } }

end Sys2Proof.Machine
end

