-- ==== Sys2Proof/Machine/Loader.lean ====
section
/-! DEFINITION. The firmware loader of the mask boot ROM and the mailbox words that it answers (R541, R542, R566–R573). -/

namespace Sys2Proof.Machine

/-- BOOT_OP codes (R567). -/
def bootBegin : Nat := 0x01
/-- CHUNK. -/
def bootChunk : Nat := 0x02
/-- END. -/
def bootEnd : Nat := 0x03
/-- ABORT. -/
def bootAbort : Nat := 0x04
/-- PING. -/
def bootPing : Nat := 0x10
/-- NOTICE. -/
def bootNotice : Nat := 0x80

/-- RESULT codes (R569). -/
def resOk : Nat := 0
/-- SEQUENCE. -/
def resSequence : Nat := 1
/-- VERIFY_FAIL. -/
def resVerifyFail : Nat := 2
/-- TOO_LARGE. -/
def resTooLarge : Nat := 3
/-- BAD_OP. -/
def resBadOp : Nat := 4
/-- DENIED. -/
def resDenied : Nat := 5
/-- ABORTED. -/
def resAborted : Nat := 6

/-- FW_STATE codes (R436). -/
def fwNone : Nat := 0
/-- LOADING. -/
def fwLoading : Nat := 1
/-- RUNNING. -/
def fwRunning : Nat := 2
/-- FAILED. -/
def fwFailed : Nat := 3

/-- An answer word (R568). -/
def bootWord (s : State) (op res step arg : Nat) : BitVec 64 :=
  BitVec.ofNat 64 (word [(56, op), (48, res), (40, step), (36, s.pw.fwState), (0, arg)])

/-- Answer a word of mailbox `m` in mailbox `m` + 8. -/
def bootAnswer (m : Nat) (op res step arg : Nat) (s : State) : State :=
  postMail (BitVec.ofNat 4 (m + 8)) (bootWord s op res step arg) s

/-- The word leaves mailbox 0 as the loader takes it up. -/
def onBoot (f : State → State) (s : State) : Res := onNode (fun s => f (takeMail 0 s)) s

/-- Whether the word that a mailbox holds has a non-zero reserved field (R567). -/
def wordReserved (s : State) (m : BitVec 4) : Bool := (mbAt s m).full && decide (bitsOf (mbAt s m).word.toNat 55 53 ≠ 0)

/-- Take up a boot word. DESIGN CHOICE (entry 88): one with a non-zero reserved field changes nothing (R10) and, as R569 has no code of that
name, is answered with BAD_OP. -/
def onWord (op : Nat) (arg : State → Nat) (f : State → State) (s : State) : Res :=
  if wordReserved s 0 then onBoot (fun s => bootAnswer 0 op resBadOp 0 (arg s) s) s else onBoot f s

/-- NEXT_OFFSET. -/
def nextOffset (s : State) : Nat := (s.pw.loader.map Loader.next).getD 0

/-- The largest image (R566). -/
def imageMax : Nat := 33554432

/-- The size of the firmware load window (R434). -/
def loadWindow : Nat := 1048576

/-- Change FW_STATE and the loader. -/
def setLoad (fw : Nat) (l : Option Loader) (s : State) : State := { s with pw := { s.pw with fwState := fw, loader := l } }

/-- BEGIN (R570). -/
def execBegin (len : BitVec 32) (s : State) : Res :=
  onWord bootBegin nextOffset (fun s =>
    if s.pw.fwState = fwRunning then bootAnswer 0 bootBegin resDenied 0 0 s
    else if len.toNat < 1 ∨ imageMax < len.toNat then
      bootAnswer 0 bootBegin resTooLarge 0 (nextOffset s) s
    else bootAnswer 0 bootBegin resOk 0 0 (setLoad fwLoading (some ⟨len.toNat, 0, [], none⟩) s)) s

/-! ## Verification (R541) -/

/-- The first of steps 1 to 3 that a manifest fails. -/
def manifestFail (m : Manifest) : Option Nat :=
  if sha256 m.issuerKey ∉ Config.romRoots then some 1
  else if !(Config.slhVerify m.issuerKey m.certBytes m.certSignature) then some 2
  else if !(Config.slhVerify m.signingKey m.manifestBytes m.manifestSignature) then some 3
  else none

/-- The components of a manifest with their index and the image offset of each: one after another behind the manifest, the certificate
and the signature. -/
def componentsFrom (ix off : Nat) : List Component → List (Nat × Nat × Component)
  | [] => []
  | c :: r => (ix, off, c) :: componentsFrom (ix + 1) (off + c.length) r

/-- The first component within the bytes taken whose digest differs (step 4); with `whole`, one that is not all there fails too. -/
def componentFail (m : Manifest) (image : List Byte) (whole : Bool) : Option Nat :=
  ((componentsFrom 0 m.headLen m.components).find? (fun c =>
    if c.2.1 + c.2.2.length ≤ image.length then decide (sha256 (bytesAt image c.2.1 c.2.2.length) ≠ c.2.2.digest) else whole)).map Prod.fst

/-- A failed check: FW_STATE FAILED, logged with the step and the component, with ALERT [4]. -/
def loadFails (op step component : Nat) (s : State) : State :=
  let s := setAlert 4 (logFrom 0 0x0C02 srcMgmt [(8, step), (8, component)] (setLoad fwFailed none s))
  bootAnswer 0 op resVerifyFail step 0 s

/-- CHUNK (R569, R570): the bytes in the window are taken; once the manifest, certificate and signature are complete, steps 1 to 3 run,
and step 4 on each component as it is complete. -/
def execChunk (len : BitVec 21) (offset : BitVec 32) (manifest : Option Manifest) (s : State) : Res :=
  onWord bootChunk nextOffset (fun s =>
    if s.pw.fwState = fwRunning then bootAnswer 0 bootChunk resBadOp 0 0 s
    else match s.pw.loader with
      | none => bootAnswer 0 bootChunk resSequence 0 0 s
      | some l =>
        if offset.toNat ≠ l.next then bootAnswer 0 bootChunk resSequence 0 l.next s
        else if l.len < l.next + len.toNat ∨ loadWindow < len.toNat then bootAnswer 0 bootChunk resTooLarge 0 l.next s
        else
          let image := l.image ++ padTo len.toNat s.pw.window
          let fresh : Option Manifest := if l.manifest.isNone then manifest.filter (fun m => decide (m.headLen ≤ image.length)) else none
          let m : Option Manifest := if l.manifest.isSome then l.manifest else fresh
          let next := l.next + len.toNat
          match fresh.bind manifestFail with
          | some step => loadFails bootChunk step 0 s
          | none =>
            match m.bind (fun m => componentFail m image false) with
            | some c => loadFails bootChunk 4 c s
            | none => bootAnswer 0 bootChunk resOk 0 next (setLoad fwLoading (some ⟨l.len, next, image, m⟩) s)) s

/-- Extend a measurement register with the digests of the components of a type, in manifest order (R542). -/
def measureType (m : Manifest) (ctype : Nat) (s : State) : State :=
  (m.components.filter (fun c => decide (c.ctype = ctype))).foldl (fun s c => extendMeas ctype c.digest s) s

/-- The firmware starts (R570): components are measured, every frame-state table is written, and WP_N may rise (R563). -/
def startFirmware (m : Manifest) (s : State) : State :=
  let s := measureType m 3 (measureType m 2 (measureType m 1 (setLoad fwRunning none s)))
  let s := { s with
    frames := []
    pw := { s.pw with window := [], imageVersion := m.imageVersion, securityVersion := m.securityVersion } }
  let s := driveWp true s
  logFrom 0 0x0D02 srcMgmt [(32, m.imageVersion.toNat), (16, m.securityVersion.toNat)] s

/-- END (R569, R570). -/
def execEnd (s : State) : Res :=
  onWord bootEnd (fun _ => 0) (fun s =>
    if s.pw.fwState = fwRunning then bootAnswer 0 bootEnd resBadOp 0 0 s
    else match s.pw.loader with
      | none => bootAnswer 0 bootEnd resSequence 0 0 s
      | some l =>
        if l.next ≠ l.len then bootAnswer 0 bootEnd resSequence 0 0 s
        else match l.manifest with
          | none => loadFails bootEnd 1 0 s
          | some m =>
            match componentFail m l.image true with
            | some c => loadFails bootEnd 4 c s
            | none => bootAnswer 0 bootEnd resOk 0 0 (startFirmware m s)) s

/-- ABORT (R569, R570). -/
def execAbort (s : State) : Res :=
  onWord bootAbort (fun _ => 0) (fun s =>
    if s.pw.fwState = fwLoading then bootAnswer 0 bootAbort resAborted 0 0 (setLoad fwNone none s)
    else bootAnswer 0 bootAbort resBadOp 0 0 s) s

/-- PING (R567, R569, R573): the mask boot ROM serves mailbox 0; the control cores serve the others from RUNNING. -/
def execPing (mailbox : BitVec 3) (value : BitVec 32) (s : State) : Res :=
  onNode (fun s =>
    if mailbox.toNat ≠ 0 ∧ s.pw.fwState ≠ fwRunning then s
    else
      let m := BitVec.ofNat 4 mailbox.toNat
      bootAnswer mailbox.toNat bootPing (if wordReserved s m then resBadOp else resOk) 0 value.toNat (takeMail m s)) s

/-- LOADER_IDLE_TIMEOUT (R570): 10 s without a posted word. -/
def execLoaderIdleTimeout (s : State) : Res :=
  onNode (fun s =>
    if s.pw.fwState = fwLoading then bootAnswer 0 bootNotice resAborted 0 0 (setLoad fwNone none s) else s) s

/-- FIRMWARE_LOAD_WINDOW (R566): a host write, ignored in RUNNING. -/
def execFirmwareLoadWindow (offset : BitVec 20) (bytes : List Byte) (s : State) : Res :=
  onNode (fun s =>
    if s.pw.fwState = fwRunning then s
    else { s with pw := { s.pw with window := (putBytes s.pw.window offset.toNat bytes).take loadWindow } }) s

end Sys2Proof.Machine
end

