-- ==== Sys2Proof/Machine/Repair.lean ====
section
/-! DEFINITION. The ends of the comparison, repair, rewrite and rebuild of pages (R283–R285, R296, R405). -/

namespace Sys2Proof.Machine

/-- VERIFY_RESP (R283). -/
def execVerifyResp (h : PeerHdr) (layer head page : Nat) (digest : List Byte) (hash : Option (List Byte)) (content : List Byte)
    (s : State) : Res :=
  onPeer h .twin (linkPeer h fun s => afterForm <|
    let s := ackPeer h stOk 0 s
    let f := match ownSpan s h.vnode h.handle h.span.toNat false with
      | some f => some f
      | none => ownSpan s h.vnode h.handle h.span.toNat true
    match f with
    | some f => compareCopies ⟨f, layer, head, page⟩ digest (hash.map (fun x => (x, content))) s
    | none => s) s

/-- TWIN_VERIFY_TIMEOUT (R285, R296): the other copy has not answered. -/
def execTwinVerifyTimeout (p : PageRef) (s : State) : Res :=
  onNode (fun s => afterForm <| if (awaited s p).isSome then noGoodCopy p s else s) s

/-- REPLICA_REWRITE (R284): good content reaches a page that awaits it or that is POISONED. -/
def execReplicaRewrite (p : PageRef) (content : List Byte) (s : State) : Res :=
  onNode (fun s => afterForm <|
    match pageAt s p with
    | some x =>
      if (awaited s p).isSome ∨ x.poison.isSome then
        rewriteFrom p content (x.poison.isSome || ((awaited s p).getD none).isSome) s
      else s
    | none => s) s

/-- PAGE_REPAIR (R296): the content fetched from the twin or the code group, or that no copy can be read. -/
def execPageRepair (p : PageRef) (content : Option (List Byte)) (s : State) : Res :=
  onNode (fun s => afterForm <|
    match pageAt s p with
    | some x =>
      if (awaited s p).isNone ∧ x.poison.isNone ∧ x.loc ≠ .rebuild then s
      else match content with
        | none => noGoodCopy p s
        | some bs =>
          let counts := x.poison.isSome || ((awaited s p).getD none).isSome
          match rewritePage p bs s with
          | .done s => contribute p (if counts then bump .replicaRepairs s else s)
          | .differs s => rebuiltDiffers p bs s
          | .noFrame => s
    | none => s) s

/-- The fragments of a page's stripe that READ_RESP messages have brought, for slots not listed already. -/
def gathered (s : State) (p : PageRef) (have_ : List (Nat × List Byte)) : List (Nat × List Byte) :=
  s.regions.filterMap (fun r => match r.2.use with
    | .read q slot bs => if q = p ∧ !bs.isEmpty ∧ slot ∉ have_.map Prod.fst then some (slot, bs) else none
    | _ => none)

/-- PAGE_REBUILD (R405, R283): the page from the fragments of its stripe. -/
def execPageRebuild (p : PageRef) (fragments : List (Nat × List Byte)) (s : State) : Res :=
  onNode (fun s => afterForm <|
    match pageAt s p with
    | some x =>
      let due : Bool := (awaited s p).isSome || x.poison.isSome || decide (x.loc = .rebuild)
      match x.coded, due with
      | some (_, _, slot), true =>
        (match rebuildFragment slot ((fragments ++ gathered s p fragments).map (fun f => (f.1, padTo frameBytes f.2))) with
        | none => noGoodCopy p s
        | some bs =>
          let counts := x.poison.isSome || ((awaited s p).getD none).isSome
          match rewritePage p bs s with
          | .done s => bump .pagesRebuiltCode (if counts then bump .replicaRepairs s else s)
          | .differs s => rebuiltDiffers p bs s
          | .noFrame => s)
      | _, _ => s
    | none => s) s

end Sys2Proof.Machine
end

