-- ==== Sys2Proof/Machine/Codec.lean ====
section
/-! DEFINITION. The codec: its tables, its queues and re-coding (R325–R331, R461, R462). -/

namespace Sys2Proof.Machine

/-- A codec slot. -/
def slotAt (s : State) (n : Nat) : CodecSlot := s.tier.slots.atD n CodecSlot.free

/-- Change a codec slot. -/
def updSlot (n : Nat) (f : CodecSlot → CodecSlot) (s : State) : State :=
  { s with tier := { s.tier with slots := s.tier.slots.upd n CodecSlot.free f } }

/-- Whether the code lengths of a table oversubscribe its codes (R326). -/
def oversubscribed (ls : List Nat) : Bool :=
  decide (2 ^ 15 < (ls.filter (fun l => decide (l ≠ 0))).foldl (fun n l => n + 2 ^ (15 - l)) 0)

/-- The fields of a table image that fail, with their packet offsets (R325, R326). -/
def tableFails (img : TableImage) : List (Bool × Nat) :=
  let fmt := img.format.toNat
  let ls := img.lengths.map (fun b => b.toNat)
  let badLen : Option Nat := firstBelow ls.length (fun i => decide (img.maxLen.toNat < ls.getD i 0))
  [(!(compressible fmt), 64),
   (decide (img.expBits.toNat ≠ expBits fmt) || decide (img.maxLen = 0), 66),
   (decide (img.lengthsCrc ≠ crc32c img.lengths), 72),
   (badLen.isSome, 128 + badLen.getD 0)]

/-- Place a checked table image in the lowest FREE slot: its slot and generation, or the status of the refusal (R326). A load that would take the
generation counter to 0xFFFFFFFF is denied. -/
def loadTable (s : State) : (Nat × BitVec 32) ⊕ Status :=
  match firstBelow 8 (fun n => decide ((slotAt s n).state = 0)) with
  | none => .inr stNoSpace
  | some n => if s.tier.nextGen = 0xFFFFFFFE then .inr stDenied else .inl (n, s.tier.nextGen)

/-- Enter a table in a slot. -/
def putTable (img : TableImage) (n : Nat) (g : BitVec 32) (s : State) : State :=
  updSlot n (fun _ => ⟨g, 1, false, some img, false⟩) { s with tier := { s.tier with nextGen := g + 1 } }

/-- Whether a table has no code at all, or too many. -/
def tableEmpty (img : TableImage) : Bool :=
  img.lengths.all (fun b => decide (b = 0)) || oversubscribed (img.lengths.map (fun b => b.toNat))

/-- CODEC_LOAD (R326, R461). -/
def execCodecLoad (c : Cmd) (img : TableImage) (s : State) : Res :=
  runVerb c (withParams c (64 + 2 ^ expBits img.format.toNat) (tableFails img) (fun s =>
    if tableEmpty img ∨ img.lengths.length ≠ 2 ^ expBits img.format.toNat then .now Reply.badAny s
    else match loadTable s with
      | .inr st => .refuse st s
      | .inl (n, g) => .now { Reply.st stOk with r0 := BitVec.ofNat 64 (word [(32, g.toNat), (0, n)]) } (putTable img n g s))) s

/-- CODEC_SELECT (R328, R461). -/
def execCodecSelect (c : Cmd) (gen : BitVec 32) (slot : BitVec 3) (format : BitVec 4) (s : State) : Res :=
  runVerb c (withParams c 8 [] (fun s =>
    let x := slotAt s slot.toNat
    if x.state = 0 ∨ x.gen ≠ gen then .refuse stCodecTableStale s
    else if x.state ≠ 1 ∨ (x.image.map TableImage.format) ≠ some format then .refuse stDenied s
    else
      let s := { s with tier := { s.tier with slots := s.tier.slots.map (fun p =>
        if (p.2.image.map TableImage.format) = some format then (p.1, { p.2 with current := decide (p.1 = slot.toNat) }) else p) } }
      .now (Reply.st stOk) s)) s

/-- The stored images that name a slot's table, PACKED ones first (R329). -/
def imagesNaming (s : State) (n : Nat) (g : BitVec 32) : List Nat :=
  let all := s.tier.images.filter (fun i => decide (i.2.table = some (g, n)) && i.2.drain.isNone)
  ((all.filter (fun i => i.2.block.isNone)) ++ (all.filter (fun i => i.2.block.isSome))).map Prod.fst

/-- CODEC_RETIRE (R329, R330, R461). -/
def execCodecRetire (c : Cmd) (gen : BitVec 32) (slot : BitVec 3) (force : Bool) (s : State) : Res :=
  runVerb c (withParams c 8 [] (fun s =>
    let n := slot.toNat
    let x := slotAt s n
    if x.state = 0 then .refuse stDenied s
    else if x.gen ≠ gen then .refuse stCodecTableStale s
    else
      let s := updSlot n (fun x => { x with state := 2, current := false, forced := x.forced || force }) s
      let s := if force then { s with tier := { s.tier with
          recode := s.tier.recode.filter (fun i => !(decide (i ∈ imagesNaming s n gen)))
          queue := s.tier.queue.map (fun q => if q.slot = n ∧ q.gen = gen then { q with old := true } else q) } }
        else { s with tier := { s.tier with recode := (s.tier.recode ++ imagesNaming s n gen).eraseDups } }
      .now (Reply.st stOk) (settleSlots s))) s

/-- The three words of a slot in CODEC.STATUS (R327). -/
def slotStatus (s : State) (n : Nat) : List Byte :=
  let x := slotAt s n
  match x.image with
  | none => zeros 24
  | some t =>
    let queued := (s.tier.queue.filter (fun q => decide (q.slot = n) && decide (q.gen = x.gen))).length
    let stored := (s.tier.images.filter (fun i => decide (i.2.table = some (x.gen, n)))).length
    words64 [word [(32, x.gen.toNat), (30, x.state), (26, t.format.toNat), (25, b2n x.current)],
      word [(32, t.buildId.toNat), (0, queued)], stored]

/-- CODEC_STATUS (R327). -/
def execCodecStatus (c : Cmd) (s : State) : Res :=
  runVerb c (withParams c 0 [] (fun s => .now (Reply.ofResult 8 ((List.range 8).flatMap (slotStatus s))) s)) s

/-- CODEC_SAMPLE (R462). -/
def execCodecSample (c : Cmd) (format : BitVec 4) (s : State) : Res :=
  runVerb c (withParams c 8 [(!(compressible format.toNat), 64)] (fun s =>
    let f := format.toNat
    let x := s.tier.samples.atD f (0, [])
    let n := 2 ^ expBits f
    let s' := { s with tier := { s.tier with samples := s.tier.samples.del f } }
    .now (Reply.ofResult (1 + n) (words64 (word [(32, x.1), (0, f)] :: (List.range n).map (fun i => x.2.atD i 0)))) s')) s

/-! ## Re-coding (R329) -/

/-- Take an image off the re-coding queue. -/
def recoded (n : Nat) (s : State) : State := { s with tier := { s.tier with recode := s.tier.recode.filter (fun x => x ≠ n) } }

/-- Re-code an image whose content is at hand; what finds no room waits in the queue. -/
def recodeTo (n : Nat) (i : Image) (fmt : Nat) (p : PageRef) (x : Page) (bs : List Byte) (s : State) : State :=
  let im := buildImage fmt (currentTable s fmt) bs
  match i.home with
  | .flash .. => match storeFlash i.vnode i.gen im s with
    | some (m, s) => recoded n (switchAll (.flash n) (.flash m) s)
    | none => s
  | .pack _ =>
    if im.length ≤ packLimit then
      match storePack i.vnode i.gen im s with
      | some (m, s) => recoded n (switchAll (.packed n) (.packed m) s)
      | none => s
    else (placePlain p x i.vnode bs s).getD s

/-- Whether an image waits behind others in the re-coding queue: PACKED images come before FLASH images (R329). -/
def recodeWaits (s : State) (i : Image) : Bool :=
  i.block.isSome && s.tier.recode.any (fun n => (s.tier.images.at? n).any (fun x => x.block.isNone))

/-- RECODE_IMAGE (R329, R331): one image, after every other block that is queued. An image that a demotion is still writing waits for its end. -/
def execRecodeImage (image : Nat) (s : State) : Res :=
  onNode (whenFills fun s =>
    let s := drainCodec 5 s
    match s.tier.images.at? image, (pagesOfImage s image).head? with
    | some i, some p => match pageAt s p, spanAt s p.record with
      | some x, some r =>
        if image ∉ s.tier.recode ∨ recodeWaits s i ∨ (pagesOfImage s image).any (formChanging s) ∨ (s.pw.brake ∧ i.block.isSome) then afterForm s
        else
          let c := readCopy 5 r.geo.fmt x s
          (match c.1 with
          | .reads bs =>
            if contentOk x bs then afterForm (settleSlots (recodeTo image i r.geo.fmt p x bs c.2))
            else afterForm (digestMismatch p (contentHash x bs) (recoded image c.2))
          | _ => afterForm (settleSlots (pageUnreadable p (recoded image c.2))))
      | _, _ => s
    | _, _ => if s.tier.demotions.any (fun d => decide (d.image = image)) then afterForm s else afterForm (recoded image s)) s

/-! ## The queues (R330, R331) -/

/-- CODEC_BLOCK (R330, R331): an engine takes the next block; one whose slot does not hold its table fails. -/
def execCodecBlock (_engine : BitVec 2) (s : State) : Res :=
  onNode (fun s =>
    match nextBlock s.tier.queue with
    | none => s
    | some k => match s.tier.queue[k]? with
      | none => s
      | some i => afterForm (serveBlock k i s)) s

end Sys2Proof.Machine
end

