-- ==== Sys2Proof/Machine/SyncUnit.lean ====
section
/-! DEFINITION. The synchronisation unit: creating, signalling, waiting on, reading and setting objects, and barriers and their
trees (R493–R529). -/

namespace Sys2Proof.Machine

/-! ## Records (R494, R522) -/

/-- The code of an object kind (R494). -/
def ObjKind.code : ObjKind → Nat
  | .counter => 0
  | .event => 1
  | .barrier => 2

/-- VALUE of an object record (R494). -/
def objValue (o : SyncObj) : Nat :=
  match o.kind with
  | .counter => o.value
  | .event => o.value
  | .barrier => o.nextArrived * 2 ^ 48 + o.value

/-- The object record of an index (R494). -/
def objRecord (s : State) (i : BitVec 14) : List Byte :=
  match objAt s i with
  | none => words64 [word [(46, i.toNat)], 0, 0, 0]
  | some o =>
    let aux := match o.kind with
      | .counter => 0
      | .event => o.overruns
      | .barrier => b2n o.pending * 2 ^ 16 + o.arrived
    words64 [word [(62, o.kind.code), (60, if o.failed then 2 else 1), (46, i.toNat), (35, o.msix),
        (21, (waitersOf s i).length), (0, aux)], objValue o, o.lastSignaller.toNat, o.lastSignalNs]

/-- The waiter record (R522). -/
def waiterRecord (w : Waiter) : List Byte :=
  let kind := match w.wf with
    | .arrival _ => 1
    | _ => 0
  words64 [word [(50, w.index.toNat), (48, kind)], w.who.toNat, w.value, w.deadline]

/-! ## Creating and destroying (R496, R497, R510, R527) -/

/-- The virtual node that owns an object that a command creates (R527). -/
def objOwner (s : State) (c : Cmd) : VId :=
  match c.origin with
  | .host _ => 0
  | .fabric .. => vnodeOf s c

/-- Whether a virtual node holds its share of objects (R527). -/
def objShareFull (s : State) (v : VId) : Bool :=
  decide (1 < vnodeCount s) && decide (16384 / vnodeCount s ≤ (s.sync.objs.filter (fun o => decide (o.2.vnode = v))).length)

/-- Enter an object. -/
def putObj (i : BitVec 14) (o : SyncObj) (s : State) : State := { s with sync := { s.sync with objs := s.sync.objs.put i o } }

/-- Create an object where its index is FREE and its virtual node has room. -/
def createObj (c : Cmd) (i : BitVec 14) (o : SyncObj) (s : State) : Done :=
  if (objAt s i).isSome then .refuse stDenied s
  else if objShareFull s (objOwner s c) then .refuse stNoSpace s
  else .now (Reply.st stOk) (putObj i { o with vnode := objOwner s c } s)

/-- An object with nothing counted. -/
def freshObj (kind : ObjKind) (msix value : Nat) (b : Option BarrierCfg) : SyncObj :=
  ⟨kind, false, 0, msix, value, 0, 0, 0, false, b, 0, 0⟩

/-- A vector that is neither 0 nor one that the host assigns (R496, R439). -/
def badVector (v : BitVec 11) : Bool := decide (v ≠ 0) && decide (v.toNat < 17)

/-- SYNC.CREATE (R496). -/
def execSyncCreate (c : Cmd) (p : SyncCreateBlk) (s : State) : Res :=
  runVerb c (withParams c 32 [(badVector p.msix, 64 + 4), (decide (2 ≤ p.kind.toNat), 64 + 6),
      (decide (p.kind = 1) && decide (2 ≤ p.initial.toNat), 72)] (fun s =>
    createObj c p.index (freshObj (if p.kind = 0 then .counter else .event) p.msix.toNat p.initial.toNat none) s)) s

/-- Whether an admitted command names an object in SIGNAL_OBJ (R497). -/
def signalNamed (s : State) (i : BitVec 14) : Bool :=
  s.host.admitted.any (fun a => a.cmd.hdr.signalValid && decide (a.cmd.hdr.signalObj = i))

/-- End every waiter of a list with a status. -/
def endWaiters (st : Status) (ws : List Waiter) (s : State) : State :=
  match ws with
  | [] => s
  | w :: r => endWaiters st r (endWaiter w st (dropWaiter w.id s))

/-- SYNC.DESTROY and BARRIER.DESTROY (R497). -/
def destroyObj (c : Cmd) (barrier : Bool) (i : BitVec 14) (force : Bool) (s : State) : Done :=
  match objAt s i with
  | none => .refuse stMiss s
  | some o =>
    if foreignObj s c i ∨ decide (o.kind = .barrier) ≠ barrier then .refuse stDenied s
    else if !force ∧ (!(waitersOf s i).isEmpty ∨ signalNamed s i) then .refuse stDenied s
    else
      let s := endWaiters stAborted (waitersOf s i) s
      .now (Reply.st stOk) { s with sync := { s.sync with objs := s.sync.objs.del i } }

/-- SYNC.DESTROY (R497). -/
def execSyncDestroy (c : Cmd) (index : BitVec 14) (force : Bool) (s : State) : Res :=
  runVerb c (withParams c 8 [] (destroyObj c false index force)) s

/-- BARRIER.DESTROY (R497). -/
def execBarrierDestroy (c : Cmd) (index : BitVec 14) (force : Bool) (s : State) : Res :=
  runVerb c (withParams c 8 [] (destroyObj c true index force)) s

/-! ## Signalling and waiting (R498–R502) -/

/-- SYNC.SIGNAL (R502): the signal is applied before the record is written. -/
def execSyncSignal (c : Cmd) (s : State) : Res :=
  runVerb c (withParams c 0 [] (fun s =>
    if !c.hdr.signalValid then .now (Reply.bad 20) s
    else .now (Reply.st stOk) (signalOrDrop c.hdr.signalObj c.hdr.signalValue.toNat (whoOf s c) s))) s

/-- SYNC.WAIT (R502): it completes at its admission. -/
def execSyncWait (c : Cmd) (s : State) : Res :=
  runVerb c (withParams c 0 [] (fun s => if !c.hdr.waitValid then .now (Reply.bad 22) s else .now (Reply.st stOk) s)) s

/-- The refusal of a SIGNAL message (R516). DESIGN CHOICE (entry 94): the check of a fenced sender comes before that of the reserved fields. -/
def signalMsgStatus (s : State) (m : Msg) (i : BitVec 14) (rsv : Bool) : Option Reply :=
  if isFenced s m.vnode m.sender ∨ (vn s m.vnode).fenced then some (Reply.st stFenced)
  else if rsv then some Reply.badAny
  else match objAt s i with
    | none => some (Reply.bad 20)
    | some o =>
      if o.vnode ≠ m.vnode then some (Reply.st stDenied)
      else if o.kind = .barrier then some (Reply.bad 20)
      else if o.failed then some ⟨stUncorrectable, BitVec.ofNat 16 i.toNat, none, 0, 0, 0, []⟩
      else none

/-- SIGNAL (R516): a reply is written where the message names an address; without one, a signal to a FAILED object is dropped under R503
(R520). -/
def execSignal (m : Msg) (index : BitVec 14) (value : BitVec 64) (tag : BitVec 32) (rsv : Bool) (s : State) : Res :=
  onMsg m opSync (syncReads 1 index 0 value.toNat tag rsv) (fun s =>
    if !(hasPeer s m.vnode m.sender) then rejectMsg m.vnode m.sender m.qpn m.msn stDenied s
    else
      let reply (r : Reply) (s : State) : State :=
        if m.addr = 0 then s
        else sendReply m.vnode m.qpn m.sender m.addr m.key none (replyBytes s m.vnode tag opSyncSignal r) s
      let who := identity 2 m.qpn.toNat m.sender.toNat tag.toNat
      match signalMsgStatus s m index rsv with
      | some r =>
        if m.addr = 0 ∧ r.status = stUncorrectable then dropSignal index who s else reply r (countRefusal m.vnode r s)
      | none => settle (reply (Reply.st stOk) (applySignal index value.toNat who s))) s

/-! ## Barriers (R510–R518) -/

/-- Whether two children of a list are equal. -/
def anyEqual {α : Type} [DecidableEq α] : List α → Bool
  | [] => false
  | x :: r => decide (x ∈ r) || anyEqual r

/-- The place of the first element that equals an earlier one. -/
def firstEqual {α : Type} [DecidableEq α] (seen : List α) : List α → Nat
  | [] => 0
  | x :: r => if x ∈ seen then 0 else 1 + firstEqual (seen ++ [x]) r

/-- Whether word 1 of a barrier block is zero (R510). -/
def noParent (p : BarrierBlk) : Bool := decide (p.parent = ⟨0, 0, 0⟩)

/-- BARRIER.CREATE (R510). -/
def execBarrierCreate (c : Cmd) (p : BarrierBlk) (s : State) : Res :=
  runVerb c (withParams c (32 + 8 * p.childCount.toNat)
      [(badVector p.msix, 64 + 2), (decide (16 < p.childCount.toNat), 64 + 3),
       (decide (p.parties.toNat + p.childCount.toNat = 0), 64 + 4), (p.root && !(noParent p), 72), (badNode p.parent.node, 78),
       (p.children.any (fun k => badNode k.node), 102 + 8 * (p.children.takeWhile (fun k => !(badNode k.node))).length),
       (anyEqual p.children, 96 + 8 * firstEqual [] p.children)] (fun s =>
    createObj c p.index (freshObj .barrier p.msix.toNat 0
      (some ⟨p.parties.toNat, p.root, p.parent, p.children⟩)) s)) s

/-- A barrier's quota (R510). -/
def quota (o : SyncObj) : Nat :=
  match o.barrier with
  | some b => b.parties + b.children.length
  | none => 0

/-- The tree links of a barrier. -/
def links (o : SyncObj) : BarrierCfg := o.barrier.getD ⟨0, true, ⟨0, 0, 0⟩, []⟩

/-- Send a tree message over a link (R514, R515). -/
def sendTree (release : Bool) (k : TreeLink) (i : BitVec 14) (phase : BitVec 48) (s : State) : State :=
  sendOn k.qpn false (headOf s (vnodeOfQpn s k.qpn) opSync 0 0 0 32) (syncBytes (if release then 3 else 2) k.index i phase.toNat 0)
    (emit (.tree release k.qpn k.node k.index i phase) s)

/-- Complete the present phase of a barrier (R514 steps 1 to 5). -/
def completePhase (i : BitVec 14) (o : SyncObj) (s : State) : State :=
  let g := o.value
  let s := updObj i (fun o => { o with value := (g + 1) % 2 ^ 48, arrived := o.nextArrived, nextArrived := 0, pending := false }) s
  let s := releaseWaiters i s
  let s := (links o).children.foldl (fun s k => sendTree true k i (BitVec.ofNat 48 g) s) s
  let s := bump .barrierPhases s
  if o.msix ≠ 0 then raise o.msix s else s

/-- Act on a full barrier (R514), and again where the next phase is full already. -/
def actBarrier (fuel : Nat) (i : BitVec 14) (s : State) : State :=
  match fuel with
  | 0 => s
  | k + 1 =>
    match objAt s i with
    | none => s
    | some o =>
      if o.arrived < quota o ∨ o.pending then s
      else if (links o).root then actBarrier k i (completePhase i o s)
      else
        let p := (links o).parent
        sendTree false p i (BitVec.ofNat 48 o.value) (updObj i (fun o => { o with pending := true }) s)

/-- Count an arrival of a sense (R512): the generation that completes its phase, or none where it is not accepted. -/
def arrivalPhase (o : SyncObj) (sense : Nat) : Option Nat :=
  if sense = o.value % 2 ∧ !o.pending ∧ o.arrived < quota o then some ((o.value + 1) % 2 ^ 48)
  else if sense ≠ o.value % 2 ∧ o.pending ∧ o.nextArrived < quota o then some ((o.value + 2) % 2 ^ 48)
  else none

/-- Count an accepted arrival. -/
def countArrival (i : BitVec 14) (who : BitVec 64) (s : State) : State :=
  updObj i (fun o =>
    let o := { o with lastSignaller := who, lastSignalNs := s.pw.uptime }
    if o.pending then { o with nextArrived := o.nextArrived + 1 } else { o with arrived := o.arrived + 1 }) s

/-- BARRIER.ARRIVE (R511, R512). -/
def execBarrierArrive (c : Cmd) (index : BitVec 14) (sense nowait : Bool) (timeoutUs : BitVec 32) (s : State) : Res :=
  let t := timeoutUs.toNat
  runVerb c (withParams c 8 [(if nowait then decide (t ≠ 0) else decide (t < 1) || decide (60000000 < t), 64)] (fun s =>
    match objAt s index with
    | none => .refuse stMiss s
    | some o =>
      if foreignObj s c index ∨ o.kind ≠ .barrier then .refuse stDenied s
      else if o.failed then .now ⟨stUncorrectable, BitVec.ofNat 16 index.toNat, none, 0, 0, 0, []⟩ s
      else match arrivalPhase o (b2n sense) with
        | none => .refuse stDenied (bump .barrierRefusals s)
        | some g =>
          let ok : Reply := ⟨stOk, 0, none, 0, BitVec.ofNat 64 g, 0, []⟩
          if nowait then .now ok (actBarrier 2 index (countArrival index (whoOf s c) s))
          else if waiterRoom ≤ s.sync.waiters.length then .now Reply.waiterFull (bump .waiterTableFull s)
          else
            let s := addWaiter index (whoOf s c) g t (.arrival c) s
            .later (settle (actBarrier 2 index (countArrival index (whoOf s c) s))))) s

/-- Drop a tree message (R517). -/
def rejectTree (m : Msg) (i : BitVec 14) (s : State) : State :=
  logFrom m.vnode 0x0B06 srcSync [(16, i.toNat), (16, m.sender.toNat)] (bump .treeRejects s)

/-- The identity of the sender of a tree message (R495). -/
def treeWho (m : Msg) (fromIndex : BitVec 14) : BitVec 64 := identity 3 m.qpn.toNat m.sender.toNat fromIndex.toNat

/-- Whether a message came over a tree link. -/
def overLink (m : Msg) (fromIndex : BitVec 14) (k : TreeLink) : Bool :=
  decide (k.node = m.sender) && decide (k.index = fromIndex) && decide (k.qpn = m.qpn)

/-- TREE_ARRIVE (R514, R517): a child's full phase counts as one arrival. -/
def execTreeArrive (m : Msg) (index fromIndex : BitVec 14) (phase : BitVec 48) (rsv : Bool) (s : State) : Res :=
  onMsg m opSync (syncReads 2 index fromIndex phase.toNat 0 rsv) (fun s =>
    match objAt s index with
    | none => rejectTree m index s
    | some o =>
      if o.failed then dropSignal index (treeWho m fromIndex) s
      else if rsv ∨ o.vnode ≠ m.vnode ∨ isFenced s m.vnode m.sender ∨ o.barrier.isNone
          ∨ !((links o).children.any (overLink m fromIndex))
          ∨ (arrivalPhase o (phase.toNat % 2)).isNone then rejectTree m index s
      else settle (actBarrier 2 index (countArrival index (treeWho m fromIndex) s))) s

/-- TREE_RELEASE (R514, R517): the parent's release of the pending phase. -/
def execTreeRelease (m : Msg) (index fromIndex : BitVec 14) (phase : BitVec 48) (rsv : Bool) (s : State) : Res :=
  onMsg m opSync (syncReads 3 index fromIndex phase.toNat 0 rsv) (fun s =>
    match objAt s index with
    | none => rejectTree m index s
    | some o =>
      if o.failed then dropSignal index (treeWho m fromIndex) s
      else if rsv ∨ o.vnode ≠ m.vnode ∨ isFenced s m.vnode m.sender ∨ o.barrier.isNone ∨ (links o).root
          ∨ !(overLink m fromIndex (links o).parent) ∨ !o.pending ∨ phase.toNat ≠ o.value then rejectTree m index s
      else settle (actBarrier 2 index (completePhase index o s))) s

/-- A barrier whose queue pair enters ERROR fails (R518). -/
def failBarrier (i : BitVec 14) (s : State) : State :=
  let s := updObj i (fun o => { o with failed := true }) s
  let s := endWaiters stAborted (waitersOf s i) s
  logFrom 0 0x0B05 srcSync [] (bump .treeFailures s)

/-- The barriers that name a queue pair fail when it enters ERROR (R518). -/
def failBarriersOf (q : BitVec 12) (s : State) : State :=
  (s.sync.objs.filter (fun o => !o.2.failed && (match o.2.barrier with
    | some b => (!b.root && decide (b.parent.qpn = q)) || b.children.any (fun k => decide (k.qpn = q))
    | none => false))).foldl (fun s o => failBarrier o.1 s) s

/-- A double-bit error in an object's storage fails it (R520). -/
def failObject (i : BitVec 14) (s : State) : State :=
  if (objAt s i).isNone then s
  else
    let s := updObj i (fun o => { o with failed := true }) s
    let s := endWaiters stUncorrectable (waitersOf s i) s
    logFrom 0 0x0B02 srcSync [] (bump .syncObjUe s)

/-- WAIT_TIMEOUT (R507, R513): the waiting command ends, and an arrival stays counted. -/
def execWaitTimeout (waiter : Nat) (s : State) : Res :=
  onNode (fun s =>
    match s.sync.waiters.find? (fun w => w.id = waiter) with
    | none => s
    | some w =>
      let o := (objAt s w.index).getD (freshObj .counter 0 0 none)
      let value : List (Nat × Nat) := match w.wf with
        | .arrival _ => [(64, o.value), (16, o.arrived), (16, o.nextArrived)]
        | _ => [(64, objValue o)]
      let s := bump .syncTimeouts (dropWaiter waiter s)
      let s := logFrom 0 0x0B01 srcSync ([(16, w.index.toNat), (8, o.kind.code), (64, w.who.toNat), (64, w.value)] ++ value) s
      settle (endWaiter w stTimeout s)) s

/-! ## Inspection and setting by hand (R521–R526) -/

/-- SYNC.READ (R521); over the fabric it reads no other virtual node's objects (R527). -/
def execSyncRead (c : Cmd) (first : BitVec 14) (count : BitVec 15) (s : State) : Res :=
  runVerb c (withParams c 8 [(decide (count.toNat < 1) || decide (16384 < count.toNat), 64 + 4),
      (decide (16384 < first.toNat + count.toNat), noField)] (fun s =>
    let is := (List.range count.toNat).map (fun k => BitVec.ofNat 14 (first.toNat + k))
    if is.any (foreignObj s c) then .refuse stDenied s
    else .now (Reply.ofResult count.toNat (is.flatMap (objRecord s))) s)) s

/-- Waiters in order of index and then of queueing. -/
def waitersByIndex (s : State) : List Waiter :=
  sortBy (fun a b => decide (a.index.toNat ≤ b.index.toNat)) s.sync.waiters

/-- SYNC.DUMP (R522, R523): a freeze moves every deadline later by its length. -/
def execSyncDump (c : Cmd) (freeze : Bool) (freezeNs : BitVec 32) (s : State) : Res :=
  runVerb c (withParams c 8 [] (fun s =>
    if freeze ∧ !(debugOpenOf s c) then .refuse stDenied s
    else
      let bytes := (List.range 16384).flatMap (fun k => objRecord s (BitVec.ofNat 14 k)) ++ (waitersByIndex s).flatMap waiterRecord
      let n := 16384 + s.sync.waiters.length
      let s' := if freeze then
          let s := { s with sync := { s.sync with waiters := s.sync.waiters.map (fun w =>
            { w with deadline := w.deadline + min 300000 freezeNs.toNat }) } }
          logFrom 0 0x0B07 srcSync [(64, min 300000 freezeNs.toNat / 1000)] (bump .syncFreezes s)
        else s
      .now (Reply.ofResult n bytes) s')) s

/-- The value that SET_VALUE gives an object (R526), its waiters released. -/
def setObj (i : BitVec 14) (value : Nat) (s : State) : State :=
  let who := identity 4 0 (vn s 0).nodeId.toNat 0
  let s := updObj i (fun o =>
    let o := { o with lastSignaller := who, lastSignalNs := s.pw.uptime }
    match o.kind with
    | .counter => { o with value := value }
    | .event => { o with value := value % 2 }
    | .barrier => { o with value := value % 2 ^ 48, arrived := 0, nextArrived := 0, pending := false }) s
  releaseWaiters i s

/-- Perform an action of R526 on an object that is not FREE: it is counted and logged with the old VALUE. -/
def performSet (i : BitVec 14) (action value : Nat) (o : SyncObj) (s : State) : State :=
  let s := bump .syncSetWrites s
  let s := logFrom 0 0x0B04 srcSync [(16, i.toNat), (8, action), (64, value), (64, objValue o)] s
  if action = 0 then setObj i value s
  else if action = 1 then updObj i (fun o => { o with overruns := 0 }) s
  else endWaiters stAborted (waitersOf s i) s

/-- SYNC.SET (R526). -/
def execSyncSet (c : Cmd) (index : BitVec 14) (action : BitVec 2) (value : BitVec 64) (s : State) : Res :=
  runVerb c (withParams c 16 [(decide (action = 3), 64 + 6)] (fun s =>
    if !(debugOpenOf s c) then .refuse stDenied (bump .syncSetRefused s)
    else match objAt s index with
      | none => .refuse stMiss s
      | some o => .now (Reply.st stOk) (performSet index action.toNat value.toNat o s))) s

/-- A write of SYNC_SET_CTRL (R524, R526): refused and flagged while the debug lock is closed. -/
def setCtrl (i : BitVec 14) (action : Nat) (reserved : Bool) (s : State) : State :=
  if reserved ∨ !s.mgmt.debugLockOpen then
    bump .syncSetRefused { s with sync := { s.sync with refused := true } }
  else match objAt s i with
    | none => s
    | some o => settle (performSet i action s.sync.setValue.toNat o s)

/-- SET_VALUE (R526). -/
def execSetValue (index : BitVec 14) (s : State) : Res := onNode (setCtrl index 0 false) s

/-- CLEAR_OVERRUNS (R526). -/
def execClearOverruns (index : BitVec 14) (s : State) : Res := onNode (setCtrl index 1 false) s

/-- ABORT_WAITERS (R526); ACTION 3 is ignored with REFUSED set. -/
def execAbortWaiters (index : BitVec 14) (reservedAction : Bool) (s : State) : Res :=
  onNode (setCtrl index 2 reservedAction) s

/-- SYNC_SEL (R524): the write latches a snapshot of the object's record. -/
def execSyncSel (index : BitVec 14) (s : State) : Res :=
  onNode (fun s => { s with sync := { s.sync with sel := index, snapshot := objRecord s index } }) s

/-- SYNC_SET_STATUS (R524): a read returns REFUSED and clears it. -/
def execSyncSetStatus (s : State) : Res :=
  onNode (fun s => emit (.regRead (if s.sync.refused then 1 else 0)) { s with sync := { s.sync with refused := false } }) s

end Sys2Proof.Machine
end

