-- ==== Sys2Proof/Machine/Qp.lean ====
section
/-! DEFINITION. Queue pairs: their contexts, packets and acknowledgements, reassembly, and the headrace (R344–R363). -/

namespace Sys2Proof.Machine

/-- Distance of a PSN above another, modulo 2^32. -/
def psnDist (a b : BitVec 32) : Nat := (a - b).toNat

/-! ## Contexts (R344–R347) -/

/-- Enter ERROR (R346, R347): what is partly reassembled and what is not acknowledged is abandoned, and the barriers that name
the queue pair fail (R518). -/
def qpError (q : BitVec 12) (cause : Nat) (s : State) : State :=
  match qpAt s q with
  | none => s
  | some x =>
    if x.state ≠ .ready then s
    else
      let s := updQp q (fun x => { x with state := .error, msgs := [], unacked := [], unsent := [] }) s
      let v := vnodeOfQpn s q
      let s := logFrom v 0x0801 srcFabric [(16, q.toNat), (8, cause)] (bumpV .qpErrors v s)
      failBarriersOf q s

/-- Every READY queue pair of a virtual node whose peer has lost its peer table entry enters ERROR. -/
def dropPeerQps (v : VId) (n : NodeId) (s : State) : State :=
  (s.fab.qps.map Prod.fst).foldl (fun s q =>
    if vnodeOfQpn s q = v ∧ (qpAt s q).map Qp.peer = some n then qpError q 3 s else s) s

/-- The fields of NODE.QP_CREATE that fail (R344), with their packet offsets. -/
def qpCreateFails (p : QpCreateBlk) : List (Bool × Nat) :=
  [(badNode p.peerNode, 66),
   (decide (p.retxUs ≠ 0) && (decide (p.retxUs.toNat < 10) || decide (10000 < p.retxUs.toNat)), 84),
   (decide (1000 < p.stallUs.toNat) && decide (p.stallUs ≠ 0xFFFF), 86)]

/-- The rate of the ports that a peer's entry names (R354). -/
def peerRate (s : State) (v : VId) (n : NodeId) : Nat :=
  match (vn s v).peers.at? n with
  | some e => (((List.range 17).filter (fun p => e.portMask.getLsbD p && portOk s (BitVec.ofNat 5 p))).map (portRate s)).foldl (· + ·) 0
  | none => 0

/-- A context just created. -/
def qpNew (s : State) (v : VId) (p : QpCreateBlk) : Qp where
  state := .ready
  peer := p.peerNode
  peerQpn := p.peerQpn
  dscp := p.dscp
  entropies := p.entropyM1.toNat + 1
  retxLimit := if p.retxLimit = 0 then 7 else p.retxLimit.toNat
  retxUs := if p.retxUs = 0 then 100 else p.retxUs.toNat
  stallUs := if p.stallUs = 0xFFFF then s.knobs.promoteStallUs else p.stallUs.toNat
  ePsn := p.rxPsn
  received := []
  newSince := 0
  ceSeen := false
  lastDupAck := none
  msgs := []
  nextMsn := 0
  txPsn := p.txPsn
  txMsn := 0
  unacked := []
  unsent := []
  timerUs := if p.retxUs = 0 then 100 else p.retxUs.toNat
  timeouts := 0
  entropyNext := 0
  suspended := []
  expiries := []
  rate := peerRate s v p.peerNode
  lastCut := none
  rnrWaitUs := 0
  heldAt := 0

/-- Whether a queue pair number is one of a virtual node's (R378). -/
def qpnIn (s : State) (v : VId) (q : BitVec 12) : Bool := decide (vnodeOfQpn s q = v)

/-- NODE_QP_CREATE (R344, R346, R347). -/
def execNodeQpCreate (c : Cmd) (p : QpCreateBlk) (s : State) : Res :=
  runVerb c (withParams c 32 (qpCreateFails p ++ [(!(qpnIn s (vnodeOf s c) p.qpn), 70)]) (fun s =>
    let v := vnodeOf s c
    match qpAt s p.qpn with
    | some x =>
      if x.state = .hold then
        let left := x.heldAt + 4000000000 - s.pw.uptime
        .now (Reply.retry (min 65535 (ceilDiv left 1000))) s
      else .refuse stDenied s
    | none =>
      if !(hasPeer s v p.peerNode) then .refuse stDenied s
      else .now (Reply.st stOk) { s with fab := { s.fab with qps := s.fab.qps.put p.qpn (qpNew s v p) } })) s

/-- NODE_QP_DESTROY (R346, R460): the context is cleared and held. -/
def execNodeQpDestroy (c : Cmd) (qpn : BitVec 12) (s : State) : Res :=
  runVerb c (withParams c 8 [(!(qpnIn s (vnodeOf s c) qpn), 70)] (fun s =>
    match qpAt s qpn with
    | none => .refuse stMiss s
    | some x =>
      if x.state = .hold then .refuse stDenied s
      else
        let cleared : Qp := { qpNew s 0 ⟨0, 0, 0, 0, 0, 0, 0, 0, 0, 0⟩ with state := .hold, heldAt := s.pw.uptime, rate := 0 }
        .now (Reply.st stOk) (updQp qpn (fun _ => cleared) s))) s

/-- QP_HOLD_EXPIRY (R346): 4 s have passed. -/
def execQpHoldExpiry (qpn : BitVec 12) (s : State) : Res :=
  onNode (fun s =>
    if (qpAt s qpn).map Qp.state = some .hold then { s with fab := { s.fab with qps := s.fab.qps.del qpn } } else s) s

/-- QP_RETRY_EXHAUSTED (R346): a packet stands unacknowledged 2 s after its first sending, or its timeouts are spent. -/
def execQpRetryExhausted (qpn : BitVec 12) (s : State) : Res :=
  onNode (fun s => settle (match qpAt s qpn with
    | some x => if x.state = .ready ∧ !x.unacked.isEmpty then qpError qpn 1 s else s
    | none => s)) s

/-! ## Acknowledgements (R349, R350) -/

/-- The runs of received PSNs above ePSN, nearest first, at most eight (R349). -/
def sackRuns (e : BitVec 32) (ps : List (BitVec 32)) : List (BitVec 32 × BitVec 16) :=
  let ds := (sortBy (fun a b => decide (a ≤ b)) (ps.map (fun p => psnDist p e)))
  let runs := ds.foldl (fun (acc : List (Nat × Nat)) d => match acc with
    | (a, n) :: r => if a + n = d ∧ n < 65535 then (a, n + 1) :: r else (d, 1) :: acc
    | [] => [(d, 1)]) []
  (runs.reverse.take 8).map (fun r => (e + BitVec.ofNat 32 r.1, BitVec.ofNat 16 r.2))

/-- An acknowledgement as it leaves (R339, R349): an ACK carries no PSN and no MSN. -/
def ackPktOf (s : State) (v : VId) (b : Bth) (cum : BitVec 32) (syndrome : Nat) (ece : Bool) (rnrUs : Nat) (runs : List (BitVec 32 × BitVec 16)) :
    AckPkt :=
  ⟨{ b with vnode := v, lastPkt := false, ackReq := false, srcNode := (vn s v).nodeId, psn := 0, msn := 0, pktIndex := 0, malformed := false },
    cum, BitVec.ofNat 4 syndrome, ece, BitVec.ofNat 16 (min 65535 rnrUs), runs, false⟩

/-- The bytes of an ACK packet. -/
def ackPktBytes (p : AckPkt) : List Byte := bthBytes p.bth pktAck (ackBytes p).length ++ ackBytes p

/-- Send an acknowledgement of a queue pair: it covers every packet received so far, and takes the next entropy value in turn (R355). -/
def sendAck (q : BitVec 12) (syndrome rnrUs : Nat) (s : State) : State :=
  match qpAt s q with
  | none => s
  | some x =>
    let v := vnodeOfQpn s q
    let e := entropyFrom x x.entropyNext
    let p := ackPktOf s v ⟨v, false, false, BitVec.ofNat 6 e, x.peer, 0, x.peerQpn, q, 0, 0, 0, false⟩ x.ePsn syndrome x.ceSeen rnrUs
      (sackRuns x.ePsn x.received)
    sendPacketTo v x.peer (onTwinLink s v x.peer) x.dscp e q (ackPktBytes p) (fun port f => .ackPkt port p f)
      (updQp q (fun x => { x with newSince := 0, ceSeen := false, entropyNext := nextEntropy x e }) s)

/-- Answer a DATA packet that no READY context of its sender takes (R347, R350). DESIGN CHOICE (entry 116): without a context its DSCP and
entropy value are 0. -/
def ackInvalid (b : Bth) (s : State) : State :=
  let r := takeFree s
  let v := b.vnode
  let p := ackPktOf s v { b with entropy := 0, dstNode := b.srcNode, dstQpn := b.srcQpn, srcQpn := b.dstQpn } (BitVec.ofNat 32 r.1) 2 false 0 []
  sendPacketTo v b.srcNode (onTwinLink s v b.srcNode) 0 0 b.dstQpn (ackPktBytes p) (fun port f => .ackPkt port p f) r.2

/-- ACK_TIMER (R349): 1 µs since the first new packet that is not acknowledged. -/
def execAckTimer (qpn : BitVec 12) (s : State) : Res :=
  onNode (fun s => match qpAt s qpn with
    | some x => if x.state = .ready ∧ 0 < x.newSince then sendAck qpn 0 0 s else s
    | none => s) s

/-! ## Reassembly (R356–R358) -/

/-- Pages of the reassembly store that a queue pair occupies: one for each packet placed and not discarded. -/
def pagesOfQp (x : Qp) : Nat :=
  x.msgs.foldl (fun n m => if m.2.refused.isSome then n else n + m.2.pieces.length) 0

/-- Pages of the store in use: 8,192 of 4 KiB in all. -/
def reasmPages (s : State) : Nat := s.fab.qps.foldl (fun n q => n + pagesOfQp q.2) 0

/-- Whether a packet finds a page (R358). -/
def reasmRoom (s : State) (x : Qp) : Bool :=
  decide (pagesOfQp x < s.knobs.reasmQpMaxKib / 4) && decide (reasmPages s < 8192)

/-- Whether an operation is accepted from a sender (R362). -/
def opAccepted (s : State) (v : VId) (n : NodeId) (op : Nat) : Bool :=
  if op = opWrite then true
  else if op = opPeer ∨ op = opReadReq ∨ op = opReadResp then (memberState s v n).isSome
  else hasPeer s v n

/-- A message with a packet placed. -/
def RxMsg.place (m : RxMsg) (p : DataPkt) : RxMsg where
  head := match p.head with
    | some h => if p.bth.pktIndex = 0 then some h else m.head
    | none => m.head
  pieces := m.pieces.put p.bth.pktIndex.toNat (if m.refused.isSome then [] else p.payload)
  lastIx := if p.bth.lastPkt then some p.bth.pktIndex.toNat else m.lastIx
  refused := m.refused

/-- Whether every packet of a message has come (R356). -/
def RxMsg.whole (m : RxMsg) : Bool :=
  match m.lastIx, m.head with
  | some l, some _ => (List.range (l + 1)).all (fun k => m.pieces.has k)
  | _, _ => false

/-- The payload of a message, its packets in order. -/
def RxMsg.payload (m : RxMsg) : List Byte :=
  match m.lastIx with
  | some l => (List.range (l + 1)).flatMap (fun k => m.pieces.atD k [])
  | none => []

/-- The refusal that a packet brings on its message (R357), given the message before and after its placement. -/
def refusalOf (s : State) (v : VId) (sender : NodeId) (before after : RxMsg) (p : DataPkt) : Option Status :=
  let k := p.bth.pktIndex.toNat
  let otherLast : Bool := match before.lastIx with
    | some l => p.bth.lastPkt && decide (l ≠ k)
    | none => false
  let past : Bool := match after.lastIx with
    | some l => after.pieces.any (fun x => decide (l < x.1))
    | none => false
  if otherLast ∨ past ∨ (!p.bth.lastPkt ∧ p.payload.length < 4096) then some stBadParam
  else match p.head, after.head with
    | some h, _ =>
      if h.rsv ∨ h.op.toNat < 1 ∨ 8 < h.op.toNat ∨ h.msgLen.toNat < 1 ∨ 1048576 < h.msgLen.toNat then some stBadParam
      else if !(opAccepted s v sender h.op.toNat) then some stDenied
      else if after.whole ∧ after.payload.length ≠ h.msgLen.toNat then some stBadParam
      else none
    | none, some h => if after.whole ∧ after.payload.length ≠ h.msgLen.toNat then some stBadParam else none
    | none, none => none

/-- Advance ePSN past every received PSN directly above it (R348). -/
def advance (fuel : Nat) (e : BitVec 32) (ps : List (BitVec 32)) : BitVec 32 × List (BitVec 32) :=
  match fuel with
  | 0 => (e, ps)
  | k + 1 => if e ∈ ps then advance k (e + 1) (ps.filter (fun p => p ≠ e)) else (e, ps)

/-- Mark a PSN received. -/
def Qp.mark (x : Qp) (psn : BitVec 32) : Qp :=
  let ps := x.received ++ [psn]
  let r := advance ps.length x.ePsn ps
  { x with ePsn := r.1, received := r.2 }

/-- Place a new packet, refuse its message where a rule meets it, and mark it received. -/
def placePkt (v : VId) (p : DataPkt) (s : State) : State :=
  let q := p.bth.dstQpn
  match qpAt s q with
  | none => s
  | some x =>
    let before := x.msgs.atD p.bth.msn ⟨none, [], none, none⟩
    let after := before.place p
    let r : Option Status := if before.refused.isSome then none else refusalOf s v p.bth.srcNode before after p
    let after : RxMsg := match r with
      | some st => { after with refused := some st, pieces := after.pieces.map (fun y => (y.1, [])) }
      | none => after
    let s := updQp q (fun x => { x.mark p.bth.psn with
      newSince := x.newSince + 1
      ceSeen := x.ceSeen || p.ce
      msgs := x.msgs.put p.bth.msn after }) s
    match r with
    | some st => rejectMsg v p.bth.srcNode q p.bth.msn st s
    | none => s

/-- Acknowledge a duplicate, at most once in a microsecond (R349). -/
def ackDup (q : BitVec 12) (s : State) : State :=
  match qpAt s q with
  | none => s
  | some x =>
    let recent : Bool := match x.lastDupAck with
      | some t => decide (s.pw.uptime < t + 1000)
      | none => false
    if recent then s else sendAck q 0 0 (updQp q (fun x => { x with lastDupAck := some s.pw.uptime }) s)

/-- Classify a packet by its PSN and act on it (R348). -/
def takeData (v : VId) (x : Qp) (p : DataPkt) (s : State) : State :=
  let q := p.bth.dstQpn
  let d := psnDist p.bth.psn x.ePsn
  if (d < 65536 ∧ p.bth.psn ∈ x.received) ∨ 2 ^ 32 - 65536 ≤ d then
    let s := bumpV .dupPackets v (updQp q (fun x => { x with ceSeen := x.ceSeen || p.ce }) s)
    if p.bth.ackReq then sendAck q 0 0 s else ackDup q s
  else if 65536 ≤ d then bumpV .outOfWindow v s
  else
    let refused : Bool := ((x.msgs.at? p.bth.msn).bind RxMsg.refused).isSome
    if !refused && !(reasmRoom s x) then
      let e := takeEstimate s
      sendAck q 1 (max 1 e.1) (bumpV .rnrDrops v e.2)
    else
      let s := placePkt v p s
      if p.bth.ackReq ∨ 16 ≤ ((qpAt s q).map Qp.newSince).getD 0 then sendAck q 0 0 s else s

/-- Whether a header breaks R339, or the packet's length its PAYLOAD_LEN (R340). -/
def dataMalformed (p : DataPkt) : Bool :=
  p.bth.malformed || decide (4096 < p.payload.length) || (decide (p.bth.pktIndex = 0) && p.head.isNone)

/-- Whether an association with an endpoint exists, on either path: a frame of another is dropped (R364). -/
def associated (s : State) (v : VId) (n : NodeId) : Bool := (assocAt s v n false).isSome || (assocAt s v n true).isSome

/-- DATA (R348). -/
def execData (p : DataPkt) (s : State) : Res :=
  onNode (fun s =>
    let b := p.bth
    if dataMalformed p then bumpV .pktMalformed b.vnode s
    else if !(talks s b.vnode) then bumpV .framesDropped b.vnode s
    else if !(associated s b.vnode b.srcNode) then bumpV .macsecNoSa b.vnode s
    else match qpAt s b.dstQpn with
      | none => ackInvalid b s
      | some x =>
        if !(qpnIn s b.vnode b.dstQpn) ∨ x.state ≠ .ready ∨ x.peer ≠ b.srcNode ∨ x.peerQpn ≠ b.srcQpn ∨ b.dstNode ≠ (vn s b.vnode).nodeId then ackInvalid b s
        else takeData b.vnode x p s) s

/-! ## The sender's side of acknowledgements (R351–R355) -/

/-- Whether an acknowledgement covers a PSN: it lies below CUM_PSN or inside a block. -/
def covers (a : AckPkt) (psn : BitVec 32) : Bool :=
  (decide (psn ≠ a.cumPsn) && decide (psnDist a.cumPsn psn ≤ 65536)) ||
    a.blocks.any (fun b => decide (psnDist psn b.1 < b.2.toNat))

/-- How far above a PSN an acknowledgement reports a received one. -/
def reportedAbove (a : AckPkt) (psn : BitVec 32) : Nat :=
  (a.blocks.map (fun b => psnDist (b.1 + BitVec.ofNat 32 (b.2.toNat - 1)) psn)).foldl (fun m d =>
    if d ≤ 65536 then max m d else m) 0

/-- Resend the packets of a queue pair that satisfy a test, and change their marks; no packet goes out more than 2 s after its
first sending (R352). -/
def resendWhere (q : BitVec 12) (p : TxPkt → Bool) (mark : TxPkt → TxPkt) (s : State) : State :=
  match qpAt s q with
  | none => s
  | some x =>
    let v := vnodeOfQpn s q
    let out := x.unacked.filter (fun t => p t && decide (s.pw.uptime ≤ t.firstSent + 2000000000)
      && (txSa s v x.peer (byTwin s v x t.data)).isSome)
    let s := updQp q (fun x => { x with unacked := x.unacked.map (fun t =>
      if t ∈ out then { mark t with entropy := entropyFrom x t.entropy } else t) }) s
    out.foldl (fun s t => sendData q x t.data t.psn (entropyFrom x t.entropy) true (bumpV .retransmits v s)) s

/-- Lower a queue pair's rate by one eighth, at most once in 10 µs (R354). -/
def cutRate (q : BitVec 12) (s : State) : State :=
  updQp q (fun x =>
    let recent : Bool := match x.lastCut with
      | some t => decide (s.pw.uptime < t + 10000)
      | none => false
    if recent then x else { x with rate := x.rate - x.rate / 8, lastCut := some s.pw.uptime }) s

/-- Take up a positive or RNR acknowledgement. -/
def takeAck (a : AckPkt) (s : State) : State :=
  let q := a.bth.dstQpn
  match qpAt s q with
  | none => s
  | some x =>
    let left := x.unacked.filter (fun t => !(covers a t.psn))
    let progress := decide (left.length < x.unacked.length)
    let s := updQp q (fun x => { x with
      unacked := if a.syndrome = 1 then left.map (fun t => { t with rnr := true }) else left
      rnrWaitUs := if a.syndrome = 1 then a.rnrWaitUs.toNat else x.rnrWaitUs
      timerUs := if progress then x.retxUs else x.timerUs
      timeouts := if progress then 0 else x.timeouts
      expiries := if progress then [] else x.expiries }) s
    let s := if a.ece then cutRate q s else s
    let s := resendWhere q (fun t => !t.gapSent && decide (256 ≤ reportedAbove a t.psn)) (fun t => { t with gapSent := true }) s
    pumpAll q s

/-- ACK (R351): one that reaches a context not READY, or that its peer did not send, is dropped without answer (R347). -/
def execAck (p : AckPkt) (s : State) : Res :=
  onNode (fun s =>
    if p.bth.malformed then bumpV .pktMalformed p.bth.vnode s
    else if !(talks s p.bth.vnode) then bumpV .framesDropped p.bth.vnode s
    else if !(associated s p.bth.vnode p.bth.srcNode) then bumpV .macsecNoSa p.bth.vnode s
    else if p.rsv then s
    else match qpAt s p.bth.dstQpn with
      | none => s
      | some x =>
        if !(qpnIn s p.bth.vnode p.bth.dstQpn) ∨ x.state ≠ .ready ∨ x.peer ≠ p.bth.srcNode ∨ x.peerQpn ≠ p.bth.srcQpn ∨ 1 < p.syndrome.toNat then s
        else takeAck p s) s

/-- Count an expiry for the entropy values of the packets resent, and suspend a value at its third (R355). -/
def countExpiries (q : BitVec 12) (s : State) : State :=
  match qpAt s q with
  | none => s
  | some x =>
    let es := (x.unacked.map TxPkt.entropy).eraseDups
    let counts : Tbl Nat Nat := es.map (fun e => (e, x.expiries.atD e 0 + 1))
    let fresh := (counts.filter (fun c => decide (3 ≤ c.2) && decide (c.1 ∉ x.suspended))).map Prod.fst
    let susp := x.suspended ++ fresh
    let susp := if x.entropies ≤ susp.length then [] else susp
    bumpAt .entropySuspends (vnodeOfQpn s q).toNat fresh.length (updQp q (fun x => { x with
      suspended := susp
      expiries := counts.filter (fun c => decide (c.1 ∉ fresh)) }) s)

/-- RETX_TIMER_EXPIRY (R351, R346): the timer doubles up to 100 ms, and every unacknowledged packet goes out again; the expiry that makes
RETX_LIMIT of them without progress puts the queue pair in ERROR. -/
def execRetxTimerExpiry (qpn : BitVec 12) (s : State) : Res :=
  onNode (fun s => match qpAt s qpn with
    | none => s
    | some x =>
      if x.state ≠ .ready ∨ x.unacked.isEmpty then s
      else if x.retxLimit ≤ x.timeouts + 1 then settle (qpError qpn 1 s)
      else
        let s := countExpiries qpn s
        let s := updQp qpn (fun x => { x with timeouts := x.timeouts + 1, timerUs := min 100000 (2 * x.timerUs) }) s
        resendWhere qpn (fun _ => true) id s) s

/-- RNR_WAIT_EXPIRY (R351). -/
def execRnrWaitExpiry (qpn : BitVec 12) (s : State) : Res :=
  onNode (fun s => match qpAt s qpn with
    | some x => if x.state = .ready then resendWhere qpn (fun t => t.rnr) (fun t => { t with rnr := false }) s else s
    | none => s) s

/-- ENTROPY_SUSPEND_END (R355): 10 ms have passed. -/
def execEntropySuspendEnd (qpn : BitVec 12) (entropy : BitVec 6) (s : State) : Res :=
  onNode (updQp qpn (fun x => { x with suspended := x.suspended.filter (fun e => e ≠ entropy.toNat) })) s

/-- RATE_INCREASE (R354): 20 µs without an ECE. -/
def execRateIncrease (qpn : BitVec 12) (s : State) : Res :=
  onNode (fun s => match qpAt s qpn with
    | some x =>
      if x.state = .ready then
        updQp qpn (fun x => { x with rate := min (peerRate s (vnodeOfQpn s qpn) x.peer) (x.rate + 5000) }) s
      else s
    | none => s) s

/-! ## The headrace (R359, R361) -/

/-- A context past the refused messages at the head of its order. -/
def Qp.skip (fuel : Nat) (x : Qp) : Qp :=
  match fuel with
  | 0 => x
  | k + 1 =>
    if ((x.msgs.at? x.nextMsn).bind RxMsg.refused).isSome then
      Qp.skip k { x with
        nextMsn := x.nextMsn + 1
        msgs := if ((x.msgs.at? x.nextMsn).map RxMsg.whole).getD false then x.msgs.del x.nextMsn else x.msgs }
    else x

/-- The next message of a context past its refused ones. -/
def Qp.skipAll (x : Qp) : Qp := x.skip x.msgs.length

/-- The message that a READY context, past its refused ones, may send into the headrace: its next one, where it is complete (R359). -/
def Qp.due (x : Qp) : Option (MsgHead × RxMsg) :=
  match x.msgs.at? x.nextMsn with
  | some m => if x.state = .ready ∧ m.whole ∧ m.refused.isNone then m.head.map (fun h => (h, m)) else none
  | none => none

/-- Whether a message goes first in the headrace (R361): PEER and SYNC. -/
def goesFirst (h : MsgHead) : Bool := decide (h.op.toNat = opPeer) || decide (h.op.toNat = opSync)

/-- How long ago a queue pair had its turn: the lower, the longer. -/
def turnOf (s : State) (q : BitVec 12) : Nat := if q ∈ s.fab.turns then (s.fab.turns.takeWhile (fun t => t ≠ q)).length + 1 else 0

/-- Whether a queue pair has its turn (R361): no other has a complete message that goes first where its own does not, and none of its own kind has
waited longer for its turn. -/
def hasTurn (s : State) (q : BitVec 12) (h : MsgHead) : Bool :=
  s.fab.qps.all (fun y => decide (y.1 = q) || (match y.2.skipAll.due with
    | some (g, _) => if goesFirst g = goesFirst h then decide (turnOf s q ≤ turnOf s y.1) else goesFirst h
    | none => true))

/-- The code of a PEER operation in a message's payload (R391). -/
def peerOpOf (payload : List Byte) : Nat := bitsOf (wordAt payload 0) 63 56

/-- Whether a code is an operation of R392, or one of the node's own for a message that R392 does not list. -/
def peerOpKnown (op : Nat) : Bool :=
  decide (op ∈ [0x01, 0x02, 0x10, 0x11, 0x12, 0x13, 0x14, 0x15, 0x20, 0x21, 0x30, 0x31, 0x32, 0x33, 0x34, 0x40, 0x41, 0x7F])
    || (List.range 4).any (fun k => decide ((Config.peerCode k).toNat = op))

/-- A message enters the headrace; a PEER message of a reserved operation is dropped there (R393). -/
def enterRace (q : BitVec 12) (msn : BitVec 24) (h : MsgHead) (m : RxMsg) (s : State) : State :=
  if h.op.toNat = opPeer ∧ !(peerOpKnown (peerOpOf m.payload)) then bump .peerDrops s
  else { s with fab := { s.fab with entered := s.fab.entered ++ [⟨q, msn, h, m.payload, s.knobs⟩] } }

/-- HEADRACE_ADMIT (R359, R361): the next message of a queue pair enters, where it is complete and the queue pair has its turn. -/
def execHeadraceAdmit (qpn : BitVec 12) (s : State) : Res :=
  onNode (fun s => match qpAt s qpn with
    | none => s
    | some x =>
      if x.state ≠ .ready then s
      else
        let y := x.skipAll
        let s := updQp qpn (fun _ => y) s
        match y.due with
        | none => s
        | some (h, m) =>
          if !(hasTurn s qpn h) then s
          else
            let s := updQp qpn (fun y => { y with nextMsn := y.nextMsn + 1, msgs := y.msgs.del y.nextMsn }) s
            enterRace qpn y.nextMsn h m { s with fab := { s.fab with turns := s.fab.turns.filter (fun q => q ≠ qpn) ++ [qpn] } }) s

end Sys2Proof.Machine
end

