-- ==== Sys2Proof/Machine/Net.lean ====
section
/-! DEFINITION. Reads between nodes, and map epochs (R342, R372–R375, R405, R411). -/

namespace Sys2Proof.Machine

/-! ## Reads between nodes -/

/-- The page of this node in a slot of a stripe: coded there, or contributed and not yet acknowledged. -/
def pageInSlot (s : State) (v : VId) (stripe slot : Nat) : Option PageRef :=
  if (vn s v).codeSlot ≠ some slot then none
  else match ((vn s v).contributions.find? (fun c => decide (c.stripe = stripe))).bind Contribution.page with
    | some p => some p
    | none => ((s.spans.filter (fun r => decide (r.2.vnode = v) && !r.2.copy)).flatMap pagesOf).findSome? (fun x =>
        if x.2.coded.any (fun c => decide (c.2.1 = stripe ∧ c.2.2 = slot)) then some x.1 else none)

/-- The fragment that a member serves (R402, R405, R406): a data member's from its page in any form, a parity member's or a replacement's from its
frame; a slot that is null holds zeros. Nothing where it does not read. -/
def servedFragment (v : VId) (stripe slot : Nat) (s : State) : Option (List Byte) × State :=
  match pageInSlot s v stripe slot with
  | some p =>
    let s := readHeld p s
    (match pageAt s p, spanAt s p.record with
    | some x, some r => if pageGood s p x then (pageFragment s r.geo.fmt x.loc, s) else (none, s)
    | _, _ => (none, s))
  | none =>
    if (vn s v).codeSlot ≠ some slot then (none, s)
    else match ((vn s v).stripes.at? stripe).bind Stripe.frame with
      | some f => let c := readFrameNormal f s
        (if c.1 then some (readFrame c.2 f) else none, c.2)
      | none => (some (zeros frameBytes), s)

/-- What a READ_REQ reads: a fragment, or the bytes at a physical address, unless a codeword stays uncorrectable (R295). -/
def readAnswer (v : VId) (addr len : Nat) (s : State) : Option (List Byte) × State :=
  if 2 ^ 63 ≤ addr then
    let c := servedFragment v ((addr - 2 ^ 63) / 16) ((addr - 2 ^ 63) % 16) s
    (c.1.map (fun bs => bs.take len), c.2)
  else if hbmBytes < addr + len then (none, s)
  else
    let c := readRange .normal addr len s
    (if c.1 then some (hbmRead c.2 addr len) else none, c.2)

/-- READ_REQ (R342, R405): the sender is a member that is not fenced, and what reads is sent back. -/
def execReadReq (m : Msg) (addr : BitVec 64) (len : BitVec 32) (key : BitVec 32) (u : Upsets) (s : State) : Res :=
  onMsg m opReadReq (fun p => decide (p = readReqBytes addr len key)) (fun s =>
    let v := m.vnode
    if (memberState s v m.sender).isNone then rejectMsg v m.sender m.qpn m.msn stDenied s
    else if isFenced s v m.sender then s
    else if len.toNat = 0 ∨ 1048576 < len.toNat then s
    else
      let k := meetLink u addr.toNat (applyUpsets u s)
      let r := readAnswer v addr.toNat len.toNat k.2
      match k.1, r.1 with
      | true, some bs =>
        sendOn m.qpn false (headOf s v opReadResp m.addr key 0 bs.length) bs (emit (.readResp v m.qpn m.sender m.addr key bs) r.2)
      | _, _ => r.2) s

/-- READ_RESP (R342): data goes into the region of the node's own request; any other is discarded. -/
def execReadResp (m : Msg) (payload : List Byte) (s : State) : Res :=
  onMsg m opReadResp (fun p => decide (p = payload)) (fun s =>
    if (memberState s m.vnode m.sender).isNone then rejectMsg m.vnode m.sender m.qpn m.msn stDenied s
    else match (s.regions.at? m.key).filter (fun r => r.holds m.addr payload.length) with
      | some ⟨.read p slot data, a, n⟩ =>
        { s with regions := s.regions.put m.key ⟨.read p slot (putBytes data (m.addr - a).toNat payload), a, n⟩ }
      | _ => bumpV .writeRejects m.vnode s) s

/-! ## FENCED state (R411) -/

/-- How a node learns of its own fence, as NODE_FENCED names it: 1 NODE.FENCE, 2 NODE.MAP, 3 a heartbeat, 4 an answer. -/
def learnFenced (v : VId) (source : Nat) (s : State) : State :=
  if (vn s v).fenced then s
  else logFrom v 0x0903 srcCore [(64, source)] (updVn v (fun n => { n with fenced := true }) s)

/-! ## NODE.MAP (R372, R373) -/

/-- Whether identifiers rise strictly. -/
def firstUnordered (k : Nat) : List Member → Option Nat
  | a :: b :: r => if a.node.toNat < b.node.toNat then firstUnordered (k + 1) (b :: r) else some (k + 1)
  | _ => none

/-- The fields of NODE.MAP that fail, with their packet offsets. -/
def mapFails (p : MapBlk) : List (Bool × Nat) :=
  let bad (f : Member → Bool) : Option Nat := (p.members.zip (List.range p.members.length)).findSome? (fun m =>
    if f m.1 then some m.2 else none)
  [(decide (p.memberCount.toNat < 1) || decide (4096 < p.memberCount.toNat), 68),
   ((bad (fun m => decide (m.state = 3))).isSome, 72 + 4 * (bad (fun m => decide (m.state = 3))).getD 0),
   ((bad (fun m => decide (0x1000 ≤ m.node.toNat))).isSome, 74 + 4 * (bad (fun m => decide (0x1000 ≤ m.node.toNat))).getD 0),
   ((firstUnordered 0 p.members).isSome, 74 + 4 * (firstUnordered 0 p.members).getD 0)]

/-- The member list that a NODE.MAP publishes. -/
def mapListOf (p : MapBlk) : MapList :=
  ⟨p.epoch, p.members.map (fun m => (m.node, if m.state = 0 then .live else if m.state = 1 then .draining else .fenced))⟩

/-- Closes under way count newly fenced span nodes as having acknowledged (R49). -/
def closeFenced (v : VId) (s : State) : State :=
  s.jobs.foldl (fun s j => match j.2 with
    | .close v' _ waiting _ =>
      if v' = v then (waiting.filter (fun n => memberState s v n = some .fenced)).foldl (fun s n => closeAck j.1 n s) s else s
    | _ => s) s

/-- Try again the assignments that have failed (R47). -/
def retryAssign (v : VId) (prefer : List NodeId) (s : State) : State :=
  (s.seqs.filter (fun p => decide (p.2.vnode = v) && !p.2.copy && p.2.retry && !p.2.closing && !p.2.leaving)).foldl (fun s p =>
    let home := ((vn s v).map.bind (fun m => homeUnder m p.2.handle))
    if home = some (vn s v).nodeId ∧ !(seqBusy s v p.2.handle) then
      whenFills (assignNext v p.2.handle p.1 prefer .background) s else s) s

/-- What a new member list brings with it. -/
def mapInstalled (v : VId) (prefer : List NodeId) (s : State) : State :=
  let s := if memberState s v (vn s v).nodeId = some .fenced then learnFenced v 2 s else s
  retryAssign v prefer (closeFenced v s)

/-- NODE_MAP (R373). -/
def nodeMapRow (c : Cmd) (p : MapBlk) (prefer : List NodeId) (s : State) : Res :=
  runVerb c (withParams c (8 + 4 * p.memberCount.toNat) (mapFails p) (fun s =>
    let v := vnodeOf s c
    let l := mapListOf p
    match (vn s v).map with
    | none => .now (Reply.st stOk) (mapInstalled v prefer (updVn v (fun n => { n with map := some l, prevMap := none, draining := false }) s))
    | some m =>
      let d := (p.epoch - m.epoch).toNat
      if d = 0 then (if l = m then .now (Reply.st stOk) s else .refuse stDenied s)
      else if d < 32768 then
        .now (Reply.st stOk) (mapInstalled v prefer (updVn v (fun n => { n with map := some l, prevMap := some m, draining := true }) s))
      else .refuse stStaleMap s)) s

/-- DRAIN_WINDOW_END (R374, R41). -/
def execDrainWindowEnd (v : VId) (s : State) : Res :=
  onNode (fun s =>
    let n := vn s v
    if !n.draining then s
    else
      let s := updVn v (fun n => { n with draining := false, awaitedRecords := [] }) s
      n.awaitedRecords.foldl (fun s x => logFrom v 0x0101 srcCore [(64, x.1.toNat), (16, x.2.toNat)] s) s) s

end Sys2Proof.Machine
end

