-- ==== Sys2Proof/Machine/Copy.lean ====
section
/-! DEFINITION. The receiving side of a pair and of a copy: records, rows, seals and releases of copied spans, and what a node sends
to make a copy whole (R395, R398–R400, R417–R419, R423). -/

namespace Sys2Proof.Machine

/-! ## Copies -/

/-- The copy that a PEER message concerns. -/
def copyFor (s : State) (h : PeerHdr) : Option FrameId := ownSpan s h.vnode h.handle h.span.toNat true

/-- The geometry of a manifest entry whose record has not arrived. -/
def unknownGeometry : Geometry := ⟨16, 1, 1, 0, 0, 0, false, 0, false⟩

/-- Enter a copy: its map frame and its TWIN_COPY entry (R395, R417). -/
def newCopy (v : VId) (h : Handle) (span : Nat) (r : SpanRec) (s : State) : Status × State :=
  match newMapFrame v .map s with
  | none => (stNoSpace, s)
  | some (f, s1) =>
    let e := dirEntry v h span kTwin 0 f
    match insertRefusal s1 e with
    | some st => (st, noteRefused e st s)
    | none => (stOk, acceptInsert e { s1 with spans := s1.spans.put f r })

/-- A page of a copy as its image names it: not yet held, unless it is lost or can be rebuilt. -/
def pageOfImage (p : PageImage) : Page :=
  ⟨if p.lost then .lost else if p.coded.isSome then .rebuild else .notCopied, p.digest.isSome, p.digest.getD [], 0, none, false, p.coded,
    0, false, p.sharedOf⟩

/-- The pages of a copy after an image: those of the copy with their place in a code group, and the pages of the image that it lacks
and that `add` takes in. -/
def pagesWith (old : Tbl (Nat × Nat × Nat) Page) (im : RecordImage) (add : PageImage → Bool) : Tbl (Nat × Nat × Nat) Page :=
  im.pages.foldl (fun t p =>
    match t.at? (p.layer, p.head, p.page) with
    | some x => t.put (p.layer, p.head, p.page) { x with coded := p.coded }
    | none => if add p then t.put (p.layer, p.head, p.page) (pageOfImage p) else t) old

/-- The fill points of an image. -/
def fillsOf (im : RecordImage) : Tbl (Nat × Nat) Nat := im.fills.map (fun p => ((p.layer, p.head), p.fill))

/-- The vectors of an image. -/
def smoothOf (xs : List (Nat × Nat × List (BitVec 32))) : Tbl (Nat × Nat) (List (BitVec 32)) := xs.map (fun p => ((p.1, p.2.1), p.2.2))

/-- A copy that takes the whole of an image. -/
def recordOf (v : VId) (h : Handle) (span : Nat) (im : RecordImage) : SpanRec :=
  { SpanRec.new v h span im.geo im.smooth with
    copy := true, fills := fillsOf im, pages := pagesWith [] im (fun _ => true), maskLost := im.hasMask, passed := im.passed }

/-- A copy after the image of a changed record. Rows under OFF are not mirrored, so the image alone tells of them. -/
def updatedBy (r : SpanRec) (im : RecordImage) : SpanRec :=
  let off := decide (im.geo.mirrorMode = 2)
  { r with
    geo := im.geo, smooth := smoothOf im.smooth, maskLost := im.hasMask, passed := im.passed
    pages := pagesWith r.pages im (fun p => off || p.coded.isSome)
    fills := if off then fillsOf im else r.fills }

/-- Remove a copy, its entry and its pages. -/
def dropCopy (f : FrameId) (s : State) : State :=
  match spanAt s f with
  | none => s
  | some r =>
    let s := deleteWhere r.vnode r.handle (fun e => decide (e.kind = kTwin) && decide (e.span = r.span)) s
    let s := r.pages.foldl (fun s p => releaseLoc p.2.loc (updSpan f (fun r => { r with pages := r.pages.del p.1 }) s)) s
    releaseFrame f { s with spans := s.spans.del f, sealQueue := s.sealQueue.filter (fun i => i.page.record ≠ f) }

/-! ## Rows of a copy (R398) -/

/-- Take a sealed page of a copy back to an open one with its first slots, in a new frame. -/
def reopenPage (p : PageRef) (slots : Nat) (s : State) : Option State :=
  match spanAt s p.record, pageAt s p with
  | some r, some x =>
    match pageContent s r.geo.fmt x.loc with
    | .bytes bs => match allocAny r.vnode .open_ .data s with
      | none => none
      | some (f, s) =>
        let g := genOf s f
        let h := readHeader (bs.drop annexAt)
        let s := writeHeader f { h with state := 2, gen := g.toNat, sealEpoch := 0, digest := [], count := slots }
          (hbmWrite (frameBase f) (padTo frameBytes bs) s)
        let s := clearSlots r.geo f slots s
        some (releaseLoc x.loc (updPage p (fun x => { x with loc := .frame f g, isSealed := false, digest := [], sealEpoch := 0 }) s))
    | _ => some s
  | _, _ => some s

/-- Discard the rows of a copy's layer and head from a fill point on; coded pages stay named. None where a page must be opened again and
no frame is FREE. -/
def discardRows (f : FrameId) (l h n : Nat) (s : State) : Option State :=
  match spanAt s f with
  | none => some s
  | some r =>
    let later := r.pages.filter (fun p => decide (p.1.1 = l) && decide (p.1.2.1 = h) && decide (n ≤ p.1.2.2 * r.geo.cap) && p.2.coded.isNone)
    let s := later.foldl (fun s p => releaseLoc p.2.loc (updSpan f (fun r => { r with pages := r.pages.del p.1 }) s)) s
    let s := updSpan f (fun r => { r with fills := r.fills.put (l, h) n }) s
    let s := { s with sealQueue := s.sealQueue.filter (fun i =>
      !(decide (i.page.record = f) && decide (i.page.layer = l) && decide (i.page.head = h) && decide (n / r.geo.cap ≤ i.page.page))) }
    if n % r.geo.cap = 0 then some s
    else match r.pages.at? (l, h, n / r.geo.cap) with
      | none => some s
      | some x => match x.loc with
        | .frame g _ =>
          if (frameOf s g).state = .open_ then some (setTokenCount g (n % r.geo.cap) (clearSlots r.geo g (n % r.geo.cap) s))
          else reopenPage ⟨f, l, h, n / r.geo.cap⟩ (n % r.geo.cap) s
        | .packed _ => reopenPage ⟨f, l, h, n / r.geo.cap⟩ (n % r.geo.cap) s
        | .flash _ => reopenPage ⟨f, l, h, n / r.geo.cap⟩ (n % r.geo.cap) s
        | _ => some s

/-- Write one row of a copy; where its page is not held the fill point alone advances. -/
def writeCopyRow (f : FrameId) (l h : Nat) (x : StoredRow) (s : State) : State :=
  match spanAt s f with
  | none => s
  | some r =>
    let t := r.fill l h
    let held : Bool := match (r.pages.at? (l, h, t / r.geo.cap)).map Page.loc with
      | some (.frame _ _) => true
      | _ => false
    if r.geo.spanLen ≤ t then s
    else if t % r.geo.cap = 0 ∨ held then (writeRow f l h x s).1
    else updSpan f (fun r => { r with fills := r.fills.put (l, h) (t + 1) }) s

/-- The fill point of a copy with the coded pages that follow it whole. -/
def coveredFill (r : SpanRec) (l h : Nat) (fuel n : Nat) : Nat :=
  match fuel with
  | 0 => n
  | k + 1 =>
    if n % r.geo.cap = 0 ∧ ((r.pages.at? (l, h, n / r.geo.cap)).bind Page.coded).isSome then coveredFill r l h k (n + r.geo.pageCap (n / r.geo.cap))
    else n

/-- Apply the rows of one layer and head to a copy: rows from the message's fill point on are replaced; a message above the held count waits
for the one before it. -/
def applyRowsImage (f : FrameId) (im : RowsImage) (s : State) : Status × State :=
  match spanAt s f with
  | none => (stMiss, s)
  | some r =>
    let held := max (r.fill im.layer im.head) (coveredFill r im.layer im.head r.pages.length (r.fill im.layer im.head))
    if held < im.fillBefore then (stRetryAfter, s)
    else match discardRows f im.layer im.head im.fillBefore s with
      | none => (stNoSpace, s)
      | some t =>
        if freeForUse t r.vnode < pagesFor r.geo (im.fillBefore + im.rows.length) - pagesFor r.geo im.fillBefore then (stNoSpace, s)
        else (stOk, im.rows.foldl (fun s x => writeCopyRow f im.layer im.head x s) t)

/-- Apply a message's rows, layer and head by layer and head, up to the first that cannot be applied. -/
def applyRowsImages (f : FrameId) : List RowsImage → State → Status × State
  | [], s => (stOk, s)
  | im :: r, s =>
    let a := applyRowsImage f im s
    if a.1 = stOk then applyRowsImages f r a.2 else a

/-- Apply a rows message, and acknowledge it. -/
def takeRows (h : PeerHdr) (rows : List RowsImage) (s : State) : State :=
  match copyFor s h with
  | none => ackPeer h stMiss 0 s
  | some f =>
    let r := applyRowsImages f rows s
    ackPeer h r.1 0 r.2

/-- MIRROR_ROWS (R398). -/
def execMirrorRows (h : PeerHdr) (rows : List RowsImage) (s : State) : Res := onPeer h .twin (linkPeer h (whenFills (takeRows h rows))) s

/-- Whether rows that reach a handoff's destination go on to its twin (R423): those of a span that has been sent there whole. -/
def forwardsRows (s : State) (h : PeerHdr) : Bool :=
  (match handoffOf s h.vnode h.handle h.span.toNat with
    | some x => !x.isSource && decide (h.span.toNat ∈ x.done)
    | none => false)
    && (match (copyFor s h).bind (spanAt s) with
    | some r => decide (r.geo.mirrorMode ≠ 2)
    | none => false)

/-- COPY_ROWS (R419, R423). -/
def execCopyRows (h : PeerHdr) (rows : List RowsImage) (s : State) : Res :=
  onPeer h .copy (linkPeer h <| whenFills fun s =>
    let s := takeRows h rows s
    if forwardsRows s h then toTwin h.vnode h.handle h.span.toNat (.mirrorRows rows) s else s) s

/-! ## Records of the twin (R395) -/

/-- The mirror of a sequence record. -/
def copySeq (s : State) (v : VId) (h : Handle) : Option FrameId :=
  (s.seqs.find? (fun p => decide (p.2.vnode = v) && decide (p.2.handle = h) && p.2.copy)).map Prod.fst

/-- Take the image of a sequence record; one that is CLOSING and places no span removes the mirror. -/
def takeSeqImage (v : VId) (h : Handle) (im : SeqImage) (s : State) : Status × State :=
  match copySeq s v h with
  | some f =>
    if im.closing ∧ im.places.isEmpty then (stOk, releaseFrame f { s with seqs := s.seqs.del f })
    else (stOk, updSeq f (fun q => { q with geo := im.geo, places := im.places, nextSpan := im.nextSpan, closing := im.closing,
                                            smooth := smoothOf im.smooth }) s)
  | none =>
    if im.closing ∧ im.places.isEmpty then (stOk, s)
    else match newMapFrame v .map s with
      | none => (stNoSpace, s)
      | some (f, s) =>
        (stOk, { s with seqs := s.seqs.put f ⟨v, h, im.geo, im.places, im.nextSpan, im.closing, smoothOf im.smooth, true, none, false, false⟩ })

/-- MIRROR_RECORD (R395). -/
def execMirrorRecord (h : PeerHdr) (rec : RecordImage ⊕ SeqImage) (s : State) : Res :=
  onPeer h .twin (whenFills fun s =>
    let r := match rec with
      | .inr im => takeSeqImage h.vnode h.handle im s
      | .inl im => match copyFor s h with
        | some f => (stOk, updSpan f (fun r => updatedBy r im) s)
        | none => newCopy h.vnode h.handle h.span.toNat (recordOf h.vnode h.handle h.span.toNat im) s
    ackPeer h r.1 0 r.2) s

/-! ## Seals and releases (R399, R400) -/

/-- MIRROR_SEAL (R399): a copy that is full is sealed, and its own digest compared. -/
def execMirrorSeal (h : PeerHdr) (layer head page : Nat) (digest : List Byte) (s : State) : Res :=
  onPeer h .twin (linkPeer h fun s =>
    match copyFor s h with
    | none => ackPeer h stMiss 0 s
    | some f =>
      let p : PageRef := ⟨f, layer, head, page⟩
      let full : Bool := match spanAt s f with
        | some r => decide (page * r.geo.cap + r.geo.pageCap page ≤ r.fill layer head)
        | none => false
      let s := if full then sealPage p { s with sealQueue := s.sealQueue.filter (fun i => i.page ≠ p) } else s
      match pageAt s p with
      | none => ackPeer h (if full then stMiss else stRetryAfter) 0 s
      | some x =>
        if x.loc = .notCopied ∨ x.loc = .lost ∨ x.loc = .rebuild then
          ackPeer h stOk 0 (updPage p (fun x => { x with isSealed := true, digest := digest }) s)
        else if !x.isSealed then ackPeer h stRetryAfter 0 s
        else ackPeer h (if x.digest = digest then stOk else stReplicaDivergent) 0 s) s

/-- Take named pages off a copy: a coded page stays named, to be rebuilt. -/
def dropPages (f : FrameId) (ps : List (Nat × Nat × Nat)) (s : State) : State :=
  ps.foldl (fun s k =>
    match (spanAt s f).bind (fun r => r.pages.at? k) with
    | none => s
    | some x =>
      let gone : Page := { x with loc := .rebuild }
      let s := updSpan f (fun r => { r with pages := if x.coded.isSome then r.pages.put k gone else r.pages.del k }) s
      releaseLoc x.loc s) s

/-- MIRROR_RELEASE (R400). -/
def execMirrorRelease (h : PeerHdr) (pages : Option (List (Nat × Nat × Nat))) (s : State) : Res :=
  onPeer h .twin (fun s =>
    let s := match copyFor s h, pages with
      | some f, none => dropCopy f s
      | some f, some ps => dropPages f ps s
      | none, _ => s
    ackPeer h stOk 0 s) s

/-! ## Receiving a copy (R417, R418) -/

/-- Enter a TWIN_COPY entry for each listed span that has none. -/
def enterManifest (v : VId) : List (Handle × SpanIx) → State → Status × State
  | [], s => (stOk, s)
  | (h, n) :: r, s =>
    if (ownSpan s v h n.toNat true).isSome then enterManifest v r s
    else
      let a := newCopy v h n.toNat { SpanRec.new v h n.toNat unknownGeometry [] with copy := true, arrived := false } s
      if a.1 = stOk then enterManifest v r a.2 else a

/-- COPY_RECORD (R417). -/
def execCopyRecord (h : PeerHdr) (rec : RecordImage) (s : State) : Res :=
  onPeer h .copy (fun s =>
    match copyFor s h with
    | none => ackPeer h stMiss 0 s
    | some f =>
      let s := updSpan f (fun r => if r.arrived then r else recordOf r.vnode r.handle r.span rec) s
      ackPeer h stOk 0 s) s

/-- COPY_PAGE (R418): a sealed page enters the map only where its hash is the digest of the record. -/
def execCopyPage (h : PeerHdr) (layer head page : Nat) (isSealed : Bool) (content : List Byte) (s : State) : Res :=
  onPeer h .copy (linkPeer h fun s =>
    match copyFor s h with
    | none => ackPeer h stMiss 0 s
    | some f =>
      let p : PageRef := ⟨f, layer, head, page⟩
      match pageAt s p with
      | none => ackPeer h stMiss 0 s
      | some x =>
        if x.loc ≠ .notCopied then ackPeer h stOk 0 s
        else if x.isSealed ≠ isSealed then ackPeer h stCheckFail 0 s
        else match rewritePage p content s with
          | .done s => ackPeer h stOk 0 (if isSealed then bump .pagesSpareCopied s else s)
          | .differs s => ackPeer h stCheckFail 0 s
          | .noFrame => ackPeer h stNoSpace 0 s) s

/-! ## Making a copy whole (R423, R395) -/

/-- Count every row of a record as held by the twin. -/
def allAcked (f : FrameId) (s : State) : State := updSpan f (fun r => { r with acked := r.fills }) s

end Sys2Proof.Machine
end

