-- ==== Sys2Proof/Machine/Pair.lean ====
section
/-! DEFINITION. Pairs: their forming, liveness, fencing, solo operation with the takeover of a lost twin's spans, and the sending side of a
copy (R386–R390, R407–R421, R463, R465). -/

namespace Sys2Proof.Machine

/-! ## Liveness (R408) -/

/-- The twin's liveness as R408 codes it. -/
def liveness (n : VNode) : Nat :=
  match n.pairState with
  | .unpaired => 3
  | .solo => 3
  | _ => if n.twinUp && n.fabricUp then 0 else if n.twinUp || n.fabricUp then 1 else 2

/-- Change a virtual node, and log a change of its twin's liveness with both values. -/
def updPair (v : VId) (f : VNode → VNode) (s : State) : State :=
  let old := liveness (vn s v)
  let s := updVn v f s
  let new := liveness (vn s v)
  if old = new then s else logFrom v 0x0902 srcCore [(8, old), (8, new)] s

/-- PAIR_STATE of R465. -/
def PairState.code : PairState → Nat
  | .unpaired => 0 | .paired => 1 | .solo => 2 | .copying => 3

/-- The rows of a message body. -/
def bodyRows : PeerBody → Nat
  | .mirrorRows ims => ims.foldl (fun n i => n + i.rows.length) 0
  | .copyRows ims => ims.foldl (fun n i => n + i.rows.length) 0
  | _ => 0

/-- Mirrored rows not yet acknowledged (R407, R465). -/
def rowsUnacked (s : State) (v : VId) : Nat :=
  let sent := s.peerSent.foldl (fun n p => if p.2.msg.vnode = v ∧ p.2.msg.twinLink then n + bodyRows p.2.msg.body else n) 0
  let queued := (vn s v).mirrorQueue.foldl (fun n q => n + bodyRows q.2.2) 0
  min (2 ^ 32 - 1) (sent + queued)

/-! ## The sending side of a copy (R417–R420, R423) -/

/-- The COPY_PAGE body of a page that reads. -/
def copyPageBody (s : State) (p : PageRef) : Option PeerBody :=
  match spanAt s p.record, pageAt s p with
  | some r, some x => match pageContent s r.geo.fmt x.loc with
    | .bytes bs => some (.copyPage p.layer p.head p.page x.isSealed bs)
    | _ => none
  | _, _ => none

/-- Where a copy goes: node, over the twin link or not, and the handoff it belongs to. -/
structure CopyTo where
  dest : NodeId
  twinLink : Bool
  handoff : Option (BitVec 32)
deriving DecidableEq, Repr

/-- Whether a page is copied as a page (R417): a sealed one that reads and is neither coded nor POISONED, or an open one. -/
def copiesPage (isSealed : Bool) (x : Page) : Bool :=
  decide (x.isSealed = isSealed) && (x.coded.isNone || !isSealed) && x.poison.isNone && (match x.loc with
    | .frame .. => true
    | .packed _ => isSealed
    | .flash _ => isSealed
    | _ => false)

/-- Send the pages of a kind of a record. -/
def sendPages (k : CopyTo) (job : Nat) (isSealed : Bool) (f : FrameId) (s : State) : State :=
  match spanAt s f with
  | none => s
  | some r => (pagesOf (f, r)).foldl (fun s p =>
      if !(copiesPage isSealed p.2) then s
      else match copyPageBody s p.1 with
        | some b => sendPeer r.vnode k.dest k.twinLink r.handle r.span b (some job) s
        | none => s) s

/-- Note that the rows of every layer and head of a span have been sent up to their fill points (R419). -/
def markSent (f : FrameId) (s : State) : State :=
  updSpan f (fun r => { r with acked := (List.range r.geo.layers).flatMap (fun l => (List.range r.geo.heads).map (fun h =>
    ((l, h), r.fill l h))) }) s

/-- Copy one span: a job that its messages bear until they are acknowledged. -/
def openCopy (v : VId) (k : CopyTo) (f : FrameId) (s : State) : Nat × State :=
  match spanAt s f with
  | none => (0, s)
  | some r =>
    let j := addJob (.copy v k.handoff r.handle r.span 0) s
    (j.1, sendPeer v k.dest k.twinLink r.handle r.span (.copyRecord (spanImage j.2 r)) (some j.1) j.2)

/-- Send a copy of a list of records (R417): the manifest, the records, the sealed pages, the open pages. COPY_DONE follows as the messages of
a span are acknowledged. -/
def startCopy (v : VId) (k : CopyTo) (fs : List FrameId) (s : State) : State :=
  let names : List (Handle × SpanIx) := fs.filterMap (fun f => (spanAt s f).map (fun r => (r.handle, BitVec.ofNat 24 r.span)))
  let s := sendPeer v k.dest k.twinLink 0 0 (.copyManifest names) none s
  let o := fs.foldl (fun (acc : List (Nat × FrameId) × State) f =>
    let j := openCopy v k f acc.2
    (acc.1 ++ [(j.1, f)], j.2)) ([], s)
  let s := o.1.foldl (fun s j => sendPages k j.1 true j.2 s) o.2
  o.1.foldl (fun s j =>
    let s := sendPages k j.1 false j.2 s
    if k.handoff.isNone then markSent j.2 s else s) s

/-- The own span records of a virtual node. -/
def ownRecords (s : State) (v : VId) : List FrameId :=
  (s.spans.filter (fun p => p.2.ownOf v)).map Prod.fst

/-- Enter PAIRED from COPYING (R389, R420). The source sends whole what was opened after the manifest. -/
def copyComplete (v : VId) (s : State) : State :=
  let n := vn s v
  let late := if n.pairSource then (ownRecords s v).filter (fun f => match spanAt s f with
    | some r => decide ((r.handle, r.span) ∉ n.manifest)
    | none => false) else []
  let s := updVn v (fun n => { n with pairState := .paired, manifest := [], manifestDone := [] }) s
  late.foldl (fun s f => allAcked f (mirrorWhole f s)) s

/-- A span of the manifest is done on this side. -/
def manifestStep (v : VId) (h : Handle) (span : Nat) (s : State) : State :=
  let s := updVn v (fun n => { n with manifestDone := if (h, span) ∈ n.manifestDone then n.manifestDone else n.manifestDone ++ [(h, span)] }) s
  let n := vn s v
  if n.pairState = .copying ∧ n.manifest.all (fun m => decide (m ∈ n.manifestDone)) then copyComplete v s else s

/-! ## Forming a pair (R387) -/

/-- Whether a virtual node holds a SPAN or TWIN_COPY entry. -/
def holdsSpans (s : State) (v : VId) : Bool :=
  s.dir.banks.any (fun b => b.2.existing.any (fun e => decide (e.vnode = v) && decide (e.kind ∈ [kSpan, kTwin])))

/-- Whether a pairing may begin in the present state. -/
def pairDenied (s : State) (v : VId) (p : PairBlk) : Bool :=
  let n := vn s v
  decide (p.pairEpoch = n.pairEpoch) || decide (p.pairEpoch = n.prevPairEpoch)
    || (if p.role = 1 then decide (n.pairState ≠ .solo) else decide (n.pairState ≠ .unpaired) || holdsSpans s v)

/-- Send a message of pairing, which bears the proposed epoch (R391). -/
def sendProposed (v : VId) (dest : NodeId) (epoch : BitVec 32) (body : PeerBody) (s : State) : State :=
  let m : PeerMsg := ⟨v, dest, true, epoch, (vn s v).fenceEpoch, 0, 0, s.nextTag, body⟩
  let s := { s with nextTag := s.nextTag + 1, peerSent := s.peerSent ++ [(m.tag, ⟨m, none, s.work, 0⟩)] }
  if peerBlocked s v dest then s else handPeer m s

/-- Drop every message of a kind that awaits its acknowledgement. -/
def dropSent (p : PeerSent → Bool) (s : State) : State := { s with peerSent := s.peerSent.filter (fun x => !(p x.2)) }

/-- Whether a message belongs to a pairing. -/
def isPairing (v : VId) (x : PeerSent) : Bool :=
  decide (x.msg.vnode = v) && (match x.msg.body with
    | .pairPropose _ => true
    | .pairConfirm _ => true
    | _ => false)

/-- The copies of a virtual node that its twin made: those of no handoff. -/
def twinCopies (s : State) (v : VId) : List FrameId :=
  (s.spans.filter (fun p => decide (p.2.vnode = v) && p.2.copy && (handoffOf s v p.2.handle p.2.span).isNone)).map Prod.fst

/-- Whether the roles of two commands make a pair. -/
def rolesMatch (mine other : BitVec 2) : Bool :=
  (decide (mine = 0) && decide (other = 0)) || (decide (mine = 1) && decide (other = 2)) || (decide (mine = 2) && decide (other = 1))

/-- The pair forms (R387, R389): epochs advance, heartbeats start, a source releases unserved copies and begins to send its own spans. -/
def formPair (v : VId) (s : State) : State :=
  match (vn s v).pairing with
  | none => s
  | some g =>
    let src := decide (g.blk.role = 1)
    let s := if src then (twinCopies s v).foldl (fun s f => dropCopy f s) s else s
    let mine := ownRecords s v
    let names := mine.filterMap (fun f => (spanAt s f).map (fun r => (r.handle, r.span)))
    let s := updPair v (fun n => { n with
      pairing := none, twin := g.blk.twin, prevPairEpoch := n.pairEpoch, pairEpoch := g.blk.pairEpoch, pairSource := src
      pairState := if g.blk.role = 0 then .paired else .copying, twinUp := true, fabricUp := true
      manifest := if src then names else [], manifestDone := [] }) s
    let s := if src then
        let s := startCopy v ⟨g.blk.twin, true, none⟩ mine s
        if mine.isEmpty then copyComplete v s else s
      else s
    complete g.cmd (Reply.st stOk) s

/-- TWIN_PAIR (R386, R387): the node with the lower identifier proposes. -/
def execTwinPair (c : Cmd) (p : PairBlk) (s : State) : Res :=
  runVerb c (withParams c 32 [(decide (p.pairEpoch = 0), 68), (decide (0x1000 ≤ p.twin.toNat), 66), (decide (p.role = 3), 64)] (fun s =>
    let v := vnodeOf s c
    let n := vn s v
    if pairDenied s v p then .refuse stDenied s
    else if n.pairing.isSome then let e := takeEstimate s; .now (Reply.retry e.1) e.2
    else
      let s := updVn v (fun n => { n with pairing := some ⟨c, p, none⟩ }) s
      .later (if n.nodeId.toNat < p.twin.toNat then sendProposed v p.twin p.pairEpoch (.pairPropose p.role) s else s))) s

/-- PAIR_PROPOSE (R387). A proposal of the pair that has formed already is only confirmed again. -/
def execPairPropose (h : PeerHdr) (role : BitVec 2) (names : NodeId) (s : State) : Res :=
  onPeer h .propose (fun s =>
    let n := vn s h.vnode
    match n.pairing with
    | none => sendProposed h.vnode h.sender h.pairEpoch (.pairConfirm (if role = 0 then 0 else 3 - role)) (ackPeer h stOk 0 s)
    | some g =>
      if !(rolesMatch g.blk.role role) ∨ names ≠ n.nodeId ∨ n.nodeId.toNat ≤ h.sender.toNat then ackPeer h stDenied 0 s
      else
        let s := sendProposed h.vnode h.sender h.pairEpoch (.pairConfirm g.blk.role) (ackPeer h stOk 0 s)
        formPair h.vnode s) s

/-- PAIR_CONFIRM (R387). -/
def execPairConfirm (h : PeerHdr) (role : BitVec 2) (names : NodeId) (s : State) : Res :=
  onPeer h .propose (fun s =>
    let n := vn s h.vnode
    match n.pairing with
    | none => ackPeer h stOk 0 s
    | some g =>
      if !(rolesMatch g.blk.role role) ∨ names ≠ n.nodeId then ackPeer h stDenied 0 s
      else formPair h.vnode (ackPeer h stOk 0 s)) s

/-- TWIN_PAIR_TIMEOUT (R387): 1 s has passed since the command. -/
def execTwinPairTimeout (v : VId) (s : State) : Res :=
  onNode (fun s =>
    match (vn s v).pairing with
    | none => s
    | some g => complete g.cmd (Reply.st stTimeout) (dropSent (isPairing v) (updVn v (fun n => { n with pairing := none }) s))) s

/-! ## Heartbeats (R407, R408) -/

/-- The bytes of a HEARTBEAT packet: PSN, MSN and both queue pair numbers are 0 (R407). -/
def heartbeatPacket (s : State) (v : VId) (p : HeartbeatPayload) : List Byte :=
  bthBytes ⟨v, false, false, 0, (vn s v).twin, (vn s v).nodeId, 0, 0, 0, 0, 0, false⟩ pktHeartbeat (heartbeatBytes p).length ++ heartbeatBytes p

/-- Send a heartbeat on one path (R407): the twin link, or a fabric port that the twin's peer table entry allows. -/
def sendHeartbeat (v : VId) (twin : Bool) (p : HeartbeatPayload) (s : State) : State :=
  let n := (vn s v).twin
  sendPacketTo v n twin 0 0 0 (heartbeatPacket s v p) (fun port f => .heartbeat v n twin p port f) s

/-- HEARTBEAT_SEND (R407, R410, R411): on both paths while PAIRED or COPYING. -/
def execHeartbeatSend (v : VId) (s : State) : Res :=
  onNode (fun s =>
    let n := vn s v
    if n.pairState = .unpaired ∨ n.pairState = .solo then s
    else
      let p : HeartbeatPayload := ⟨n.hbSeq, n.pairEpoch, n.fenceEpoch, mapEpochOf s v, BitVec.ofNat 8 n.pairState.code,
        isFenced s v n.twin, n.fenced, BitVec.ofNat 32 (rowsUnacked s v), false, false⟩
      sendHeartbeat v false p (sendHeartbeat v true p (updVn v (fun n => { n with hbSeq := n.hbSeq + 1 }) s))) s

/-- HEARTBEAT (R340, R407, R408, R411); one with a non-zero reserved field has no effect (R10). -/
def execHeartbeat (v : VId) (sender : NodeId) (twinLink : Bool) (p : HeartbeatPayload) (s : State) : Res :=
  onNode (fun s =>
    let n := vn s v
    if p.malformed then bumpV .pktMalformed v s
    else if !(talks s v) then bumpV .framesDropped v s
    else if (assocAt s v sender twinLink).isNone then bumpV .macsecNoSa v s
    else if p.rsv then s
    else if n.pairState = .unpaired ∨ n.twin ≠ sender ∨ p.pairEpoch ≠ n.pairEpoch then bump .peerDrops s
    else
      let s := updPair v (fun n => if twinLink then { n with twinUp := true } else { n with fabricUp := true }) s
      if p.youFenced then learnFenced v 3 s else s) s

/-- HEARTBEAT_MISS (R408). -/
def execHeartbeatMiss (v : VId) (twinLink : Bool) (s : State) : Res :=
  onNode (fun s => updPair v (fun n => if twinLink then { n with twinUp := false } else { n with fabricUp := false }) s) s

/-! ## Fencing (R409, R411) -/

/-- NODE_FENCE (R409). -/
def execNodeFence (c : Cmd) (p : FenceBlk) (s : State) : Res :=
  runVerb c (withParams c 16 [(decide (1 < p.action.toNat), 72), (decide (0x1000 ≤ p.target.toNat), 74)] (fun s =>
    let v := vnodeOf s c
    let n := vn s v
    if p.fenceEpoch.toNat ≤ n.fenceEpoch.toNat then .refuse stDenied s
    else
      let s := updVn v (fun n => { n with
        fenceEpoch := p.fenceEpoch
        fenceSet := if p.action = 0 then (if p.target ∈ n.fenceSet then n.fenceSet else n.fenceSet ++ [p.target])
                    else n.fenceSet.filter (fun x => x ≠ p.target) }) s
      .now (Reply.st stOk) (if p.action = 0 ∧ p.target = n.nodeId then learnFenced v 1 s else s))) s

/-! ## Appends that wait for a twin -/

/-- The command or message that an append came with, and the link errors that its write is still to meet. -/
def srcInstr (src : AppendSrc) (bs : List Byte) (u : Upsets) : Instr :=
  match src with
  | .msg m => .append m bs u
  | .cmd c => .kvAppend c bs u

/-- Whether an append must go on waiting for the lag of its span to fall (R397). -/
def lagStands (s : State) (bs : List Byte) (rec : FrameId) (k : Knobs) : Bool :=
  match spanAt s rec with
  | some r => paired s r.vnode && decide (r.geo.mirrorMode = 1) && overLag k r (readAppend bs)
  | none => false

/-- Go on with an append that waited for a twin: with its rows acknowledged, or anew. Where it would now allocate a frame of a stack at throttle
level 3 it waits on (R146, R167). -/
def resumeAppend (id : Nat) (mirrored : Bool) (s : State) : State :=
  match s.jobs.at? id with
  | some (.syncAppend src bs _ _ _ _ k n) =>
    whenFills (fun s => appendFrom src (srcInstr src bs (Upsets.links n)) bs k mirrored (some 0) (Upsets.links n) (endJob id (freeAppend id s))) s
  | some (.lagAppend src bs rec k n) =>
    if lagStands s bs rec k then s
    else whenFills (fun s => appendFrom src (srcInstr src bs (Upsets.links n)) bs k false (some 0) (Upsets.links n) (endJob id (freeAppend id s))) s
  | _ => s

/-- Whether messages of a job are still unacknowledged. -/
def jobOpen (s : State) (id : Nat) : Bool := s.peerSent.any (fun p => decide (p.2.job = some id))

/-- Go on with the appends whose acknowledgements are in, or whose lag has fallen, and that had to wait for RN_FILL (R146, R167). -/
def resumeFilled (s : State) : State :=
  s.jobs.foldl (fun s j => match j.2 with
    | .syncAppend .. => if jobOpen s j.1 then s else resumeAppend j.1 true s
    | .lagAppend .. => resumeAppend j.1 false s
    | _ => s) s

/-- The appends of a virtual node that wait for a twin. -/
def waitingAppends (s : State) (v : VId) : List Nat :=
  s.jobs.filterMap (fun j => match j.2 with
    | .syncAppend src .. => if srcVnode s src = v then some j.1 else none
    | .lagAppend src .. => if srcVnode s src = v then some j.1 else none
    | _ => none)

/-! ## TWIN.SOLO and takeover (R413, R414, R421) -/

/-- Name this node to a span's home as the node that holds it (R414, R425). -/
def homeUpdate (v : VId) (h : Handle) (span : Nat) (s : State) : State :=
  match (vn s v).map.bind (fun m => homeUnder m h) with
  | some n => if n = (vn s v).nodeId then setPlace v h span n s else sendPeer v n false h span .homeUpdate none s
  | none => s

/-- Take the spare frame of a record, or owe it until a frame is FREE (R121, R123). -/
def takeOrOwe (f : FrameId) (s : State) : State :=
  match spanAt s f with
  | none => s
  | some r => if r.spare.isSome ∨ (spanFull r && r.passed) then s
    else if freeForUse s r.vnode = 0 then oweSpare f s else takeSpare f s

/-- The SPAN entry of a record. -/
def spanEntry (f : FrameId) (r : SpanRec) : DirEntry := dirEntry r.vnode r.handle r.span kSpan 0 f

/-- Turn a copy into the span's own record (R414, R425): tombstones of its classes go (R89), its SPAN entry goes in before its TWIN_COPY entry goes
out, its spare is taken (R121), pages that a code group holds are marked for rebuilding, pages that are not held are lost, and sealed pages
of a CODE_SEALED span are contributed (R402). DESIGN CHOICE (entry 71): the entry takes the place of the TWIN_COPY entry even where the pair of
banks has no room for both, so that the span is never without an entry. -/
def adoptSpan (f : FrameId) (s : State) : State :=
  match spanAt s f with
  | none => s
  | some r =>
    let s := deleteWhere r.vnode r.handle (fun e => decide (e.kind ∈ [kSpanTomb, kMaskTomb]) && decide (e.span = r.span)) s
    let s := replaceEntry (spanEntry f r) (dirEntry r.vnode r.handle r.span kTwin 0 f) s
    let s := takeOrOwe f (updSpan f (fun r => { r with copy := false, acked := [] }) s)
    let s := if r.arrived then
        (pagesOf (f, r)).foldl (fun s p =>
          if p.2.loc = .notCopied then losePage p.1 s
          else if p.2.loc = .lost then addLost r.vnode r.handle r.span .pages (p.1.page * r.geo.cap) s
          else s) s
      else addLost r.vnode r.handle r.span .span 0 (updSpan f (fun r => { r with arrived := true, lostSpan := true }) s)
    contributeAll f (homeUpdate r.vnode r.handle r.span s)

/-- The lowest fill point over a span's layers and heads. -/
def lowestFill (r : SpanRec) : Nat :=
  ((List.range r.geo.layers).flatMap (fun l => (List.range r.geo.heads).map (fun h => r.fill l h))).foldl min r.geo.spanLen

/-- Take over one TWIN_COPY span (R414). -/
def takeOver (f : FrameId) (s : State) : State :=
  match spanAt s f with
  | none => s
  | some r =>
    let s := adoptSpan f s
    let s := if r.arrived ∧ r.geo.mirrorMode = 1 then addLost r.vnode r.handle r.span .tail (lowestFill r) s else s
    let s := if r.arrived ∧ r.maskLost then addLost r.vnode r.handle r.span .masks 0 s else s
    bump .spansTakenOver s

/-- Take over a mirror of a sequence record, and send it to its new home where that is another node (R414, R41), also where its entry is refused
here. -/
def takeOverSeq (f : FrameId) (s : State) : State :=
  match s.seqs.at? f with
  | none => s
  | some q =>
    let e := dirEntry q.vnode q.handle 0 kSeq 0 f
    let s := updSeq f (fun q => { q with copy := false }) s
    let s := match insertRefusal s e with
      | some st => noteRefused e st s
      | none => deleteWhere q.vnode q.handle (fun e => decide (e.kind = kSeqTomb)) (acceptInsert e s)
    moveRecord q.vnode q.handle s

/-- Stop mirroring and heartbeats (R413): what waited for the twin goes on without it. -/
def goSolo (v : VId) (s : State) : State :=
  let n := vn s v
  let s := dropSent (fun x => decide (x.msg.vnode = v) && x.msg.twinLink) s
  let s := { s with jobs := s.jobs.filter (fun j => match j.2 with
    | .copy v' none .. => decide (v' ≠ v)
    | _ => true) }
  let s := updPair v (fun n => { n with pairState := .solo, mirrorQueue := [], manifest := [], manifestDone := [] }) s
  let s := if n.pairState = .solo then s else (ownRecords s v).foldl (fun s f => updSpan f (fun r => { r with acked := [] }) s) s
  (waitingAppends s v).foldl (fun s j => resumeAppend j false s) s

/-- TWIN_SOLO (R413, R414, R421). -/
def twinSoloRow (c : Cmd) (takeover : Bool) (s : State) : Res :=
  runVerb c (withParams c 8 [] (fun s =>
    let v := vnodeOf s c
    let n := vn s v
    if n.pairState = .unpaired ∨ (n.pairState = .copying ∧ !n.pairSource ∧ !takeover) ∨ !(isFenced s v n.twin) then .refuse stDenied s
    else
      let s := goSolo v s
      if !takeover then .now (Reply.st stOk) s
      else
        let fs := twinCopies s v
        let es := fs.filterMap (fun f => (spanAt s f).map (spanEntry f))
        let s := fs.foldl (fun s f => takeOver f s) s
        let s := ((s.seqs.filter (fun q => decide (q.2.vnode = v) && q.2.copy)).map Prod.fst).foldl (fun s f => takeOverSeq f s) s
        if es.isEmpty then .now (Reply.st stOk) s else .later (addJob (.takeover c es) s).2)) s

/-- HOME_UPDATE (R414): the home notes where the span lies. -/
def execHomeUpdate (h : PeerHdr) (s : State) : Res :=
  onPeer h .other (fun s =>
    match homeSeq s h.vnode h.handle with
    | some _ => ackPeer h stOk 0 (setPlace h.vnode h.handle h.span.toNat h.sender s)
    | none => ackPeer h stMiss 0 s) s

/-! ## Status and the lost-span list -/

/-- TWIN_STATUS (R465). -/
def execTwinStatus (c : Cmd) (s : State) : Res :=
  runVerb c (withParams c 0 [] (fun s =>
    let n := vn s (vnodeOf s c)
    let copying := decide (n.pairState = .copying)
    .now (Reply.ofResult 1 (words64 [
      word [(48, n.twin.toNat), (40, n.pairState.code), (32, liveness n), (0, n.pairEpoch.toNat)],
      word [(32, n.prevPairEpoch.toNat), (0, rowsUnacked s (vnodeOf s c))],
      word [(48, (n.codeset.map (fun p => p.1.toNat)).getD 0), (44, n.codeSlot.getD 15)], n.fenceEpoch.toNat,
      if copying then word [(32, n.manifest.length), (0, n.manifestDone.length)] else 0, 0, 0, 0])) s)) s

/-- One entry of NODE.LOST_LIST (R415). -/
def lostEntryBytes (e : LostEntry) : List Byte :=
  words64 [e.handle.toNat, word [(40, e.span), (0, e.kind.code)], e.tokenFirst % 2 ^ 21, e.seq.toNat]

/-- NODE_LOST_LIST (R415, R463): entries at or after a number, in its order; those of kinds TAIL and MASKS go once returned. -/
def execNodeLostList (c : Cmd) (fromSeq : BitVec 32) (maxEntries : BitVec 13) (s : State) : Res :=
  runVerb c (withParams c 16 [(decide (maxEntries.toNat < 1) || decide (4096 < maxEntries.toNat), 72)] (fun s =>
    let v := vnodeOf s c
    let due := (vn s v).lost.filter (fun e => decide ((e.seq - fromSeq).toNat < 2 ^ 31))
    let sorted := sortBy (fun a b => decide ((a.seq - fromSeq).toNat ≤ (b.seq - fromSeq).toNat)) due
    let out := sorted.take (min maxEntries.toNat (resultRoom s c / 32))
    let s := updVn v (fun n => { n with lost := n.lost.filter (fun e =>
      !(decide (e ∈ out) && (decide (e.kind = .tail) || decide (e.kind = .masks)))) }) s
    .now (Reply.ofResult out.length (out.flatMap lostEntryBytes)) s)) s

end Sys2Proof.Machine
end

