-- ==== Sys2Proof/Machine/Code.lean ====
section
/-! DEFINITION. Code groups: the set, contributions, null slots and parity frames (R401–R404, R406, R459). -/

namespace Sys2Proof.Machine

/-! ## The set (R401, R406) -/

/-- The first slot whose identifier stands in an earlier slot or is no node's. -/
def badSlot (ns : List NodeId) : Option Nat :=
  (List.range 10).find? (fun k => decide (0x1000 ≤ (ns.getD k 0xFFFF).toNat) || decide (ns.getD k 0xFFFF ∈ ns.take k))

/-- Whether a virtual node holds coded pages or parity frames. -/
def holdsCoded (s : State) (v : VId) : Bool :=
  s.spans.any (fun p => decide (p.2.vnode = v) && !p.2.copy && p.2.pages.any (fun x => x.2.coded.isSome))
    || (vn s v).stripes.any (fun x => x.2.frame.isSome)

/-- The sealed pages that are still to be contributed. -/
def uncontributed (s : State) (v : VId) : List PageRef :=
  (s.spans.filter (fun p => decide (p.2.vnode = v) && !p.2.copy && !p.2.shared && p.2.geo.codeSealed)).flatMap (fun p =>
    ((pagesOf p).filter (fun x => x.2.isSealed && x.2.coded.isNone
      && !((vn s v).contributions.any (fun c => decide (c.page = some x.1))))).map Prod.fst)

/-- The slots 0 to 7 are all in a list. -/
def allSlots (xs : List Nat) : Bool := (List.range 8).all (fun i => decide (i ∈ xs))

/-- The fragment of any slot from those of other slots (R402): a parity slot's is formed from the eight data slots'. -/
def slotFragment (slot : Nat) (fs : List (Nat × List Byte)) : Option (List Byte) :=
  if slot < 8 then rebuildFragment slot fs
  else (List.range 8).foldl (fun acc i => match acc, rebuildFragment i fs with
    | some a, some b => some (xorBytes a (if slot = 9 then scaleBytes (slotCoeff i) b else b))
    | _, _ => none) (some (zeros frameBytes))

/-- The data slots of a stripe whose fragments are null. -/
def nullSlots (fs : List (Nat × List Byte)) : List Nat := (List.range 8).filter (fun i => ((rebuildFragment i fs).map allZero).getD false)

/-- A replacement rebuilds and stores its slot's fragment of one stripe (R406), in a map frame: nothing of a stripe that is null in every
slot, of one that it holds, or of one of which fewer than eight fragments are at hand. A data slot's contributions go on behind the stripe. -/
def replaceFragment (v : VId) (slot : Nat) (stripe : Nat × List (Nat × List Byte)) (s : State) : State :=
  let fs := stripe.2.map (fun f => (f.1, padTo frameBytes f.2))
  let x := (vn s v).stripes.atD stripe.1 ⟨none, [], [], [], []⟩
  match x.frame, slotFragment slot fs with
  | none, some bs =>
    if allSlots (nullSlots fs) then s
    else match newMapFrame v (if slot < 8 then .fragment else .parity) s with
      | none => s
      | some (f, s) =>
        updVn v (fun n => { n with
          stripes := n.stripes.put stripe.1 ⟨some f, List.range 8, nullSlots fs, [], []⟩
          stripeNext := if slot < 8 then max n.stripeNext (stripe.1 + 1) else n.stripeNext }) (hbmWrite (frameBase f) bs s)
  | _, _ => s

/-- TWIN_CODESET (R401, R406, R459). With REPLACE the node takes a lost member's slot also where it holds coded pages of the set, and stores
the fragments of that slot. -/
def execTwinCodeset (c : Cmd) (p : CodesetBlk) (stripes : List (Nat × List (Nat × List Byte))) (s : State) : Res :=
  runVerb c (linkDone c <| withParams c 32 [((badSlot p.slots).isSome, 72 + 2 * (badSlot p.slots).getD 0)] (fun s =>
    let v := vnodeOf s c
    let n := vn s v
    let slots := p.slots.take 10
    match (List.range 10).find? (fun k => decide (slots[k]? = some n.nodeId)) with
    | none => .refuse stDenied s
    | some slot =>
      let set := some (p.codesetId, slots)
      if n.codeset ≠ set ∧ !p.replace ∧ holdsCoded s v then .refuse stDenied s
      else
        let s := updVn v (fun n => { n with codeset := set, codeSlot := some slot }) s
        let s := if p.replace then stripes.foldl (fun s k => replaceFragment v slot k s) s else s
        .now (Reply.st stOk) ((uncontributed s v).foldl (fun s p => contribute p s) s))) s

/-! ## The data node (R402–R404) -/

/-- CODE_STRIPE_TIMEOUT (R402): nothing has been contributed for CODE_STRIPE_WAIT_MS. -/
def execCodeStripeTimeout (v : VId) (s : State) : Res :=
  onNode (fun s =>
    let n := vn s v
    match n.codeset, n.codeSlot with
    | some (_, ns), some slot =>
      if 7 < slot ∨ n.fenced ∨ n.stripeExhausted then s
      else
        let t0 := s.nextTag
        let s := sendPeer v (ns.getD 8 0xFFFF) false 0 0 (.codeNull n.stripeNext slot) none s
        let t1 := s.nextTag
        let s := sendPeer v (ns.getD 9 0xFFFF) false 0 0 (.codeNull n.stripeNext slot) none s
        takeStripe v none t0 t1 s
    | _, _ => s) s

/-- A contribution that both parity nodes have answered: its page is coded (R403), what a release kept is released (R404), and a refused page
keeps its twin copy. -/
def contributed (v : VId) (k : Contribution) (s : State) : State :=
  let s := updVn v (fun n => { n with contributions := n.contributions.filter (fun c => decide (c.stripe ≠ k.stripe)) }) s
  match k.kept with
  | some loc => releaseLoc loc s
  | none =>
    match k.page, (vn s v).codeset, (vn s v).codeSlot with
    | some p, some (id, _), some slot =>
      if k.refused ∨ (pageAt s p).isNone then s
      else
        let s := updPage p (fun x => { x with coded := some (id, k.stripe, slot) }) s
        let s := mirrorSpan p.record (bump .pagesCoded s)
        match spanAt s p.record with
        | some r => if r.geo.mirrorMode = 2 then s else toTwin v r.handle r.span (.mirrorRelease (some [(p.layer, p.head, p.page)])) s
        | none => s
    | _, _, _ => s

/-- A parity node has acknowledged a contribution. -/
def contribAck (v : VId) (tag : BitVec 32) (ok : Bool) (s : State) : State :=
  match (vn s v).contributions.find? (fun c => decide (tag ∈ c.waiting)) with
  | none => s
  | some k =>
    let k : Contribution := { k with waiting := k.waiting.filter (fun t => t ≠ tag), refused := k.refused || !ok }
    if k.waiting.isEmpty then contributed v k s
    else updVn v (fun n => { n with contributions := n.contributions.map (fun c => if c.stripe = k.stripe then k else c) }) s

/-! ## The parity node (R402–R404) -/

/-- The stripe of a number. -/
def stripeAt (s : State) (v : VId) (k : Nat) : Stripe := (vn s v).stripes.atD k ⟨none, [], [], [], []⟩

/-- Change a stripe. -/
def updStripe (v : VId) (k : Nat) (f : Stripe → Stripe) (s : State) : State :=
  updVn v (fun n => { n with stripes := n.stripes.upd k ⟨none, [], [], [], []⟩ f }) s

/-- What follows a slot's message: a stripe that is null in every slot gives up its parity frame, and once every data slot is in the
acknowledgements go out (R403, R404). -/
def stripeStep (v : VId) (k : Nat) (s : State) : State :=
  let x := stripeAt s v k
  let s := match allSlots x.nulls, x.frame with
    | true, some f => releaseFrame f (updStripe v k (fun x => { x with frame := none }) s)
    | _, _ => s
  if allSlots x.filled then
    x.owed.foldl (fun s h => ackPeer h stOk 0 s) (updStripe v k (fun x => { x with owed := [] }) s)
  else s

/-- Whether a slot's message is from that slot's node, to a parity node. -/
def contribOk (s : State) (h : PeerHdr) (slot : Nat) : Bool :=
  let n := vn s h.vnode
  (match n.codeset with
    | some (_, ns) => decide (slot < 8) && decide (ns[slot]? = some h.sender)
    | none => false)
    && (decide (n.codeSlot = some 8) || decide (n.codeSlot = some 9))

/-- Take up a slot's message once: again, it is acknowledged as the first was. -/
def onStripe (h : PeerHdr) (stripe slot : Nat) (f : State → State) (s : State) : State :=
  let x := stripeAt s h.vnode stripe
  if !(contribOk s h slot) then ackPeer h stDenied 0 s
  else if (h.sender, h.tag) ∈ x.tags then
    (if x.owed.any (fun o => decide (o.sender = h.sender ∧ o.tag = h.tag)) then s else ackPeer h stOk 0 s)
  else f s

/-- Enter a slot's message in its stripe. -/
def enterSlot (h : PeerHdr) (stripe slot : Nat) (isNull : Bool) (s : State) : State :=
  stripeStep h.vnode stripe (updStripe h.vnode stripe (fun x => { x with
    filled := if slot ∈ x.filled then x.filled else x.filled ++ [slot]
    nulls := if isNull then (if slot ∈ x.nulls then x.nulls else x.nulls ++ [slot]) else x.nulls.filter (fun i => i ≠ slot)
    tags := x.tags ++ [(h.sender, h.tag)]
    owed := x.owed ++ [h] }) s)

/-- CODE_CONTRIB (R402, R404): P takes the XOR of the fragment, Q that of the fragment times the slot's coefficient. A second equal fragment
cancels the first. -/
def execCodeContrib (h : PeerHdr) (stripe slot : Nat) (fragment : List Byte) (s : State) : Res :=
  onPeer h .code (linkPeer h <| whenFills <| onStripe h stripe slot (fun s =>
    let v := h.vnode
    let x := stripeAt s v stripe
    let got : Option (FrameId × State) := match x.frame with
      | some f => some (f, s)
      | none => newMapFrame v .parity s
    match got with
    | none => ackPeer h stNoSpace 0 s
    | some (f, s) =>
      let frag := padTo frameBytes fragment
      let part := if (vn s v).codeSlot = some 9 then scaleBytes (slotCoeff slot) frag else frag
      let s := hbmWrite (frameBase f) (xorBytes (readFrame s f) part) s
      let again := decide (slot ∈ x.filled) && !(decide (slot ∈ x.nulls))
      enterSlot h stripe slot again (updStripe v stripe (fun x => { x with frame := some f }) s))) s

/-- CODE_NULL (R402). -/
def execCodeNull (h : PeerHdr) (stripe slot : Nat) (s : State) : Res :=
  onPeer h .code (onStripe h stripe slot (enterSlot h stripe slot true)) s

end Sys2Proof.Machine
end

