-- ==== Sys2Proof/Machine/Own.lean ====
section
/-! DEFINITION. Ownership handoffs: OWN.OFFER, OWN.ACCEPT and OWN.COMMIT on both sides, disputes, SPAN.MOVE, and the WRITE messages that
bring the counterpart's answers (R362, R422–R428, R466). -/

namespace Sys2Proof.Machine

/-! ## Commands that the node sends (R422) -/

/-- The packet of a COMMAND that the node sends (R422, R440): its header, and its parameters inline. -/
def commandPacket (opcode : BitVec 16) (tag : BitVec 32) (epoch : BitVec 16) (params : List Byte) : List Byte :=
  cmdBytes ⟨opcode, tag, false, false, false, BitVec.ofNat 21 params.length, epoch, 0, false, 0, false, 0, 0, 0, 0, 0, []⟩ ++ params

/-- Send a COMMAND whose 32-byte status reply comes into a registered region (R362, R446): its tag names the region. -/
def sendCommand (v : VId) (dest : NodeId) (opcode : BitVec 16) (params : List Byte) (j : Job) (s : State) : State :=
  let a := addJob j s
  let s := a.2
  let tag := s.nextTag
  let s := { s with nextTag := tag + 1, regions := s.regions.put tag ⟨.job a.1, 0, 32⟩ }
  let p := commandPacket opcode tag (mapEpochOf s v) params
  if peerBlocked s v dest then s
  else sendTo v dest false (headOf s v opCommand 0 tag 0 p.length) p (.command v dest opcode tag params) s

/-- The parameters of OWN.OFFER (R422). -/
def offerBytes (id : BitVec 32) (dest : NodeId) (count : Nat) (h : Handle) (first : Nat) : List Byte :=
  words64 [word [(32, id.toNat), (16, dest.toNat), (0, count)], h.toNat, word [(40, first)], 0]

/-- A handoff of a virtual node. -/
def handoffAt (s : State) (v : VId) (id : BitVec 32) : Option Handoff := (vn s v).handoffs.find? (fun x => decide (x.id = id))

/-- Change a handoff. -/
def updHandoff (v : VId) (id : BitVec 32) (f : Handoff → Handoff) (s : State) : State :=
  updVn v (fun n => { n with handoffs := n.handoffs.map (fun x => if x.id = id then f x else x) }) s

/-- Enter a state of a handoff. -/
def enterState (v : VId) (id : BitVec 32) (st : HandoffState) (s : State) : State :=
  updHandoff v id (fun x => { x with state := st, since := s.pw.uptime }) s

/-- The spans of a handoff. -/
def Handoff.spans (x : Handoff) : List Nat := (List.range x.count).map (fun i => x.first + i)

/-- Forget a handoff: what was sent for its copy, and the answers to its commands that are awaited. -/
def dropHandoff (v : VId) (id : BitVec 32) (s : State) : State :=
  let mine (j : Job) : Bool := match j with
    | .copy v' (some i) .. => decide (v' = v) && decide (i = id)
    | .ownReply v' i _ => decide (v' = v) && decide (i = id)
    | _ => false
  let ids := (s.jobs.filter (fun j => mine j.2)).map Prod.fst
  let s := dropSent (fun x => match x.job with
    | some j => decide (j ∈ ids)
    | none => false) s
  let s := { s with
    jobs := s.jobs.filter (fun j => !(mine j.2))
    regions := s.regions.filter (fun r => match r.2.use with
      | .job j => decide (j ∉ ids)
      | _ => true) }
  updVn v (fun n => { n with handoffs := n.handoffs.filter (fun x => x.id ≠ id) }) s

/-- The copies that a destination holds for a handoff. -/
def handoffCopies (s : State) (v : VId) (x : Handoff) : List FrameId := x.spans.filterMap (fun n => ownSpan s v x.handle n true)

/-- Release the copies of a handoff and forget it. Once every span was in, the twin was sent them (R423) and learns of their release (R395). -/
def abandon (v : VId) (x : Handoff) (s : State) : State :=
  let whole := x.spans.all (fun n => decide (n ∈ x.done))
  dropHandoff v x.id ((handoffCopies s v x).foldl (fun s f => match spanAt s f with
    | some r => dropCopy f (if whole then toTwin v r.handle r.span (.mirrorRelease none) s else s)
    | none => s) s)

/-- Enter IN_DOUBT (R424, R425). -/
def inDoubt (v : VId) (x : Handoff) (s : State) : State :=
  logFrom v 0x0905 srcCore [] (bump .handoffsInDoubt (enterState v x.id .inDoubt s))

/-! ## The ends of a handoff (R424, R425, R427) -/

/-- Release a span that has moved away (R424, R88): the tombstone goes in before the entry goes out; the twin, the pages, the spare and the
record follow. -/
def releaseMoved (v : VId) (h : Handle) (dest : NodeId) (span : Nat) (s : State) : State :=
  match ownSpan s v h span false with
  | none => s
  | some f =>
    let s := buryWhere v h (fun e => decide (e.kind = kSpan) && decide (e.span = span)) kSpanTomb dest s
    let s := buryWhere v h (fun e => decide (e.kind = kMask) && decide (e.span = span)) kMaskTomb dest s
    let s := match maskOf s v h span with
      | some m => dropMaskRecord m s
      | none => s
    let s := toTwin v h span (.mirrorRelease none) s
    let s := releaseSpare f (releasePages f s)
    let s := updSpan f (fun r => { r with leaving := true }) s
    sweepLeaving { s with
      holds := s.holds.filter (fun x => x.record ≠ f)
      sealQueue := s.sealQueue.filter (fun i => i.page.record ≠ f) }

/-- The source gives the spans up: OWN.OFFER completes with ST_OK. -/
def sourceReleases (v : VId) (x : Handoff) (s : State) : State :=
  let s := x.spans.foldl (fun s n => releaseMoved v x.handle x.other n s) s
  let s := bump .handoffsCommitted (dropHandoff v x.id s)
  match x.cmd with
  | some c => complete c (Reply.st stOk) s
  | none => s

/-- The destination becomes the owner: SPAN entries, HOME_UPDATE, and service. What its twin holds of a span is counted as mirrored. -/
def destinationWins (v : VId) (x : Handoff) (s : State) : State :=
  let fs := handoffCopies s v x
  let s := updVn v (fun n => { n with committed := n.committed ++ [(x.id, x.other)] }) (dropHandoff v x.id s)
  bump .handoffsCommitted (fs.foldl (fun s f => allAcked f (adoptSpan f s)) s)

/-! ## OWN.OFFER (R422, R424, R425) -/

/-- The fields of OWN.OFFER that fail. -/
def offerFails (p : OfferBlk) : List (Bool × Nat) :=
  [(decide (p.spanCount = 0), 64), (decide (0x1000 ≤ p.dest.toNat), 66), (badHandle p.handle, 72),
   (decide (2 ^ 24 < p.spanFirst.toNat + p.spanCount.toNat), noField)]

/-- The spans that an offer names. -/
def offerNames (p : OfferBlk) : List Nat := (List.range p.spanCount.toNat).map (fun i => p.spanFirst.toNat + i)

/-- Why a source refuses an offer (R422). -/
def offerDenied (s : State) (v : VId) (p : OfferBlk) : Bool :=
  decide ((vn s v).pairState = .copying) || (handoffAt s v p.handoffId).isSome || decide (p.dest = (vn s v).nodeId)
    || (offerNames p).any (fun n => (ownSpan s v p.handle n false).isNone || (handoffOf s v p.handle n).isSome)

/-- The source's part of an offer: it is passed on to the destination, and the command completes with the handoff. `left` holds the destinations
that SPAN.MOVE would choose next. -/
def offerOut (v : VId) (p : OfferBlk) (cmd : Option Cmd) (left : List NodeId) (s : State) : State :=
  let x : Handoff := ⟨p.handoffId, p.dest, true, .offering, p.handle, p.spanFirst.toNat, p.spanCount.toNat, cmd, false, false,
    s.pw.uptime, [], left⟩
  let s := updVn v (fun n => { n with handoffs := n.handoffs ++ [x] }) s
  sendCommand v p.dest 0x0901 (offerBytes p.handoffId p.dest p.spanCount.toNat p.handle p.spanFirst.toNat) (.ownReply v p.handoffId 0) s

/-- The frames that named spans need at first (R44, R425). -/
def offerNeed (s : State) (v : VId) (p : OfferBlk) : Nat := p.spanCount.toNat * initialNeed (homeGeometry s v p.handle) true

/-- The destination's part of an offer from a source: its FREE frames must hold what the named spans need. -/
def offerIn (v : VId) (source : NodeId) (p : OfferBlk) (s : State) : Done :=
  match handoffAt s v p.handoffId with
  | some x => .refuse (if x.other = source ∧ !x.isSource then stOk else stDenied) s
  | none =>
    if (offerNames p).any (fun n => (ownSpan s v p.handle n false).isSome || (ownSpan s v p.handle n true).isSome) then .refuse stDenied s
    else if freeForUse s v < offerNeed s v p then .refuse stNoSpace s
    else .now (Reply.st stOk) (updVn v (fun n => { n with handoffs := n.handoffs ++ [⟨p.handoffId, source, false, .receiving, p.handle,
      p.spanFirst.toNat, p.spanCount.toNat, none, false, true, s.pw.uptime, [], []⟩] }) s)

/-- OWN_OFFER (R422): from the run-time at the source, from the source at the destination. -/
def execOwnOffer (c : Cmd) (p : OfferBlk) (s : State) : Res :=
  runVerb c (withParams c 32 (offerFails p) (fun s =>
    let v := vnodeOf s c
    match c.origin with
    | .fabric _ sender _ _ =>
      if p.dest = (vn s v).nodeId then offerIn v sender p s
      else if offerDenied s v p then .refuse stDenied s
      else .later (offerOut v p (some c) [] s)
    | .host _ => if offerDenied s v p then .refuse stDenied s else .later (offerOut v p (some c) [] s))) s

/-! ## Completing a copy at the destination (R423) -/

/-- Whether every span of a handoff has been received and the twin holds what the mode requires. -/
def readyToAccept (s : State) (v : VId) (x : Handoff) : Bool :=
  x.spans.all (fun n => decide (n ∈ x.done))
    && !(s.peerSent.any (fun p => decide (p.2.msg.vnode = v) && p.2.msg.twinLink && decide (p.2.msg.handle = x.handle)
      && decide (p.2.msg.span.toNat ∈ x.spans)))

/-- The fill points that a destination holds. -/
def heldFills (s : State) (v : VId) (x : Handoff) : List FillPoint :=
  x.spans.flatMap (fun n => match (ownSpan s v x.handle n true).bind (spanAt s) with
    | some r => r.fills.map (fun p => ⟨n, p.1.1, p.1.2, p.2⟩)
    | none => [])

/-- The parameters of OWN.ACCEPT: the identifier and the fill points. -/
def acceptBytes (id : BitVec 32) (fs : List FillPoint) : List Byte :=
  words64 [word [(32, id.toNat), (0, fs.length)]] ++ fs.flatMap (fun f => words64 [word [(40, f.span), (24, f.layer), (16, f.head)], f.fill])

/-- Send OWN.ACCEPT where the copy is complete. -/
def tryAccept (v : VId) (x : Handoff) (s : State) : State :=
  if readyToAccept s v x then
    let s := if x.acceptSent then s else updHandoff v x.id (fun y => { y with acceptSent := true, since := s.pw.uptime }) s
    sendCommand v x.other 0x0902 (acceptBytes x.id (heldFills s v x)) (.ownReply v x.id 1) s
  else s

/-- Send OWN.COMMIT. -/
def sendCommit (v : VId) (x : Handoff) (s : State) : State :=
  sendCommand v x.other 0x0903 (words64 [word [(32, x.id.toNat)]]) (.ownReply v x.id 2) s

/-! ## OWN.ACCEPT and OWN.COMMIT (R424, R425) -/

/-- The sender of a command: none for the host. -/
def senderOf (c : Cmd) : Option NodeId :=
  match c.origin with
  | .fabric _ n _ _ => some n
  | .host _ => none

/-- Whether the fill points of OWN.ACCEPT equal a source's own, with no append in progress on the spans. -/
def acceptable (s : State) (v : VId) (x : Handoff) (fills : List FillPoint) : Bool :=
  let recs := x.spans.filterMap (fun n => (ownSpan s v x.handle n false))
  let busy := s.holds.any (fun h => decide (h.record ∈ recs))
    || s.deferred.any (fun e => e.append.any (fun a => decide (srcVnode s a.1 = v) && decide ((readAppend a.2).handle = x.handle)
        && decide ((readAppend a.2).span ∈ x.spans)))
    || s.peerSent.any (fun p => decide (p.2.msg.vnode = v) && decide (p.2.msg.dest = x.other) && decide (p.2.msg.handle = x.handle)
        && (match p.2.msg.body with
          | .copyRows _ => true
          | _ => false))
  !busy && recs.all (fun f => match spanAt s f with
    | some r => (List.range r.geo.layers).all (fun l => (List.range r.geo.heads).all (fun h =>
        let mine := r.fill l h
        match fills.find? (fun p => decide (p.span = r.span ∧ p.layer = l ∧ p.head = h)) with
        | some p => decide (p.fill = mine)
        | none => decide (mine = 0)))
    | none => true)

/-- OWN_ACCEPT (R422, R424). -/
def execOwnAccept (c : Cmd) (handoffId : BitVec 32) (fills : List FillPoint) (s : State) : Res :=
  runVerb c (fun s =>
    let v := vnodeOf s c
    match firstBad c [], senderOf c with
    | some o, _ => .now (Reply.bad o) s
    | none, none => .refuse stDenied s
    | none, some n =>
      match handoffAt s v handoffId with
      | none => .refuse stAborted s
      | some x =>
        if x.other ≠ n ∨ !x.isSource then .refuse stDenied s
        else match x.state with
          | .offering =>
            if acceptable s v x fills then
              .now (Reply.st stOk) (sendCommit v x (enterState v handoffId .committing s))
            else .refuse stPending s
          | .committing => .refuse stOk s
          | _ => .refuse stOwnerInDoubt s) s

/-- OWN_COMMIT (R422, R425). -/
def execOwnCommit (c : Cmd) (handoffId : BitVec 32) (s : State) : Res :=
  runVerb c (fun s =>
    let v := vnodeOf s c
    match firstBad c [], senderOf c with
    | some o, _ => .now (Reply.bad o) s
    | none, none => .refuse stDenied s
    | none, some n =>
      match handoffAt s v handoffId with
      | none => .refuse (if (handoffId, n) ∈ (vn s v).committed then stOk else stDenied) s
      | some x =>
        if x.other ≠ n ∨ x.isSource then .refuse stDenied s
        else match x.state with
          | .accepted => .now (Reply.st stOk) (destinationWins v x s)
          | .inDoubt => .refuse stOwnerInDoubt s
          | _ => let e := takeEstimate s; .now (Reply.retry e.1) e.2) s

/-- OWN_RESEND (R424, R425): OWN.ACCEPT and OWN.COMMIT go out every 1 ms until they are answered. -/
def execOwnResend (v : VId) (handoffId : BitVec 32) (s : State) : Res :=
  onNode (fun s =>
    match handoffAt s v handoffId with
    | some x =>
      if (vn s v).fenced then s
      else match x.state with
        | .receiving => tryAccept v x s
        | .committing => sendCommit v x s
        | _ => s
    | none => s) s

/-- OWN_WAIT_EXPIRY (R424, R425). -/
def ownWaitRow (v : VId) (handoffId : BitVec 32) (s : State) : Res :=
  onNode (fun s =>
    match handoffAt s v handoffId with
    | none => s
    | some x => match x.state with
      | .offering =>
        let s := dropHandoff v handoffId s
        (match x.cmd with
        | some c => complete c (Reply.st stTimeout) s
        | none => s)
      | .committing => inDoubt v x s
      | .receiving => if x.acceptSent then inDoubt v x s else abandon v x s
      | .accepted => inDoubt v x s
      | .inDoubt => s) s

/-- OWN_RESOLVE (R427). -/
def ownResolveRow (c : Cmd) (handoffId : BitVec 32) (winner : BitVec 1) (s : State) : Res :=
  runVerb c (withParams c 8 [] (fun s =>
    let v := vnodeOf s c
    match handoffAt s v handoffId with
    | none => .refuse stMiss s
    | some x =>
      if x.state = .offering ∨ x.state = .receiving then .refuse stDenied s
      else if x.isSource then
        if winner = 1 then .now (Reply.st stOk) (sourceReleases v x s)
        else
          let s := dropHandoff v handoffId s
          .now (Reply.st stOk) (match x.cmd with
            | some o => complete o (Reply.st stAborted) s
            | none => s)
      else if winner = 1 then
        if x.acceptSent then .now (Reply.st stOk) (destinationWins v x s) else .refuse stDenied s
      else .now (Reply.st stOk) (abandon v x s))) s

/-- STATE of R466. -/
def HandoffState.code : HandoffState → Nat
  | .offering => 0 | .committing => 1 | .receiving => 2 | .accepted => 3 | .inDoubt => 4

/-- One entry of OWN.STATUS (R466). -/
def handoffBytes (s : State) (x : Handoff) : List Byte :=
  words64 [word [(32, x.id.toNat), (16, x.other.toNat), (8, b2n !x.isSource), (0, x.state.code)], x.handle.toNat,
    word [(40, x.first), (0, x.count)], min (2 ^ 32 - 1) ((s.pw.uptime - x.since) / 1000000)]

/-- OWN_STATUS (R466). -/
def execOwnStatus (c : Cmd) (s : State) : Res :=
  runVerb c (withParams c 0 [] (fun s =>
    let xs := sortBy (fun a b => decide (a.id.toNat ≤ b.id.toNat)) (vn s (vnodeOf s c)).handoffs
    .now (Reply.ofResult xs.length (xs.flatMap (handoffBytes s))) s)) s

/-! ## SPAN.MOVE (R428) -/

/-- Run the handoff of one span from its holder to a destination; `left` holds the destinations that the home would choose next. -/
def moveTo (c : Cmd) (v : VId) (holder : NodeId) (h : Handle) (span : Nat) (dest : NodeId) (left : List NodeId) (s : State) : State :=
  let p : OfferBlk := ⟨s.nextTag, dest, 1, h, BitVec.ofNat 24 span⟩
  let s := { s with nextTag := s.nextTag + 1 }
  if holder = (vn s v).nodeId then offerOut v p (some c) left s
  else sendCommand v holder 0x0901 (offerBytes p.handoffId dest 1 h span) (.move c v holder h span left) s

/-- The destination has refused SPAN.MOVE's handoff: one with too few FREE frames is none that R44 chooses, and the home turns to the next member;
any other refusal ends the command. -/
def moveRefused (c : Cmd) (v : VId) (holder : NodeId) (h : Handle) (span : Nat) (left : List NodeId) (st : Status) (s : State) : State :=
  match left with
  | dest :: rest => if st = stNoSpace ∧ !(vn s v).fenced then moveTo c v holder h span dest rest s else complete c (Reply.st st) s
  | [] => complete c (Reply.st st) s

/-- SPAN_MOVE (R428): the home node runs one handoff of one span, to the first member of its order of preference that may take it (R44). -/
def execSpanMove (c : Cmd) (t : Target) (prefer : List NodeId) (s : State) : Res :=
  runVerb c (withParams c 32 ((decide (t.spanCount ≠ 1), 72) :: targetFails t ⟨true, false, false, false, false⟩) (fun s =>
    let v := vnodeOf s c
    let r := findHome c t.handle s
    let s := r.2
    match r.1 with
    | .transient => holdForBank (.spanMove c t prefer) c t.handle s
    | .stop rep => .now rep s
    | .found f => match s.seqs.at? f with
      | none => .refuse stMiss s
      | some q => match q.places.at? t.spanFirst.toNat with
        | none => .refuse stMiss s
        | some holder =>
          if q.closing then .refuse stMiss s
          else if seqBusy s v t.handle then .later (defer (.record v t.handle) (.spanMove c t prefer) (knobsOf s c) s)
          else match (candidates (membersOf s c) prefer).filter (fun n => decide (n ≠ holder) && liveIn (membersOf s c) n
              && (decide (n ≠ (vn s v).nodeId) || decide (initialNeed q.geo true ≤ freeForUse s v))) with
            | [] => .refuse stNoSpace s
            | dest :: left =>
              if holder = (vn s v).nodeId ∧ offerDenied s v ⟨s.nextTag, dest, 1, t.handle, t.spanFirst⟩ then .refuse stDenied s
              else .later (moveTo c v holder t.handle t.spanFirst.toNat dest left s))) s

/-! ## Answers by WRITE (R362) -/

/-- The counterpart has answered a command of a handoff. -/
def ownAnswer (id : Nat) (st : Status) (s : State) : State :=
  match s.jobs.at? id with
  | some (.move c v holder h span left) =>
    let s := endJob id s
    moveRefused c v holder h span (if st = stOk then [] else left) st (if st = stFenced then learnFenced v 4 s else s)
  | some (.ownReply v h verb) =>
    let s := endJob id s
    let s := if st = stFenced then learnFenced v 4 s else s
    match handoffAt s v h with
    | none => s
    | some x =>
      if verb = 0 ∧ x.state = .offering ∧ st ≠ stOk then
        let s := dropHandoff v h s
        (match x.cmd with
        | some c => moveRefused c v (vn s v).nodeId x.handle x.first x.left st s
        | none => s)
      else if (vn s v).fenced then s
      else match verb, x.state with
        | 0, .offering =>
          let s := updHandoff v h (fun x => { x with offerAnswered := true }) s
          startCopy v ⟨x.other, false, some h⟩ (x.spans.filterMap (fun n => ownSpan s v x.handle n false)) s
        | 1, .receiving =>
          if st = stOk then enterState v h .accepted s
          else if st = stAborted then abandon v x s
          else s
        | 2, .committing => if st = stOk then sourceReleases v x s else s
        | _, _ => s
  | _ => s

/-- WRITE (R362): the answer to the node's own request, inside the region that it registered under the key; any other is discarded. -/
def writeMsgRow (m : Msg) (payload : List Byte) (s : State) : Res :=
  onMsg m opWrite (fun p => decide (p = payload)) (fun s =>
    match (s.regions.at? m.key).filter (fun r => r.holds m.addr payload.length) with
    | some ⟨.job id, _, _⟩ => ownAnswer id (BitVec.ofNat 16 (bitsOf (wordAt payload 0) 31 16)) { s with regions := s.regions.del m.key }
    | some ⟨.fanout id sub, a, _⟩ => fanWrite id sub m.key (m.addr - a).toNat payload s
    | _ => bumpV .writeRejects m.vnode s) s

/-! ## The manifest and COPY_DONE (R417, R420, R423) -/

/-- COPY_MANIFEST (R417): of a bring-in over the twin link, or of a handoff. -/
def execCopyManifest (h : PeerHdr) (spans : List (Handle × SpanIx)) (s : State) : Res :=
  onPeer h .copy (whenFills fun s =>
    let n := vn s h.vnode
    let a := enterManifest h.vnode spans s
    let s := ackPeer h a.1 0 a.2
    if a.1 = stOk ∧ h.viaTwin ∧ n.pairState = .copying ∧ !n.pairSource ∧ n.twin = h.sender then
      let s := updVn h.vnode (fun n => { n with manifest := spans.map (fun x => (x.1, x.2.toNat)) }) s
      if spans.isEmpty then copyComplete h.vnode s else s
    else s) s

/-- COPY_DONE (R420, R423): once the last span of a handoff is in, the destination mirrors the spans to its twin and offers to accept. -/
def execCopyDone (h : PeerHdr) (s : State) : Res :=
  onPeer h .copy (fun s =>
    let v := h.vnode
    let s := ackPeer h stOk 0 s
    match handoffOf s v h.handle h.span.toNat with
    | none => manifestStep v h.handle h.span.toNat s
    | some x =>
      if x.isSource ∨ h.span.toNat ∈ x.done then s
      else
        let x' : Handoff := { x with done := x.done ++ [h.span.toNat] }
        let s := updHandoff v x.id (fun _ => x') s
        if x'.spans.all (fun n => decide (n ∈ x'.done)) then
          tryAccept v x' ((handoffCopies s v x').foldl (fun s f => mirrorWhole f s) s)
        else s) s

end Sys2Proof.Machine
end

