-- ==== Sys2Proof/Machine/Resume.lean ====
section
/-! DEFINITION. What was held goes on: commands and descriptors held by the directory, by holds on a layer and head, or by an assignment;
the acknowledgements of PEER messages; and the rows whose effect ends such a wait (R67, R79, R85, R91, R112, R393, R396, R397, R418). -/

namespace Sys2Proof.Machine

/-! ## Held commands (R85, R101, R112, R419) -/

/-- The state after a row that always answers a next state; unchanged otherwise. -/
def after (r : Res) (s : State) : State :=
  match r with
  | .next t => t
  | _ => s

/-- Go on with a held command or descriptor. -/
def rerun (d : Deferred) (s : State) : State :=
  match d.instr with
  | .append m bs u => appendFrom (.msg m) (.append m bs u) bs d.knobs false (some d.order) (Upsets.links u.linkFails) s
  | .kvAppend c bs u => appendFrom (.cmd c) (.kvAppend c bs u) bs d.knobs false (some d.order) (Upsets.links u.linkFails) s
  | .spanOpen c p prefer => after (spanOpenRow c p prefer s) s
  | .spanLocate c t prefer => after (spanLocateRow c t prefer s) s
  | .spanClose c t => after (spanCloseRow c t s) s
  | .spanMove c t prefer => after (execSpanMove c t prefer s) s
  | .spanAlias c p => after (spanAliasRow c p s) s
  | .spanCoverage c t => after (execSpanCoverage c t s) s
  | .spanReset c t => after (spanResetRow c t s) s
  | .kvSmooth c h l hd x => after (execKvSmooth c h l hd x s) s
  | .kvMaskSet c h n r k => after (kvMaskSetRow c h n r k s) s
  | .kvMaskTile c h n a b t => after (kvMaskTileRow c h n a b t s) s
  | .kvMaskDrop c t => after (execKvMaskDrop c t s) s
  | .scrubVerify c t => after (execScrubVerify c t s) s
  | .tierPromote c t => after (execTierPromote c t s) s
  | .tierDemote c t => after (execTierDemote c t s) s
  | .tierPin c t => after (execTierPin c t s) s
  | .tierUnpin c t => after (execTierUnpin c t s) s
  | .tierStatus c t => after (execTierStatus c t s) s
  | _ => s

/-- Take a held command off the list. -/
def undefer (id : Nat) (s : State) : State := { s with deferred := s.deferred.filter (fun d => d.id ≠ id) }

/-- Whether what a command waits for, other than the directory, has come about. -/
def awake (s : State) (d : Deferred) : Bool :=
  match d.why with
  | .hold f l h => !(heldAt s f l h)
  | .behind => (match d.append with
    | some (src, bs) =>
      let v := srcVnode s src
      !(behindHeld s (some d.order) v (readAppend bs)) && !(cowPending s v (readAppend bs))
    | none => true)
  | .record v h => !(seqBusy s v h)
  | .fill => true
  | _ => false

/-- Go on with a held command; where it would now allocate a frame of a stack at throttle level 3, it is held for that (R146, R167). -/
def goOn (d : Deferred) (s : State) : State :=
  let t := rerun d (undefer d.id s)
  if fillWaits s t then { s with deferred := s.deferred.map (fun x => if x.id = d.id then { x with why := .fill } else x) } else t

/-- Go on with the held commands of a list that satisfy a test at their turn, in the order of their admission (R101). -/
def runHeld (p : State → Deferred → Bool) (ds : List Deferred) (s : State) : State :=
  (sortBy (fun a b => decide (a.order ≤ b.order)) ds).foldl (fun s d =>
    if s.deferred.any (fun x => decide (x.id = d.id)) && p s d then goOn d s else s) s

/-- Go on with what waited for a hold or an assignment that has ended, end the closes whose requests have completed (R49), and remove the images
that no request reads any more (R289). -/
def wake (s : State) : State :=
  let s := resumeFilled (runHeld awake s.deferred s)
  sweepImages (settle (settleCloses (settleUe s)))

/-- What the node does while no command waits: what part writes have found is handled (R142), map frames are
rebuilt (R296), and time passes (R559). -/
def idle (s : State) : State := countTime (if live s then settleMaps (settleUe s) else s)

/-- A row after which held commands may go on. -/
def waking (f : State → Res) (s : State) : Res :=
  if live s then
    match f s with
    | .next s => .next (wake s)
    | e => e
  else .next s

/-- A row whose frame allocation may wait for RN_FILL at throttle level 3 (R146, R167): `hold` takes the command or message in and holds it.
What its part writes have found is handled (R142). -/
def filling (hold f : State → Res) (s : State) : Res :=
  if live s then
    match f s with
    | .next t => if fillWaits s t then hold s else .next (settleUe t)
    | e => e
  else .next s

/-- Take a command in and hold it until its frame can be filled. -/
def holdCmd (c : Cmd) (i : Instr) : State → Res := runVerb c (fun s => .later (defer .fill i (knobsOf s c) s))

/-- Dispatch the batch of a query descriptor that is held no more (R186). -/
def dispatchHeld (q : HeldQuery) (s : State) : State :=
  match batchOf s q.dest with
  | some b => dispatchBatch b s
  | none => s

/-- Go on with a query descriptor that the directory held, with what it took at its admission (R104, R211). -/
def resumeQuery (id : Nat) (q : HeldQuery) (s : State) : State :=
  let s := { s with attn := { s.attn with held := s.attn.held.del id } }
  dispatchHeld q (match q.fan, q.dest with
    | some raw, .batch b ix => (match (s.attn.batches.at? b).map Batch.src with
      | some (.cmd c) => fanDesc id c b ix q.vnode q.desc raw q.knobs q.stallUs s
      | _ => s)
    | _, _ => admitDesc id q.dest q.vnode q.desc q.rows q.knobs q.mapEpoch q.stallUs (some q.snap) s)

/-- Go on with everything that a bank held. -/
def wakeBank (b : Nat) (s : State) : State :=
  let on (d : Deferred) : Bool := match d.why with
    | .bank x y => decide (x = b) || decide (y = b)
    | _ => false
  let qs := s.attn.held.filter (fun q => decide (q.2.b0 = b) || decide (q.2.b1 = b))
  let s := runHeld (fun _ d => on d) s.deferred s
  wake (qs.foldl (fun s q => resumeQuery q.1 q.2 s) s)

/-- Whether an entry is still on its way into its bank. -/
def entryWaits (s : State) (e : DirEntry) : Bool :=
  let p := bankPair e.handle
  ((bankAt s p.1).find e).isNone && ((bankAt s p.2).find e).isNone
    && (decide (e ∈ (bankAt s p.1).pendingInserts) || decide (e ∈ (bankAt s p.2).pendingInserts))

/-- Complete the commands that waited for their entry (R126): one whose entry was cleared meanwhile is aborted. TWIN.SOLO completes when no SPAN
entry of its takeover is on its way any more (R414). -/
def settleEntries (s : State) : State :=
  s.jobs.foldl (fun s j => match j.2 with
    | .entry c e =>
      let p := bankPair e.handle
      if ((bankAt s p.1).find e).isSome ∨ ((bankAt s p.2).find e).isSome then complete c (Reply.st stOk) (endJob j.1 s)
      else if e ∈ (bankAt s p.1).pendingInserts ∨ e ∈ (bankAt s p.2).pendingInserts then s
      else complete c (Reply.st stAborted) (endJob j.1 s)
    | .takeover c es =>
      let left := es.filter (entryWaits s)
      if left.isEmpty then complete c (Reply.st stOk) (endJob j.1 s) else setJob j.1 (.takeover c left) s
    | _ => s) s

/-- What the change of a bank brings: records whose entry is out are released, commands whose entry is in complete, and searches that the bank
held are repeated. -/
def bankChanged (b : Nat) (s : State) : State := wakeBank b (settle (settleEntries (sweepLeaving s)))

/-! ## The directory's ends (R79, R82, R85, R91) -/

/-- DIR_UPDATE_END (R82, R85): the update under way in a bank ends, and the searches that it held are repeated. -/
def execDirUpdateEnd (bank : BitVec 4) (s : State) : Res :=
  onNode (fun s =>
    if (bankAt s bank.toNat).current.isNone then s else bankChanged bank.toNat (endUpdate bank.toNat s)) s

/-- DIR_BANK_REBUILD_END (R79): entries and shadows stand as the records give them. -/
def execDirBankRebuildEnd (bank : BitVec 4) (s : State) : Res :=
  onNode (fun s =>
    if !(bankAt s bank.toNat).rebuilding then s
    else bankChanged bank.toNat (rebuildBank bank.toNat s)) s

/-- Answer a command that ends while it is held. -/
def endHeld (d : Deferred) (st : Status) (s : State) : State :=
  let end_ (c : Cmd) : State := complete c (Reply.st st) s
  match d.instr with
  | .append m bs _ => answerAppend (.msg m) (readAppend bs) { status := st } s
  | .kvAppend c bs _ => answerAppend (.cmd c) (readAppend bs) { status := st } s
  | .spanOpen c _ _ => end_ c
  | .spanLocate c _ _ => end_ c
  | .spanClose c _ => end_ c
  | .spanMove c _ _ => end_ c
  | .spanAlias c _ => end_ c
  | .spanCoverage c _ => end_ c
  | .spanReset c _ => end_ c
  | .kvSmooth c _ _ _ _ => end_ c
  | .kvMaskSet c _ _ _ _ => end_ c
  | .kvMaskTile c _ _ _ _ _ => end_ c
  | .kvMaskDrop c _ => end_ c
  | .scrubVerify c _ => end_ c
  | .tierPromote c _ => end_ c
  | .tierDemote c _ => end_ c
  | .tierPin c _ => end_ c
  | .tierUnpin c _ => end_ c
  | .tierStatus c _ => end_ c
  | _ => s

/-- Answer a query descriptor that ends while it is held. -/
def endQuery (id : Nat) (q : HeldQuery) (st : Status) (s : State) : State :=
  let s := { s with attn := { s.attn with held := s.attn.held.del id } }
  let s := if q.fan.isSome then bump .fanoutFailures s else s
  settle (dispatchHeld q (refuseDesc q.dest q.vnode q.desc st none 0 s))

/-- DIR_WAIT_EXPIRY (R85): DIR_WAIT_NS has passed since the first search: where a bank of the pair is still busy what it held ends, and
otherwise it goes on. -/
def execDirWaitExpiry (job : Nat) (s : State) : Res :=
  onNode (fun s =>
    match s.deferred.find? (fun d => decide (d.id = job)), s.attn.held.at? job with
    | some d, _ => (match d.why with
      | .bank x y => wake (if pairBusy s (x, y) then endHeld d stMissTransient (undefer job s) else goOn d s)
      | _ => s)
    | none, some q => wake (if pairBusy s (q.b0, q.b1) then endQuery job q stMissTransient s else resumeQuery job q s)
    | none, none => s) s

/-- What clearing the directory of a virtual node brings: every bank has changed. -/
def dirCleared (v : VId) (s : State) : State := (List.range 16).foldl (fun s b => bankChanged b s) (clearDir v s)

/-- DIR_CLEAR (R91): the directory is empty when it completes. -/
def execDirClear (c : Cmd) (s : State) : Res :=
  runVerb c (withParams c 0 [] (fun s => .now (Reply.st stOk) (dirCleared (vnodeOf s c) s))) s

/-! ## Time limits -/

/-- SPAN_CREATE_TIMEOUT (R47): the member asked has not confirmed. -/
def execSpanCreateTimeout (tag : BitVec 32) (s : State) : Res :=
  onNode (fun s =>
    match s.peerSent.at? tag with
    | some x => (match x.msg.body, x.job with
      | .spanCreate .., some j => wake (assignAnswer j false { s with peerSent := s.peerSent.del tag })
      | _, _ => s)
    | none => s) s

/-- KV_SMOOTH_TIMEOUT (R112): a span node has not reported. -/
def execKvSmoothTimeout (job : Nat) (s : State) : Res :=
  onNode (fun s =>
    match s.jobs.at? job with
    | some (.smooth c v h l hd _ waiting asked _) =>
      let s := smoothEnd v h l hd asked none (dropSent (fun x => decide (x.job = some job)) (endJob job s))
      wake (complete c ⟨stTimeout, 0, waiting.head?, 0, 0, 0, []⟩ s)
    | _ => s) s

/-- SMOOTH_INSTALL (R112): the vector, where there is one, and the end of the hold. -/
def execSmoothInstall (h : PeerHdr) (layer : BitVec 16) (head : BitVec 8) (sigma : Option (List (BitVec 32))) (s : State) : Res :=
  onPeer h .other (fun s =>
    let s := match sigma with
      | some x => installSigma h.vnode h.handle layer.toNat head.toNat x s
      | none => s
    wake (ackPeer h stOk 0 (freeLayer h.vnode h.handle layer.toNat head.toNat s))) s

/-- Take an append that waits for a twin off its job: its source and descriptor. -/
def dropAppend (id : Nat) (s : State) : Option (AppendSrc × AppendDesc × FrameId × State) :=
  match s.jobs.at? id with
  | some (.syncAppend src bs rec _ _ _ _ _) =>
    some (src, readAppend bs, rec, dropSent (fun x => decide (x.job = some id)) (endJob id (freeAppend id s)))
  | some (.lagAppend src bs rec _ _) => some (src, readAppend bs, rec, endJob id (freeAppend id s))
  | _ => none

/-- MIRROR_ACK_TIMEOUT (R396, R397): TWIN_ACK_WAIT_US has passed; the descriptor writes nothing. -/
def execMirrorAckTimeout (job : Nat) (s : State) : Res :=
  onNode (fun s =>
    match dropAppend job s with
    | none => s
    | some (src, d, rec, s) =>
      let e := takeEstimate s
      wake (answerAppend src d (outFrom s rec d { status := stRetryAfter, hint := e.1 }) (bump .mirrorRetries e.2))) s

/-- DATA_REQUEST_TIMEOUT (R67): 8 s have passed since a data request was admitted, or since a command of the TIER family began its present
page operation. -/
def execDataRequestTimeout (req : Nat) (s : State) : Res :=
  onNode (fun s =>
    if s.attn.reqs.has req then settle (failReq req stTimeout 0 s)
    else match s.attn.held.at? req with
      | some q => wake (endQuery req q stTimeout s)
      | none => match dropAppend req s with
        | some (src, d, rec, s) => wake (answerAppend src d (outFrom s rec d { status := stTimeout }) s)
        | none => match s.deferred.find? (fun d => decide (d.id = req)) with
          | some d => (match d.instr with
            | .append m bs _ => wake (answerAppend (.msg m) (readAppend bs) { status := stTimeout } (undefer req s))
            | .kvAppend c bs _ => wake (answerAppend (.cmd c) (readAppend bs) { status := stTimeout } (undefer req s))
            | _ => s)
          | none => match s.jobs.at? req with
            | some (.tier c _ _ _) => complete c (Reply.st stTimeout) (endJob req s)
            | _ => s) s

/-! ## Rows whose frame allocation may wait -/

/-- APPEND (R93, R102). -/
def execAppend (m : Msg) (payload : List Byte) (u : Upsets) (s : State) : Res :=
  filling (onMsg m opAppend (fun p => decide (p = payload)) (fun t => defer .fill (.append m payload u) (msgKnobs s m) (applyDirUpsets u t))) (appendMsgRow m payload u) s

/-- KV_APPEND (R98). -/
def execKvAppend (c : Cmd) (payload : List Byte) (u : Upsets) (s : State) : Res :=
  filling (fun s => holdCmd c (.kvAppend c payload u) (applyDirUpsets u s)) (kvAppendRow c payload u) s

/-- SPAN_OPEN (R47). -/
def execSpanOpen (c : Cmd) (p : SpanOpenBlk) (prefer : List NodeId) (s : State) : Res :=
  filling (holdCmd c (.spanOpen c p prefer)) (spanOpenRow c p prefer) s

/-- SPAN_LOCATE (R45–R47, R452). -/
def execSpanLocate (c : Cmd) (t : Target) (prefer : List NodeId) (s : State) : Res :=
  filling (holdCmd c (.spanLocate c t prefer)) (spanLocateRow c t prefer) s

/-- SPAN_ALIAS (R126). -/
def execSpanAlias (c : Cmd) (p : AliasBlk) (s : State) : Res := filling (holdCmd c (.spanAlias c p)) (spanAliasRow c p) s

/-- KV_MASK_SET (R208). -/
def execKvMaskSet (c : Cmd) (handle : Handle) (span : SpanIx) (maskRows : BitVec 14) (initialKind : BitVec 2) (s : State) : Res :=
  filling (holdCmd c (.kvMaskSet c handle span maskRows initialKind)) (kvMaskSetRow c handle span maskRows initialKind) s

/-- KV_MASK_TILE (R209). -/
def execKvMaskTile (c : Cmd) (handle : Handle) (span : SpanIx) (tileRow : BitVec 6) (tileCol : BitVec 13) (tile : List Byte)
    (s : State) : Res :=
  filling (holdCmd c (.kvMaskTile c handle span tileRow tileCol tile)) (kvMaskTileRow c handle span tileRow tileCol tile) s

/-! ## Rows whose effect ends a wait -/

/-- STACK_SENSOR_READ (R167, R168): a fall below level 3 lets runner commands and fills go on. -/
def execStackSensorRead (stack : BitVec 3) (temp : Int) (power : Nat) (quietMs : Bool) (s : State) : Res :=
  waking (sensorRow stack temp power quietMs) s

/-- PAGE_SEAL (R119). -/
def execPageSeal (s : State) : Res := waking pageSealRow s

/-- APERTURE_WRITE (R435, R436). -/
def execApertureWrite (offset : BitVec 28) (bytes : List Byte) (u : Upsets) (s : State) : Res := waking (apertureWriteRow offset bytes u) s

/-- SPAN_CLOSE (R48, R49). -/
def execSpanClose (c : Cmd) (t : Target) (s : State) : Res := waking (spanCloseRow c t) s

/-- SEQ_CLOSE (R49). -/
def execSeqClose (h : PeerHdr) (s : State) : Res := waking (seqCloseRow h) s

/-- SPAN_FILL_REPORT (R45, R105). -/
def execSpanFillReport (h : PeerHdr) (prefer : List NodeId) (s : State) : Res := waking (fillReportRow h prefer) s

/-- SPAN_RESET (R416). -/
def execSpanReset (c : Cmd) (t : Target) (s : State) : Res := waking (spanResetRow c t) s

/-- NODE_MAP (R373). -/
def execNodeMap (c : Cmd) (p : MapBlk) (prefer : List NodeId) (s : State) : Res := waking (nodeMapRow c p prefer) s

/-- TWIN_SOLO (R413, R414, R421). -/
def execTwinSolo (c : Cmd) (takeover : Bool) (s : State) : Res := waking (twinSoloRow c takeover) s

/-- WRITE (R362). -/
def execWrite (m : Msg) (payload : List Byte) (s : State) : Res := waking (writeMsgRow m payload) s

/-- OWN_RESOLVE (R427). -/
def execOwnResolve (c : Cmd) (handoffId : BitVec 32) (winner : BitVec 1) (s : State) : Res := waking (ownResolveRow c handoffId winner) s

/-- OWN_WAIT_EXPIRY (R424, R425). -/
def execOwnWaitExpiry (v : VId) (handoffId : BitVec 32) (s : State) : Res := waking (ownWaitRow v handoffId) s

/-! ## Acknowledgements (R393) -/

/-- Forget a message that has been acknowledged. -/
def forget (tag : BitVec 32) (s : State) : State := { s with peerSent := s.peerSent.del tag }

/-- Note the rows that the twin holds (R397); the rows that a handoff's destination holds are counted apart. -/
def noteAcked (twinLink : Bool) (v : VId) (h : Handle) (span : Nat) (ims : List RowsImage) (s : State) : State :=
  match if twinLink then ownSpan s v h span false else none with
  | none => s
  | some f => updSpan f (fun r => { r with acked := ims.foldl (fun t i =>
      t.upd (i.layer, i.head) 0 (fun n => max n (i.fillBefore + i.rows.length))) r.acked }) s

/-- Go on with the appends that wait for one acknowledgement or for the lag to fall (R396, R397). -/
def appendsAcked (v : VId) (job : Option Nat) (s : State) : State :=
  let s := match job with
    | some j => if jobOpen s j then s else resumeAppend j true s
    | none => s
  (s.jobs.filterMap (fun j => match j.2 with
    | .lagAppend src .. => if srcVnode s src = v then some j.1 else none
    | _ => none)).foldl (fun s j => resumeAppend j false s) s

/-- A message of a span's copy has been acknowledged: after the last one COPY_DONE goes out, and after that the span is done. -/
def copyStep (m : PeerMsg) (job : Option Nat) (s : State) : State :=
  match job with
  | none => s
  | some j =>
    if jobOpen s j then s
    else match s.jobs.at? j with
      | some (.copy v ho h span 0) =>
        sendPeer v m.dest m.twinLink h span .copyDone (some j) (setJob j (.copy v ho h span 1) s)
      | some (.copy v none h span _) => manifestStep v h span (endJob j s)
      | some (.copy v (some id) _ span _) => updHandoff v id (fun x => { x with done := x.done ++ [span] }) (endJob j s)
      | _ => s

/-- How a copied page stands at its source. -/
inductive CopyStand where
  /-- It reads: it can be sent. -/
  | reads (body : PeerBody)
  /-- Its resolution or repair is awaited: the result is still to come. -/
  | awaited
  /-- It is POISONED, lost or gone: there is nothing to send. -/
  | gone

/-- How a page that is being copied stands. -/
def copyStand (s : State) (m : PeerMsg) (layer head page : Nat) : CopyStand :=
  match ownSpan s m.vnode m.handle m.span.toNat false with
  | none => .gone
  | some f =>
    let p : PageRef := ⟨f, layer, head, page⟩
    if (awaited s p).isSome then .awaited
    else if ((pageAt s p).map Page.poison) ≠ some none then .gone
    else match copyPageBody s p with
      | some b => .reads b
      | none => .gone

/-- Send a copied page as it stands, wait for its resolution, or leave it. -/
def sendCopy (tag : BitVec 32) (x : PeerSent) (layer head page : Nat) (s : State) : State :=
  match copyStand s x.msg layer head page with
  | .reads b =>
    let m : PeerMsg := { x.msg with body := b }
    handPeer m { s with peerSent := s.peerSent.put tag { x with msg := m } }
  | .awaited => { s with peerSent := s.peerSent.put tag x }
  | .gone => copyStep x.msg x.job (forget tag s)

/-- A copied page has failed its check at the destination (R418): it is sent once more; after a second failure the source resolves its own copy
under R280 and sends the result, once the resolution has ended. -/
def copyFailed (tag : BitVec 32) (x : PeerSent) (layer head page : Nat) (s : State) : State :=
  let m := x.msg
  if 2 ≤ x.tries then copyStep m x.job (forget tag s)
  else
    let s := match x.tries, ownSpan s m.vnode m.handle m.span.toNat false with
      | 1, some f => verifyPage ⟨f, layer, head, page⟩ s
      | _, _ => s
    sendCopy tag { x with tries := x.tries + 1 } layer head page s

/-- The twin's seal differs (R399): the page is resolved under R282 and R283. -/
def sealDiffers (m : PeerMsg) (layer head page : Nat) (s : State) : State :=
  match ownSpan s m.vnode m.handle m.span.toNat false with
  | none => s
  | some f =>
    let p : PageRef := ⟨f, layer, head, page⟩
    match pageAt s p, spanAt s f with
    | some x, some r =>
      if (awaited s p).isSome ∨ x.poison.isSome then s
      else match pageContent s r.geo.fmt x.loc with
        | .bytes bs => askOther p (contentHash x bs) (awaitPage p (some (contentHash x bs)) s)
        | _ => s
    | _, _ => s

/-- The twin has taken a seal. -/
def sealTaken (m : PeerMsg) (layer head page : Nat) (s : State) : State :=
  match ownSpan s m.vnode m.handle m.span.toNat false with
  | some f => updPage ⟨f, layer, head, page⟩ (fun x => { x with mirrored := true }) s
  | none => s

/-- The twin has no copy of a page that is awaited (R285, R296). -/
def noCopy (m : PeerMsg) (layer head page : Nat) (s : State) : State :=
  let f := match ownSpan s m.vnode m.handle m.span.toNat false with
    | some f => some f
    | none => ownSpan s m.vnode m.handle m.span.toNat true
  match f with
  | some f => if (awaited s ⟨f, layer, head, page⟩).isSome then noGoodCopy ⟨f, layer, head, page⟩ s else s
  | none => s

/-- The home has taken a span node's report (R45): with the next span assigned, a full span gives up its spare (R121). -/
def reportTaken (m : PeerMsg) (ok : Bool) (s : State) : State :=
  match ownSpan s m.vnode m.handle m.span.toNat false with
  | some f => if ok then dropLowerSpare f (mirrorSpan f (updSpan f (fun r => { r with passed := true }) s)) else s
  | none => s

/-- What the acknowledgement of a message brings. A message whose status asks for it again stays, and PEER_RESEND sends it. -/
def ackOf (tag : BitVec 32) (x : PeerSent) (st : Status) (fill : Nat) (s : State) : State :=
  let m := x.msg
  let ok := decide (st = stOk)
  match m.body with
  | .mirrorRows ims =>
    if ok then appendsAcked m.vnode x.job (noteAcked m.twinLink m.vnode m.handle m.span.toNat ims (forget tag s)) else s
  | .copyRows ims =>
    if ok then appendsAcked m.vnode x.job (noteAcked m.twinLink m.vnode m.handle m.span.toNat ims (forget tag s)) else s
  | .mirrorSeal l h p _ =>
    if st = stReplicaDivergent then sealDiffers m l h p (forget tag s)
    else if ok then sealTaken m l h p (forget tag s)
    else if st = stMiss then forget tag s
    else s
  | .mirrorRecord _ => if ok then (match x.job with
      | some j => seqMoved j (forget tag s)
      | none => forget tag s) else s
  | .verifyReq l h p _ _ => if st = stMiss then noCopy m l h p (forget tag s) else forget tag s
  | .codeContrib .. => contribAck m.vnode tag ok (forget tag s)
  | .codeNull .. => contribAck m.vnode tag ok (forget tag s)
  | .copyManifest _ => if ok then forget tag s else s
  | .copyRecord _ => if ok then copyStep m x.job (forget tag s) else s
  | .copyDone => if ok then copyStep m x.job (forget tag s) else s
  | .copyPage l h p _ _ =>
    if ok then copyStep m x.job (forget tag s) else if st = stCheckFail then copyFailed tag x l h p s else s
  | .homeUpdate => if ok then forget tag s else s
  | .seqClose => (match x.job with
    | some j => if st = stDenied then closeDenied j (forget tag s) else closeAck j m.dest (forget tag s)
    | none => forget tag s)
  | .fillReport => if st = stMissTransient ∨ st = stNoSpace then s else reportTaken m ok (forget tag s)
  | .spanCreate .. => (match x.job with
    | some j => assignAnswer j ok (forget tag s)
    | none => forget tag s)
  | .smoothHold .. => (match x.job with
    | some j => smoothReport j m.dest fill (forget tag s)
    | none => forget tag s)
  | _ => forget tag s

/-- The destinations that may now offer to accept (R423). -/
def acceptsDue (v : VId) (s : State) : State :=
  (vn s v).handoffs.foldl (fun s x =>
    if !x.isSource ∧ x.state = .receiving ∧ !x.acceptSent then tryAccept v x s else s) s

/-- PEER_ACK (R393): the answer to a message that this node sent to that node. One whose effect would allocate a frame of a stack at throttle level
3 is left, and comes again when the message is resent (R146, R167). -/
def execPeerAck (h : PeerHdr) (status : Status) (fill : Nat) (s : State) : Res :=
  onPeerAck h (whenFills fun s =>
    match s.peerSent.at? h.tag with
    | none => s
    | some x =>
      if x.msg.dest ≠ h.sender then s
      else
        let s := if status = stFenced then learnFenced h.vnode 4 s else s
        wake (acceptsDue h.vnode (ackOf h.tag x status fill s))) s

/-- A message with the present home of its handle as its destination. -/
def toHome (s : State) (m : PeerMsg) : PeerMsg :=
  match (vn s m.vnode).map.bind (fun k => homeUnder k m.handle) with
  | some n => { m with dest := n }
  | none => m

/-- A message as it is sent again: HOME_UPDATE and a report of R45 go to the present home. -/
def refreshed (s : State) (m : PeerMsg) : PeerMsg :=
  match m.body with
  | .homeUpdate => toHome s m
  | .fillReport => toHome s m
  | _ => m

/-- PEER_RESEND (R393, R408): 1 ms has passed without an acknowledgement. Twin traffic waits while the twin link is down, and a copied page goes as
it stands (R418). -/
def execPeerResend (tag : BitVec 32) (s : State) : Res :=
  onNode (fun s =>
    match s.peerSent.at? tag with
    | none => s
    | some x =>
      let m := refreshed s x.msg
      let n := vn s m.vnode
      if peerBlocked s m.vnode m.dest ∨ (m.twinLink ∧ n.pairing.isNone ∧ !n.twinUp) then s
      else match m.body with
      | .copyPage l h p _ _ => sendCopy tag { x with msg := { m with fenceEpoch := n.fenceEpoch } } l h p s
      | _ => handPeer { m with fenceEpoch := n.fenceEpoch } { s with peerSent := s.peerSent.put tag { x with msg := m } }) s

/-- ASYNC_MIRROR_SEND (R397): the oldest message of the queue goes to the twin. -/
def execAsyncMirrorSend (v : VId) (s : State) : Res :=
  onNode (fun s =>
    match (vn s v).mirrorQueue with
    | [] => s
    | (h, span, body) :: rest =>
      if paired s v ∧ (vn s v).twinUp then
        sendPeer v (vn s v).twin true h span body none (updVn v (fun n => { n with mirrorQueue := rest }) s)
      else s) s

end Sys2Proof.Machine
end

