-- ==== Sys2Proof/Machine/Tenancy.lean ====
section
/-! DEFINITION. A tenant change, in its steps (R64, R91, R144, R315, R493, R537, R544–R547, R549). -/

namespace Sys2Proof.Machine

/-- Tenancy states (R543). -/
def tenNone : Nat := 0
/-- OPEN. -/
def tenOpen : Nat := 1
/-- SEALED. -/
def tenSealed : Nat := 2

/-! ## Step 2: admitted requests end -/

/-- End every query in service with ST_ABORTED. -/
def abortQueries (s : State) : State :=
  let s := failReqs (s.attn.reqs.map Prod.fst) stAborted s
  let s := s.attn.held.foldl (fun s q => endQuery q.1 q.2 stAborted s) s
  s.attn.fanouts.foldl (fun s f => fanFail f.1 f.2 f.2.desc.spanFirst f.2.desc.spanCount stAborted (vn s f.2.vnode).nodeId 0 s) s

/-- End every append descriptor that a message brought and that waits. -/
def abortAppends (s : State) : State :=
  let s := s.deferred.foldl (fun s d => match d.instr with
    | .append .. => endHeld d stAborted s
    | _ => s) s
  s.jobs.foldl (fun s j => match j.2 with
    | .syncAppend (.msg m) bs _ _ _ _ _ _ => answerAppend (.msg m) (readAppend bs) { status := stAborted } s
    | .lagAppend (.msg m) bs _ _ _ => answerAppend (.msg m) (readAppend bs) { status := stAborted } s
    | _ => s) s

/-- The commands that a tenant change lets go on (R545 step 1): the LOG family, CFG.READ, ORDER.FENCE and the NODE.RING commands. -/
def goesOn (c : Cmd) : Bool :=
  decide (c.hdr.opcode.toNat / 256 = 0x0F) || decide (c.hdr.opcode.toNat ∈ [0x0103, 0x0C01, 0x0A06, 0x0A07])

/-- End every other admitted command with ST_ABORTED. -/
def abortCommands (s : State) : State :=
  (s.host.admitted.filter (fun a => !(goesOn a.cmd))).foldl (fun s a =>
    if (admission s a.cmd).isSome then completeOnly a.cmd (Reply.st stAborted) s else s) s

/-- End a message of the headrace whose request was admitted with it (R359): its answer carries ST_ABORTED. -/
def abortEntered (s : State) (e : Entered) : State :=
  let v := vnodeOfQpn s e.qpn
  let m : Msg := ⟨v, e.qpn, ((qpAt s e.qpn).map Qp.peer).getD 0xFFFF, e.msn, e.head.mapEpoch, e.head.addr, e.head.key, e.head.aux⟩
  if e.head.op.toNat = opAppend then answerAppend (.msg m) (readAppend e.payload) { status := stAborted } s
  else if e.head.op.toNat = opQuery then
    match readQuery e.payload with
    | none => refuseQuery m e.payload stBadParam s
    | some ds => (ds.zip (List.range ds.length)).foldl (fun s d =>
        sendRecord m (m.addr + BitVec.ofNat 64 (d.2 * m.aux.toNat)) none
          (hdrBytes (statusOnly d.1.1 (vn s v).nodeId (mapEpochOf s v) stAborted 0)) s) s
  else if e.head.op.toNat = opCommand then
    sendReply v e.qpn m.sender m.addr m.key none
      (replyBytes s v (BitVec.ofNat 32 (leNat (e.payload.take 4))) (BitVec.ofNat 16 (leNat ((e.payload.drop 6).take 2))) (Reply.st stAborted)) s
  else s

/-- Answer the COMMAND messages that stand behind a held one and were not admitted (R545 step 1). -/
def refuseHeld (s : State) : State :=
  s.host.qpHeld.foldl (fun s q => q.2.foldl (fun s x =>
    refuseNew ⟨.fabric q.1 x.1.sender x.1.addr x.1.key, x.2, 0⟩ (Reply.retry 5000) s) s) s

/-- Free every synchronisation object (R493): its waiters end with ST_ABORTED first. -/
def freeObjects (s : State) : State :=
  let s := s.sync.waiters.foldl (fun s w =>
    if s.sync.waiters.any (fun x => decide (x.id = w.id)) then endWaiter w stAborted (dropWaiter w.id s) else s) s
  let s := refuseHeld s
  { s with
    sync := { s.sync with objs := [], waiters := [], due := [] }
    host := { s.host with qpHeld := [], qpReady := [] } }

/-- Keep of the work in progress what outlives a tenant change: fences, and flash programs and erases that the brake state holds. -/
def dropWork (s : State) : State :=
  { s with
    jobs := s.jobs.filter (fun j => match j.2 with
      | .fence .. => true
      | _ => false)
    deferred := s.deferred.filter (fun d => decide (d.why = .brake))
    peerSent := []
    regions := []
    sealQueue := []
    holds := [] }

/-- Step 2 of R545. -/
def endRequests (s : State) : State := dropWork (freeObjects (abortCommands (abortAppends (abortQueries (s.fab.entered.foldl abortEntered s)))))

/-! ## Steps 3 to 5 -/

/-- A virtual node after step 3: UNPAIRED, without peers, code set and map epochs. The fabric identity, the pairing epochs, the fence and
the neighbour entries stay. -/
def leaveFabric (n : VNode) : VNode :=
  { VNode.reset with
    nodeId := n.nodeId
    pfx := n.pfx
    forwarding := n.forwarding
    neighbours := n.neighbours
    pairEpoch := n.pairEpoch
    prevPairEpoch := n.prevPairEpoch
    hbSeq := n.hbSeq
    fenceEpoch := n.fenceEpoch
    fenceSet := n.fenceSet
    fenced := n.fenced }

/-- Step 3 of R545. -/
def cutFabric (s : State) : State :=
  let s := { s with vnodes := s.vnodes.map (fun (n : VId × VNode) => (n.1, { n.2 with peers := [] })) }
  let s := (s.fab.qps.map Prod.fst).foldl (fun s q => qpError q 3 s) s
  let s := (s.fab.assocs.map Prod.fst).foldl (fun s k => dropAssoc k s) s
  { s with
    fab := { s.fab with agreements := [], entered := [] }
    vnodes := s.vnodes.map (fun (n : VId × VNode) => (n.1, leaveFabric n.2)) }

/-- A data key pair derived from TK (R544). -/
def dataKeyPair (tk info : List Byte) : List Byte := hkdf tk (leBytes 8 deviceUid.toNat) info 64

/-- Step 4 of R545: the keys of slots 1 to 3 are destroyed, and new ones installed where a key is given; without one, interim keys are
generated. Frame rows written under the old keys cannot be read (R144). -/
def changeKeys (tk : Option (List Byte)) (s : State) : State :=
  let s := dropKey 3 (dropKey 2 (dropKey 1 s))
  let s := { s with mem := s.mem.rekeyFrames, mgmt := { s.mgmt with tk := tk } }
  match tk with
  | some k => installKey 3 (installKey 2 (installKey 1 { s with mgmt := { s.mgmt with
      hbmKeys := dataKeyPair k (ascii "Walgon HBM XTS".toList), flashKeys := dataKeyPair k (ascii "Walgon flash XTS".toList) } }))
  | none => interimKeys s

/-- Repair the frames that held an uncorrectable codeword before they enter FREE (R297). -/
def repairFrames (s : State) : State :=
  (s.frames.filter (fun p => !p.2.ue.isEmpty && decide (p.2.use ≠ .withheld))).foldl (fun s p => (repairFrame p.1 s).2) s

/-- A frame after step 5. -/
def freedFrame (s : State) (p : FrameId × Frame) : FrameId × Frame :=
  if p.1 ∈ s.withheld ∨ p.2.state = .quarantined ∨ p.2.use = .withheld then p
  else if p.2.gen = 0xFFFFFFFF then (p.1, { Frame.reset with state := .quarantined, gen := p.2.gen, vnode := p.2.vnode })
  else (p.1, { Frame.reset with gen := p.2.gen })

/-- A runner after step 5: its sequences have ended with their requests, the refreshes owed are issued, and its core's millpond slice holds
zeros. -/
def Runner.forgotten (r : Runner) : Runner := { r with live := [], pond := [], pondMax := [], pondMag := [] }

/-- Step 5 of R545. -/
def forgetPages (s : State) : State :=
  let s := repairFrames s
  let s := { s with
    frames := s.frames.map (freedFrame s)
    spans := []
    seqs := []
    masks := []
    maskPages := []
    hbm := { s.hbm with verifyLeft := [], awaiting := [] }
    tier := { s.tier.forgotten with targets := s.tier.targets, nextGen := s.tier.nextGen }
    attn := { Attn.reset with partials := s.attn.partials }
    runners := s.runners.map (fun r => (r.1, r.2.forgotten))
    hbmStacks := s.hbmStacks.map (fun x => (x.1, { x.2 with owed := [] }))
    fab := { s.fab with qps := [] } }
  (List.range (vnodeCount s)).foldl (fun s v => clearDir (BitVec.ofNat 2 v) s) s

/-! ## Steps 6 and 7 -/

/-- Step 6 of R545, but for the end of the TENANT sessions: counters, and the event log, whose EVENT_SEQ continues (R487). -/
def forgetLog (s : State) : State :=
  { s with
    ctr := []
    hbmStacks := s.hbmStacks.map (fun x => (x.1, { x.2 with levelSince := s.pw.uptime }))
    log := { s.log with
      events := [], dropped := s.log.dropped + s.log.events.length, lastApertureDenied := none, lastPlaceFail := [] } }

/-- TENANCY_KEY_ID (R545). -/
def tenancyKeyId (tk : Option (List Byte)) : List Byte :=
  match tk with
  | some k => (hkdf k [] (ascii "Walgon key id".toList) 16).take 16
  | none => zeros 16

/-- KEY_GEN of a slot. -/
def keyGen (s : State) (slot : Nat) : BitVec 32 := (s.mgmt.slots.atD slot (false, 0)).2

/-- Step 7 of R545. -/
def enterTenancy (new : Nat) (tk : Option (List Byte)) (s : State) : State :=
  let old := s.mgmt.tenancy
  let id := tenancyKeyId tk
  let s := { s with mgmt := { s.mgmt with
    tenancy := new, keyId := id, tenancies := min 0xFFFF (s.mgmt.tenancies + 1), lastHostDenied := none } }
  let s := extendMeas 5 (sha256 (BitVec.ofNat 8 new :: id)) s
  logFrom 0 0x0C05 srcMgmt [(8, old), (8, new), (32, (keyGen s 1).toNat), (64, leNat (id.take 8)), (64, leNat (id.drop 8))] s

/-- A tenant change (R545): its steps in order, the end of the TENANT sessions left to the operation that runs it. -/
def tenantChange (new : Nat) (tk : Option (List Byte)) (s : State) : State :=
  settle (enterTenancy new tk (forgetLog (forgetPages (changeKeys tk (cutFabric (endRequests s))))))

/-- Change the debug lock, logging a change (R549). -/
def setDebugLock (open_ : Bool) (s : State) : State :=
  if s.mgmt.debugLockOpen = open_ then s
  else logFrom 0 0x0C06 srcMgmt [] { s with mgmt := { s.mgmt with debugLockOpen := open_ } }

/-- Whether a fabric anchor list is well formed (R547). -/
def anchorsOk (as_ : List AnchorEntry) : Bool :=
  decide (as_.length ≤ 64) && as_.all (fun a => (decide (a.kind = 1) || decide (a.kind = 2)) && decide (a.digest.length = 32))

/-- Replace the fabric anchor list: associations whose peer it does not accept are dropped at once (R547). -/
def setAnchors (as_ : List AnchorEntry) (s : State) : State :=
  let s := { s with mgmt := { s.mgmt with anchors := as_ } }
  (s.fab.assocs.filter (fun a => !(anchorAccepts as_ a.2.root a.2.device))).foldl (fun s a => dropAssoc a.1 s) s

end Sys2Proof.Machine
end

