-- ==== Sys2Proof/Machine/Mgmt.lean ====
section
/-! DEFINITION. The I3C target, management sessions and operations, attestation, SPDM and IDE (R530–R549). -/

namespace Sys2Proof.Machine

/-! ## The I3C target (R531) -/

/-- SETDASA (R531): the static address is 0x3A. -/
def execSetdasa (staticAddr dynamicAddr : BitVec 7) (s : State) : Res :=
  .next (if i3cAnswers s ∧ staticAddr = 0x3A then { s with mgmt := { s.mgmt with dynAddr := some dynamicAddr } } else s)

/-- OPERATOR_ANCHOR (R531): written from an offset within the register, and ignored while ANCHOR_LOCK is 1. -/
def execOperatorAnchor (offset : BitVec 5) (bytes : List Byte) (s : State) : Res :=
  .next (if i3cAnswers s ∧ !s.mgmt.anchorLock then
    { s with mgmt := { s.mgmt with operatorAnchor := (putBytes s.mgmt.operatorAnchor offset.toNat bytes).take 32 } }
  else s)

/-- ANCHOR_LOCK (R531): writing 1 locks until device reset; writing 0 has no effect. -/
def execAnchorLock (value : BitVec 8) (s : State) : Res :=
  .next (if i3cAnswers s ∧ value.getLsbD 0 then { s with mgmt := { s.mgmt with anchorLock := true } } else s)

/-! ## Sessions (R532–R535) -/

/-- Session roles (R532). -/
def roleOperator : Nat := 1
/-- TENANT. -/
def roleTenant : Nat := 2

/-- The key slot of a session. -/
def sessionSlot (i : BitVec 2) : Nat := 13 + i.toNat

/-- End a session. -/
def endSession (i : BitVec 2) (s : State) : State :=
  if s.mgmt.sessions.has i then
    emit (.sessionClosed i) (dropKey (sessionSlot i) { s with mgmt := { s.mgmt with sessions := s.mgmt.sessions.del i } })
  else s

/-- End every TENANT session (R545 step 6). -/
def endTenantSessions (s : State) : State :=
  (s.mgmt.sessions.filter (fun x => decide (x.2.role = roleTenant))).foldl (fun s x => endSession x.1 s) s

/-- The role of a chain (R532): OPERATOR where it ends at both anchors. -/
def roleOf (s : State) (c : Credential) : Option Nat :=
  let d := sha256 c.rootKey
  if d = s.mgmt.operatorAnchor then some roleOperator
  else if d = s.mgmt.tenantAnchor then some roleTenant
  else none

/-- A refused session (R534, R535). -/
def refuseSession (s : State) : State := emit .sessionRefused (logFrom 0 0x0C04 srcMgmt [] (bump .sessionsRefused s))

/-- The lowest free session. -/
def freeSession (s : State) : Option Nat := firstBelow 4 (fun i => !(s.mgmt.sessions.has (BitVec.ofNat 2 i)))

/-- Open a session (R533 steps 2 and 3). -/
def openSession (i : Nat) (role : Nat) (ek nonce : List Byte) (cred : Credential) (s : State) : State :=
  let k := Config.kemEncap ek (Config.randomBytes s.tick 32)
  let mine := Config.randomBytes (s.tick + 1) 32
  let id : BitVec 16 := BitVec.ofNat 16 (Config.freeNat (s.tick + 2))
  let keys := hkdf k.2 (nonce ++ mine) (ascii "Walgon mgmt".toList ++ leBytes 2 id.toNat) 88
  let body := signedStep s (k.1 ++ mine ++ leBytes 2 id.toNat) (cred.signed ++ cred.signature)
  let slot := BitVec.ofNat 2 i
  let s := { s with
    tick := s.tick + 3
    mgmt := { s.mgmt with sessions := s.mgmt.sessions.put slot ⟨id, role, 0, 0, keys⟩ } }
  let s := installKey (sessionSlot slot) (bump .sessionsOpened s)
  emit (.sessionAccept i role body) (logFrom 0 0x0C03 srcMgmt [(16, id.toNat), (8, role)] s)

/-- SESSION_INIT (R530, R533–R535, R601). -/
def execSessionInit (ek nonce : List Byte) (cred : Credential) (s : State) : Res :=
  onNode (fun s =>
    if 2 ≤ s.pw.mgmtMode.toNat ∨ s.pw.fwState ≠ fwRunning then s
    else if !s.mgmt.anchorLock ∨ !s.mgmt.identityOk then emit .sessionRefused s
    else match freeSession s with
      | none => refuseSession s
      | some i =>
        if ek.length ≠ 1184 ∨ nonce.length ≠ 32 ∨ !(credOk s cred (ek ++ nonce)) then refuseSession s
        else match roleOf s cred with
          | none => refuseSession s
          | some role => openSession i role ek nonce cred s) s

/-- SESSION_CLOSE (R535): the connection closes, a record fails its tag, or a direction reaches 2^32 records. -/
def execSessionClose (session : BitVec 2) (_how : SessionEnd) (s : State) : Res := onNode (endSession session) s

/-- SESSION_IDLE_TIMEOUT (R535): 300 s without a record. -/
def execSessionIdleTimeout (session : BitVec 2) (s : State) : Res := onNode (endSession session) s

/-- Count the record of one direction; a session ends when either has reached 2^32 (R535). -/
def countRecord (i : BitVec 2) (sent : Bool) (s : State) : State :=
  match s.mgmt.sessions.at? i with
  | none => s
  | some x =>
    let x := if sent then { x with txRecords := x.txRecords + 1 } else { x with rxRecords := x.rxRecords + 1 }
    let s := { s with mgmt := { s.mgmt with sessions := s.mgmt.sessions.put i x } }
    if 2 ^ 32 ≤ x.txRecords ∨ (sent ∧ 2 ^ 32 ≤ x.rxRecords) then endSession i s else s

/-- Answer a management request. -/
def mgmtAnswer (r : MgmtReq) (st : Status) (body : List Byte) (s : State) : State :=
  countRecord r.session true (emit (.mgmt r.session r.mgmtTag st.toNat body) s)

/-- Serve a management request (R536): one that no session carries does not exist, and one of another role is denied. -/
def onMgmt (r : MgmtReq) (roles : List Nat) (f : State → State) (s : State) : Res :=
  onNode (fun s =>
    match s.mgmt.sessions.at? r.session with
    | none => s
    | some x =>
      let s := countRecord r.session false s
      if x.role ∈ roles then f s else mgmtAnswer r stDenied [] s) s

/-- Every role. -/
def anyRole : List Nat := [roleOperator, roleTenant]

/-! ## Operations (R536, R543) -/

/-- A key slot's status word (R544). -/
def slotWord (s : State) (slot : Nat) : Nat :=
  let k := s.mgmt.slots.atD slot (false, 0)
  word [(63, b2n k.1), (0, k.2.toNat)]

/-- The mode bits of the device (R26, R543). -/
def modeWord (s : State) : Nat :=
  word [(44, s.pw.fwState), (42, s.mgmt.tenancy), (41, b2n s.mgmt.debugLockOpen), (40, b2n s.mgmt.hostDataAllow),
    (39, b2n s.mgmt.ideSecure), (38, b2n s.mgmt.time.isSome)]

/-- GET_STATUS (R536): the body holds the states and mode bits, placed as the report of R543 places them, and the status words of slots 0
to 16. -/
def execGetStatus (r : MgmtReq) (s : State) : Res :=
  onMgmt r anyRole (fun s => mgmtAnswer r stOk (words64 (modeWord s :: (List.range 17).map (slotWord s))) s) s

/-- GET_TELEMETRY (R590): under CLEAR, droop bins and minimum readings are cleared once copied. -/
def execGetTelemetry (r : MgmtReq) (clear rsv : Bool) (s : State) : Res :=
  onMgmt r [roleOperator] (fun s =>
    if rsv then mgmtAnswer r stBadParam [] s
    else
      let body := telemetry s
      let s := { s with tick := s.tick + 1 }
      mgmtAnswer r stOk body (if clear then clearDroop s else s)) s

/-- The fabric anchor list as bytes, in entry order (R547). -/
def anchorBytes (s : State) : List Byte := s.mgmt.anchors.flatMap (fun a => a.kind :: padTo 32 a.digest)

/-- The body of an attestation report (R543). -/
def reportBody (s : State) (nonce : List Byte) : List Byte :=
  padTo 512 (
    leBytes 8 (word [(56, 1), (48, siliconRev.toNat), (16, s.mgmt.tenancies), (0, (vn s 0).nodeId.toNat)] + modeWord s)
    ++ leBytes 8 deviceUid.toNat ++ padTo 32 nonce ++ leBytes 8 s.pw.uptime
    ++ leBytes 8 (word [(32, s.pw.imageVersion.toNat), (16, s.pw.securityVersion.toNat)])
    ++ leBytes 8 (word [(32, (keyGen s 1).toNat)])
    ++ padTo 16 s.mgmt.keyId ++ padTo 32 s.mgmt.tenantAnchor
    ++ (if s.mgmt.anchors.isEmpty then zeros 32 else sha256 (anchorBytes s))
    ++ sha256 (padTo 128 Config.provenance)
    ++ s.mgmt.meas.flatMap (padTo 32))

/-- GET_ATTESTATION (R543). -/
def execGetAttestation (r : MgmtReq) (nonce : List Byte) (s : State) : Res :=
  onMgmt r anyRole (fun s =>
    if nonce.length ≠ 32 then mgmtAnswer r stBadParam [] s
    else
      let body := reportBody s nonce
      mgmtAnswer r stOk (body ++ identitySign s (ascii "Walgon attestation".toList) body) (bump .attestReports s)) s

/-- GET_CERTS (R536). -/
def execGetCerts (r : MgmtReq) (s : State) : Res :=
  onMgmt r anyRole (fun s => mgmtAnswer r stOk (Config.deviceChain ++ padTo 128 Config.provenance) s) s

/-- SET_TIME (R536). -/
def execSetTime (r : MgmtReq) (utc : BitVec 64) (s : State) : Res :=
  onMgmt r [roleOperator] (fun s =>
    mgmtAnswer r stOk [] { s with mgmt := { s.mgmt with time := some (utc.toNat, s.pw.uptime) } }) s

/-- SET_FABRIC_IDENTITY (R336, R369): the identifier changes only while no queue pair of the virtual node is READY. -/
def execSetFabricIdentity (r : MgmtReq) (v : VId) (nodeId : NodeId) (pfx : BitVec 64) (forwarding : Bool) (s : State) : Res :=
  onMgmt r [roleOperator] (fun s =>
    if vnodeCount s ≤ v.toNat ∨ badNode nodeId then mgmtAnswer r stBadParam [] s
    else if nodeId ≠ (vn s v).nodeId ∧ s.fab.qps.any (fun q => decide (vnodeOfQpn s q.1 = v) && decide (q.2.state = .ready)) then
      mgmtAnswer r stDenied [] s
    else
      let s := updVn v (fun n => { n with nodeId := nodeId, pfx := pfx, forwarding := forwarding }) s
      mgmtAnswer r stOk [] (agreeWithAll v s)) s

/-- SET_PEER_ENTRY (R346, R365, R370): an entry that is not VALID is removed, and the READY queue pairs of its peer enter ERROR. -/
def execSetPeerEntry (r : MgmtReq) (v : VId) (peer : NodeId) (e : PeerEntry) (rsv : Bool) (s : State) : Res :=
  onMgmt r [roleOperator] (fun s =>
    if rsv ∨ vnodeCount s ≤ v.toNat ∨ 0x1000 ≤ peer.toNat then mgmtAnswer r stBadParam [] s
    else if e.valid then
      mgmtAnswer r stOk [] (agreeWith v peer (updVn v (fun n => { n with peers := n.peers.put peer e }) s))
    else mgmtAnswer r stOk [] (settle (dropPeerQps v peer (updVn v (fun n => { n with peers := n.peers.del peer }) s)))) s

/-- A neighbour entry as bytes: its port, and the HELLO payload of R368. -/
def neighbourBytes (x : BitVec 5 × Neighbour) : List Byte :=
  let p := x.2.p
  words64 [x.1.toNat, p.uid.toNat] ++ [word [(16, p.nodeId.toNat), (8, p.port.toNat), (4, p.portMode.toNat), (2, p.sliceMode.toNat)],
    word [(16, p.partCode.toNat), (8, p.siliconRev.toNat)], p.seq.toNat, 0].flatMap (leBytes 4)

/-- READ_NEIGHBOURS (R369). -/
def execReadNeighbours (r : MgmtReq) (v : VId) (s : State) : Res :=
  onMgmt r [roleOperator] (fun s =>
    if vnodeCount s ≤ v.toNat then mgmtAnswer r stBadParam [] s
    else mgmtAnswer r stOk ((vn s v).neighbours.flatMap neighbourBytes) s) s

/-- SET_TENANT_ANCHOR (R536). -/
def execSetTenantAnchor (r : MgmtReq) (digest : List Byte) (s : State) : Res :=
  onMgmt r [roleOperator] (fun s =>
    if digest.length ≠ 32 then mgmtAnswer r stBadParam [] s
    else if s.mgmt.tenancy = tenSealed then mgmtAnswer r stDenied [] s
    else mgmtAnswer r stOk [] { s with mgmt := { s.mgmt with tenantAnchor := digest } }) s

/-- The role of the session that carries a request. -/
def roleIn (s : State) (r : MgmtReq) : Nat := ((s.mgmt.sessions.at? r.session).map Session.role).getD 0

/-- SET_FABRIC_ANCHORS (R536, R547): the operator's in NONE or OPEN, the tenant's in SEALED. -/
def execSetFabricAnchors (r : MgmtReq) (anchors : List AnchorEntry) (s : State) : Res :=
  onMgmt r anyRole (fun s =>
    if roleIn s r ≠ (if s.mgmt.tenancy = tenSealed then roleTenant else roleOperator) then mgmtAnswer r stDenied [] s
    else if !(anchorsOk anchors) then mgmtAnswer r stBadParam [] s
    else mgmtAnswer r stOk [] (setAnchors anchors s)) s

/-- Run a tenant change for a request: it is answered, and then every TENANT session ends. -/
def changeFor (r : MgmtReq) (new : Nat) (tk : Option (List Byte)) (s : State) : State :=
  endTenantSessions (mgmtAnswer r stOk [] (tenantChange new tk s))

/-- TENANCY_SEAL (R536, R545–R547, R549). -/
def execTenancySeal (r : MgmtReq) (tk : List Byte) (hostData : BitVec 8) (anchors : List AnchorEntry) (s : State) : Res :=
  onMgmt r [roleTenant] (fun s =>
    if tk.length ≠ 32 ∨ 1 < hostData.toNat ∨ !(anchorsOk anchors) then mgmtAnswer r stBadParam [] s
    else if s.mgmt.tenancy = tenSealed ∨ !s.mgmt.identityOk ∨ allZero s.mgmt.tenantAnchor then mgmtAnswer r stDenied [] s
    else
      let s := setAnchors anchors (setDebugLock false s)
      let s := { s with mgmt := { s.mgmt with hostDataAllow := decide (hostData = 1) } }
      changeFor r tenSealed (some tk) s) s

/-- TENANCY_OPEN (R536, R545). -/
def execTenancyOpen (r : MgmtReq) (tk : List Byte) (s : State) : Res :=
  onMgmt r [roleOperator] (fun s =>
    if tk.length ≠ 32 then mgmtAnswer r stBadParam [] s
    else if s.mgmt.tenancy = tenSealed then mgmtAnswer r stDenied [] s
    else changeFor r tenOpen (some tk) { s with mgmt := { s.mgmt with hostDataAllow := false } }) s

/-- TENANCY_RELEASE (R536, R545): the operator's in any state, the tenant's in SEALED. -/
def execTenancyRelease (r : MgmtReq) (s : State) : Res :=
  onMgmt r anyRole (fun s =>
    if roleIn s r = roleTenant ∧ s.mgmt.tenancy ≠ tenSealed then mgmtAnswer r stDenied [] s
    else changeFor r tenNone none { s with mgmt := { s.mgmt with hostDataAllow := false } }) s

/-- DEBUG_LOCK (R536, R549). -/
def execDebugLock (r : MgmtReq) (open_ : Bool) (s : State) : Res :=
  onMgmt r [roleOperator] (fun s =>
    if s.mgmt.tenancy = tenSealed then mgmtAnswer r stDenied [] s else mgmtAnswer r stOk [] (setDebugLock open_ s)) s

/-! ## SPDM and IDE (R542, R544, R548) -/

/-- SPDM_REQUEST (R542): MEAS_0 to MEAS_7 as measurement blocks 1 to 8, signed with the device identity key; a node without its identity
cannot attest (R540). -/
def execSpdmRequest (firstBlock lastBlock : BitVec 8) (nonce : List Byte) (s : State) : Res :=
  onNode (fun s =>
    if !s.mgmt.identityOk ∨ firstBlock.toNat < 1 ∨ 8 < lastBlock.toNat then emit (.spdm []) s
    else
      let blocks := ((List.range 9).filter (fun b => decide (firstBlock.toNat ≤ b) && decide (b ≤ lastBlock.toNat))).flatMap (fun b =>
        BitVec.ofNat 8 b :: s.mgmt.meas.getD (b - 1) (zeros 32))
      emit (.spdm (blocks ++ identitySign s [] (nonce ++ blocks))) s) s

/-- IDE_KM (R544): a stream's key is installed, with which it enters Secure state. -/
def execIdeKm (stream : BitVec 4) (secure : Bool) (s : State) : Res :=
  onNode (fun s =>
    if 8 < stream.toNat then s
    else
      let s := installKey (4 + stream.toNat) s
      if secure then { s with mgmt := { s.mgmt with ide := (s.mgmt.ide ++ [stream]).eraseDups, ideSecure := true } } else s) s

/-- IDE_STATE (R548): a stream leaves Secure state. -/
def execIdeState (stream : BitVec 4) (s : State) : Res :=
  onNode (fun s =>
    if stream ∉ s.mgmt.ide then s
    else
      let left := s.mgmt.ide.filter (fun x => x ≠ stream)
      if s.mgmt.tenancy = tenSealed then
        logFrom 0 0x0C08 srcMgmt [] { s with mgmt := { s.mgmt with ide := left, ideSecure := false } }
      else { s with mgmt := { s.mgmt with ide := left, ideSecure := !left.isEmpty } }) s

end Sys2Proof.Machine
end

