-- ==== Sys2Proof/Machine/Cfg.lean ====
section
/-! DEFINITION. Configuration: CFG.IMAGE, CFG.PROFILE and CFG.READ (R32–R35, R574–R580). -/

namespace Sys2Proof.Machine

/-! ## Knobs (R576) -/

/-- A knob: its identifier, whether a value lies in its range, its value in a set of knobs (none while it has none), and the
set with it changed. -/
structure Knob where
  id : Nat
  inRange : Nat → Bool
  get : Knobs → Option Nat
  set : Nat → Knobs → Knobs

/-- A range of values, both ends included. -/
def within (lo hi v : Nat) : Bool := decide (lo ≤ v) && decide (v ≤ hi)

/-- The knobs of the profiles (R32). -/
def profileKnobs : List Knob :=
  [⟨0x0001, within 0 1, fun k => k.hbmCodeMode, fun v k => { k with hbmCodeMode := v }⟩,
   ⟨0x0002, within 0 2, fun k => k.checkCoverage, fun v k => { k with checkCoverage := v }⟩,
   ⟨0x0003, within 0 2, fun k => k.mirrorDefault, fun v k => { k with mirrorDefault := v }⟩,
   ⟨0x0004, within 0 1, fun k => k.scoreFormat, fun v k => { k with scoreFormat := v }⟩,
   ⟨0x0005, within 0 1, fun k => k.dsRetryPolicy, fun v k => { k with dsRetryPolicy := v }⟩,
   ⟨0x0006, within 1 168, fun k => k.scrubIntervalH, fun v k => { k with scrubIntervalH := v }⟩,
   ⟨0x0007, within 300 950, fun k => k.powerCapW, fun v k => { k with powerCapW := v }⟩,
   ⟨0x0008, within 0 32, fun k => k.dispatchThreshold, fun v k => { k with dispatchThreshold := v }⟩]

/-- The knobs that CFG.PROFILE may also change, 0x0101 to 0x010E. -/
def requestKnobs : List Knob :=
  [⟨0x0101, within 500 50000, fun k => k.dirWaitNs, fun v k => { k with dirWaitNs := v }⟩,
   ⟨0x0102, fun v => decide (v ∈ [4, 8, 16, 32]), fun k => k.holeInterval, fun v k => { k with holeInterval := v }⟩,
   ⟨0x0103, within 1 3600, fun k => k.tombstoneLife, fun v k => { k with tombstoneLife := v }⟩,
   ⟨0x0104, within 1 16, fun k => k.dsHistory, fun v k => { k with dsHistory := v }⟩,
   ⟨0x0105, within 1024 16384, fun k => k.mpRequestMaxKib, fun v k => { k with mpRequestMaxKib := v }⟩,
   ⟨0x0106, within 10 10000, fun k => k.attnAdmitWaitUs, fun v k => { k with attnAdmitWaitUs := v }⟩,
   ⟨0x0107, within 100 100000, fun k => k.fanoutWaitUs, fun v k => { k with fanoutWaitUs := v }⟩,
   ⟨0x0108, within 10 10000, fun k => k.twinVerifyWaitMs, fun v k => { k with twinVerifyWaitMs := v }⟩,
   ⟨0x0109, within 100 2000, fun k => k.normalWaitNs, fun v k => { k with normalWaitNs := v }⟩,
   ⟨0x010A, within 20 45, fun k => k.stackPowerLimitW, fun v k => { k with stackPowerLimitW := v }⟩,
   ⟨0x010B, within 0 20, fun k => k.compressStartPct, fun v k => { k with compressStartPct := v }⟩,
   ⟨0x010C, within 1 10, fun k => k.demoteStartPct, fun v k => { k with demoteStartPct := v }⟩,
   ⟨0x010D, within 2 15, fun k => k.demoteStopPct, fun v k => { k with demoteStopPct := v }⟩,
   ⟨0x010E, within 0 10000, fun k => k.demoteMinAgeMs, fun v k => { k with demoteMinAgeMs := v }⟩]

/-- The knobs that CFG.PROFILE may also change, 0x010F to 0x011C. -/
def tierKnobs : List Knob :=
  [⟨0x010F, within 0 1000, fun k => k.promoteStallUs, fun v k => { k with promoteStallUs := v }⟩,
   ⟨0x0110, within 0 80, fun k => k.pinMaxPct, fun v k => { k with pinMaxPct := v }⟩,
   ⟨0x0111, within 10000 1000000, fun k => k.readDisturbLimit, fun v k => { k with readDisturbLimit := v }⟩,
   ⟨0x0112, within 100 10000, fun k => k.wearSpread, fun v k => { k with wearSpread := v }⟩,
   ⟨0x0113, within 100 100000, fun k => k.drainWindowUs, fun v k => { k with drainWindowUs := v }⟩,
   ⟨0x0114, within 1024 32768, fun k => k.reasmQpMaxKib, fun v k => { k with reasmQpMaxKib := v }⟩,
   ⟨0x0115, within 10 10000, fun k => k.hbIntervalUs, fun v k => { k with hbIntervalUs := v }⟩,
   ⟨0x0116, within 2 100, fun k => k.hbMissLimit, fun v k => { k with hbMissLimit := v }⟩,
   ⟨0x0117, within 50 100000, fun k => k.twinAckWaitUs, fun v k => { k with twinAckWaitUs := v }⟩,
   ⟨0x0118, within 16 65536, fun k => k.mirrorLagTokens, fun v k => { k with mirrorLagTokens := v }⟩,
   ⟨0x0119, within 1 10000, fun k => k.codeStripeWaitMs, fun v k => { k with codeStripeWaitMs := v }⟩,
   ⟨0x011A, within 10 10000, fun k => k.ownWaitMs, fun v k => { k with ownWaitMs := v }⟩,
   ⟨0x011B, within 10 3600, fun k => k.eyeScanS, fun v k => { k with eyeScanS := v }⟩,
   ⟨0x011C, within 60 86400, fun k => k.hbmMarginS, fun v k => { k with hbmMarginS := v }⟩]

/-- The knobs that the image alone sets. -/
def imageKnobs : List Knob :=
  [⟨0x0201, within 0 2, fun k => k.fabricPortMode, fun v k => { k with fabricPortMode := v }⟩,
   ⟨0x0202, within 0 4094, fun k => k.fabricVlan, fun v k => { k with fabricVlan := v }⟩,
   ⟨0x0203, within 1024 65535, fun k => k.dreaskakUdpPort, fun v k => { k with dreaskakUdpPort := some v }⟩,
   ⟨0x0204, within 0 2, fun k => k.sliceMode, fun v k => { k with sliceMode := v }⟩,
   ⟨0x0205, within 5 50, fun k => k.holdupMs, fun v k => { k with holdupMs := v }⟩]

/-- Every knob, in the order of its identifier. -/
def allKnobs : List Knob := profileKnobs ++ requestKnobs ++ tierKnobs ++ imageKnobs

/-- The knob of an identifier. -/
def knobOf (id : Nat) : Option Knob := allKnobs.find? (fun k => decide (k.id = id))

/-- The profile knobs of a profile, in the order of R32 (PROFILE as R574 codes it; 0 is Brass, R33). -/
def profileValues (p : Nat) : List Nat :=
  match p with
  | 1 => [0, 0, 1, 1, 0, 24, 950, 16]
  | 3 => [1, 2, 0, 0, 1, 4, 850, 16]
  | 4 => [0, 0, 1, 1, 0, 24, 600, 32]
  | _ => [0, 1, 1, 1, 0, 12, 850, 16]

/-- Set the eight profile knobs to a profile's values. -/
def Knobs.ofProfile (p : Nat) (k : Knobs) : Knobs :=
  (profileKnobs.zip (profileValues p)).foldl (fun k q => q.1.set q.2 k) k

/-- Set the knobs that items name. -/
def Knobs.withItems (items : List Item) (k : Knobs) : Knobs :=
  items.foldl (fun k i => match knobOf i.knobId.toNat with
    | some x => x.set i.value.toNat k
    | none => k) k

/-- Whether values meet R303. -/
def Knobs.demoteOk (k : Knobs) : Bool := decide (k.demoteStartPct < k.demoteStopPct)

/-! ## The checks of R575 and R579 -/

/-- What an item fails, as an offset within it: its zero field, or the item itself for an unknown or repeated identifier or a
value out of range. -/
def itemFault (seen : List (BitVec 16)) (i : Item) : Option Nat :=
  if i.zero ≠ 0 then some 4
  else match knobOf i.knobId.toNat with
    | none => some 0
    | some k => if i.knobId ∈ seen ∨ !(k.inRange i.value.toNat) then some 0 else none

/-- The offset of the first item that fails, the first item lying at `at_`. -/
def itemsFault (at_ : Nat) (seen : List (BitVec 16)) : List Item → Option Nat
  | [] => none
  | i :: r => match itemFault seen i with
    | some o => some (at_ + o)
    | none => itemsFault (at_ + 8) (i.knobId :: seen) r

/-- The length of a table image (R325). -/
def tableLen (t : TableImage) : Nat := 64 + t.lengths.length

/-- Whether a table image passes R326. -/
def tableGood (t : TableImage) : Bool :=
  (tableFails t).all (fun f => !f.1) && !(tableEmpty t) && decide (t.lengths.length = 2 ^ expBits t.format.toNat)

/-- The offset of the first table image that fails, the first lying at `at_`; `rsv` lists the reserved fields that are not zero. -/
def tablesFault (rsv : List Nat) (at_ : Nat) : List TableImage → Option Nat
  | [] => none
  | t :: r =>
    if !(tableGood t) ∨ rsv.any (fun o => within at_ (at_ + tableLen t - 1) o) then some at_
    else tablesFault rsv (at_ + tableLen t) r

/-- The total length of the parameters of a CFG.IMAGE. -/
def imageLen (img : ConfigImage) : Nat := 64 + 8 * img.itemCount.toNat + (img.tables.map tableLen).sum

/-- The values that an image gives. -/
def imageKnobsOf (img : ConfigImage) : Knobs :=
  ((Knobs.default.ofProfile img.profile.toNat).withItems img.items)

/-- The first fault of a CFG.IMAGE (R575). -/
def imageFault (c : Cmd) (img : ConfigImage) : Option Reply :=
  let header : List (Bool × Nat) :=
    [(decide (c.hdr.paramLen.toNat ≠ imageLen img) || decide (img.items.length ≠ img.itemCount.toNat)
        || decide (img.tables.length ≠ img.tableCount.toNat), 12),
     (decide (8 < img.tableCount.toNat), 69), (decide (4 < img.profile.toNat), 70), (decide (img.imageVer ≠ 1), 71)]
  match (header.filter (fun f => f.1)).foldl (fun acc f => minOff acc (some f.2)) (c.hdr.rsv.find? (fun o => decide (o < 128))) with
  | some o => some (Reply.bad o)
  | none => match itemsFault 128 [] img.items with
    | some o => some (Reply.bad o)
    | none =>
      if !(imageKnobsOf img).demoteOk then some Reply.badAny
      else (tablesFault c.hdr.rsv (128 + 8 * img.items.length) img.tables).map Reply.bad

/-! ## Digest (R26) -/

/-- The bytes of an item. -/
def itemBytes (i : Item) : List Byte :=
  leBytes 8 (word [(48, i.knobId.toNat), (32, i.zero.toNat), (0, i.value.toNat)])

/-- The bytes of a table image (R325). -/
def tableBytes (t : TableImage) : List Byte :=
  words64 [word [(32, t.buildId.toNat), (20, t.maxLen.toNat), (16, t.expBits.toNat), (0, t.format.toNat)], t.lengthsCrc.toNat]
    ++ zeros 48 ++ t.lengths

/-- The parameter bytes of a CFG.IMAGE that is accepted. -/
def imageBytesOf (img : ConfigImage) : List Byte :=
  words64 [word [(56, img.imageVer.toNat), (52, img.profile.toNat), (44, img.itemCount.toNat), (40, img.tableCount.toNat)]]
    ++ zeros 56 ++ img.items.flatMap itemBytes ++ img.tables.flatMap tableBytes

/-- The header word of CFG.PROFILE and CFG.READ (R579). -/
def profileWord (profile items : Nat) : List Byte := words64 [word [(60, profile), (52, items)]]

/-- Record the digest of accepted parameters and extend MEAS_4 with it (R26, R542). -/
def noteConfig (params : List Byte) (s : State) : State :=
  let d := sha256 params
  extendMeas 4 d { s with configDigest := d }

/-! ## Effects -/

/-- Load the tables of an image into the slots in order; the first of each format becomes current (R577). -/
def loadTables (ts : List TableImage) (s : State) : State :=
  ts.foldl (fun s t => match loadTable s with
    | .inr _ => s
    | .inl (n, g) =>
      let first := !(s.tier.slots.any (fun p => p.2.current && decide ((p.2.image.map TableImage.format) = some t.format)))
      updSlot n (fun x => { x with current := first }) (putTable t n g s)) s

/-- Log the targets that a change of HOLDUP_MS newly excludes (R589). -/
def rejudgeTargets (before : Knobs) (s : State) : State :=
  s.tier.targets.foldl (fun s t =>
    if t.2.usable && t.2.holdsUp before.holdupMs && !(t.2.holdsUp s.knobs.holdupMs) then logHoldup t.1 t.2 s else s) s

/-- Accept an image (R575, R577, R578); the power-control interval under way takes its cap. -/
def acceptImage (img : ConfigImage) (s : State) : State :=
  let before := s.knobs
  let p := img.profile.toNat
  let s := rejudgeTargets before { s with knobs := imageKnobsOf img, profile := if p = 0 then s.profile else p, configured := true }
  let s := { s with pw := { s.pw with capW := s.knobs.powerCapW } }
  let s := noteConfig (imageBytesOf img) (loadTables img.tables s)
  let s := logFrom 0 0x0D03 srcCore [(8, p), (8, img.itemCount.toNat)] s
  (List.range (sliceCount s.knobs.sliceMode)).foldl (fun s n => agreeWithAll (BitVec.ofNat 2 n) s) s

/-- CFG_IMAGE (R574, R575, R577, R578). -/
def execCfgImage (c : Cmd) (img : ConfigImage) (s : State) : Res :=
  runVerb c (fun s =>
    match imageFault c img with
    | some r => .now r s
    | none => .now (Reply.st stOk) (acceptImage img s)) s

/-- The values that a CFG.PROFILE would give. -/
def profileKnobsOf (s : State) (p : ProfileBlock) : Knobs :=
  ((if p.profile = 0 then s.knobs else s.knobs.ofProfile p.profile.toNat).withItems p.items)

/-- Put new values in force, with what a change of them does at once (R34, R199, R579). -/
def putKnobs (k : Knobs) (s : State) : State :=
  let h := s.attn.history
  let h := if k.scoreFormat ≠ s.knobs.scoreFormat then [] else h.map (fun e => (e.1, { e.2 with values := e.2.values.take k.dsHistory }))
  { s with knobs := k, attn := { s.attn with history := h } }

/-- CFG_PROFILE (R34, R35, R579). -/
def execCfgProfile (c : Cmd) (p : ProfileBlock) (s : State) : Res :=
  runVerb c (fun s =>
    let header := firstBad c [(decide (c.hdr.paramLen.toNat ≠ 8 + 8 * p.itemCount.toNat)
      || decide (p.items.length ≠ p.itemCount.toNat), 12), (decide (4 < p.profile.toNat), 71)]
    match header with
    | some o => .now (Reply.bad o) s
    | none => match itemsFault 72 [] p.items with
      | some o => .now (Reply.bad o) s
      | none =>
        let k := profileKnobsOf s p
        if p.items.any (fun i => decide (i.knobId.toNat / 256 = 2)) then .refuse stDenied s
        else if !k.demoteOk then .now Reply.badAny s
        else if k.hbmCodeMode ≠ s.knobs.hbmCodeMode ∧ s.everAllocated then .refuse stDenied s
        else
          let s := putKnobs k { s with profile := if p.profile = 0 then s.profile else p.profile.toNat }
          .now (Reply.st stOk) (noteConfig (profileWord p.profile.toNat p.itemCount.toNat ++ p.items.flatMap itemBytes) s)) s

/-- CFG_READ (R580): a knob that has no value reads as a free one. -/
def execCfgRead (c : Cmd) (s : State) : Res :=
  runVerb c (withParams c 0 [] (fun s =>
    let f := takeFree s
    let items := allKnobs.map (fun k => leBytes 8 (word [(48, k.id), (0, (k.get s.knobs).getD (f.1 % 2 ^ 32))]))
    let profile := if s.profile = 0 then 2 else s.profile
    .now (Reply.ofResult allKnobs.length (profileWord profile allKnobs.length ++ items.flatten)) f.2)) s

end Sys2Proof.Machine
end

