-- ==== Sys2Proof/Machine/Sram.lean ====
section
/-! DEFINITION. Errors in the on-die SRAMs (R79, R298, R358, R469, R520, R612). -/

namespace Sys2Proof.Machine

/-- Whether firmware interprets a command (R449): every command that its table does not mark Hardware. -/
def firmwareCmd (c : Cmd) : Bool :=
  decide (c.hdr.opcode.toNat ∉ [0x0301, 0x0401, 0x0403, 0x0703, 0x0704, 0x0802, 0x0C01])

/-- The command whose answer a job owes, where it is one of firmware's. -/
def jobCmd : Job → Option Cmd
  | .assign _ _ _ _ _ _ _ (.open_ c) => some c
  | .assign _ _ _ _ _ _ _ (.locate c _ _) => some c
  | .smooth c .. => some c
  | .move c .. => some c
  | .takeover c _ => some c
  | .scrubPass c _ => some c
  | .tier c .. => some c
  | _ => none

/-- The firmware command that a held row serves. -/
def heldCmd : Instr → Option Cmd
  | .spanOpen c _ _ => some c
  | .spanLocate c _ _ => some c
  | .spanClose c _ => some c
  | .spanMove c _ _ => some c
  | .spanAlias c _ => some c
  | .spanCoverage c _ => some c
  | .spanReset c _ => some c
  | .kvSmooth c _ _ _ _ => some c
  | .kvMaskSet c _ _ _ _ => some c
  | .kvMaskTile c _ _ _ _ _ => some c
  | .kvMaskDrop c _ => some c
  | .scrubVerify c _ => some c
  | .tierPromote c _ => some c
  | .tierDemote c _ => some c
  | .tierPin c _ => some c
  | .tierUnpin c _ => some c
  | .tierStatus c _ => some c
  | _ => none

/-- Drop a job whose command has ended: an exchange of KV.SMOOTH releases its holds. -/
def dropJob (id : Nat) (j : Job) (s : State) : State :=
  let s := endJob id s
  match j with
  | .smooth _ v h l hd _ _ asked _ => smoothEnd v h l hd asked none s
  | _ => s

/-- End a command that a control core held (R298). -/
def abortHeld (c : Cmd) (s : State) : State :=
  if (admission s c).isNone then s
  else
    let s := { s with deferred := s.deferred.filter (fun d => !((heldCmd d.instr).any (fun x => sameCmd x c))) }
    let s := s.jobs.foldl (fun s j => match j.2 with
      | .close v h w cmds => setJob j.1 (.close v h w (cmds.filter (fun x => !(sameCmd x c)))) s
      | j' => if (jobCmd j').any (fun x => sameCmd x c) then dropJob j.1 j' s else s) s
    completeOnly c (Reply.st stAborted) s

/-- Restart a control core (R298, R481 rule 4): its mailboxes are cleared, and every command it held ends with ST_ABORTED. Which
of firmware's commands this core held is firmware's own affair: a free choice. -/
def restartCore (m : Nat) (s : State) : State :=
  let s := if m < 8 then resetMail (BitVec.ofNat 4 (m + 8)) (resetMail (BitVec.ofNat 4 m) s) else s
  let pick := s.tick
  let s := { s with tick := s.tick + 1 }
  let its := s.host.admitted.filter (fun a => firmwareCmd a.cmd && decide (Config.freeOrder pick a.serial % 2 = 1))
  settle (its.foldl (fun s a => abortHeld a.cmd s) s)

/-- Discard a message whose bytes in the reassembly store are lost (R358). -/
def loseMessage (q : BitVec 12) (n : BitVec 24) (s : State) : State :=
  match qpAt s q with
  | none => s
  | some x =>
    match x.msgs.at? n with
    | none => s
    | some m =>
      if m.refused.isSome then s
      else
        let lost : RxMsg := { m with refused := some stUncorrectable, pieces := m.pieces.map (fun y => (y.1, [])) }
        let s := updQp q (fun x => { x with msgs := x.msgs.put n lost }) s
        rejectMsg (vnodeOfQpn s q) x.peer q n stUncorrectable s

/-- The effect of a double-bit error, by the kind of SRAM (R298, R612). -/
def sramEffect (e : SramErr) (s : State) : State :=
  match e.kind.toNat with
  | 1 | 2 => failReq e.holds stUncorrectable 0 s
  | 3 => logFrom 0 0x0103 srcDir [] (bump .dirShadowUe (markRebuilding e.unit.toNat s))
  | 4 => { s with attn := { s.attn with history := s.attn.history.del e.holds } }
  | 6 => settle (qpError (BitVec.ofNat 12 e.holds) 2 s)
  | 7 => settle (if (ringAt s (BitVec.ofNat 9 e.holds)).state = .active then ringError (BitVec.ofNat 9 e.holds) 4 s else s)
  | 8 => settle (failObject (BitVec.ofNat 14 e.holds) s)
  | 9 => restartCore e.unit.toNat s
  | 10 => loseMessage (BitVec.ofNat 12 (e.holds / 2 ^ 24)) (BitVec.ofNat 24 e.holds) s
  | _ => s

/-- One error that the scrub meets: counted, and for a double-bit error logged and answered with its effect. -/
def sramError (s : State) (e : SramErr) : State :=
  if !e.double then bump .sramCe s
  else sramEffect e (logFrom 0 0x0704 srcCore [(16, e.kind.toNat * 256 + e.unit.toNat), (32, e.word.toNat)] (bump .sramUe s))

/-- SRAM_SCRUB (R298). -/
def execSramScrub (errs : List SramErr) (s : State) : Res := onNode (fun s => errs.foldl sramError s) s

end Sys2Proof.Machine
end

