-- ==== Sys2Proof/Machine/Dispatch.lean ====
section
/-! DEFINITION. The meaning of each command and event: one arm for each constructor of `Instr`. -/

namespace Sys2Proof.Machine

/-- The effect of a command or event on everything but the queue. -/
def exec (i : Instr) (s : State) : Host.Outcome State Fault Refusal :=
  match i with
  | .cfgImage c img => Sys2Proof.Machine.execCfgImage c img s
  | .cfgProfile c p => Sys2Proof.Machine.execCfgProfile c p s
  | .cfgRead c => Sys2Proof.Machine.execCfgRead c s
  | .spanOpen c p prefer => Sys2Proof.Machine.execSpanOpen c p prefer s
  | .spanCreateRequest h geo smooth highest unwilling => Sys2Proof.Machine.execSpanCreateRequest h geo smooth highest unwilling s
  | .spanCreateTimeout tag => Sys2Proof.Machine.execSpanCreateTimeout tag s
  | .spanFillReport h prefer => Sys2Proof.Machine.execSpanFillReport h prefer s
  | .spanLocate c t prefer => Sys2Proof.Machine.execSpanLocate c t prefer s
  | .sequenceRecordMove v handle => Sys2Proof.Machine.execSequenceRecordMove v handle s
  | .spanClose c t => Sys2Proof.Machine.execSpanClose c t s
  | .spanCloseTimeout job => Sys2Proof.Machine.execSpanCloseTimeout job s
  | .seqClose h => Sys2Proof.Machine.execSeqClose h s
  | .spanAlias c p => Sys2Proof.Machine.execSpanAlias c p s
  | .spanMove c t prefer => Sys2Proof.Machine.execSpanMove c t prefer s
  | .spanCoverage c t => Sys2Proof.Machine.execSpanCoverage c t s
  | .spanReset c t => Sys2Proof.Machine.execSpanReset c t s
  | .frameDrainEnd frame => Sys2Proof.Machine.execFrameDrainEnd frame s
  | .quarantineEnd frame => Sys2Proof.Machine.execQuarantineEnd frame s
  | .dataRequestTimeout req => Sys2Proof.Machine.execDataRequestTimeout req s
  | .dirBankRebuildEnd bank => Sys2Proof.Machine.execDirBankRebuildEnd bank s
  | .dirScrub u => Sys2Proof.Machine.execDirScrub u s
  | .dirUpdateEnd bank => Sys2Proof.Machine.execDirUpdateEnd bank s
  | .dirWaitExpiry job => Sys2Proof.Machine.execDirWaitExpiry job s
  | .dirHoleRestore bank src dst => Sys2Proof.Machine.execDirHoleRestore bank src dst s
  | .tombstoneExpiry bank addr => Sys2Proof.Machine.execTombstoneExpiry bank addr s
  | .dirClear c => Sys2Proof.Machine.execDirClear c s
  | .dirRead c bank first count => Sys2Proof.Machine.execDirRead c bank first count s
  | .dirProbe c handle span kind u => Sys2Proof.Machine.execDirProbe c handle span kind u s
  | .append m payload u => Sys2Proof.Machine.execAppend m payload u s
  | .kvAppend c payload u => Sys2Proof.Machine.execKvAppend c payload u s
  | .spareReplenish => Sys2Proof.Machine.execSpareReplenish s
  | .pageSeal => Sys2Proof.Machine.execPageSeal s
  | .kvSmooth c handle layer head sigma => Sys2Proof.Machine.execKvSmooth c handle layer head sigma s
  | .smoothHold h layer head => Sys2Proof.Machine.execSmoothHold h layer head s
  | .smoothInstall h layer head sigma => Sys2Proof.Machine.execSmoothInstall h layer head sigma s
  | .kvSmoothTimeout job => Sys2Proof.Machine.execKvSmoothTimeout job s
  | .kvMaskSet c handle span maskRows initialKind => Sys2Proof.Machine.execKvMaskSet c handle span maskRows initialKind s
  | .kvMaskTile c handle span tileRow tileCol tile => Sys2Proof.Machine.execKvMaskTile c handle span tileRow tileCol tile s
  | .kvMaskDrop c t => Sys2Proof.Machine.execKvMaskDrop c t s
  | .maskSlotFree frame slot => Sys2Proof.Machine.execMaskSlotFree frame slot s
  | .rnNop stack k => Sys2Proof.Machine.execRnNop stack k s
  | .rnQload stack k rows => Sys2Proof.Machine.execRnQload stack k rows s
  | .rnScale stack k u => Sys2Proof.Machine.execRnScale stack k u s
  | .rnScore stack k u => Sys2Proof.Machine.execRnScore stack k u s
  | .rnWload stack k => Sys2Proof.Machine.execRnWload stack k s
  | .rnWeigh stack k u => Sys2Proof.Machine.execRnWeigh stack k u s
  | .rnDrain stack k => Sys2Proof.Machine.execRnDrain stack k s
  | .rnFill stack k u => Sys2Proof.Machine.execRnFill stack k u s
  | .rnCopy stack k u => Sys2Proof.Machine.execRnCopy stack k u s
  | .rnScrub stack k u => Sys2Proof.Machine.execRnScrub stack k u s
  | .rnAbort stack k => Sys2Proof.Machine.execRnAbort stack k s
  | .rnStatus stack k => Sys2Proof.Machine.execRnStatus stack k s
  | .refreshDue stack pc => Sys2Proof.Machine.execRefreshDue stack pc s
  | .stackSensorRead stack temp power quietMs => Sys2Proof.Machine.execStackSensorRead stack temp power quietMs s
  | .attnQuery c payload u => Sys2Proof.Machine.execAttnQuery c payload u s
  | .query m payload u => Sys2Proof.Machine.execQuery m payload u s
  | .attnReserve req => Sys2Proof.Machine.execAttnReserve req s
  | .attnAdmitTimeout req => Sys2Proof.Machine.execAttnAdmitTimeout req s
  | .keyPassComplete req u => Sys2Proof.Machine.execKeyPassComplete req u s
  | .dieBlockDone req page u => Sys2Proof.Machine.execDieBlockDone req page u s
  | .segmentComplete req u => Sys2Proof.Machine.execSegmentComplete req u s
  | .valuePassComplete req u => Sys2Proof.Machine.execValuePassComplete req u s
  | .attnMerge c payload => Sys2Proof.Machine.execAttnMerge c payload s
  | .attnQueryFanout c payload => Sys2Proof.Machine.execAttnQueryFanout c payload s
  | .fanoutTimeout fanout sub => Sys2Proof.Machine.execFanoutTimeout fanout sub s
  | .readVerify p u => Sys2Proof.Machine.execReadVerify p u s
  | .scrubVerify c t => Sys2Proof.Machine.execScrubVerify c t s
  | .twinVerifyTimeout p => Sys2Proof.Machine.execTwinVerifyTimeout p s
  | .replicaRewrite p content => Sys2Proof.Machine.execReplicaRewrite p content s
  | .pageRepair p content => Sys2Proof.Machine.execPageRepair p content s
  | .sramScrub errs => Sys2Proof.Machine.execSramScrub errs s
  | .patrolScrubStep stack pc u => Sys2Proof.Machine.execPatrolScrubStep stack pc u s
  | .scrubPassDone stack => Sys2Proof.Machine.execScrubPassDone stack s
  | .scrubIntervalEnd => Sys2Proof.Machine.execScrubIntervalEnd s
  | .scrubPass c => Sys2Proof.Machine.execScrubPass c s
  | .packPage p => Sys2Proof.Machine.execPackPage p s
  | .packCompact frame => Sys2Proof.Machine.execPackCompact frame s
  | .demotePage p => Sys2Proof.Machine.execDemotePage p s
  | .demoteComplete p readBack => Sys2Proof.Machine.execDemoteComplete p readBack s
  | .promoteComplete p read => Sys2Proof.Machine.execPromoteComplete p read s
  | .promoteStallExpiry req => Sys2Proof.Machine.execPromoteStallExpiry req s
  | .tierPromote c t => Sys2Proof.Machine.execTierPromote c t s
  | .tierDemote c t => Sys2Proof.Machine.execTierDemote c t s
  | .tierPin c t => Sys2Proof.Machine.execTierPin c t s
  | .tierUnpin c t => Sys2Proof.Machine.execTierUnpin c t s
  | .tierStatus c t => Sys2Proof.Machine.execTierStatus c t s
  | .flashProbe channel target p => Sys2Proof.Machine.execFlashProbe channel target p s
  | .flashRelocate b soft old => Sys2Proof.Machine.execFlashRelocate b soft old s
  | .ftlReclaim b => Sys2Proof.Machine.execFtlReclaim b s
  | .wearLevel b => Sys2Proof.Machine.execWearLevel b s
  | .flashProgramFail b => Sys2Proof.Machine.execFlashProgramFail b s
  | .flashEraseBackground b => Sys2Proof.Machine.execFlashEraseBackground b s
  | .codecLoad c img => Sys2Proof.Machine.execCodecLoad c img s
  | .codecSelect c gen slot format => Sys2Proof.Machine.execCodecSelect c gen slot format s
  | .codecRetire c gen slot force => Sys2Proof.Machine.execCodecRetire c gen slot force s
  | .codecStatus c => Sys2Proof.Machine.execCodecStatus c s
  | .codecSample c format => Sys2Proof.Machine.execCodecSample c format s
  | .recodeImage image => Sys2Proof.Machine.execRecodeImage image s
  | .codecBlock engine => Sys2Proof.Machine.execCodecBlock engine s
  | .portLinkUp port => Sys2Proof.Machine.execPortLinkUp port s
  | .portLinkDown port => Sys2Proof.Machine.execPortLinkDown port s
  | .frameReceive v port f fecCorrected fecUncorrected => Sys2Proof.Machine.execFrameReceive v port f fecCorrected fecUncorrected s
  | .data p => Sys2Proof.Machine.execData p s
  | .ack p => Sys2Proof.Machine.execAck p s
  | .ackTimer qpn => Sys2Proof.Machine.execAckTimer qpn s
  | .retxTimerExpiry qpn => Sys2Proof.Machine.execRetxTimerExpiry qpn s
  | .rnrWaitExpiry qpn => Sys2Proof.Machine.execRnrWaitExpiry qpn s
  | .qpRetryExhausted qpn => Sys2Proof.Machine.execQpRetryExhausted qpn s
  | .qpHoldExpiry qpn => Sys2Proof.Machine.execQpHoldExpiry qpn s
  | .entropySuspendEnd qpn entropy => Sys2Proof.Machine.execEntropySuspendEnd qpn entropy s
  | .rateIncrease qpn => Sys2Proof.Machine.execRateIncrease qpn s
  | .headraceAdmit qpn => Sys2Proof.Machine.execHeadraceAdmit qpn s
  | .command m p => Sys2Proof.Machine.execCommand m p s
  | .write m payload => Sys2Proof.Machine.execWrite m payload s
  | .readReq m addr len key u => Sys2Proof.Machine.execReadReq m addr len key u s
  | .readResp m payload => Sys2Proof.Machine.execReadResp m payload s
  | .hello port p => Sys2Proof.Machine.execHello port p s
  | .helloSend port => Sys2Proof.Machine.execHelloSend port s
  | .neighbourExpiry port => Sys2Proof.Machine.execNeighbourExpiry port s
  | .keyAgree1 v peer twinLink an ek nonce cred => Sys2Proof.Machine.execKeyAgree1 v peer twinLink an ek nonce cred s
  | .keyAgree2 v peer twinLink ct nonce cred => Sys2Proof.Machine.execKeyAgree2 v peer twinLink ct nonce cred s
  | .keyAgree3 v peer twinLink an tagOk => Sys2Proof.Machine.execKeyAgree3 v peer twinLink an tagOk s
  | .keyAgreeResend v peer twinLink => Sys2Proof.Machine.execKeyAgreeResend v peer twinLink s
  | .rxSaRetire v peer twinLink => Sys2Proof.Machine.execRxSaRetire v peer twinLink s
  | .rekeyDue v peer twinLink => Sys2Proof.Machine.execRekeyDue v peer twinLink s
  | .pnExhausted v peer twinLink => Sys2Proof.Machine.execPnExhausted v peer twinLink s
  | .nodeMap c p prefer => Sys2Proof.Machine.execNodeMap c p prefer s
  | .drainWindowEnd v => Sys2Proof.Machine.execDrainWindowEnd v s
  | .nodeQpCreate c p => Sys2Proof.Machine.execNodeQpCreate c p s
  | .nodeQpDestroy c qpn => Sys2Proof.Machine.execNodeQpDestroy c qpn s
  | .twinPair c p => Sys2Proof.Machine.execTwinPair c p s
  | .twinPairTimeout v => Sys2Proof.Machine.execTwinPairTimeout v s
  | .pairPropose h role names => Sys2Proof.Machine.execPairPropose h role names s
  | .pairConfirm h role names => Sys2Proof.Machine.execPairConfirm h role names s
  | .twinSolo c takeover => Sys2Proof.Machine.execTwinSolo c takeover s
  | .twinCodeset c p stripes => Sys2Proof.Machine.execTwinCodeset c p stripes s
  | .twinStatus c => Sys2Proof.Machine.execTwinStatus c s
  | .mirrorRecord h rec => Sys2Proof.Machine.execMirrorRecord h rec s
  | .mirrorRows h rows => Sys2Proof.Machine.execMirrorRows h rows s
  | .mirrorSeal h layer head page digest => Sys2Proof.Machine.execMirrorSeal h layer head page digest s
  | .mirrorRelease h pages => Sys2Proof.Machine.execMirrorRelease h pages s
  | .mirrorAckTimeout job => Sys2Proof.Machine.execMirrorAckTimeout job s
  | .asyncMirrorSend v => Sys2Proof.Machine.execAsyncMirrorSend v s
  | .verifyReq h layer head page digest hash u => Sys2Proof.Machine.execVerifyReq h layer head page digest hash u s
  | .verifyResp h layer head page digest hash content => Sys2Proof.Machine.execVerifyResp h layer head page digest hash content s
  | .codeContrib h stripe slot fragment => Sys2Proof.Machine.execCodeContrib h stripe slot fragment s
  | .codeNull h stripe slot => Sys2Proof.Machine.execCodeNull h stripe slot s
  | .codeStripeTimeout v => Sys2Proof.Machine.execCodeStripeTimeout v s
  | .pageRebuild p fragments => Sys2Proof.Machine.execPageRebuild p fragments s
  | .copyManifest h spans => Sys2Proof.Machine.execCopyManifest h spans s
  | .copyRecord h rec => Sys2Proof.Machine.execCopyRecord h rec s
  | .copyPage h layer head page isSealed content => Sys2Proof.Machine.execCopyPage h layer head page isSealed content s
  | .copyRows h rows => Sys2Proof.Machine.execCopyRows h rows s
  | .copyDone h => Sys2Proof.Machine.execCopyDone h s
  | .homeUpdate h => Sys2Proof.Machine.execHomeUpdate h s
  | .peerAck h status fill => Sys2Proof.Machine.execPeerAck h status fill s
  | .peerResend tag => Sys2Proof.Machine.execPeerResend tag s
  | .heartbeat v sender twinLink p => Sys2Proof.Machine.execHeartbeat v sender twinLink p s
  | .heartbeatSend v => Sys2Proof.Machine.execHeartbeatSend v s
  | .heartbeatMiss v twinLink => Sys2Proof.Machine.execHeartbeatMiss v twinLink s
  | .nodeFence c p => Sys2Proof.Machine.execNodeFence c p s
  | .nodeLostList c fromSeq maxEntries => Sys2Proof.Machine.execNodeLostList c fromSeq maxEntries s
  | .ownOffer c p => Sys2Proof.Machine.execOwnOffer c p s
  | .ownAccept c handoffId fills => Sys2Proof.Machine.execOwnAccept c handoffId fills s
  | .ownCommit c handoffId => Sys2Proof.Machine.execOwnCommit c handoffId s
  | .ownResend v handoffId => Sys2Proof.Machine.execOwnResend v handoffId s
  | .ownWaitExpiry v handoffId => Sys2Proof.Machine.execOwnWaitExpiry v handoffId s
  | .ownResolve c handoffId winner => Sys2Proof.Machine.execOwnResolve c handoffId winner s
  | .ownStatus c => Sys2Proof.Machine.execOwnStatus c s
  | .flr => Sys2Proof.Machine.execFlr s
  | .perstN high => Sys2Proof.Machine.execPerstN high s
  | .adminEnable value => Sys2Proof.Machine.execAdminEnable value s
  | .nodeRingCreate c p => Sys2Proof.Machine.execNodeRingCreate c p s
  | .nodeRingDestroy c ring => Sys2Proof.Machine.execNodeRingDestroy c ring s
  | .ringDoorbell ring value f => Sys2Proof.Machine.execRingDoorbell ring value f s
  | .commandAdmit ring paramFetchFails => Sys2Proof.Machine.execCommandAdmit ring paramFetchFails s
  | .coalesceExpiry ring => Sys2Proof.Machine.execCoalesceExpiry ring s
  | .peekTag ring tag => Sys2Proof.Machine.execPeekTag ring tag s
  | .apertureRead offset len u => Sys2Proof.Machine.execApertureRead offset len u s
  | .apertureWrite offset bytes u => Sys2Proof.Machine.execApertureWrite offset bytes u s
  | .mbData m word => Sys2Proof.Machine.execMbData m word s
  | .mbTake m => Sys2Proof.Machine.execMbTake m s
  | .mbReset m => Sys2Proof.Machine.execMbReset m s
  | .registerWrite r value => Sys2Proof.Machine.execRegisterWrite r value s
  | .orderFence c scopeNode mirror logMark => Sys2Proof.Machine.execOrderFence c scopeNode mirror logMark s
  | .orderFenceTimeout job => Sys2Proof.Machine.execOrderFenceTimeout job s
  | .logRead c fromSeq maxRecords => Sys2Proof.Machine.execLogRead c fromSeq maxRecords s
  | .logCounters c group index first count => Sys2Proof.Machine.execLogCounters c group index first count s
  | .syncCreate c p => Sys2Proof.Machine.execSyncCreate c p s
  | .syncDestroy c index force => Sys2Proof.Machine.execSyncDestroy c index force s
  | .syncSignal c => Sys2Proof.Machine.execSyncSignal c s
  | .syncWait c => Sys2Proof.Machine.execSyncWait c s
  | .syncRead c first count => Sys2Proof.Machine.execSyncRead c first count s
  | .syncDump c freeze freezeNs => Sys2Proof.Machine.execSyncDump c freeze freezeNs s
  | .syncSet c index action value => Sys2Proof.Machine.execSyncSet c index action value s
  | .syncSel index => Sys2Proof.Machine.execSyncSel index s
  | .setValue index => Sys2Proof.Machine.execSetValue index s
  | .clearOverruns index => Sys2Proof.Machine.execClearOverruns index s
  | .abortWaiters index reservedAction => Sys2Proof.Machine.execAbortWaiters index reservedAction s
  | .waitTimeout waiter => Sys2Proof.Machine.execWaitTimeout waiter s
  | .barrierCreate c p => Sys2Proof.Machine.execBarrierCreate c p s
  | .barrierArrive c index sense nowait timeoutUs => Sys2Proof.Machine.execBarrierArrive c index sense nowait timeoutUs s
  | .barrierDestroy c index force => Sys2Proof.Machine.execBarrierDestroy c index force s
  | .signal m index value tag rsv => Sys2Proof.Machine.execSignal m index value tag rsv s
  | .treeArrive m index fromIndex phase rsv => Sys2Proof.Machine.execTreeArrive m index fromIndex phase rsv s
  | .treeRelease m index fromIndex phase rsv => Sys2Proof.Machine.execTreeRelease m index fromIndex phase rsv s
  | .setdasa staticAddr dynamicAddr => Sys2Proof.Machine.execSetdasa staticAddr dynamicAddr s
  | .operatorAnchor offset bytes => Sys2Proof.Machine.execOperatorAnchor offset bytes s
  | .anchorLock value => Sys2Proof.Machine.execAnchorLock value s
  | .sessionInit ek nonce cred => Sys2Proof.Machine.execSessionInit ek nonce cred s
  | .sessionClose session how => Sys2Proof.Machine.execSessionClose session how s
  | .sessionIdleTimeout session => Sys2Proof.Machine.execSessionIdleTimeout session s
  | .getStatus r => Sys2Proof.Machine.execGetStatus r s
  | .getTelemetry r clear rsv => Sys2Proof.Machine.execGetTelemetry r clear rsv s
  | .getAttestation r nonce => Sys2Proof.Machine.execGetAttestation r nonce s
  | .getCerts r => Sys2Proof.Machine.execGetCerts r s
  | .setTime r utc => Sys2Proof.Machine.execSetTime r utc s
  | .setFabricIdentity r v nodeId pfx forwarding => Sys2Proof.Machine.execSetFabricIdentity r v nodeId pfx forwarding s
  | .setPeerEntry r v peer e rsv => Sys2Proof.Machine.execSetPeerEntry r v peer e rsv s
  | .readNeighbours r v => Sys2Proof.Machine.execReadNeighbours r v s
  | .setTenantAnchor r digest => Sys2Proof.Machine.execSetTenantAnchor r digest s
  | .setFabricAnchors r anchors => Sys2Proof.Machine.execSetFabricAnchors r anchors s
  | .tenancySeal r tk hostData anchors => Sys2Proof.Machine.execTenancySeal r tk hostData anchors s
  | .tenancyOpen r tk => Sys2Proof.Machine.execTenancyOpen r tk s
  | .tenancyRelease r => Sys2Proof.Machine.execTenancyRelease r s
  | .debugLock r open_ => Sys2Proof.Machine.execDebugLock r open_ s
  | .spdmRequest firstBlock lastBlock nonce => Sys2Proof.Machine.execSpdmRequest firstBlock lastBlock nonce s
  | .ideKm stream secure => Sys2Proof.Machine.execIdeKm stream secure s
  | .ideState stream => Sys2Proof.Machine.execIdeState stream s
  | .powerOn => Sys2Proof.Machine.execPowerOn s
  | .devResetN lowNs => Sys2Proof.Machine.execDevResetN lowNs s
  | .flashWpAssert => Sys2Proof.Machine.execFlashWpAssert s
  | .powerUp mgmtMode testMode puf => Sys2Proof.Machine.execPowerUp mgmtMode testMode puf s
  | .clockLoss => Sys2Proof.Machine.execClockLoss s
  | .refclk156Loss => Sys2Proof.Machine.execRefclk156Loss s
  | .pcieRefclkLoss => Sys2Proof.Machine.execPcieRefclkLoss s
  | .brakeEnter rail mv => Sys2Proof.Machine.execBrakeEnter rail mv s
  | .brakeExit durationUs => Sys2Proof.Machine.execBrakeExit durationUs s
  | .supplyReset rail => Sys2Proof.Machine.execSupplyReset rail s
  | .powerInterval p => Sys2Proof.Machine.execPowerInterval p s
  | .nodeTempRead temps coolMs => Sys2Proof.Machine.execNodeTempRead temps coolMs s
  | .begin_ len => Sys2Proof.Machine.execBegin len s
  | .chunk len offset manifest => Sys2Proof.Machine.execChunk len offset manifest s
  | .end_ => Sys2Proof.Machine.execEnd s
  | .abort => Sys2Proof.Machine.execAbort s
  | .ping mailbox value => Sys2Proof.Machine.execPing mailbox value s
  | .loaderIdleTimeout => Sys2Proof.Machine.execLoaderIdleTimeout s
  | .firmwareLoadWindow offset bytes => Sys2Proof.Machine.execFirmwareLoadWindow offset bytes s
  | .eyeScan lane width height => Sys2Proof.Machine.execEyeScan lane width height s
  | .hbmMarginScan stack pc setup hold => Sys2Proof.Machine.execHbmMarginScan stack pc setup hold s
  | .droopWindow rail lowestMv => Sys2Proof.Machine.execDroopWindow rail lowestMv s
  | .opticsPoll port isPresent rx tx temp rxLowWarning => Sys2Proof.Machine.execOpticsPoll port isPresent rx tx temp rxLowWarning s
  | .sequenceRecordArrival h rec => Sys2Proof.Machine.execSequenceRecordArrival h rec s
  | .pcieRefclkReturn => Sys2Proof.Machine.execPcieRefclkReturn s
  | .powerGate engines core => Sys2Proof.Machine.execPowerGate engines core s
  | .syncSetStatus => Sys2Proof.Machine.execSyncSetStatus s

end Sys2Proof.Machine
end

