-- ==== Sys2Proof/Machine/Regs.lean ====
section
/-! DEFINITION. What a read of a register returns: BAR0 by offset, and the I3C target by offset (R9, R11, R434–R437, R470, R478–R480, R524,
R531). A field that is write-only or reserved reads as zero, and so does an offset outside every block. -/

namespace Sys2Proof.Machine

/-! ## The PCIe function (R431) -/

/-- A base address register: its number, the next one being its upper half, whether it is prefetchable, and its bytes. -/
structure PcieBar where
  number : Nat
  prefetchable : Bool
  bytes : Nat
deriving DecidableEq, Repr

/-- A capability that the function has. -/
inductive PcieCap where
  | msix (vectors : Nat)
  | aer
  | tenBitTags
  | flr
  /-- Data Object Exchange, and what it carries. -/
  | doe (spdm13 ideKm : Bool)
  /-- Integrity and Data Encryption: link streams and selective streams. -/
  | ide (linkStreams selectiveStreams : Nat)
deriving DecidableEq, Repr

/-- What the function says of itself. -/
structure PcieFunction where
  vendorId : BitVec 16
  deviceId : BitVec 16
  revision : Nat
  classCode : BitVec 24
  bars : List PcieBar
  maxPayload : Nat × Nat
  maxReadRequest : Nat × Nat
  caps : List PcieCap
deriving DecidableEq, Repr

/-- The node's one function. The vendor's identifier is PCI-SIG's to assign and is free; the revision is the silicon revision letter's distance from
'A'. What it does not list is not implemented: MSI, INTx, BAR4, BAR5, SR-IOV, Address Translation Services and PASID. -/
def pcieFunction : PcieFunction :=
  ⟨Config.pciVendor, partCode, siliconRev.toNat - 65, 0x120000, [⟨0, false, 2 ^ 24⟩, ⟨2, true, 2 ^ 28⟩], (128, 512), (128, 4096),
    [.msix 2048, .aer, .tenBitTags, .flr, .doe true true, .ide 1 8]⟩

/-- The bytes of a base address register; none where it is not implemented. -/
def PcieFunction.barBytes (f : PcieFunction) (n : Nat) : Nat := ((f.bars.find? (fun b => decide (b.number = n))).map PcieBar.bytes).getD 0

/-! ## The identity block (R435, R436) -/

/-- DEV_ID. -/
def devId : Nat := word [(48, pcieFunction.deviceId.toNat), (40, siliconRev.toNat)]

/-- A register of the identity block. -/
def identityReg (s : State) (offset : Nat) : Nat :=
  match offset with
  | 0x00 => devId
  | 0x08 => devStatus s
  | 0x10 => s.host.devError.toNat
  | 0x18 => s.log.nextSeq
  | 0x20 => s.pw.uptime
  | _ => 0

/-! ## Mailboxes (R479, R480) -/

/-- MB_STATUS (R480): RESET is write-only, and an enable that the mailbox's direction does not use stays 0. -/
def mbStatus (s : State) (m : BitVec 4) : Nat :=
  let x := mbAt s m
  word [(10, b2n x.abortedIrqEn), (9, b2n x.fullIrqEn), (8, b2n x.emptyIrqEn), (3, b2n x.empty), (2, b2n x.overrun), (1, b2n x.aborted),
    (0, b2n x.full)]

/-- The word that a mailbox holds, 0 when it is empty. -/
def mbWord (s : State) (m : BitVec 4) : Nat := if (mbAt s m).full then (mbAt s m).word.toNat else 0

/-- A register of a mailbox; MB_TAKE returns the word of mailboxes 8 to 15 alone. -/
def mailboxReg (s : State) (m : BitVec 4) (offset : Nat) : Nat :=
  match offset with
  | 0x00 => mbWord s m
  | 0x08 => if fromHost m then 0 else mbWord s m
  | 0x10 => mbStatus s m
  | _ => 0

/-! ## Rings (R470, R478) -/

/-- RING_STATUS. -/
def ringStatus (s : State) (ring : BitVec 9) : Nat :=
  let x := ringAt s ring
  let state : Nat := match x.state with
    | .disabled => 0
    | .active => 1
    | .error => 2
  word [(32, x.node.toNat), (16, x.cause), (0, state)]

/-- A register of a ring page: RING_DOORBELL and PEEK_TAG are write-only. -/
def ringReg (s : State) (ring : BitVec 9) (offset : Nat) : Nat :=
  if offset = 0x08 then ringStatus s ring
  else if 0x20 ≤ offset ∧ offset < 0x40 ∧ !(ringAt s ring).isResult then
    wordAt (peekReplyOf s ring (ringAt s ring).peekTag) ((offset - 0x20) / 8)
  else 0

/-! ## MSI-X (R439) -/

/-- Word `i` of the pending bit array. -/
def pendingWord (s : State) (i : Nat) : Nat :=
  word ((List.range 64).map (fun b => (b, b2n (decide (64 * i + b ∈ s.host.msixPending)))))

/-! ## The synchronisation unit (R524) -/

/-- SYNC_UNIT_STATUS: between two steps the unit is never frozen, as a freeze lies within one. -/
def syncUnitStatus (s : State) : Nat := word [(32, s.sync.waiters.length), (16, s.sync.objs.length)]

/-- A register of the synchronisation block: SYNC_SET_VALUE and SYNC_SET_CTRL are write-only. -/
def syncReg (s : State) (offset : Nat) : Nat :=
  if offset = 0x00 then syncUnitStatus s
  else if offset = 0x08 then s.sync.sel.toNat
  else if 0x10 ≤ offset ∧ offset < 0x30 then wordAt s.sync.snapshot ((offset - 0x10) / 8)
  else if offset = 0x50 then b2n s.sync.refused
  else 0

/-! ## BAR0 (R434) -/

/-- What a read of the 64-bit register at a BAR0 offset returns. The firmware load window reads as zero
(R566); the parameter blocks of the administration rings and the address and data words of the MSI-X table are written only (entry 89). -/
def barRead (s : State) (offset : Nat) : BitVec 64 :=
  BitVec.ofNat 64 (
    if pcieFunction.barBytes 0 ≤ offset then 0
    else if offset < 0x1000 then identityReg s offset
    else if 0x2000 ≤ offset ∧ offset < 0x2400 then mailboxReg s (BitVec.ofNat 4 ((offset - 0x2000) / 64)) (offset % 64)
    else if offset = 0x3000 then s.host.apertureWindow.toNat
    else if 0x18000 ≤ offset ∧ offset < 0x18100 then pendingWord s ((offset - 0x18000) / 8)
    else if 0x100000 ≤ offset ∧ offset < 0x300000 then ringReg s (BitVec.ofNat 9 ((offset - 0x100000) / 0x1000)) (offset % 0x1000)
    else if 0x400000 ≤ offset ∧ offset < 0x410000 then syncReg s (offset - 0x400000)
    else 0)

/-- The state after a read of a BAR0 offset (R11): a register that is read to clear takes its word or clears its field, and a read of any other
changes nothing. -/
def afterBarRead (s : State) (offset : Nat) : State :=
  if 0x2000 ≤ offset ∧ offset < 0x2400 ∧ offset % 64 = 0x08 then
    let m := BitVec.ofNat 4 ((offset - 0x2000) / 64)
    if fromHost m then s else takeMail m s
  else if offset = 0x400050 then { s with sync := { s.sync with refused := false } }
  else s

/-! ## The I3C target (R531) -/

/-- STATUS. -/
def i3cStatus (s : State) : Nat :=
  word [(7, b2n s.pw.fatal), (6, b2n s.pw.brake), (5, b2n s.mgmt.identityOk), (4, b2n s.mgmt.anchorLock), (2, s.mgmt.tenancy),
    (0, s.pw.fwState % 4)]

/-- The byte at an offset of the I3C target; registers of more than one byte are little-endian (R7). -/
def i3cByte (s : State) (offset : Nat) : Byte :=
  if offset < 0x02 then (leBytes 2 partCode.toNat).getD offset 0
  else if offset = 0x02 then siliconRev
  else if offset = 0x03 then BitVec.ofNat 8 (i3cStatus s)
  else if offset < 0x06 then (leBytes 2 (tempMax s % 65536).toNat).getD (offset - 0x04) 0
  else if offset < 0x08 then (leBytes 2 (min 65535 (s.pw.means.headD 0))).getD (offset - 0x06) 0
  else if offset = 0x08 then s.mgmt.alert
  else if 0x10 ≤ offset ∧ offset < 0x30 then s.mgmt.operatorAnchor.getD (offset - 0x10) 0
  else if offset = 0x30 then BitVec.ofNat 8 (b2n s.mgmt.anchorLock)
  else 0

/-- A private read of `n` bytes from the last offset written. -/
def i3cRead (s : State) (offset n : Nat) : List Byte := (List.range n).map (fun i => i3cByte s (offset + i))

end Sys2Proof.Machine
end

