-- ==== Sys2Proof/WellFormed.lean ====
section
/-! DEFINITION. Which operands spell a command or an event of the node at all: lengths that a layout fixes, places that exist and
counts that agree with their lists. A term that fails is no command; what the node answers to a command that is wrong is the business of the
meanings. -/

namespace Sys2Proof

/-- A byte string of a fixed length. -/
def bytesAre (n : Nat) (bs : List Byte) : Bool := decide (bs.length = n)

/-- A non-empty byte string that lies from an offset within a register of `n` bytes. -/
def bytesWithin (n off : Nat) (bs : List Byte) : Bool := decide (0 < bs.length) && decide (off + bs.length ≤ n)

/-- A frame that exists: its pseudo-channel is one of 256 and its index one of 56,661 (R50, R51). -/
def frameExists (f : Nat) : Bool := decide (f / 65536 < 256) && decide (f % 65536 < 56661)

/-- Strictly rising numbers. -/
def rising : List Nat → Bool
  | a :: b :: r => decide (a < b) && rising (b :: r)
  | _ => true

/-- The offsets of reserved fields are given in ascending order. -/
def CmdHeader.wf (h : CmdHeader) : Bool := rising h.rsv

/-- A packet has a 64-byte header, and its reserved parameter fields follow in ascending order. -/
def Fetched.wf (p : Fetched) : Bool := decide (p.bytes.length = 64) && rising p.paramRsv && p.paramRsv.all (fun o => decide (64 ≤ o))

/-- A command's header is well formed. -/
def Cmd.wf (c : Cmd) : Bool := c.hdr.wf

/-- Item and table counts agree with the lists (R574). -/
def ConfigImage.wf (i : ConfigImage) : Bool :=
  decide (i.items.length = i.itemCount.toNat) && decide (i.tables.length = i.tableCount.toNat)

/-- The item count agrees with the list (R579). -/
def ProfileBlock.wf (p : ProfileBlock) : Bool := decide (p.items.length = p.itemCount.toNat)

/-- The member count agrees with the list (R372). -/
def MapBlk.wf (m : MapBlk) : Bool := decide (m.members.length = m.memberCount.toNat)

/-- The child count agrees with the list (R510). -/
def BarrierBlk.wf (b : BarrierBlk) : Bool := decide (b.children.length = b.childCount.toNat)

/-- A page of a span record whose map frame exists; page indices are 16 bits wide. -/
def PageRef.wf (p : PageRef) : Bool :=
  frameExists p.record && decide (p.layer < 65536) && decide (p.head < 256) && decide (p.page < 65536)

/-- A block of one of 16 channels of 8 targets (R314). -/
def BlockRef.wf (b : BlockRef) : Bool := decide (b.channel < 16) && decide (b.target < 8)

/-- A packet holds at most 4,096 bytes, and the message header exactly when it is packet 0 (R340, R341). -/
def DataPkt.wf (p : DataPkt) : Bool :=
  decide (p.payload.length ≤ 4096) && (p.head.isSome == decide (p.bth.pktIndex = 0))

/-- A codeword of the node's physical space, with errors at some of its 36 stored symbols (R137, R292). -/
def CwErr.wf (e : CwErr) : Bool := decide (e.cw < 2 ^ 34) && e.pattern.all (fun p => decide (p.1 < 36) && decide (p.2 ≠ 0))

/-- A register of a runner that exists. -/
def RegUpset.wf (r : RegUpset) : Bool := decide (r.stack < 8) && decide (r.pc < 32) && decide (r.ctx < 2)

/-- Register errors at places that exist. -/
def RnCmd.wf (k : RnCmd) : Bool := k.regs.all RegUpset.wf

/-- Upsets at places that exist. -/
def Upsets.wf (u : Upsets) : Bool :=
  u.dir.all (fun d => decide (d.bank < 16) && decide (d.addr < 4096))
    && u.shadowUe.all (fun d => decide (d.1 < 16) && decide (d.2 < 4096))
    && u.hbm.all CwErr.wf && u.linkFixes.all (fun n => decide (n < 8))
    && u.regs.all RegUpset.wf

/-- Whether a term is a command or an event of the node. -/
def Instr.wf : Instr → Bool
  | .cfgImage c img => c.wf && img.wf
  | .cfgProfile c p => c.wf && p.wf
  | .cfgRead c => c.wf
  | .spanOpen c _ _ => c.wf
  | .spanLocate c _ _ => c.wf
  | .spanClose c _ => c.wf
  | .spanAlias c _ => c.wf
  | .spanMove c _ _ => c.wf
  | .spanCoverage c _ => c.wf
  | .spanReset c _ => c.wf
  | .frameDrainEnd frame => frameExists frame.toNat
  | .quarantineEnd frame => frameExists frame.toNat
  | .dirScrub u => u.wf
  | .dirClear c => c.wf
  | .dirRead c _ _ _ => c.wf
  | .dirProbe c _ _ _ u => c.wf && u.wf
  | .append _ payload u => decide (payload.length ≤ 2 ^ 20) && u.wf
  | .kvAppend c _ u => c.wf && u.wf
  | .kvSmooth c _ _ _ _ => c.wf
  | .kvMaskSet c _ _ _ _ => c.wf
  | .kvMaskTile c _ _ _ _ tile => c.wf && bytesAre 2048 tile
  | .kvMaskDrop c _ => c.wf
  | .maskSlotFree frame _ => frameExists frame.toNat
  | .rnNop _ k => k.wf
  | .rnQload _ k _ => k.wf
  | .rnScale _ k u => k.wf && u.wf
  | .rnScore _ k u => k.wf && u.wf
  | .rnWload _ k => k.wf
  | .rnWeigh _ k u => k.wf && u.wf
  | .rnDrain _ k => k.wf
  | .rnFill _ k u => k.wf && u.wf
  | .rnCopy _ k u => k.wf && u.wf
  | .rnScrub _ k u => k.wf && u.wf
  | .rnAbort _ k => k.wf
  | .rnStatus _ k => k.wf
  | .attnQuery c _ u => c.wf && u.wf
  | .query _ payload u => decide (payload.length ≤ 2 ^ 20) && u.wf
  | .keyPassComplete _ u => u.wf
  | .dieBlockDone _ _ u => u.wf
  | .segmentComplete _ u => u.wf
  | .valuePassComplete _ u => u.wf
  | .attnMerge c _ => c.wf
  | .attnQueryFanout c _ => c.wf
  | .readVerify p u => p.wf && u.wf
  | .scrubVerify c _ => c.wf
  | .twinVerifyTimeout p => p.wf
  | .replicaRewrite p _ => p.wf
  | .pageRepair p _ => p.wf
  | .patrolScrubStep _ _ u => u.wf
  | .scrubPass c => c.wf
  | .packPage p => p.wf
  | .packCompact frame => frameExists frame.toNat
  | .demotePage p => p.wf
  | .demoteComplete p _ => p.wf
  | .promoteComplete p _ => p.wf
  | .tierPromote c _ => c.wf
  | .tierDemote c _ => c.wf
  | .tierPin c _ => c.wf
  | .tierUnpin c _ => c.wf
  | .tierStatus c _ => c.wf
  | .flashRelocate b _ _ => b.wf
  | .ftlReclaim b => b.wf
  | .wearLevel b => b.wf
  | .flashProgramFail b => b.wf
  | .flashEraseBackground b => b.wf
  | .codecLoad c _ => c.wf
  | .codecSelect c _ _ _ => c.wf
  | .codecRetire c _ _ _ => c.wf
  | .codecStatus c => c.wf
  | .codecSample c _ => c.wf
  | .portLinkUp port => decide (port.toNat ≤ 16)
  | .portLinkDown port => decide (port.toNat ≤ 16)
  | .frameReceive _ port _ _ _ => decide (port.toNat ≤ 16)
  | .data p => p.wf
  | .command _ p => p.wf
  | .write _ payload => decide (payload.length ≤ 2 ^ 20)
  | .readReq _ _ _ _ u => u.wf
  | .readResp _ payload => decide (payload.length ≤ 2 ^ 20)
  | .hello port _ => decide (port.toNat ≤ 16)
  | .helloSend port => decide (port.toNat ≤ 16)
  | .neighbourExpiry port => decide (port.toNat ≤ 16)
  | .keyAgree1 _ _ _ _ ek nonce _ => bytesAre 1184 ek && bytesAre 32 nonce
  | .keyAgree2 _ _ _ ct nonce _ => bytesAre 1088 ct && bytesAre 32 nonce
  | .nodeMap c p _ => c.wf && p.wf
  | .nodeQpCreate c _ => c.wf
  | .nodeQpDestroy c _ => c.wf
  | .twinPair c _ => c.wf
  | .twinSolo c _ => c.wf
  | .twinCodeset c _ _ => c.wf
  | .twinStatus c => c.wf
  | .mirrorSeal _ _ _ _ digest => bytesAre 32 digest
  | .verifyReq _ _ _ _ digest hash u => bytesAre 32 digest && bytesAre 32 hash && u.wf
  | .verifyResp _ _ _ _ digest _ _ => bytesAre 32 digest
  | .pageRebuild p _ => p.wf
  | .nodeFence c _ => c.wf
  | .nodeLostList c _ _ => c.wf
  | .ownOffer c _ => c.wf
  | .ownAccept c _ _ => c.wf
  | .ownCommit c _ => c.wf
  | .ownResolve c _ _ => c.wf
  | .ownStatus c => c.wf
  | .nodeRingCreate c _ => c.wf
  | .nodeRingDestroy c _ => c.wf
  | .apertureRead _ len u => decide (0 < len.toNat) && u.wf
  | .apertureWrite _ bytes u => decide (0 < bytes.length) && u.wf
  | .orderFence c _ _ _ => c.wf
  | .logRead c _ _ => c.wf
  | .logCounters c _ _ _ _ => c.wf
  | .syncCreate c _ => c.wf
  | .syncDestroy c _ _ => c.wf
  | .syncSignal c => c.wf
  | .syncWait c => c.wf
  | .syncRead c _ _ => c.wf
  | .syncDump c _ _ => c.wf
  | .syncSet c _ _ _ => c.wf
  | .barrierCreate c p => c.wf && p.wf
  | .barrierArrive c _ _ _ _ => c.wf
  | .barrierDestroy c _ _ => c.wf
  | .operatorAnchor offset bytes => bytesWithin 32 offset.toNat bytes
  | .sessionInit ek nonce _ => bytesAre 1184 ek && bytesAre 32 nonce
  | .getAttestation _ nonce => bytesAre 32 nonce
  | .setTenantAnchor _ digest => bytesAre 32 digest
  | .tenancySeal _ tk _ _ => bytesAre 32 tk
  | .tenancyOpen _ tk => bytesAre 32 tk
  | .nodeTempRead temps _ => decide (temps.length = 32)
  | .firmwareLoadWindow _ bytes => decide (0 < bytes.length)
  | .eyeScan lane _ _ => decide (lane.toNat < 20)
  | .opticsPoll port _ _ _ _ _ => decide (port.toNat ≤ 16)
  | .spanCreateRequest .. | .spanCreateTimeout .. | .spanFillReport .. | .sequenceRecordMove .. | .spanCloseTimeout ..
  | .seqClose .. | .dataRequestTimeout .. | .dirBankRebuildEnd .. | .dirUpdateEnd .. | .dirWaitExpiry ..
  | .dirHoleRestore .. | .tombstoneExpiry .. | .spareReplenish .. | .pageSeal .. | .smoothHold .. | .smoothInstall ..
  | .kvSmoothTimeout .. | .refreshDue ..
  | .stackSensorRead .. | .attnReserve .. | .attnAdmitTimeout .. | .fanoutTimeout .. | .sramScrub .. | .scrubPassDone ..
  | .scrubIntervalEnd .. | .promoteStallExpiry .. | .flashProbe .. | .recodeImage .. | .codecBlock .. | .ack ..
  | .ackTimer .. | .retxTimerExpiry .. | .rnrWaitExpiry .. | .qpRetryExhausted .. | .qpHoldExpiry .. | .entropySuspendEnd ..
  | .rateIncrease .. | .headraceAdmit .. | .keyAgree3 .. | .keyAgreeResend .. | .rxSaRetire .. | .rekeyDue ..
  | .pnExhausted .. | .drainWindowEnd .. | .twinPairTimeout .. | .pairPropose .. | .pairConfirm .. | .mirrorRecord ..
  | .mirrorRows .. | .mirrorRelease .. | .mirrorAckTimeout .. | .asyncMirrorSend .. | .codeContrib .. | .codeNull ..
  | .codeStripeTimeout .. | .copyManifest .. | .copyRecord .. | .copyPage .. | .copyRows .. | .copyDone .. | .homeUpdate ..
  | .peerAck .. | .peerResend .. | .heartbeat .. | .heartbeatSend .. | .heartbeatMiss .. | .ownResend .. | .ownWaitExpiry ..
  | .flr .. | .perstN .. | .adminEnable .. | .ringDoorbell .. | .commandAdmit .. | .coalesceExpiry .. | .peekTag ..
  | .mbData .. | .mbTake .. | .mbReset .. | .registerWrite .. | .orderFenceTimeout .. | .syncSel .. | .setValue ..
  | .clearOverruns .. | .abortWaiters .. | .waitTimeout .. | .signal .. | .treeArrive .. | .treeRelease .. | .setdasa ..
  | .anchorLock .. | .sessionClose .. | .sessionIdleTimeout .. | .getStatus .. | .getTelemetry .. | .getCerts ..
  | .setTime .. | .setFabricIdentity .. | .setPeerEntry .. | .readNeighbours .. | .setFabricAnchors .. | .tenancyRelease ..
  | .debugLock .. | .spdmRequest .. | .ideKm .. | .ideState .. | .powerOn .. | .devResetN .. | .flashWpAssert ..
  | .powerUp .. | .clockLoss .. | .refclk156Loss .. | .pcieRefclkLoss .. | .brakeEnter .. | .brakeExit .. | .supplyReset ..
  | .powerInterval .. | .begin_ .. | .chunk .. | .end_ .. | .abort .. | .ping .. | .loaderIdleTimeout .. | .hbmMarginScan ..
  | .droopWindow .. | .sequenceRecordArrival .. | .pcieRefclkReturn .. | .powerGate .. | .syncSetStatus .. => true

end Sys2Proof
end

