-- ==== Sys2Proof/Safety.lean ====
section
/-! DEFINITION. What counts as a safe run, in the terms that statements use: the invariant of a state, when a command of a verb
row is served, and what a queue may not change. -/

namespace Sys2Proof.Machine

/-! ## The invariant -/

/-- The measurement registers are eight registers of 32 bytes, and MEAS_6 and MEAS_7 are zero (R542). -/
def measOk (m : List (List Byte)) : Bool :=
  decide (m.length = 8) && m.all (fun r => decide (r.length = 32)) && decide (m.drop 6 = [zeros 32, zeros 32])

/-- Every counter lies within 64 bits (R92). -/
def countersOk (t : Tbl (Counter × Nat) Nat) : Bool := t.all (fun p => decide (p.2 < 2 ^ 64))

/-- What every step keeps: memory in its canonical form, at most 65,536 records in the event log (R485), counters within 64 bits (R92),
and the measurement registers in form (R542). -/
def State.Inv (s : State) : Prop :=
  s.mem.wf = true ∧ s.log.events.length ≤ logRoom ∧ countersOk s.ctr = true ∧ measOk s.mgmt.meas = true

/-! ## When a command is served -/

/-- The states between which a command of a verb row does its work: the one that an over-long result goes back to, and the one in
which the work starts. A command that is already admitted works at once; another passes its header checks and its wait, and is
admitted. None where it is refused or must wait. -/
def toWork (c : Cmd) (s : State) : Option (State × State) :=
  match admission s c with
  | some _ => some (s, asWork c s)
  | none => match headerCheck s c with
    | some _ => none
    | none =>
      if headerWaitHolds s c.hdr then
        let t := takeIn c true (if c.hdr.waitValid then passWait c.hdr.waitObj s else s)
        some (t, asWork c t)
      else none

/-- A node that serves commands serves this one: its parameters have the length given and no reserved field set, and its work starts
in `w`. -/
def Serves (c : Cmd) (len : Nat) (s b w : State) : Prop :=
  live s = true ∧ toWork c s = some (b, w) ∧ c.hdr.rsv = [] ∧ c.hdr.paramLen.toNat = len

/-- A live node takes up a PEER message of a class with no reserved field set (R10, R362, R393, R411). -/
def Met (h : PeerHdr) (cls : PeerClass) (s : State) : Prop :=
  live s = true ∧ peerTaken (takePeer h.sender s) h cls = true ∧ h.rsv = false

/-- A live node serves a management request: a session carries it, of one of the roles given (R536). -/
def Managed (r : MgmtReq) (roles : List Nat) (s : State) : Prop :=
  live s = true ∧ ∃ x, s.mgmt.sessions.at? r.session = some x ∧ x.role ∈ roles

/-- No stack is at throttle level 3, so that a frame's RN_FILL can be issued anywhere (R146, R167). -/
def AllFill (s : State) : Prop := ∀ stack, throttleOf s stack < 3

/-- A descriptor passes the checks of R102 from step 4 on against the span record that it writes to, which is shared by no alias, and its rows
convert to those given; what it reads for its comparison leaves the state `w` with the record as it was (R117, R295). -/
structure AppendPasses (bs : List Byte) (rec : FrameId) (r : SpanRec) (rows : List (List StoredRow)) (s w : State) : Prop where
  smoothed : unsmoothed r (readAppend bs) = false
  noGap : gapHead r (readAppend bs) = none
  notLost : namesLost r (readAppend bs) = false
  openReads : namesUnread s r (readAppend bs) = false
  genHolds : staleGen s rec (readAppend bs) = false
  converts : convertRows r (readAppend bs) bs = some rows
  reads : readNeeded rec r (readAppend bs) false s = w
  kept : spanAt w rec = some r
  readable : readRefusal w rec r (readAppend bs) = none
  noConflict : conflict (repeats w r (readAppend bs) rows) = none
  room : newPages r (readAppend bs) ≤ freeForUse w r.vnode + b2n r.spare.isSome

/-- A descriptor of a source meets nothing that it must wait for, and its span is found with a geometry that it fits (R85, R101, R102). -/
structure AppendFinds (src : AppendSrc) (bs : List Byte) (s : State) (rec : FrameId) (r : SpanRec) (t : State) : Prop where
  notBehind : behindHeld s none (srcVnode s src) (readAppend bs) = false
  found : findSpan (srcVnode s src) (readAppend bs).handle (readAppend bs).span s = (.found rec false, t)
  record : spanAt t rec = some r
  fits : appendGeometry r.geo (readAppend bs) bs.length = none
  notHeld : heldHead t rec (readAppend bs) = none

/-- A live node executes a runner command at once: the scheduler can issue it, no earlier command of the runner waits, and it activates no row
at throttle level 3 (R148–R150, R167). -/
def Issues (op : Nat) (stack : BitVec 3) (k : RnCmd) (s : State) : Prop :=
  live s = true ∧ rnNeverIssued op k = false ∧ runnerHeld s stack.toNat k.pc.toNat = false
    ∧ (rnAddressed op && decide (throttleOf s stack.toNat = 3)) = false

/-- No field of a list of checks fails. -/
def fieldsPass (fails : List (Bool × Nat)) : Bool := fails.all (fun f => !f.1)

/-- A result fits the entry that the command has for it (R475). -/
def Fits (c : Cmd) (b : State) (r : Reply) : Prop := r.result.length ≤ resultRoom b c

end Sys2Proof.Machine

namespace Sys2Proof

/-! ## Families of rows -/

/-- The command that a verb row carries. -/
def Instr.verb? (i : Instr) : Option Cmd :=
  match i with
  | .cfgImage c _ | .cfgProfile c _ | .cfgRead c | .spanOpen c _ _ | .spanLocate c _ _ | .spanClose c _ | .spanAlias c _
  | .spanMove c _ _ | .spanCoverage c _ | .spanReset c _ | .dirClear c | .dirRead c _ _ _ | .dirProbe c _ _ _ _
  | .kvAppend c _ _ | .kvSmooth c _ _ _ _ | .kvMaskSet c _ _ _ _ | .kvMaskTile c _ _ _ _ _ | .kvMaskDrop c _
  | .attnQuery c _ _ | .attnMerge c _ | .attnQueryFanout c _ | .scrubVerify c _ | .scrubPass c | .tierPromote c _
  | .tierDemote c _ | .tierPin c _ | .tierUnpin c _ | .tierStatus c _ | .codecLoad c _ | .codecSelect c _ _ _
  | .codecRetire c _ _ _ | .codecStatus c | .codecSample c _ | .nodeMap c _ _ | .nodeQpCreate c _ | .nodeQpDestroy c _
  | .twinPair c _ | .twinSolo c _ | .twinCodeset c _ _ | .twinStatus c | .nodeFence c _ | .nodeLostList c _ _ | .ownOffer c _
  | .ownAccept c _ _ | .ownCommit c _ | .ownResolve c _ _ | .ownStatus c | .nodeRingCreate c _ | .nodeRingDestroy c _
  | .orderFence c _ _ _ | .logRead c _ _ | .logCounters c _ _ _ _ | .syncCreate c _ | .syncDestroy c _ _ | .syncSignal c
  | .syncWait c | .syncRead c _ _ | .syncDump c _ _ | .syncSet c _ _ _ | .barrierCreate c _ | .barrierArrive c _ _ _ _
  | .barrierDestroy c _ _ => some c
  | _ => none

/-- The request that a management row carries, and the roles that may issue it (R536). -/
def Instr.request? (i : Instr) : Option (MgmtReq × List Nat) :=
  match i with
  | .getStatus r | .getAttestation r _ | .getCerts r | .setFabricAnchors r _ | .tenancyRelease r => some (r, Machine.anyRole)
  | .getTelemetry r _ _ | .setTime r _ | .setFabricIdentity r _ _ _ _ | .setPeerEntry r _ _ _ _ | .readNeighbours r _
  | .setTenantAnchor r _ | .tenancyOpen r _ | .debugLock r _ => some (r, [Machine.roleOperator])
  | .tenancySeal r _ _ _ => some (r, [Machine.roleTenant])
  | _ => none

/-- The PEER message that a row takes up, and its class, where an acknowledgement answers it (R391–R393). -/
def Instr.peer? (i : Instr) : Option (PeerHdr × Machine.PeerClass) :=
  match i with
  | .pairPropose h _ _ | .pairConfirm h _ _ => some (h, .propose)
  | .mirrorRecord h _ | .mirrorRows h _ | .mirrorSeal h _ _ _ _ | .mirrorRelease h _ | .verifyReq h _ _ _ _ _ _
  | .verifyResp h _ _ _ _ _ _ => some (h, .twin)
  | .codeContrib h _ _ _ | .codeNull h _ _ => some (h, .code)
  | .copyManifest h _ | .copyRecord h _ | .copyPage h _ _ _ _ _ | .copyRows h _ | .copyDone h => some (h, .copy)
  | .spanCreateRequest h _ _ _ _ | .spanFillReport h _ | .seqClose h | .smoothHold h _ _ | .smoothInstall h _ _ _ | .homeUpdate h
  | .sequenceRecordArrival h _ => some (h, .other)
  | _ => none

/-- The rows after which held commands may go on. -/
def Instr.wakes (i : Instr) : Bool :=
  match i with
  | .spanClose _ _ | .spanReset _ _ | .nodeMap _ _ _ | .twinSolo _ _ | .ownResolve _ _ _ | .spanFillReport _ _ | .seqClose _ => true
  | _ => false

/-- The verb rows whose frame allocation may wait for RN_FILL (R146, R167). -/
def Instr.fills (i : Instr) : Bool :=
  match i with
  | .spanOpen _ _ _ | .spanLocate _ _ _ | .spanAlias _ _ | .kvAppend _ _ _ | .kvMaskSet _ _ _ _ _ | .kvMaskTile _ _ _ _ _ _ => true
  | _ => false

/-- What follows the work of a row: what part writes have found is handled (R142), and held commands may go on. -/
def Instr.after (i : Instr) (s : Machine.State) : Machine.State :=
  if i.fills then Machine.settleUe s else if i.wakes then Machine.wake s else s

/-- The rows that the always-on domain serves, with the node down too (R531, R561–R565). -/
def Instr.alwaysOn (i : Instr) : Bool :=
  match i with
  | .powerOn | .devResetN _ | .supplyReset _ | .clockLoss | .powerUp _ _ _ | .flashWpAssert | .perstN _ | .pcieRefclkLoss
  | .pcieRefclkReturn | .setdasa _ _ | .operatorAnchor _ _ | .anchorLock _ | .registerWrite .i3cAlert _ => true
  | _ => false

/-- The rows that may be a device reset (R561). -/
def Instr.resets (i : Instr) : Bool :=
  match i with
  | .powerOn | .devResetN _ | .supplyReset _ | .clockLoss | .nodeTempRead _ _ => true
  | _ => false

/-- The rows that may change the tenancy (R536). -/
def Instr.tenancy (i : Instr) : Bool :=
  match i with
  | .tenancySeal _ _ _ _ | .tenancyOpen _ _ | .tenancyRelease _ => true
  | _ => false

/-- The rows of the synchronisation unit (R491–R528). -/
def Instr.syncRow (i : Instr) : Bool :=
  match i with
  | .syncCreate _ _ | .syncDestroy _ _ _ | .syncSignal _ | .syncWait _ | .syncRead _ _ _ | .syncDump _ _ _ | .syncSet _ _ _ _
  | .barrierCreate _ _ | .barrierArrive _ _ _ _ _ | .barrierDestroy _ _ _ | .signal _ _ _ _ _ | .treeArrive _ _ _ _ _
  | .treeRelease _ _ _ _ _ | .waitTimeout _ | .syncSel _ | .setValue _ | .clearOverruns _ | .abortWaiters _ _ | .syncSetStatus => true
  | _ => false

/-- The commands that only report, or change no more than rings and fences. -/
def Instr.reports (i : Instr) : Bool :=
  match i with
  | .cfgRead _ | .dirRead _ _ _ _ | .codecStatus _ | .twinStatus _ | .ownStatus _ | .logRead _ _ _ | .logCounters _ _ _ _ _
  | .orderFence _ _ _ _ | .nodeRingCreate _ _ | .nodeRingDestroy _ _ => true
  | _ => false

/-- The rows that store nothing: no byte of memory and no record of a span, a sequence or a mask set. -/
def Instr.storesNothing (i : Instr) : Bool :=
  match i with
  | .cfgImage _ _ | .cfgProfile _ _ | .cfgRead _ | .spanCloseTimeout _ | .spanMove _ _ _ | .spanCoverage _ _ | .dirScrub _
  | .dirHoleRestore _ _ _ | .tombstoneExpiry _ _ | .dirRead _ _ _ _ | .dirProbe _ _ _ _ _ | .smoothHold _ _ _ | .rnNop _ _
  | .rnAbort _ _ | .rnStatus _ _ | .refreshDue _ _
  | .attnMerge _ _ | .fanoutTimeout _ _ | .scrubPassDone _ | .scrubIntervalEnd | .scrubPass _
  | .tierStatus _ _ | .flashProbe _ _ _ | .flashRelocate _ _ _ | .ftlReclaim _ | .wearLevel _ | .flashEraseBackground _
  | .codecLoad _ _ | .codecSelect _ _ _ _ | .codecRetire _ _ _ _ | .codecStatus _ | .codecSample _ _ | .portLinkUp _
  | .portLinkDown _ | .frameReceive _ _ _ _ _ | .data _ | .ack _ | .ackTimer _ | .retxTimerExpiry _ | .rnrWaitExpiry _
  | .qpRetryExhausted _ | .qpHoldExpiry _ | .entropySuspendEnd _ _ | .rateIncrease _ | .headraceAdmit _ | .command _ _
  | .readResp _ _ | .hello _ _ | .helloSend _ | .neighbourExpiry _ | .keyAgree1 _ _ _ _ _ _ _ | .keyAgree2 _ _ _ _ _ _
  | .keyAgree3 _ _ _ _ _ | .keyAgreeResend _ _ _ | .rxSaRetire _ _ _ | .rekeyDue _ _ _ | .pnExhausted _ _ _
  | .drainWindowEnd _ | .nodeQpCreate _ _ | .nodeQpDestroy _ _ | .twinPair _ _ | .twinPairTimeout _ | .twinStatus _
  | .asyncMirrorSend _ | .codeStripeTimeout _ | .heartbeat _ _ _ _ | .heartbeatSend _ | .heartbeatMiss _ _
  | .nodeFence _ _ | .nodeLostList _ _ _ | .ownOffer _ _ | .ownAccept _ _ _ | .ownResend _ _ | .ownStatus _ | .flr
  | .perstN _ | .adminEnable _ | .nodeRingCreate _ _ | .nodeRingDestroy _ _ | .ringDoorbell _ _ _ | .commandAdmit _ _
  | .coalesceExpiry _ | .peekTag _ _ | .mbData _ _ | .mbTake _ | .mbReset _ | .registerWrite _ _ | .orderFence _ _ _ _
  | .orderFenceTimeout _ | .logRead _ _ _ | .logCounters _ _ _ _ _ | .syncCreate _ _ | .syncDestroy _ _ _ | .syncSignal _
  | .syncWait _ | .syncRead _ _ _ | .syncDump _ _ _ | .syncSet _ _ _ _ | .syncSel _ | .setValue _ | .clearOverruns _
  | .abortWaiters _ _ | .waitTimeout _ | .barrierCreate _ _ | .barrierArrive _ _ _ _ _ | .barrierDestroy _ _ _
  | .signal _ _ _ _ _ | .treeArrive _ _ _ _ _ | .treeRelease _ _ _ _ _ | .setdasa _ _ | .operatorAnchor _ _ | .anchorLock _
  | .sessionInit _ _ _ | .sessionClose _ _ | .sessionIdleTimeout _ | .getStatus _ | .getTelemetry _ _ _ | .getAttestation _ _
  | .getCerts _ | .setTime _ _ | .setFabricIdentity _ _ _ _ _ | .setPeerEntry _ _ _ _ _ | .readNeighbours _ _
  | .setTenantAnchor _ _ | .setFabricAnchors _ _ | .debugLock _ _ | .spdmRequest _ _ _ | .ideKm _ _ | .ideState _
  | .flashWpAssert | .powerUp _ _ _ | .refclk156Loss | .pcieRefclkLoss | .brakeEnter _ _ | .powerInterval _ | .begin_ _
  | .chunk _ _ _ | .abort | .ping _ _ | .loaderIdleTimeout | .firmwareLoadWindow _ _ | .eyeScan _ _ _
  | .hbmMarginScan _ _ _ _ | .droopWindow _ _ | .opticsPoll _ _ _ _ _ _ | .pcieRefclkReturn | .powerGate _ _
  | .syncSetStatus => true
  | _ => false

/-- The rows that store nothing of their own and may end a request, whose images are then freed with the frames that hold nothing else. -/
def Instr.endsRequests (i : Instr) : Bool :=
  match i with
  | .rnQload _ _ _ | .rnWload _ _ | .rnDrain _ _ | .attnAdmitTimeout _ | .promoteStallExpiry _ => true
  | _ => false

end Sys2Proof

namespace Sys2Proof.Machine

/-! ## Frames -/

/-- What the tiers, the directory and the records hold, the work in them, and the settings of the node are the same in two states. -/
def State.SameContent (t s : State) : Prop :=
  t.mem = s.mem ∧ t.frames = s.frames ∧ t.withheld = s.withheld ∧ t.spans = s.spans ∧ t.seqs = s.seqs ∧ t.dir = s.dir
  ∧ t.tier = s.tier ∧ t.hbm = s.hbm ∧ t.masks = s.masks ∧ t.maskPages = s.maskPages ∧ t.attn = s.attn ∧ t.sealQueue = s.sealQueue
  ∧ t.holds = s.holds ∧ t.deferred = s.deferred ∧ t.vnodes = s.vnodes ∧ t.runners = s.runners ∧ t.hbmStacks = s.hbmStacks
  ∧ t.knobs = s.knobs ∧ t.configured = s.configured ∧ t.profile = s.profile ∧ t.pw = s.pw

end Sys2Proof.Machine
end

