-- ==== Sys2Proof/Certificates/Slice0/Obligations.lean ====
section
/-! DEFINITION. The statements for the provers: what each command and event does where it is served, what the machine keeps, and the rules
of the manual that they formalise. -/

open Sys2Proof Sys2Proof.Machine

/-! ## The directory (R76–R91, R457, R458) -/

/-- The commands that read, probe and clear the directory, each served with parameters that pass, answer as R457, R458 and R91 say: the
entries of a bank with those of other virtual nodes hidden; the search status at once; ST_OK over an empty directory. -/
def Parts.DirCommandsComplete : Prop :=
  (∀ c bank (first : BitVec 12) (count : BitVec 13) s b w, Serves c 8 s b w → 1 ≤ count.toNat → first.toNat + count.toNat ≤ 4096 →
    32 * count.toNat ≤ resultRoom b c →
    exec (.dirRead c bank first count) s = .next (complete c (Reply.ofResult count.toNat ((List.range count.toNat).flatMap (fun i =>
      dirImage (shownEntry w (vnodeOf w c) ((bankAt w bank.toNat).cell (first.toNat + i)))))) w))
  ∧ (∀ c handle (span : SpanIx) (kind : BitVec 8) u s b w t k a e, Serves c 16 s b w → badHandle handle = false → kind.toNat % 16 = 0 →
    kind.toNat < 64 → 64 ≤ resultRoom b c →
    search (vnodeOf w c) handle span.toNat (kind.toNat / 16) (applyDirUpsets u w) = (.hit k a e, t) →
    exec (.dirProbe c handle span kind u) s
      = .next (complete c (Reply.ofResult 1 (dirImage e ++ words64 [word [(60, k), (48, a)], 0, 0, 0])) t))
  ∧ (∀ c handle (span : SpanIx) (kind : BitVec 8) u s b w t, Serves c 16 s b w → badHandle handle = false → kind.toNat % 16 = 0 →
    kind.toNat < 64 →
    (search (vnodeOf w c) handle span.toNat (kind.toNat / 16) (applyDirUpsets u w) = (.miss, t) →
      exec (.dirProbe c handle span kind u) s = .next (complete c (Reply.st stMiss) t))
    ∧ (search (vnodeOf w c) handle span.toNat (kind.toNat / 16) (applyDirUpsets u w) = (.transient, t) →
      exec (.dirProbe c handle span kind u) s = .next (complete c (Reply.st stMissTransient) t)))
  ∧ (∀ c s b w, Serves c 0 s b w → exec (.dirClear c) s = .next (complete c (Reply.st stOk) (dirCleared (vnodeOf w c) w)))

/-- The events of the directory on a live node: an update ends and the searches that it held are repeated (R82, R85); a rebuild leaves
the entries that the records give (R79); DIR_SCRUB rewrites each entry that differs from its readable shadow and counts them (R80); one entry
moves to the adjacent hole from when some run of 4 × HOLE_INTERVAL addresses holds none until every run of HOLE_INTERVAL holds one, and
otherwise stays (R83, R86); a tombstone is deleted
(R89); what a search held for DIR_WAIT_NS ends ST_MISS_TRANSIENT where a bank of its pair is still busy, and goes on otherwise (R85). -/
def Parts.DirEventsComplete : Prop :=
  (∀ (bank : BitVec 4) s, live s = true → (bankAt s bank.toNat).current.isSome = true →
    exec (.dirUpdateEnd bank) s = .next (bankChanged bank.toNat (endUpdate bank.toNat s)))
  ∧ (∀ (bank : BitVec 4) s, live s = true → (bankAt s bank.toNat).rebuilding = true →
    exec (.dirBankRebuildEnd bank) s = .next (bankChanged bank.toNat (rebuildBank bank.toNat s)))
  ∧ (∀ u s, live s = true → ∃ t, exec (.dirScrub u) s = .next t
    ∧ (∀ b ∈ t.dir.banks, ∀ c ∈ b.2.cells, c.2.stuck = none → c.2.shadowBad = false → c.2.cam = c.2.shadow)
    ∧ t.mem = s.mem ∧ t.spans = s.spans ∧ t.frames = s.frames
    ∧ counterAt t .dirScrubFixes 0 = min (2 ^ 64 - 1) (counterAt s .dirScrubFixes 0
        + ((applyDirUpsets u s).dir.banks.flatMap (fun b => b.2.cells.filter (fun c => decide (c.2.cam ≠ c.2.shadow) && !c.2.shadowBad))).length))
  ∧ (∀ (bank : BitVec 4) (src dst : BitVec 12) s, live s = true → (bankAt s bank.toNat).current = none →
    (src.toNat + 1 = dst.toNat ∨ dst.toNat + 1 = src.toNat) → ((bankAt s bank.toNat).cell src.toNat).shadow.valid = true →
    (bankAt s bank.toNat).hole dst.toNat = true →
    ((bankAt s bank.toNat).restores s.knobs.holeInterval = true →
      exec (.dirHoleRestore bank src dst) s = .next (updBank bank.toNat (fun k =>
        (k.put dst.toNat ((bankAt s bank.toNat).cell src.toNat).shadow).put src.toNat DirEntry.empty)
          (updBank bank.toNat (fun k => { k with restoring := true }) s)))
    ∧ ((bankAt s bank.toNat).restores s.knobs.holeInterval = false → exec (.dirHoleRestore bank src dst) s
      = .next (updBank bank.toNat (fun k => { k with restoring := false }) s)))
  ∧ (∀ (bank : BitVec 4) (addr : BitVec 12) s, live s = true → ((bankAt s bank.toNat).cell addr.toNat).shadow.valid = true →
    ((bankAt s bank.toNat).cell addr.toNat).shadow.form = 3 →
    exec (.tombstoneExpiry bank addr) s = .next (deleteEntry ((bankAt s bank.toNat).cell addr.toNat).shadow s))
  ∧ (∀ job s d x y, live s = true → s.deferred.find? (fun d => decide (d.id = job)) = some d → d.why = .bank x y →
    (pairBusy s (x, y) = true → exec (.dirWaitExpiry job) s = .next (wake (endHeld d stMissTransient (undefer job s))))
    ∧ (pairBusy s (x, y) = false → exec (.dirWaitExpiry job) s = .next (wake (goOn d s))))
  ∧ (∀ job s q, live s = true → s.deferred.find? (fun d => decide (d.id = job)) = none → s.attn.held.at? job = some q →
    (pairBusy s (q.b0, q.b1) = true → exec (.dirWaitExpiry job) s = .next (wake (endQuery job q stMissTransient s)))
    ∧ (pairBusy s (q.b0, q.b1) = false → exec (.dirWaitExpiry job) s = .next (wake (resumeQuery job q s))))

/-- The commands and events of the directory (R76–R91, R457, R458). -/
def Obligations.DirectoryRowsComplete : Prop :=
  Parts.DirCommandsComplete ∧ Parts.DirEventsComplete

/-! ## Sequences and spans (R41–R49) -/

/-- SPAN_OPEN enters the sequence record in a new map frame and asks for span 0; SPAN_CREATE_REQUEST creates the span and confirms it;
SPAN_CREATE_TIMEOUT tries the next member; SPAN_FILL_REPORT assigns the span that follows, or is answered by whether that
span is assigned already; SPAN_LOCATE answers the places known, or assigns
the span that it asks for next (R43–R47, R105, R452): where no stack is at throttle level 3, at which a new frame waits for its RN_FILL
(R146, R167). -/
def Parts.SpanPlacementCompletes : Prop :=
  (∀ c p prefer s b w r t f s1, Serves c 32 s b w → AllFill s → fieldsPass (spanOpenFails p) = true → findHome c p.handle w = (.stop r, t) →
    r.status = stMiss → newMapFrame (vnodeOf w c) .map t = some (f, s1) →
    insertRefusal s1 (dirEntry (vnodeOf w c) p.handle 0 kSeq 0 f) = none →
    exec (.spanOpen c p prefer) s = .next (settleUe (assignNext (vnodeOf w c) p.handle f prefer (.open_ c)
      (acceptInsert (dirEntry (vnodeOf w c) p.handle 0 kSeq 0 f)
        { s1 with seqs := s1.seqs.put f ⟨vnodeOf w c, p.handle, openGeometry (knobsOf w c) p, [], 0, false, [], false, none, false, false⟩ }))))
  ∧ (∀ h geo smooth highest s, Met h .other s → AllFill s → ownSpan (takePeer h.sender s) h.vnode h.handle h.span.toNat false = none →
    exec (.spanCreateRequest h geo smooth highest false) s = .next (
      let r := createSpan h.vnode h.handle h.span.toNat geo smooth highest (takePeer h.sender s)
      ackPeer h r.1 0 r.2))
  ∧ (∀ tag s x geo sm hi j, live s = true → s.peerSent.at? tag = some x → x.msg.body = .spanCreate geo sm hi → x.job = some j →
    exec (.spanCreateTimeout tag) s = .next (wake (assignAnswer j false { s with peerSent := s.peerSent.del tag })))
  ∧ (∀ h prefer s f r, Met h .other s → AllFill s → homeSeq (takePeer h.sender s) h.vnode h.handle = some f →
    (takePeer h.sender s).seqs.at? f = some r → seqBusy (takePeer h.sender s) h.vnode h.handle = false →
    (r.closing = false → r.nextSpan = h.span.toNat + 1 → exec (.spanFillReport h prefer) s
      = .next (wake (assignNext h.vnode h.handle f prefer (.report h) (takePeer h.sender s))))
    ∧ (r.closing = false → h.span.toNat + 1 < r.nextSpan →
      exec (.spanFillReport h prefer) s = .next (wake (ackPeer h stOk 0 (takePeer h.sender s))))
    ∧ (r.closing = true ∨ r.nextSpan < h.span.toNat + 1 →
      exec (.spanFillReport h prefer) s = .next (wake (ackPeer h stMiss 0 (takePeer h.sender s)))))
  ∧ (∀ c t prefer s b w f u q, Serves c 32 s b w → AllFill s → fieldsPass (targetFails t ⟨true, false, false, false, false⟩) = true →
    4 * t.spanCount.toNat ≤ resultRoom w c → findHome c t.handle w = (.found f, u) → u.seqs.at? f = some q → q.closing = false →
    seqBusy u (vnodeOf w c) t.handle = false →
    (t.spanFirst.toNat ≤ q.nextSpan ∧ q.nextSpan < t.spanFirst.toNat + t.spanCount.toNat →
      exec (.spanLocate c t prefer) s
        = .next (settleUe (assignNext (vnodeOf w c) t.handle f prefer (.locate c t prefer) u)))
    ∧ (t.spanFirst.toNat + t.spanCount.toNat ≤ q.nextSpan →
      exec (.spanLocate c t prefer) s = .next (settleUe (finish c b (.now (locateReply q t) u)))))

/-- SPAN_CLOSE of a sequence with no span in a handoff marks the record, closes the local spans once no append admitted before is under
way, and asks every other span node (R48, R49); SEQ_CLOSE closes the spans here; SPAN_CLOSE_TIMEOUT answers the oldest command with the first
node not yet heard of; the record of a sequence moves to its new home and is entered there (R41, R89); a frame leaves quarantine FREE,
or DRAINING where a row of it does not read (R64, R297). -/
def Parts.SpanCloseAndMoveComplete : Prop :=
  (∀ c t s b w f u q z, Serves c 32 s b w → fieldsPass (targetFails t ⟨false, false, false, false, false⟩) = true →
    findHome c t.handle w = (.found f, u) → u.seqs.at? f = some q →
    inHandoff u (vnodeOf w c) t.handle = false → seqBusy u (vnodeOf w c) t.handle = false → closingJob u (vnodeOf w c) t.handle = none →
    beginClose (vnodeOf w c) t.handle none (mirrorSeq f (updSeq f (fun r => { r with closing := true }) u)) = (true, z) →
    q.places.vals.eraseDups.filter (fun n => n ≠ (vn u (vnodeOf w c)).nodeId && memberState u (vnodeOf w c) n ≠ some .fenced) = [] →
    exec (.spanClose c t) s = .next (wake (finishClose (vnodeOf w c) t.handle [c] z)))
  ∧ (∀ c t s b w f u q done z, Serves c 32 s b w → fieldsPass (targetFails t ⟨false, false, false, false, false⟩) = true →
    findHome c t.handle w = (.found f, u) → u.seqs.at? f = some q →
    inHandoff u (vnodeOf w c) t.handle = false → seqBusy u (vnodeOf w c) t.handle = false → closingJob u (vnodeOf w c) t.handle = none →
    beginClose (vnodeOf w c) t.handle none (mirrorSeq f (updSeq f (fun r => { r with closing := true }) u)) = (done, z) →
    (done = false ∨
      q.places.vals.eraseDups.filter (fun n => n ≠ (vn u (vnodeOf w c)).nodeId && memberState u (vnodeOf w c) n ≠ some .fenced) ≠ []) →
    exec (.spanClose c t) s = .next (wake (
      let nodes := q.places.vals.eraseDups.filter (fun n => n ≠ (vn u (vnodeOf w c)).nodeId && memberState u (vnodeOf w c) n ≠ some .fenced)
      let j := addJob (.close (vnodeOf w c) t.handle (nodes ++ if done then [] else [(vn u (vnodeOf w c)).nodeId]) [c]) z
      nodes.foldl (fun s n => sendPeer (vnodeOf w c) n false t.handle 0 .seqClose (some j.1) s) j.2)))
  ∧ (∀ h s, Met h .other s → inHandoff (takePeer h.sender s) h.vnode h.handle = false →
    closingHere (takePeer h.sender s) h.vnode h.handle = false →
    (underWay (stopSpans h.vnode h.handle (takePeer h.sender s)) h.vnode h.handle = false → exec (.seqClose h) s
      = .next (wake (ackPeer h stOk 0 (closeLocal h.vnode h.handle (stopSpans h.vnode h.handle (takePeer h.sender s))))))
    ∧ (underWay (stopSpans h.vnode h.handle (takePeer h.sender s)) h.vnode h.handle = true → exec (.seqClose h) s
      = .next (wake (addJob (.closeHere h.vnode h.handle (some h)) (stopSpans h.vnode h.handle (takePeer h.sender s))).2)))
  ∧ (∀ job s v h waiting c cs, live s = true → s.jobs.at? job = some (.close v h waiting (c :: cs)) →
    exec (.spanCloseTimeout job) s
      = .next (complete c ⟨stTimeout, 0, waiting.head?, 0, 0, 0, []⟩ (setJob job (.close v h waiting cs) s)))
  ∧ (∀ v handle s, live s = true → exec (.sequenceRecordMove v handle) s = .next (moveRecord v handle s))
  ∧ (∀ h rec s f s1, Met h .other s → AllFill s → homeSeq (takePeer h.sender s) h.vnode h.handle = none →
    newMapFrame h.vnode .map (takePeer h.sender s) = some (f, s1) → insertRefusal s1 (dirEntry h.vnode h.handle 0 kSeq 0 f) = none →
    ∃ t, exec (.sequenceRecordArrival h rec) s = .next (ackPeer h stOk 0 (mirrorSeq f t))
      ∧ t.seqs.at? f = some ⟨h.vnode, h.handle, rec.geo, rec.places, rec.nextSpan, rec.closing,
          rec.smooth.map (fun p => ((p.1, p.2.1), p.2.2)), false, none, false, false⟩)
  ∧ (∀ (frame : BitVec 24) s, live s = true → (frameOf s frame.toNat).state = .quarantined →
    ((frameOf s frame.toNat).ue = [] → exec (.quarantineEnd frame) s
      = .next (stopTiers (frameOf s frame.toNat).vnode (updFrame frame.toNat (fun _ => Frame.reset) s)))
    ∧ ((frameOf s frame.toNat).ue ≠ [] → exec (.quarantineEnd frame) s
      = .next (updFrame frame.toNat (fun x => { Frame.reset with state := .draining, ue := x.ue, vnode := x.vnode }) s)))

/-- Sequences and spans: placing, closing and moving them (R41–R49, R64, R89, R105). -/
def Obligations.SpanRowsComplete : Prop :=
  Parts.SpanPlacementCompletes ∧ Parts.SpanCloseAndMoveComplete

/-! ## Appends (R93–R129) -/

/-- An APPEND that is the next of its queue pair (R359), of a known, unfenced sender under an accepted map epoch whose descriptor passes step 1 goes to the span search with the
knobs that it took as it was admitted (R27, R102); every one of a fenced sender, or at a fenced node, is answered
ST_FENCED (R375), another that step 1 refuses ST_BAD_PARAM, and one that is not the next does nothing; a KV_APPEND does the same with its
parameters and the knobs of its admission (R98). -/
def Parts.AppendCommandsEnter : Prop :=
  (∀ m payload u s, live s = true → AllFill s → admits s m opAppend (fun p => decide (p = payload)) = true →
    hasPeer (takeMsg m s) m.vnode m.sender = true → appendStep1 payload = none →
    isFenced (takeMsg m s) m.vnode m.sender = false → selfFenced (takeMsg m s) m.vnode = false →
    (mapFor (takeMsg m s) m.vnode m.mapEpoch).isSome = true →
    exec (.append m payload u) s = .next (settleUe
      (appendFrom (.msg m) (.append m payload u) payload (msgKnobs s m) false none u (applyDirUpsets u (takeMsg m s)))))
  ∧ (∀ m payload u s o, live s = true → AllFill s → admits s m opAppend (fun p => decide (p = payload)) = true →
    hasPeer (takeMsg m s) m.vnode m.sender = true → isFenced (takeMsg m s) m.vnode m.sender = false →
    selfFenced (takeMsg m s) m.vnode = false → appendStep1 payload = some o →
    exec (.append m payload u) s
      = .next (settleUe (answerAppend (.msg m) (readAppend payload) { status := stBadParam } (takeMsg m s))))
  ∧ (∀ m payload u s, live s = true → AllFill s → admits s m opAppend (fun p => decide (p = payload)) = true →
    hasPeer (takeMsg m s) m.vnode m.sender = true →
    isFenced (takeMsg m s) m.vnode m.sender = true ∨ selfFenced (takeMsg m s) m.vnode = true →
    exec (.append m payload u) s = .next (settleUe (answerAppend (.msg m) (readAppend payload) { status := stFenced }
      (bumpV .fencedAnswers m.vnode (takeMsg m s)))))
  ∧ (∀ m payload u s, live s = true → AllFill s → admits s m opAppend (fun p => decide (p = payload)) = false →
    exec (.append m payload u) s = .next (settleUe s))
  ∧ (∀ c payload u s b w, Serves c payload.length s b w → AllFill s → appendStep1 payload = none →
    exec (.kvAppend c payload u) s = .next (settleUe
      (appendFrom (.cmd c) (.kvAppend c payload u) payload (knobsOf w c) false none u (applyDirUpsets u w))))

/-- APPEND and KV_APPEND complete: a descriptor that passes every check of R102, whose span no alias shares and no other node mirrors,
writes its rows at once, and is answered ST_OK, or ST_GROW_LOW where it took the spare and no frame is FREE (R98, R99, R103, R120, R125); a write
whose transfer fails is sent again once, and after the second failure the descriptor ends ST_UNCORRECTABLE with nothing written (R145). -/
def Parts.AppendsWriteTheirRows : Prop :=
  (∀ m payload u s rec r rows t z, live s = true → AllFill s → admits s m opAppend (fun p => decide (p = payload)) = true →
    hasPeer (takeMsg m s) m.vnode m.sender = true →
    appendStep1 payload = none → isFenced (takeMsg m s) m.vnode m.sender = false → selfFenced (takeMsg m s) m.vnode = false →
    (mapFor (takeMsg m s) m.vnode m.mapEpoch).isSome = true →
    AppendFinds (.msg m) payload (applyDirUpsets u (takeMsg m s)) rec r t → AppendPasses payload rec r rows t z →
    rowMessages z { r with handle := (readAppend payload).handle } (readAppend payload) rows = [] →
    exec (.append m payload u) s = .next (settleUe
      (applyLinked (.msg m) (readAppend payload) rec r false rows (repeats z r (readAppend payload) rows) u.linkFails z)))
  ∧ (∀ c payload u s b w rec r rows t z, Serves c payload.length s b w → AllFill s → appendStep1 payload = none →
    AppendFinds (.cmd c) payload (applyDirUpsets u w) rec r t → AppendPasses payload rec r rows t z →
    rowMessages z { r with handle := (readAppend payload).handle } (readAppend payload) rows = [] →
    exec (.kvAppend c payload u) s = .next (settleUe
      (applyLinked (.cmd c) (readAppend payload) rec r false rows (repeats z r (readAppend payload) rows) u.linkFails z)))
  ∧ (∀ src d rec r shared rows cmp s,
    applyLinked src d rec r shared rows cmp 0 s = applyRows src d rec r shared rows cmp s
    ∧ (hasNew r d = true → applyLinked src d rec r shared rows cmp 1 s = applyRows src d rec r shared rows cmp
        (bumpAt .stackLinkResends (frameStack (writtenFrame rec r shared d s)) 1 s))
    ∧ (∀ n, hasNew r d = true → 2 ≤ n → ∃ t o, applyLinked src d rec r shared rows cmp n s = answerAppend src d o
        (linkFailed (writtenFrame rec r shared d s) t) ∧ o.status = stUncorrectable ∧ t.mem = s.mem ∧ t.spans = s.spans))
  ∧ (∀ src d rec r rows cmp s, ∃ o t, applyRows src d rec r false rows cmp s = answerAppend src d o t
    ∧ (o.status = stOk ∨ o.status = stGrowLow) ∧ o.bad = 0 ∧ o.node = none ∧ o.copied = false)

/-- A SYNC append that passes every check sends its rows and holds its layer and heads until every acknowledgement is in (R101, R396). -/
def Parts.SyncAppendsWait : Prop :=
  ∀ src i bs k u s rec r rows t z, AppendFinds src bs s rec r t → AppendPasses bs rec r rows t z →
    r.geo.mirrorMode = 0 → rowMessages z { r with handle := (readAppend bs).handle } (readAppend bs) rows ≠ [] →
    appendFrom src i bs k false none u s = sendSync src bs (readAppend bs) rec { r with handle := (readAppend bs).handle } k u.linkFails
      (rowMessages z { r with handle := (readAppend bs).handle } (readAppend bs) rows) z

/-- What goes on after appends: the first page of the seal queue is sealed (R119); the spare owed longest, of a virtual node that has a FREE frame,
is taken (R123, R382). -/
def Parts.SealAndSpareComplete : Prop :=
  (∀ s i r, live s = true → s.sealQueue = i :: r →
    exec .pageSeal s = .next (wake (settle (sealPage i.page { s with sealQueue := r, work := i.work }))))
  ∧ (∀ s f, live s = true → owedFirst s = some f → exec .spareReplenish s = .next (takeSpare f s))

/-- What an append does that no descriptor goes before (R101, R103): one whose span is found with a geometry that fits is checked against
the span record and applied. -/
def Parts.AppendReachesItsSpan : Prop :=
  ∀ src i bs k order u s rec shared q t, behindHeld s order (srcVnode s src) (readAppend bs) = false →
    findSpanFor order.isSome (srcVnode s src) (readAppend bs).handle (readAppend bs).span s = (.found rec shared, t) →
    spanAt t rec = some q → appendGeometry q.geo (readAppend bs) bs.length = none → heldHead t rec (readAppend bs) = none →
    (shared && hasNew q (readAppend bs) && cowPending t (srcVnode s src) (readAppend bs)) = false →
    appendFrom src i bs k false order u s = appendChecked src bs (readAppend bs) rec q shared k false u t

/-! ## Smoothing vectors and aliases (R111, R112, R126, R453, R454) -/

/-- KV_SMOOTH of a home whose sequence has every span here installs the vector where nothing is appended yet, and answers ST_DENIED
otherwise; with other span nodes it holds the layer and asks each. SMOOTH_HOLD reports and holds; SMOOTH_INSTALL installs a vector that it
brings and ends the hold; KV_SMOOTH_TIMEOUT answers ST_TIMEOUT with the first node not heard of (R112). SPAN_ALIAS reads the pages of a span and
copies them into a shared record and queues its alias entry, with which it completes (R90, R126, R453). -/
def Obligations.SmoothAndAliasComplete : Prop :=
  (∀ c handle (layer : BitVec 16) (head : BitVec 8) (sigma : List (BitVec 32)) s b w f t q, Serves c (16 + 4 * q.geo.dim) s b w →
    badHandle handle = false → findHome c handle w = (.found f, t) → t.seqs.at? f = some q → seqBusy t (vnodeOf w c) handle = false → sigma.length = q.geo.dim →
    head.toNat < q.geo.heads → layer.toNat < q.geo.layers → (∀ x ∈ sigma, sigmaOk x = true) →
    (q.places.vals.eraseDups.filter (fun n => n ≠ (vn t (vnodeOf w c)).nodeId) = [] →
      exec (.kvSmooth c handle layer head sigma) s = .next (
        let hl := holdLayer (vnodeOf w c) handle layer.toNat head.toNat t
        complete c (Reply.st (if hl.1 = 0 then stOk else stDenied))
          (smoothEnd (vnodeOf w c) handle layer.toNat head.toNat [] (if hl.1 = 0 then some sigma else none) hl.2)))
    ∧ (q.places.vals.eraseDups.filter (fun n => n ≠ (vn t (vnodeOf w c)).nodeId) ≠ [] →
      exec (.kvSmooth c handle layer head sigma) s = .next (
        let others := q.places.vals.eraseDups.filter (fun n => n ≠ (vn t (vnodeOf w c)).nodeId)
        let hl := holdLayer (vnodeOf w c) handle layer.toNat head.toNat t
        let j := addJob (.smooth c (vnodeOf w c) handle layer.toNat head.toNat sigma others others (decide (hl.1 ≠ 0))) hl.2
        others.foldl (fun s n => sendPeer (vnodeOf w c) n false handle 0 (.smoothHold layer.toNat head.toNat) (some j.1) s) j.2)))
  ∧ (∀ h (layer : BitVec 16) (head : BitVec 8) s, Met h .other s →
    exec (.smoothHold h layer head) s = .next (
      let r := holdLayer h.vnode h.handle layer.toNat head.toNat (freeLayer h.vnode h.handle layer.toNat head.toNat (takePeer h.sender s))
      ackPeer h stOk r.1 r.2))
  ∧ (∀ h (layer : BitVec 16) (head : BitVec 8) s, Met h .other s →
    (∀ x, exec (.smoothInstall h layer head (some x)) s = .next (wake (ackPeer h stOk 0 (freeLayer h.vnode h.handle layer.toNat head.toNat
      (installSigma h.vnode h.handle layer.toNat head.toNat x (takePeer h.sender s))))))
    ∧ exec (.smoothInstall h layer head none) s
      = .next (wake (ackPeer h stOk 0 (freeLayer h.vnode h.handle layer.toNat head.toNat (takePeer h.sender s)))))
  ∧ (∀ job s c v h l hd sg waiting asked nz, live s = true → s.jobs.at? job = some (.smooth c v h l hd sg waiting asked nz) →
    exec (.kvSmoothTimeout job) s = .next (wake (complete c ⟨stTimeout, 0, waiting.head?, 0, 0, 0, []⟩
      (smoothEnd v h l hd asked none (dropSent (fun x => decide (x.job = some job)) (endJob job s))))))
  ∧ (∀ c p s b w rec t x z q f s1, Serves c 32 s b w → AllFill s → c.links = 0 → badHandle p.source = false →
    badHandle p.aliasHandle = false →
    aliasKey p = p.aliasHandle → p.aliasHandle.toNat / 2 ^ 20 = p.source.toNat / 2 ^ 20 →
    (p.priority = 0 ∨ (0x40 ≤ p.priority.toNat ∧ p.priority.toNat ≤ 0xBF)) →
    findSpan (vnodeOf w c) p.source p.span.toNat w = (.found rec false, t) → spanAt t rec = some x →
    ((homeSeq t (vnodeOf w c) p.source).bind (fun g => t.seqs.at? g)).any (fun y => y.closing) = false →
    readPages (fun _ => true) rec t = z → spanAt z rec = some q →
    q.pages.all (fun x => match pageContent z q.geo.fmt x.2.loc with
      | .bytes _ => true
      | _ => false) = true →
    q.pages.findSome? (fun x => x.2.poison) = none → (pagesOf (rec, q)).any (fun x => (awaited z x.1).isSome) = false →
    q.pages.any (fun x => decide (x.2.loc = .lost)) = false → insertRefusal z (aliasEntry (vnodeOf w c) p 0) = none →
    q.pages.length + 1 ≤ freeForUse z (vnodeOf w c) → newMapFrame (vnodeOf w c) .map z = some (f, s1) →
    exec (.spanAlias c p) s = .next (settleUe (whenEntered c (aliasEntry (vnodeOf w c) p f)
      (let cp := copyShared q (aliasKey p) q.pages s1
       { cp.2 with spans := cp.2.spans.put f { q with
          handle := aliasKey p, shared := true, pages := cp.1, acked := [], rounds := [], spare := none, spareOwed := none,
          reported := true, aliasOf := some (p.memberMask, (aliasEntry (vnodeOf w c) p f).prio) } }))))

/-- A mirrored append whose twin has not answered within TWIN_ACK_WAIT_US writes nothing and is answered ST_RETRY_AFTER (R396, R397); a
data request of 8 s ends ST_TIMEOUT in whatever it waits for, and a command of the TIER family with its page operation (R67). -/
def Parts.RequestTimeoutsComplete : Prop :=
  (∀ job s src d rec t, live s = true → dropAppend job s = some (src, d, rec, t) →
    exec (.mirrorAckTimeout job) s = .next (
      let e := takeEstimate t
      wake (answerAppend src d (outFrom t rec d { status := stRetryAfter, hint := e.1 }) (bump .mirrorRetries e.2))))
  ∧ (∀ req s, live s = true → s.attn.reqs.has req = true →
    exec (.dataRequestTimeout req) s = .next (settle (failReq req stTimeout 0 s)))
  ∧ (∀ req s q, live s = true → s.attn.reqs.has req = false → s.attn.held.at? req = some q →
    exec (.dataRequestTimeout req) s = .next (wake (endQuery req q stTimeout s)))
  ∧ (∀ req s src d rec t, live s = true → s.attn.reqs.has req = false → s.attn.held.at? req = none →
    dropAppend req s = some (src, d, rec, t) →
    exec (.dataRequestTimeout req) s = .next (wake (answerAppend src d (outFrom t rec d { status := stTimeout }) t)))
  ∧ (∀ req s d, live s = true → s.attn.reqs.has req = false → s.attn.held.at? req = none → dropAppend req s = none →
    s.deferred.find? (fun d => decide (d.id = req)) = some d →
    (∀ m bs u, d.instr = .append m bs u → exec (.dataRequestTimeout req) s
      = .next (wake (answerAppend (.msg m) (readAppend bs) { status := stTimeout } (undefer req s))))
    ∧ (∀ c bs u, d.instr = .kvAppend c bs u → exec (.dataRequestTimeout req) s
      = .next (wake (answerAppend (.cmd c) (readAppend bs) { status := stTimeout } (undefer req s)))))
  ∧ (∀ req s c h ps busy, live s = true → s.attn.reqs.has req = false → s.attn.held.at? req = none → dropAppend req s = none →
    s.deferred.find? (fun d => decide (d.id = req)) = none → s.jobs.at? req = some (.tier c h ps busy) →
    exec (.dataRequestTimeout req) s = .next (complete c (Reply.st stTimeout) (endJob req s)))

/-- Appends: from the message or command to the span and its rows, the seal and spare queues, and what ends by a timeout (R67, R98–R103,
R119, R123, R396). -/
def Obligations.AppendRowsComplete : Prop :=
  Parts.AppendCommandsEnter ∧ Parts.AppendsWriteTheirRows ∧ Parts.SyncAppendsWait ∧ Parts.SealAndSpareComplete
    ∧ Parts.AppendReachesItsSpan ∧ Parts.RequestTimeoutsComplete

/-! ## Masks (R205–R211, R455, R456) -/

/-- KV_MASK_SET enters a mask set with every tile of the initial kind (R210, R455); KV_MASK_TILE stores a tile of ones or zeros in its
entry alone and any other in a slot (R208, R211, R456); KV_MASK_DROP drops the set (R210); a replaced slot is freed once every query
admitted before has ended (R211). A tile whose write meets an interface-code error is written once more, and after the second the command ends
ST_UNCORRECTABLE with nothing of it done (R145). -/
def Obligations.MaskCommandsComplete : Prop :=
  (∀ c handle (span : SpanIx) (maskRows : BitVec 14) (kind : BitVec 2) s b w rec x t q f s1, Serves c 32 s b w → AllFill s → c.links = 0 →
    badHandle handle = false →
    kind.toNat ≤ 1 → maskRows.toNat % 128 = 0 → 128 ≤ maskRows.toNat → maskRows.toNat ≤ 8192 →
    findSpan (vnodeOf w c) handle span.toNat w = (.found rec x, t) → spanAt t rec = some q →
    maskRows.toNat * q.geo.spanLen ≤ maskLimit → maskOf t (vnodeOf w c) handle span.toNat = none →
    newMapFrame (vnodeOf w c) .mask t = some (f, s1) → insertRefusal s1 (dirEntry (vnodeOf w c) handle span.toNat kMask 0 f) = none →
    exec (.kvMaskSet c handle span maskRows kind) s = .next (settleUe (complete c (Reply.st stOk) (mirrorSpan rec
      (acceptInsert (dirEntry (vnodeOf w c) handle span.toNat kMask 0 f)
        (let z := hbmWrite (frameBase f + annexAt) (leBytes 2 maskRows.toNat) (hbmWrite (frameBase f)
          ((List.replicate (maskRows.toNat / 128 * (q.geo.spanLen / 128)) (leBytes 4 (kind.toNat * 2 ^ 30))).flatten)
          (deleteWhere (vnodeOf w c) handle (fun e => decide (e.kind = kMaskTomb) && decide (e.span = span.toNat)) s1))
         { z with masks := z.masks.put f ⟨vnodeOf w c, handle, span.toNat, maskRows.toNat, q.geo.spanLen / 128⟩ }))))))
  ∧ (∀ c handle (span : SpanIx) (row : BitVec 6) (col : BitVec 13) (tile : List Byte) s b w rec x t f y z m,
    Serves c 2080 s b w → AllFill s → c.links = 0 → badHandle handle = false → tile.length = 2048 →
    findSpan (vnodeOf w c) handle span.toNat w = (.found rec x, t) → findMask (vnodeOf w c) handle span.toNat t = (.found f y, z) →
    z.masks.at? f = some m → col.toNat < m.cols → row.toNat < m.rows / 128 →
    (tile.all (· == 0xFF) = true → exec (.kvMaskTile c handle span row col tile) s = .next (settleUe (complete c (Reply.st stOk)
      (retireMaskSlot (tileEntry z f m row.toNat col.toNat)
        (hbmWrite (frameBase f + 4 * (row.toNat * m.cols + col.toNat)) (leBytes 4 (2 ^ 30)) z)))))
    ∧ (allZero tile = true → exec (.kvMaskTile c handle span row col tile) s = .next (settleUe (complete c (Reply.st stOk)
      (retireMaskSlot (tileEntry z f m row.toNat col.toNat)
        (hbmWrite (frameBase f + 4 * (row.toNat * m.cols + col.toNat)) (leBytes 4 0) z)))))
    ∧ (∀ p i z1, tile.all (· == 0xFF) = false → allZero tile = false → takeMaskSlot (vnodeOf w c) z = some (p, i, z1) →
      exec (.kvMaskTile c handle span row col tile) s = .next (settleUe (complete c (Reply.st stOk)
        (retireMaskSlot (tileEntry z f m row.toNat col.toNat)
          (hbmWrite (frameBase f + 4 * (row.toNat * m.cols + col.toNat)) (leBytes 4 (word [(30, 2), (4, p), (0, i)]))
            (hbmWrite (frameBase p + 2048 * i) tile
              { z1 with maskPages := z1.maskPages.upd p [] (fun t => t.put i ⟨true, []⟩) })))))))
  ∧ (∀ c handle (span : SpanIx) (row : BitVec 6) (col : BitVec 13) (tile : List Byte) s b w rec x t f y z m a,
    Serves c 2080 s b w → AllFill s → badHandle handle = false → tile.length = 2048 → tile.all (· == 0xFF) = true →
    findSpan (vnodeOf w c) handle span.toNat w = (.found rec x, t) → findMask (vnodeOf w c) handle span.toNat t = (.found f y, z) →
    z.masks.at? f = some m → col.toNat < m.cols → row.toNat < m.rows / 128 →
    (let u := retireMaskSlot (tileEntry z f m row.toNat col.toNat)
       (hbmWrite (frameBase f + 4 * (row.toNat * m.cols + col.toNat)) (leBytes 4 (2 ^ 30)) z)
     firstChanged w.mem.cells u.mem.cells = some a →
     (c.links = 1 → exec (.kvMaskTile c handle span row col tile) s = .next (settleUe (complete c (Reply.st stOk) (resent a u))))
     ∧ (2 ≤ c.links → exec (.kvMaskTile c handle span row col tile) s
        = .next (settleUe (complete c (Reply.st stUncorrectable) (linkBroken a w))))))
  ∧ (∀ c t s b w rec x u f y z, Serves c 32 s b w → t.spanCount = 1 → fieldsPass (targetFails t ⟨true, false, false, false, false⟩) = true →
    findSpan (vnodeOf w c) t.handle t.spanFirst.toNat w = (.found rec x, u) →
    findMask (vnodeOf w c) t.handle t.spanFirst.toNat u = (.found f y, z) →
    exec (.kvMaskDrop c t) s = .next (complete c (Reply.st stOk)
      (mirrorSpan rec (updSpan rec (fun r => { r with maskLost := false }) (dropMask f z)))))
  ∧ (∀ (frame : BitVec 24) (slot : BitVec 4) s x, live s = true → (s.maskPages.atD frame.toNat []).at? slot.toNat = some x →
    x.live = false → queriesEnded s x.readers = true →
    exec (.maskSlotFree frame slot) s = .next (freeMaskSlot frame.toNat slot.toNat s))

/-! ## Runners and stacks (R130–R170) -/

/-- The runner commands that touch no row, where the runner executes them at once (R148–R150) and meets no register error: RN_NOP has no
effect; RN_QLOAD loads its context's rows and starts its sequence with a cleared status word, and loads nothing beside another's wide query
(R134, R151); RN_WLOAD takes the weights of its step from the millpond (R191); RN_DRAIN sends CTX's accumulators, also to the request that it
serves (R187), clears them and ends what the sequence holds there (R147); RN_ABORT clears its registers and marks its sequence aborted; RN_STATUS sends the status word (R151). -/
def Obligations.RunnerRegisterCommandsComplete : Prop :=
  (∀ stack k s, Issues 0 stack k s → exec (.rnNop stack k) s = .next s)
  ∧ (∀ (stack : BitVec 3) k rows s, Issues 1 stack k s → k.regs = [] →
    (noRoomFor (runnerAt s stack.toNat k.pc.toNat) k = true → exec (.rnQload stack k rows) s = .next s)
    ∧ (noRoomFor (runnerAt s stack.toNat k.pc.toNat) k = false → ∃ t, exec (.rnQload stack k rows) s = .next t
      ∧ (runnerAt t stack.toNat k.pc.toNat).live.at? k.seqTag
        = some ⟨k.ctx.toNat, k.wide, false, false, requestOf s stack.toNat k ((qrowsOf k).map (fun i => rows.getD i []))⟩
      ∧ (runnerAt t stack.toNat k.pc.toNat).seqs.at? k.seqTag = some { RnStatus.zero with throttle := throttleOf s stack.toNat }
      ∧ (∀ i, i ≤ k.qrows.toNat → (runnerAt t stack.toNat k.pc.toNat).contexts.at? (k.ctx.toNat, i) = some (rows.getD i []))
      ∧ (runnerAt t stack.toNat k.pc.toNat).accum = (runnerAt s stack.toNat k.pc.toNat).accum
      ∧ t.mem = s.mem ∧ t.frames = s.frames ∧ t.hbm = s.hbm ∧ t.log = s.log))
  ∧ (∀ (stack : BitVec 3) k s, Issues 4 stack k s → k.regs = [] → seqEnded s stack.toNat k.pc.toNat k.seqTag = false →
    exec (.rnWload stack k) s = .next (updRunner stack.toNat k.pc.toNat (fun r => { r with
      weightsIdle := nextWeights stack.toNat k r }) s))
  ∧ (∀ (stack : BitVec 3) k s, Issues 6 stack k s → k.regs = [] → seqEnded s stack.toNat k.pc.toNat k.seqTag = false →
    exec (.rnDrain stack k) s = .next (endContext stack.toNat k.pc.toNat k.ctx.toNat k.seqTag (updRunner stack.toNat k.pc.toNat
      (fun r => { r with accum := r.accum.filter (fun a => decide (a.1.1 ≠ k.ctx.toNat)) })
      (let rows := (qrowsOf k).map (fun i => padWords (rnDim k) ((runnerAt s stack.toNat k.pc.toNat).accum.atD (k.ctx.toNat, i) []))
       emit (.runnerDrain stack k.pc k.ctx rows) (takeDrain stack.toNat k rows s)))))
  ∧ (∀ (stack : BitVec 3) k s, Issues 10 stack k s →
    ((runnerAt s stack.toNat k.pc.toNat).live.at? k.seqTag = none →
      exec (.rnAbort stack k) s = .next (updRunner stack.toNat k.pc.toNat (clearRegs false k.ctx.toNat) s))
    ∧ (∀ q, (runnerAt s stack.toNat k.pc.toNat).live.at? k.seqTag = some q → q.ended = false →
      exec (.rnAbort stack k) s = .next (issueOwed stack.toNat k.pc.toNat (setSeq stack.toNat k.pc.toNat k.seqTag { q with ended := true }
        (updRnStatus stack.toNat k.pc.toNat k.seqTag (fun x => { x with aborted := true })
          (updRunner stack.toNat k.pc.toNat (clearRegs q.wide q.ctx) s))))))
  ∧ (∀ (stack : BitVec 3) k s, Issues 11 stack k s →
    exec (.rnStatus stack k) s = .next (endWrites stack.toNat k.pc.toNat k.seqTag (emit (.runnerStatus stack k.pc
      (rnStatusWord k.seqTag ((runnerAt s stack.toNat k.pc.toNat).seqs.atD k.seqTag RnStatus.zero))) s)))

/-- The runner commands that sweep columns, where the runner executes them at once and its sequence has not ended: RN_SCALE, RN_SCORE and
RN_WEIGH work on the bytes that a sweep without an uncorrectable codeword returns (R165, R193, R195); RN_FILL writes ARG over its columns
(R146), sent again after one link error and failed after two (R145); RN_COPY writes what it reads to the row that ARG names (R150); RN_SCRUB writes corrected codewords back (R300). -/
def Parts.RunnerSweeps : Prop :=
  (∀ (stack : BitVec 3) k u s g t, Issues 2 stack k s →
    meetRegs stack.toNat k u (applyHbmUpsets u s) = (true, g) → readSweep .runner stack.toNat k g = (true, t) →
    exec (.rnScale stack k u) s = .next (stepDone stack.toNat k (updRunner stack.toNat k.pc.toNat
      (putScales (rnFrame stack.toNat k) k.pageRow.toNat (64 * k.colFirst.toNat)
        (hbmRead t (sweep stack.toNat k).1 (sweep stack.toNat k).2)) t)))
  ∧ (∀ (stack : BitVec 3) k u s g t, Issues 3 stack k s →
    meetRegs stack.toNat k u (applyHbmUpsets u s) = (true, g) → readSweep .runner stack.toNat k g = (true, t) →
    exec (.rnScore stack k u) s = .next (stepDone stack.toNat k (updRunner stack.toNat k.pc.toNat
      (scoreSweep t.tick stack.toNat k (hbmRead t (sweep stack.toNat k).1 (sweep stack.toNat k).2)) { t with tick := t.tick + 1 })))
  ∧ (∀ (stack : BitVec 3) k u s g t, Issues 5 stack k s →
    meetRegs stack.toNat k u (applyHbmUpsets u s) = (true, g) → readSweep .runner stack.toNat k g = (true, t) →
    exec (.rnWeigh stack k u) s = .next (stepDone stack.toNat k (updRunner stack.toNat k.pc.toNat
      (weighSweep t.tick stack.toNat k (hbmRead t (sweep stack.toNat k).1 (sweep stack.toNat k).2)) { t with tick := t.tick + 1 })))
  ∧ (∀ (stack : BitVec 3) k u s g, Issues 7 stack k s → u.linkFails = 0 →
    meetRegs stack.toNat k u (startWrite stack.toNat k (applyHbmUpsets u s)) = (true, g) →
    exec (.rnFill stack k u) s = .next (stepDone stack.toNat k (hbmWrite (sweep stack.toNat k).1
      ((List.replicate ((sweep stack.toNat k).2 / 4) (leBytes 4 k.arg.toNat)).flatten) g)))
  ∧ (∀ (stack : BitVec 3) k u s g, Issues 7 stack k s → u.linkFails = 1 →
    meetRegs stack.toNat k u (startWrite stack.toNat k (applyHbmUpsets u s)) = (true, g) →
    exec (.rnFill stack k u) s = .next (stepDone stack.toNat k (hbmWrite (sweep stack.toNat k).1
      ((List.replicate ((sweep stack.toNat k).2 / 4) (leBytes 4 k.arg.toNat)).flatten) (bumpAt .stackLinkResends stack.toNat 1 g))))
  ∧ (∀ (stack : BitVec 3) k u s g, Issues 7 stack k s → 2 ≤ u.linkFails →
    meetRegs stack.toNat k u (startWrite stack.toNat k (applyHbmUpsets u s)) = (true, g) →
    exec (.rnFill stack k u) s = .next (stepDone stack.toNat k (hbmWrite ((sweep stack.toNat k).1 + 32)
      (((List.replicate ((sweep stack.toNat k).2 / 4) (leBytes 4 k.arg.toNat)).flatten).drop 32)
      (failSeq stack.toNat k.pc.toNat k.seqTag (fun x => { x with linkErr := true })
        (logFrom 0 0x0301 (srcStack stack.toNat) [(8, stack.toNat), (8, k.pc.toNat)] (bumpAt .stackLinkResends stack.toNat 1 g))))))
  ∧ (∀ (stack : BitVec 3) k u s g t, Issues 8 stack k s → u.linkFails = 0 →
    meetRegs stack.toNat k u (startWrite stack.toNat k (applyHbmUpsets u s)) = (true, g) → readSweep .runner stack.toNat k g = (true, t) →
    exec (.rnCopy stack k u) s = .next (stepDone stack.toNat k (hbmWrite
      (rowAddr stack.toNat k.pc.toNat (bitsOf k.arg.toNat 20 19) (bitsOf k.arg.toNat 18 17) (bitsOf k.arg.toNat 16 15)
        (bitsOf k.arg.toNat 14 0) + 64 * k.colFirst.toNat)
      (hbmRead t (sweep stack.toNat k).1 (sweep stack.toNat k).2) t)))
  ∧ (∀ (stack : BitVec 3) k u s g t, Issues 9 stack k s →
    meetRegs stack.toNat k u (startWrite stack.toNat k (applyHbmUpsets u s)) = (true, g) →
    scrubRange (sweep stack.toNat k).1 (sweep stack.toNat k).2 (updRnStatus stack.toNat k.pc.toNat k.seqTag (fun x =>
      { x with ceCount := min 65535 (x.ceCount + (correctedIn g (sweep stack.toNat k).1 (sweep stack.toNat k).2).length) }) g) = (true, t) →
    exec (.rnScrub stack k u) s = .next (stepDone stack.toNat k t))

/-- At throttle level 3 a runner command that activates a row waits, and so does every command behind it (R150, R167, R169); a step that
meets an uncorrectable codeword ends its sequence (R165). -/
def Parts.RunnerCommandsWaitInOrder : Prop :=
  (∀ (stack : BitVec 3) k u s, live s = true → rnNeverIssued 3 k = false → throttleOf s stack.toNat = 3 →
    exec (.rnScore stack k u) s = .next (defer (.runner stack.toNat k.pc.toNat) (.rnScore stack k u) s.knobs s))
  ∧ (∀ (stack : BitVec 3) k s, live s = true → rnNeverIssued 6 k = false → runnerHeld s stack.toNat k.pc.toNat = true →
    exec (.rnDrain stack k) s = .next (defer (.runner stack.toNat k.pc.toNat) (.rnDrain stack k) s.knobs s))
  ∧ (∀ (stack : BitVec 3) k u s g t, Issues 3 stack k s → meetRegs stack.toNat k u (applyHbmUpsets u s) = (true, g) →
    readSweep .runner stack.toNat k g = (false, t) → exec (.rnScore stack k u) s = .next (stepDone stack.toNat k t))

/-- What the runner commands that sweep columns do (R132–R150, R165–R169, R193–R195): executed at once each does its work; at throttle level 3
the commands wait in order; and a step that meets an uncorrectable codeword ends its sequence. -/
def Obligations.RunnerSweepsComplete : Prop := Parts.RunnerSweeps ∧ Parts.RunnerCommandsWaitInOrder

/-- A runner command whose encoding is never issued (R148, R149) stops under a name of its own, whatever its opcode. -/
def Obligations.RunnerEncodingStops : Prop :=
  ∀ (stack : BitVec 3) k u rows s,
    (rnNeverIssued 0 k = true → exec (.rnNop stack k) s = .fault (.runnerEncoding 0))
    ∧ (rnNeverIssued 1 k = true → exec (.rnQload stack k rows) s = .fault (.runnerEncoding 1))
    ∧ (rnNeverIssued 2 k = true → exec (.rnScale stack k u) s = .fault (.runnerEncoding 2))
    ∧ (rnNeverIssued 3 k = true → exec (.rnScore stack k u) s = .fault (.runnerEncoding 3))
    ∧ (rnNeverIssued 4 k = true → exec (.rnWload stack k) s = .fault (.runnerEncoding 4))
    ∧ (rnNeverIssued 5 k = true → exec (.rnWeigh stack k u) s = .fault (.runnerEncoding 5))
    ∧ (rnNeverIssued 6 k = true → exec (.rnDrain stack k) s = .fault (.runnerEncoding 6))
    ∧ (rnNeverIssued 7 k = true → exec (.rnFill stack k u) s = .fault (.runnerEncoding 7))
    ∧ (rnNeverIssued 8 k = true → exec (.rnCopy stack k u) s = .fault (.runnerEncoding 8))
    ∧ (rnNeverIssued 9 k = true → exec (.rnScrub stack k u) s = .fault (.runnerEncoding 9))
    ∧ (rnNeverIssued 10 k = true → exec (.rnAbort stack k) s = .fault (.runnerEncoding 10))
    ∧ (rnNeverIssued 11 k = true → exec (.rnStatus stack k) s = .fault (.runnerEncoding 11))

/-- The events of a stack: a refresh that is due is issued where no sequence runs, postponed while fewer than 3 are owed, and otherwise
splits the running sequence; a sensor reading raises the throttle level at once and lowers it by one step after a quiet millisecond with the
hysteresis of R168 (R167, R168); SRAM_SCRUB meets its errors in order (R298). -/
def Obligations.StackEventsComplete : Prop :=
  (∀ (stack : BitVec 3) (pc : BitVec 5) s, live s = true →
    ((runnerAt s stack.toNat pc.toNat).runs = false →
      exec (.refreshDue stack pc) s = .next (issueOwed stack.toNat pc.toNat s))
    ∧ ((runnerAt s stack.toNat pc.toNat).runs = true → (stackAt s stack.toNat).owed.atD pc.toNat 0 < 3 →
      exec (.refreshDue stack pc) s = .next (bumpAt .refPostponed stack.toNat 1 (updStack stack.toNat (fun x =>
        { x with owed := x.owed.put pc.toNat ((stackAt s stack.toNat).owed.atD pc.toNat 0 + 1) }) s)))
    ∧ ((runnerAt s stack.toNat pc.toNat).runs = true → 3 ≤ (stackAt s stack.toNat).owed.atD pc.toNat 0 →
      exec (.refreshDue stack pc) s = .next (bumpAt .refSplits stack.toNat 1 s)))
  ∧ (∀ (stack : BitVec 3) (temp : Int) (power : Nat) quiet s, live s = true →
    (stackAt s stack.toNat).throttle < levelFor temp power (stackLimit s) →
    exec (.stackSensorRead stack temp power quiet) s = .next (wake (setLevel stack.toNat (levelFor temp power (stackLimit s))
      (alertTemp (updStack stack.toNat (fun x => { x with temp := temp, power := power, limitW := stackLimit s }) s)))))
  ∧ (∀ (stack : BitVec 3) (temp : Int) (power : Nat) s, live s = true →
    levelFor temp power (stackLimit s) ≤ (stackAt s stack.toNat).throttle →
    0 < (stackAt s stack.toNat).throttle → (stackAt s stack.toNat).throttle ≠ 3 →
    temp + 3 ≤ throttleTemp (stackAt s stack.toNat).throttle → 100 * power < 95 * stackLimit s →
    exec (.stackSensorRead stack temp power true) s = .next (wake (setLevel stack.toNat ((stackAt s stack.toNat).throttle - 1)
      (alertTemp (updStack stack.toNat (fun x => { x with temp := temp, power := power, limitW := stackLimit s }) s)))))
  ∧ (∀ (stack : BitVec 3) (temp : Int) (power : Nat) s, live s = true → (stackAt s stack.toNat).throttle = 3 →
    temp + 3 ≤ throttleTemp 3 → 100 * power < 95 * stackLimit s → levelFor temp power (stackLimit s) ≤ 3 →
    exec (.stackSensorRead stack temp power true) s = .next (wake (resumeSteps stack.toNat (setLevel stack.toNat 2
      (alertTemp (updStack stack.toNat (fun x => { x with temp := temp, power := power, limitW := stackLimit s }) s))))))
  ∧ (∀ errs s, live s = true → exec (.sramScrub errs) s = .next (errs.foldl sramError s))

/-! ## Scrubbing, verification and repair (R278–R302) -/

/-- The patrol scrub and the drain of frames: a drained frame ends its drain once every request admitted before has ended and, where a row of
it does not read, its repair can run (R64, R167, R297); one bank row is scrubbed
(R300); a pass that has read every codeword is logged and its commands answered, and the next begins at once where it was late (R301); an
interval that ends starts the passes of the stacks that are done; SCRUB.PASS starts passes, or joins those under way (R302). -/
def Obligations.ScrubEventsComplete : Prop :=
  (∀ (frame : BitVec 24) s, live s = true → (frameOf s frame.toNat).state = .draining →
    requestsEnded s (frameOf s frame.toNat).readers = true → repairWaits s frame.toNat = false →
    exec (.frameDrainEnd frame) s = .next (endDrain frame.toNat s))
  ∧ (∀ (stack : BitVec 3) (pc : BitVec 5) u s, live s = true → (passAt (applyUpsets u s) stack.toNat).running = true →
    (passAt (applyUpsets u s) stack.toNat).next.atD pc.toNat 0 < rowsPerPc → (stackAt (applyUpsets u s) stack.toNat).throttle ≠ 3 →
    exec (.patrolScrubStep stack pc u) s = .next (
      let t := applyUpsets u s
      let i := (passAt t stack.toNat).next.atD pc.toNat 0
      let a := patrolAddr stack.toNat pc.toNat i
      (scrubRange a 1024 (bumpAt .runnerSteps stack.toNat 1 (updPass stack.toNat (fun x => { x with
        ce := x.ce + (correctedIn t a 1024).length, ue := x.ue + (badIn t a 1024).length, next := x.next.put pc.toNat (i + 1) }) t))).2))
  ∧ (∀ (stack : BitVec 3) s, live s = true → (passAt s stack.toNat).running = true → passComplete (passAt s stack.toNat) = true →
    exec (.scrubPassDone stack) s = .next (
      let x := passAt s stack.toNat
      let s := logFrom 0 0x0705 (srcStack stack.toNat) [(8, stack.toNat), (64, x.ce), (64, x.ue)] s
      let s := updPass stack.toNat (fun x => { x with running := false }) s
      let s := endScrubJobs stack.toNat s.jobs s
      if x.late then startVerify (startPass stack.toNat s) else s))
  ∧ (∀ s, live s = true → (∀ n, n < 8 → (passAt s n).running = false) → s.hbm.verifyLeft = [] →
    ∃ t, exec .scrubIntervalEnd s = .next (startVerify t) ∧ (∀ n, n < 8 → (passAt t n).running = true))
  ∧ (∀ c s b w, Serves c 0 s b w → (List.range 8).filter (fun n => (passAt w n).running) = [] →
    exec (.scrubPass c) s = .next
      (addJob (.scrubPass c (List.range 8)) (startVerify ((List.range 8).foldl (fun s n => startPass n s) w))).2)
  ∧ (∀ c s b w, Serves c 0 s b w → (List.range 8).filter (fun n => (passAt w n).running) ≠ [] →
    exec (.scrubPass c) s = .next (addJob (.scrubPass c ((List.range 8).filter (fun n => (passAt w n).running))) w).2)

/-- The verification of content: one page of the scheduled pass (R278); every page that SCRUB.VERIFY names (R279, R451); the answer to a
VERIFY_REQ: the holder of a copy hashes it and answers, poisons a page of which neither copy is preferred and awaits the rewriting of one
that differs alone, and the holder of the SPAN entry that a copy's holder tells of a mismatch resolves the page (R282, R283); the comparison that a VERIFY_RESP allows (R283). -/
def Parts.VerifyCommandsComplete : Prop :=
  (∀ p u s, live s = true → s.hbm.verifyMode = 2 → stillDue (dropLeft s) p = true →
    exec (.readVerify p u) s = .next (
      let z := dropLeft s
      let t := dropLeft (verifyPage p (applyUpsets u { z with hbm := { z.hbm with
        verifyLeft := z.hbm.verifyLeft.filter (fun q => q ≠ p) } }))
      if t.hbm.verifyLate ∧ t.hbm.verifyLeft.isEmpty then startVerify t else t))
  ∧ (∀ c t s b w, Serves c 32 s b w → fieldsPass (targetFails t ⟨true, true, true, false, false⟩) = true →
    (t.scope = 2 → exec (.scrubVerify c t) s = .next (complete c (Reply.st stOk)
      ((((w.spans.filter (fun p => decide (p.2.vnode = vnodeOf w c))).map Prod.fst).flatMap (targetPages w t)).foldl
        (fun s p => verifyPage p s) w)))
    ∧ (∀ fs z, t.scope ≠ 2 → verifySpans (vnodeOf w c) t.handle (targetSpans t) w = (.inl fs, z) →
      exec (.scrubVerify c t) s = .next (complete c (Reply.st stOk) ((fs.flatMap (targetPages z t)).foldl (fun s p => verifyPage p s) z))))
  ∧ (∀ h layer head page digest hash u s f x r, Met h .twin s → verifyRecord (takePeer h.sender s) h = some f →
    pageAt (takePeer h.sender s) ⟨f, layer, head, page⟩ = some x → spanAt (takePeer h.sender s) f = some r →
    (r.copy = false → hash ≠ [] → exec (.verifyReq h layer head page digest hash u) s
      = .next (resolvePage ⟨f, layer, head, page⟩ (ackPeer h stOk 0 (applyUpsets u (takePeer h.sender s)))))
    ∧ (r.copy = true ∨ hash = [] → exec (.verifyReq h layer head page digest hash u) s = .next (
      let p : PageRef := ⟨f, layer, head, page⟩
      let answer (own : Option (List Byte)) (content : List Byte) (s : State) : State :=
        sendPeer h.vnode h.sender true h.handle h.span.toNat (.verifyResp layer head page x.digest own content) none (ackPeer h stOk 0 s)
      let c := readCopy 4 r.geo.fmt x (applyUpsets u (takePeer h.sender s))
      match c.1 with
      | .reads bs =>
        let t := answer (some (contentHash x bs)) bs c.2
        if x.isSealed = false ∨ hash = [] ∨ x.poison.isSome then t
        else if contentHash x bs = x.digest then
          (if digest ≠ x.digest then divergent p x.digest digest (contentHash x bs) hash t else notAwaiting p t)
        else
          let t := if (awaited t p).isNone then endReaders p x (contentHash x bs) t else t
          if digest ≠ x.digest ∨ hash ≠ x.digest then divergent p x.digest digest (contentHash x bs) hash t
          else awaitPage p (some (contentHash x bs)) t
      | _ => if x.held || x.isPlain then pageUnreadable p (answer none [] c.2) else answer none [] c.2)))
  ∧ (∀ h layer head page digest hash content s f, Met h .twin s → h.links = 0 →
    (ownSpan (ackPeer h stOk 0 (takePeer h.sender s)) h.vnode h.handle h.span.toNat false).or
      (ownSpan (ackPeer h stOk 0 (takePeer h.sender s)) h.vnode h.handle h.span.toNat true) = some f →
    exec (.verifyResp h layer head page digest hash content) s = .next (afterForm
      (compareCopies ⟨f, layer, head, page⟩ digest (hash.map (fun x => (x, content))) (ackPeer h stOk 0 (takePeer h.sender s)))))

/-- The repair of content: a copy that does not answer leaves a page without a good copy (R285, R296); good content is written to a page
that awaits it, and counts a POISONED or mismatching page that it corrects (R284, R286, R296); a page is rebuilt from the fragments of its stripe, and is divergent where
its rebuilt content differs too (R283, R405). -/
def Parts.RepairEventsComplete : Prop :=
  (∀ p s, live s = true → (awaited s p).isSome = true →
    exec (.twinVerifyTimeout p) s = .next (afterForm (noGoodCopy p s)))
  ∧ (∀ p content s x, live s = true → pageAt s p = some x → ((awaited s p).isSome = true ∨ x.poison.isSome = true) →
    exec (.replicaRewrite p content) s = .next (afterForm
      (rewriteFrom p content (x.poison.isSome || ((awaited s p).getD none).isSome) s)))
  ∧ (∀ p s x, live s = true → pageAt s p = some x → ((awaited s p).isSome = true ∨ x.poison.isSome = true ∨ x.loc = .rebuild) →
    (∀ bs, exec (.pageRepair p (some bs)) s = .next (afterForm (match rewritePage p bs s with
      | .done t => contribute p (if x.poison.isSome || ((awaited s p).getD none).isSome then bump .replicaRepairs t else t)
      | .differs t => rebuiltDiffers p bs t
      | .noFrame => s)))
    ∧ exec (.pageRepair p none) s = .next (afterForm (noGoodCopy p s)))
  ∧ (∀ p fragments s x cs st slot, live s = true → pageAt s p = some x → x.coded = some (cs, st, slot) →
    ((awaited s p).isSome = true ∨ x.poison.isSome = true ∨ x.loc = .rebuild) →
    exec (.pageRebuild p fragments) s = .next (afterForm (
      match rebuildFragment slot ((fragments ++ gathered s p fragments).map (fun f => (f.1, padTo frameBytes f.2))) with
      | none => noGoodCopy p s
      | some bs => match rewritePage p bs s with
        | .done t => bump .pagesRebuiltCode
            (if x.poison.isSome || ((awaited s p).getD none).isSome then bump .replicaRepairs t else t)
        | .differs t => rebuiltDiffers p bs t
        | .noFrame => s)))

/-- SPAN_COVERAGE answers the sum of the coverage terms of the pages that hold the first TOKEN_LIMIT tokens under a map epoch that the node accepts, and ST_STALE_MAP under
another (R264, R452); SPAN_RESET
restores the span as an empty one of the same record (R416). -/
def Parts.SpanContentCommandsComplete : Prop :=
  (∀ c t s b w f x u r, Serves c 32 s b w → fieldsPass (targetFails t ⟨true, true, false, true, false⟩) = true → t.scope = 1 →
    t.spanCount = 1 → (membersOf w c).isSome = true → findSpan (vnodeOf w c) t.handle t.spanFirst.toNat w = (.found f x, u) → viewOf u c f = some r →
    t.layer.toNat < r.geo.layers → t.head.toNat < r.geo.heads → t.tokenLimit.toNat ≤ r.fill t.layer.toNat t.head.toNat →
    (coveragePages r t.layer.toNat t.head.toNat t.tokenLimit.toNat).any (fun p => p.2.1.isSealed
      && decide (p.2.2 < min r.geo.cap (r.fill t.layer.toNat t.head.toNat - p.1 * r.geo.cap))) = false →
    (coveragePages r t.layer.toNat t.head.toNat t.tokenLimit.toNat).any (fun p => decide (p.2.1.loc = .lost)
      || isLost u ⟨f, t.layer.toNat, t.head.toNat, p.1⟩) = false →
    64 ≤ resultRoom b c →
    exec (.spanCoverage c t) s = .next (complete c (Reply.ofResult 1
      (leBytes 32 (((coveragePages r t.layer.toNat t.head.toNat t.tokenLimit.toNat).foldl
          (fun a p => a + recordTerm u r t.layer.toNat t.head.toNat p) 0) % 2 ^ 256)
        ++ words64 [word [(32, (coveragePages r t.layer.toNat t.head.toNat t.tokenLimit.toNat).length)], t.tokenLimit.toNat % 2 ^ 48, 0, 0])) u))
  ∧ (∀ c t s b w, Serves c 32 s b w → fieldsPass (targetFails t ⟨true, true, false, true, false⟩) = true → t.scope = 1 →
    t.spanCount = 1 → (membersOf w c).isSome = false →
    exec (.spanCoverage c t) s = .next (complete c (Reply.st stStaleMap) (bumpV .staleMapAnswers (vnodeOf w c) w)))
  ∧ (∀ c t s b w k a e u r, Serves c 32 s b w → t.spanCount = 1 → fieldsPass (targetFails t ⟨true, false, false, false, false⟩) = true →
    handoffOf w (vnodeOf w c) t.handle t.spanFirst.toNat = none →
    search (vnodeOf w c) t.handle t.spanFirst.toNat 0 w = (.hit k a e, u) → e.form ≠ 2 → e.form ≠ 3 → spanAt u e.record = some r →
    r.closing = false → exec (.spanReset c t) s = .next (wake (complete c (Reply.st stOk) (resetSpan e.record u))))

/-- Verification, repair, and the commands on the content of spans (R277–R299, R415–R417). -/
def Obligations.ContentCheckRowsComplete : Prop :=
  Parts.VerifyCommandsComplete ∧ Parts.RepairEventsComplete ∧ Parts.SpanContentCommandsComplete

/-! ## Attention (R172–R251) -/

/-- How queries enter: ATTN_QUERY with a message that R172 accepts and room for its records is served descriptor by descriptor with the
knobs of its admission (R177, R447); a QUERY that is the next of its queue pair (R359), of a known, unfenced sender and with a stride that R343
accepts, is served likewise, and every descriptor of one from or at a fenced node is answered ST_FENCED (R375); a query that
waits takes its reservation after those dispatched before it (R218), and answers ST_RETRY_AFTER when its admission or promotion wait ends (R218, R310). -/
def Obligations.QueryEntryCompletes : Prop :=
  (∀ c payload u s b w ds, Serves c payload.length s b w → readQuery payload = some ds → fullResult ds ≤ resultRoom w c →
    exec (.attnQuery c payload u) s = .next (
      let o := openBatch (.cmd c) (vnodeOf w c) ds.length (applyUpsets u w)
      serveDescs o.1 (vnodeOf w c) (knobsOf w c) c.hdr.mapEpoch (mapFor w (vnodeOf w c) c.hdr.mapEpoch).isSome (stallOf w c) ds o.2))
  ∧ (∀ m payload u s ds, live s = true → admits s m opQuery (fun p => decide (p = payload)) = true →
    hasPeer (takeMsg m s) m.vnode m.sender = true → readQuery payload = some ds →
    m.aux.toNat % 64 = 0 → longestRecord ds ≤ m.aux.toNat → isFenced (takeMsg m s) m.vnode m.sender = false →
    selfFenced (takeMsg m s) m.vnode = false →
    exec (.query m payload u) s = .next (
      let t := takeMsg m s
      let o := openBatch (.msg m m.aux.toNat) m.vnode ds.length (applyUpsets u t)
      serveDescs o.1 m.vnode (msgKnobs s m) m.mapEpoch (mapFor t m.vnode m.mapEpoch).isSome (((t.fab.qps.at? m.qpn).map Qp.stallUs).getD 0) ds o.2))
  ∧ (∀ m payload u s ds, live s = true → admits s m opQuery (fun p => decide (p = payload)) = true →
    hasPeer (takeMsg m s) m.vnode m.sender = true → readQuery payload = some ds → m.aux.toNat % 64 = 0 → longestRecord ds ≤ m.aux.toNat →
    isFenced (takeMsg m s) m.vnode m.sender = true ∨ selfFenced (takeMsg m s) m.vnode = true →
    exec (.query m payload u) s = .next (fenceDescs m m.aux.toNat ds (takeMsg m s)))
  ∧ (∀ m payload u s, live s = true → admits s m opQuery (fun p => decide (p = payload)) = true →
    hasPeer (takeMsg m s) m.vnode m.sender = true → isFenced (takeMsg m s) m.vnode m.sender = false →
    selfFenced (takeMsg m s) m.vnode = false → readQuery payload = none →
    exec (.query m payload u) s = .next (refuseQuery m payload stBadParam (takeMsg m s)))
  ∧ (∀ m payload u s, live s = true → admits s m opQuery (fun p => decide (p = payload)) = false →
    exec (.query m payload u) s = .next s)
  ∧ (∀ req s, live s = true → exec (.attnReserve req) s = .next (reserveTo req s))
  ∧ (∀ req s q, live s = true → s.attn.reqs.at? req = some q → q.phase = .waiting →
    exec (.attnAdmitTimeout req) s = .next (failReq req stRetryAfter (max 1 (takeEstimate s).1) (bump .attnAdmitRetries (takeEstimate s).2)))
  ∧ (∀ req s q, live s = true → s.attn.reqs.at? req = some q → q.pages.any (fun p => p.missing) = true →
    exec (.promoteStallExpiry req) s
      = .next (failReq req stRetryAfter (max 1 (takeEstimate s).1) (bump .promoteRetryAnswers (takeEstimate s).2)))

/-- How a query in service goes on, where the codec has served the expansions queued for it (R331) and every page that its step reads can be
read (R165, R187): a key pass ends with its block maximum
and certificate (R203, R204); a value pass of a query in one segment whose outputs are finite produces its record, or with more segments
waits for SEGMENT_COMPLETE; a segment is folded into the running state and the next begins, or the record leaves, or an output
sum that overflows there ends the request (R196, R237–R239); one page of a
die request is folded into its engine's rows (R213, R235). -/
def Obligations.QueryPassesComplete : Prop :=
  (∀ req u s z q bad t, live s = true → expandFirst req s = z → z.attn.reqs.at? req = some q → q.phase = .keyPass →
    q.pages.any (fun p => p.missing) = false →
    passWaits z q.segPages = false → meetPass req q false q.segPages u z = (true, bad, t) →
    exec (.keyPassComplete req u) s = .next (endKeyPass req q t))
  ∧ (∀ req u s z q bad t, live s = true → expandFirst req s = z → z.attn.reqs.at? req = some q → q.phase = .valuePass →
    passWaits z q.segPages = false → meetPass req q true q.segPages u z = (true, bad, t) →
    let vs := (q.segPages.map (viewPage t q)).zip q.weights
    let cores := q.cores.map (fun c => (c.1, ((List.range q.desc.rows).zip c.2).map (fun r =>
      withOutputs t.tick (c.1 + 1) q r.1 r.2 c.1 ((vs.filter (fun v => decide (v.1.p.core = c.1))).map (fun v => (v.1, v.2.getD r.1 []))))))
    let rows := reduceRows q (t.tick + 2) (cores.map Prod.snd)
    (q.segments = 1 → exec (.valuePassComplete req u) s = .next (
      let z := bumpBy .segmentsRun 0 { t with tick := t.tick + 3 }
      if finiteOut rows.1 then produce req { q with coreFail := if q.coreFail.isSome then q.coreFail else verifyCores z q cores q.segPages } rows.1 z
      else overflowReq req q z))
    ∧ (q.segments ≠ 1 → exec (.valuePassComplete req u) s = .next (
      let z := bumpBy .segmentsRun 1 { t with tick := t.tick + 3 }
      if finiteOut rows.1 then putReq req { q with
          coreFail := if q.coreFail.isSome then q.coreFail else verifyCores z q cores q.segPages, phase := .segmentEnd, cores := [(0, rows.1)],
          weights := [], drained := [] } z
      else overflowReq req q z)))
  ∧ (∀ req u s q, live s = true → s.attn.reqs.at? req = some q → q.phase = .segmentEnd →
    let t := applyUpsets u s
    let new := (q.cores.head?.map Prod.snd).getD []
    let m := match q.running with
      | none => (new, 0)
      | some old => mergeRows t.tick 0 old new
    let q1 := { q with absorbed := q.absorbed || decide (m.2 ≠ 0), running := some m.1, cores := [] }
    let t1 := bumpBy .rowsAbsorbed m.2 { t with tick := t.tick + 1 }
    (finiteOut m.1 = false → exec (.segmentComplete req u) s = .next (overflowReq req q1 t1))
    ∧ (finiteOut m.1 = true → q.segment + 1 = q.segments → exec (.segmentComplete req u) s = .next (produce req q1 m.1 t1))
    ∧ (finiteOut m.1 = true → q.segment + 1 ≠ q.segments → exec (.segmentComplete req u) s
      = .next (putReq req { q1 with segment := q.segment + 1, phase := .keyPass } t1)))
  ∧ (∀ req page u s z q p bad g t, live s = true → expandFirst req s = z → z.attn.reqs.at? req = some q → q.phase = .dieBlocks →
    q.pages[page]? = some p → p.missing = false → page ∉ q.blocksDone → meetPass req q false [p] u z = (true, bad, g) →
    readAll req (pageReads g q true p) g = ([], t) →
    let sc := pageScores t.tick page q (viewPage t q p)
    let blk := dieBlock t.tick q (viewPage t q p) sc
    let e := engineOf q page
    let m := match q.engines.find? (fun x => decide (x.core = e.1 ∧ x.engine = e.2)) with
      | none => (blk.1, 0)
      | some x => mergeRows (t.tick + 7) 7 x.rows blk.1
    let q1 : AttnReq := { q with
      engines := q.engines.filter (fun x => !decide (x.core = e.1 ∧ x.engine = e.2)) ++ [⟨e.1, e.2, m.1⟩]
      blocksDone := q.blocksDone ++ [page]
      absorbed := q.absorbed || decide (m.2 ≠ 0) }
    let t1 := bumpBy .rowsAbsorbed m.2 (bumpBy .certDirectPages blk.2 { t with tick := t.tick + 8 })
    sc.any (fun r => r.any (fun x => !(F32.isFin x.2))) = false → finiteOut blk.1 = true →
    exec (.dieBlockDone req page u) s
      = .next (if q.blocksDone.length + 1 = q.pages.length then finishDie req q1 (putReq req q1 t1) else putReq req q1 t1))

/-- ATTN_MERGE of inputs that pass R241 answers the merged record and counts it (R234, R240, R242); ATTN_QUERY_FANOUT searches the
sequence of each descriptor and fans it out to the nodes of its spans (R244, R245); a sub-query that has not answered in time has failed (R247). -/
def Obligations.MergeAndFanoutComplete : Prop :=
  (∀ c payload s b w, Serves c payload.length s b w →
    exec (.attnMerge c payload) s = .next (match checkMerge payload with
      | .inl xs =>
        let m := mergeInputs w.tick (vn w (vnodeOf w c)).nodeId (readMergeDesc payload) xs
        finish c b (.now (batchReply [recordBytes m.1.1 m.1.2])
          (bumpBy .mergeInputs xs.length (bump .mergeCommands (bumpBy .rowsAbsorbed m.2 { w with tick := w.tick + 1 }))))
      | .inr (st, detail) => finish c b (.now
          { batchReply [hdrBytes (mergeRefusal w (vnodeOf w c) payload st)] with status := st, detail := detail } w)))
  ∧ (∀ c payload s b w ds, Serves c payload.length s b w → readQuery payload = some ds → fullResult ds ≤ resultRoom w c →
    (∀ p ∈ ds, queryStep1 p.1 = true ∧ (queryRows p.1 p.2).all (fun x => x.all F32.isFin) = true) →
    exec (.attnQueryFanout c payload) s = .next (
      let o := openBatch (.cmd c) (vnodeOf w c) ds.length w
      dispatchBatch o.1 (((List.range ds.length).zip ds).foldl (fun t p =>
        if (mapFor t (vnodeOf w c) c.hdr.mapEpoch).isNone then
          refuseFan o.1 p.1 (vnodeOf w c) p.2.1 stStaleMap none 0 (bumpV .staleMapAnswers (vnodeOf w c) t)
        else fanDesc (takeId t).1 c o.1 p.1 (vnodeOf w c) p.2.1 p.2.2 (knobsOf w c) (stallOf w c) (takeId t).2) o.2)))
  ∧ (∀ fanout sub s f x z, live s = true → s.attn.fanouts.at? fanout = some f → f.subs[sub]? = some x → x.ans = .waiting z →
    exec (.fanoutTimeout fanout sub) s = .next (fanFinish fanout (setSub fanout sub (.failed stTimeout x.node 0)
      { s with regions := s.regions.filter (fun r => decide (r.2.use ≠ .fanout fanout sub)) })))

/-! ## Tiers and flash (R303–R324) -/

/-- The changes of a page's form, each where the state calls for it: a page is packed and counted where its image expands to the content
that it had (R305); a pack frame less than half live is emptied (R306); a demotion is programmed (R304), and, once the codec has
served what goes before it (R331), switches its page where the image read back holds the content, is dropped where its table is gone, and is
tried again otherwise (R307, R330); a promotion gives its requests and its page the content of its image, or fails (R309–R312). -/
def Parts.TierEventsComplete : Prop :=
  (∀ p s x r, live s = true → AllFill s → pageAt s p = some x → spanAt s p.record = some r → packs s r.vnode = true →
    (let s1 := { s with tier := { s.tier with packOn := (r.vnode :: s.tier.packOn).eraseDups } }
     eligible s1 p x false = true →
     exec (.packPage p) s = .next (
       if olderThan s1 r.vnode (lastReadOf s1 p) (fun q y => (packImage s1 q y).isSome) then s1
       else match packImage s1 p x with
         | none => s1
         | some im =>
           let c := readStored x (drainCodec 3 (queueCoding 3 p r.geo.fmt s1))
           match (if c.1 then storePack r.vnode (pageGen s1 x) im c.2 else none) with
           | none => c.2
           | some (n, t) => match pageContent t r.geo.fmt (.packed n) with
             | .bytes bs => if contentOk x bs then bump .pagesPacked (switchAll x.loc (.packed n) t) else removeImage n t
             | _ => removeImage n t)))
  ∧ (∀ (frame : BitVec 24) s, live s = true → AllFill s → (frameOf s frame.toNat).use = .pack → (frameOf s frame.toNat).state = .open_ →
    2 * packUse s frame.toNat < granules →
    exec (.packCompact frame) s = .next (if packUse (movePacked frame.toNat s) frame.toNat = 0
      then releaseFrame frame.toNat (movePacked frame.toNat s) else movePacked frame.toNat s))
  ∧ (∀ p s x r, live s = true → pageAt s p = some x → spanAt s p.record = some r → demotes s r.vnode = true →
    (let s1 := { s with tier := { s.tier with demoteOn := (r.vnode :: s.tier.demoteOn).eraseDups } }
     tierPresent s1 r.vnode = true → tierFull s1 r.vnode = false → s.pw.brake = false → eligible s1 p x false = true →
     x.inHbm = true → olderThan s1 r.vnode (lastReadOf s1 p) (fun _ y => y.inHbm) = false →
     exec (.demotePage p) s = .next ((programDemotion p 1 s1).getD s1)))
  ∧ (∀ p read s z d x r, live s = true → drainCodec 3 s = z → z.tier.demotions.find? (fun d => decide (d.page = p)) = some d →
    pageAt z p = some x → spanAt z p.record = some r → d.held = false →
    (let t := countFlashRead d.image (endDemotion p z)
     (judgeReadBack t r.geo.fmt x read = .good → exec (.demoteComplete p read) s = .next (
        afterForm (bump .pagesDemoted (switchAll x.loc (.flash d.image) { t with tier := { t.tier with
          images := t.tier.images.map (fun i => if i.1 = d.image then (i.1, { i.2 with bytes := read }) else i) } }))))
     ∧ (judgeReadBack t r.geo.fmt x read = .stale → exec (.demoteComplete p read) s = .next (
        afterForm (pageUnreadable p (dropFromTiers true stCodecTableStale p
          (removeImage d.image (bumpBy .codecStale (codedBlocks read) t))))))
     ∧ (judgeReadBack t r.geo.fmt x read = .wrong → exec (.demoteComplete p read) s = .next (retryDemotion d x r t))))
  ∧ (∀ p read s z m, live s = true → AllFill s → drainCodec 2 s = z → z.tier.promotions.find? (fun d => decide (d.page = p)) = some m →
    (m.content read = none → exec (.promoteComplete p read) s = .next (failPromotion m none (countFlashRead m.image z)))
    ∧ (∀ bs, m.content read = some bs → exec (.promoteComplete p read) s = .next (
      if pageDigest bs = m.digest ∧ (readHeader (bs.drop annexAt)).digest = m.digest then promoteContent m bs (countFlashRead m.image z)
      else failPromotion m (some bs) (countFlashRead m.image z))))

/-- The TIER commands over the pages that their target names (R313, R464), where each named page may change as asked. -/
def Parts.TierCommandsComplete : Prop :=
  (∀ c t s b w fs z, Serves c 32 s b w → fieldsPass (targetFails t (tierUse false)) = true →
    targetRecords (vnodeOf w c) t w = (.inl fs, z) → targetGeo z t fs = none →
    exec (.tierPromote c t) s = .next (finish c b (startTier c false ((namedPages z t fs).map Prod.fst) z))
    ∧ (((namedPages z t fs).filter (fun p => p.2.isSealed)).any (fun p => pinnedAny z p.1) = false → tierPresent z (vnodeOf z c) = true →
      tierFull z (vnodeOf z c) = false →
      exec (.tierDemote c t) s = .next (finish c b (startTier c true (((namedPages z t fs).filter (fun p => p.2.isSealed)).map Prod.fst) z)))
    ∧ (countPages z (((nodePages z (vnodeOf z c)).filter (fun p => p.2.pinned)).map Prod.fst)
          + countPages z (((namedPages z t fs).filter (fun p => !(pinnedAny z p.1))).map Prod.fst)
        ≤ pctFrames z (vnodeOf z c) (knobsOf z c).pinMaxPct →
      exec (.tierPin c t) s = .next (finish c b (startTier c false ((namedPages z t fs).map Prod.fst)
        ((namedPages z t fs).foldl (fun s p => cancelDemotion p.1 (updShared p.1 (fun x => { x with pinned := true }) s)) z))))
    ∧ exec (.tierUnpin c t) s = .next (complete c (Reply.st stOk)
        ((namedPages z t fs).foldl (fun s p => updShared p.1 (fun x => { x with pinned := false }) s) z)))
  ∧ (∀ c t s b w, Serves c 32 s b w → fieldsPass (targetFails t (tierUse true)) = true → t.scope = 2 →
    exec (.tierStatus c t) s
      = .next (finish c b (.now (Reply.ofResult 1 (tierBlock w (vnodeOf w c) (nodePages w (vnodeOf w c)))) w)))
  ∧ (∀ c t s b w fs z, Serves c 32 s b w → fieldsPass (targetFails t (tierUse true)) = true → t.scope ≠ 2 →
    targetRecords (vnodeOf w c) t w = (.inl fs, z) → targetGeo z t fs = none →
    exec (.tierStatus c t) s = .next (finish c b (.now (Reply.ofResult 1 (tierBlock z (vnodeOf w c) (namedPages z t fs))) z)))

/-- The commands and events of the memory tiers (R300–R321). -/
def Obligations.TierRowsComplete : Prop :=
  Parts.TierEventsComplete ∧ Parts.TierCommandsComplete

/-- The upkeep of flash, outside a power brake (R592): a target's parameters are taken once firmware runs (R314, R589); a block that has
been read too often, or whose read was soft or old, is moved (R316); a block is reclaimed below 3 % of free blocks, and levelled where the
erase counts spread too far (R317); a block whose programming failed is bad, in the metadata area too, and what was being programmed is
written elsewhere (R317, R319); an emptied block is erased (R319). -/
def Obligations.FlashEventsComplete : Prop :=
  (∀ (channel : BitVec 4) (target : BitVec 3) p s, live s = true → s.pw.fwState = 2 → p.ok = true →
    ∃ t, exec (.flashProbe channel target p) s = .next t
      ∧ t.tier.targets.at? (channel.toNat, target.toNat) = some ⟨true, p.blocks, p.pagesPerBlock, p.maxBusyUs⟩
      ∧ t.tier.images = s.tier.images ∧ t.tier.blocks = s.tier.blocks ∧ t.mem = s.mem ∧ t.spans = s.spans)
  ∧ (∀ b soft old s, live s = true → s.pw.brake = false →
    (soft = true ∨ old = true ∨ s.knobs.readDisturbLimit ≤ (blockAt s (blockKey b)).reads) →
    exec (.flashRelocate b soft old) s = .next (bump .flashRelocations (emptyBlock (blockKey b) s)))
  ∧ (∀ b s, live s = true → s.pw.brake = false →
    freeBlocks s (channelVnode s b.channel) * 100 < 3 * usableBlocks s (channelVnode s b.channel) →
    blockKey b ∈ (usedBlocks s (channelVnode s b.channel)).map Prod.fst →
    (∀ x ∈ usedBlocks s (channelVnode s b.channel), liveSectors s (blockKey b) ≤ liveSectors s x.1) →
    exec (.ftlReclaim b) s = .next (emptyBlock (blockKey b) s))
  ∧ (∀ b s, live s = true → s.pw.brake = false →
    s.knobs.wearSpread < (eraseSpread s (channelVnode s b.channel)).2 - (eraseSpread s (channelVnode s b.channel)).1 →
    blockKey b ∈ (usedBlocks s (channelVnode s b.channel)).map Prod.fst →
    (∀ x ∈ usedBlocks s (channelVnode s b.channel), (blockAt s (blockKey b)).erases ≤ x.2.erases) →
    exec (.wearLevel b) s = .next (emptyBlock (blockKey b) s))
  ∧ (∀ b s, live s = true → (blockAt s (blockKey b)).bad = false →
    ∃ t, exec (.flashProgramFail b) s = .next (rewriteStaged b (writeMeta (channelVnode s b.channel) t))
      ∧ (blockAt t (blockKey b)).bad = true ∧ t.tier.images = s.tier.images ∧ t.tier.demotions = s.tier.demotions ∧ t.mem = s.mem
      ∧ counterAt t .flashBadBlocks 0 = min (2 ^ 64 - 1) (counterAt s .flashBadBlocks 0 + 1))
  ∧ (∀ b s, live s = true → s.pw.brake = false → (blockAt s (blockKey b)).stale = true → (blockAt s (blockKey b)).bad = false →
    exec (.flashEraseBackground b) s = .next (writeMeta (channelVnode s b.channel) (updBlock (blockKey b) (fun x =>
      { x with erases := min (2 ^ 32 - 1) (x.erases + 1), written := 0, reads := 0, stale := false, last := none }) s)))

/-! ## The codec (R325–R334, R461, R462) -/

/-- The codec's commands: CODEC_LOAD puts a table in a FREE slot under a new generation and answers both (R326); CODEC_SELECT makes a
LOADED slot of the format current and no other (R328); CODEC_RETIRE retires a slot and queues its images for recoding, or with FORCE leaves
them (R329, R330); CODEC_STATUS answers eight slots (R327); CODEC_SAMPLE answers the counts of a format and clears them (R462). -/
def Parts.CodecCommandsComplete : Prop :=
  (∀ c img s b w n g, Serves c (64 + 2 ^ expBits img.format.toNat) s b w → fieldsPass (tableFails img) = true → tableEmpty img = false →
    img.lengths.length = 2 ^ expBits img.format.toNat → loadTable w = .inl (n, g) →
    exec (.codecLoad c img) s = .next (complete c { Reply.st stOk with r0 := BitVec.ofNat 64 (word [(32, g.toNat), (0, n)]) }
      (putTable img n g w)))
  ∧ (∀ c gen (slot : BitVec 3) (format : BitVec 4) s b w, Serves c 8 s b w → (slotAt w slot.toNat).state = 1 →
    (slotAt w slot.toNat).gen = gen → (slotAt w slot.toNat).image.map TableImage.format = some format →
    exec (.codecSelect c gen slot format) s = .next (complete c (Reply.st stOk) { w with tier := { w.tier with
      slots := w.tier.slots.map (fun p => if (p.2.image.map TableImage.format) = some format
        then (p.1, { p.2 with current := decide (p.1 = slot.toNat) }) else p) } }))
  ∧ (∀ c gen (slot : BitVec 3) force s b w, Serves c 8 s b w → (slotAt w slot.toNat).state ≠ 0 → (slotAt w slot.toNat).gen = gen →
    exec (.codecRetire c gen slot force) s = .next (complete c (Reply.st stOk) (settleSlots (
      let t := updSlot slot.toNat (fun x => { x with state := 2, current := false, forced := x.forced || force }) w
      if force then { t with tier := { t.tier with
          recode := t.tier.recode.filter (fun i => !(decide (i ∈ imagesNaming t slot.toNat gen)))
          queue := t.tier.queue.map (fun q => if q.slot = slot.toNat ∧ q.gen = gen then { q with old := true } else q) } }
      else { t with tier := { t.tier with recode := (t.tier.recode ++ imagesNaming t slot.toNat gen).eraseDups } }))))
  ∧ (∀ c s b w, Serves c 0 s b w →
    exec (.codecStatus c) s = .next (finish c b (.now (Reply.ofResult 8 ((List.range 8).flatMap (slotStatus w))) w)))
  ∧ (∀ c (format : BitVec 4) s b w, Serves c 8 s b w → compressible format.toNat = true → 8 + 8 * 2 ^ expBits format.toNat ≤ resultRoom b c →
    exec (.codecSample c format) s = .next (complete c (Reply.ofResult (1 + 2 ^ expBits format.toNat)
      (words64 (word [(32, (w.tier.samples.atD format.toNat (0, [])).1), (0, format.toNat)] :: (List.range (2 ^ expBits format.toNat)).map
        (fun i => (w.tier.samples.atD format.toNat (0, [])).2.atD i 0))))
      { w with tier := { w.tier with samples := w.tier.samples.del format.toNat } }))

/-- The codec's background work: an image of a retired table, a PACKED one before one in flash, is coded again after every
other block that is queued (R329, R331); an engine takes the next block, whose slot still
holds its table or whose block fails ST_CODEC_TABLE_STALE (R330, R331). -/
def Parts.CodecEventsComplete : Prop :=
  (∀ image s z i p ps x r, live s = true → AllFill s → drainCodec 5 s = z → z.tier.images.at? image = some i →
    pagesOfImage z image = p :: ps → pageAt z p = some x →
    spanAt z p.record = some r → image ∈ z.tier.recode → recodeWaits z i = false → (pagesOfImage z image).any (formChanging z) = false →
    (z.pw.brake = false ∨ i.block = none) →
    exec (.recodeImage image) s = .next (
      let c := readCopy 5 r.geo.fmt x z
      match c.1 with
      | .reads bs => if contentOk x bs then afterForm (settleSlots (recodeTo image i r.geo.fmt p x bs c.2))
          else afterForm (digestMismatch p (contentHash x bs) (recoded image c.2))
      | _ => afterForm (settleSlots (pageUnreadable p (recoded image c.2)))))
  ∧ (∀ engine s k i, live s = true → nextBlock s.tier.queue = some k → s.tier.queue[k]? = some i →
    ((slotAt s i.slot).state ≠ 0 → (slotAt s i.slot).gen = i.gen →
      exec (.codecBlock engine) s = .next (afterForm (settleSlots { s with tier := { s.tier with queue := s.tier.queue.eraseIdx k } })))
    ∧ (((slotAt s i.slot).state = 0 ∨ (slotAt s i.slot).gen ≠ i.gen) →
      exec (.codecBlock engine) s = .next (
        let t := { s with tier := { s.tier with queue := s.tier.queue.eraseIdx k } }
        afterForm (settleSlots (staleBlock i (bump .codecStale t))))))

/-- The commands and events of the codec (R322–R331, R461, R462). -/
def Obligations.CodecRowsComplete : Prop :=
  Parts.CodecCommandsComplete ∧ Parts.CodecEventsComplete

/-! ## Fabric (R333–R386) -/

/-- The ports: a link comes up once a configuration has been accepted, and goes down (R333, R578); an up port sends its HELLO (R368) and
takes a neighbour's, logging a change alone (R369); a neighbour that is not heard for 500 ms is dropped and logged; a frame that an up port
receives for the virtual node of the port has its codewords counted (R334, R378, R385). -/
def Obligations.PortEventsComplete : Prop :=
  (∀ (port : BitVec 5) s, live s = true → portOk s port = true → s.configured = true →
    exec (.portLinkUp port) s = .next (updPort port (fun p => { p with up := true, heard := false })
      { s with pw := { s.pw with refclk156 := true } }))
  ∧ (∀ (port : BitVec 5) s, live s = true → portOk s port = true →
    exec (.portLinkDown port) s = .next (updPort port (fun p => { p with up := false }) s))
  ∧ (∀ (port : BitVec 5) s, live s = true → (portAt s port).up = true →
    exec (.helloSend port) s = .next (emit (.hello port (helloOf s port) (helloFrame s port)) (updPort port (fun p => { p with helloSeq := p.helloSeq + 1 }) s)))
  ∧ (∀ (port : BitVec 5) p s, live s = true → p.rsv = false → (portAt s port).up = true →
    (let t := updVn (vnodeOfPort s port) (fun n => { n with neighbours := n.neighbours.put port ⟨p⟩ })
       (updPort port (fun x => { x with heard := true }) s)
     (∀ o, (vn s (vnodeOfPort s port)).neighbours.at? port = some o → neighbourDiffers o.p p = false →
        exec (.hello port p) s = .next t)
     ∧ ((vn s (vnodeOfPort s port)).neighbours.at? port = none → exec (.hello port p) s
        = .next (logFrom (vnodeOfPort s port) 0x0805 srcFabric [] t))
     ∧ (∀ o, (vn s (vnodeOfPort s port)).neighbours.at? port = some o → neighbourDiffers o.p p = true →
        exec (.hello port p) s = .next (logFrom (vnodeOfPort s port) 0x0805 srcFabric [] t))))
  ∧ (∀ (port : BitVec 5) s, live s = true → (vn s (vnodeOfPort s port)).neighbours.has port = true →
    exec (.neighbourExpiry port) s = .next (logFrom (vnodeOfPort s port) 0x0805 srcFabric []
      (updVn (vnodeOfPort s port) (fun n => { n with neighbours := n.neighbours.del port }) s)))
  ∧ (∀ v (port : BitVec 5) (f : RxFrame) fc fu s, live s = true → (portAt s port).up = true → portServes s port v = true →
    exec (.frameReceive v port f fc fu) s
      = .next (takeFrame v port f (bumpAt .fecCwCorrected port.toNat fc (bumpAt .fecCwUncorrected port.toNat fu s))))

/-- Queue pairs: a context is created from FREE for a peer of the table, and destroyed into HOLD for 4 s (R344, R346); its retries are
exhausted into ERROR (R346); its acknowledgements are sent after 1 µs (R349). -/
def Obligations.QueuePairsComplete : Prop :=
  (∀ c p s b w, Serves c 32 s b w → fieldsPass (qpCreateFails p) = true → qpnIn s (vnodeOf s c) p.qpn = true → qpAt w p.qpn = none →
    hasPeer w (vnodeOf w c) p.peerNode = true →
    exec (.nodeQpCreate c p) s = .next (complete c (Reply.st stOk)
      { w with fab := { w.fab with qps := w.fab.qps.put p.qpn (qpNew w (vnodeOf w c) p) } }))
  ∧ (∀ c (qpn : BitVec 12) s b w x, Serves c 8 s b w → qpnIn s (vnodeOf s c) qpn = true → qpAt w qpn = some x → x.state ≠ .hold →
    exec (.nodeQpDestroy c qpn) s = .next (complete c (Reply.st stOk) (updQp qpn (fun _ =>
      { qpNew w 0 ⟨0, 0, 0, 0, 0, 0, 0, 0, 0, 0⟩ with state := .hold, heldAt := w.pw.uptime, rate := 0 }) w)))
  ∧ (∀ (qpn : BitVec 12) s x, live s = true → qpAt s qpn = some x → x.state = .hold →
    exec (.qpHoldExpiry qpn) s = .next { s with fab := { s.fab with qps := s.fab.qps.del qpn } })
  ∧ (∀ (qpn : BitVec 12) s x, live s = true → qpAt s qpn = some x → x.state = .ready → x.unacked ≠ [] →
    exec (.qpRetryExhausted qpn) s = .next (settle (qpError qpn 1 s)))
  ∧ (∀ (qpn : BitVec 12) s x, live s = true → qpAt s qpn = some x → x.state = .ready → 0 < x.newSince →
    exec (.ackTimer qpn) s = .next (sendAck qpn 0 0 s))

/-- Packets: a well-formed DATA or ACK of an endpoint with an association, that reaches a READY context of its sender in the virtual node's share,
is taken up (R347, R348, R351, R364, R378), and a DATA that reaches no such context is answered with an INVALID acknowledgement; without an
association the packet is dropped and counted (R364); the retransmission timer doubles up to 100 ms and sends every unacknowledged packet again
(R351), or the queue pair enters ERROR at the RETX_LIMIT-th expiry (R346); a RNR wait ends (R351); a suspended entropy value returns (R355); the
rate rises by 5,000 Mb/s up to the peer's (R354); a whole message in order enters the headrace once its queue pair has its turn (R359, R361). -/
def Obligations.TransportEventsComplete : Prop :=
  (∀ p s x, live s = true → dataMalformed p = false → talks s p.bth.vnode = true → associated s p.bth.vnode p.bth.srcNode = true →
    qpAt s p.bth.dstQpn = some x → qpnIn s p.bth.vnode p.bth.dstQpn = true → x.state = .ready →
    x.peer = p.bth.srcNode → x.peerQpn = p.bth.srcQpn → p.bth.dstNode = (vn s p.bth.vnode).nodeId →
    exec (.data p) s = .next (takeData p.bth.vnode x p s))
  ∧ (∀ p s, live s = true → dataMalformed p = false → talks s p.bth.vnode = true → associated s p.bth.vnode p.bth.srcNode = true →
    (qpAt s p.bth.dstQpn = none ∨ qpnIn s p.bth.vnode p.bth.dstQpn = false) → exec (.data p) s = .next (ackInvalid p.bth s))
  ∧ (∀ p s, live s = true → dataMalformed p = false → talks s p.bth.vnode = true → associated s p.bth.vnode p.bth.srcNode = false →
    exec (.data p) s = .next (bumpV .macsecNoSa p.bth.vnode s))
  ∧ (∀ p s x, live s = true → p.bth.malformed = false → talks s p.bth.vnode = true → associated s p.bth.vnode p.bth.srcNode = true →
    qpAt s p.bth.dstQpn = some x → qpnIn s p.bth.vnode p.bth.dstQpn = true → x.state = .ready →
    x.peer = p.bth.srcNode → x.peerQpn = p.bth.srcQpn → p.syndrome.toNat ≤ 1 → p.rsv = false →
    exec (.ack p) s = .next (takeAck p s))
  ∧ (∀ (qpn : BitVec 12) s x, live s = true → qpAt s qpn = some x → x.state = .ready → x.unacked ≠ [] →
    (x.timeouts + 1 < x.retxLimit → exec (.retxTimerExpiry qpn) s = .next (resendWhere qpn (fun _ => true) id
      (updQp qpn (fun x => { x with timeouts := x.timeouts + 1, timerUs := min 100000 (2 * x.timerUs) }) (countExpiries qpn s))))
    ∧ (x.retxLimit ≤ x.timeouts + 1 → exec (.retxTimerExpiry qpn) s = .next (settle (qpError qpn 1 s))))
  ∧ (∀ (qpn : BitVec 12) s x, live s = true → qpAt s qpn = some x → x.state = .ready →
    exec (.rnrWaitExpiry qpn) s = .next (resendWhere qpn (fun t => t.rnr) (fun t => { t with rnr := false }) s))
  ∧ (∀ (qpn : BitVec 12) (entropy : BitVec 6) s, live s = true → exec (.entropySuspendEnd qpn entropy) s
    = .next (updQp qpn (fun x => { x with suspended := x.suspended.filter (fun e => e ≠ entropy.toNat) }) s))
  ∧ (∀ (qpn : BitVec 12) s x, live s = true → qpAt s qpn = some x → x.state = .ready →
    exec (.rateIncrease qpn) s = .next (updQp qpn (fun x => { x with rate := min (peerRate s (vnodeOfQpn s qpn) x.peer) (x.rate + 5000) }) s))
  ∧ (∀ (qpn : BitVec 12) s x y m h, live s = true → qpAt s qpn = some x → x.state = .ready → x.skipAll = y → y.due = some (h, m) →
    hasTurn (updQp qpn (fun _ => y) s) qpn h = true → (h.op.toNat = opPeer → peerOpKnown (peerOpOf m.payload) = true) →
    ∃ t, exec (.headraceAdmit qpn) s = .next t
      ∧ t.fab.entered = s.fab.entered ++ [⟨qpn, y.nextMsn, h, m.payload, s.knobs⟩]
      ∧ qpAt t qpn = some { y with nextMsn := y.nextMsn + 1, msgs := y.msgs.del y.nextMsn }
      ∧ t.fab.turns = s.fab.turns.filter (fun q => q ≠ qpn) ++ [qpn] ∧ t.mem = s.mem)
  ∧ (∀ (qpn : BitVec 12) s x y m h, live s = true → qpAt s qpn = some x → x.state = .ready → x.skipAll = y → y.due = some (h, m) →
    hasTurn (updQp qpn (fun _ => y) s) qpn h = true → h.op.toNat = opPeer → peerOpKnown (peerOpOf m.payload) = false →
    ∃ t, exec (.headraceAdmit qpn) s = .next t ∧ t.fab.entered = s.fab.entered ∧ (∃ z, t = bump .peerDrops z)
      ∧ qpAt t qpn = some { y with nextMsn := y.nextMsn + 1, msgs := y.msgs.del y.nextMsn })

/-- Messages that read memory and the map: a READ_REQ of a member that is not fenced is answered with a message of the bytes that it reads
(R295, R342, R405); a READ_RESP that lies inside the region of the node's own request goes there, and any other is counted (R362); NODE_MAP
installs the first list, or a later epoch with the former as previous (R373); the drain window ends with an event for each record still awaited
(R41, R374). -/
def Obligations.ReadAndMapComplete : Prop :=
  (∀ m (addr : BitVec 64) (len key : BitVec 32) u s, live s = true →
    admits s m opReadReq (fun p => decide (p = readReqBytes addr len key)) = true →
    (memberState (takeMsg m s) m.vnode m.sender).isSome = true → isFenced (takeMsg m s) m.vnode m.sender = false →
    0 < len.toNat → len.toNat ≤ 1048576 →
    (let k := meetLink u addr.toNat (applyUpsets u (takeMsg m s))
     ∀ bs z, k.1 = true → readAnswer m.vnode addr.toNat len.toNat k.2 = (some bs, z) → exec (.readReq m addr len key u) s = .next (
       sendOn m.qpn false (headOf (takeMsg m s) m.vnode opReadResp m.addr key 0 bs.length) bs
         (emit (.readResp m.vnode m.qpn m.sender m.addr key bs) z))))
  ∧ (∀ m payload s, live s = true → admits s m opReadResp (fun p => decide (p = payload)) = true →
    (memberState (takeMsg m s) m.vnode m.sender).isSome = true →
    (∀ p slot data a n, (takeMsg m s).regions.at? m.key = some ⟨.read p slot data, a, n⟩ →
      (Region.mk (.read p slot data) a n).holds m.addr payload.length = true →
      exec (.readResp m payload) s = .next { takeMsg m s with
        regions := (takeMsg m s).regions.put m.key ⟨.read p slot (putBytes data (m.addr - a).toNat payload), a, n⟩ })
    ∧ (((takeMsg m s).regions.at? m.key).filter (fun r => r.holds m.addr payload.length) = none →
      exec (.readResp m payload) s = .next (bumpV .writeRejects m.vnode (takeMsg m s))))
  ∧ (∀ c p prefer s b w, Serves c (8 + 4 * p.memberCount.toNat) s b w → fieldsPass (mapFails p) = true →
    ((vn w (vnodeOf w c)).map = none → exec (.nodeMap c p prefer) s = .next (wake (complete c (Reply.st stOk)
      (mapInstalled (vnodeOf w c) prefer (updVn (vnodeOf w c)
        (fun n => { n with map := some (mapListOf p), prevMap := none, draining := false }) w)))))
    ∧ (∀ m, (vn w (vnodeOf w c)).map = some m → 0 < (p.epoch - m.epoch).toNat → (p.epoch - m.epoch).toNat < 32768 →
      exec (.nodeMap c p prefer) s = .next (wake (complete c (Reply.st stOk)
        (mapInstalled (vnodeOf w c) prefer (updVn (vnodeOf w c)
          (fun n => { n with map := some (mapListOf p), prevMap := some m, draining := true }) w)))))
    ∧ (∀ m, (vn w (vnodeOf w c)).map = some m → p.epoch = m.epoch → exec (.nodeMap c p prefer) s = .next (wake (complete c
        (Reply.st (if mapListOf p = m then stOk else stDenied)) w)))
    ∧ (∀ m, (vn w (vnodeOf w c)).map = some m → 32768 ≤ (p.epoch - m.epoch).toNat → exec (.nodeMap c p prefer) s
        = .next (wake (complete c (Reply.st stStaleMap) w))))
  ∧ (∀ v s, live s = true → (vn s v).draining = true → exec (.drainWindowEnd v) s
    = .next ((vn s v).awaitedRecords.foldl (fun s x => logFrom v 0x0101 srcCore [(64, x.1.toNat), (16, x.2.toNat)] s)
      (updVn v (fun n => { n with draining := false, awaitedRecords := [] }) s)))

/-- Key agreement (R365–R367): the responder of the greater identifier answers and confirms, and answers the same request again as before; the
initiator takes the answer and confirms; either transmits under the new association once it is confirmed, the ports that it alone serves are
released, and what waited for it goes out. -/
def Parts.KeyAgreementCompletes : Prop :=
  (∀ v peer tl an ek nonce cred s, live s = true → canAgree s v = true → peer.toNat < (vn s v).nodeId.toNat →
    (assocAt s v peer tl).map Assoc.request ≠ some (agreeRequest ek nonce an) →
    match judgePeer v peer tl 2 cred (agreeRequest ek nonce an) s with
    | some t => exec (.keyAgree1 v peer tl an ek nonce cred) s = .next t
    | none => ∃ a z, exec (.keyAgree1 v peer tl an ek nonce cred) s = .next (sendConfirm v peer tl (installRx v peer tl a
        (saKeys a.dk nonce a.nonce peer (vn s v).nodeId an) (sendAgree v peer tl an 2 a.body z)))
      ∧ z.fab.agreements.at? (v, peer, tl) = some a ∧ a.initiator = false ∧ a.step = 3 ∧ a.an = an ∧ a.resends = 0
      ∧ a.request = agreeRequest ek nonce an ∧ a.root = sha256 cred.rootKey ∧ a.device = sha256 cred.endEntityKey ∧ z.mem = s.mem)
  ∧ (∀ v peer tl an ek nonce cred s a, live s = true → canAgree s v = true → peer.toNat < (vn s v).nodeId.toNat →
    (assocAt s v peer tl).map Assoc.request = some (agreeRequest ek nonce an) →
    s.fab.agreements.at? (v, peer, tl) = some a → a.initiator = false →
    exec (.keyAgree1 v peer tl an ek nonce cred) s = .next (sendConfirm v peer tl (sendAgree v peer tl an 2 a.body s)))
  ∧ (∀ v peer tl ct nonce cred s a, live s = true → s.fab.agreements.at? (v, peer, tl) = some a → canAgree s v = true →
    a.initiator = true → a.step = 1 →
    match judgePeer v peer tl 3 cred (a.request ++ ct ++ nonce) s with
    | some t => exec (.keyAgree2 v peer tl ct nonce cred) s = .next t
    | none => ∃ b z, exec (.keyAgree2 v peer tl ct nonce cred) s = .next (sendConfirm v peer tl (installRx v peer tl b
        (saKeys (Config.kemDecap a.dk ct) a.nonce nonce (vn s v).nodeId peer a.an) z))
      ∧ z.fab.agreements.at? (v, peer, tl) = some b ∧ b.step = 3 ∧ b.resends = 0 ∧ b.an = a.an ∧ b.root = sha256 cred.rootKey
      ∧ b.device = sha256 cred.endEntityKey ∧ z.mem = s.mem ∧ z.egress = s.egress)
  ∧ (∀ v peer tl an s a, live s = true → s.fab.agreements.at? (v, peer, tl) = some a → a.step = 3 → a.an = an →
    exec (.keyAgree3 v peer tl an true) s = .next (
      let t := updAssoc v peer tl (fun x => { x with tx := x.txWaiting, txWaiting := none, rekeying := false, stopped := false })
        { s with fab := { s.fab with agreements := s.fab.agreements.del (v, peer, tl) } }
      pumpPeer v peer (bumpV .rekeys v (stopPorts (soleOnPorts t v peer tl) false t))))

/-- The life of an association (R366, R367): an agreement is sent again up to 100 times and then fails; the former receive associations are
retired once the new one has been seen; a transmit packet number of 2^62 begins a new agreement, and one of 2^64 − 2^32 stops the
association, and every port on which it is the only one. -/
def Parts.AssociationLifeCompletes : Prop :=
  (∀ v peer tl s a, live s = true → s.fab.agreements.at? (v, peer, tl) = some a →
    (100 ≤ a.resends → exec (.keyAgreeResend v peer tl) s
      = .next (agreeFail v peer tl (if a.initiator ∧ a.step = 1 then 1 else 5) s))
    ∧ (a.resends < 100 →
      (let t := { s with fab := { s.fab with agreements := s.fab.agreements.put (v, peer, tl) { a with resends := a.resends + 1 } } }
       (a.initiator = true → a.step = 1 → exec (.keyAgreeResend v peer tl) s = .next (sendAgree v peer tl a.an 1 a.body t))
       ∧ (a.initiator = true → a.step ≠ 1 → exec (.keyAgreeResend v peer tl) s = .next (sendConfirm v peer tl t))
       ∧ (a.initiator = false → exec (.keyAgreeResend v peer tl) s
          = .next (sendConfirm v peer tl (sendAgree v peer tl a.an 2 a.body t))))))
  ∧ (∀ v peer tl s, live s = true → exec (.rxSaRetire v peer tl) s
    = .next (updAssoc v peer tl (fun a => if a.newSeen then { a with prevRx := [] } else a) s))
  ∧ (∀ v peer tl s a x, live s = true → assocAt s v peer tl = some a → a.tx = some x → 2 ^ 62 ≤ x.next → a.rekeying = false →
    exec (.rekeyDue v peer tl) s = .next (startAgreement v peer tl
      (logFrom v 0x0804 srcFabric [] (updAssoc v peer tl (fun a => { a with rekeying := true }) s))))
  ∧ (∀ v peer tl s a x, live s = true → assocAt s v peer tl = some a → a.tx = some x → pnLimit ≤ x.next →
    exec (.pnExhausted v peer tl) s = .next (stopPorts (soleOnPorts s v peer tl) true
      (updAssoc v peer tl (fun a => { a with stopped := true }) s)))

/-- Associations: their agreement and their life (R364–R372). -/
def Obligations.AssociationsComplete : Prop :=
  Parts.KeyAgreementCompletes ∧ Parts.AssociationLifeCompletes

/-! ## Twins, copies and code groups (R386–R421) -/

/-- Pairing (R386, R387): TWIN.PAIR enters the pairing, and the lower identifier proposes; a proposal or confirmation whose roles and names
match forms the pair; a pairing that has not formed in 1 s is answered ST_TIMEOUT. -/
def Obligations.PairingCompletes : Prop :=
  (∀ c p s b w, Serves c 32 s b w → p.pairEpoch ≠ 0 → p.twin.toNat < 0x1000 → p.role ≠ 3 → pairDenied w (vnodeOf w c) p = false →
    (vn w (vnodeOf w c)).pairing = none →
    exec (.twinPair c p) s = .next (
      let t := updVn (vnodeOf w c) (fun n => { n with pairing := some ⟨c, p, none⟩ }) w
      if (vn w (vnodeOf w c)).nodeId.toNat < p.twin.toNat
        then sendProposed (vnodeOf w c) p.twin p.pairEpoch (.pairPropose p.role) t else t))
  ∧ (∀ h role s g, Met h .propose s → (vn (takePeer h.sender s) h.vnode).pairing = some g → rolesMatch g.blk.role role = true →
    h.sender.toNat < (vn (takePeer h.sender s) h.vnode).nodeId.toNat →
    exec (.pairPropose h role (vn (takePeer h.sender s) h.vnode).nodeId) s = .next (formPair h.vnode
      (sendProposed h.vnode h.sender h.pairEpoch (.pairConfirm g.blk.role) (ackPeer h stOk 0 (takePeer h.sender s)))))
  ∧ (∀ h role s g, Met h .propose s → (vn (takePeer h.sender s) h.vnode).pairing = some g → rolesMatch g.blk.role role = true →
    exec (.pairConfirm h role (vn (takePeer h.sender s) h.vnode).nodeId) s
      = .next (formPair h.vnode (ackPeer h stOk 0 (takePeer h.sender s))))
  ∧ (∀ v s g, live s = true → (vn s v).pairing = some g → exec (.twinPairTimeout v) s = .next (complete g.cmd (Reply.st stTimeout)
      (dropSent (isPairing v) (updVn v (fun n => { n with pairing := none }) s))))

/-- Heartbeats and fences (R407–R411, R413): a paired node sends its heartbeat on both paths; one of the pair's epoch marks its path up, and
tells a node that it is fenced; a missed one marks its path down; NODE.FENCE of a later epoch adds or removes its target; TWIN.SOLO goes
SOLO once the twin is fenced, and takes over the copies where asked: it ends once the SPAN entries of all of them are written (R414). -/
def Parts.HeartbeatAndFenceComplete : Prop :=
  (∀ v s, live s = true → (vn s v).pairState ≠ .unpaired → (vn s v).pairState ≠ .solo →
    exec (.heartbeatSend v) s = .next (
      let n := vn s v
      let p : HeartbeatPayload := ⟨n.hbSeq, n.pairEpoch, n.fenceEpoch, mapEpochOf s v, BitVec.ofNat 8 n.pairState.code,
        isFenced s v n.twin, n.fenced, BitVec.ofNat 32 (rowsUnacked s v), false, false⟩
      sendHeartbeat v false p (sendHeartbeat v true p (updVn v (fun n => { n with hbSeq := n.hbSeq + 1 }) s))))
  ∧ (∀ v sender tl p s, live s = true → p.malformed = false → talks s v = true → (assocAt s v sender tl).isSome = true → p.rsv = false →
    (vn s v).pairState ≠ .unpaired → (vn s v).twin = sender → p.pairEpoch = (vn s v).pairEpoch →
    exec (.heartbeat v sender tl p) s = .next (
      let t := updPair v (fun n => if tl then { n with twinUp := true } else { n with fabricUp := true }) s
      if p.youFenced then learnFenced v 3 t else t))
  ∧ (∀ v tl s, live s = true → exec (.heartbeatMiss v tl) s
    = .next (updPair v (fun n => if tl then { n with twinUp := false } else { n with fabricUp := false }) s))
  ∧ (∀ c p s b w, Serves c 16 s b w → p.action.toNat ≤ 1 → p.target.toNat < 0x1000 → (vn w (vnodeOf w c)).fenceEpoch.toNat < p.fenceEpoch.toNat →
    exec (.nodeFence c p) s = .next (complete c (Reply.st stOk) (
      let t := updVn (vnodeOf w c) (fun n => { n with
        fenceEpoch := p.fenceEpoch
        fenceSet := if p.action = 0 then (if p.target ∈ n.fenceSet then n.fenceSet else n.fenceSet ++ [p.target])
          else n.fenceSet.filter (fun x => x ≠ p.target) }) w
      if p.action = 0 ∧ p.target = (vn w (vnodeOf w c)).nodeId then learnFenced (vnodeOf w c) 1 t else t)))
  ∧ (∀ c takeover s b w, Serves c 8 s b w → (vn w (vnodeOf w c)).pairState ≠ .unpaired →
    ((vn w (vnodeOf w c)).pairState ≠ .copying ∨ (vn w (vnodeOf w c)).pairSource = true ∨ takeover = true) →
    isFenced w (vnodeOf w c) (vn w (vnodeOf w c)).twin = true →
    (takeover = false → exec (.twinSolo c takeover) s = .next (wake (complete c (Reply.st stOk) (goSolo (vnodeOf w c) w))))
    ∧ (takeover = true →
      (let fs := twinCopies (goSolo (vnodeOf w c) w) (vnodeOf w c)
       let es := fs.filterMap (fun f => (spanAt (goSolo (vnodeOf w c) w) f).map (spanEntry f))
       let t := fs.foldl (fun s f => takeOver f s) (goSolo (vnodeOf w c) w)
       let t := ((t.seqs.filter (fun q => decide (q.2.vnode = vnodeOf w c) && q.2.copy)).map Prod.fst).foldl (fun s f => takeOverSeq f s) t
       exec (.twinSolo c takeover) s = .next (wake (if es.isEmpty then complete c (Reply.st stOk) t
         else { t with jobs := t.jobs.put t.nextId (.takeover c es), nextId := t.nextId + 1 })))))

/-- The commands and answers about twins: TWIN.STATUS answers 64 bytes (R465); NODE.LOST_LIST answers the entries at or after a number in its
order and drops those of kinds TAIL and MASKS that it returned (R415, R463); a home notes a moved span (R414). -/
def Parts.TwinQueriesComplete : Prop :=
  (∀ c s b w, Serves c 0 s b w → 64 ≤ resultRoom b c → ∃ bs : List Byte, bs.length = 64 ∧
    exec (.twinStatus c) s = .next (complete c (Reply.ofResult 1 bs) w)
    ∧ wordAt bs 0 = word [(48, (vn w (vnodeOf w c)).twin.toNat), (40, (vn w (vnodeOf w c)).pairState.code),
        (32, liveness (vn w (vnodeOf w c))), (0, (vn w (vnodeOf w c)).pairEpoch.toNat)] % 2 ^ 64
    ∧ wordAt bs 1 = word [(32, (vn w (vnodeOf w c)).prevPairEpoch.toNat), (0, rowsUnacked w (vnodeOf w c))] % 2 ^ 64
    ∧ wordAt bs 2 = word [(48, ((vn w (vnodeOf w c)).codeset.map (fun p => p.1.toNat)).getD 0),
        (44, (vn w (vnodeOf w c)).codeSlot.getD 15)] % 2 ^ 64
    ∧ wordAt bs 4 = (if (vn w (vnodeOf w c)).pairState = .copying then
        word [(32, (vn w (vnodeOf w c)).manifest.length), (0, (vn w (vnodeOf w c)).manifestDone.length)] else 0) % 2 ^ 64
    ∧ wordAt bs 5 = 0 ∧ wordAt bs 6 = 0 ∧ wordAt bs 7 = 0 ∧ wordAt bs 3 = (vn w (vnodeOf w c)).fenceEpoch.toNat)
  ∧ (∀ c fromSeq (n : BitVec 13) s b w, Serves c 16 s b w → 1 ≤ n.toNat → n.toNat ≤ 4096 →
    (let out := (sortBy (fun a b => decide ((a.seq - fromSeq).toNat ≤ (b.seq - fromSeq).toNat))
       ((vn w (vnodeOf w c)).lost.filter (fun e => decide ((e.seq - fromSeq).toNat < 2 ^ 31)))).take (min n.toNat (resultRoom w c / 32))
     exec (.nodeLostList c fromSeq n) s = .next (finish c b (.now (Reply.ofResult out.length (out.flatMap lostEntryBytes))
       (updVn (vnodeOf w c) (fun m => { m with lost := m.lost.filter (fun e =>
         !(decide (e ∈ out) && (decide (e.kind = .tail) || decide (e.kind = .masks)))) }) w)))))
  ∧ (∀ h s f, Met h .other s → homeSeq (takePeer h.sender s) h.vnode h.handle = some f →
    exec (.homeUpdate h) s = .next (ackPeer h stOk 0 (setPlace h.vnode h.handle h.span.toNat h.sender (takePeer h.sender s))))

/-- Heartbeats, fencing, and queries served by the twin (R404–R414). -/
def Obligations.TwinAndFenceRowsComplete : Prop :=
  Parts.HeartbeatAndFenceComplete ∧ Parts.TwinQueriesComplete

/-- What a twin sends (R395–R400): records, rows, seals and releases are taken into the copy and acknowledged; a seal of a copy page that is
held and sealed is answered by the comparison of digests (R399). Rows whose write meets an interface-code error are written once more, and after
the second are acknowledged ST_UNCORRECTABLE with nothing of them done (R145). -/
def Obligations.MirrorMessagesComplete : Prop :=
  (∀ h im s, Met h .twin s → AllFill s → exec (.mirrorRecord h (.inr im)) s = .next (
      let r := takeSeqImage h.vnode h.handle im (takePeer h.sender s)
      ackPeer h r.1 0 r.2))
  ∧ (∀ h im s, Met h .twin s → AllFill s →
    (∀ f, copyFor (takePeer h.sender s) h = some f → exec (.mirrorRecord h (.inl im)) s
      = .next (ackPeer h stOk 0 (updSpan f (fun r => updatedBy r im) (takePeer h.sender s))))
    ∧ (copyFor (takePeer h.sender s) h = none → exec (.mirrorRecord h (.inl im)) s = .next (
      let r := newCopy h.vnode h.handle h.span.toNat (recordOf h.vnode h.handle h.span.toNat im) (takePeer h.sender s)
      ackPeer h r.1 0 r.2)))
  ∧ (∀ h rows s, Met h .twin s → AllFill s → h.links = 0 → exec (.mirrorRows h rows) s = .next (takeRows h rows (takePeer h.sender s)))
  ∧ (∀ h rows s, Met h .twin s → AllFill s → h.links ≠ 0 → exec (.mirrorRows h rows) s = .next (
      let u := takeRows h rows (takePeer h.sender s)
      match firstChanged (takePeer h.sender s).mem.cells u.mem.cells with
      | none => u
      | some a => if h.links = 1 then resent a u else ackPeer h stUncorrectable 0 (linkBroken a (takePeer h.sender s))))
  ∧ (∀ h layer head page digest s f t x, Met h .twin s → h.links = 0 → copyFor (takePeer h.sender s) h = some f →
    (let full : Bool := match spanAt (takePeer h.sender s) f with
       | some r => decide (page * r.geo.cap + r.geo.pageCap page ≤ r.fill layer head)
       | none => false
     t = if full then sealPage ⟨f, layer, head, page⟩ { takePeer h.sender s with
       sealQueue := (takePeer h.sender s).sealQueue.filter (fun i => i.page ≠ ⟨f, layer, head, page⟩) } else takePeer h.sender s) →
    pageAt t ⟨f, layer, head, page⟩ = some x →
    ((x.loc = .notCopied ∨ x.loc = .lost ∨ x.loc = .rebuild) → exec (.mirrorSeal h layer head page digest) s = .next (ackPeer h stOk 0
      (updPage ⟨f, layer, head, page⟩ (fun x => { x with isSealed := true, digest := digest }) t)))
    ∧ (x.loc ≠ .notCopied → x.loc ≠ .lost → x.loc ≠ .rebuild → x.isSealed = true → exec (.mirrorSeal h layer head page digest) s
      = .next (ackPeer h (if x.digest = digest then stOk else stReplicaDivergent) 0 t)))
  ∧ (∀ h s f, Met h .twin s → copyFor (takePeer h.sender s) h = some f →
    exec (.mirrorRelease h none) s = .next (ackPeer h stOk 0 (dropCopy f (takePeer h.sender s)))
    ∧ (∀ ps, exec (.mirrorRelease h (some ps)) s = .next (ackPeer h stOk 0 (dropPages f ps (takePeer h.sender s)))))

/-- What the source of a bring-in or handoff sends (R417–R420, R423): the manifest, records, sealed and open pages whose content is right,
rows, and the end of a span, each acknowledged. -/
def Obligations.CopyMessagesComplete : Prop :=
  (∀ h spans s, Met h .copy s → AllFill s →
    (let a := enterManifest h.vnode spans (takePeer h.sender s)
     let t := ackPeer h a.1 0 a.2
     let n := vn (takePeer h.sender s) h.vnode
     (¬(a.1 = stOk ∧ h.viaTwin = true ∧ n.pairState = .copying ∧ n.pairSource = false ∧ n.twin = h.sender) →
       exec (.copyManifest h spans) s = .next t)
     ∧ (a.1 = stOk → h.viaTwin = true → n.pairState = .copying → n.pairSource = false → n.twin = h.sender →
       exec (.copyManifest h spans) s = .next (
         let u := updVn h.vnode (fun n => { n with manifest := spans.map (fun x => (x.1, x.2.toNat)) }) t
         if spans.isEmpty then copyComplete h.vnode u else u))))
  ∧ (∀ h rec s f, Met h .copy s → copyFor (takePeer h.sender s) h = some f →
    exec (.copyRecord h rec) s = .next (ackPeer h stOk 0
      (updSpan f (fun r => if r.arrived then r else recordOf r.vnode r.handle r.span rec) (takePeer h.sender s))))
  ∧ (∀ h layer head page sealed_ content s f x, Met h .copy s → h.links = 0 → copyFor (takePeer h.sender s) h = some f →
    pageAt (takePeer h.sender s) ⟨f, layer, head, page⟩ = some x → x.loc = .notCopied → x.isSealed = sealed_ →
    exec (.copyPage h layer head page sealed_ content) s = .next (
      match rewritePage ⟨f, layer, head, page⟩ content (takePeer h.sender s) with
      | .done t => ackPeer h stOk 0 (if sealed_ then bump .pagesSpareCopied t else t)
      | .differs t => ackPeer h stCheckFail 0 t
      | .noFrame => ackPeer h stNoSpace 0 (takePeer h.sender s)))
  ∧ (∀ h rows s, Met h .copy s → AllFill s → h.links = 0 → exec (.copyRows h rows) s = .next (
      let t := takeRows h rows (takePeer h.sender s)
      if forwardsRows t h then toTwin h.vnode h.handle h.span.toNat (.mirrorRows rows) t else t))
  ∧ (∀ h s, Met h .copy s →
    (let t := ackPeer h stOk 0 (takePeer h.sender s)
     (handoffOf t h.vnode h.handle h.span.toNat = none →
       exec (.copyDone h) s = .next (manifestStep h.vnode h.handle h.span.toNat t))
     ∧ (∀ x, handoffOf t h.vnode h.handle h.span.toNat = some x → x.isSource = false → h.span.toNat ∉ x.done →
       (let y : Handoff := { x with done := x.done ++ [h.span.toNat] }
        let u := updHandoff h.vnode x.id (fun _ => y) t
        exec (.copyDone h) s = .next (if y.spans.all (fun n => decide (n ∈ y.done))
          then tryAccept h.vnode y ((handoffCopies u h.vnode y).foldl (fun s f => mirrorWhole f s) u) else u)))))

/-- Messages between nodes and their acknowledgement (R393, R397): an acknowledgement ends the message that it answers; a message that is
not acknowledged is sent again under the present fence epoch, a copied page as it now stands (R418); the oldest row of the asynchronous queue goes to a twin that is up. -/
def Obligations.PeerDeliveryCompletes : Prop :=
  (∀ h status fill s x, Met h .other s → (takePeer h.sender s).peerSent.at? h.tag = some x → x.msg.dest = h.sender →
    exec (.peerAck h status fill) s = .next (wake (acceptsDue h.vnode (ackOf h.tag x status fill
      (if status = stFenced then learnFenced h.vnode 4 (takePeer h.sender s) else takePeer h.sender s)))))
  ∧ (∀ tag s x, live s = true → s.peerSent.at? tag = some x → peerBlocked s (refreshed s x.msg).vnode (refreshed s x.msg).dest = false →
    ((refreshed s x.msg).twinLink = false ∨ (vn s (refreshed s x.msg).vnode).pairing.isSome = true
      ∨ (vn s (refreshed s x.msg).vnode).twinUp = true) →
    (let m : PeerMsg := { refreshed s x.msg with fenceEpoch := (vn s (refreshed s x.msg).vnode).fenceEpoch }
     ((∀ l k p a b, m.body ≠ .copyPage l k p a b) → exec (.peerResend tag) s
       = .next (handPeer m { s with peerSent := s.peerSent.put tag { x with msg := refreshed s x.msg } }))
     ∧ (∀ l k p a b, m.body = .copyPage l k p a b →
       exec (.peerResend tag) s = .next (sendCopy tag { x with msg := m } l k p s))))
  ∧ (∀ v s h span body rest, live s = true → (vn s v).mirrorQueue = (h, span, body) :: rest → paired s v = true → (vn s v).twinUp = true →
    exec (.asyncMirrorSend v) s = .next (sendPeer v (vn s v).twin true h span body none (updVn v (fun n => { n with mirrorQueue := rest }) s)))

/-- Code groups (R401–R406): TWIN.CODESET gives the node its slot, has a replacement store the fragments of
that slot, and contributes the sealed pages that have no stripe; a member with a data
slot that has contributed nothing for a while fills a stripe with nulls; a contribution is added into the parity frame, times the slot's
coefficient where the node holds Q; a null fills its slot. -/
def Obligations.CodeGroupsComplete : Prop :=
  (∀ c p stripes s b w slot, Serves c 32 s b w → c.links = 0 → badSlot p.slots = none →
    (List.range 10).find? (fun k => decide ((p.slots.take 10)[k]? = some (vn w (vnodeOf w c)).nodeId)) = some slot →
    ((vn w (vnodeOf w c)).codeset = some (p.codesetId, p.slots.take 10) ∨ p.replace = true ∨ holdsCoded w (vnodeOf w c) = false) →
    exec (.twinCodeset c p stripes) s = .next (complete c (Reply.st stOk) (
      let t := updVn (vnodeOf w c) (fun n => { n with codeset := some (p.codesetId, p.slots.take 10), codeSlot := some slot }) w
      let t := if p.replace then stripes.foldl (fun s k => replaceFragment (vnodeOf w c) slot k s) t else t
      (uncontributed t (vnodeOf w c)).foldl (fun s p => contribute p s) t)))
  ∧ (∀ v s cs ns slot, live s = true → (vn s v).codeset = some (cs, ns) → (vn s v).codeSlot = some slot → slot ≤ 7 →
    (vn s v).fenced = false → (vn s v).stripeExhausted = false →
    exec (.codeStripeTimeout v) s = .next (
      let t := sendPeer v (ns.getD 8 0xFFFF) false 0 0 (.codeNull (vn s v).stripeNext slot) none s
      let u := sendPeer v (ns.getD 9 0xFFFF) false 0 0 (.codeNull (vn s v).stripeNext slot) none t
      takeStripe v none s.nextTag t.nextTag u))
  ∧ (∀ h stripe slot fragment s, Met h .code s → AllFill s → h.links = 0 → exec (.codeContrib h stripe slot fragment) s = .next (
      onStripe h stripe slot (fun s =>
        let got : Option (FrameId × State) := match (stripeAt s h.vnode stripe).frame with
          | some f => some (f, s)
          | none => newMapFrame h.vnode .parity s
        match got with
        | none => ackPeer h stNoSpace 0 s
        | some (f, t) =>
          let part := if (vn t h.vnode).codeSlot = some 9 then scaleBytes (slotCoeff slot) (padTo frameBytes fragment)
            else padTo frameBytes fragment
          enterSlot h stripe slot (decide (slot ∈ (stripeAt s h.vnode stripe).filled) && !(decide (slot ∈ (stripeAt s h.vnode stripe).nulls)))
            (updStripe h.vnode stripe (fun x => { x with frame := some f })
              (hbmWrite (frameBase f) (xorBytes (readFrame t f) part) t))) (takePeer h.sender s)))
  ∧ (∀ h stripe slot s, Met h .code s →
    exec (.codeNull h stripe slot) s = .next (onStripe h stripe slot (enterSlot h stripe slot true) (takePeer h.sender s)))

/-! ## Handoffs (R422–R430) -/

/-- Ownership moves (R422–R428): an offer goes out from the source, or is entered at the destination; an acceptable acceptance commits; a
commitment makes the destination win; OWN.ACCEPT and OWN.COMMIT go out again; an offer that is not answered ends ST_TIMEOUT and a commitment
in doubt; OWN.STATUS lists the handoffs (R466). -/
def Parts.HandoffCommandsComplete : Prop :=
  (∀ c p s b w, Serves c 32 s b w → fieldsPass (offerFails p) = true → offerDenied w (vnodeOf w c) p = false →
    (senderOf c = none ∨ p.dest ≠ (vn w (vnodeOf w c)).nodeId) →
    exec (.ownOffer c p) s = .next (offerOut (vnodeOf w c) p (some c) [] w))
  ∧ (∀ c p s b w q n a k, Serves c 32 s b w → fieldsPass (offerFails p) = true → c.origin = .fabric q n a k →
    p.dest = (vn w (vnodeOf w c)).nodeId → exec (.ownOffer c p) s = .next (finish c b (offerIn (vnodeOf w c) n p w)))
  ∧ (∀ c hid fills s b w n x, Serves c c.hdr.paramLen.toNat s b w → senderOf c = some n → handoffAt w (vnodeOf w c) hid = some x →
    x.other = n → x.isSource = true → x.state = .offering → acceptable w (vnodeOf w c) x fills = true →
    exec (.ownAccept c hid fills) s = .next (complete c (Reply.st stOk)
      (sendCommit (vnodeOf w c) x (enterState (vnodeOf w c) hid .committing w))))
  ∧ (∀ c hid s b w n x, Serves c c.hdr.paramLen.toNat s b w → senderOf c = some n → handoffAt w (vnodeOf w c) hid = some x →
    x.other = n → x.isSource = false → x.state = .accepted →
    exec (.ownCommit c hid) s = .next (complete c (Reply.st stOk) (destinationWins (vnodeOf w c) x w)))
  ∧ (∀ v hid s x, live s = true → handoffAt s v hid = some x → (vn s v).fenced = false →
    (x.state = .receiving → exec (.ownResend v hid) s = .next (tryAccept v x s))
    ∧ (x.state = .committing → exec (.ownResend v hid) s = .next (sendCommit v x s)))
  ∧ (∀ c s b w, Serves c 0 s b w →
    (let xs := sortBy (fun a b => decide (a.id.toNat ≤ b.id.toNat)) (vn w (vnodeOf w c)).handoffs
     exec (.ownStatus c) s = .next (finish c b (.now (Reply.ofResult xs.length (xs.flatMap (handoffBytes w))) w))))

/-- How handoffs end (R424–R428): the wait of each state; the decision of OWN.RESOLVE in each role; the handoff that SPAN.MOVE has run for
one span, here or at the node that holds it, to the first candidate that R44 allows; and the answers to the node's own requests, which lie inside
the regions that await them, any other WRITE being counted (R362). -/
def Parts.HandoffEndsComplete : Prop :=
  (∀ v hid s x, live s = true → handoffAt s v hid = some x →
    (∀ c, x.state = .offering → x.cmd = some c → exec (.ownWaitExpiry v hid) s
      = .next (wake (complete c (Reply.st stTimeout) (dropHandoff v hid s))))
    ∧ (x.state = .committing ∨ x.state = .accepted → exec (.ownWaitExpiry v hid) s = .next (wake (inDoubt v x s)))
    ∧ (x.state = .receiving → exec (.ownWaitExpiry v hid) s = .next (wake (if x.acceptSent then inDoubt v x s else abandon v x s))))
  ∧ (∀ c hid s b w x, Serves c 8 s b w → handoffAt w (vnodeOf w c) hid = some x → x.state ≠ .offering → x.state ≠ .receiving →
    (x.isSource = true → exec (.ownResolve c hid 1) s = .next (wake (complete c (Reply.st stOk) (sourceReleases (vnodeOf w c) x w))))
    ∧ (x.isSource = true → exec (.ownResolve c hid 0) s = .next (wake (complete c (Reply.st stOk) (
        let t := dropHandoff (vnodeOf w c) hid w
        match x.cmd with
        | some o => complete o (Reply.st stAborted) t
        | none => t))))
    ∧ (x.isSource = false → x.acceptSent = true → exec (.ownResolve c hid 1) s
        = .next (wake (complete c (Reply.st stOk) (destinationWins (vnodeOf w c) x w))))
    ∧ (x.isSource = false → exec (.ownResolve c hid 0) s
        = .next (wake (complete c (Reply.st stOk) (abandon (vnodeOf w c) x w)))))
  ∧ (∀ c t prefer s b w f u q holder dest, Serves c 32 s b w → t.spanCount = 1 →
    fieldsPass (targetFails t ⟨true, false, false, false, false⟩) = true → findHome c t.handle w = (.found f, u) → u.seqs.at? f = some q →
    q.places.at? t.spanFirst.toNat = some holder → q.closing = false →
    seqBusy u (vnodeOf w c) t.handle = false →
    (∀ left, (candidates (membersOf u c) prefer).filter (fun n => decide (n ≠ holder) && liveIn (membersOf u c) n
        && (decide (n ≠ (vn u (vnodeOf w c)).nodeId) || decide (initialNeed q.geo true ≤ freeForUse u (vnodeOf w c)))) = dest :: left →
      (let p : OfferBlk := ⟨u.nextTag, dest, 1, t.handle, t.spanFirst⟩
       let z := { u with nextTag := u.nextTag + 1 }
       (holder = (vn u (vnodeOf w c)).nodeId → offerDenied u (vnodeOf w c) p = false →
         exec (.spanMove c t prefer) s = .next (offerOut (vnodeOf w c) p (some c) left z))
       ∧ (holder ≠ (vn u (vnodeOf w c)).nodeId → exec (.spanMove c t prefer) s = .next (sendCommand (vnodeOf w c) holder 0x0901
         (offerBytes p.handoffId dest 1 t.handle t.spanFirst.toNat)
         (.move c (vnodeOf w c) holder t.handle t.spanFirst.toNat left) z))))
    ∧ ((candidates (membersOf u c) prefer).filter (fun n => decide (n ≠ holder) && liveIn (membersOf u c) n
        && (decide (n ≠ (vn u (vnodeOf w c)).nodeId) || decide (initialNeed q.geo true ≤ freeForUse u (vnodeOf w c)))) = [] →
      exec (.spanMove c t prefer) s = .next (complete c (Reply.st stNoSpace) u)))
  ∧ (∀ m payload s, live s = true → admits s m opWrite (fun p => decide (p = payload)) = true →
    (∀ id a n, (takeMsg m s).regions.at? m.key = some ⟨.job id, a, n⟩ → (Region.mk (.job id) a n).holds m.addr payload.length = true →
      exec (.write m payload) s = .next (wake (ownAnswer id
        (BitVec.ofNat 16 (bitsOf (wordAt payload 0) 31 16)) { takeMsg m s with regions := (takeMsg m s).regions.del m.key })))
    ∧ (∀ id sub a n, (takeMsg m s).regions.at? m.key = some ⟨.fanout id sub, a, n⟩ →
      (Region.mk (.fanout id sub) a n).holds m.addr payload.length = true → exec (.write m payload) s
      = .next (wake (fanWrite id sub m.key (m.addr - a).toNat payload (takeMsg m s))))
    ∧ (((takeMsg m s).regions.at? m.key).filter (fun r => r.holds m.addr payload.length) = none →
      exec (.write m payload) s = .next (wake (bumpV .writeRejects m.vnode (takeMsg m s)))))

/-- Ownership handoffs, from the offer to their end (R418–R428). -/
def Obligations.HandoffRowsComplete : Prop :=
  Parts.HandoffCommandsComplete ∧ Parts.HandoffEndsComplete

/-! ## Host interface (R431–R484) -/

/-- Mailboxes and registers (R11, R479–R481): the host's word is posted in a mailbox of the host and refused by none other; the host takes
the word of a mailbox of the node; a reset empties it; a register write has the effect of its access code: write-one-to-clear bits are cleared,
read-only and unmapped addresses keep the state. -/
def Obligations.MailboxAndRegisterWrites : Prop :=
  (∀ (m : BitVec 4) (w : BitVec 64) s, live s = true → exec (.mbData m w) s = .next (if fromHost m then postMail m w s else s))
  ∧ (∀ (m : BitVec 4) s, live s = true → fromHost m = false → (mbAt s m).full = true →
    exec (.mbTake m) s = .next (takeMail m (emit (.regRead (mbAt s m).word) s)))
  ∧ (∀ (m : BitVec 4) s, live s = true → fromHost m = false → exec (.mbReset m) s = .next (resetMail m s))
  ∧ (∀ (value : BitVec 64) s, live s = true → exec (.registerWrite .devError value) s
    = .next { s with host := { s.host with devError := s.host.devError &&& ~~~(value.truncate 3) } })
  ∧ (∀ (value : BitVec 64) s, i3cAnswers s = true → exec (.registerWrite .i3cAlert value) s
    = .next { s with mgmt := { s.mgmt with alert := s.mgmt.alert &&& ~~~(value.truncate 8) } })
  ∧ (∀ (value : BitVec 64) s, live s = true →
    exec (.registerWrite .apertureWindow value) s = .next { s with host := { s.host with apertureWindow := value.truncate 11 } }
    ∧ exec (.registerWrite .syncSetValue value) s = .next { s with sync := { s.sync with setValue := value } }
    ∧ (∀ ring blk, exec (.registerWrite (.adminBlock ring blk) value) s
      = .next { s with host := { s.host with adminBlocks := s.host.adminBlocks.put ring blk } })
    ∧ (∀ m, exec (.registerWrite (.mbStatus m) value) s = .next (writeMbStatus m value s))
    ∧ (∀ v on, exec (.registerWrite (.msixEntry v on) value) s = .next (setMsix v.toNat on s)))
  ∧ (∀ (value : BitVec 64) x s, exec (.registerWrite (.readOnly x) value) s = .next s)
  ∧ (∀ (value : BitVec 64) x s, exec (.registerWrite (.unmapped x) value) s = .next s)

/-- Rings (R467–R476): the admin rings are enabled together where their blocks keep their rules; a ring is created from DISABLED, and
destroyed once its commands are done; a doorbell moves HOST and fetches the packets, or releases consumed records; coalesced records raise
their vector; a tag is looked up (R478). -/
def Obligations.RingCommandsComplete : Prop :=
  (∀ (value : BitVec 64) s p0 p1, live s = true → s.pw.fwState = 2 → value.getLsbD 0 = true → s.host.adminBlocks.at? 1 = some p1 →
    adminOk s 1 = true → resultRingOk s p1 = true → s.host.adminBlocks.at? 0 = some p0 → adminOk (createRing p1 s) 0 = true →
    resultRingOk (createRing p1 s) p0 = true →
    exec (.adminEnable value) s = .next (createRing p0 (createRing p1 s)))
  ∧ (∀ c p s b w, Serves c 64 s b w → fieldsPass (ringBlkFails p) = true → 2 ≤ p.ringId.toNat → (ringAt w p.ringId).state = .disabled →
    resultRingOk w p = true → exec (.nodeRingCreate c p) s = .next (complete c (Reply.st stOk) (createRing p w)))
  ∧ (∀ c (ring : BitVec 9) s b w, Serves c 8 s b w → 2 ≤ ring.toNat → (ringAt w ring).state ≠ .disabled → (ringAt w ring).isResult = false →
    exec (.nodeRingDestroy c ring) s = .next (settle (updRing ring (fun x =>
      { x with fetched := [], headWaiting := false, destroying := some c }) w)))
  ∧ (∀ (ring : BitVec 9) (value : BitVec 32) f s, live s = true → (ringAt s ring).state = .active → (ringAt s ring).isResult = false →
    (ringAt s ring).destroying = none → value ≠ (ringAt s ring).host → (value - (ringAt s ring).host).toNat ≤ (ringAt s ring).size →
    f.failed = false → exec (.ringDoorbell ring value f) s = .next (
      let t := fetchPackets ring f.packets (updRing ring (fun x => { x with host := value }) (notify (BitVec.ofNat 4 (ring.toNat % 8)) 0 s))
      emit (.shadow ring (ringAt s ring).shadow (ringAt t ring).node) t))
  ∧ (∀ (ring : BitVec 9) (value : BitVec 32) f s, live s = true → (ringAt s ring).state = .active → (ringAt s ring).isResult = true →
    value ≠ (ringAt s ring).host → (value - (ringAt s ring).host).toNat ≤ (ringAt s ring).size →
    exec (.ringDoorbell ring value f) s = .next (updRing ring (fun x => { x with records := x.records.filter (fun r => !(consumed r.index value)) })
      (updRing ring (fun x => { x with host := value }) (notify (BitVec.ofNat 4 (ring.toNat % 8)) 0 s))))
  ∧ (∀ (ring : BitVec 9) s, live s = true → (ringAt s ring).isResult = true → 0 < (ringAt s ring).unsignalled →
    exec (.coalesceExpiry ring) s = .next (raise (ringAt s ring).msix (updRing ring (fun x => { x with unsignalled := 0 }) s)))
  ∧ (∀ (ring : BitVec 9) tag s, live s = true → (ringAt s ring).isResult = false →
    exec (.peekTag ring tag) s = .next (
      let t := updRing ring (fun x => { x with peekTag := tag }) s
      emit (.peekReply ring (peekReplyOf t ring tag)) t))

/-- Admission (R442–R445, R473, R474, R505): the command at the head of a ring whose header passes and whose wait holds is admitted, and its
event is consumed; a command of a message, as its 64 bytes spell it (R440), is checked and admitted behind those of its queue pair that wait, with the knobs of its
message; one whose map epoch differs from its message's is refused, or answered ST_FENCED by a fenced node (R342, R375). A function-level reset drops the
host's rings and interrupts (R433). -/
def Obligations.AdmissionCompletes : Prop :=
  (∀ (ring : BitVec 9) pf s h rest, live s = true → (ringAt s ring).fetched = h :: rest → (ringAt s ring).isResult = false →
    (ringAt s ring).headWaiting = false → fenceOpen s ring = false → unreserved (ringAt s (ringAt s ring).resultRing) ≠ 0 →
    (ringAt s ring).headReady = false → tagBusy s ring h.tag = false → headerCheck s ⟨.host ring, h, 0⟩ = none → headerWaitHolds s h = true →
    exec (.commandAdmit ring pf) s = .next (admitFetched ring ⟨.host ring, h, 0⟩ (if h.paramRef then pf else none)
      (if h.waitValid then passWait h.waitObj s else s)))
  ∧ (∀ (ring : BitVec 9) pf s h rest r, live s = true → (ringAt s ring).fetched = h :: rest → (ringAt s ring).isResult = false →
    (ringAt s ring).headWaiting = false → fenceOpen s ring = false → unreserved (ringAt s (ringAt s ring).resultRing) ≠ 0 →
    (ringAt s ring).headReady = false → tagBusy s ring h.tag = false → headerCheck s ⟨.host ring, h, 0⟩ = some r →
    hostDataRefusal s ⟨.host ring, h, 0⟩ r = false →
    exec (.commandAdmit ring pf) s = .next (settle (refuseNew ⟨.host ring, h, 0⟩ r
      (countRefusal (vnodeOf s ⟨.host ring, h, 0⟩) r (popFetched ring s)))))
  ∧ (∀ m p s, live s = true → admits s m opCommand (fun b => decide (b.take 64 = p.bytes)) = true →
    hasPeer (takeMsg m s) m.vnode m.sender = true →
    ((readCmd p).mapEpoch = m.mapEpoch → (takeMsg m s).host.qpHeld.atD m.qpn [] = [] →
      exec (.command m p) s = .next (settle (admitHeld m.qpn 1 false (msgKnobs s m)
        (let t := takeMsg m s
         { t with host := { t.host with qpHeld := t.host.qpHeld.put m.qpn [(m, readCmd p)] } }))))
    ∧ (∀ x xs, (readCmd p).mapEpoch = m.mapEpoch → (takeMsg m s).host.qpHeld.atD m.qpn [] = x :: xs →
      exec (.command m p) s = .next (
        let t := takeMsg m s
        { t with host := { t.host with qpHeld := t.host.qpHeld.put m.qpn (x :: xs ++ [(m, readCmd p)]) } }))
    ∧ ((readCmd p).mapEpoch ≠ m.mapEpoch → exec (.command m p) s = .next (settle (
        if fenceRefusal (takeMsg m s) ⟨.fabric m.qpn m.sender m.addr m.key, readCmd p, 0⟩
        then refuseNew ⟨.fabric m.qpn m.sender m.addr m.key, readCmd p, 0⟩ (Reply.st stFenced) (bumpV .fencedAnswers m.vnode (takeMsg m s))
        else refuseNew ⟨.fabric m.qpn m.sender m.addr m.key, readCmd p, 0⟩ (Reply.bad 10) (takeMsg m s)))))
  ∧ (∀ s, live s = true → exec .flr s = .next (flrState s))

/-- The aperture, fences and the log: an aperture read outside a sealed tenancy returns the bytes of HBM at the window (R437), or aborts on
an uncorrectable codeword (R295); a write reaches HBM where debug is open and no
sealed page would change (R438, R68); a fence is entered and completes with what it waits for
(R482, R483), or ST_TIMEOUT on its twin; LOG.READ answers the records at or after a number (R489); LOG.COUNTERS answers counters in the order
of their group (R490). -/
def Obligations.ApertureFenceAndLogComplete : Prop :=
  (∀ (offset : BitVec 28) (len : BitVec 13) u s, live s = true → s.mgmt.tenancy ≠ 2 →
    (let a := apertureAddr s offset
     let n := windowLen offset len.toNat
     let k := meetLink u a (applyUpsets u s)
     let r := readRange .normal a n k.2
     (k.1 = true → r.1 = true → exec (.apertureRead offset len u) s
       = .next (emit (.aperture (.data (apertureBytes r.2 a n))) { r.2 with tick := r.2.tick + 1 }))
     ∧ (k.1 = false ∨ r.1 = false → exec (.apertureRead offset len u) s = .next (emit (.aperture .completerAbort) r.2))))
  ∧ (∀ (offset : BitVec 28) bytes u s, live s = true →
    (let a := apertureAddr s offset
     let bs := bytes.take (windowLen offset bytes.length)
     (s.mgmt.tenancy ≠ 2 → s.mgmt.debugLockOpen = true → (isReadOnly s a bs.length = false ∨ hbmRead s a bs.length = bs) →
       exec (.apertureWrite offset bytes u) s = .next (wake (normalWrite a bs u s)))
     ∧ (s.mgmt.tenancy = 2 ∨ s.mgmt.debugLockOpen = false ∨ (isReadOnly s a bs.length = true ∧ hbmRead s a bs.length ≠ bs) →
       exec (.apertureWrite offset bytes u) s = .next (wake (denyAperture offset s)))))
  ∧ (∀ c scopeNode mirror logMark s b w, Serves c 8 s b w →
    exec (.orderFence c scopeNode mirror logMark) s = .next (settle (addJob (.fence c w.work.serial scopeNode mirror logMark) w).2))
  ∧ (∀ job s c serial sc lm, live s = true → s.jobs.at? job = some (.fence c serial sc true lm) → fenceReady s c serial sc false = true →
    fenceReady s c serial sc true = false →
    exec (.orderFenceTimeout job) s = .next (complete c (Reply.st stTimeout) (endJob job s)))
  ∧ (∀ c (fromSeq : BitVec 64) (n : BitVec 13) s b w, Serves c 16 s b w → 1 ≤ n.toNat → n.toNat ≤ 4096 →
    (let rs := takeFitting (resultRoom w c) (((w.log.events.filter (fun e => decide (fromSeq.toNat ≤ e.seq))).take n.toNat).map eventBytes)
     exec (.logRead c fromSeq n) s = .next (finish c b (.now (Reply.ofResult rs.length rs.flatten) w))))
  ∧ (∀ c (group index first count : BitVec 8) s b w, Serves c 8 s b w → groupTable w group.toNat ≠ [] → 1 ≤ count.toNat → count.toNat ≤ 64 →
    first.toNat + count.toNat ≤ (groupTable w group.toNat).length →
    (∀ p ∈ ((groupTable w group.toNat).drop first.toNat).take count.toNat, p.indexOk w index.toNat = true) → 8 * count.toNat ≤ resultRoom b c →
    exec (.logCounters c group index first count) s = .next (complete c (Reply.ofResult count.toNat
      (words64 ((((groupTable w group.toNat).drop first.toNat).take count.toNat).map (fun p => p.value w index.toNat)))) w))

/-! ## Synchronisation (R491–R528) -/

/-- The commands on synchronisation objects (R496, R497, R502, R521–R523, R526), each served: an object is created, destroyed, signalled;
SYNC.WAIT completes at its admission; SYNC.READ answers object records, or ST_DENIED where one is another virtual node's (R527); SYNC.DUMP answers all of them and the waiters, and under FREEZE moves
every deadline; SYNC.SET acts where debug is open, and is counted as refused where not. -/
def Parts.SyncCommandsComplete : Prop :=
  (∀ c p s b w, Serves c 32 s b w → badVector p.msix = false → p.kind.toNat ≤ 1 → (p.kind = 1 → p.initial.toNat ≤ 1) →
    exec (.syncCreate c p) s = .next (finish c b (createObj c p.index
      (freshObj (if p.kind = 0 then .counter else .event) p.msix.toNat p.initial.toNat none) w)))
  ∧ (∀ c index force s b w, Serves c 8 s b w →
    exec (.syncDestroy c index force) s = .next (finish c b (destroyObj c false index force w))
    ∧ exec (.barrierDestroy c index force) s = .next (finish c b (destroyObj c true index force w)))
  ∧ (∀ c s b w, Serves c 0 s b w → c.hdr.signalValid = true →
    exec (.syncSignal c) s = .next (complete c (Reply.st stOk) (signalOrDrop c.hdr.signalObj c.hdr.signalValue.toNat (whoOf w c) w)))
  ∧ (∀ c s b w, Serves c 0 s b w → c.hdr.waitValid = true → exec (.syncWait c) s = .next (complete c (Reply.st stOk) w))
  ∧ (∀ c (first : BitVec 14) (count : BitVec 15) s b w, Serves c 8 s b w → 1 ≤ count.toNat → first.toNat + count.toNat ≤ 16384 →
    (let is := (List.range count.toNat).map (fun k => BitVec.ofNat 14 (first.toNat + k))
     exec (.syncRead c first count) s = .next (finish c b (if is.any (foreignObj w c) then .refuse stDenied w
       else .now (Reply.ofResult count.toNat (is.flatMap (objRecord w))) w))))
  ∧ (∀ c (freezeNs : BitVec 32) s b w, Serves c 8 s b w →
    (let r := Reply.ofResult (16384 + w.sync.waiters.length)
       ((List.range 16384).flatMap (fun k => objRecord w (BitVec.ofNat 14 k)) ++ (waitersByIndex w).flatMap waiterRecord)
     exec (.syncDump c false freezeNs) s = .next (finish c b (.now r w))
     ∧ (debugOpenOf w c = false → exec (.syncDump c true freezeNs) s = .next (complete c (Reply.st stDenied) w))
     ∧ (debugOpenOf w c = true → exec (.syncDump c true freezeNs) s = .next (finish c b (.now r
       (logFrom 0 0x0B07 srcSync [(64, min 300000 freezeNs.toNat / 1000)] (bump .syncFreezes { w with sync := { w.sync with
         waiters := w.sync.waiters.map (fun x => { x with deadline := x.deadline + min 300000 freezeNs.toNat }) } })))))))
  ∧ (∀ c index (action : BitVec 2) (value : BitVec 64) s b w, Serves c 16 s b w → action ≠ 3 →
    (∀ o, debugOpenOf w c = true → objAt w index = some o →
      exec (.syncSet c index action value) s = .next (complete c (Reply.st stOk) (performSet index action.toNat value.toNat o w)))
    ∧ (debugOpenOf w c = false →
      exec (.syncSet c index action value) s = .next (complete c (Reply.st stDenied) (bump .syncSetRefused w))))

/-- The debug registers of the synchronisation unit (R524, R526): SYNC_SEL latches the record of an object; SET_VALUE, CLEAR_OVERRUNS and
ABORT_WAITERS act on it; a read of SYNC_SET_STATUS returns REFUSED and clears it. -/
def Parts.SyncRegistersComplete : Prop :=
  ∀ s, live s = true →
    (∀ index, exec (.syncSel index) s = .next { s with sync := { s.sync with sel := index, snapshot := objRecord s index } })
    ∧ (∀ index, exec (.setValue index) s = .next (setCtrl index 0 false s)
      ∧ exec (.clearOverruns index) s = .next (setCtrl index 1 false s)
      ∧ (∀ r, exec (.abortWaiters index r) s = .next (setCtrl index 2 r s)))
    ∧ exec .syncSetStatus s
      = .next (emit (.regRead (if s.sync.refused then 1 else 0)) { s with sync := { s.sync with refused := false } })

/-- The commands and debug registers of the synchronisation unit (R496–R502, R521–R526). -/
def Obligations.SyncRowsComplete : Prop :=
  Parts.SyncCommandsComplete ∧ Parts.SyncRegistersComplete

/-- Barriers and signals (R507, R510–R517): a barrier is created; an arrival of the open phase is counted, and answers at once under NOWAIT
or waits for the phase; an arrival of a child and a release of the parent act on their barrier; a SIGNAL of the fabric acts on an object of its
own virtual node, and is answered where it gives an address; a wait that expires is logged and ends. -/
def Obligations.BarriersComplete : Prop :=
  (∀ c p s b w, Serves c (32 + 8 * p.childCount.toNat) s b w → badVector p.msix = false → p.childCount.toNat ≤ 16 →
    0 < p.parties.toNat + p.childCount.toNat → (p.root = true → noParent p = true) → badNode p.parent.node = false →
    p.children.any (fun k => badNode k.node) = false → anyEqual p.children = false →
    exec (.barrierCreate c p) s = .next (finish c b (createObj c p.index (freshObj .barrier p.msix.toNat 0
      (some ⟨p.parties.toNat, p.root, p.parent, p.children⟩)) w)))
  ∧ (∀ c index sense s b w o g, Serves c 8 s b w → objAt w index = some o → foreignObj w c index = false → o.kind = .barrier →
    o.failed = false → arrivalPhase o (b2n sense) = some g →
    exec (.barrierArrive c index sense true 0) s = .next (complete c ⟨stOk, 0, none, 0, BitVec.ofNat 64 g, 0, []⟩
      (actBarrier 2 index (countArrival index (whoOf w c) w)))
    ∧ (∀ t : BitVec 32, 1 ≤ t.toNat → t.toNat ≤ 60000000 → w.sync.waiters.length < waiterRoom →
      exec (.barrierArrive c index sense false t) s = .next (
        let z := addWaiter index (whoOf w c) g t.toNat (.arrival c) w
        settle (actBarrier 2 index (countArrival index (whoOf z c) z)))))
  ∧ (∀ m index fromIndex (phase : BitVec 48) s o, live s = true →
    admits s m opSync (syncReads 2 index fromIndex phase.toNat 0 false) = true → objAt (takeMsg m s) index = some o → o.failed = false → o.vnode = m.vnode →
    isFenced (takeMsg m s) m.vnode m.sender = false → o.barrier.isSome = true → (links o).children.any (overLink m fromIndex) = true →
    (arrivalPhase o (phase.toNat % 2)).isSome = true →
    exec (.treeArrive m index fromIndex phase false) s = .next (settle (actBarrier 2 index
      (countArrival index (identity 3 m.qpn.toNat m.sender.toNat fromIndex.toNat) (takeMsg m s)))))
  ∧ (∀ m index fromIndex (phase : BitVec 48) s o, live s = true →
    admits s m opSync (syncReads 3 index fromIndex phase.toNat 0 false) = true → objAt (takeMsg m s) index = some o → o.failed = false → o.vnode = m.vnode →
    isFenced (takeMsg m s) m.vnode m.sender = false → o.barrier.isSome = true → (links o).root = false →
    overLink m fromIndex (links o).parent = true → o.pending = true → phase.toNat = o.value →
    exec (.treeRelease m index fromIndex phase false) s = .next (settle (actBarrier 2 index (completePhase index o (takeMsg m s)))))
  ∧ (∀ m index (value : BitVec 64) tag rsv s, live s = true →
    admits s m opSync (syncReads 1 index 0 value.toNat tag rsv) = true → hasPeer (takeMsg m s) m.vnode m.sender = true →
    signalMsgStatus (takeMsg m s) m index rsv = none →
    exec (.signal m index value tag rsv) s = .next (settle (
      let t := applySignal index value.toNat (identity 2 m.qpn.toNat m.sender.toNat tag.toNat) (takeMsg m s)
      if m.addr = 0 then t else sendReply m.vnode m.qpn m.sender m.addr m.key none (replyBytes t m.vnode tag opSyncSignal (Reply.st stOk)) t)))
  ∧ (∀ waiter s w o, live s = true → s.sync.waiters.find? (fun w => w.id = waiter) = some w → objAt s w.index = some o →
    ∃ payload, exec (.waitTimeout waiter) s = .next (settle (endWaiter w stTimeout
      (logFrom 0 0x0B01 srcSync payload (bump .syncTimeouts (dropWaiter waiter s)))))
      ∧ payload.take 4 = [(16, w.index.toNat), (8, o.kind.code), (64, w.who.toNat), (64, w.value)])

/-! ## Configuration and firmware (R23–R35, R565–R580) -/

/-- Configuration (R574–R580): an image without fault is accepted by `acceptImage`; a profile and items without fault put their values in
force, and their bytes are digested and measured (R26, R542); CFG.READ answers every knob in the order of `allKnobs`, one without a value as a
free value. -/
def Obligations.ConfigurationCompletes : Prop :=
  (∀ c img s b w, live s = true → toWork c s = some (b, w) → imageFault c img = none →
    exec (.cfgImage c img) s = .next (complete c (Reply.st stOk) (acceptImage img w)))
  ∧ (∀ c p s b w, Serves c (8 + 8 * p.itemCount.toNat) s b w → p.items.length = p.itemCount.toNat → p.profile.toNat ≤ 4 →
    itemsFault 72 [] p.items = none → (∀ i ∈ p.items, i.knobId.toNat / 256 ≠ 2) → (profileKnobsOf w p).demoteOk = true →
    ((profileKnobsOf w p).hbmCodeMode = w.knobs.hbmCodeMode ∨ w.everAllocated = false) →
    exec (.cfgProfile c p) s = .next (complete c (Reply.st stOk)
      (noteConfig (profileWord p.profile.toNat p.itemCount.toNat ++ p.items.flatMap itemBytes)
        (putKnobs (profileKnobsOf w p) { w with profile := if p.profile = 0 then w.profile else p.profile.toNat }))))
  ∧ (∀ c s b w, Serves c 0 s b w → exec (.cfgRead c) s = .next (finish c b (.now (Reply.ofResult allKnobs.length
      (profileWord (if w.profile = 0 then 2 else w.profile) allKnobs.length
        ++ (allKnobs.map (fun k => leBytes 8 (word [(48, k.id), (0, (k.get w.knobs).getD ((takeFree w).1 % 2 ^ 32))]))).flatten)) (takeFree w).2)))

/-- The mask boot ROM's loader (R566–R573), before firmware runs: BEGIN starts an image of a length that fits; a chunk in sequence that
brings no manifest is taken with the bytes of the window; an image that is complete and verified starts firmware; ABORT and 10 s of silence end the load;
PING answers its value; the window takes the host's bytes. -/
def Obligations.LoaderCompletes : Prop :=
  (∀ (len : BitVec 32) s, live s = true → wordReserved s 0 = false → s.pw.fwState ≠ fwRunning → 1 ≤ len.toNat → len.toNat ≤ imageMax →
    exec (.begin_ len) s
      = .next (bootAnswer 0 bootBegin resOk 0 0 (setLoad fwLoading (some ⟨len.toNat, 0, [], none⟩) (takeMail 0 s))))
  ∧ (∀ (len : BitVec 21) (offset : BitVec 32) s l, live s = true → wordReserved s 0 = false → s.pw.fwState ≠ fwRunning → s.pw.loader = some l →
    offset.toNat = l.next → l.next + len.toNat ≤ l.len → len.toNat ≤ loadWindow → l.manifest = none →
    exec (.chunk len offset none) s = .next (bootAnswer 0 bootChunk resOk 0 (l.next + len.toNat) (setLoad fwLoading
      (some ⟨l.len, l.next + len.toNat, l.image ++ padTo len.toNat s.pw.window, none⟩) (takeMail 0 s))))
  ∧ (∀ s l m, live s = true → wordReserved s 0 = false → s.pw.fwState ≠ fwRunning → s.pw.loader = some l → l.next = l.len → l.manifest = some m →
    componentFail m l.image true = none → exec .end_ s = .next (bootAnswer 0 bootEnd resOk 0 0 (startFirmware m (takeMail 0 s))))
  ∧ (∀ s, live s = true → s.pw.fwState = fwLoading →
    (wordReserved s 0 = false → exec .abort s = .next (bootAnswer 0 bootAbort resAborted 0 0 (setLoad fwNone none (takeMail 0 s))))
    ∧ exec .loaderIdleTimeout s = .next (bootAnswer 0 bootNotice resAborted 0 0 (setLoad fwNone none s)))
  ∧ (∀ (mb : BitVec 3) (value : BitVec 32) s, live s = true → (mb = 0 ∨ s.pw.fwState = fwRunning) →
    wordReserved s (BitVec.ofNat 4 mb.toNat) = false → exec (.ping mb value) s
      = .next (bootAnswer mb.toNat bootPing resOk 0 value.toNat (takeMail (BitVec.ofNat 4 mb.toNat) s)))
  ∧ (∀ (offset : BitVec 20) bytes s, live s = true → s.pw.fwState ≠ fwRunning → exec (.firmwareLoadWindow offset bytes) s
    = .next { s with pw := { s.pw with window := (putBytes s.pw.window offset.toNat bytes).take loadWindow } })

/-! ## Management, keys and tenancy (R529–R556) -/

/-- The I3C target where it answers (R531): SETDASA to address 0x3A gives the dynamic address; the operator's anchor takes bytes while the
lock is 0; ANCHOR_LOCK set locks. -/
def Parts.I3cTargetCompletes : Prop :=
  ∀ s, i3cAnswers s = true →
    (∀ dyn, exec (.setdasa 0x3A dyn) s = .next { s with mgmt := { s.mgmt with dynAddr := some dyn } })
    ∧ (∀ (a : BitVec 7) dyn, a ≠ 0x3A → exec (.setdasa a dyn) s = .next s)
    ∧ (∀ (offset : BitVec 5) bytes, s.mgmt.anchorLock = false → exec (.operatorAnchor offset bytes) s
      = .next { s with mgmt := { s.mgmt with operatorAnchor := (putBytes s.mgmt.operatorAnchor offset.toNat bytes).take 32 } })
    ∧ (∀ (offset : BitVec 5) bytes, s.mgmt.anchorLock = true → exec (.operatorAnchor offset bytes) s = .next s)
    ∧ (∀ value : BitVec 8, exec (.anchorLock value) s
      = .next (if value.getLsbD 0 then { s with mgmt := { s.mgmt with anchorLock := true } } else s))

/-- Sessions (R533–R535): with firmware running, the anchor locked and the identity known, a well-formed initiation whose credential is good
and whose root is an anchor opens a session of its role in a free slot; a session ends when it closes or idles. -/
def Parts.SessionsComplete : Prop :=
  (∀ ek nonce cred s i, live s = true → s.pw.mgmtMode.toNat < 2 → s.pw.fwState = fwRunning → s.mgmt.anchorLock = true →
    s.mgmt.identityOk = true → freeSession s = some i → ek.length = 1184 → nonce.length = 32 →
    exec (.sessionInit ek nonce cred) s = .next (match credOk s cred (ek ++ nonce), roleOf s cred with
      | true, some role => openSession i role ek nonce cred s
      | _, _ => refuseSession s))
  ∧ (∀ session how s, live s = true → exec (.sessionClose session how) s = .next (endSession session s)
    ∧ exec (.sessionIdleTimeout session) s = .next (endSession session s))

/-- The I3C target and management sessions (R531–R535). -/
def Obligations.ManagementLinkCompletes : Prop :=
  Parts.I3cTargetCompletes ∧ Parts.SessionsComplete

/-- The operations that every role may ask for, and the operator's (R536, R543, R590): each is answered in its session, with its body. -/
def Parts.ManagementReadsComplete : Prop :=
  (∀ r s, Managed r anyRole s →
    (let t := countRecord r.session false s
     exec (.getStatus r) s = .next (mgmtAnswer r stOk (words64 (modeWord t :: (List.range 17).map (slotWord t))) t)
     ∧ exec (.getCerts r) s = .next (mgmtAnswer r stOk (Config.deviceChain ++ padTo 128 Config.provenance) t)
     ∧ (∀ nonce, nonce.length = 32 → exec (.getAttestation r nonce) s = .next (mgmtAnswer r stOk
       (reportBody t nonce ++ identitySign t (ascii "Walgon attestation".toList) (reportBody t nonce)) (bump .attestReports t)))))
  ∧ (∀ r s, Managed r [roleOperator] s →
    (let t := countRecord r.session false s
     (∀ clear, exec (.getTelemetry r clear false) s = .next (mgmtAnswer r stOk (telemetry t)
       (if clear then clearDroop { t with tick := t.tick + 1 } else { t with tick := t.tick + 1 })))
     ∧ (∀ v, v.toNat < vnodeCount t → exec (.readNeighbours r v) s
       = .next (mgmtAnswer r stOk ((vn t v).neighbours.flatMap neighbourBytes) t))
     ∧ (∀ utc : BitVec 64, exec (.setTime r utc) s
       = .next (mgmtAnswer r stOk [] { t with mgmt := { t.mgmt with time := some (utc.toNat, t.pw.uptime) } }))))

/-- The settings of the operator and the tenant (R536, R547, R549): the identity of a virtual node, its peer entries, the anchors and the debug
lock. -/
def Parts.ManagementSettingsComplete : Prop :=
  (∀ r s, Managed r [roleOperator] s →
    (let t := countRecord r.session false s
     (∀ v nodeId pfx fwd, v.toNat < vnodeCount t → badNode nodeId = false →
       (nodeId = (vn t v).nodeId
         ∨ t.fab.qps.any (fun q => decide (vnodeOfQpn t q.1 = v) && decide (q.2.state = .ready)) = false) →
       exec (.setFabricIdentity r v nodeId pfx fwd) s = .next (mgmtAnswer r stOk [] (agreeWithAll v
         (updVn v (fun n => { n with nodeId := nodeId, pfx := pfx, forwarding := fwd }) t))))
     ∧ (∀ v (peer : NodeId) e, v.toNat < vnodeCount t → peer.toNat < 0x1000 →
       exec (.setPeerEntry r v peer e false) s = .next (mgmtAnswer r stOk [] (
         if e.valid then agreeWith v peer (updVn v (fun n => { n with peers := n.peers.put peer e }) t)
         else settle (dropPeerQps v peer (updVn v (fun n => { n with peers := n.peers.del peer }) t)))))
     ∧ (∀ digest, digest.length = 32 → t.mgmt.tenancy ≠ tenSealed → exec (.setTenantAnchor r digest) s
       = .next (mgmtAnswer r stOk [] { t with mgmt := { t.mgmt with tenantAnchor := digest } }))
     ∧ (∀ open_, t.mgmt.tenancy ≠ tenSealed → exec (.debugLock r open_) s
       = .next (mgmtAnswer r stOk [] (setDebugLock open_ t)))))
  ∧ (∀ r s anchors, Managed r anyRole s →
    (let t := countRecord r.session false s
     roleIn t r = (if t.mgmt.tenancy = tenSealed then roleTenant else roleOperator) → anchorsOk anchors = true →
     exec (.setFabricAnchors r anchors) s = .next (mgmtAnswer r stOk [] (setAnchors anchors t))))

/-- Management operations that read and that set (R536–R543, R547). -/
def Obligations.ManagementOperationsComplete : Prop :=
  Parts.ManagementReadsComplete ∧ Parts.ManagementSettingsComplete

/-- Tenancy changes (R536, R545): the tenant seals with its key, flags and anchors while no tenancy is sealed; the operator opens with a key;
either releases as R545 says; each runs the tenant change. -/
def Obligations.TenancyChangesComplete : Prop :=
  (∀ r tk (hd : BitVec 8) anchors s, Managed r [roleTenant] s → tk.length = 32 → hd.toNat ≤ 1 → anchorsOk anchors = true →
    (let t := countRecord r.session false s
     t.mgmt.tenancy ≠ tenSealed → t.mgmt.identityOk = true → allZero t.mgmt.tenantAnchor = false →
     exec (.tenancySeal r tk hd anchors) s = .next (changeFor r tenSealed (some tk) (
       let u := setAnchors anchors (setDebugLock false t)
       { u with mgmt := { u.mgmt with hostDataAllow := decide (hd = 1) } }))))
  ∧ (∀ r tk s, Managed r [roleOperator] s → tk.length = 32 →
    (let t := countRecord r.session false s
     t.mgmt.tenancy ≠ tenSealed → exec (.tenancyOpen r tk) s
       = .next (changeFor r tenOpen (some tk) { t with mgmt := { t.mgmt with hostDataAllow := false } })))
  ∧ (∀ r s, Managed r anyRole s →
    (let t := countRecord r.session false s
     (roleIn t r = roleOperator ∨ t.mgmt.tenancy = tenSealed) → exec (.tenancyRelease r) s
       = .next (changeFor r tenNone none { t with mgmt := { t.mgmt with hostDataAllow := false } })))

/-- Attestation and PCIe security (R542, R544, R548): SPDM answers the measurement blocks asked for, signed; a stream's key is installed and
the stream enters Secure state; a stream that leaves Secure state ends host access to a sealed tenancy and is logged. -/
def Obligations.SpdmAndIdeComplete : Prop :=
  (∀ (first last : BitVec 8) nonce s, live s = true → s.mgmt.identityOk = true → 1 ≤ first.toNat → last.toNat ≤ 8 →
    exec (.spdmRequest first last nonce) s = .next (emit (.spdm (
      let blocks := ((List.range 9).filter (fun b => decide (first.toNat ≤ b) && decide (b ≤ last.toNat))).flatMap (fun b =>
        BitVec.ofNat 8 b :: s.mgmt.meas.getD (b - 1) (zeros 32))
      blocks ++ identitySign s [] (nonce ++ blocks))) s))
  ∧ (∀ (stream : BitVec 4) s, live s = true → stream.toNat ≤ 8 →
    exec (.ideKm stream true) s = .next (
      let t := installKey (4 + stream.toNat) s
      { t with mgmt := { t.mgmt with ide := (t.mgmt.ide ++ [stream]).eraseDups, ideSecure := true } })
    ∧ exec (.ideKm stream false) s = .next (installKey (4 + stream.toNat) s))
  ∧ (∀ (stream : BitVec 4) s, live s = true → stream ∈ s.mgmt.ide →
    (s.mgmt.tenancy = tenSealed → exec (.ideState stream) s = .next (logFrom 0 0x0C08 srcMgmt []
      { s with mgmt := { s.mgmt with ide := s.mgmt.ide.filter (fun x => x ≠ stream), ideSecure := false } }))
    ∧ (s.mgmt.tenancy ≠ tenSealed → exec (.ideState stream) s = .next { s with mgmt := { s.mgmt with
      ide := s.mgmt.ide.filter (fun x => x ≠ stream), ideSecure := !(s.mgmt.ide.filter (fun x => x ≠ stream)).isEmpty } }))

/-! ## Power, clocks, reset and telemetry (R557–R611) -/

/-- Device reset and power-up (R557–R565, R611): every cause of R561 brings the node to the reset state of that cause, a reset pulse below
1 µs none; power-up releases reset with UPTIME_NS at 0, and with TEST_MODE low logs its cause and derives the identity. -/
def Parts.ResetsComplete : Prop :=
  (∀ s, exec .powerOn s = .next (deviceReset causePowerOn { s with pw := { s.pw with causeLatched := false, wpHigh := false } }))
  ∧ (∀ lowNs s, exec (.devResetN lowNs) s = .next (if 1000 ≤ lowNs then deviceReset causePin s else s))
  ∧ (∀ rail s, exec (.supplyReset rail) s = .next (deviceReset causeSupply s))
  ∧ (∀ s, exec .clockLoss s = .next (deviceReset causeClockLoss s))
  ∧ (∀ s, s.pw.fwState ≠ 2 → exec .flashWpAssert s = .next (driveWp false s))
  ∧ (∀ mode puf s, released s = false → (s.pw.thermTrip = false ∨ s.pw.tripClears = true) →
    exec (.powerUp mode true puf) s = .next (releaseReset mode true s)
    ∧ exec (.powerUp mode false puf) s = .next (deriveIdentity puf (interimKeys (bootSessionKeys (logFrom 0 0x0D01 srcMgmt
      ((32, s.pw.cause) :: (if mode = 3 then [(8, 3)] else [])) (extendMeas 0 Config.romDigest (releaseReset mode false s)))))))

/-- The references and the link (R558, R560, R564): the loss of the 156.25 MHz reference takes every port down; the fall of PERST_N or the
loss of the PCIe reference resets the host interface of a live node; their return is noted; firmware gates what is idle. -/
def Parts.ClockEventsComplete : Prop :=
  (∀ s, live s = true → exec .refclk156Loss s = .next { s with
    pw := { s.pw with refclk156 := false }
    fab := { s.fab with ports := s.fab.ports.map (fun p => (p.1, { p.2 with up := false })) } })
  ∧ (∀ s, exec (.perstN true) s = .next { s with pw := { s.pw with perstHigh := true } })
  ∧ (∀ s, live s = true → exec (.perstN false) s = .next (flrState { s with pw := { s.pw with perstHigh := false } })
    ∧ exec .pcieRefclkLoss s = .next (flrState { s with pw := { s.pw with pcieClock := false } }))
  ∧ (∀ s, exec .pcieRefclkReturn s = .next { s with pw := { s.pw with pcieClock := true } })
  ∧ (∀ (core : BitVec 4) s, live s = true →
    (core.toNat < 8 → s.attn.reqs.any (fun r => r.2.pages.any (fun p => decide (p.core = core.toNat))) = false →
      exec (.powerGate true core) s = .next { s with pw := { s.pw with
        gatedEngines := (core.toNat :: s.pw.gatedEngines).eraseDups } })
    ∧ (core ≠ 0 → (8 ≤ core.toNat ∨ (mbAt s core).full = false) →
      exec (.powerGate false core) s = .next { s with pw := { s.pw with gatedCores := (core.toNat :: s.pw.gatedCores).eraseDups } }))

/-- Resets, power-up, clocks and links of the host (R558–R565). -/
def Obligations.ClockAndResetEventsComplete : Prop :=
  Parts.ResetsComplete ∧ Parts.ClockEventsComplete

/-- Brake and power control (R583, R584, R586–R588): a rail below its brake threshold of 94 % starts the brake, with its alert, record and count,
and another reading is only noted; the brake ends with its record and what it held starts; an interval over the cap that it took at its start (R34) acts, one below 95 % of it relaxes, and one between ends the run
of low ones; a temperature steps the clock down, up, or trips. -/
def Obligations.PowerEventsComplete : Prop :=
  (∀ (rail : BitVec 3) mv s, live s = true →
    (let t := updRail rail.toNat (noteReading mv) s
     (s.pw.brake = false → 100 * mv < 94 * railNominal.getD rail.toNat 0 → exec (.brakeEnter rail mv) s
       = .next (bump .brakeEntries (logFrom 0 0x0D04 srcPower [(8, rail.toNat), (16, mv)]
         (setAlert 1 { t with pw := { t.pw with brake := true, brakeHeld := 0 } }))))
     ∧ (s.pw.brake = true ∨ 94 * railNominal.getD rail.toNat 0 ≤ 100 * mv → exec (.brakeEnter rail mv) s = .next t)))
  ∧ (∀ durationUs s, live s = true → s.pw.brake = true →
    exec (.brakeExit durationUs) s = .next (
      let t := { s with pw := { s.pw with brake := false, brakeHeld := 0 } }
      releaseBrake (bumpBy .brakeUs durationUs (logFrom 0 0x0D05 srcPower [(64, durationUs), (64, s.pw.brakeHeld)] t))))
  ∧ (∀ p s, live s = true →
    (let t := { s with pw := { s.pw with means := (p :: s.pw.means).take meansKept, thermalActed := false } }
     let next (u : State) : State := { u with pw := { u.pw with capW := u.knobs.powerCapW } }
     (s.pw.capW < p → exec (.powerInterval p) s = .next (next (overCap p t)))
     ∧ (p ≤ s.pw.capW → 100 * p < 95 * s.pw.capW → exec (.powerInterval p) s = .next (next (underCap t)))
     ∧ (p ≤ s.pw.capW → 95 * s.pw.capW ≤ 100 * p →
       exec (.powerInterval p) s = .next (next { t with pw := { t.pw with lowIntervals := 0 } }))))
  ∧ (∀ temps coolMs s, live s = true →
    (let t := alertTemp { s with pw := { s.pw with temps := temps } }
     let cool := t.hbmStacks.any (fun x => decide (105 ≤ x.2.temp)) = false
     (110 ≤ hottest temps → exec (.nodeTempRead temps coolMs) s = .next (thermalTrip t))
     ∧ (t.hbmStacks.any (fun x => decide (105 ≤ x.2.temp)) = true → exec (.nodeTempRead temps coolMs) s = .next (thermalTrip t))
     ∧ (cool → 105 ≤ hottest temps → hottest temps < 110 →
       exec (.nodeTempRead temps coolMs) s = .next (thermalDown slowest (hottest temps) t))
     ∧ (cool → 95 ≤ hottest temps → hottest temps < 105 → t.pw.thermalActed = false →
       exec (.nodeTempRead temps coolMs) s = .next (thermalDown (min slowest (t.pw.thermalStep + 1)) (hottest temps) t))
     ∧ (cool → hottest temps < 90 → exec (.nodeTempRead temps true) s
       = .next { t with pw := { t.pw with thermalStep := t.pw.thermalStep - 1 } })))

/-- Telemetry (R592, R593): a lane's eye, a pseudo-channel's margins, a rail's droop and a port's optics are kept, and a margin at or below its
limit is noted. -/
def Obligations.TelemetryEventsComplete : Prop :=
  (∀ (lane : BitVec 5) width height s, live s = true → lane.toNat < 20 →
    exec (.eyeScan lane width height) s = .next (noteMargin kindLane lane.toNat 1 height 15 (noteMargin kindLane lane.toNat 0 width 16
      { s with pw := { s.pw with eyes := s.pw.eyes.put lane.toNat ⟨width, height, s.pw.uptime⟩ } })))
  ∧ (∀ (stack : BitVec 3) (pc : BitVec 5) setup hold s, live s = true →
    exec (.hbmMarginScan stack pc setup hold) s = .next (noteMargin kindHbm stack.toNat (2 * pc.toNat + 1) hold 8
      (noteMargin kindHbm stack.toNat (2 * pc.toNat) setup 8 { s with pw := { s.pw with
        hbmMargins := s.pw.hbmMargins.put (stack.toNat, pc.toNat) (setup, hold)
        marginAt := s.pw.marginAt.put stack.toNat s.pw.uptime } })))
  ∧ (∀ (rail : BitVec 3) lowestMv s, live s = true → exec (.droopWindow rail lowestMv) s = .next (updRail rail.toNat (fun x =>
      { noteReading lowestMv x with
        bins := x.bins.upd (droopBin (railNominal.getD rail.toNat 0) lowestMv) 0 (fun n => min (2 ^ 32 - 1) (n + 1)) }) s))
  ∧ (∀ (port : BitVec 5) isPresent rx tx temp low s, live s = true → s.pw.fwState = 2 → portOk s port = true →
    exec (.opticsPoll port isPresent rx tx temp low) s = .next (
      let o : Optics := if isPresent then ⟨true, rx.take 8, tx.take 8, temp⟩ else ⟨false, [], [], 0⟩
      (o.rx.zip (List.range 8)).foldl (fun s x => noteMargin kindOptics port.toNat x.2 x.1 low s)
        { s with pw := { s.pw with optics := s.pw.optics.put port.toNat o } }))

/-! ## The machine as a whole -/

/-- A step takes the command at the front of the queue and answers what `exec` answers on the rest; with an empty queue the node idles: a
live one handles what its part writes have found (R142) and goes on with the map frames that it rebuilds (R296), and UPTIME_NS counts its 40 ns once device reset is released (R559; that an idle step
counts one resolution is the model's choice). -/
def Obligations.StepRunsTheFrontCommand : Prop :=
  (∀ c rest s, s.pending = c :: rest → step s = exec c { s with pending := rest })
  ∧ (∀ s, s.pending = [] → live s = true → step s = .next (countTime (settleMaps (settleUe s))))
  ∧ (∀ s, s.pending = [] → released s = true → (live s = false ∨ (s.hbm.ueDue = [] ∧ s.hbm.mapsDue = [])) →
    step s = .next { s with pw := { s.pw with uptime := s.pw.uptime + 40 } })
  ∧ (∀ s, s.pending = [] → released s = false → step s = .next s)

/-- What device reset leaves (R71, R92, R436, R493, R542, R565): nothing queued, every directory entry invalid, every object index FREE, every
frame FREE, counters and measurement registers zero, DEV_STATUS zero, and the invariant. -/
def Obligations.ResetHoldsTheInvariant : Prop :=
  State.reset.Inv ∧ State.reset.pending = [] ∧ live State.reset = false ∧ devStatus State.reset = 0
  ∧ (∀ bank addr, ((bankAt State.reset bank).cell addr).shadow.valid = false)
  ∧ (∀ i, objAt State.reset i = none) ∧ (∀ f, (frameOf State.reset f).state = .free) ∧ (∀ c ix, counterAt State.reset c ix = 0)
  ∧ State.reset.mgmt.meas = List.replicate 8 (zeros 32) ∧ (∀ a, State.reset.mem.byte a = none)

/-- Every step from a state that holds the invariant gives one that holds it: memory stays in its canonical form, the event log never holds
more than its 65,536 records (R485), counters stay within 64 bits (R92), and MEAS_6 and MEAS_7 stay zero (R542). -/
def Obligations.StepKeepsTheInvariant : Prop := ∀ s t, s.Inv → step s = .next t → t.Inv

/-- No command touches the queue of the commands that wait behind it. -/
def Obligations.ExecKeepsTheQueue : Prop := ∀ i s t, exec i s = .next t → t.pending = s.pending

/-- A node that is down or has stopped serves no command, no message and no event but those of its always-on domain (R436, R561, R565); a
runner encoding that the specification says is never issued stops by name all the same (R149). A stop outlives every row but a device reset
and its release. -/
def Obligations.DeadNodeIgnoresCommands : Prop :=
  (∀ i s, live s = false → i.alwaysOn = false → exec i s = .next s ∨ ∃ op, exec i s = .fault (.runnerEncoding op))
  ∧ (∀ i s t, s.pw.fatal = true → i.resets = false → (∀ mode test puf, i ≠ .powerUp mode test puf) → exec i s = .next t → t.pw.fatal = true)

/-- The header checks of a command come before its wait, and its wait before its work (R445, R501, R504): a command of any verb row whose
header is refused completes with that refusal, counted; one whose wait does not hold waits, or is answered ST_RETRY_AFTER where the waiter
table is full. -/
def Parts.HeaderChecksOfCommands : Prop :=
  ∀ i c s, i.verb? = some c → live s = true → admission s c = none → (i.fills = true → AllFill s) →
    (∀ r, headerCheck s c = some r → exec i s = .next (i.after (
      let u := if hostDataRefusal s c r then noteHostDenied c s else s
      complete c r (countRefusal (vnodeOf s c) r u))))
    ∧ (headerCheck s c = none → headerWaitHolds s c.hdr = false → s.sync.waiters.length < waiterRoom → exec i s = .next (i.after (
      addWaiter c.hdr.waitObj (whoOf s c) c.hdr.waitValue.toNat c.hdr.waitTimeout.toNat (.cmd c) s)))
    ∧ (headerCheck s c = none → headerWaitHolds s c.hdr = false → waiterRoom ≤ s.sync.waiters.length → exec i s = .next (i.after (
      complete c Reply.waiterFull (bump .waiterTableFull s))))

/-- Messages, packets and words with a non-zero reserved field (R10): a PEER message is answered ST_BAD_PARAM with no effect; a PEER
acknowledgement, an ACK, a HELLO and a HEARTBEAT, which nothing answers, have none; a management request is answered ST_BAD_PARAM; and a
boot word is answered BAD_OP, as R569 gives it no code of its own (the model's choice, entry 88). -/
def Parts.ReservedFieldsAreRefused : Prop :=
  (∀ i h cls s, i.peer? = some (h, cls) → live s = true → peerTaken (takePeer h.sender s) h cls = true → h.rsv = true →
    exec i s = .next (i.after (ackPeer h stBadParam 0 (takePeer h.sender s))))
  ∧ (∀ h status fill s, live s = true → peerTaken (takePeer h.sender s) h .other = true → h.rsv = true →
    exec (.peerAck h status fill) s = .next (takePeer h.sender s))
  ∧ (∀ p s, live s = true → p.bth.malformed = false → talks s p.bth.vnode = true →
    associated s p.bth.vnode p.bth.srcNode = true → p.rsv = true → exec (.ack p) s = .next s)
  ∧ (∀ port p s, live s = true → p.rsv = true → exec (.hello port p) s = .next s)
  ∧ (∀ v sender tl p s, live s = true → p.malformed = false → talks s v = true → (assocAt s v sender tl).isSome = true → p.rsv = true →
    exec (.heartbeat v sender tl p) s = .next s)
  ∧ (∀ r clear s, Managed r [roleOperator] s → exec (.getTelemetry r clear true) s
    = .next (mgmtAnswer r stBadParam [] (countRecord r.session false s)))
  ∧ (∀ r v peer e s, Managed r [roleOperator] s → exec (.setPeerEntry r v peer e true) s
    = .next (mgmtAnswer r stBadParam [] (countRecord r.session false s)))
  ∧ (∀ s, live s = true → wordReserved s 0 = true → (let t := takeMail 0 s
    (∀ len, exec (.begin_ len) s = .next (bootAnswer 0 bootBegin resBadOp 0 (nextOffset t) t))
    ∧ (∀ len offset m, exec (.chunk len offset m) s = .next (bootAnswer 0 bootChunk resBadOp 0 (nextOffset t) t))
    ∧ exec .end_ s = .next (bootAnswer 0 bootEnd resBadOp 0 0 t)
    ∧ exec .abort s = .next (bootAnswer 0 bootAbort resBadOp 0 0 t)
    ∧ (∀ value, exec (.ping 0 value) s = .next (bootAnswer 0 bootPing resBadOp 0 value.toNat t))))

/-- A command's header checks come first (R445, R501, R504), and a reserved field that is not zero keeps what carries it from taking effect
(R10). -/
def Obligations.HeaderChecksComeFirst : Prop := Parts.HeaderChecksOfCommands ∧ Parts.ReservedFieldsAreRefused

/-- A management request whose session has a role that may not issue it is answered ST_DENIED and does nothing else (R536); a request that no
session carries does nothing. -/
def Obligations.ManagementRolesAreChecked : Prop :=
  ∀ i r roles s, i.request? = some (r, roles) → live s = true →
    (∀ x, s.mgmt.sessions.at? r.session = some x → x.role ∉ roles →
      exec i s = .next (mgmtAnswer r stDenied [] (countRecord r.session false s)))
    ∧ (s.mgmt.sessions.at? r.session = none → exec i s = .next s)

/-- Knobs change only under the CFG commands, and mode bits and status only under the rows of their owners (R26, R531, R542): outside device
reset, no other row changes the knobs, CONFIGURED, the tenancy, the debug lock, the anchors, the anchor lock, FW_STATE, FATAL or a measurement
register. -/
def Obligations.ModesChangeOnlyByTheirRows : Prop :=
  ∀ i s t, exec i s = .next t → i.resets = false →
    (t.knobs ≠ s.knobs → ∃ c, (∃ img, i = .cfgImage c img) ∨ ∃ p, i = .cfgProfile c p)
    ∧ (t.configured ≠ s.configured → ∃ c img, i = .cfgImage c img)
    ∧ (t.mgmt.tenancy ≠ s.mgmt.tenancy → i.tenancy = true)
    ∧ (t.mgmt.debugLockOpen ≠ s.mgmt.debugLockOpen → (∃ r o, i = .debugLock r o) ∨ i.tenancy = true)
    ∧ (t.mgmt.tenantAnchor ≠ s.mgmt.tenantAnchor → ∃ r d, i = .setTenantAnchor r d)
    ∧ (t.mgmt.operatorAnchor ≠ s.mgmt.operatorAnchor → ∃ o bs, i = .operatorAnchor o bs)
    ∧ (t.mgmt.anchorLock ≠ s.mgmt.anchorLock → ∃ v, i = .anchorLock v)
    ∧ (t.pw.fwState ≠ s.pw.fwState → (∃ n, i = .begin_ n) ∨ (∃ n o m, i = .chunk n o m) ∨ i = .end_
      ∨ i = .abort ∨ i = .loaderIdleTimeout)
    ∧ (t.pw.fatal ≠ s.pw.fatal → ∃ mode test puf, i = .powerUp mode test puf)
    ∧ (t.mgmt.meas ≠ s.mgmt.meas → i.tenancy = true ∨ i = .end_ ∨ (∃ mode test puf, i = .powerUp mode test puf)
        ∨ ∃ c, (∃ img, i = .cfgImage c img) ∨ ∃ p, i = .cfgProfile c p)

/-! ## Rules of the shared operations -/

/-- R498: what a signal does to a counter and an event, that a barrier takes none, when a wait holds for each kind, which WAIT_VALUE each
allows, and that a wait that holds when it is first evaluated passes at once and holds no waiter entry. -/
def Obligations.SignalsAndWaitConditions : Prop :=
  (∀ i o n who s, objAt s i = some o → o.kind = .counter → ∃ x, objAt (applySignal i n who s) i = some x ∧ x.kind = .counter
    ∧ x.value = (o.value + n) % 2 ^ 64 ∧ ∀ w ∈ (applySignal i n who s).sync.waiters, w.index = i → waitHolds x w.value = false)
  ∧ (∀ i o n who s, objAt s i = some o → o.kind = .event → o.value = 0 →
    (waitersOf s i = [] → ∃ x, objAt (applySignal i n who s) i = some x ∧ x.value = 1 ∧ x.overruns = o.overruns)
    ∧ (∀ w r, waitersOf s i = w :: r → ∃ x, objAt (applySignal i n who s) i = some x ∧ x.value = 0 ∧ x.overruns = o.overruns
      ∧ (applySignal i n who s).sync.waiters = s.sync.waiters.filter (fun y => y.id ≠ w.id)))
  ∧ (∀ i o n who s, objAt s i = some o → o.kind = .event → o.value = 1 → ∃ x, objAt (applySignal i n who s) i = some x ∧ x.value = 1
    ∧ x.overruns = min 0xFFFF (o.overruns + 1)
    ∧ counterAt (applySignal i n who s) .eventOverruns 0 = min (2 ^ 64 - 1) (counterAt s .eventOverruns 0 + 1)
    ∧ (applySignal i n who s).sync.waiters = s.sync.waiters)
  ∧ (∀ (h : CmdHeader) s o, h.signalValid = true → objAt s h.signalObj = some o → o.kind = .barrier →
    (h.waitValid = true → (objAt s h.waitObj).isSome = true) → syncFieldsBad s h = some (Reply.bad 20))
  ∧ (∀ (o : SyncObj) w, o.kind = .counter → w < 2 ^ 64 →
    (waitHolds o w = true ↔ (((o.value : Int) - (w : Int)) % 2 ^ 64).toNat < 2 ^ 63))
  ∧ (∀ (o : SyncObj) w, o.kind = .event → (waitHolds o w = true ↔ o.value = 1))
  ∧ (∀ (o : SyncObj) w, o.kind = .barrier → w < 2 ^ 48 →
    (waitHolds o w = true ↔ (((o.value : Int) - (w : Int)) % 2 ^ 48).toNat < 2 ^ 47))
  ∧ (∀ (h : CmdHeader) s o, h.waitValid = true → h.signalValid = false → 1 ≤ h.waitTimeout.toNat → h.waitTimeout.toNat ≤ 60000000 →
    objAt s h.waitObj = some o → o.failed = false →
    (syncFieldsBad s h = none ↔ o.kind = .counter ∨ (o.kind = .event ∧ h.waitValue = 0) ∨ (o.kind = .barrier ∧ h.waitValue.toNat < 2 ^ 48)))
  ∧ (∀ c s o, admission s c = none → headerCheck s c = none → c.hdr.waitValid = true → objAt s c.hdr.waitObj = some o →
    waitHolds o c.hdr.waitValue.toNat = true →
    ∃ b w x, toWork c s = some (b, w) ∧ w.sync.waiters = s.sync.waiters ∧ objAt w c.hdr.waitObj = some x
      ∧ x.value = if o.kind = .event then 0 else o.value)

/-- R436: the fields of DEV_STATUS, its reserved fields zero and every field zero at reset; and only a device reset, which its release ends,
leaves FATAL. -/
def Obligations.DevStatusFields : Prop :=
  (∀ s, s.pw.fwState < 16 → devStatus s < 2 ^ 16 ∧ devStatus s % 16 = s.pw.fwState ∧ devStatus s / 16 % 64 = 0
    ∧ (devStatus s).testBit 10 = s.configured ∧ (devStatus s).testBit 11 = decide (s.mgmt.tenancy = 2)
    ∧ (devStatus s).testBit 12 = s.mgmt.debugLockOpen ∧ (devStatus s).testBit 13 = s.vnodes.any (fun n => n.2.fenced)
    ∧ (devStatus s).testBit 14 = s.pw.brake ∧ (devStatus s).testBit 15 = s.pw.fatal)
  ∧ devStatus State.reset = 0
  ∧ (∀ i s t, s.pw.fatal = true → exec i s = .next t → t.pw.fatal = false → i.resets = true ∨ ∃ mode test puf, i = .powerUp mode test puf)

/-- R487: a full log discards its oldest record for each new one, so that every record produced is stored; the discard counts in the new
record's DROPPED_BEFORE and in EVENTS_DROPPED, and sets EVENTS_LOST; a tenant change discards every record, and EVENT_SEQ continues. -/
def Obligations.FullLogDropsItsOldest : Prop :=
  (∀ v code source payload s, ∃ e, e.code = code ∧ e.source = source ∧ e.seq = s.log.nextSeq ∧ e.timeNs = s.pw.uptime
    ∧ (logFrom v code source payload s).log.nextSeq = s.log.nextSeq + 1 ∧ (logFrom v code source payload s).log.dropped = 0
    ∧ (s.log.events.length < logRoom → (logFrom v code source payload s).log.events = s.log.events ++ [e]
      ∧ e.droppedBefore = min (2 ^ 32 - 1) s.log.dropped
      ∧ counterAt (logFrom v code source payload s) .eventsDropped 0 = counterAt s .eventsDropped 0)
    ∧ (logRoom ≤ s.log.events.length → (logFrom v code source payload s).log.events = s.log.events.drop 1 ++ [e]
      ∧ e.droppedBefore = min (2 ^ 32 - 1) (s.log.dropped + 1)
      ∧ counterAt (logFrom v code source payload s) .eventsDropped 0 = min (2 ^ 64 - 1) (counterAt s .eventsDropped 0 + 1)
      ∧ (logFrom v code source payload s).host.devError.getLsbD 2 = true))
  ∧ (∀ new tk s, ∃ e, (enterTenancy new tk (forgetLog s)).log.events = [e] ∧ e.seq = s.log.nextSeq
    ∧ e.droppedBefore = min (2 ^ 32 - 1) (s.log.dropped + s.log.events.length))

/-- Packets, command headers and frames as bytes (R7, R8, R337–R341, R349, R364, R368, R407, R440, R515): what is read from the bytes of a packet,
of each of its payloads, of a command's header, of a SYNC message and of a frame is what they were built from, with and without a tag. -/
def Parts.PacketsReadAsWritten : Prop :=
  (∀ h : MsgHead, h.rsv = false → readHead (headBytes h) = h)
  ∧ (∀ p : DataPkt, p.bth.malformed = false → (p.head.isSome = true ↔ p.bth.pktIndex = 0) → (∀ h, p.head = some h → h.rsv = false) →
    p.payload.length < 2 ^ 16 → readData p.bth.vnode p.ce (dataBytes p) = p)
  ∧ (∀ p : AckPkt, p.bth.malformed = false → p.bth.psn = 0 → p.bth.msn = 0 → p.blocks.length < 16 → p.rsv = false →
    readAck p.bth.vnode (ackPktBytes p) = p)
  ∧ (∀ p : HelloPayload, p.rsv = false → readHello (helloBytes p) = p)
  ∧ (∀ p : HeartbeatPayload, p.rsv = false → p.malformed = false → readHeartbeat (heartbeatBytes p) = p)
  ∧ (∀ h : CmdHeader, h.rsv = [] → (cmdBytes h).length = 64 ∧ readCmd ⟨cmdBytes h, []⟩ = h)
  ∧ (∀ index fromIndex value tag, value < 2 ^ 64 → syncReads 1 index 0 value tag false (syncBytes 1 index 0 value tag) = true
    ∧ (value < 2 ^ 48 → syncReads 2 index fromIndex value 0 false (syncBytes 2 index fromIndex value 0) = true
      ∧ syncReads 3 index fromIndex value 0 false (syncBytes 3 index fromIndex value 0) = true))
  ∧ (∀ (h : FrameHead) mac sender an pn n content icv, icv.length = 16 →
    etherContent (etherFrame h (secTag mac sender an pn) n (content ++ icv)) = content)
  ∧ (∀ (h : FrameHead) pfx dst sender an pn key content, h.srcIp.length = 16 → h.dstIp = ipAddress pfx dst →
    frameKindOf pfx (sealedFrame h sender an pn key content)
      = .macsec true dst (BitVec.ofNat 16 (0xC000 + h.entropy.toNat * 256 + h.srcQpn.toNat % 256)) h.udpPort an sender
        (BitVec.ofNat 32 (pn.toNat % 2 ^ 32)))
  ∧ (∀ pfx s port, frameKindOf pfx (helloFrame s port) = .hello)

/-- A message leaves as packets (R356): ceil(MSG_LEN / 4,096) of them, or one for an empty message, which together hold its payload in order; the
first alone carries the message header, all but the last hold 4,096 bytes, the last alone is marked so, and each has the message's MSN and its
own index. -/
def Parts.MessagesLeaveAsPackets : Prop :=
  ∀ (h : MsgHead) msn tw payload,
    (packetsOf h msn tw payload).length = max 1 ((payload.length + 4095) / 4096)
    ∧ (packetsOf h msn tw payload).flatMap TxData.payload = payload
    ∧ (∀ k d, (packetsOf h msn tw payload)[k]? = some d → d.index = k ∧ d.msn = msn ∧ d.viaTwin = tw
      ∧ d.head = (if k = 0 then some h else none) ∧ d.last = decide (k + 1 = (packetsOf h msn tw payload).length)
      ∧ (d.last = false → d.payload.length = 4096) ∧ d.payload.length ≤ 4096)

/-- The 32-byte header of a PEER message (R391): its operation, the pair epoch, the fence epoch, the handle, the span and the tag. -/
def Parts.PeerHeaderWords : Prop :=
  ∀ m : PeerMsg, (peerHeader m).length = 32 ∧ (peerBytes m).take 32 = peerHeader m
    ∧ wordAt (peerHeader m) 0 = peerOp m.body * 2 ^ 56 + m.pairEpoch.toNat ∧ wordAt (peerHeader m) 1 = m.fenceEpoch.toNat
    ∧ wordAt (peerHeader m) 2 = m.handle.toNat ∧ wordAt (peerHeader m) 3 = m.span.toNat * 2 ^ 40 + m.tag.toNat

/-- A runner command's 128-bit word (R148, R149): the command is read back from the word of its fields, meeting no register error; and opcodes 12 to 15 spell none. -/
def Parts.RunnerWordsReadAsWritten : Prop :=
  (∀ op k, readRnWord (rnWordOf op k) = { k with regs := [] } ∧ rnOpcode (rnWordOf op k) = op)
  ∧ (∀ stack (op : BitVec 4) k rows u, decodeRnWord stack (rnWordOf op k) rows u = none ↔ 12 ≤ op.toNat)
  ∧ (∀ stack k rows u, decodeRnWord stack (rnWordOf 1 k) rows u = some (.rnQload stack { k with regs := u.regs } rows)
    ∧ decodeRnWord stack (rnWordOf 3 k) rows u = some (.rnScore stack { k with regs := [] } u)
    ∧ decodeRnWord stack (rnWordOf 7 k) rows u = some (.rnFill stack { k with regs := [] } u))

/-- Reads of registers (R9, R11, R434–R437, R470, R478–R480, R524, R531): each returns what the state holds, reserved and write-only fields
read as zero, and a read changes nothing but what is read to clear. -/
def Parts.RegistersReadAsHeld : Prop :=
  (∀ s, (barRead s 0x08).toNat = devStatus s % 2 ^ 64 ∧ barRead s 0x10 = s.host.devError.zeroExtend 64
    ∧ (barRead s 0x20).toNat = s.pw.uptime % 2 ^ 64 ∧ (barRead s 0x3000).toNat = s.host.apertureWindow.toNat)
  ∧ (∀ s (m : BitVec 4), (mbAt s m).full = false → barRead s (0x2000 + 64 * m.toNat) = 0)
  ∧ (∀ s (m : BitVec 4), (mbAt s m).full = true → barRead s (0x2000 + 64 * m.toNat) = (mbAt s m).word)
  ∧ (∀ s (m : BitVec 4), (barRead s (0x2000 + 64 * m.toNat + 0x10)).toNat / 2 ^ 11 = 0
    ∧ (barRead s (0x2000 + 64 * m.toNat + 0x10)).toNat / 2 ^ 4 % 16 = 0)
  ∧ (∀ s (ring : BitVec 9), barRead s (0x100000 + 0x1000 * ring.toNat) = 0 ∧ barRead s (0x100000 + 0x1000 * ring.toNat + 0x10) = 0)
  ∧ (∀ s (m : BitVec 4), fromHost m = false → afterBarRead s (0x2000 + 64 * m.toNat + 8) = takeMail m s)
  ∧ (∀ s offset, (offset < 0x2000 ∨ 0x2400 ≤ offset) → offset ≠ 0x400050 → afterBarRead s offset = s)
  ∧ (∀ s, (afterBarRead s 0x400050).sync.refused = false)
  ∧ (∀ s i, 0x10 ≤ i → i < 0x30 → i3cByte s i = s.mgmt.operatorAnchor.getD (i - 0x10) 0)
  ∧ (∀ s, i3cByte s 0x08 = s.mgmt.alert ∧ i3cByte s 0x09 = 0)

/-- The words of a status reply (R446): 32 bytes, with the command's tag and opcode, the status, the node, the map epoch, the retry hint only
with ST_RETRY_AFTER and saturated, DETAIL, and the two result words. -/
def Parts.ReplyWords : Prop :=
  ∀ s v (tag : BitVec 32) (opcode : BitVec 16) (r : Reply),
    (replyBytes s v tag opcode r).length = 32
    ∧ wordAt (replyBytes s v tag opcode r) 0 = tag.toNat * 2 ^ 32 + r.status.toNat * 2 ^ 16 + opcode.toNat
    ∧ wordAt (replyBytes s v tag opcode r) 1 = (r.node.getD (vn s v).nodeId).toNat * 2 ^ 48 + (mapEpochOf s v).toNat * 2 ^ 32
        + (if r.status = stRetryAfter then min 65535 r.hint else 0) * 2 ^ 16 + r.detail.toNat
    ∧ wordAt (replyBytes s v tag opcode r) 2 = r.r0.toNat ∧ wordAt (replyBytes s v tag opcode r) 3 = r.r1.toNat

/-- Words as the specification lays them out (R7–R11, R148, R337–R341, R356, R391, R440, R446): a status reply's, a packet's, a message's packets, a
PEER message's header, a runner command's, and those that a read of a register returns. -/
def Obligations.StatusReplyWords : Prop :=
  Parts.ReplyWords ∧ Parts.PacketsReadAsWritten ∧ Parts.MessagesLeaveAsPackets ∧ Parts.PeerHeaderWords ∧ Parts.RunnerWordsReadAsWritten ∧ Parts.RegistersReadAsHeld

/-- An allocation in a pseudo-channel that has a FREE frame takes a FREE frame there, whichever firmware chooses (R52): its generation
advances, RN_FILL clears it (R64, R146), and no other frame and no byte outside it changes. -/
def Parts.AllocationsTakeFreeFrames : Prop :=
  ∀ pc v st use s f t, pc < 256 → pcHasFree s pc = true → allocIn pc v st use s = (f, t) →
    framePc f = pc ∧ (frameOf s f).state = .free ∧ (frameOf t f).state = st ∧ (frameOf t f).use = use ∧ (frameOf t f).vnode = v
    ∧ (frameOf t f).gen = (frameOf s f).gen + 1 ∧ (∀ g, g ≠ f → frameOf t g = frameOf s g)
    ∧ (∀ a, frameBase f ≤ a → a < frameBase f + frameBytes → t.mem.byte a = some 0)
    ∧ (∀ a, a < frameBase f ∨ frameBase f + frameBytes ≤ a → t.mem.byte a = s.mem.byte a)

/-- A command or APPEND whose frame cannot be filled now, as its stack is at throttle level 3, is taken in and held (R146, R167). -/
def Parts.FillsWait : Prop :=
  (∀ c p prefer s, live s = true → exec (.spanOpen c p prefer) s = match spanOpenRow c p prefer s with
    | .next t => if fillWaits s t then holdCmd c (.spanOpen c p prefer) s else .next (settleUe t)
    | r => r)
  ∧ (∀ c p s, live s = true → exec (.spanAlias c p) s = match spanAliasRow c p s with
    | .next t => if fillWaits s t then holdCmd c (.spanAlias c p) s else .next (settleUe t)
    | r => r)
  ∧ (∀ m payload u s, live s = true → exec (.append m payload u) s = match appendMsgRow m payload u s with
    | .next t => if fillWaits s t then onMsg m opAppend (fun p => decide (p = payload)) (fun t => defer .fill (.append m payload u) (msgKnobs s m) (applyDirUpsets u t)) s
      else .next (settleUe t)
    | r => r)

/-- An allocation takes a FREE frame, and what needs one waits while it cannot be filled (R52, R64, R146, R167). -/
def Obligations.AllocationTakesAFreeFrame : Prop := Parts.AllocationsTakeFreeFrames ∧ Parts.FillsWait

/-- An empty row in a merge (R230–R232): the other input's maximum stands, the empty row's factor is exactly zero and the other's exactly one,
nothing absorbs, and the ADD fields are still summed; a merged row is empty only where both inputs are. -/
def Obligations.EmptyRowsMergeToNothing : Prop :=
  (∀ tick salt a b, isEmptyRow a = true → F32.isFin b.m = true → (mergeRow tick salt a b).2 = 0 ∧ (mergeRow tick salt a b).1 =
    ⟨b.m, f32add (f32mul 0 a.l) (f32mul f32One b.l), f32add a.scoreRef b.scoreRef, f32add a.scoreSum b.scoreSum,
      f32add (f32mul 0 a.outSum) (f32mul f32One b.outSum), f32add a.scoreAbs b.scoreAbs, f32add (f32mul 0 a.outAbs) (f32mul f32One b.outAbs),
      f32add (f32mul 0 a.outRef) (f32mul f32One b.outRef), min (2 ^ 64 - 1) (a.unmasked + b.unmasked),
      (a.out.zip b.out).map (fun p => f32add (f32mul 0 p.1) (f32mul f32One p.2))⟩)
  ∧ (∀ tick salt a b, F32.isFin a.m = true → isEmptyRow b = true → (mergeRow tick salt a b).2 = 0 ∧ (mergeRow tick salt a b).1 =
    ⟨a.m, f32add (f32mul f32One a.l) (f32mul 0 b.l), f32add a.scoreRef b.scoreRef, f32add a.scoreSum b.scoreSum,
      f32add (f32mul f32One a.outSum) (f32mul 0 b.outSum), f32add a.scoreAbs b.scoreAbs, f32add (f32mul f32One a.outAbs) (f32mul 0 b.outAbs),
      f32add (f32mul f32One a.outRef) (f32mul 0 b.outRef), min (2 ^ 64 - 1) (a.unmasked + b.unmasked),
      (a.out.zip b.out).map (fun p => f32add (f32mul f32One p.1) (f32mul 0 p.2))⟩)
  ∧ (∀ tick salt a b, isEmptyRow a = true ∨ F32.isFin a.m = true → isEmptyRow b = true ∨ F32.isFin b.m = true →
    (isEmptyRow (mergeRow tick salt a b).1 = true ↔ isEmptyRow a = true ∧ isEmptyRow b = true))
  ∧ (∀ x, F32.isFin x = true → F32.rat (f32mul 0 x) = 0)

/-! ## Frames -/

/-- The rows of the synchronisation unit touch its objects and waiters, the answers and queues of commands, the queue pairs, counters and the
log; memory, frames, the directory, every record, the tiers, the masks, requests in service, knobs and power stay as they are (R491–R528).
The commands that only report (R457, R489, R490 and the status commands), fences and the commands on rings leave all of that too. -/
def Obligations.SyncAndReportingRowsFrame : Prop :=
  ∀ i s t, i.syncRow = true ∨ i.reports = true → exec i s = .next t → t.SameContent s

/-- The rows that store nothing (named in `Instr.storesNothing`: clocks and resets of the host, links, queue pairs, associations, rings,
mailboxes, synchronisation, management, firmware loading, telemetry, directory upkeep and every command that only reads) leave every byte of
memory, every frame-state entry, and every record of a span, a sequence and a mask set as they are. So does a PEER message sent again, where it is
no copied page. Those that may end a request (`Instr.endsRequests`) leave the records, and change no frame but those of a pack image. -/
def Obligations.RowsThatStoreNothingKeepMemory : Prop :=
  (∀ i s t, i.storesNothing = true → exec i s = .next t →
    (∀ a, t.mem.byte a = s.mem.byte a) ∧ (∀ f, frameOf t f = frameOf s f) ∧ t.spans = s.spans ∧ t.seqs = s.seqs ∧ t.masks = s.masks)
  ∧ (∀ tag s t, (∀ x l k p a b, s.peerSent.at? tag = some x → x.msg.body ≠ .copyPage l k p a b) → exec (.peerResend tag) s = .next t →
    (∀ a, t.mem.byte a = s.mem.byte a) ∧ (∀ f, frameOf t f = frameOf s f) ∧ t.spans = s.spans ∧ t.seqs = s.seqs ∧ t.masks = s.masks)
  ∧ (∀ i s t, i.endsRequests = true → exec i s = .next t →
    (let freed (f : FrameId) : Prop := ∃ n x, s.tier.images.at? n = some x ∧ f ∈ x.frames
     (∀ f, frameOf t f = frameOf s f ∨ freed f)
     ∧ (∀ a, t.mem.byte a = s.mem.byte a ∨ ∃ f, freed f ∧ frameBase f ≤ a ∧ a < frameBase f + frameBytes)
     ∧ t.spans = s.spans ∧ t.seqs = s.seqs ∧ t.masks = s.masks))
end

