-- ==== Sys2Proof/Laws/Cmd.lean ====
section
/-! SUPPORT. What the shared operations that serve commands do: one lemma for each way a command is met. -/

namespace Sys2Proof.Machine

/-- A live node runs a function of the state. -/
theorem onNode_live {f : State → State} {s : State} (h : live s = true) : onNode f s = .next (f s) := by
  simp [onNode, h]

/-- The message that is the next of its queue pair to be admitted runs its row, out of the headrace. -/
theorem onMsg_admits {m : Msg} {op : Nat} {reads : List Byte → Bool} {f : State → State} {s : State} (h : live s = true)
    (ha : admits s m op reads = true) : onMsg m op reads f s = .next (f (takeMsg m s)) := by
  simp [onMsg, onNode, h, ha]

/-- A node that is not live keeps its state. -/
theorem onNode_dead {f : State → State} {s : State} (h : live s = false) : onNode f s = .next s := by
  simp [onNode, h]

/-- A command whose work starts in `w` ends as its body says. -/
theorem runCmd_work {c : Cmd} {body : State → Done} {s b w : State} (h : toWork c s = some (b, w)) :
    runCmd c body s = finish c b (body w) := by
  unfold toWork at h
  unfold runCmd
  cases ha : admission s c with
  | some a =>
    simp only [ha, Option.some.injEq, Prod.mk.injEq] at h ⊢
    obtain ⟨rfl, rfl⟩ := h
    rfl
  | none =>
    simp only [ha] at h ⊢
    cases hc : headerCheck s c with
    | some r => simp only [hc, reduceCtorEq] at h
    | none =>
      simp only [hc] at h ⊢
      cases hw : headerWaitHolds s c.hdr with
      | true =>
        simp only [hw, if_true, Option.some.injEq, Prod.mk.injEq] at h ⊢
        obtain ⟨rfl, rfl⟩ := h
        rfl
      | false => simp [hw] at h

/-- A served command ends as its body says. -/
theorem runVerb_serves {c : Cmd} {len : Nat} {body : State → Done} {s b w : State} (h : Serves c len s b w) :
    runVerb c body s = .next (finish c b (body w)) := by
  unfold runVerb
  rw [onNode_live h.1, runCmd_work h.2.1]

/-- Reserved fields and failing fields decide the first bad field. -/
theorem firstBad_none {c : Cmd} {fails : List (Bool × Nat)} (hr : c.hdr.rsv = []) (hf : fieldsPass fails = true) :
    firstBad c fails = none := by
  have : fails.filter (fun f => f.1) = [] := by
    simp only [fieldsPass, List.all_eq_true, Bool.not_eq_true'] at hf
    simp only [List.filter_eq_nil_iff]
    intro a ha; simp [hf a ha]
  simp [firstBad, this, hr]

/-- Parameters that pass let the body run. -/
theorem withParams_pass {c : Cmd} {len : Nat} {fails : List (Bool × Nat)} {body : State → Done} {s : State} (hr : c.hdr.rsv = [])
    (hl : c.hdr.paramLen.toNat = len) (hf : fieldsPass fails = true) : withParams c len fails body s = body s := by
  unfold withParams checkParams
  rw [firstBad_none hr (by simpa [fieldsPass, hl] using hf)]
  rfl

/-- The work of a served command whose parameters pass. -/
theorem runVerb_pass {c : Cmd} {len : Nat} {fails : List (Bool × Nat)} {body : State → Done} {s b w : State}
    (h : Serves c len s b w) (hf : fieldsPass fails = true) :
    runVerb c (withParams c len fails body) s = .next (finish c b (body w)) := by
  rw [runVerb_serves h, withParams_pass h.2.2.1 h.2.2.2 hf]

/-- An answer now is the command's completion where its result fits. -/
theorem finish_now {c : Cmd} {b w : State} {r : Reply} (h : Fits c b r) : finish c b (.now r w) = complete c r w := by
  simp [finish, Nat.not_lt.mpr h]

/-- A status alone always fits. -/
@[simp] theorem fits_st {c : Cmd} {b : State} {st : Status} : Fits c b (Reply.st st) := Nat.zero_le _

/-- A status alone is the command's completion. -/
@[simp] theorem finish_st {c : Cmd} {b w : State} {st : Status} : finish c b (.now (Reply.st st) w) = complete c (Reply.st st) w :=
  finish_now fits_st

/-- An answer later leaves the state of the work. -/
@[simp] theorem finish_later {c : Cmd} {b w : State} : finish c b (.later w) = w := rfl

/-- A PEER message that is met runs its row off the headrace. -/
theorem onPeer_met {h : PeerHdr} {cls : PeerClass} {f : State → State} {s : State} (m : Met h cls s) :
    onPeer h cls f s = .next (f (takePeer h.sender s)) := by
  unfold onPeer
  rw [onNode_live m.1]
  simp only [m.2.1, m.2.2, if_true, Bool.false_eq_true, if_false]

/-- An acknowledgement that is met runs its row. -/
theorem onPeerAck_met {h : PeerHdr} {f : State → State} {s : State} (m : Met h .other s) :
    onPeerAck h f s = .next (f (takePeer h.sender s)) := by
  unfold onPeerAck
  rw [onNode_live m.1]
  simp only [m.2.1, m.2.2, if_true, Bool.false_eq_true, if_false]

/-- A PEER message of a class with a reserved field set is answered ST_BAD_PARAM and changes nothing else (R10). -/
theorem onPeer_reserved {h : PeerHdr} {cls : PeerClass} {f : State → State} {s : State} (hl : live s = true)
    (hp : peerTaken (takePeer h.sender s) h cls = true) (hr : h.rsv = true) :
    onPeer h cls f s = .next (ackPeer h stBadParam 0 (takePeer h.sender s)) := by
  unfold onPeer
  rw [onNode_live hl]
  simp only [hp, hr, if_true]

/-- A PEER message that is not taken up is left. -/
theorem onPeer_left {h : PeerHdr} {cls : PeerClass} {f : State → State} {s : State} (hl : live s = true)
    (hp : peerTaken (takePeer h.sender s) h cls = false) :
    onPeer h cls f s = .next (leavePeer h cls (peerEntered h.sender s) (takePeer h.sender s)) := by
  unfold onPeer
  rw [onNode_live hl]
  simp [hp]

/-- One from a member that R393 names is dropped and counted. -/
theorem onPeer_drop {h : PeerHdr} {cls : PeerClass} {f : State → State} {s : State} (hl : live s = true)
    (hm : (memberState (takePeer h.sender s) h.vnode h.sender).isSome = true)
    (hp : peerPasses (takePeer h.sender s) h cls = false) : onPeer h cls f s = .next (bump .peerDrops (takePeer h.sender s)) := by
  have n : (memberState (takePeer h.sender s) h.vnode h.sender).isNone = false := by rw [← Option.not_isSome, hm]; rfl
  rw [onPeer_left hl (by simp [peerTaken, hp])]
  simp [leavePeer, n, hp]

/-- Where no transfer of its write meets a link error a PEER message has its own effect. -/
@[simp] theorem linkPeer_none {h : PeerHdr} {f : State → State} {s : State} (hl : h.links = 0) : linkPeer h f s = f s := by
  simp [linkPeer, hl]

/-- Where no transfer of its write meets a link error a command does its own work. -/
@[simp] theorem linkDone_none {c : Cmd} {body : State → Done} {s : State} (hl : c.links = 0) : linkDone c body s = body s := by
  simp [linkDone, hl]

/-- The same for a served command whose parameters pass. -/
theorem runVerb_linked {c : Cmd} {len : Nat} {fails : List (Bool × Nat)} {body : State → Done} {s b w : State}
    (h : Serves c len s b w) (hl : c.links = 0) (hf : fieldsPass fails = true) :
    runVerb c (linkDone c (withParams c len fails body)) s = .next (finish c b (body w)) := by
  rw [runVerb_serves h, linkDone_none hl, withParams_pass h.2.2.1 h.2.2.2 hf]

/-- A runner command that is executed at once does its work. -/
theorem onRunner_issues {op : Nat} {stack : BitVec 3} {k : RnCmd} {i : Instr} {f : State → State} {s : State} (h : Issues op stack k s) :
    onRunner op stack k i f s = .next (f s) := by
  unfold onRunner
  rw [onNode_live h.1]
  simp [h.2.1, h.2.2.1, h.2.2.2]

/-- Where every stack fills, no fill waits. -/
theorem fillWaits_of {s t : State} (h : AllFill s) : fillWaits s t = false := by
  have p : ∀ c, pcFills s c = true := fun c => decide_eq_true (h _)
  simp [fillWaits, p]

/-- Where every stack fills, a step of the node's own is not left for later. -/
theorem whenFills_of {f : State → State} {s : State} (h : AllFill s) : whenFills f s = f s := by
  simp [whenFills, fillWaits_of h]

/-- A row that allocates frames goes on where every stack fills. -/
theorem filling_of {hold f : State → Res} {s t : State} (l : live s = true) (h : AllFill s) (e : f s = .next t) :
    filling hold f s = .next (settleUe t) := by
  simp [filling, l, e, fillWaits_of h]

/-- A row after which held commands may go on. -/
theorem waking_of {f : State → Res} {s t : State} (h : live s = true) (e : f s = .next t) : waking f s = .next (wake t) := by
  simp [waking, h, e]

/-- Taking up a PEER message leaves the throttle levels. -/
theorem allFill_takePeer {n : NodeId} {s : State} (h : AllFill s) : AllFill (takePeer n s) := h

/-- A management request that is served runs its operation off the session's count. -/
theorem onMgmt_managed {r : MgmtReq} {roles : List Nat} {f : State → State} {s : State} (m : Managed r roles s) :
    onMgmt r roles f s = .next (f (countRecord r.session false s)) := by
  obtain ⟨hl, x, hx, hr⟩ := m
  unfold onMgmt
  rw [onNode_live hl]
  simp [hx, hr]

end Sys2Proof.Machine
end

