-- ==== Sys2Proof/Laws/Memory.lean ====
section
/-! SUPPORT. Memory: every operation keeps the canonical form, and a read after a write finds what was written. -/

namespace Sys2Proof.Machine

/-- Strictly rising lists are the lists in strict order. -/
theorem strictlyRising_iff (l : List Nat) : strictlyRising l = true ↔ l.Pairwise (· < ·) := by
  induction l with
  | nil => simp [strictlyRising]
  | cons a r ih =>
    cases r with
    | nil => simp [strictlyRising]
    | cons b r =>
      simp only [strictlyRising, Bool.and_eq_true, decide_eq_true_eq, ih, List.pairwise_cons]
      constructor
      · intro ⟨h, h1, h2⟩
        exact ⟨fun x hx => by
          rcases List.mem_cons.mp hx with rfl | hx
          · exact h
          · exact Nat.lt_trans h (h1 x hx), h1, h2⟩
      · intro ⟨h, h1, h2⟩
        exact ⟨h b (List.mem_cons_self ..), h1, h2⟩

/-- The canonical form, in words. -/
theorem Memory.wf_iff (m : Memory) : m.wf = true ↔ (m.cells.map Prod.fst).Pairwise (· < ·) ∧ m.cleared.Pairwise (· < ·)
    ∧ ∀ c ∈ m.cells, m.unlisted c.1 ≠ some c.2 := by
  simp [Memory.wf, strictlyRising_iff, and_assoc]

/-- The cells that a string needs lie at the addresses of its bytes. -/
theorem Memory.cellsFor_range (m : Memory) (a : Nat) (bs : List Byte) :
    ∀ c ∈ m.cellsFor a bs, a ≤ c.1 ∧ c.1 < a + bs.length ∧ m.unlisted c.1 ≠ some c.2 := by
  induction bs generalizing a with
  | nil => simp [Memory.cellsFor]
  | cons b r ih =>
    intro c hc
    simp only [Memory.cellsFor] at hc
    split at hc
    · have := ih (a + 1) c hc
      simp only [List.length_cons]; exact ⟨by omega, by omega, this.2.2⟩
    · next hn =>
      rcases List.mem_cons.mp hc with rfl | hc
      · exact ⟨Nat.le_refl _, by simp, hn⟩
      · have := ih (a + 1) c hc
        simp only [List.length_cons]; exact ⟨by omega, by omega, this.2.2⟩

/-- The cells that a string needs stand in strict order. -/
theorem Memory.cellsFor_rising (m : Memory) (a : Nat) (bs : List Byte) : ((m.cellsFor a bs).map Prod.fst).Pairwise (· < ·) := by
  induction bs generalizing a with
  | nil => simp [Memory.cellsFor]
  | cons b r ih =>
    simp only [Memory.cellsFor]
    split
    · exact ih (a + 1)
    · simp only [List.map_cons, List.pairwise_cons]
      refine ⟨?_, ih (a + 1)⟩
      intro x hx
      obtain ⟨c, hc, rfl⟩ := List.mem_map.mp hx
      have := Memory.cellsFor_range m (a + 1) r c hc
      omega

/-- A write keeps the canonical form. -/
theorem Memory.write_wf {m : Memory} (a : Nat) (bs : List Byte) (h : m.wf = true) : (m.write a bs).wf = true := by
  rw [Memory.wf_iff] at h ⊢
  obtain ⟨h1, h2, h3⟩ := h
  refine ⟨?_, h2, ?_⟩
  · simp only [Memory.write, List.map_append, List.pairwise_append]
    have sub (p : Host.Cell → Bool) : ((m.cells.filter p).map Prod.fst).Pairwise (· < ·) :=
      h1.sublist ((List.filter_sublist).map _)
    refine ⟨⟨sub _, Memory.cellsFor_rising .., ?_⟩, sub _, ?_⟩
    · intro x hx y hy
      obtain ⟨c, hc, rfl⟩ := List.mem_map.mp hx
      obtain ⟨d, hd, rfl⟩ := List.mem_map.mp hy
      have := Memory.cellsFor_range m a bs d hd
      have := of_decide_eq_true (List.mem_filter.mp hc).2
      omega
    · intro x hx y hy
      obtain ⟨d, hd, rfl⟩ := List.mem_map.mp hy
      have hd := of_decide_eq_true (List.mem_filter.mp hd).2
      rcases List.mem_append.mp hx with hx | hx
      · obtain ⟨c, hc, rfl⟩ := List.mem_map.mp hx
        have := of_decide_eq_true (List.mem_filter.mp hc).2
        omega
      · obtain ⟨c, hc, rfl⟩ := List.mem_map.mp hx
        have := Memory.cellsFor_range m a bs c hc
        omega
  · intro c hc
    have hu : (m.write a bs).unlisted c.1 = m.unlisted c.1 := rfl
    rw [hu]
    simp only [Memory.write, List.mem_append] at hc
    rcases hc with (hc | hc) | hc
    · exact h3 c (List.mem_filter.mp hc).1
    · exact (Memory.cellsFor_range m a bs c hc).2.2
    · exact h3 c (List.mem_filter.mp hc).1

/-- An address of a frame lies at most a frame above the frame's base. -/
theorem frameBaseOf_range {a b : Nat} (h : frameBaseOf a = some b) : b ≤ a ∧ a < b + frameBytes := by
  simp only [frameBaseOf] at h
  split at h
  · have h := Option.some.inj h
    have h1 : a % pcBytes % frameBytes < frameBytes := Nat.mod_lt _ (by decide)
    have h2 : a % pcBytes ≤ a := Nat.mod_le _ _
    have h3 : a % pcBytes % frameBytes ≤ a % pcBytes := Nat.mod_le _ _
    omega
  · cases h

/-- What insertRising holds. -/
theorem mem_insertRising {x y : Nat} {l : List Nat} : y ∈ insertRising x l ↔ y = x ∨ y ∈ l := by
  induction l with
  | nil => simp [insertRising]
  | cons z r ih =>
    simp only [insertRising]
    split
    · simp
    · split
      · next h => subst h; simp
      · simp [ih, or_left_comm]

/-- insertRising keeps strict order. -/
theorem insertRising_rising {x : Nat} {l : List Nat} (h : l.Pairwise (· < ·)) : (insertRising x l).Pairwise (· < ·) := by
  induction l with
  | nil => simp [insertRising]
  | cons z r ih =>
    simp only [insertRising]
    have hc := List.pairwise_cons.mp h
    split
    · next hz =>
      refine List.pairwise_cons.mpr ⟨?_, h⟩
      intro y hy
      rcases List.mem_cons.mp hy with rfl | hy
      · exact hz
      · exact Nat.lt_trans hz (hc.1 y hy)
    · split
      · exact h
      · refine List.pairwise_cons.mpr ⟨?_, ih hc.2⟩
        intro y hy
        rcases mem_insertRising.mp hy with rfl | hy
        · omega
        · exact hc.1 y hy

/-- Clearing a frame keeps the canonical form. -/
theorem Memory.clearFrame_wf {m : Memory} (base : Nat) (h : m.wf = true) : (m.clearFrame base).wf = true := by
  rw [Memory.wf_iff] at h ⊢
  obtain ⟨h1, h2, h3⟩ := h
  refine ⟨h1.sublist ((List.filter_sublist).map _), insertRising_rising h2, ?_⟩
  intro c hc
  have hm := List.mem_filter.mp hc
  have ho := h3 c hm.1
  simp only [Memory.unlisted] at ho ⊢
  cases hb : frameBaseOf c.1 with
  | none => simp
  | some b =>
    simp only [hb] at ho
    simp only [Memory.clearFrame, mem_insertRising]
    have hr := frameBaseOf_range hb
    have hk := hm.2
    simp only [Bool.or_eq_true, decide_eq_true_eq] at hk
    have hne : b ≠ base := by intro e; subst e; omega
    simpa [hne] using ho

/-- Forgetting the frame rows keeps the canonical form. -/
theorem Memory.rekeyFrames_wf {m : Memory} (h : m.wf = true) : m.rekeyFrames.wf = true := by
  rw [Memory.wf_iff] at h ⊢
  refine ⟨h.1.sublist ((List.filter_sublist).map _), List.Pairwise.nil, ?_⟩
  intro c _
  simp only [Memory.unlisted, Memory.rekeyFrames]
  split <;> simp

/-! ## Reading -/

/-- The first value of a key in two tables, one after the other. -/
theorem Tbl.at?_append {κ α : Type} [DecidableEq κ] (t u : Tbl κ α) (k : κ) :
    Tbl.at? (t ++ u) k = match Tbl.at? t k with
      | some v => some v
      | none => Tbl.at? u k := by
  induction t with
  | nil => rfl
  | cons p r ih =>
    simp only [List.cons_append, Tbl.at?]
    split
    · rfl
    · exact ih

/-- A filter that keeps a key does not change its value. -/
theorem Tbl.at?_filter {κ α : Type} [DecidableEq κ] (t : Tbl κ α) (k : κ) (p : κ → Bool) :
    Tbl.at? (t.filter (fun c => p c.1)) k = if p k then Tbl.at? t k else none := by
  induction t with
  | nil => simp [Tbl.at?]
  | cons c r ih =>
    simp only [List.filter_cons]
    by_cases hk : c.1 = k
    · subst hk
      by_cases hp : p c.1 = true
      · simp [hp, Tbl.at?]
      · simp only [hp] at ih ⊢; simpa using ih
    · by_cases hp : p c.1 = true
      · simp only [hp, if_true, Tbl.at?, hk, if_false, ih]
      · simp only [hp, Tbl.at?, hk, if_false]; simpa using ih

/-- What the cells of a string list. -/
theorem Memory.at?_cellsFor (m : Memory) (a x : Nat) (bs : List Byte) :
    Tbl.at? (m.cellsFor a bs) x = if a ≤ x ∧ m.unlisted x ≠ bs[x - a]? then bs[x - a]? else none := by
  induction bs generalizing a with
  | nil => simp [Memory.cellsFor, Tbl.at?]
  | cons b r ih =>
    simp only [Memory.cellsFor]
    by_cases hx : a = x
    · subst hx
      split
      · next h =>
        rw [ih, if_neg (by omega)]
        simp [h]
      · next h => simp [Tbl.at?, h]
    · have key : Tbl.at? (m.cellsFor (a + 1) r) x = if a ≤ x ∧ m.unlisted x ≠ (b :: r)[x - a]? then (b :: r)[x - a]? else none := by
        rw [ih]
        by_cases hl : a + 1 ≤ x
        · have e : x - a = (x - (a + 1)) + 1 := by omega
          rw [e, List.getElem?_cons_succ]
          simp [hl, show a ≤ x by omega]
        · rw [if_neg (by omega), if_neg (by omega)]
      split
      · exact key
      · simp only [Tbl.at?, hx, if_false]; exact key

/-- A byte that a write covers reads as what was written; every other byte reads as before. -/
theorem Memory.byte_write (m : Memory) (a x : Nat) (bs : List Byte) :
    (m.write a bs).byte x = if a ≤ x ∧ x < a + bs.length then bs[x - a]? else m.byte x := by
  have hu : (m.write a bs).unlisted x = m.unlisted x := rfl
  simp only [Memory.byte, hu]
  simp only [Memory.write, Tbl.at?_append, Memory.at?_cellsFor,
    Tbl.at?_filter m.cells x (fun k => decide (k < a)), Tbl.at?_filter m.cells x (fun k => decide (a + bs.length ≤ k))]
  by_cases h1 : x < a
  · simp only [h1, decide_true, if_true, Nat.not_le.mpr h1, false_and, if_false]
    have h2 : ¬ (a + bs.length ≤ x) := by omega
    simp only [h2, decide_false]
    cases Tbl.at? m.cells x <;> simp
  · by_cases h2 : a + bs.length ≤ x
    · have e : bs[x - a]? = none := List.getElem?_eq_none (by omega)
      simp [h1, h2, e, Nat.not_lt.mpr h2]
    · have e : ∃ b, bs[x - a]? = some b := ⟨_, List.getElem?_eq_getElem (by omega)⟩
      obtain ⟨b, e⟩ := e
      simp only [h1, h2, e]
      by_cases h3 : m.unlisted x = some b <;> simp [h3, Nat.le_of_not_lt h1, Nat.lt_of_not_le h2]

end Sys2Proof.Machine
end

