-- ==== Sys2Proof/Laws/Ops.lean ====
section
/-! SUPPORT. What the shared operations keep: one lemma for each operation of Flags.lean, Ops.lean, Transport.lean and the completion
part of Cmd.lean, for the invariant of a state and its queue. -/

namespace Sys2Proof.Machine

/-- The queue is the same, and the invariant holds afterwards where it held before. -/
def State.Keeps (s t : State) : Prop := t.pending = s.pending ∧ (s.Inv → t.Inv)

theorem keeps_refl {s : State} : s.Keeps s := ⟨rfl, id⟩

theorem keeps_trans {s t u : State} (h : s.Keeps t) (k : t.Keeps u) : s.Keeps u := ⟨k.1.trans h.1, k.2 ∘ h.2⟩

/-- The fields that the invariant and the queue rest on. -/
def State.core5 (s : State) : List Instr × Memory × List Event × Tbl (Counter × Nat) Nat × List (List Byte) :=
  (s.pending, s.mem, s.log.events, s.ctr, s.mgmt.meas)

/-- A change to other fields keeps both. -/
theorem keeps_of_core {s t : State} (h : t.core5 = s.core5) : s.Keeps t := by
  simp only [State.core5, Prod.mk.injEq] at h
  obtain ⟨hp, hm, he, hc, hq⟩ := h
  exact ⟨hp, fun ⟨a, b, c, d⟩ => ⟨hm ▸ a, he ▸ b, hc ▸ c, hq ▸ d⟩⟩

theorem keeps_ite {p : Prop} [Decidable p] {s t u : State} (h : s.Keeps t) (k : s.Keeps u) : s.Keeps (if p then t else u) := by
  split <;> assumption

/-- A change to memory that keeps its form, and to fields that the invariant does not rest on. -/
theorem keeps_of_mem {s t : State} (h : t.core5 = (s.pending, t.mem, s.log.events, s.ctr, s.mgmt.meas))
    (m : s.mem.wf = true → t.mem.wf = true) : s.Keeps t := by
  simp only [State.core5, Prod.mk.injEq] at h
  obtain ⟨hp, -, he, hc, hq⟩ := h
  exact ⟨hp, fun ⟨a, b, c, d⟩ => ⟨m a, he ▸ b, hc ▸ c, hq ▸ d⟩⟩

/-! ## Flags and interrupts -/

theorem emit_keeps {o : Output} {s : State} : s.Keeps (emit o s) := keeps_of_core rfl

theorem raise_core {v : Nat} {s : State} : (raise v s).core5 = s.core5 := by
  unfold raise
  repeat' split
  all_goals rfl

theorem raise_keeps {v : Nat} {s : State} : s.Keeps (raise v s) := keeps_of_core raise_core

theorem setDevError_core {b : Nat} {s : State} : (setDevError b s).core5 = s.core5 := by
  unfold setDevError
  split
  · rfl
  · exact raise_core

theorem setDevError_keeps {b : Nat} {s : State} : s.Keeps (setDevError b s) := keeps_of_core setDevError_core

theorem setAlert_keeps {b : Nat} {s : State} : s.Keeps (setAlert b s) := by
  unfold setAlert
  split <;> exact keeps_of_core rfl

/-! ## Counters and the log -/

/-- A counter put within 64 bits leaves every counter within 64 bits. -/
theorem countersOk_put {t : Tbl (Counter × Nat) Nat} {k : Counter × Nat} {v : Nat} (h : countersOk t = true) (hv : v < 2 ^ 64) :
    countersOk (t.put k v) = true := by
  induction t with
  | nil => simpa [Tbl.put, countersOk] using hv
  | cons p r ih =>
    obtain ⟨k', v'⟩ := p
    unfold countersOk at h ih ⊢
    rw [List.all_cons, Bool.and_eq_true] at h
    unfold Tbl.put
    split <;> rw [List.all_cons, Bool.and_eq_true]
    · exact ⟨decide_eq_true hv, h.2⟩
    · exact ⟨h.1, ih h.2⟩

theorem bumpAt_keeps {c : Counter} {ix n : Nat} {s : State} : s.Keeps (bumpAt c ix n s) :=
  ⟨rfl, fun ⟨a, b, h, d⟩ => ⟨a, b, countersOk_put h (Nat.lt_of_le_of_lt (Nat.min_le_left _ _) (by decide)), d⟩⟩

theorem bump_keeps {c : Counter} {s : State} : s.Keeps (bump c s) := bumpAt_keeps

theorem bumpV_keeps {c : Counter} {v : VId} {s : State} : s.Keeps (bumpV c v s) := bumpAt_keeps

theorem bumpBy_keeps {c : Counter} {n : Nat} {s : State} : s.Keeps (bumpBy c n s) := bumpAt_keeps

theorem logFrom_keeps {v : VId} {code src : Nat} {p : List (Nat × Nat)} {s : State} : s.Keeps (logFrom v code src p s) := by
  unfold logFrom
  extract_lets full s₁ held dropped e lg s₂
  have h₁ : s.Keeps s₁ := by
    simp only [s₁]
    split
    · exact keeps_trans bump_keeps setDevError_keeps
    · exact keeps_refl
  have h₂ : s₁.Keeps s₂ := by
    refine ⟨rfl, fun ⟨a, b, c, d⟩ => ⟨a, ?_, c, d⟩⟩
    have hs : s₁.log.events = s.log.events := by
      have hd : (setDevError 2 (bump .eventsDropped s)).log.events = s.log.events :=
        congrArg (fun p => p.2.2.1) (setDevError_core (b := 2) (s := bump .eventsDropped s))
      simp only [s₁]
      split
      · exact hd
      · rfl
    show (held ++ [e]).length ≤ logRoom
    have hr : 1 ≤ logRoom := by decide
    rw [hs] at b
    rw [List.length_append, List.length_singleton]
    simp only [held, full, hs, decide_eq_true_eq]
    split
    · rw [List.length_drop]; omega
    · omega
  refine keeps_trans (keeps_trans h₁ h₂) ?_
  split
  · exact raise_keeps
  · exact keeps_refl

/-! ## Free values, virtual nodes, jobs and held commands -/

theorem takeFree_keeps {s : State} : s.Keeps (takeFree s).2 := keeps_of_core rfl
theorem takeEstimate_keeps {s : State} : s.Keeps (takeEstimate s).2 := keeps_of_core rfl
theorem updVn_keeps {v : VId} {f : VNode → VNode} {s : State} : s.Keeps (updVn v f s) := keeps_of_core rfl
theorem addJob_keeps {j : Job} {s : State} : s.Keeps (addJob j s).2 := keeps_of_core rfl
theorem setJob_keeps {id : Nat} {j : Job} {s : State} : s.Keeps (setJob id j s) := keeps_of_core rfl
theorem endJob_keeps {id : Nat} {s : State} : s.Keeps (endJob id s) := keeps_of_core rfl
theorem defer_keeps {w : DeferWhy} {i : Instr} {k : Knobs} {s : State} : s.Keeps (defer w i k s) := keeps_of_core rfl

theorem countTime_keeps {s : State} : s.Keeps (countTime s) := by
  unfold countTime
  split <;> exact keeps_of_core rfl

theorem alertTemp_keeps {s : State} : s.Keeps (alertTemp s) := by
  unfold alertTemp
  split
  · exact setAlert_keeps
  · exact keeps_refl

/-! ## Memory and frames -/

theorem clearErrs_keeps {a n : Nat} {s : State} : s.Keeps (clearErrs a n s) := keeps_of_core rfl

theorem writeBack_keeps {cw : Nat} {s : State} : s.Keeps (writeBack cw s) := by
  unfold writeBack
  split
  · exact keeps_refl
  · refine keeps_of_mem rfl (fun h => ?_)
    show (if _ then _ else _ : Memory).wf = true
    split
    · exact h
    · exact Memory.write_wf _ _ h

theorem mergeCw_keeps {cw : Nat} {s : State} : s.Keeps (mergeCw cw s) := by
  unfold mergeCw
  split
  · exact keeps_refl
  · extract_lets st
    split
    · exact writeBack_keeps
    · exact keeps_trans bumpAt_keeps writeBack_keeps
    · refine keeps_trans (keeps_trans (keeps_trans ?_ bumpAt_keeps) logFrom_keeps) (keeps_of_core rfl)
      exact keeps_ite bumpAt_keeps keeps_refl

theorem mergeEnds_keeps {a n : Nat} {s : State} : s.Keeps (mergeEnds a n s) := by
  unfold mergeEnds
  refine keeps_ite keeps_refl ?_
  have h : s.Keeps (if a % 32 ≠ 0 then mergeCw (a / 32) s else s) := keeps_ite mergeCw_keeps keeps_refl
  exact keeps_ite (keeps_trans h mergeCw_keeps) h

theorem hbmWrite_keeps {a : Nat} {bs : List Byte} {s : State} : s.Keeps (hbmWrite a bs s) :=
  keeps_trans mergeEnds_keeps (keeps_of_mem rfl (Memory.write_wf a bs))

theorem updFrame_keeps {f : FrameId} {g : Frame → Frame} {s : State} : s.Keeps (updFrame f g s) := keeps_of_core rfl

theorem allocIn_keeps {pc : Nat} {v : VId} {st : FrameState} {u : FrameUse} {s : State} : s.Keeps (allocIn pc v st u s).2 :=
  keeps_trans (keeps_trans takeFree_keeps (keeps_trans updFrame_keeps bumpAt_keeps)) (keeps_of_mem rfl (Memory.clearFrame_wf _))

theorem allocFree_keeps {v : VId} {st : FrameState} {u : FrameUse} {s t : State} {f : FrameId}
    (h : allocFree v st u s = some (f, t)) : s.Keeps t := by
  unfold allocFree at h
  simp only at h
  split at h
  · obtain ⟨-, rfl⟩ := Prod.mk.inj (Option.some.inj h).symm.symm
    exact keeps_trans takeFree_keeps allocIn_keeps
  · cases h

theorem allocAny_keeps {v : VId} {st : FrameState} {u : FrameUse} {s t : State} {f : FrameId}
    (h : allocAny v st u s = some (f, t)) : s.Keeps t := by
  unfold allocAny at h
  split at h
  · cases h
  · exact allocFree_keeps h

theorem setFrameState_keeps {f : FrameId} {st : FrameState} {s : State} : s.Keeps (setFrameState f st s) := by
  unfold setFrameState
  extract_lets _ _ s₁
  split
  · exact keeps_trans updFrame_keeps hbmWrite_keeps
  · exact updFrame_keeps

theorem releaseFrame_keeps {f : FrameId} {s : State} : s.Keeps (releaseFrame f s) := by
  unfold releaseFrame
  extract_lets _
  repeat' split
  · exact keeps_refl
  · exact updFrame_keeps
  · exact keeps_trans updFrame_keeps setFrameState_keeps

/-! ## Queue pairs -/

theorem updQp_keeps {q : BitVec 12} {f : Qp → Qp} {s : State} : s.Keeps (updQp q f s) := by
  unfold updQp
  split <;> exact keeps_of_core rfl

theorem updAssoc_keeps {v : VId} {n : NodeId} {w : Bool} {f : Assoc → Assoc} {s : State} : s.Keeps (updAssoc v n w f s) := by
  unfold updAssoc
  split <;> exact keeps_of_core rfl

theorem usePn_keeps {v : VId} {n : NodeId} {w : Bool} {s : State} : s.Keeps (usePn v n w s) := updAssoc_keeps

theorem onPort_keeps {v : VId} {n : NodeId} {w : Bool} {o : BitVec 5 → Output} {s : State} : s.Keeps (onPort v n w o s) := by
  unfold onPort
  extract_lets
  exact keeps_ite keeps_refl (keeps_trans (t := { s with tick := s.tick + 1 }) (keeps_of_core rfl) emit_keeps)

theorem sendPacketTo_keeps {v : VId} {n : NodeId} {w : Bool} {d : BitVec 6} {e : Nat} {q : BitVec 12} {bs : List Byte}
    {o : BitVec 5 → List Byte → Output} {s : State} : s.Keeps (sendPacketTo v n w d e q bs o s) := by
  unfold sendPacketTo
  split
  · exact keeps_refl
  · exact keeps_ite keeps_refl (keeps_trans onPort_keeps usePn_keeps)

theorem sendData_keeps {q : BitVec 12} {x : Qp} {d : TxData} {psn : BitVec 32} {e : Nat} {b : Bool} {s : State} :
    s.Keeps (sendData q x d psn e b s) := sendPacketTo_keeps

theorem pumpTx_keeps {fuel : Nat} {q : BitVec 12} {s : State} : s.Keeps (pumpTx fuel q s) := by
  induction fuel generalizing s with
  | zero => exact keeps_refl
  | succ k ih =>
    unfold pumpTx
    split
    · exact keeps_refl
    · split
      · exact keeps_refl
      · extract_lets
        split
        · exact keeps_refl
        · exact keeps_trans (keeps_trans updQp_keeps sendData_keeps) ih

theorem pumpAll_keeps {q : BitVec 12} {s : State} : s.Keeps (pumpAll q s) := pumpTx_keeps

theorem sendOn_keeps {q : BitVec 12} {w : Bool} {h : MsgHead} {bs : List Byte} {s : State} : s.Keeps (sendOn q w h bs s) := by
  unfold sendOn
  split
  · exact keeps_ite (keeps_trans updQp_keeps pumpAll_keeps) keeps_refl
  · exact keeps_refl

theorem sendTo_keeps {v : VId} {n : NodeId} {w : Bool} {h : MsgHead} {bs : List Byte} {o : Output} {s : State} :
    s.Keeps (sendTo v n w h bs o s) := by
  unfold sendTo
  split
  · exact keeps_trans emit_keeps sendOn_keeps
  · exact keeps_refl

theorem takeMsg_keeps {m : Msg} {s : State} : s.Keeps (takeMsg m s) := keeps_of_core rfl
theorem takePeer_keeps {n : NodeId} {s : State} : s.Keeps (takePeer n s) := keeps_of_core rfl

theorem rejectMsg_keeps {v : VId} {n : NodeId} {q : BitVec 12} {m : BitVec 24} {st : Status} {s : State} :
    s.Keeps (rejectMsg v n q m st s) := keeps_trans bumpV_keeps logFrom_keeps

/-! ## Records, replies and signals -/

theorem updObj_keeps {i : BitVec 14} {f : SyncObj → SyncObj} {s : State} : s.Keeps (updObj i f s) := by
  unfold updObj
  split <;> exact keeps_of_core rfl

theorem updRing_keeps {r : BitVec 9} {f : Ring → Ring} {s : State} : s.Keeps (updRing r f s) := keeps_of_core rfl

theorem ringError_keeps {r : BitVec 9} {n : Nat} {s : State} : s.Keeps (ringError r n s) :=
  keeps_trans (keeps_trans (keeps_trans updRing_keeps bump_keeps) logFrom_keeps) setDevError_keeps

theorem coalesce_keeps {r : BitVec 9} {b : Bool} {s : State} : s.Keeps (coalesce r b s) := by
  unfold coalesce
  extract_lets
  split
  · exact keeps_trans updRing_keeps raise_keeps
  · exact keeps_refl

theorem writeRecord_keeps {r : BitVec 9} {c : Cmd} {a b : List Byte} {s : State} : s.Keeps (writeRecord r c a b s) := by
  unfold writeRecord
  extract_lets
  split
  · exact bump_keeps
  · exact keeps_trans (keeps_trans emit_keeps updRing_keeps) coalesce_keeps

theorem sendReply_keeps {v : VId} {q : BitVec 12} {n : NodeId} {a : BitVec 64} {k : BitVec 32} {m : Option NodeId} {bs : List Byte}
    {s : State} : s.Keeps (sendReply v q n a k m bs s) := by
  unfold sendReply
  split
  · exact bumpV_keeps
  · exact keeps_trans emit_keeps sendOn_keeps

theorem takeInWith_keeps {k : Knobs} {c : Cmd} {b : Bool} {s : State} : s.Keeps (takeInWith k c b s) := by
  unfold takeInWith
  extract_lets a host s₁ s₂
  have h : s.Keeps s₁ := keeps_of_core rfl
  split
  · split
    · exact keeps_trans (keeps_trans h bump_keeps) updRing_keeps
    · exact keeps_trans h bump_keeps
  · exact h

theorem takeIn_keeps {c : Cmd} {b : Bool} {s : State} : s.Keeps (takeIn c b s) := takeInWith_keeps

theorem retire_keeps {c : Cmd} {s : State} : s.Keeps (retire c s) := keeps_of_core rfl

theorem sendResult_keeps {fuel : Nat} {v : VId} {q : BitVec 12} {n : NodeId} {a : BitVec 64} {k : BitVec 32} {bs : List Byte} {s : State} :
    s.Keeps (sendResult fuel v q n a k bs s) := by
  induction fuel generalizing a bs s with
  | zero => exact keeps_refl
  | succ k ih =>
    unfold sendResult
    split
    · exact keeps_refl
    · exact keeps_trans sendReply_keeps ih

theorem answer_keeps {c : Cmd} {r : Reply} {s : State} : s.Keeps (answer c r s) := by
  unfold answer
  extract_lets
  split
  · exact writeRecord_keeps
  · exact keeps_trans sendResult_keeps sendReply_keeps

theorem oweSignal_keeps {c : Cmd} {st : Status} {s : State} : s.Keeps (oweSignal c st s) := by
  unfold oweSignal
  split <;> exact keeps_of_core rfl

theorem completeOnly_keeps {c : Cmd} {r : Reply} {s : State} : s.Keeps (completeOnly c r s) :=
  keeps_trans (keeps_trans answer_keeps retire_keeps) oweSignal_keeps

theorem refuseNew_keeps {c : Cmd} {r : Reply} {s : State} : s.Keeps (refuseNew c r s) := by
  unfold refuseNew
  extract_lets admitted host t
  have h : s.Keeps t := keeps_trans (keeps_of_core rfl) completeOnly_keeps
  exact keeps_trans h (keeps_of_core rfl)

theorem releaseWaiter_keeps {w : Waiter} {s : State} : s.Keeps (releaseWaiter w s) := by
  unfold releaseWaiter
  split
  · exact updRing_keeps
  · exact keeps_of_core rfl
  · split
    · exact keeps_trans takeIn_keeps completeOnly_keeps
    · exact takeIn_keeps
  · exact completeOnly_keeps

theorem endWaiter_keeps {w : Waiter} {st : Status} {s : State} : s.Keeps (endWaiter w st s) := by
  unfold endWaiter
  extract_lets
  split
  · split
    · exact keeps_trans updRing_keeps completeOnly_keeps
    · exact keeps_refl
  · split
    · exact keeps_trans (keeps_of_core rfl) completeOnly_keeps
    · exact keeps_refl
  · exact completeOnly_keeps
  · exact completeOnly_keeps

theorem releaseList_keeps {i : BitVec 14} {ws : List Waiter} {s : State} : s.Keeps (releaseList i ws s) := by
  induction ws generalizing s with
  | nil => exact keeps_refl
  | cons w r ih =>
    unfold releaseList
    split
    · exact keeps_refl
    · split
      · refine keeps_trans (keeps_trans ?_ releaseWaiter_keeps) ih
        refine keeps_trans (keeps_trans ?_ (keeps_of_core rfl)) bump_keeps
        exact keeps_ite updObj_keeps keeps_refl
      · exact ih

theorem applySignal_keeps {i : BitVec 14} {n : Nat} {who : BitVec 64} {s : State} : s.Keeps (applySignal i n who s) := by
  unfold applySignal
  split
  · exact keeps_refl
  · extract_lets stamp s₁ s₂ s₃ s₄
    have h₁ : s.Keeps s₁ := keeps_trans updObj_keeps bump_keeps
    have h₃ : s.Keeps s₃ := keeps_trans updObj_keeps bump_keeps
    split
    · exact keeps_trans (keeps_trans h₁ (keeps_ite raise_keeps keeps_refl)) releaseList_keeps
    · split
      · exact keeps_trans (keeps_trans h₃ (keeps_ite raise_keeps keeps_refl)) releaseList_keeps
      · exact keeps_trans (keeps_trans updObj_keeps bump_keeps) bump_keeps
    · exact keeps_refl

theorem dropSignal_keeps {i : BitVec 14} {who : BitVec 64} {s : State} : s.Keeps (dropSignal i who s) :=
  keeps_trans bump_keeps logFrom_keeps

theorem signalOrDrop_keeps {i : BitVec 14} {n : Nat} {who : BitVec 64} {s : State} : s.Keeps (signalOrDrop i n who s) := by
  unfold signalOrDrop
  exact keeps_ite applySignal_keeps dropSignal_keeps

theorem drainSignals_keeps {fuel : Nat} {s : State} : s.Keeps (drainSignals fuel s) := by
  induction fuel generalizing s with
  | zero => exact keeps_refl
  | succ k ih =>
    unfold drainSignals
    split
    · exact keeps_refl
    · refine keeps_trans (keeps_trans ?_ signalOrDrop_keeps) ih
      exact keeps_of_core rfl

theorem applyDue_keeps {s : State} : s.Keeps (applyDue s) := drainSignals_keeps

/-! ## Settling and completion -/

theorem settleFences_keeps {js : List (Nat × Job)} {s : State} : s.Keeps (settleFences js s) := by
  induction js generalizing s with
  | nil => exact keeps_refl
  | cons p r ih =>
    unfold settleFences
    split
    · exact keeps_refl
    · rename_i heq
      obtain ⟨-, rfl⟩ := List.cons.inj heq
      split
      · refine keeps_trans (keeps_trans ?_ completeOnly_keeps) ih
        exact keeps_ite (keeps_trans endJob_keeps logFrom_keeps) endJob_keeps
      · exact ih
    · rename_i heq
      obtain ⟨-, rfl⟩ := List.cons.inj heq
      exact ih

theorem settleRings_keeps {rs : List (BitVec 9 × Ring)} {s : State} : s.Keeps (settleRings rs s) := by
  induction rs generalizing s with
  | nil => exact keeps_refl
  | cons p r ih =>
    unfold settleRings
    split
    · extract_lets
      split
      · exact keeps_trans (keeps_trans completeOnly_keeps updRing_keeps) ih
      · exact ih
    · exact ih

theorem countRefusal_keeps {v : VId} {r : Reply} {s : State} : s.Keeps (countRefusal v r s) :=
  keeps_ite bumpV_keeps (keeps_ite bumpV_keeps keeps_refl)

theorem passWait_keeps {i : BitVec 14} {s : State} : s.Keeps (passWait i s) := updObj_keeps

theorem addWaiter_keeps {i : BitVec 14} {who : BitVec 64} {n m : Nat} {wf : WaitFor} {s : State} :
    s.Keeps (addWaiter i who n m wf s) := keeps_of_core rfl

theorem noteHostDenied_keeps {c : Cmd} {s : State} : s.Keeps (noteHostDenied c s) := by
  unfold noteHostDenied
  extract_lets
  refine keeps_ite bump_keeps (keeps_trans bump_keeps (keeps_trans logFrom_keeps (keeps_of_core rfl)))

theorem admitHeld_keeps {q : BitVec 12} {fuel : Nat} {b : Bool} {kn : Knobs} {s : State} : s.Keeps (admitHeld q fuel b kn s) := by
  induction fuel generalizing b kn s with
  | zero => exact keeps_refl
  | succ k ih =>
    unfold admitHeld
    split
    · exact keeps_of_core rfl
    · extract_lets c host t
      have h : s.Keeps t := keeps_of_core rfl
      split
      · exact keeps_trans (keeps_trans h takeInWith_keeps) ih
      · split
        · exact keeps_trans (keeps_trans (keeps_trans h countRefusal_keeps) refuseNew_keeps) ih
        · split
          · refine keeps_trans (keeps_trans ?_ takeInWith_keeps) ih
            exact keeps_ite (keeps_trans h passWait_keeps) h
          · split
            · exact keeps_trans (keeps_trans (keeps_trans h bump_keeps) refuseNew_keeps) ih
            · exact addWaiter_keeps

theorem settleQps_keeps {qs : List (BitVec 12)} {s : State} : s.Keeps (settleQps qs s) := by
  induction qs generalizing s with
  | nil => exact keeps_refl
  | cons q r ih =>
    refine keeps_trans (keeps_trans ?_ admitHeld_keeps) ih
    exact keeps_of_core rfl

theorem settle_keeps {s : State} : s.Keeps (settle s) :=
  keeps_trans (keeps_trans (keeps_trans (keeps_trans (keeps_trans applyDue_keeps settleFences_keeps) settleRings_keeps)
    applyDue_keeps) settleQps_keeps) applyDue_keeps

theorem complete_keeps {c : Cmd} {r : Reply} {s : State} : s.Keeps (complete c r s) := keeps_trans completeOnly_keeps settle_keeps

/-! ## Running a command -/

theorem finish_keeps {c : Cmd} {b : State} {d : Done} (h : b.Keeps d.state) : b.Keeps (finish c b d) := by
  unfold finish
  split
  · exact keeps_ite complete_keeps (keeps_trans h complete_keeps)
  · exact h

theorem asWork_keeps {c : Cmd} {s : State} : s.Keeps (asWork c s) := by
  unfold asWork
  split <;> exact keeps_of_core rfl

/-- A command keeps both where its own work does. -/
theorem runCmd_keeps {c : Cmd} {body : State → Done} {s : State} (h : ∀ t : State, t.Keeps (body t).state) :
    s.Keeps (runCmd c body s) := by
  unfold runCmd
  split
  · exact finish_keeps (keeps_trans asWork_keeps (h _))
  · split
    · refine keeps_trans (keeps_trans ?_ countRefusal_keeps) complete_keeps
      exact keeps_ite noteHostDenied_keeps keeps_refl
    · split
      · refine keeps_trans (keeps_trans ?_ takeIn_keeps) (finish_keeps (keeps_trans asWork_keeps (h _)))
        exact keeps_ite passWait_keeps keeps_refl
      · split
        · exact keeps_trans bump_keeps complete_keeps
        · exact addWaiter_keeps

/-- Work behind parameter checks keeps both where the work itself does. -/
theorem withParams_keeps {c : Cmd} {len : Nat} {fails : List (Bool × Nat)} {body : State → Done} {s : State}
    (h : s.Keeps (body s).state) : s.Keeps (withParams c len fails body s).state := by
  unfold withParams
  split
  · exact keeps_refl
  · exact h

/-- A row that a live node serves keeps both where the function it runs does. -/
theorem onNode_keeps {f : State → State} {s t : State} (h : ∀ u : State, u.Keeps (f u)) (e : onNode f s = .next t) : s.Keeps t := by
  unfold onNode at e
  cases e
  exact keeps_ite (h s) keeps_refl

end Sys2Proof.Machine
end

