-- ==== Sys2Proof/Laws/State.lean ====
section
/-! SUPPORT. What each named update of the state changes, and that it leaves the other fields: one lemma for each field. -/

namespace Sys2Proof.Machine

variable (s : State)

section

variable (o : Output)

@[simp] theorem emit_pending : (emit o s).pending = s.pending := rfl
@[simp] theorem emit_knobs : (emit o s).knobs = s.knobs := rfl
@[simp] theorem emit_configured : (emit o s).configured = s.configured := rfl
@[simp] theorem emit_pw : (emit o s).pw = s.pw := rfl
@[simp] theorem emit_ctr : (emit o s).ctr = s.ctr := rfl
@[simp] theorem emit_log : (emit o s).log = s.log := rfl
@[simp] theorem emit_mem : (emit o s).mem = s.mem := rfl
@[simp] theorem emit_frames : (emit o s).frames = s.frames := rfl
@[simp] theorem emit_spans : (emit o s).spans = s.spans := rfl
@[simp] theorem emit_seqs : (emit o s).seqs = s.seqs := rfl
@[simp] theorem emit_masks : (emit o s).masks = s.masks := rfl
@[simp] theorem emit_dir : (emit o s).dir = s.dir := rfl
@[simp] theorem emit_vnodes : (emit o s).vnodes = s.vnodes := rfl
@[simp] theorem emit_host : (emit o s).host = s.host := rfl
@[simp] theorem emit_sync : (emit o s).sync = s.sync := rfl
@[simp] theorem emit_mgmt : (emit o s).mgmt = s.mgmt := rfl
@[simp] theorem emit_egress : (emit o s).egress = s.egress ++ [o] := rfl

end

section

variable (c : Counter) (ix n : Nat)

@[simp] theorem bumpAt_pending : (bumpAt c ix n s).pending = s.pending := rfl
@[simp] theorem bumpAt_knobs : (bumpAt c ix n s).knobs = s.knobs := rfl
@[simp] theorem bumpAt_configured : (bumpAt c ix n s).configured = s.configured := rfl
@[simp] theorem bumpAt_pw : (bumpAt c ix n s).pw = s.pw := rfl
@[simp] theorem bumpAt_ctr : (bumpAt c ix n s).ctr = s.ctr.upd (c, ix) 0 (fun v => min (2 ^ 64 - 1) (v + n)) := rfl
@[simp] theorem bumpAt_log : (bumpAt c ix n s).log = s.log := rfl
@[simp] theorem bumpAt_mem : (bumpAt c ix n s).mem = s.mem := rfl
@[simp] theorem bumpAt_frames : (bumpAt c ix n s).frames = s.frames := rfl
@[simp] theorem bumpAt_spans : (bumpAt c ix n s).spans = s.spans := rfl
@[simp] theorem bumpAt_seqs : (bumpAt c ix n s).seqs = s.seqs := rfl
@[simp] theorem bumpAt_masks : (bumpAt c ix n s).masks = s.masks := rfl
@[simp] theorem bumpAt_dir : (bumpAt c ix n s).dir = s.dir := rfl
@[simp] theorem bumpAt_vnodes : (bumpAt c ix n s).vnodes = s.vnodes := rfl
@[simp] theorem bumpAt_host : (bumpAt c ix n s).host = s.host := rfl
@[simp] theorem bumpAt_sync : (bumpAt c ix n s).sync = s.sync := rfl
@[simp] theorem bumpAt_mgmt : (bumpAt c ix n s).mgmt = s.mgmt := rfl

end

section

variable (v : VId) (f : VNode → VNode)

@[simp] theorem updVn_pending : (updVn v f s).pending = s.pending := rfl
@[simp] theorem updVn_knobs : (updVn v f s).knobs = s.knobs := rfl
@[simp] theorem updVn_configured : (updVn v f s).configured = s.configured := rfl
@[simp] theorem updVn_pw : (updVn v f s).pw = s.pw := rfl
@[simp] theorem updVn_ctr : (updVn v f s).ctr = s.ctr := rfl
@[simp] theorem updVn_log : (updVn v f s).log = s.log := rfl
@[simp] theorem updVn_mem : (updVn v f s).mem = s.mem := rfl
@[simp] theorem updVn_frames : (updVn v f s).frames = s.frames := rfl
@[simp] theorem updVn_spans : (updVn v f s).spans = s.spans := rfl
@[simp] theorem updVn_seqs : (updVn v f s).seqs = s.seqs := rfl
@[simp] theorem updVn_masks : (updVn v f s).masks = s.masks := rfl
@[simp] theorem updVn_dir : (updVn v f s).dir = s.dir := rfl
@[simp] theorem updVn_vnodes : (updVn v f s).vnodes = s.vnodes.upd v VNode.reset f := rfl
@[simp] theorem updVn_host : (updVn v f s).host = s.host := rfl
@[simp] theorem updVn_sync : (updVn v f s).sync = s.sync := rfl
@[simp] theorem updVn_mgmt : (updVn v f s).mgmt = s.mgmt := rfl

end

section

variable (id : Nat) (j : Job)

@[simp] theorem setJob_pending : (setJob id j s).pending = s.pending := rfl
@[simp] theorem setJob_knobs : (setJob id j s).knobs = s.knobs := rfl
@[simp] theorem setJob_configured : (setJob id j s).configured = s.configured := rfl
@[simp] theorem setJob_pw : (setJob id j s).pw = s.pw := rfl
@[simp] theorem setJob_ctr : (setJob id j s).ctr = s.ctr := rfl
@[simp] theorem setJob_log : (setJob id j s).log = s.log := rfl
@[simp] theorem setJob_mem : (setJob id j s).mem = s.mem := rfl
@[simp] theorem setJob_frames : (setJob id j s).frames = s.frames := rfl
@[simp] theorem setJob_spans : (setJob id j s).spans = s.spans := rfl
@[simp] theorem setJob_seqs : (setJob id j s).seqs = s.seqs := rfl
@[simp] theorem setJob_masks : (setJob id j s).masks = s.masks := rfl
@[simp] theorem setJob_dir : (setJob id j s).dir = s.dir := rfl
@[simp] theorem setJob_vnodes : (setJob id j s).vnodes = s.vnodes := rfl
@[simp] theorem setJob_host : (setJob id j s).host = s.host := rfl
@[simp] theorem setJob_sync : (setJob id j s).sync = s.sync := rfl
@[simp] theorem setJob_mgmt : (setJob id j s).mgmt = s.mgmt := rfl
@[simp] theorem setJob_jobs : (setJob id j s).jobs = s.jobs.put id j := rfl

end

section

variable (id : Nat)

@[simp] theorem endJob_pending : (endJob id s).pending = s.pending := rfl
@[simp] theorem endJob_knobs : (endJob id s).knobs = s.knobs := rfl
@[simp] theorem endJob_configured : (endJob id s).configured = s.configured := rfl
@[simp] theorem endJob_pw : (endJob id s).pw = s.pw := rfl
@[simp] theorem endJob_ctr : (endJob id s).ctr = s.ctr := rfl
@[simp] theorem endJob_log : (endJob id s).log = s.log := rfl
@[simp] theorem endJob_mem : (endJob id s).mem = s.mem := rfl
@[simp] theorem endJob_frames : (endJob id s).frames = s.frames := rfl
@[simp] theorem endJob_spans : (endJob id s).spans = s.spans := rfl
@[simp] theorem endJob_seqs : (endJob id s).seqs = s.seqs := rfl
@[simp] theorem endJob_masks : (endJob id s).masks = s.masks := rfl
@[simp] theorem endJob_dir : (endJob id s).dir = s.dir := rfl
@[simp] theorem endJob_vnodes : (endJob id s).vnodes = s.vnodes := rfl
@[simp] theorem endJob_host : (endJob id s).host = s.host := rfl
@[simp] theorem endJob_sync : (endJob id s).sync = s.sync := rfl
@[simp] theorem endJob_mgmt : (endJob id s).mgmt = s.mgmt := rfl
@[simp] theorem endJob_jobs : (endJob id s).jobs = s.jobs.del id := rfl

end

section

variable (k : FrameId) (f : Frame → Frame)

@[simp] theorem updFrame_pending : (updFrame k f s).pending = s.pending := rfl
@[simp] theorem updFrame_knobs : (updFrame k f s).knobs = s.knobs := rfl
@[simp] theorem updFrame_configured : (updFrame k f s).configured = s.configured := rfl
@[simp] theorem updFrame_pw : (updFrame k f s).pw = s.pw := rfl
@[simp] theorem updFrame_ctr : (updFrame k f s).ctr = s.ctr := rfl
@[simp] theorem updFrame_log : (updFrame k f s).log = s.log := rfl
@[simp] theorem updFrame_mem : (updFrame k f s).mem = s.mem := rfl
@[simp] theorem updFrame_frames : (updFrame k f s).frames = s.frames.upd k Frame.reset f := rfl
@[simp] theorem updFrame_spans : (updFrame k f s).spans = s.spans := rfl
@[simp] theorem updFrame_seqs : (updFrame k f s).seqs = s.seqs := rfl
@[simp] theorem updFrame_masks : (updFrame k f s).masks = s.masks := rfl
@[simp] theorem updFrame_dir : (updFrame k f s).dir = s.dir := rfl
@[simp] theorem updFrame_vnodes : (updFrame k f s).vnodes = s.vnodes := rfl
@[simp] theorem updFrame_host : (updFrame k f s).host = s.host := rfl
@[simp] theorem updFrame_sync : (updFrame k f s).sync = s.sync := rfl
@[simp] theorem updFrame_mgmt : (updFrame k f s).mgmt = s.mgmt := rfl

end

section

variable (r : BitVec 9) (f : Ring → Ring)

@[simp] theorem updRing_pending : (updRing r f s).pending = s.pending := rfl
@[simp] theorem updRing_knobs : (updRing r f s).knobs = s.knobs := rfl
@[simp] theorem updRing_configured : (updRing r f s).configured = s.configured := rfl
@[simp] theorem updRing_pw : (updRing r f s).pw = s.pw := rfl
@[simp] theorem updRing_ctr : (updRing r f s).ctr = s.ctr := rfl
@[simp] theorem updRing_log : (updRing r f s).log = s.log := rfl
@[simp] theorem updRing_mem : (updRing r f s).mem = s.mem := rfl
@[simp] theorem updRing_frames : (updRing r f s).frames = s.frames := rfl
@[simp] theorem updRing_spans : (updRing r f s).spans = s.spans := rfl
@[simp] theorem updRing_seqs : (updRing r f s).seqs = s.seqs := rfl
@[simp] theorem updRing_masks : (updRing r f s).masks = s.masks := rfl
@[simp] theorem updRing_dir : (updRing r f s).dir = s.dir := rfl
@[simp] theorem updRing_vnodes : (updRing r f s).vnodes = s.vnodes := rfl
@[simp] theorem updRing_sync : (updRing r f s).sync = s.sync := rfl
@[simp] theorem updRing_mgmt : (updRing r f s).mgmt = s.mgmt := rfl

end

section

variable (c : Cmd)

@[simp] theorem retire_pending : (retire c s).pending = s.pending := rfl
@[simp] theorem retire_knobs : (retire c s).knobs = s.knobs := rfl
@[simp] theorem retire_configured : (retire c s).configured = s.configured := rfl
@[simp] theorem retire_pw : (retire c s).pw = s.pw := rfl
@[simp] theorem retire_ctr : (retire c s).ctr = s.ctr := rfl
@[simp] theorem retire_log : (retire c s).log = s.log := rfl
@[simp] theorem retire_mem : (retire c s).mem = s.mem := rfl
@[simp] theorem retire_frames : (retire c s).frames = s.frames := rfl
@[simp] theorem retire_spans : (retire c s).spans = s.spans := rfl
@[simp] theorem retire_seqs : (retire c s).seqs = s.seqs := rfl
@[simp] theorem retire_masks : (retire c s).masks = s.masks := rfl
@[simp] theorem retire_dir : (retire c s).dir = s.dir := rfl
@[simp] theorem retire_vnodes : (retire c s).vnodes = s.vnodes := rfl
@[simp] theorem retire_sync : (retire c s).sync = s.sync := rfl
@[simp] theorem retire_mgmt : (retire c s).mgmt = s.mgmt := rfl

end

section

variable (k : BitVec 4) (f : Mailbox → Mailbox)

@[simp] theorem updMb_pending : (updMb k f s).pending = s.pending := rfl
@[simp] theorem updMb_knobs : (updMb k f s).knobs = s.knobs := rfl
@[simp] theorem updMb_configured : (updMb k f s).configured = s.configured := rfl
@[simp] theorem updMb_pw : (updMb k f s).pw = s.pw := rfl
@[simp] theorem updMb_ctr : (updMb k f s).ctr = s.ctr := rfl
@[simp] theorem updMb_log : (updMb k f s).log = s.log := rfl
@[simp] theorem updMb_mem : (updMb k f s).mem = s.mem := rfl
@[simp] theorem updMb_frames : (updMb k f s).frames = s.frames := rfl
@[simp] theorem updMb_spans : (updMb k f s).spans = s.spans := rfl
@[simp] theorem updMb_seqs : (updMb k f s).seqs = s.seqs := rfl
@[simp] theorem updMb_masks : (updMb k f s).masks = s.masks := rfl
@[simp] theorem updMb_dir : (updMb k f s).dir = s.dir := rfl
@[simp] theorem updMb_vnodes : (updMb k f s).vnodes = s.vnodes := rfl
@[simp] theorem updMb_sync : (updMb k f s).sync = s.sync := rfl
@[simp] theorem updMb_mgmt : (updMb k f s).mgmt = s.mgmt := rfl

end

section

variable (id : Nat)

@[simp] theorem dropWaiter_pending : (dropWaiter id s).pending = s.pending := rfl
@[simp] theorem dropWaiter_knobs : (dropWaiter id s).knobs = s.knobs := rfl
@[simp] theorem dropWaiter_configured : (dropWaiter id s).configured = s.configured := rfl
@[simp] theorem dropWaiter_pw : (dropWaiter id s).pw = s.pw := rfl
@[simp] theorem dropWaiter_ctr : (dropWaiter id s).ctr = s.ctr := rfl
@[simp] theorem dropWaiter_log : (dropWaiter id s).log = s.log := rfl
@[simp] theorem dropWaiter_mem : (dropWaiter id s).mem = s.mem := rfl
@[simp] theorem dropWaiter_frames : (dropWaiter id s).frames = s.frames := rfl
@[simp] theorem dropWaiter_spans : (dropWaiter id s).spans = s.spans := rfl
@[simp] theorem dropWaiter_seqs : (dropWaiter id s).seqs = s.seqs := rfl
@[simp] theorem dropWaiter_masks : (dropWaiter id s).masks = s.masks := rfl
@[simp] theorem dropWaiter_dir : (dropWaiter id s).dir = s.dir := rfl
@[simp] theorem dropWaiter_vnodes : (dropWaiter id s).vnodes = s.vnodes := rfl
@[simp] theorem dropWaiter_host : (dropWaiter id s).host = s.host := rfl
@[simp] theorem dropWaiter_mgmt : (dropWaiter id s).mgmt = s.mgmt := rfl

end

section

variable (i : BitVec 14) (o : SyncObj)

@[simp] theorem putObj_pending : (putObj i o s).pending = s.pending := rfl
@[simp] theorem putObj_knobs : (putObj i o s).knobs = s.knobs := rfl
@[simp] theorem putObj_configured : (putObj i o s).configured = s.configured := rfl
@[simp] theorem putObj_pw : (putObj i o s).pw = s.pw := rfl
@[simp] theorem putObj_ctr : (putObj i o s).ctr = s.ctr := rfl
@[simp] theorem putObj_log : (putObj i o s).log = s.log := rfl
@[simp] theorem putObj_mem : (putObj i o s).mem = s.mem := rfl
@[simp] theorem putObj_frames : (putObj i o s).frames = s.frames := rfl
@[simp] theorem putObj_spans : (putObj i o s).spans = s.spans := rfl
@[simp] theorem putObj_seqs : (putObj i o s).seqs = s.seqs := rfl
@[simp] theorem putObj_masks : (putObj i o s).masks = s.masks := rfl
@[simp] theorem putObj_dir : (putObj i o s).dir = s.dir := rfl
@[simp] theorem putObj_vnodes : (putObj i o s).vnodes = s.vnodes := rfl
@[simp] theorem putObj_host : (putObj i o s).host = s.host := rfl
@[simp] theorem putObj_mgmt : (putObj i o s).mgmt = s.mgmt := rfl

end

section

variable (id : Nat) (q : AttnReq)

@[simp] theorem putReq_pending : (putReq id q s).pending = s.pending := rfl
@[simp] theorem putReq_knobs : (putReq id q s).knobs = s.knobs := rfl
@[simp] theorem putReq_configured : (putReq id q s).configured = s.configured := rfl
@[simp] theorem putReq_pw : (putReq id q s).pw = s.pw := rfl
@[simp] theorem putReq_ctr : (putReq id q s).ctr = s.ctr := rfl
@[simp] theorem putReq_log : (putReq id q s).log = s.log := rfl
@[simp] theorem putReq_mem : (putReq id q s).mem = s.mem := rfl
@[simp] theorem putReq_frames : (putReq id q s).frames = s.frames := rfl
@[simp] theorem putReq_spans : (putReq id q s).spans = s.spans := rfl
@[simp] theorem putReq_seqs : (putReq id q s).seqs = s.seqs := rfl
@[simp] theorem putReq_masks : (putReq id q s).masks = s.masks := rfl
@[simp] theorem putReq_dir : (putReq id q s).dir = s.dir := rfl
@[simp] theorem putReq_vnodes : (putReq id q s).vnodes = s.vnodes := rfl
@[simp] theorem putReq_host : (putReq id q s).host = s.host := rfl
@[simp] theorem putReq_sync : (putReq id q s).sync = s.sync := rfl
@[simp] theorem putReq_mgmt : (putReq id q s).mgmt = s.mgmt := rfl

end

section

variable (id : Nat) (f : Fanout)

@[simp] theorem putFan_pending : (putFan id f s).pending = s.pending := rfl
@[simp] theorem putFan_knobs : (putFan id f s).knobs = s.knobs := rfl
@[simp] theorem putFan_configured : (putFan id f s).configured = s.configured := rfl
@[simp] theorem putFan_pw : (putFan id f s).pw = s.pw := rfl
@[simp] theorem putFan_ctr : (putFan id f s).ctr = s.ctr := rfl
@[simp] theorem putFan_log : (putFan id f s).log = s.log := rfl
@[simp] theorem putFan_mem : (putFan id f s).mem = s.mem := rfl
@[simp] theorem putFan_frames : (putFan id f s).frames = s.frames := rfl
@[simp] theorem putFan_spans : (putFan id f s).spans = s.spans := rfl
@[simp] theorem putFan_seqs : (putFan id f s).seqs = s.seqs := rfl
@[simp] theorem putFan_masks : (putFan id f s).masks = s.masks := rfl
@[simp] theorem putFan_dir : (putFan id f s).dir = s.dir := rfl
@[simp] theorem putFan_vnodes : (putFan id f s).vnodes = s.vnodes := rfl
@[simp] theorem putFan_host : (putFan id f s).host = s.host := rfl
@[simp] theorem putFan_sync : (putFan id f s).sync = s.sync := rfl
@[simp] theorem putFan_mgmt : (putFan id f s).mgmt = s.mgmt := rfl

end

section

variable (b : Nat) (f : DirBank → DirBank)

@[simp] theorem updBank_pending : (updBank b f s).pending = s.pending := rfl
@[simp] theorem updBank_knobs : (updBank b f s).knobs = s.knobs := rfl
@[simp] theorem updBank_configured : (updBank b f s).configured = s.configured := rfl
@[simp] theorem updBank_pw : (updBank b f s).pw = s.pw := rfl
@[simp] theorem updBank_ctr : (updBank b f s).ctr = s.ctr := rfl
@[simp] theorem updBank_log : (updBank b f s).log = s.log := rfl
@[simp] theorem updBank_mem : (updBank b f s).mem = s.mem := rfl
@[simp] theorem updBank_frames : (updBank b f s).frames = s.frames := rfl
@[simp] theorem updBank_spans : (updBank b f s).spans = s.spans := rfl
@[simp] theorem updBank_seqs : (updBank b f s).seqs = s.seqs := rfl
@[simp] theorem updBank_masks : (updBank b f s).masks = s.masks := rfl
@[simp] theorem updBank_vnodes : (updBank b f s).vnodes = s.vnodes := rfl
@[simp] theorem updBank_host : (updBank b f s).host = s.host := rfl
@[simp] theorem updBank_sync : (updBank b f s).sync = s.sync := rfl
@[simp] theorem updBank_mgmt : (updBank b f s).mgmt = s.mgmt := rfl

end

section

variable (stack pc : Nat) (f : Runner → Runner)

@[simp] theorem updRunner_pending : (updRunner stack pc f s).pending = s.pending := rfl
@[simp] theorem updRunner_knobs : (updRunner stack pc f s).knobs = s.knobs := rfl
@[simp] theorem updRunner_configured : (updRunner stack pc f s).configured = s.configured := rfl
@[simp] theorem updRunner_pw : (updRunner stack pc f s).pw = s.pw := rfl
@[simp] theorem updRunner_ctr : (updRunner stack pc f s).ctr = s.ctr := rfl
@[simp] theorem updRunner_log : (updRunner stack pc f s).log = s.log := rfl
@[simp] theorem updRunner_mem : (updRunner stack pc f s).mem = s.mem := rfl
@[simp] theorem updRunner_frames : (updRunner stack pc f s).frames = s.frames := rfl
@[simp] theorem updRunner_spans : (updRunner stack pc f s).spans = s.spans := rfl
@[simp] theorem updRunner_seqs : (updRunner stack pc f s).seqs = s.seqs := rfl
@[simp] theorem updRunner_masks : (updRunner stack pc f s).masks = s.masks := rfl
@[simp] theorem updRunner_dir : (updRunner stack pc f s).dir = s.dir := rfl
@[simp] theorem updRunner_vnodes : (updRunner stack pc f s).vnodes = s.vnodes := rfl
@[simp] theorem updRunner_host : (updRunner stack pc f s).host = s.host := rfl
@[simp] theorem updRunner_sync : (updRunner stack pc f s).sync = s.sync := rfl
@[simp] theorem updRunner_mgmt : (updRunner stack pc f s).mgmt = s.mgmt := rfl
@[simp] theorem updRunner_runners : (updRunner stack pc f s).runners = s.runners.upd (stack, pc) Runner.reset f := rfl

end

section

variable (n : Nat) (f : Stack → Stack)

@[simp] theorem updStack_pending : (updStack n f s).pending = s.pending := rfl
@[simp] theorem updStack_knobs : (updStack n f s).knobs = s.knobs := rfl
@[simp] theorem updStack_configured : (updStack n f s).configured = s.configured := rfl
@[simp] theorem updStack_pw : (updStack n f s).pw = s.pw := rfl
@[simp] theorem updStack_ctr : (updStack n f s).ctr = s.ctr := rfl
@[simp] theorem updStack_log : (updStack n f s).log = s.log := rfl
@[simp] theorem updStack_mem : (updStack n f s).mem = s.mem := rfl
@[simp] theorem updStack_frames : (updStack n f s).frames = s.frames := rfl
@[simp] theorem updStack_spans : (updStack n f s).spans = s.spans := rfl
@[simp] theorem updStack_seqs : (updStack n f s).seqs = s.seqs := rfl
@[simp] theorem updStack_masks : (updStack n f s).masks = s.masks := rfl
@[simp] theorem updStack_dir : (updStack n f s).dir = s.dir := rfl
@[simp] theorem updStack_vnodes : (updStack n f s).vnodes = s.vnodes := rfl
@[simp] theorem updStack_host : (updStack n f s).host = s.host := rfl
@[simp] theorem updStack_sync : (updStack n f s).sync = s.sync := rfl
@[simp] theorem updStack_mgmt : (updStack n f s).mgmt = s.mgmt := rfl
@[simp] theorem updStack_hbmStacks : (updStack n f s).hbmStacks = s.hbmStacks.upd n Stack.reset f := rfl

end

section

variable (p : BitVec 5) (f : Port → Port)

@[simp] theorem updPort_pending : (updPort p f s).pending = s.pending := rfl
@[simp] theorem updPort_knobs : (updPort p f s).knobs = s.knobs := rfl
@[simp] theorem updPort_configured : (updPort p f s).configured = s.configured := rfl
@[simp] theorem updPort_pw : (updPort p f s).pw = s.pw := rfl
@[simp] theorem updPort_ctr : (updPort p f s).ctr = s.ctr := rfl
@[simp] theorem updPort_log : (updPort p f s).log = s.log := rfl
@[simp] theorem updPort_mem : (updPort p f s).mem = s.mem := rfl
@[simp] theorem updPort_frames : (updPort p f s).frames = s.frames := rfl
@[simp] theorem updPort_spans : (updPort p f s).spans = s.spans := rfl
@[simp] theorem updPort_seqs : (updPort p f s).seqs = s.seqs := rfl
@[simp] theorem updPort_masks : (updPort p f s).masks = s.masks := rfl
@[simp] theorem updPort_dir : (updPort p f s).dir = s.dir := rfl
@[simp] theorem updPort_vnodes : (updPort p f s).vnodes = s.vnodes := rfl
@[simp] theorem updPort_host : (updPort p f s).host = s.host := rfl
@[simp] theorem updPort_sync : (updPort p f s).sync = s.sync := rfl
@[simp] theorem updPort_mgmt : (updPort p f s).mgmt = s.mgmt := rfl

end

section

variable (m : Msg)

@[simp] theorem takeMsg_pending : (takeMsg m s).pending = s.pending := rfl
@[simp] theorem takeMsg_knobs : (takeMsg m s).knobs = s.knobs := rfl
@[simp] theorem takeMsg_configured : (takeMsg m s).configured = s.configured := rfl
@[simp] theorem takeMsg_pw : (takeMsg m s).pw = s.pw := rfl
@[simp] theorem takeMsg_ctr : (takeMsg m s).ctr = s.ctr := rfl
@[simp] theorem takeMsg_log : (takeMsg m s).log = s.log := rfl
@[simp] theorem takeMsg_mem : (takeMsg m s).mem = s.mem := rfl
@[simp] theorem takeMsg_frames : (takeMsg m s).frames = s.frames := rfl
@[simp] theorem takeMsg_spans : (takeMsg m s).spans = s.spans := rfl
@[simp] theorem takeMsg_seqs : (takeMsg m s).seqs = s.seqs := rfl
@[simp] theorem takeMsg_masks : (takeMsg m s).masks = s.masks := rfl
@[simp] theorem takeMsg_dir : (takeMsg m s).dir = s.dir := rfl
@[simp] theorem takeMsg_vnodes : (takeMsg m s).vnodes = s.vnodes := rfl
@[simp] theorem takeMsg_host : (takeMsg m s).host = s.host := rfl
@[simp] theorem takeMsg_sync : (takeMsg m s).sync = s.sync := rfl
@[simp] theorem takeMsg_mgmt : (takeMsg m s).mgmt = s.mgmt := rfl

end

section

variable (n : NodeId)

@[simp] theorem takePeer_pending : (takePeer n s).pending = s.pending := rfl
@[simp] theorem takePeer_knobs : (takePeer n s).knobs = s.knobs := rfl
@[simp] theorem takePeer_configured : (takePeer n s).configured = s.configured := rfl
@[simp] theorem takePeer_pw : (takePeer n s).pw = s.pw := rfl
@[simp] theorem takePeer_ctr : (takePeer n s).ctr = s.ctr := rfl
@[simp] theorem takePeer_log : (takePeer n s).log = s.log := rfl
@[simp] theorem takePeer_mem : (takePeer n s).mem = s.mem := rfl
@[simp] theorem takePeer_frames : (takePeer n s).frames = s.frames := rfl
@[simp] theorem takePeer_spans : (takePeer n s).spans = s.spans := rfl
@[simp] theorem takePeer_seqs : (takePeer n s).seqs = s.seqs := rfl
@[simp] theorem takePeer_masks : (takePeer n s).masks = s.masks := rfl
@[simp] theorem takePeer_dir : (takePeer n s).dir = s.dir := rfl
@[simp] theorem takePeer_vnodes : (takePeer n s).vnodes = s.vnodes := rfl
@[simp] theorem takePeer_host : (takePeer n s).host = s.host := rfl
@[simp] theorem takePeer_sync : (takePeer n s).sync = s.sync := rfl
@[simp] theorem takePeer_mgmt : (takePeer n s).mgmt = s.mgmt := rfl

end

section

variable (id : Nat)

@[simp] theorem undefer_pending : (undefer id s).pending = s.pending := rfl
@[simp] theorem undefer_knobs : (undefer id s).knobs = s.knobs := rfl
@[simp] theorem undefer_configured : (undefer id s).configured = s.configured := rfl
@[simp] theorem undefer_pw : (undefer id s).pw = s.pw := rfl
@[simp] theorem undefer_ctr : (undefer id s).ctr = s.ctr := rfl
@[simp] theorem undefer_log : (undefer id s).log = s.log := rfl
@[simp] theorem undefer_mem : (undefer id s).mem = s.mem := rfl
@[simp] theorem undefer_frames : (undefer id s).frames = s.frames := rfl
@[simp] theorem undefer_spans : (undefer id s).spans = s.spans := rfl
@[simp] theorem undefer_seqs : (undefer id s).seqs = s.seqs := rfl
@[simp] theorem undefer_masks : (undefer id s).masks = s.masks := rfl
@[simp] theorem undefer_dir : (undefer id s).dir = s.dir := rfl
@[simp] theorem undefer_vnodes : (undefer id s).vnodes = s.vnodes := rfl
@[simp] theorem undefer_host : (undefer id s).host = s.host := rfl
@[simp] theorem undefer_sync : (undefer id s).sync = s.sync := rfl
@[simp] theorem undefer_mgmt : (undefer id s).mgmt = s.mgmt := rfl

end

section

variable (tag : BitVec 32)

@[simp] theorem forget_pending : (forget tag s).pending = s.pending := rfl
@[simp] theorem forget_knobs : (forget tag s).knobs = s.knobs := rfl
@[simp] theorem forget_configured : (forget tag s).configured = s.configured := rfl
@[simp] theorem forget_pw : (forget tag s).pw = s.pw := rfl
@[simp] theorem forget_ctr : (forget tag s).ctr = s.ctr := rfl
@[simp] theorem forget_log : (forget tag s).log = s.log := rfl
@[simp] theorem forget_mem : (forget tag s).mem = s.mem := rfl
@[simp] theorem forget_frames : (forget tag s).frames = s.frames := rfl
@[simp] theorem forget_spans : (forget tag s).spans = s.spans := rfl
@[simp] theorem forget_seqs : (forget tag s).seqs = s.seqs := rfl
@[simp] theorem forget_masks : (forget tag s).masks = s.masks := rfl
@[simp] theorem forget_dir : (forget tag s).dir = s.dir := rfl
@[simp] theorem forget_vnodes : (forget tag s).vnodes = s.vnodes := rfl
@[simp] theorem forget_host : (forget tag s).host = s.host := rfl
@[simp] theorem forget_sync : (forget tag s).sync = s.sync := rfl
@[simp] theorem forget_mgmt : (forget tag s).mgmt = s.mgmt := rfl

end

section

variable (n : Nat) (f : ScrubPass → ScrubPass)

@[simp] theorem updPass_pending : (updPass n f s).pending = s.pending := rfl
@[simp] theorem updPass_knobs : (updPass n f s).knobs = s.knobs := rfl
@[simp] theorem updPass_configured : (updPass n f s).configured = s.configured := rfl
@[simp] theorem updPass_pw : (updPass n f s).pw = s.pw := rfl
@[simp] theorem updPass_ctr : (updPass n f s).ctr = s.ctr := rfl
@[simp] theorem updPass_log : (updPass n f s).log = s.log := rfl
@[simp] theorem updPass_mem : (updPass n f s).mem = s.mem := rfl
@[simp] theorem updPass_frames : (updPass n f s).frames = s.frames := rfl
@[simp] theorem updPass_spans : (updPass n f s).spans = s.spans := rfl
@[simp] theorem updPass_seqs : (updPass n f s).seqs = s.seqs := rfl
@[simp] theorem updPass_masks : (updPass n f s).masks = s.masks := rfl
@[simp] theorem updPass_dir : (updPass n f s).dir = s.dir := rfl
@[simp] theorem updPass_vnodes : (updPass n f s).vnodes = s.vnodes := rfl
@[simp] theorem updPass_host : (updPass n f s).host = s.host := rfl
@[simp] theorem updPass_sync : (updPass n f s).sync = s.sync := rfl
@[simp] theorem updPass_mgmt : (updPass n f s).mgmt = s.mgmt := rfl

end

section

variable (p : PageRef) (h : Option (List Byte))

@[simp] theorem awaitPage_pending : (awaitPage p h s).pending = s.pending := rfl
@[simp] theorem awaitPage_knobs : (awaitPage p h s).knobs = s.knobs := rfl
@[simp] theorem awaitPage_configured : (awaitPage p h s).configured = s.configured := rfl
@[simp] theorem awaitPage_pw : (awaitPage p h s).pw = s.pw := rfl
@[simp] theorem awaitPage_ctr : (awaitPage p h s).ctr = s.ctr := rfl
@[simp] theorem awaitPage_log : (awaitPage p h s).log = s.log := rfl
@[simp] theorem awaitPage_mem : (awaitPage p h s).mem = s.mem := rfl
@[simp] theorem awaitPage_frames : (awaitPage p h s).frames = s.frames := rfl
@[simp] theorem awaitPage_spans : (awaitPage p h s).spans = s.spans := rfl
@[simp] theorem awaitPage_seqs : (awaitPage p h s).seqs = s.seqs := rfl
@[simp] theorem awaitPage_masks : (awaitPage p h s).masks = s.masks := rfl
@[simp] theorem awaitPage_dir : (awaitPage p h s).dir = s.dir := rfl
@[simp] theorem awaitPage_vnodes : (awaitPage p h s).vnodes = s.vnodes := rfl
@[simp] theorem awaitPage_host : (awaitPage p h s).host = s.host := rfl
@[simp] theorem awaitPage_sync : (awaitPage p h s).sync = s.sync := rfl
@[simp] theorem awaitPage_mgmt : (awaitPage p h s).mgmt = s.mgmt := rfl

end

section

variable (n : Nat) (f : CodecSlot → CodecSlot)

@[simp] theorem updSlot_pending : (updSlot n f s).pending = s.pending := rfl
@[simp] theorem updSlot_knobs : (updSlot n f s).knobs = s.knobs := rfl
@[simp] theorem updSlot_configured : (updSlot n f s).configured = s.configured := rfl
@[simp] theorem updSlot_pw : (updSlot n f s).pw = s.pw := rfl
@[simp] theorem updSlot_ctr : (updSlot n f s).ctr = s.ctr := rfl
@[simp] theorem updSlot_log : (updSlot n f s).log = s.log := rfl
@[simp] theorem updSlot_mem : (updSlot n f s).mem = s.mem := rfl
@[simp] theorem updSlot_frames : (updSlot n f s).frames = s.frames := rfl
@[simp] theorem updSlot_spans : (updSlot n f s).spans = s.spans := rfl
@[simp] theorem updSlot_seqs : (updSlot n f s).seqs = s.seqs := rfl
@[simp] theorem updSlot_masks : (updSlot n f s).masks = s.masks := rfl
@[simp] theorem updSlot_dir : (updSlot n f s).dir = s.dir := rfl
@[simp] theorem updSlot_vnodes : (updSlot n f s).vnodes = s.vnodes := rfl
@[simp] theorem updSlot_host : (updSlot n f s).host = s.host := rfl
@[simp] theorem updSlot_sync : (updSlot n f s).sync = s.sync := rfl
@[simp] theorem updSlot_mgmt : (updSlot n f s).mgmt = s.mgmt := rfl

end

section

variable (b : Nat × Nat × Nat) (f : FlashBlock → FlashBlock)

@[simp] theorem updBlock_pending : (updBlock b f s).pending = s.pending := rfl
@[simp] theorem updBlock_knobs : (updBlock b f s).knobs = s.knobs := rfl
@[simp] theorem updBlock_configured : (updBlock b f s).configured = s.configured := rfl
@[simp] theorem updBlock_pw : (updBlock b f s).pw = s.pw := rfl
@[simp] theorem updBlock_ctr : (updBlock b f s).ctr = s.ctr := rfl
@[simp] theorem updBlock_log : (updBlock b f s).log = s.log := rfl
@[simp] theorem updBlock_mem : (updBlock b f s).mem = s.mem := rfl
@[simp] theorem updBlock_frames : (updBlock b f s).frames = s.frames := rfl
@[simp] theorem updBlock_spans : (updBlock b f s).spans = s.spans := rfl
@[simp] theorem updBlock_seqs : (updBlock b f s).seqs = s.seqs := rfl
@[simp] theorem updBlock_masks : (updBlock b f s).masks = s.masks := rfl
@[simp] theorem updBlock_dir : (updBlock b f s).dir = s.dir := rfl
@[simp] theorem updBlock_vnodes : (updBlock b f s).vnodes = s.vnodes := rfl
@[simp] theorem updBlock_host : (updBlock b f s).host = s.host := rfl
@[simp] theorem updBlock_sync : (updBlock b f s).sync = s.sync := rfl
@[simp] theorem updBlock_mgmt : (updBlock b f s).mgmt = s.mgmt := rfl

end

section

variable (fw : Nat) (l : Option Loader)

@[simp] theorem setLoad_pending : (setLoad fw l s).pending = s.pending := rfl
@[simp] theorem setLoad_knobs : (setLoad fw l s).knobs = s.knobs := rfl
@[simp] theorem setLoad_configured : (setLoad fw l s).configured = s.configured := rfl
@[simp] theorem setLoad_ctr : (setLoad fw l s).ctr = s.ctr := rfl
@[simp] theorem setLoad_log : (setLoad fw l s).log = s.log := rfl
@[simp] theorem setLoad_mem : (setLoad fw l s).mem = s.mem := rfl
@[simp] theorem setLoad_frames : (setLoad fw l s).frames = s.frames := rfl
@[simp] theorem setLoad_spans : (setLoad fw l s).spans = s.spans := rfl
@[simp] theorem setLoad_seqs : (setLoad fw l s).seqs = s.seqs := rfl
@[simp] theorem setLoad_masks : (setLoad fw l s).masks = s.masks := rfl
@[simp] theorem setLoad_dir : (setLoad fw l s).dir = s.dir := rfl
@[simp] theorem setLoad_vnodes : (setLoad fw l s).vnodes = s.vnodes := rfl
@[simp] theorem setLoad_host : (setLoad fw l s).host = s.host := rfl
@[simp] theorem setLoad_sync : (setLoad fw l s).sync = s.sync := rfl
@[simp] theorem setLoad_mgmt : (setLoad fw l s).mgmt = s.mgmt := rfl

end

section

variable (i : Nat) (d : List Byte)

@[simp] theorem extendMeas_pending : (extendMeas i d s).pending = s.pending := rfl
@[simp] theorem extendMeas_knobs : (extendMeas i d s).knobs = s.knobs := rfl
@[simp] theorem extendMeas_configured : (extendMeas i d s).configured = s.configured := rfl
@[simp] theorem extendMeas_pw : (extendMeas i d s).pw = s.pw := rfl
@[simp] theorem extendMeas_ctr : (extendMeas i d s).ctr = s.ctr := rfl
@[simp] theorem extendMeas_log : (extendMeas i d s).log = s.log := rfl
@[simp] theorem extendMeas_mem : (extendMeas i d s).mem = s.mem := rfl
@[simp] theorem extendMeas_frames : (extendMeas i d s).frames = s.frames := rfl
@[simp] theorem extendMeas_spans : (extendMeas i d s).spans = s.spans := rfl
@[simp] theorem extendMeas_seqs : (extendMeas i d s).seqs = s.seqs := rfl
@[simp] theorem extendMeas_masks : (extendMeas i d s).masks = s.masks := rfl
@[simp] theorem extendMeas_dir : (extendMeas i d s).dir = s.dir := rfl
@[simp] theorem extendMeas_vnodes : (extendMeas i d s).vnodes = s.vnodes := rfl
@[simp] theorem extendMeas_host : (extendMeas i d s).host = s.host := rfl
@[simp] theorem extendMeas_sync : (extendMeas i d s).sync = s.sync := rfl

end

end Sys2Proof.Machine
end

