-- ==== Sys2Proof/Laws/Tbl.lean ====
section
/-! SUPPORT. What a sparse table reads after each of its operations. -/

namespace Sys2Proof.Machine

variable {κ α : Type} [DecidableEq κ]

@[simp] theorem Tbl.at?_put_self (t : Tbl κ α) (k : κ) (v : α) : (t.put k v).at? k = some v := by
  induction t with
  | nil => simp [Tbl.put, Tbl.at?]
  | cons p r ih =>
    unfold Tbl.put
    split
    · simp [Tbl.at?]
    · rename_i h; simp only [Tbl.at?, if_neg h, ih]

theorem Tbl.at?_put_ne (t : Tbl κ α) {k k' : κ} (v : α) (h : k ≠ k') : (t.put k v).at? k' = t.at? k' := by
  induction t with
  | nil => simp [Tbl.put, Tbl.at?, h]
  | cons p r ih =>
    unfold Tbl.put
    split
    · rename_i e; simp only [Tbl.at?, if_neg h, if_neg (e ▸ h)]
    · simp only [Tbl.at?, ih]

theorem Tbl.atD_eq (t : Tbl κ α) (k : κ) (d : α) : t.atD k d = (t.at? k).getD d := by
  induction t with
  | nil => rfl
  | cons p r ih => unfold Tbl.atD Tbl.at?; split <;> simp [ih]

theorem Tbl.has_eq (t : Tbl κ α) (k : κ) : t.has k = (t.at? k).isSome := by
  induction t with
  | nil => rfl
  | cons p r ih => unfold Tbl.has Tbl.at?; split <;> simp [ih]

@[simp] theorem Tbl.atD_put_self (t : Tbl κ α) (k : κ) (v d : α) : (t.put k v).atD k d = v := by simp [Tbl.atD_eq]

theorem Tbl.atD_put_ne (t : Tbl κ α) {k k' : κ} (v d : α) (h : k ≠ k') : (t.put k v).atD k' d = t.atD k' d := by
  simp [Tbl.atD_eq, Tbl.at?_put_ne t v h]

@[simp] theorem Tbl.atD_upd_self (t : Tbl κ α) (k : κ) (d : α) (f : α → α) : (t.upd k d f).atD k d = f (t.atD k d) := by
  simp [Tbl.upd]

theorem Tbl.atD_upd_ne (t : Tbl κ α) {k k' : κ} (d e : α) (f : α → α) (h : k ≠ k') : (t.upd k d f).atD k' e = t.atD k' e :=
  Tbl.atD_put_ne t _ e h

@[simp] theorem Tbl.at?_upd_self (t : Tbl κ α) (k : κ) (d : α) (f : α → α) : (t.upd k d f).at? k = some (f (t.atD k d)) := by
  simp [Tbl.upd]

theorem Tbl.at?_upd_ne (t : Tbl κ α) {k k' : κ} (d : α) (f : α → α) (h : k ≠ k') : (t.upd k d f).at? k' = t.at? k' :=
  Tbl.at?_put_ne t _ h

@[simp] theorem Tbl.at?_del_self (t : Tbl κ α) (k : κ) : (t.del k).at? k = none := by
  induction t with
  | nil => rfl
  | cons p r ih =>
    unfold Tbl.del at ih ⊢
    by_cases h : p.1 = k
    · rw [List.filter_cons_of_neg (by simp [h])]; exact ih
    · rw [List.filter_cons_of_pos (by simp [h])]
      simp only [Tbl.at?, if_neg h]; exact ih

theorem Tbl.at?_del_ne (t : Tbl κ α) {k k' : κ} (h : k ≠ k') : (t.del k).at? k' = t.at? k' := by
  induction t with
  | nil => rfl
  | cons p r ih =>
    unfold Tbl.del at ih ⊢
    by_cases e : p.1 = k
    · rw [List.filter_cons_of_neg (by simp [e])]; simp only [Tbl.at?, if_neg (e ▸ h)]; exact ih
    · rw [List.filter_cons_of_pos (by simp [e])]; simp only [Tbl.at?, ih]

end Sys2Proof.Machine
end

