-- ==== Sys2Proof/Tests/Slice0.lean ====
section
/-! SUPPORT. Tests: the checks of `Instr.wf`, one witness for the hypotheses of each clause of each statement, and small steps. -/

namespace Sys2Proof.Tests

open Sys2Proof.Machine

set_option Elab.async false

/-! ## Small states -/

/-- A pair is its first part, where that is known, with its second. -/
theorem pair_of {α β : Type} {p : α × β} {a : α} (h : p.1 = a) : p = (a, p.2) := by rw [← h]

/-- A triple is its first two parts, where those are known, with its third. -/
theorem triple_of {α β γ : Type} {p : α × β × γ} {a : α} {b : β} (h : p.1 = a) (k : p.2.1 = b) : p = (a, b, p.2.2) := by rw [← h, ← k]

/-- An optional pair is its first part, where that is known, with its second. -/
theorem some_pair_of {α β : Type} {o : Option (α × β)} {a : α} {d : β} (h : o.map Prod.fst = some a) :
    o = some (a, (o.map Prod.snd).getD d) := by
  cases o with
  | none => simp at h
  | some p => simp at h; rw [← h]; rfl

/-- An optional pair that is there is its two parts. -/
theorem some_parts {α β : Type} {o : Option (α × β)} {a : α} {d : β} (h : o.isSome = true) :
    o = some ((o.map Prod.fst).getD a, (o.map Prod.snd).getD d) := by
  cases o with
  | none => simp at h
  | some p => rfl

/-- A header of a command with so many bytes of parameters. -/
def hdrOf (n : BitVec 21) : CmdHeader := ⟨0, 1, false, false, false, n, 0, 0, false, 0, false, 0, 0, 0, 0, 0, []⟩

/-- A command of node 2 that came over the fabric. -/
def cmd (n : BitVec 21) : Cmd := ⟨.fabric 0 2 0 0, hdrOf n, 0⟩

/-- The state with a command admitted, and whether the debug lock was open then. -/
def takesC (c : Cmd) (s : State) (dbg : Bool := false) : State :=
  { s with host := { s.host with admitted := [⟨1, c, s.knobs, false, false, dbg, [], mapFor s 0 c.hdr.mapEpoch⟩] } }

/-- The state in which its work starts. -/
def worksC (c : Cmd) (s : State) (dbg : Bool := false) : State := { takesC c s dbg with work := ⟨1, ringOf c⟩ }

/-- The same, of a command of node 2. -/
def takes (n : BitVec 21) (s : State) : State := takesC (cmd n) s

/-- The state in which its work starts. -/
def works (n : BitVec 21) (s : State) : State := worksC (cmd n) s

/-- A command that meets errors of the interface code. -/
def cmdL (n : BitVec 21) (k : Nat) : Cmd := { cmd n with links := k }

theorem same_cmd (c : Cmd) : sameCmd c c = true := by simp [sameCmd]

/-- An admitted command is served. -/
theorem servedC (c : Cmd) (dbg : Bool) {s : State} (e : c.hdr.rsv = []) (h : live s = true) :
    Serves c c.hdr.paramLen.toNat (takesC c s dbg) (takesC c s dbg) (worksC c s dbg) := by
  refine ⟨h, ?_, e, rfl⟩
  have : admission (takesC c s dbg) c = some ⟨1, c, s.knobs, false, false, dbg, [], mapFor s 0 c.hdr.mapEpoch⟩ := by
    simp [admission, takesC, same_cmd]
  unfold toWork
  rw [this]
  simp only [asWork, this]
  rfl

/-- A command of node 2 is. -/
theorem served (n : BitVec 21) {s : State} (h : live s = true) : Serves (cmd n) n.toNat (takes n s) (takes n s) (works n s) :=
  servedC (cmd n) false rfl h

/-- The same, for a length that is so many bytes. -/
theorem served_as (n : BitVec 21) {k : Nat} {s : State} (e : n.toNat = k) (h : live s = true) :
    Serves (cmd n) k (takes n s) (takes n s) (works n s) := by
  subst e; exact served n h

/-- A live node 1 whose member list names node 2, and that has a peer entry for it. -/
def node : VNode := { VNode.reset with nodeId := 1, peers := [(2, ⟨true, 0, 1, 0⟩)], map := some ⟨0, [(1, .live), (2, .draining)]⟩ }

/-- The node is up. -/
def up : State := { State.reset with pw := { Power.reset with up := true }, vnodes := [(0, node)] }

/-- A message of node 2. -/
def msg : Msg := ⟨0, 0, 2, 0, 0, 0, 0, 0⟩

/-- A queue pair to node 2 that is READY and idle. -/
def qp0 : Qp :=
  ⟨.ready, 2, 3, 0, 1, 7, 100, 10, 0, [], 0, false, none, [], 0, 0, 0, [], [], 0, 0, 0, [], [], 0, none, 0, 0⟩

/-- A message with a payload stands first in the headrace. -/
def entersM (m : Msg) (op : BitVec 8) (payload : List Byte) (s : State) : State :=
  { s with fab := { s.fab with
    qps := [(0, qp0)]
    entered := [⟨m.qpn, m.msn, ⟨op, BitVec.ofNat 21 payload.length, m.mapEpoch, m.addr, m.key, m.aux, false⟩, payload, Knobs.default⟩] } }

/-- A message of an operation does. -/
def enters (op : BitVec 8) (payload : List Byte) (s : State) : State := entersM msg op payload s

/-- A PEER message of node 2 about span 0 of handle 5. -/
def ph : PeerHdr := ⟨0, 2, false, 0, 0, 5, 0, 7, false, 0⟩

/-- No physical upset. -/
def calm : Upsets := Upsets.none

/-- A geometry: one layer and head of 64 elements. -/
def geo : Geometry := ⟨14, 1, 1, 0, 0, 0, false, 0, false⟩

/-- A span record without pages. -/
def span0 : SpanRec := ⟨0, 5, 0, geo, false, false, true, [], [], [], [], [], none, none, true, false, false, false, false, false, none⟩

/-- A sequence record with span 0 here. -/
def seq0 : SeqRec := ⟨0, 5, geo, [(0, 1)], 1, false, [], false, none, false, false⟩

/-- An address that holds an entry. -/
def holds (e : DirEntry) : DirCell := ⟨e, e, false, false, none⟩

/-- A request in service that has passed no pass. -/
def qdesc : QDesc := ⟨5, 0, 0, 0, 1, 0, 0, 0, 0, 1, 1, 0, 0, 0, false⟩

/-- A request of one page-less span. -/
def req0 : AttnReq :=
  ⟨.batch 1 0, 0, qdesc, geo, [], [], Knobs.default, 0, [], [], 0, .waiting, false, false, false, false, 0, 1, 0, 0, false, false,
    false, [], [], none, [], [], false, 0, [], none, []⟩

/-- Handle 5 with its sequence record in frame 1, span 0 in frame 2 and a mask set in frame 3, all entered in bank 0. -/
def stored : State := { up with
  dir := ⟨[(0, ⟨[(0, holds (dirEntry 0 5 0 kSpan 0 2)), (1, holds (dirEntry 0 5 0 kMask 0 3)), (2, holds (dirEntry 0 5 0 kSeq 0 1))],
    false, none, [], false⟩)], []⟩
  frames := [(1, ⟨.open_, 1, .map, 1, [], [], 0⟩), (2, ⟨.open_, 1, .map, 1, [], [], 0⟩), (3, ⟨.open_, 1, .mask, 1, [], [], 0⟩)]
  seqs := [(1, seq0)]
  spans := [(2, span0)]
  masks := [(3, ⟨0, 5, 0, 128, 64⟩)] }

/-! ## The directory, spans and appends -/

/-- An update of bank 15 is under way. -/
def moving15 : State := { up with dir := ⟨[(15, ⟨[], false, some (.insert DirEntry.empty none), [], false⟩)], []⟩ }

/-- Bank 15 is rebuilding. -/
def rebuilding15 : State := { up with dir := ⟨[(15, ⟨[], true, none, [], false⟩)], []⟩ }

/-- Bank 0 is rebuilding. -/
def moving : State := { up with dir := ⟨[(0, ⟨[], true, none, [], false⟩)], []⟩ }

/-- A tombstone at the last address of bank 0. -/
def tombed : State := { up with dir := ⟨[(0, ⟨[(4095, holds (dirEntry 0 5 0 kSpanTomb 0 0))], false, none, [], false⟩)], []⟩ }

/-- A command held for banks 0 and 1. -/
def theHeld : Deferred := ⟨1, 0, .bank 0 1, .kvAppend (cmd 64) [] calm, Knobs.default⟩

/-- It is held. -/
def held : State := { up with deferred := [theHeld] }

/-- A message is held. -/
def heldAppend : State := { up with deferred := [⟨1, 0, .bank 0 1, .append msg [] calm, Knobs.default⟩] }

/-- A query held for banks 0 and 1. -/
def theQuery : HeldQuery := ⟨.batch 0 0, 0, qdesc, [], Knobs.default, 0, 0, 0, 1, none, ⟨[], [], []⟩⟩

/-- It is held, as 9. -/
def heldQuery : State := { up with attn := { Attn.reset with held := [(9, theQuery)] } }

/-- Request 4 waits. -/
def asked : State := { up with attn := { Attn.reset with reqs := [(4, req0)] } }

/-- A sequence to be opened. -/
def open6 : SpanOpenBlk := ⟨6, 0, 0, 0, 0, 0, false, 0, false, 14⟩

/-- Node 2 has been asked to hold span 0. -/
def theSent : PeerSent := ⟨⟨0, 2, false, 0, 0, 5, 0, 7, .spanCreate geo [] true⟩, some 1, ⟨0, none⟩, 0⟩

/-- Its answer is awaited. -/
def asking : State := { up with peerSent := [(7, theSent)] }

/-- The target block of a whole sequence. -/
def whole : Target := ⟨5, 0, 0, 0, 0, 0, 0, 0, 0⟩

/-- A sequence record whose span lies on node 2. -/
def seq2 : SeqRec := { seq0 with places := [(0, 2)] }

/-- A sequence record is held here. -/
def ofSeq (q : SeqRec) : State := { stored with seqs := [(1, q)] }

/-- A SPAN.CLOSE waits for node 2. -/
def closing : State := { up with jobs := [(1, .close 0 5 [2] [cmd 32])] }

/-- The last frame is quarantined, with rows that do not read. -/
def quarantined (ue : List Nat) : State := { up with frames := [(0xFFFFFF, ⟨.quarantined, 0xFFFFFFFF, .none, 0, [], ue, 0⟩)] }

/-- A descriptor of one row of one head. -/
def desc : List Byte := words64 [5, 128, 2 ^ 21, 0, 0, 0, 0, 0]

/-- A page is queued for its seal. -/
def sealing : State := { up with sealQueue := [⟨⟨2, 0, 0, 0⟩, ⟨0, none⟩⟩] }

/-- A span owes itself a spare. -/
def owing : State := { up with spans := [(2, { span0 with spareOwed := some 0 })] }

/-- Span 0 alone is entered, and every frame-state entry is FREE. -/
def bare : State := { up with
  dir := ⟨[(0, ⟨[(0, holds (dirEntry 0 5 0 kSpan 0 2))], false, none, [], false⟩)], []⟩
  spans := [(2, span0)] }

/-- A head's scales, all one. -/
def ones : List (BitVec 32) := List.replicate 64 0x3F800000

/-- They are in range. -/
theorem ones_ok : ∀ x ∈ ones, sigmaOk x = true := by
  intro x h; rw [List.eq_of_mem_replicate h]; decide +kernel

/-- A KV.SMOOTH waits for node 2. -/
def smoothing : State := { up with jobs := [(1, .smooth (cmd 272) 0 5 0 0 [] [2] [2] true)] }

/-- An append waits for the twin. -/
def syncing : State := { up with jobs := [(1, .syncAppend (.msg msg) desc 2 0 0 1 Knobs.default 0)] }

/-- A descriptor with the FP32 rows that it names. -/
def oneRow : List Byte := desc ++ zeros 512

/-- What they convert to. -/
def theRows : List (List StoredRow) := (convertRows span0 (readAppend oneRow) oneRow).getD []

/-- The command held for banks 0 and 1 waits for one that is busy. -/
def heldBusy : State := { held with dir := ⟨[(1, ⟨[], true, none, [], false⟩)], []⟩ }

/-- So does the query. -/
def queryBusy : State := { heldQuery with dir := ⟨[(1, ⟨[], true, none, [], false⟩)], []⟩ }

/-- The first 32 addresses of bank 0 hold entries. -/
def packed : State := { up with
  dir := ⟨[(0, ⟨(List.range 32).map (fun i => (i, holds (dirEntry 0 (BitVec.ofNat 64 i) 0 kSpan 0 2))), false, none, [], false⟩)], []⟩ }

/-- The node is FENCED. -/
def selfFenced1 : State := { up with vnodes := [(0, { node with fenced := true })] }

/-- An append to span 0 is under way. -/
def appendingTo (s : State) : State := { s with jobs := [(1, .syncAppend (.msg msg) desc 2 0 0 1 Knobs.default 0)] }

/-- A TIER command is under way. -/
def tiering : State := { up with jobs := [(1, .tier (cmd 32) true [] 0)] }

/-- The mask set's frame has been cleared. -/
def maskClear : State := { stored with mem := ⟨[], [frameBase 3]⟩ }

/-- A mask page in frame 4 has its last slot free, and one that no query reads. -/
def maskPaged : State := { stored with
  maskPages := [(4, (List.range 15).map (fun i => (i, ⟨decide (i ≠ 14), []⟩)))] }

/-- The hypotheses of each clause of DirCommandsComplete can be met. -/
theorem witness_dir_commands_complete :
    (∃ c s b w, ∃ (first : BitVec 12) (count : BitVec 13), Serves c 8 s b w ∧ 1 ≤ count.toNat ∧ first.toNat + count.toNat ≤
      4096 ∧ 32 * count.toNat ≤ resultRoom b c)
    ∧ (∃ c handle u s b w t k a e, ∃ (span : SpanIx) (kind : BitVec 8), Serves c 16 s b w ∧ badHandle handle = false ∧
      kind.toNat % 16 = 0 ∧ kind.toNat < 64 ∧ 64 ≤ resultRoom b c ∧ search (vnodeOf w c) handle span.toNat (kind.toNat / 16)
      (applyDirUpsets u w) = (.hit k a e, t))
    ∧ (∃ c handle u s b w t, ∃ (span : SpanIx) (kind : BitVec 8), Serves c 16 s b w ∧ badHandle handle = false ∧ kind.toNat %
      16 = 0 ∧ kind.toNat < 64 ∧ search (vnodeOf w c) handle span.toNat (kind.toNat / 16) (applyDirUpsets u w) = (.miss, t))
    ∧ (∃ c handle u s b w t, ∃ (span : SpanIx) (kind : BitVec 8), Serves c 16 s b w ∧ badHandle handle = false ∧ kind.toNat %
      16 = 0 ∧ kind.toNat < 64 ∧ search (vnodeOf w c) handle span.toNat (kind.toNat / 16) (applyDirUpsets u w) = (.transient,
      t))
    ∧ (∃ c s b w, Serves c 0 s b w) :=
  ⟨
    ⟨(cmd 8), (takes 8 up), (takes 8 up), (works 8 up), 4095, 1, (served 8 rfl), (by decide +kernel), (by decide +kernel),
      (by decide +kernel)⟩,
    ⟨(cmd 16), 5, calm, (takes 16 stored), (takes 16 stored), (works 16 stored), (search (vnodeOf (works 16 stored) (cmd 16)) 5
      (0 : SpanIx).toNat ((0 : BitVec 8).toNat / 16) (applyDirUpsets calm (works 16 stored))).2, 0, 0, (dirEntry 0 5 0 kSpan 0
      2), 0, 0, (served 16 rfl), (by decide +kernel), (by decide +kernel), (by decide +kernel), (by decide +kernel), (pair_of
      (by decide +kernel))⟩,
    ⟨(cmd 16), 6, calm, (takes 16 stored), (takes 16 stored), (works 16 stored), (search (vnodeOf (works 16 stored) (cmd 16)) 6
      (0 : SpanIx).toNat ((48 : BitVec 8).toNat / 16) (applyDirUpsets calm (works 16 stored))).2, 0, 48, (served 16 rfl),
      (by decide +kernel), (by decide +kernel), (by decide +kernel), (pair_of (by decide +kernel))⟩,
    ⟨(cmd 16), 5, calm, (takes 16 moving), (takes 16 moving), (works 16 moving), (search (vnodeOf (works 16 moving) (cmd 16)) 5
      (0 : SpanIx).toNat ((0 : BitVec 8).toNat / 16) (applyDirUpsets calm (works 16 moving))).2, 0, 0, (served 16 rfl),
      (by decide +kernel), (by decide +kernel), (by decide +kernel), (pair_of (by decide +kernel))⟩,
    ⟨(cmd 0), (takes 0 up), (takes 0 up), (works 0 up), (served 0 rfl)⟩⟩

/-- The hypotheses of each clause of DirEventsComplete can be met. -/
theorem witness_dir_events_complete :
    (∃ s, ∃ (bank : BitVec 4), live s = true ∧ (bankAt s bank.toNat).current.isSome = true)
    ∧ (∃ s, ∃ (bank : BitVec 4), live s = true ∧ (bankAt s bank.toNat).rebuilding = true)
    ∧ (∃ s, live s = true)
    ∧ (∃ s, ∃ (bank : BitVec 4) (src : BitVec 12) (dst : BitVec 12), live s = true ∧ (bankAt s bank.toNat).current = none ∧
      (src.toNat + 1 = dst.toNat ∨ dst.toNat + 1 = src.toNat) ∧ ((bankAt s bank.toNat).cell src.toNat).shadow.valid = true ∧
      (bankAt s bank.toNat).hole dst.toNat = true ∧ (bankAt s bank.toNat).restores s.knobs.holeInterval = true)
    ∧ (∃ s, ∃ (bank : BitVec 4) (src : BitVec 12) (dst : BitVec 12), live s = true ∧ (bankAt s bank.toNat).current = none ∧
      (src.toNat + 1 = dst.toNat ∨ dst.toNat + 1 = src.toNat) ∧ ((bankAt s bank.toNat).cell src.toNat).shadow.valid = true ∧
      (bankAt s bank.toNat).hole dst.toNat = true ∧ (bankAt s bank.toNat).restores s.knobs.holeInterval = false)
    ∧ (∃ s, ∃ (bank : BitVec 4) (addr : BitVec 12), live s = true ∧ ((bankAt s bank.toNat).cell addr.toNat).shadow.valid = true
      ∧ ((bankAt s bank.toNat).cell addr.toNat).shadow.form = 3)
    ∧ (∃ job s d x y, live s = true ∧ s.deferred.find? (fun d => decide (d.id = job)) = some d ∧ d.why = .bank x y ∧ pairBusy s
      (x, y) = true)
    ∧ (∃ job s d x y, live s = true ∧ s.deferred.find? (fun d => decide (d.id = job)) = some d ∧ d.why = .bank x y ∧ pairBusy s
      (x, y) = false)
    ∧ (∃ job s q, live s = true ∧ s.deferred.find? (fun d => decide (d.id = job)) = none ∧ s.attn.held.at? job = some q ∧
      pairBusy s (q.b0, q.b1) = true)
    ∧ (∃ job s q, live s = true ∧ s.deferred.find? (fun d => decide (d.id = job)) = none ∧ s.attn.held.at? job = some q ∧
      pairBusy s (q.b0, q.b1) = false) :=
  ⟨
    ⟨moving15, 15, rfl, (by decide +kernel)⟩,
    ⟨rebuilding15, 15, rfl, (by decide +kernel)⟩,
    ⟨up, rfl⟩,
    ⟨packed, 0, 31, 32, rfl, (by decide +kernel), (by decide +kernel), (by decide +kernel), (by decide +kernel),
      (by decide +kernel)⟩,
    ⟨stored, 0, 2, 3, rfl, (by decide +kernel), (by decide +kernel), (by decide +kernel), (by decide +kernel),
      (by decide +kernel)⟩,
    ⟨tombed, 0, 4095, rfl, (by decide +kernel), (by decide +kernel)⟩,
    ⟨1, heldBusy, theHeld, 0, 1, rfl, (by decide +kernel), (by decide +kernel), (by decide +kernel)⟩,
    ⟨1, held, theHeld, 0, 1, rfl, (by decide +kernel), (by decide +kernel), (by decide +kernel)⟩,
    ⟨9, queryBusy, theQuery, rfl, (by decide +kernel), (by decide +kernel), (by decide +kernel)⟩,
    ⟨9, heldQuery, theQuery, rfl, (by decide +kernel), (by decide +kernel), (by decide +kernel)⟩⟩

/-- The hypotheses of each clause of SpanPlacementCompletes can be met. -/
theorem witness_span_placement_completes :
    (∃ c p s b w r t f s1, Serves c 32 s b w ∧ AllFill s ∧ fieldsPass (spanOpenFails p) = true ∧ findHome c p.handle w = (.stop
      r, t) ∧ r.status = stMiss ∧ newMapFrame (vnodeOf w c) .map t = some (f, s1) ∧ insertRefusal s1 (dirEntry (vnodeOf w c)
      p.handle 0 kSeq 0 f) = none)
    ∧ (∃ h s, Met h .other s ∧ AllFill s ∧ ownSpan (takePeer h.sender s) h.vnode h.handle h.span.toNat false = none)
    ∧ (∃ tag s x geo sm hi j, live s = true ∧ s.peerSent.at? tag = some x ∧ x.msg.body = .spanCreate geo sm hi ∧ x.job = some
      j)
    ∧ (∃ h s f r, Met h .other s ∧ AllFill s ∧ homeSeq (takePeer h.sender s) h.vnode h.handle = some f ∧ (takePeer h.sender
      s).seqs.at? f = some r ∧ seqBusy (takePeer h.sender s) h.vnode h.handle = false ∧ r.closing = false ∧ r.nextSpan =
      h.span.toNat + 1)
    ∧ (∃ h s f r, Met h .other s ∧ AllFill s ∧ homeSeq (takePeer h.sender s) h.vnode h.handle = some f ∧ (takePeer h.sender
      s).seqs.at? f = some r ∧ seqBusy (takePeer h.sender s) h.vnode h.handle = false ∧ r.closing = false ∧ h.span.toNat + 1 <
      r.nextSpan)
    ∧ (∃ h s f r, Met h .other s ∧ AllFill s ∧ homeSeq (takePeer h.sender s) h.vnode h.handle = some f ∧ (takePeer h.sender
      s).seqs.at? f = some r ∧ seqBusy (takePeer h.sender s) h.vnode h.handle = false ∧ (r.closing = true ∨ r.nextSpan <
      h.span.toNat + 1))
    ∧ (∃ c s b w f u q, ∃ (t : Target), Serves c 32 s b w ∧ AllFill s ∧ fieldsPass (targetFails t ⟨true, false, false, false,
      false⟩) = true ∧ 4 * t.spanCount.toNat ≤ resultRoom w c ∧ findHome c t.handle w = (.found f, u) ∧ u.seqs.at? f = some q ∧
      q.closing = false ∧ seqBusy u (vnodeOf w c) t.handle = false ∧ (t.spanFirst.toNat ≤ q.nextSpan ∧ q.nextSpan <
      t.spanFirst.toNat + t.spanCount.toNat))
    ∧ (∃ c s b w f u q, ∃ (t : Target), Serves c 32 s b w ∧ AllFill s ∧ fieldsPass (targetFails t ⟨true, false, false, false,
      false⟩) = true ∧ 4 * t.spanCount.toNat ≤ resultRoom w c ∧ findHome c t.handle w = (.found f, u) ∧ u.seqs.at? f = some q ∧
      q.closing = false ∧ seqBusy u (vnodeOf w c) t.handle = false ∧ t.spanFirst.toNat + t.spanCount.toNat ≤ q.nextSpan) :=
  ⟨
    ⟨(cmd 32), open6, (takes 32 up), (takes 32 up), (works 32 up), (Reply.st stMiss), (findHome (cmd 32) open6.handle (works 32
      up)).2, ((newMapFrame (vnodeOf (works 32 up) (cmd 32)) .map (findHome (cmd 32) open6.handle (works 32 up)).2).map
      Prod.fst).getD 0, ((newMapFrame (vnodeOf (works 32 up) (cmd 32)) .map (findHome (cmd 32) open6.handle (works 32
      up)).2).map Prod.snd).getD State.reset, (served 32 rfl), (fun _ => Nat.zero_lt_succ 2), (by decide +kernel), (pair_of
      (by decide +kernel)), (by decide +kernel), (some_parts (by decide +kernel)), (by decide +kernel)⟩,
    ⟨ph, up, ⟨rfl, by decide +kernel, rfl⟩, (fun _ => Nat.zero_lt_succ 2), (by decide +kernel)⟩,
    ⟨7, asking, theSent, geo, [], true, 1, rfl, (by decide +kernel), (by decide +kernel), (by decide +kernel)⟩,
    ⟨ph, stored, 1, seq0, ⟨rfl, by decide +kernel, rfl⟩, (fun _ => Nat.zero_lt_succ 2), (by decide +kernel),
      (by decide +kernel), (by decide +kernel), (by decide +kernel), (by decide +kernel)⟩,
    ⟨ph, (ofSeq { seq0 with nextSpan := 2 }), 1, { seq0 with nextSpan := 2 }, ⟨rfl, by decide +kernel, rfl⟩, (fun _ =>
      Nat.zero_lt_succ 2), (by decide +kernel), (by decide +kernel), (by decide +kernel), (by decide +kernel),
      (by decide +kernel)⟩,
    ⟨ph, (ofSeq { seq0 with closing := true }), 1, { seq0 with closing := true }, ⟨rfl, by decide +kernel, rfl⟩, (fun _ =>
      Nat.zero_lt_succ 2), (by decide +kernel), (by decide +kernel), (by decide +kernel), (by decide +kernel)⟩,
    ⟨(cmd 32), (takes 32 stored), (takes 32 stored), (works 32 stored), 1, (findHome (cmd 32) (⟨5, 1, 0, 0, 1, 0, 0, 0, 0⟩ :
      Target).handle (works 32 stored)).2, seq0, ⟨5, 1, 0, 0, 1, 0, 0, 0, 0⟩, (served 32 rfl), (fun _ => Nat.zero_lt_succ 2),
      (by decide +kernel), (by decide +kernel), (pair_of (by decide +kernel)), (by decide +kernel), (by decide +kernel),
      (by decide +kernel), (by decide +kernel)⟩,
    ⟨(cmd 32), (takes 32 stored), (takes 32 stored), (works 32 stored), 1, (findHome (cmd 32) (⟨5, 0, 0, 0, 1, 0, 0, 0, 0⟩ :
      Target).handle (works 32 stored)).2, seq0, ⟨5, 0, 0, 0, 1, 0, 0, 0, 0⟩, (served 32 rfl), (fun _ => Nat.zero_lt_succ 2),
      (by decide +kernel), (by decide +kernel), (pair_of (by decide +kernel)), (by decide +kernel), (by decide +kernel),
      (by decide +kernel), (by decide +kernel)⟩⟩

/-- The hypotheses of each clause of SpanCloseAndMoveComplete can be met. -/
theorem witness_span_close_and_move_complete :
    (∃ c t s b w f u q z, Serves c 32 s b w ∧ fieldsPass (targetFails t ⟨false, false, false, false, false⟩) = true ∧ findHome
      c t.handle w = (.found f, u) ∧ u.seqs.at? f = some q ∧ inHandoff u (vnodeOf w c) t.handle = false ∧ seqBusy u (vnodeOf w
      c) t.handle = false ∧ closingJob u (vnodeOf w c) t.handle = none ∧ beginClose (vnodeOf w c) t.handle none (mirrorSeq f
      (updSeq f (fun r => { r with closing := true }) u)) = (true, z) ∧ q.places.vals.eraseDups.filter (fun n => n ≠ (vn u
      (vnodeOf w c)).nodeId && memberState u (vnodeOf w c) n ≠ some .fenced) = [])
    ∧ (∃ c t s b w f u q done z, Serves c 32 s b w ∧ fieldsPass (targetFails t ⟨false, false, false, false, false⟩) = true ∧
      findHome c t.handle w = (.found f, u) ∧ u.seqs.at? f = some q ∧ inHandoff u (vnodeOf w c) t.handle = false ∧ seqBusy u
      (vnodeOf w c) t.handle = false ∧ closingJob u (vnodeOf w c) t.handle = none ∧ beginClose (vnodeOf w c) t.handle none
      (mirrorSeq f (updSeq f (fun r => { r with closing := true }) u)) = (done, z) ∧ (done = false ∨
      q.places.vals.eraseDups.filter (fun n => n ≠ (vn u (vnodeOf w c)).nodeId && memberState u (vnodeOf w c) n ≠ some .fenced)
      ≠ []))
    ∧ (∃ h s, Met h .other s ∧ inHandoff (takePeer h.sender s) h.vnode h.handle = false ∧ closingHere (takePeer h.sender s)
      h.vnode h.handle = false ∧ underWay (stopSpans h.vnode h.handle (takePeer h.sender s)) h.vnode h.handle = false)
    ∧ (∃ h s, Met h .other s ∧ inHandoff (takePeer h.sender s) h.vnode h.handle = false ∧ closingHere (takePeer h.sender s)
      h.vnode h.handle = false ∧ underWay (stopSpans h.vnode h.handle (takePeer h.sender s)) h.vnode h.handle = true)
    ∧ (∃ job s v h waiting c cs, live s = true ∧ s.jobs.at? job = some (.close v h waiting (c :: cs)))
    ∧ (∃ s, live s = true)
    ∧ (∃ h s f s1, Met h .other s ∧ AllFill s ∧ homeSeq (takePeer h.sender s) h.vnode h.handle = none ∧ newMapFrame h.vnode
      .map (takePeer h.sender s) = some (f, s1) ∧ insertRefusal s1 (dirEntry h.vnode h.handle 0 kSeq 0 f) = none)
    ∧ (∃ s, ∃ (frame : BitVec 24), live s = true ∧ (frameOf s frame.toNat).state = .quarantined ∧ (frameOf s frame.toNat).ue =
      [])
    ∧ (∃ s, ∃ (frame : BitVec 24), live s = true ∧ (frameOf s frame.toNat).state = .quarantined ∧ (frameOf s frame.toNat).ue ≠
      []) :=
  ⟨
    ⟨(cmd 32), whole, (takes 32 stored), (takes 32 stored), (works 32 stored), 1, (findHome (cmd 32) whole.handle (works 32
      stored)).2, seq0, (beginClose (vnodeOf (works 32 stored) (cmd 32)) whole.handle none (mirrorSeq 1 (updSeq 1 (fun r => { r
      with closing := true }) (findHome (cmd 32) whole.handle (works 32 stored)).2))).2, (served 32 rfl), (by decide +kernel),
      (pair_of (by decide +kernel)), (by decide +kernel), (by decide +kernel), (by decide +kernel), (by decide +kernel),
      (pair_of (by decide +kernel)), (by decide +kernel)⟩,
    ⟨(cmd 32), whole, (takes 32 (ofSeq seq2)), (takes 32 (ofSeq seq2)), (works 32 (ofSeq seq2)), 1, (findHome (cmd 32)
      whole.handle (works 32 (ofSeq seq2))).2, seq2, true, (beginClose (vnodeOf (works 32 (ofSeq seq2)) (cmd 32)) whole.handle
      none (mirrorSeq 1 (updSeq 1 (fun r => { r with closing := true }) (findHome (cmd 32) whole.handle (works 32 (ofSeq
      seq2))).2))).2, (served 32 rfl), (by decide +kernel), (pair_of (by decide +kernel)), (by decide +kernel),
      (by decide +kernel), (by decide +kernel), (by decide +kernel), (pair_of (by decide +kernel)), (by decide +kernel)⟩,
    ⟨ph, up, ⟨rfl, by decide +kernel, rfl⟩, (by decide +kernel), (by decide +kernel), (by decide +kernel)⟩,
    ⟨ph, (appendingTo stored), ⟨rfl, by decide +kernel, rfl⟩, (by decide +kernel), (by decide +kernel), (by decide +kernel)⟩,
    ⟨1, closing, 0, 5, [2], (cmd 32), [], rfl, (by decide +kernel)⟩,
    ⟨up, rfl⟩,
    ⟨ph, up, ((newMapFrame ph.vnode .map (takePeer ph.sender up)).map Prod.fst).getD 0, ((newMapFrame ph.vnode .map (takePeer
      ph.sender up)).map Prod.snd).getD State.reset, ⟨rfl, by decide +kernel, rfl⟩, (fun _ => Nat.zero_lt_succ 2),
      (by decide +kernel), (some_parts (by decide +kernel)), (by decide +kernel)⟩,
    ⟨(quarantined []), 0xFFFFFF, rfl, (by decide +kernel), (by decide +kernel)⟩,
    ⟨(quarantined [0]), 0xFFFFFF, rfl, (by decide +kernel), (by decide +kernel)⟩⟩

/-- The hypotheses of each clause of AppendCommandsEnter can be met. -/
theorem witness_append_commands_enter :
    (∃ m s, ∃ (payload : List Byte), live s = true ∧ AllFill s ∧ admits s m opAppend (fun p => decide (p = payload)) = true ∧
      hasPeer (takeMsg m s) m.vnode m.sender = true ∧ appendStep1 payload = none ∧ isFenced (takeMsg m s) m.vnode m.sender =
      false ∧ selfFenced (takeMsg m s) m.vnode = false ∧ (mapFor (takeMsg m s) m.vnode m.mapEpoch).isSome = true)
    ∧ (∃ m s o, ∃ (payload : List Byte), live s = true ∧ AllFill s ∧ admits s m opAppend (fun p => decide (p = payload)) = true
      ∧ hasPeer (takeMsg m s) m.vnode m.sender = true ∧ isFenced (takeMsg m s) m.vnode m.sender = false ∧ selfFenced (takeMsg m
      s) m.vnode = false ∧ appendStep1 payload = some o)
    ∧ (∃ m s, ∃ (payload : List Byte), live s = true ∧ AllFill s ∧ admits s m opAppend (fun p => decide (p = payload)) = true ∧
      hasPeer (takeMsg m s) m.vnode m.sender = true ∧ (isFenced (takeMsg m s) m.vnode m.sender = true ∨ selfFenced (takeMsg m
      s) m.vnode = true))
    ∧ (∃ m s, ∃ (payload : List Byte), live s = true ∧ AllFill s ∧ admits s m opAppend (fun p => decide (p = payload)) = false)
    ∧ (∃ c s b w, ∃ (payload : List Byte), Serves c payload.length s b w ∧ AllFill s ∧ appendStep1 payload = none) :=
  ⟨
    ⟨msg, (enters 1 desc up), desc, rfl, (fun _ => Nat.zero_lt_succ 2), (by decide +kernel), (by decide +kernel),
      (by decide +kernel), (by decide +kernel), (by decide +kernel), (by decide +kernel)⟩,
    ⟨msg, (enters 1 [] up), 12, [], rfl, (fun _ => Nat.zero_lt_succ 2), (by decide +kernel), (by decide +kernel),
      (by decide +kernel), (by decide +kernel), (by decide +kernel)⟩,
    ⟨msg, (enters 1 desc selfFenced1), desc, rfl, (fun _ => Nat.zero_lt_succ 2), (by decide +kernel), (by decide +kernel),
      (by decide +kernel)⟩,
    ⟨msg, up, desc, rfl, (fun _ => Nat.zero_lt_succ 2), (by decide +kernel)⟩,
    ⟨(cmd 64), (takes 64 up), (takes 64 up), (works 64 up), desc, (served_as 64 (by decide +kernel) rfl), (fun _ =>
      Nat.zero_lt_succ 2), (by decide +kernel)⟩⟩

/-- The hypotheses of each clause of AppendsWriteTheirRows can be met. -/
theorem witness_appends_write_their_rows :
    (∃ m u s rec r rows t z, ∃ (payload : List Byte), live s = true ∧ AllFill s ∧ admits s m opAppend (fun p => decide (p =
      payload)) = true ∧ hasPeer (takeMsg m s) m.vnode m.sender = true ∧ appendStep1 payload = none ∧ isFenced (takeMsg m s)
      m.vnode m.sender = false ∧ selfFenced (takeMsg m s) m.vnode = false ∧ (mapFor (takeMsg m s) m.vnode m.mapEpoch).isSome =
      true ∧ AppendFinds (.msg m) payload (applyDirUpsets u (takeMsg m s)) rec r t ∧ AppendPasses payload rec r rows t z ∧
      rowMessages z { r with handle := (readAppend payload).handle } (readAppend payload) rows = [])
    ∧ (∃ c u s b w rec r rows t z, ∃ (payload : List Byte), Serves c payload.length s b w ∧ AllFill s ∧ appendStep1 payload =
      none ∧ AppendFinds (.cmd c) payload (applyDirUpsets u w) rec r t ∧ AppendPasses payload rec r rows t z ∧ rowMessages z {
      r with handle := (readAppend payload).handle } (readAppend payload) rows = [])
    ∧ (∃ d r, hasNew r d = true)
    ∧ (∃ d r n, hasNew r d = true ∧ 2 ≤ n) :=
  ⟨
    ⟨msg, calm, (enters 1 oneRow stored), 2, span0, theRows, (findSpan 0 5 0 (applyDirUpsets calm (takeMsg msg (enters 1 oneRow
      stored)))).2, readNeeded 2 span0 (readAppend oneRow) false (findSpan 0 5 0 (applyDirUpsets calm (takeMsg msg (enters 1
      oneRow stored)))).2, oneRow, rfl, (fun _ => Nat.zero_lt_succ 2), (by decide +kernel), (by decide +kernel),
      (by decide +kernel), (by decide +kernel), (by decide +kernel), (by decide +kernel), ⟨by decide +kernel, pair_of
      (by decide +kernel), by decide +kernel, by decide +kernel, by decide +kernel⟩, ⟨by decide +kernel, by decide +kernel,
      by decide +kernel, by decide +kernel, by decide +kernel, by decide +kernel, rfl, by decide +kernel, by decide +kernel,
      by decide +kernel, by decide +kernel⟩, (by decide +kernel)⟩,
    ⟨(cmd 576), calm, (takes 576 stored), (takes 576 stored), (works 576 stored), 2, span0, theRows, (findSpan 0 5 0
      (applyDirUpsets calm (works 576 stored))).2, readNeeded 2 span0 (readAppend oneRow) false (findSpan 0 5 0 (applyDirUpsets
      calm (works 576 stored))).2, oneRow, (served_as 576 (by decide +kernel) rfl), (fun _ => Nat.zero_lt_succ 2),
      (by decide +kernel), ⟨by decide +kernel, pair_of (by decide +kernel), by decide +kernel, by decide +kernel,
      by decide +kernel⟩, ⟨by decide +kernel, by decide +kernel, by decide +kernel, by decide +kernel, by decide +kernel,
      by decide +kernel, rfl, by decide +kernel, by decide +kernel, by decide +kernel, by decide +kernel⟩, (by decide +kernel)⟩,
    ⟨(readAppend oneRow), span0, (by decide +kernel)⟩,
    ⟨(readAppend oneRow), span0, 2, (by decide +kernel), (by decide +kernel)⟩⟩

/-- The hypotheses of each clause of SealAndSpareComplete can be met. -/
theorem witness_seal_and_spare_complete :
    (∃ s i r, live s = true ∧ s.sealQueue = i :: r)
    ∧ (∃ s f, live s = true ∧ owedFirst s = some f) :=
  ⟨
    ⟨sealing, ⟨⟨2, 0, 0, 0⟩, ⟨0, none⟩⟩, [], rfl, (by decide +kernel)⟩,
    ⟨owing, 2, rfl, (by decide +kernel)⟩⟩

/-- The hypotheses of each clause of AppendReachesItsSpan can be met. -/
theorem witness_append_reaches_its_span :
    (∃ bs order s rec shared q t, ∃ (src : AppendSrc), behindHeld s order (srcVnode s src) (readAppend bs) = false ∧
      findSpanFor order.isSome (srcVnode s src) (readAppend bs).handle (readAppend bs).span s = (.found rec shared, t) ∧ spanAt
      t rec = some q ∧ appendGeometry q.geo (readAppend bs) bs.length = none ∧ heldHead t rec (readAppend bs) = none ∧ (shared
      && hasNew q (readAppend bs) && cowPending t (srcVnode s src) (readAppend bs)) = false) :=
    ⟨oneRow, none, stored, 2, false, span0, (findSpanFor none.isSome (srcVnode stored (.msg msg)) (readAppend oneRow).handle
      (readAppend oneRow).span stored).2, (.msg msg), (by decide +kernel), (pair_of (by decide +kernel)), (by decide +kernel),
      (by decide +kernel), (by decide +kernel), (by decide +kernel)⟩

/-- The hypotheses of each clause of SmoothAndAliasComplete can be met. -/
theorem witness_smooth_and_alias_complete :
    (∃ c handle s b w f t q, ∃ (layer : BitVec 16) (head : BitVec 8) (sigma : List (BitVec 32)), Serves c (16 + 4 * q.geo.dim)
      s b w ∧ badHandle handle = false ∧ findHome c handle w = (.found f, t) ∧ t.seqs.at? f = some q ∧ seqBusy t (vnodeOf w c)
      handle = false ∧ sigma.length = q.geo.dim ∧ head.toNat < q.geo.heads ∧ layer.toNat < q.geo.layers ∧ (∀ x ∈ sigma, sigmaOk
      x = true) ∧ q.places.vals.eraseDups.filter (fun n => n ≠ (vn t (vnodeOf w c)).nodeId) = [])
    ∧ (∃ c handle s b w f t q, ∃ (layer : BitVec 16) (head : BitVec 8) (sigma : List (BitVec 32)), Serves c (16 + 4 *
      q.geo.dim) s b w ∧ badHandle handle = false ∧ findHome c handle w = (.found f, t) ∧ t.seqs.at? f = some q ∧ seqBusy t
      (vnodeOf w c) handle = false ∧ sigma.length = q.geo.dim ∧ head.toNat < q.geo.heads ∧ layer.toNat < q.geo.layers ∧ (∀ x ∈
      sigma, sigmaOk x = true) ∧ q.places.vals.eraseDups.filter (fun n => n ≠ (vn t (vnodeOf w c)).nodeId) ≠ [])
    ∧ (∃ h s, Met h .other s)
    ∧ (∃ h s, Met h .other s)
    ∧ (∃ job s c v h l hd sg waiting asked nz, live s = true ∧ s.jobs.at? job = some (.smooth c v h l hd sg waiting asked nz))
    ∧ (∃ c s b w rec t x z q f s1, ∃ (p : AliasBlk), Serves c 32 s b w ∧ AllFill s ∧ c.links = 0 ∧ badHandle p.source = false ∧
      badHandle p.aliasHandle = false ∧ aliasKey p = p.aliasHandle ∧ p.aliasHandle.toNat / 2 ^ 20 = p.source.toNat / 2 ^ 20 ∧
      (p.priority = 0 ∨ (0x40 ≤ p.priority.toNat ∧ p.priority.toNat ≤ 0xBF)) ∧ findSpan (vnodeOf w c) p.source p.span.toNat w =
      (.found rec false, t) ∧ spanAt t rec = some x ∧ ((homeSeq t (vnodeOf w c) p.source).bind (fun g => t.seqs.at? g)).any
      (fun y => y.closing) = false ∧ readPages (fun _ => true) rec t = z ∧ spanAt z rec = some q ∧ q.pages.all (fun x => match
      pageContent z q.geo.fmt x.2.loc with | .bytes _ => true | _ => false) = true ∧ q.pages.findSome? (fun x => x.2.poison) =
      none ∧ (pagesOf (rec, q)).any (fun x => (awaited z x.1).isSome) = false ∧ q.pages.any (fun x => decide (x.2.loc = .lost))
      = false ∧ insertRefusal z (aliasEntry (vnodeOf w c) p 0) = none ∧ q.pages.length + 1 ≤ freeForUse z (vnodeOf w c) ∧
      newMapFrame (vnodeOf w c) .map z = some (f, s1)) :=
  ⟨
    ⟨(cmd 272), 5, (takes 272 stored), (takes 272 stored), (works 272 stored), 1, (findHome (cmd 272) 5 (works 272 stored)).2,
      seq0, 0, 0, ones, (served_as 272 (by decide +kernel) rfl), (by decide +kernel), (pair_of (by decide +kernel)),
      (by decide +kernel), (by decide +kernel), (by decide +kernel), (by decide +kernel), (by decide +kernel), ones_ok,
      (by decide +kernel)⟩,
    ⟨(cmd 272), 5, (takes 272 (ofSeq seq2)), (takes 272 (ofSeq seq2)), (works 272 (ofSeq seq2)), 1, (findHome (cmd 272) 5
      (works 272 (ofSeq seq2))).2, seq2, 0, 0, ones, (served_as 272 (by decide +kernel) rfl), (by decide +kernel), (pair_of
      (by decide +kernel)), (by decide +kernel), (by decide +kernel), (by decide +kernel), (by decide +kernel),
      (by decide +kernel), ones_ok, (by decide +kernel)⟩,
    ⟨ph, up, ⟨rfl, by decide +kernel, rfl⟩⟩,
    ⟨ph, up, ⟨rfl, by decide +kernel, rfl⟩⟩,
    ⟨1, smoothing, (cmd 272), 0, 5, 0, 0, [], [2], [2], true, rfl, (by decide +kernel)⟩,
    ⟨(cmd 32), (takes 32 bare), (takes 32 bare), (works 32 bare), 2, (findSpan (vnodeOf (works 32 bare) (cmd 32)) (⟨5, 6, 0, 0,
      6⟩ : AliasBlk).source (⟨5, 6, 0, 0, 6⟩ : AliasBlk).span.toNat (works 32 bare)).2, span0, readPages (fun _ => true) 2
      (findSpan 0 5 0 (works 32 bare)).2, span0, ((newMapFrame (vnodeOf (works 32 bare) (cmd 32)) .map (readPages (fun _ =>
      true) 2 (findSpan 0 5 0 (works 32 bare)).2)).map Prod.fst).getD 0, ((newMapFrame (vnodeOf (works 32 bare) (cmd 32)) .map
      (readPages (fun _ => true) 2 (findSpan 0 5 0 (works 32 bare)).2)).map Prod.snd).getD State.reset, ⟨5, 6, 0, 0, 6⟩,
      (served 32 rfl), (fun _ => Nat.zero_lt_succ 2), (by decide +kernel), (by decide +kernel), (by decide +kernel),
      (by decide +kernel), (by decide +kernel), (by decide +kernel), (pair_of (by decide +kernel)), (by decide +kernel),
      (by decide +kernel), rfl, (by decide +kernel), (by decide +kernel), (by decide +kernel), (by decide +kernel),
      (by decide +kernel), (by decide +kernel), (by decide +kernel), (some_parts (by decide +kernel))⟩⟩

/-- The hypotheses of each clause of RequestTimeoutsComplete can be met. -/
theorem witness_request_timeouts_complete :
    (∃ job s src d rec t, live s = true ∧ dropAppend job s = some (src, d, rec, t))
    ∧ (∃ req s, live s = true ∧ s.attn.reqs.has req = true)
    ∧ (∃ req s q, live s = true ∧ s.attn.reqs.has req = false ∧ s.attn.held.at? req = some q)
    ∧ (∃ req s src d rec t, live s = true ∧ s.attn.reqs.has req = false ∧ s.attn.held.at? req = none ∧ dropAppend req s = some
      (src, d, rec, t))
    ∧ (∃ req s d m bs u, live s = true ∧ s.attn.reqs.has req = false ∧ s.attn.held.at? req = none ∧ dropAppend req s = none ∧
      s.deferred.find? (fun d => decide (d.id = req)) = some d ∧ d.instr = .append m bs u)
    ∧ (∃ req s d c bs u, live s = true ∧ s.attn.reqs.has req = false ∧ s.attn.held.at? req = none ∧ dropAppend req s = none ∧
      s.deferred.find? (fun d => decide (d.id = req)) = some d ∧ d.instr = .kvAppend c bs u)
    ∧ (∃ req s c h ps busy, live s = true ∧ s.attn.reqs.has req = false ∧ s.attn.held.at? req = none ∧ dropAppend req s = none
      ∧ s.deferred.find? (fun d => decide (d.id = req)) = none ∧ s.jobs.at? req = some (.tier c h ps busy)) :=
  ⟨
    ⟨1, syncing, (.msg msg), (readAppend desc), 2, ((dropAppend 1 syncing).map (fun x => x.2.2.2)).getD State.reset, rfl, rfl⟩,
    ⟨4, asked, rfl, (by decide +kernel)⟩,
    ⟨9, heldQuery, theQuery, rfl, (by decide +kernel), (by decide +kernel)⟩,
    ⟨1, syncing, (.msg msg), (readAppend desc), 2, ((dropAppend 1 syncing).map (fun x => x.2.2.2)).getD State.reset, rfl,
      (by decide +kernel), (by decide +kernel), rfl⟩,
    ⟨1, heldAppend, ⟨1, 0, .bank 0 1, .append msg [] calm, Knobs.default⟩, msg, [], calm, rfl, (by decide +kernel),
      (by decide +kernel), (by decide +kernel), (by decide +kernel), (by decide +kernel)⟩,
    ⟨1, held, theHeld, (cmd 64), [], calm, rfl, (by decide +kernel), (by decide +kernel), (by decide +kernel),
      (by decide +kernel), (by decide +kernel)⟩,
    ⟨1, tiering, (cmd 32), true, [], 0, rfl, (by decide +kernel), (by decide +kernel), (by decide +kernel),
      (by decide +kernel), (by decide +kernel)⟩⟩

/-- The hypotheses of each clause of MaskCommandsComplete can be met. -/
theorem witness_mask_commands_complete :
    (∃ c handle s b w rec x t q f s1, ∃ (span : SpanIx) (maskRows : BitVec 14) (kind : BitVec 2), Serves c 32 s b w ∧ AllFill s
      ∧ c.links = 0 ∧ badHandle handle = false ∧ kind.toNat ≤ 1 ∧ maskRows.toNat % 128 = 0 ∧ 128 ≤ maskRows.toNat ∧
      maskRows.toNat ≤ 8192 ∧ findSpan (vnodeOf w c) handle span.toNat w = (.found rec x, t) ∧ spanAt t rec = some q ∧
      maskRows.toNat * q.geo.spanLen ≤ maskLimit ∧ maskOf t (vnodeOf w c) handle span.toNat = none ∧ newMapFrame (vnodeOf w c)
      .mask t = some (f, s1) ∧ insertRefusal s1 (dirEntry (vnodeOf w c) handle span.toNat kMask 0 f) = none)
    ∧ (∃ c handle s b w rec x t f y z m, ∃ (span : SpanIx) (row : BitVec 6) (col : BitVec 13) (tile : List Byte), Serves c 2080
      s b w ∧ AllFill s ∧ c.links = 0 ∧ badHandle handle = false ∧ tile.length = 2048 ∧ findSpan (vnodeOf w c) handle
      span.toNat w = (.found rec x, t) ∧ findMask (vnodeOf w c) handle span.toNat t = (.found f y, z) ∧ z.masks.at? f = some m
      ∧ col.toNat < m.cols ∧ row.toNat < m.rows / 128 ∧ tile.all (· == 0xFF) = true)
    ∧ (∃ c handle s b w rec x t f y z m, ∃ (span : SpanIx) (row : BitVec 6) (col : BitVec 13) (tile : List Byte), Serves c 2080
      s b w ∧ AllFill s ∧ c.links = 0 ∧ badHandle handle = false ∧ tile.length = 2048 ∧ findSpan (vnodeOf w c) handle
      span.toNat w = (.found rec x, t) ∧ findMask (vnodeOf w c) handle span.toNat t = (.found f y, z) ∧ z.masks.at? f = some m
      ∧ col.toNat < m.cols ∧ row.toNat < m.rows / 128 ∧ allZero tile = true)
    ∧ (∃ c handle s b w rec x t f y z m p i z1, ∃ (span : SpanIx) (row : BitVec 6) (col : BitVec 13) (tile : List Byte), Serves
      c 2080 s b w ∧ AllFill s ∧ c.links = 0 ∧ badHandle handle = false ∧ tile.length = 2048 ∧ findSpan (vnodeOf w c) handle
      span.toNat w = (.found rec x, t) ∧ findMask (vnodeOf w c) handle span.toNat t = (.found f y, z) ∧ z.masks.at? f = some m
      ∧ col.toNat < m.cols ∧ row.toNat < m.rows / 128 ∧ tile.all (· == 0xFF) = false ∧ allZero tile = false ∧ takeMaskSlot
      (vnodeOf w c) z = some (p, i, z1))
    ∧ (∃ c handle s b w rec x t f y z m a, ∃ (span : SpanIx) (row : BitVec 6) (col : BitVec 13) (tile : List Byte), Serves c
      2080 s b w ∧ AllFill s ∧ badHandle handle = false ∧ tile.length = 2048 ∧ tile.all (· == 0xFF) = true ∧ findSpan (vnodeOf
      w c) handle span.toNat w = (.found rec x, t) ∧ findMask (vnodeOf w c) handle span.toNat t = (.found f y, z) ∧ z.masks.at?
      f = some m ∧ col.toNat < m.cols ∧ row.toNat < m.rows / 128 ∧ firstChanged w.mem.cells (retireMaskSlot (tileEntry z f m
      row.toNat col.toNat) (hbmWrite (frameBase f + 4 * (row.toNat * m.cols + col.toNat)) (leBytes 4 (2 ^ 30)) z)).mem.cells =
      some a ∧ c.links = 1)
    ∧ (∃ c handle s b w rec x t f y z m a, ∃ (span : SpanIx) (row : BitVec 6) (col : BitVec 13) (tile : List Byte), Serves c
      2080 s b w ∧ AllFill s ∧ badHandle handle = false ∧ tile.length = 2048 ∧ tile.all (· == 0xFF) = true ∧ findSpan (vnodeOf
      w c) handle span.toNat w = (.found rec x, t) ∧ findMask (vnodeOf w c) handle span.toNat t = (.found f y, z) ∧ z.masks.at?
      f = some m ∧ col.toNat < m.cols ∧ row.toNat < m.rows / 128 ∧ firstChanged w.mem.cells (retireMaskSlot (tileEntry z f m
      row.toNat col.toNat) (hbmWrite (frameBase f + 4 * (row.toNat * m.cols + col.toNat)) (leBytes 4 (2 ^ 30)) z)).mem.cells =
      some a ∧ 2 ≤ c.links)
    ∧ (∃ c s b w rec x u f y z, ∃ (t : Target), Serves c 32 s b w ∧ t.spanCount = 1 ∧ fieldsPass (targetFails t ⟨true, false,
      false, false, false⟩) = true ∧ findSpan (vnodeOf w c) t.handle t.spanFirst.toNat w = (.found rec x, u) ∧ findMask
      (vnodeOf w c) t.handle t.spanFirst.toNat u = (.found f y, z))
    ∧ (∃ s x, ∃ (frame : BitVec 24) (slot : BitVec 4), live s = true ∧ (s.maskPages.atD frame.toNat []).at? slot.toNat = some x
      ∧ x.live = false ∧ queriesEnded s x.readers = true) :=
  ⟨
    ⟨(cmd 32), 5, (takes 32 bare), (takes 32 bare), (works 32 bare), 2, false, (findSpan (vnodeOf (works 32 bare) (cmd 32)) 5
      (0 : SpanIx).toNat (works 32 bare)).2, span0, ((newMapFrame (vnodeOf (works 32 bare) (cmd 32)) .mask (findSpan (vnodeOf
      (works 32 bare) (cmd 32)) 5 (0 : SpanIx).toNat (works 32 bare)).2).map Prod.fst).getD 0, ((newMapFrame (vnodeOf (works 32
      bare) (cmd 32)) .mask (findSpan (vnodeOf (works 32 bare) (cmd 32)) 5 (0 : SpanIx).toNat (works 32 bare)).2).map
      Prod.snd).getD State.reset, 0, 128, 1, (served 32 rfl), (fun _ => Nat.zero_lt_succ 2), (by decide +kernel),
      (by decide +kernel), (by decide +kernel), (by decide +kernel), (by decide +kernel), (by decide +kernel), (pair_of
      (by decide +kernel)), (by decide +kernel), (by decide +kernel), (by decide +kernel), (some_parts (by decide +kernel)),
      (by decide +kernel)⟩,
    ⟨(cmd 2080), 5, (takes 2080 stored), (takes 2080 stored), (works 2080 stored), 2, false, (findSpan (vnodeOf (works 2080
      stored) (cmd 2080)) 5 (0 : SpanIx).toNat (works 2080 stored)).2, 3, false, (findMask (vnodeOf (works 2080 stored) (cmd
      2080)) 5 (0 : SpanIx).toNat (findSpan (vnodeOf (works 2080 stored) (cmd 2080)) 5 (0 : SpanIx).toNat (works 2080
      stored)).2).2, ⟨0, 5, 0, 128, 64⟩, 0, 0, 63, (List.replicate 2048 0xFF), (served 2080 rfl), (fun _ => Nat.zero_lt_succ
      2), (by decide +kernel), (by decide +kernel), (by decide +kernel), (pair_of (by decide +kernel)), (pair_of
      (by decide +kernel)), (by decide +kernel), (by decide +kernel), (by decide +kernel), (by decide +kernel)⟩,
    ⟨(cmd 2080), 5, (takes 2080 stored), (takes 2080 stored), (works 2080 stored), 2, false, (findSpan (vnodeOf (works 2080
      stored) (cmd 2080)) 5 (0 : SpanIx).toNat (works 2080 stored)).2, 3, false, (findMask (vnodeOf (works 2080 stored) (cmd
      2080)) 5 (0 : SpanIx).toNat (findSpan (vnodeOf (works 2080 stored) (cmd 2080)) 5 (0 : SpanIx).toNat (works 2080
      stored)).2).2, ⟨0, 5, 0, 128, 64⟩, 0, 0, 63, (List.replicate 2048 0), (served 2080 rfl), (fun _ => Nat.zero_lt_succ 2),
      (by decide +kernel), (by decide +kernel), (by decide +kernel), (pair_of (by decide +kernel)), (pair_of
      (by decide +kernel)), (by decide +kernel), (by decide +kernel), (by decide +kernel), (by decide +kernel)⟩,
    ⟨(cmd 2080), 5, (takes 2080 maskPaged), (takes 2080 maskPaged), (works 2080 maskPaged), 2, false, (findSpan (vnodeOf (works
      2080 maskPaged) (cmd 2080)) 5 (0 : SpanIx).toNat (works 2080 maskPaged)).2, 3, false, (findMask (vnodeOf (works 2080
      maskPaged) (cmd 2080)) 5 (0 : SpanIx).toNat (findSpan (vnodeOf (works 2080 maskPaged) (cmd 2080)) 5 (0 : SpanIx).toNat
      (works 2080 maskPaged)).2).2, ⟨0, 5, 0, 128, 64⟩, 4, 15, (findMask 0 5 0 (findSpan 0 5 0 (works 2080 maskPaged)).2).2, 0,
      0, 63, (List.replicate 2048 1), (served 2080 rfl), (fun _ => Nat.zero_lt_succ 2), (by decide +kernel),
      (by decide +kernel), (by decide +kernel), (pair_of (by decide +kernel)), (pair_of (by decide +kernel)),
      (by decide +kernel), (by decide +kernel), (by decide +kernel), (by decide +kernel), (by decide +kernel), rfl⟩,
    ⟨(cmdL 2080 1), 5, (takesC (cmdL 2080 1) maskClear), (takesC (cmdL 2080 1) maskClear), (worksC (cmdL 2080 1) maskClear), 2,
      false, (findSpan (vnodeOf (worksC (cmdL 2080 1) maskClear) (cmdL 2080 1)) 5 (0 : SpanIx).toNat (worksC (cmdL 2080 1)
      maskClear)).2, 3, false, (findMask (vnodeOf (worksC (cmdL 2080 1) maskClear) (cmdL 2080 1)) 5 (0 : SpanIx).toNat
      (findSpan (vnodeOf (worksC (cmdL 2080 1) maskClear) (cmdL 2080 1)) 5 (0 : SpanIx).toNat (worksC (cmdL 2080 1)
      maskClear)).2).2, ⟨0, 5, 0, 128, 64⟩, (frameBase 3 + 255), 0, 0, 63, (List.replicate 2048 0xFF), (servedC _ false rfl
      rfl), (fun _ => Nat.zero_lt_succ 2), (by decide +kernel), (by decide +kernel), (by decide +kernel), (pair_of
      (by decide +kernel)), (pair_of (by decide +kernel)), (by decide +kernel), (by decide +kernel), (by decide +kernel),
      (by decide +kernel), (by decide +kernel)⟩,
    ⟨(cmdL 2080 2), 5, (takesC (cmdL 2080 2) maskClear), (takesC (cmdL 2080 2) maskClear), (worksC (cmdL 2080 2) maskClear), 2,
      false, (findSpan (vnodeOf (worksC (cmdL 2080 2) maskClear) (cmdL 2080 2)) 5 (0 : SpanIx).toNat (worksC (cmdL 2080 2)
      maskClear)).2, 3, false, (findMask (vnodeOf (worksC (cmdL 2080 2) maskClear) (cmdL 2080 2)) 5 (0 : SpanIx).toNat
      (findSpan (vnodeOf (worksC (cmdL 2080 2) maskClear) (cmdL 2080 2)) 5 (0 : SpanIx).toNat (worksC (cmdL 2080 2)
      maskClear)).2).2, ⟨0, 5, 0, 128, 64⟩, (frameBase 3 + 255), 0, 0, 63, (List.replicate 2048 0xFF), (servedC _ false rfl
      rfl), (fun _ => Nat.zero_lt_succ 2), (by decide +kernel), (by decide +kernel), (by decide +kernel), (pair_of
      (by decide +kernel)), (pair_of (by decide +kernel)), (by decide +kernel), (by decide +kernel), (by decide +kernel),
      (by decide +kernel), (by decide +kernel)⟩,
    ⟨(cmd 32), (takes 32 stored), (takes 32 stored), (works 32 stored), 2, false, (findSpan (vnodeOf (works 32 stored) (cmd
      32)) (⟨5, 0, 0, 0, 1, 0, 0, 0, 0⟩ : Target).handle (⟨5, 0, 0, 0, 1, 0, 0, 0, 0⟩ : Target).spanFirst.toNat (works 32
      stored)).2, 3, false, (findMask (vnodeOf (works 32 stored) (cmd 32)) (⟨5, 0, 0, 0, 1, 0, 0, 0, 0⟩ : Target).handle (⟨5,
      0, 0, 0, 1, 0, 0, 0, 0⟩ : Target).spanFirst.toNat (findSpan (vnodeOf (works 32 stored) (cmd 32)) (⟨5, 0, 0, 0, 1, 0, 0,
      0, 0⟩ : Target).handle (⟨5, 0, 0, 0, 1, 0, 0, 0, 0⟩ : Target).spanFirst.toNat (works 32 stored)).2).2, ⟨5, 0, 0, 0, 1, 0,
      0, 0, 0⟩, (served 32 rfl), (by decide +kernel), (by decide +kernel), (pair_of (by decide +kernel)), (pair_of
      (by decide +kernel))⟩,
    ⟨maskPaged, ⟨false, []⟩, 4, 14, rfl, (by decide +kernel), (by decide +kernel), (by decide +kernel)⟩⟩


/-! ## The runners and stacks -/

/-- A runner command of pseudo-channel 0 that the scheduler can issue. -/
def rnk : RnCmd := ⟨0, 0, 0, 0, 0, 0, 0, 0, 0, 0, false, 0, 0, 0, 0, 7, 0, 0, []⟩

/-- One that it never issues. -/
def rnBad : RnCmd := { rnk with rsv := 1 }

/-- A sequence runs on stack 0, pseudo-channel 0, with so many refreshes owed. -/
def running (owed : Nat) : State := { up with
  runners := [((0, 0), { Runner.reset with live := [(7, ⟨0, false, false, false, none⟩)] })], hbmStacks := [(0, { Stack.reset with owed := [(0, owed)] })] }

/-- A wide query is loaded under another tag. -/
def wideQuery : State := { up with runners := [((0, 0), { Runner.reset with live := [(8, ⟨0, true, false, false, none⟩)] })] }

/-- A runner command waits. -/
def waitingRunner : State := { up with deferred := [⟨1, 0, .runner 0 0, .rnScore 0 rnk calm, Knobs.default⟩] }

/-- The first codeword of the command's sweep cannot be corrected. -/
def badCw : State := { up with hbm := { Hbm.reset with errs := [((sweep 0 rnk).1 / 32, [(0, 1), (1, 1), (2, 1), (3, 1)])] } }

/-- Every codeword of stack 7 has been read. -/
def allRead : State := { up with
  hbm := { Hbm.reset with passes := [(7, { ScrubPass.reset with next := (List.range 32).map (fun pc => (pc, rowsPerPc)) })] } }

/-- Stack 0 is throttled. -/
def throttled (level : Nat) : State := { up with hbmStacks := [(0, { Stack.reset with throttle := level })] }

/-- Frame 4 drains. -/
def drains : State := { up with frames := [(4, ⟨.draining, 1, .data, 0, [.query 9], [], 0⟩)] }

/-- No stack runs a pass. -/
def noPass : State := { up with
  hbm := { Hbm.reset with passes := (List.range 8).map (fun n => (n, { ScrubPass.reset with running := false })) } }

/-! ## Pages -/

/-- A sealed page in frame 10. -/
def page0 : Page := ⟨.frame 10 1, true, zeros 32, 0, none, false, none, 0, true, none⟩

/-- Its name. -/
def at0 : PageRef := ⟨2, 0, 0, 0⟩

/-- A span record whose one page is full. -/
def span1 : SpanRec := { span0 with pages := [((0, 0, 0), page0)], fills := [((0, 0), 128)], acked := [((0, 0), 128)] }

/-- A state whose span 0 of handle 5 has that page. -/
def pagedWith (x : Page) : State := { stored with
  frames := (10, ⟨.sealed, 1, .data, 1, [], [], 0⟩) :: stored.frames
  spans := [(2, { span1 with pages := [((0, 0, 0), x)] })] }

/-- The page is there. -/
def paged : State := pagedWith page0

/-- FULL_VERIFY. -/
def verifying : State := { paged with hbm := { Hbm.reset with verifyMode := 2 } }

/-- The twin's copy is awaited. -/
def awaiting : State := { paged with hbm := { Hbm.reset with awaiting := [(at0, none)] } }

/-- A page of a parity stripe is awaited. -/
def codedPage : Page := { page0 with coded := some (3, 0, 1) }

/-- It is awaited. -/
def awaitingCoded : State := { pagedWith codedPage with hbm := { Hbm.reset with awaiting := [(at0, none)] } }

/-- Node 1 with node 2 as its twin, in a state of the pair. -/
def twinned (st : PairState) : VNode := { node with pairState := st, twin := 2, pairEpoch := 9, twinUp := true }

/-- Node 1 is paired. -/
def pairedUp (s : State) : State := { s with vnodes := [(0, twinned .paired)] }

/-- A PEER message over the twin link. -/
def phT : PeerHdr := ⟨0, 2, true, 9, 0, 5, 0, 7, false, 0⟩

/-! ## Queries -/

/-- A message of one descriptor with one row. -/
def query1 : List Byte := words64 [5, 0, 0x3F800000 * 2 ^ 32, 0, 0, 0, 0, 0] ++ zeros 256

/-- Its descriptors. -/
def query1Ds : List (QDesc × List Byte) := (readQuery query1).getD []

/-- A page of span 1 in frame 10, one token of which is in place, masked for a row at position 0. -/
def rp : ReqPage := ⟨at0, 1, none, none, 1, 1, 5, false, zeros 32, 0, .engine, some [], false⟩

/-- A request with two pages. -/
def req2 : AttnReq := { req0 with pages := [rp, rp], desc := { qdesc with maskMode := 1, mult := 0x3F800000 }, query := [List.replicate 64 0] }

/-- That request in a phase. -/
def reqIn (p : ReqPhase) : AttnReq := { req2 with phase := p }

/-- Request 4 in a phase. -/
def asking4 (q : AttnReq) : State := { up with attn := { Attn.reset with reqs := [(4, q)] } }

/-- A request whose merged output overflows at the end of its segment. -/
def overflowing : AttnReq := { reqIn .segmentEnd with cores := [(0, [⟨0, 0x3F800000, 0, 0, 0, 0, 0, 0, 1, [0x7F800000]⟩])] }

/-- The node has no map. -/
def noMap : State := { up with vnodes := [(0, { node with map := none })] }

/-- Fan-out 3, which waits for node 2. -/
def fan3 : Fanout := ⟨0, 0, 0, qdesc, [⟨0, 1, 2, .waiting []⟩], none, geo, false⟩

/-- It waits. -/
def fanned : State := { up with attn := { Attn.reset with fanouts := [(3, fan3)] } }

/-- The hypotheses of each clause of RunnerRegisterCommandsComplete can be met. -/
theorem witness_runner_register_commands_complete :
    (∃ s, ∃ (stack : BitVec 3) (k : RnCmd), Issues 0 stack k s)
    ∧ (∃ s, ∃ (stack : BitVec 3) (k : RnCmd), Issues 1 stack k s ∧ k.regs = [] ∧ noRoomFor (runnerAt s stack.toNat k.pc.toNat)
      k = true)
    ∧ (∃ s, ∃ (stack : BitVec 3) (k : RnCmd), Issues 1 stack k s ∧ k.regs = [] ∧ noRoomFor (runnerAt s stack.toNat k.pc.toNat)
      k = false)
    ∧ (∃ s, ∃ (stack : BitVec 3) (k : RnCmd), Issues 4 stack k s ∧ k.regs = [] ∧ seqEnded s stack.toNat k.pc.toNat k.seqTag =
      false)
    ∧ (∃ s, ∃ (stack : BitVec 3) (k : RnCmd), Issues 6 stack k s ∧ k.regs = [] ∧ seqEnded s stack.toNat k.pc.toNat k.seqTag =
      false)
    ∧ (∃ s, ∃ (stack : BitVec 3) (k : RnCmd), Issues 10 stack k s ∧ (runnerAt s stack.toNat k.pc.toNat).live.at? k.seqTag =
      none)
    ∧ (∃ s, ∃ (stack : BitVec 3) (k : RnCmd) (q : RnSeq), Issues 10 stack k s ∧ (runnerAt s stack.toNat k.pc.toNat).live.at?
      k.seqTag = some q ∧ q.ended = false)
    ∧ (∃ s, ∃ (stack : BitVec 3) (k : RnCmd), Issues 11 stack k s) :=
  ⟨
    ⟨up, 0, rnk, ⟨rfl, by decide +kernel, by decide +kernel, by decide +kernel⟩⟩,
    ⟨wideQuery, 0, rnk, ⟨rfl, by decide +kernel, by decide +kernel, by decide +kernel⟩, (by decide +kernel),
      (by decide +kernel)⟩,
    ⟨up, 0, rnk, ⟨rfl, by decide +kernel, by decide +kernel, by decide +kernel⟩, (by decide +kernel), (by decide +kernel)⟩,
    ⟨up, 0, rnk, ⟨rfl, by decide +kernel, by decide +kernel, by decide +kernel⟩, (by decide +kernel), (by decide +kernel)⟩,
    ⟨up, 0, rnk, ⟨rfl, by decide +kernel, by decide +kernel, by decide +kernel⟩, (by decide +kernel), (by decide +kernel)⟩,
    ⟨up, 0, rnk, ⟨rfl, by decide +kernel, by decide +kernel, by decide +kernel⟩, (by decide +kernel)⟩,
    ⟨(running 0), 0, rnk, ⟨0, false, false, false, none⟩, ⟨rfl, by decide +kernel, by decide +kernel, by decide +kernel⟩,
      (by decide +kernel), (by decide +kernel)⟩,
    ⟨up, 0, rnk, ⟨rfl, by decide +kernel, by decide +kernel, by decide +kernel⟩⟩⟩

/-- The hypotheses of each clause of RunnerSweeps can be met. -/
theorem witness_runner_sweeps :
    (∃ u s g t, ∃ (stack : BitVec 3) (k : RnCmd), Issues 2 stack k s ∧ meetRegs stack.toNat k u (applyHbmUpsets u s) = (true,
      g) ∧ readSweep .runner stack.toNat k g = (true, t))
    ∧ (∃ u s g t, ∃ (stack : BitVec 3) (k : RnCmd), Issues 3 stack k s ∧ meetRegs stack.toNat k u (applyHbmUpsets u s) = (true,
      g) ∧ readSweep .runner stack.toNat k g = (true, t))
    ∧ (∃ u s g t, ∃ (stack : BitVec 3) (k : RnCmd), Issues 5 stack k s ∧ meetRegs stack.toNat k u (applyHbmUpsets u s) = (true,
      g) ∧ readSweep .runner stack.toNat k g = (true, t))
    ∧ (∃ s g, ∃ (stack : BitVec 3) (k : RnCmd) (u : Upsets), Issues 7 stack k s ∧ u.linkFails = 0 ∧ meetRegs stack.toNat k u
      (startWrite stack.toNat k (applyHbmUpsets u s)) = (true, g))
    ∧ (∃ s g, ∃ (stack : BitVec 3) (k : RnCmd) (u : Upsets), Issues 7 stack k s ∧ u.linkFails = 1 ∧ meetRegs stack.toNat k u
      (startWrite stack.toNat k (applyHbmUpsets u s)) = (true, g))
    ∧ (∃ s g, ∃ (stack : BitVec 3) (k : RnCmd) (u : Upsets), Issues 7 stack k s ∧ 2 ≤ u.linkFails ∧ meetRegs stack.toNat k u
      (startWrite stack.toNat k (applyHbmUpsets u s)) = (true, g))
    ∧ (∃ s g t, ∃ (stack : BitVec 3) (k : RnCmd) (u : Upsets), Issues 8 stack k s ∧ u.linkFails = 0 ∧ meetRegs stack.toNat k u
      (startWrite stack.toNat k (applyHbmUpsets u s)) = (true, g) ∧ readSweep .runner stack.toNat k g = (true, t))
    ∧ (∃ u s g t, ∃ (stack : BitVec 3) (k : RnCmd), Issues 9 stack k s ∧ meetRegs stack.toNat k u (startWrite stack.toNat k
      (applyHbmUpsets u s)) = (true, g) ∧ scrubRange (sweep stack.toNat k).1 (sweep stack.toNat k).2 (updRnStatus stack.toNat
      k.pc.toNat k.seqTag (fun x => { x with ceCount := min 65535 (x.ceCount + (correctedIn g (sweep stack.toNat k).1 (sweep
      stack.toNat k).2).length) }) g) = (true, t)) :=
  ⟨
    ⟨calm, up, (meetRegs (0 : BitVec 3).toNat rnk calm (applyHbmUpsets calm up)).2, (readSweep .runner (0 : BitVec 3).toNat rnk
      (meetRegs (0 : BitVec 3).toNat rnk calm (applyHbmUpsets calm up)).2).2, 0, rnk, ⟨rfl, by decide +kernel,
      by decide +kernel, by decide +kernel⟩, (pair_of (by decide +kernel)), (pair_of (by decide +kernel))⟩,
    ⟨calm, up, (meetRegs (0 : BitVec 3).toNat rnk calm (applyHbmUpsets calm up)).2, (readSweep .runner (0 : BitVec 3).toNat rnk
      (meetRegs (0 : BitVec 3).toNat rnk calm (applyHbmUpsets calm up)).2).2, 0, rnk, ⟨rfl, by decide +kernel,
      by decide +kernel, by decide +kernel⟩, (pair_of (by decide +kernel)), (pair_of (by decide +kernel))⟩,
    ⟨calm, up, (meetRegs (0 : BitVec 3).toNat rnk calm (applyHbmUpsets calm up)).2, (readSweep .runner (0 : BitVec 3).toNat rnk
      (meetRegs (0 : BitVec 3).toNat rnk calm (applyHbmUpsets calm up)).2).2, 0, rnk, ⟨rfl, by decide +kernel,
      by decide +kernel, by decide +kernel⟩, (pair_of (by decide +kernel)), (pair_of (by decide +kernel))⟩,
    ⟨up, (meetRegs (0 : BitVec 3).toNat rnk calm (startWrite (0 : BitVec 3).toNat rnk (applyHbmUpsets calm up))).2, 0, rnk,
      calm, ⟨rfl, by decide +kernel, by decide +kernel, by decide +kernel⟩, (by decide +kernel), (pair_of (by decide +kernel))⟩,
    ⟨up, (meetRegs (0 : BitVec 3).toNat rnk ({ calm with linkFails := 1 }) (startWrite (0 : BitVec 3).toNat rnk (applyHbmUpsets
      ({ calm with linkFails := 1 }) up))).2, 0, rnk, { calm with linkFails := 1 }, ⟨rfl, by decide +kernel, by decide +kernel,
      by decide +kernel⟩, (by decide +kernel), (pair_of (by decide +kernel))⟩,
    ⟨up, (meetRegs (0 : BitVec 3).toNat rnk ({ calm with linkFails := 2 }) (startWrite (0 : BitVec 3).toNat rnk (applyHbmUpsets
      ({ calm with linkFails := 2 }) up))).2, 0, rnk, { calm with linkFails := 2 }, ⟨rfl, by decide +kernel, by decide +kernel,
      by decide +kernel⟩, (by decide +kernel), (pair_of (by decide +kernel))⟩,
    ⟨up, (meetRegs (0 : BitVec 3).toNat rnk calm (startWrite (0 : BitVec 3).toNat rnk (applyHbmUpsets calm up))).2, (readSweep
      .runner (0 : BitVec 3).toNat rnk (meetRegs (0 : BitVec 3).toNat rnk calm (startWrite (0 : BitVec 3).toNat rnk
      (applyHbmUpsets calm up))).2).2, 0, rnk, calm, ⟨rfl, by decide +kernel, by decide +kernel, by decide +kernel⟩,
      (by decide +kernel), (pair_of (by decide +kernel)), (pair_of (by decide +kernel))⟩,
    ⟨calm, up, (meetRegs (0 : BitVec 3).toNat rnk calm (startWrite (0 : BitVec 3).toNat rnk (applyHbmUpsets calm up))).2,
      (scrubRange (sweep (0 : BitVec 3).toNat rnk).1 (sweep (0 : BitVec 3).toNat rnk).2 (updRnStatus (0 : BitVec 3).toNat
      rnk.pc.toNat rnk.seqTag (fun x => { x with ceCount := min 65535 (x.ceCount + (correctedIn (meetRegs (0 : BitVec 3).toNat
      rnk calm (startWrite (0 : BitVec 3).toNat rnk (applyHbmUpsets calm up))).2 (sweep (0 : BitVec 3).toNat rnk).1 (sweep (0 :
      BitVec 3).toNat rnk).2).length) }) (meetRegs (0 : BitVec 3).toNat rnk calm (startWrite (0 : BitVec 3).toNat rnk
      (applyHbmUpsets calm up))).2)).2, 0, rnk, ⟨rfl, by decide +kernel, by decide +kernel, by decide +kernel⟩, (pair_of
      (by decide +kernel)), (pair_of (by decide +kernel))⟩⟩

/-- The hypotheses of each clause of RunnerCommandsWaitInOrder can be met. -/
theorem witness_runner_commands_wait_in_order :
    (∃ s, ∃ (stack : BitVec 3) (k : RnCmd), live s = true ∧ rnNeverIssued 3 k = false ∧ throttleOf s stack.toNat = 3)
    ∧ (∃ s, ∃ (stack : BitVec 3) (k : RnCmd), live s = true ∧ rnNeverIssued 6 k = false ∧ runnerHeld s stack.toNat k.pc.toNat =
      true)
    ∧ (∃ u s g t, ∃ (stack : BitVec 3) (k : RnCmd), Issues 3 stack k s ∧ meetRegs stack.toNat k u (applyHbmUpsets u s) = (true,
      g) ∧ readSweep .runner stack.toNat k g = (false, t)) :=
  ⟨
    ⟨(throttled 3), 0, rnk, rfl, (by decide +kernel), (by decide +kernel)⟩,
    ⟨waitingRunner, 0, rnk, rfl, (by decide +kernel), (by decide +kernel)⟩,
    ⟨calm, badCw, (meetRegs (0 : BitVec 3).toNat rnk calm (applyHbmUpsets calm badCw)).2, (readSweep .runner (0 : BitVec
      3).toNat rnk (meetRegs (0 : BitVec 3).toNat rnk calm (applyHbmUpsets calm badCw)).2).2, 0, rnk, ⟨rfl, by decide +kernel,
      by decide +kernel, by decide +kernel⟩, (pair_of (by decide +kernel)), (pair_of (by decide +kernel))⟩⟩

/-- The hypotheses of each clause of RunnerEncodingStops can be met. -/
theorem witness_runner_encoding_stops :
    (∃ k, rnNeverIssued 0 k = true)
    ∧ (∃ k, rnNeverIssued 1 k = true)
    ∧ (∃ k, rnNeverIssued 2 k = true)
    ∧ (∃ k, rnNeverIssued 3 k = true)
    ∧ (∃ k, rnNeverIssued 4 k = true)
    ∧ (∃ k, rnNeverIssued 5 k = true)
    ∧ (∃ k, rnNeverIssued 6 k = true)
    ∧ (∃ k, rnNeverIssued 7 k = true)
    ∧ (∃ k, rnNeverIssued 8 k = true)
    ∧ (∃ k, rnNeverIssued 9 k = true)
    ∧ (∃ k, rnNeverIssued 10 k = true)
    ∧ (∃ k, rnNeverIssued 11 k = true) :=
  ⟨
    ⟨rnBad, (by decide +kernel)⟩,
    ⟨rnBad, (by decide +kernel)⟩,
    ⟨rnBad, (by decide +kernel)⟩,
    ⟨rnBad, (by decide +kernel)⟩,
    ⟨rnBad, (by decide +kernel)⟩,
    ⟨rnBad, (by decide +kernel)⟩,
    ⟨rnBad, (by decide +kernel)⟩,
    ⟨rnBad, (by decide +kernel)⟩,
    ⟨rnBad, (by decide +kernel)⟩,
    ⟨rnBad, (by decide +kernel)⟩,
    ⟨rnBad, (by decide +kernel)⟩,
    ⟨rnBad, (by decide +kernel)⟩⟩

/-- The hypotheses of each clause of StackEventsComplete can be met. -/
theorem witness_stack_events_complete :
    (∃ s, ∃ (stack : BitVec 3) (pc : BitVec 5), live s = true ∧ (runnerAt s stack.toNat pc.toNat).runs = false)
    ∧ (∃ s, ∃ (stack : BitVec 3) (pc : BitVec 5), live s = true ∧ (runnerAt s stack.toNat pc.toNat).runs = true ∧ (stackAt s
      stack.toNat).owed.atD pc.toNat 0 < 3)
    ∧ (∃ s, ∃ (stack : BitVec 3) (pc : BitVec 5), live s = true ∧ (runnerAt s stack.toNat pc.toNat).runs = true ∧ 3 ≤ (stackAt
      s stack.toNat).owed.atD pc.toNat 0)
    ∧ (∃ s, ∃ (stack : BitVec 3) (temp : Int) (power : Nat), live s = true ∧ (stackAt s stack.toNat).throttle < levelFor temp
      power (stackLimit s))
    ∧ (∃ s, ∃ (stack : BitVec 3) (temp : Int) (power : Nat), live s = true ∧ levelFor temp power (stackLimit s) ≤ (stackAt s
      stack.toNat).throttle ∧ 0 < (stackAt s stack.toNat).throttle ∧ (stackAt s stack.toNat).throttle ≠ 3 ∧ temp + 3 ≤
      throttleTemp (stackAt s stack.toNat).throttle ∧ 100 * power < 95 * stackLimit s)
    ∧ (∃ s, ∃ (stack : BitVec 3) (temp : Int) (power : Nat), live s = true ∧ (stackAt s stack.toNat).throttle = 3 ∧ temp + 3 ≤
      throttleTemp 3 ∧ 100 * power < 95 * stackLimit s ∧ levelFor temp power (stackLimit s) ≤ 3)
    ∧ (∃ s, live s = true) :=
  ⟨
    ⟨up, 0, 0, rfl, (by decide +kernel)⟩,
    ⟨(running 2), 0, 0, rfl, (by decide +kernel), (by decide +kernel)⟩,
    ⟨(running 3), 0, 0, rfl, (by decide +kernel), (by decide +kernel)⟩,
    ⟨up, 7, 88, 0, rfl, (by decide +kernel)⟩,
    ⟨(throttled 1), 0, 85, 0, rfl, (by decide +kernel), (by decide +kernel), (by decide +kernel), (by decide +kernel),
      (by decide +kernel)⟩,
    ⟨(throttled 3), 0, 92, 0, rfl, (by decide +kernel), (by decide +kernel), (by decide +kernel), (by decide +kernel)⟩,
    ⟨up, rfl⟩⟩

/-- The hypotheses of each clause of ScrubEventsComplete can be met. -/
theorem witness_scrub_events_complete :
    (∃ s, ∃ (frame : BitVec 24), live s = true ∧ (frameOf s frame.toNat).state = .draining ∧ requestsEnded s (frameOf s
      frame.toNat).readers = true ∧ repairWaits s frame.toNat = false)
    ∧ (∃ u s, ∃ (stack : BitVec 3) (pc : BitVec 5), live s = true ∧ (passAt (applyUpsets u s) stack.toNat).running = true ∧
      (passAt (applyUpsets u s) stack.toNat).next.atD pc.toNat 0 < rowsPerPc ∧ (stackAt (applyUpsets u s) stack.toNat).throttle
      ≠ 3)
    ∧ (∃ s, ∃ (stack : BitVec 3), live s = true ∧ (passAt s stack.toNat).running = true ∧ passComplete (passAt s stack.toNat) =
      true)
    ∧ (∃ s, live s = true ∧ (∀ n, n < 8 → (passAt s n).running = false) ∧ s.hbm.verifyLeft = [])
    ∧ (∃ c s b w, Serves c 0 s b w ∧ (List.range 8).filter (fun n => (passAt w n).running) = [])
    ∧ (∃ c s b w, Serves c 0 s b w ∧ (List.range 8).filter (fun n => (passAt w n).running) ≠ []) :=
  ⟨
    ⟨drains, 4, rfl, (by decide +kernel), (by decide +kernel), (by decide +kernel)⟩,
    ⟨calm, up, 7, 31, rfl, (by decide +kernel), (by decide +kernel), (by decide +kernel)⟩,
    ⟨allRead, 7, rfl, (by decide +kernel), (by decide +kernel)⟩,
    ⟨noPass, rfl, (by decide +kernel), (by decide +kernel)⟩,
    ⟨(cmd 0), (takes 0 noPass), (takes 0 noPass), (works 0 noPass), (served 0 rfl), (by decide +kernel)⟩,
    ⟨(cmd 0), (takes 0 up), (takes 0 up), (works 0 up), (served 0 rfl), (by decide +kernel)⟩⟩

/-- The hypotheses of each clause of VerifyCommandsComplete can be met. -/
theorem witness_verify_commands_complete :
    (∃ p s, live s = true ∧ s.hbm.verifyMode = 2 ∧ stillDue (dropLeft s) p = true)
    ∧ (∃ c t s b w, Serves c 32 s b w ∧ fieldsPass (targetFails t ⟨true, true, true, false, false⟩) = true ∧ t.scope = 2)
    ∧ (∃ c t s b w fs z, Serves c 32 s b w ∧ fieldsPass (targetFails t ⟨true, true, true, false, false⟩) = true ∧ t.scope ≠ 2 ∧
      verifySpans (vnodeOf w c) t.handle (targetSpans t) w = (.inl fs, z))
    ∧ (∃ h layer head page s f x r, ∃ (hash : List Byte), Met h .twin s ∧ verifyRecord (takePeer h.sender s) h = some f ∧
      pageAt (takePeer h.sender s) ⟨f, layer, head, page⟩ = some x ∧ spanAt (takePeer h.sender s) f = some r ∧ r.copy = false ∧
      hash ≠ [])
    ∧ (∃ h layer head page s f x r, ∃ (hash : List Byte), Met h .twin s ∧ verifyRecord (takePeer h.sender s) h = some f ∧
      pageAt (takePeer h.sender s) ⟨f, layer, head, page⟩ = some x ∧ spanAt (takePeer h.sender s) f = some r ∧ (r.copy = true ∨
      hash = []))
    ∧ (∃ h s f, Met h .twin s ∧ h.links = 0 ∧ (ownSpan (ackPeer h stOk 0 (takePeer h.sender s)) h.vnode h.handle h.span.toNat
      false).or (ownSpan (ackPeer h stOk 0 (takePeer h.sender s)) h.vnode h.handle h.span.toNat true) = some f) :=
  ⟨
    ⟨at0, verifying, rfl, (by decide +kernel), (by decide +kernel)⟩,
    ⟨(cmd 32), (⟨0, 0, 0, 0, 0, 2, 0, 0, 0⟩ : Target), (takes 32 up), (takes 32 up), (works 32 up), (served 32 rfl),
      (by decide +kernel), (by decide +kernel)⟩,
    ⟨(cmd 32), (⟨5, 0, 0, 0, 1, 0, 0, 0, 0⟩ : Target), (takes 32 stored), (takes 32 stored), (works 32 stored), [2],
      (verifySpans (vnodeOf (works 32 stored) (cmd 32)) (⟨5, 0, 0, 0, 1, 0, 0, 0, 0⟩ : Target).handle (targetSpans (⟨5, 0, 0,
      0, 1, 0, 0, 0, 0⟩ : Target)) (works 32 stored)).2, (served 32 rfl), (by decide +kernel), (by decide +kernel), (pair_of
      (by decide +kernel))⟩,
    ⟨phT, 0, 0, 0, (pairedUp paged), 2, page0, span1, [1], ⟨rfl, by decide +kernel, rfl⟩, (by decide +kernel),
      (by decide +kernel), (by decide +kernel), (by decide +kernel), (by decide +kernel)⟩,
    ⟨phT, 0, 0, 0, (pairedUp paged), 2, page0, span1, [], ⟨rfl, by decide +kernel, rfl⟩, (by decide +kernel),
      (by decide +kernel), (by decide +kernel), (by decide +kernel)⟩,
    ⟨phT, (pairedUp paged), 2, ⟨rfl, by decide +kernel, rfl⟩, (by decide +kernel), (by decide +kernel)⟩⟩

/-- The hypotheses of each clause of RepairEventsComplete can be met. -/
theorem witness_repair_events_complete :
    (∃ p s, live s = true ∧ (awaited s p).isSome = true)
    ∧ (∃ p s x, live s = true ∧ pageAt s p = some x ∧ ((awaited s p).isSome = true ∨ x.poison.isSome = true))
    ∧ (∃ p s x, live s = true ∧ pageAt s p = some x ∧ ((awaited s p).isSome = true ∨ x.poison.isSome = true ∨ x.loc =
      .rebuild))
    ∧ (∃ p s x, live s = true ∧ pageAt s p = some x ∧ ((awaited s p).isSome = true ∨ x.poison.isSome = true ∨ x.loc =
      .rebuild))
    ∧ (∃ p s x cs st slot, live s = true ∧ pageAt s p = some x ∧ x.coded = some (cs, st, slot) ∧ ((awaited s p).isSome = true ∨
      x.poison.isSome = true ∨ x.loc = .rebuild)) :=
  ⟨
    ⟨at0, awaiting, rfl, (by decide +kernel)⟩,
    ⟨at0, awaiting, page0, rfl, (by decide +kernel), (by decide +kernel)⟩,
    ⟨at0, awaiting, page0, rfl, (by decide +kernel), (by decide +kernel)⟩,
    ⟨at0, awaiting, page0, rfl, (by decide +kernel), (by decide +kernel)⟩,
    ⟨at0, awaitingCoded, codedPage, 3, 0, 1, rfl, (by decide +kernel), (by decide +kernel), (by decide +kernel)⟩⟩

/-- The hypotheses of each clause of SpanContentCommandsComplete can be met. -/
theorem witness_span_content_commands_complete :
    (∃ c t s b w f x u r, Serves c 32 s b w ∧ fieldsPass (targetFails t ⟨true, true, false, true, false⟩) = true ∧ t.scope = 1
      ∧ t.spanCount = 1 ∧ (membersOf w c).isSome = true ∧ findSpan (vnodeOf w c) t.handle t.spanFirst.toNat w = (.found f x, u)
      ∧ viewOf u c f = some r ∧ t.layer.toNat < r.geo.layers ∧ t.head.toNat < r.geo.heads ∧ t.tokenLimit.toNat ≤ r.fill
      t.layer.toNat t.head.toNat ∧ (coveragePages r t.layer.toNat t.head.toNat t.tokenLimit.toNat).any (fun p => p.2.1.isSealed
      && decide (p.2.2 < min r.geo.cap (r.fill t.layer.toNat t.head.toNat - p.1 * r.geo.cap))) = false ∧ (coveragePages r
      t.layer.toNat t.head.toNat t.tokenLimit.toNat).any (fun p => decide (p.2.1.loc = .lost) || isLost u ⟨f, t.layer.toNat,
      t.head.toNat, p.1⟩) = false ∧ 64 ≤ resultRoom b c)
    ∧ (∃ c t s b w, Serves c 32 s b w ∧ fieldsPass (targetFails t ⟨true, true, false, true, false⟩) = true ∧ t.scope = 1 ∧
      t.spanCount = 1 ∧ (membersOf w c).isSome = false)
    ∧ (∃ c t s b w k a e u r, Serves c 32 s b w ∧ t.spanCount = 1 ∧ fieldsPass (targetFails t ⟨true, false, false, false,
      false⟩) = true ∧ handoffOf w (vnodeOf w c) t.handle t.spanFirst.toNat = none ∧ search (vnodeOf w c) t.handle
      t.spanFirst.toNat 0 w = (.hit k a e, u) ∧ e.form ≠ 2 ∧ e.form ≠ 3 ∧ spanAt u e.record = some r ∧ r.closing = false) :=
  ⟨
    ⟨(cmd 32), (⟨5, 0, 0, 0, 1, 1, 128, 0, 0⟩ : Target), (takes 32 paged), (takes 32 paged), (works 32 paged), 2, false,
      (findSpan (vnodeOf (works 32 paged) (cmd 32)) (⟨5, 0, 0, 0, 1, 1, 128, 0, 0⟩ : Target).handle (⟨5, 0, 0, 0, 1, 1, 128, 0,
      0⟩ : Target).spanFirst.toNat (works 32 paged)).2, span1, (served 32 rfl), (by decide +kernel), (by decide +kernel),
      (by decide +kernel), (by decide +kernel), (pair_of (by decide +kernel)), (by decide +kernel), (by decide +kernel),
      (by decide +kernel), (by decide +kernel), (by decide +kernel), (by decide +kernel), (by decide +kernel)⟩,
    ⟨(cmd 32), (⟨5, 0, 0, 0, 1, 1, 128, 0, 0⟩ : Target), (takes 32 noMap), (takes 32 noMap), (works 32 noMap), (served 32 rfl),
      (by decide +kernel), (by decide +kernel), (by decide +kernel), (by decide +kernel)⟩,
    ⟨(cmd 32), (⟨5, 0, 0, 0, 1, 0, 0, 0, 0⟩ : Target), (takes 32 stored), (takes 32 stored), (works 32 stored), 0, 0, (dirEntry
      0 5 0 kSpan 0 2), (search (vnodeOf (works 32 stored) (cmd 32)) (⟨5, 0, 0, 0, 1, 0, 0, 0, 0⟩ : Target).handle (⟨5, 0, 0,
      0, 1, 0, 0, 0, 0⟩ : Target).spanFirst.toNat 0 (works 32 stored)).2, span0, (served 32 rfl), (by decide +kernel),
      (by decide +kernel), (by decide +kernel), (pair_of (by decide +kernel)), (by decide +kernel), (by decide +kernel),
      (by decide +kernel), (by decide +kernel)⟩⟩

/-- The hypotheses of each clause of QueryEntryCompletes can be met. -/
theorem witness_query_entry_completes :
    (∃ c s b w ds, ∃ (payload : List Byte), Serves c payload.length s b w ∧ readQuery payload = some ds ∧ fullResult ds ≤
      resultRoom w c)
    ∧ (∃ m s ds, ∃ (payload : List Byte), live s = true ∧ admits s m opQuery (fun p => decide (p = payload)) = true ∧ hasPeer
      (takeMsg m s) m.vnode m.sender = true ∧ readQuery payload = some ds ∧ m.aux.toNat % 64 = 0 ∧ longestRecord ds ≤
      m.aux.toNat ∧ isFenced (takeMsg m s) m.vnode m.sender = false ∧ selfFenced (takeMsg m s) m.vnode = false)
    ∧ (∃ m s ds, ∃ (payload : List Byte), live s = true ∧ admits s m opQuery (fun p => decide (p = payload)) = true ∧ hasPeer
      (takeMsg m s) m.vnode m.sender = true ∧ readQuery payload = some ds ∧ m.aux.toNat % 64 = 0 ∧ longestRecord ds ≤
      m.aux.toNat ∧ (isFenced (takeMsg m s) m.vnode m.sender = true ∨ selfFenced (takeMsg m s) m.vnode = true))
    ∧ (∃ m s, ∃ (payload : List Byte), live s = true ∧ admits s m opQuery (fun p => decide (p = payload)) = true ∧ hasPeer
      (takeMsg m s) m.vnode m.sender = true ∧ isFenced (takeMsg m s) m.vnode m.sender = false ∧ selfFenced (takeMsg m s)
      m.vnode = false ∧ readQuery payload = none)
    ∧ (∃ m s, ∃ (payload : List Byte), live s = true ∧ admits s m opQuery (fun p => decide (p = payload)) = false)
    ∧ (∃ s, live s = true)
    ∧ (∃ req s q, live s = true ∧ s.attn.reqs.at? req = some q ∧ q.phase = .waiting)
    ∧ (∃ req s q, live s = true ∧ s.attn.reqs.at? req = some q ∧ q.pages.any (fun p => p.missing) = true) :=
  ⟨
    ⟨(cmd 320), (takes 320 up), (takes 320 up), (works 320 up), query1Ds, query1, (served_as 320 (by decide +kernel) rfl),
      (by decide +kernel), (by decide +kernel)⟩,
    ⟨{ msg with aux := 1048576 }, (entersM { msg with aux := 1048576 } 2 query1 up), query1Ds, query1, rfl,
      (by decide +kernel), (by decide +kernel), (by decide +kernel), (by decide +kernel), (by decide +kernel),
      (by decide +kernel), (by decide +kernel)⟩,
    ⟨{ msg with aux := 1048576 }, (entersM { msg with aux := 1048576 } 2 query1 selfFenced1), query1Ds, query1, rfl,
      (by decide +kernel), (by decide +kernel), (by decide +kernel), (by decide +kernel), (by decide +kernel),
      (by decide +kernel)⟩,
    ⟨msg, (enters 2 [] up), [], rfl, (by decide +kernel), (by decide +kernel), (by decide +kernel), (by decide +kernel),
      (by decide +kernel)⟩,
    ⟨msg, up, [], rfl, (by decide +kernel)⟩,
    ⟨up, rfl⟩,
    ⟨4, asked, req0, rfl, (by decide +kernel), (by decide +kernel)⟩,
    ⟨4, (asking4 { req2 with pages := [{ rp with missing := true }] }), { req2 with pages := [{ rp with missing := true }] },
      rfl, (by decide +kernel), (by decide +kernel)⟩⟩

/-- The hypotheses of each clause of QueryPassesComplete can be met. -/
theorem witness_query_passes_complete :
    (∃ req u s z q bad t, live s = true ∧ expandFirst req s = z ∧ z.attn.reqs.at? req = some q ∧ q.phase = .keyPass ∧
      q.pages.any (fun p => p.missing) = false ∧ passWaits z q.segPages = false ∧ meetPass req q false q.segPages u z = (true,
      bad, t))
    ∧ (∃ req u s z q bad t, live s = true ∧ expandFirst req s = z ∧ z.attn.reqs.at? req = some q ∧ q.phase = .valuePass ∧
      passWaits z q.segPages = false ∧ meetPass req q true q.segPages u z = (true, bad, t) ∧ q.segments = 1)
    ∧ (∃ req u s z q bad t, live s = true ∧ expandFirst req s = z ∧ z.attn.reqs.at? req = some q ∧ q.phase = .valuePass ∧
      passWaits z q.segPages = false ∧ meetPass req q true q.segPages u z = (true, bad, t) ∧ q.segments ≠ 1)
    ∧ (∃ req u s q, live s = true ∧ s.attn.reqs.at? req = some q ∧ q.phase = .segmentEnd ∧ finiteOut
      (match q.running with | none => (((q.cores.head?.map Prod.snd).getD []), 0) | some old => mergeRows (applyUpsets u s).tick 0 old ((q.cores.head?.map Prod.snd).getD [])).1 =
      false)
    ∧ (∃ req u s q, live s = true ∧ s.attn.reqs.at? req = some q ∧ q.phase = .segmentEnd ∧ finiteOut
      (match q.running with | none => (((q.cores.head?.map Prod.snd).getD []), 0) | some old => mergeRows (applyUpsets u s).tick 0 old ((q.cores.head?.map Prod.snd).getD [])).1 =
      true ∧ q.segment + 1 = q.segments)
    ∧ (∃ req u s q, live s = true ∧ s.attn.reqs.at? req = some q ∧ q.phase = .segmentEnd ∧ finiteOut
      (match q.running with | none => (((q.cores.head?.map Prod.snd).getD []), 0) | some old => mergeRows (applyUpsets u s).tick 0 old ((q.cores.head?.map Prod.snd).getD [])).1 =
      true ∧ q.segment + 1 ≠ q.segments)
    ∧ (∃ req page u s z q p bad g t, live s = true ∧ expandFirst req s = z ∧ z.attn.reqs.at? req = some q ∧ q.phase =
      .dieBlocks ∧ q.pages[page]? = some p ∧ p.missing = false ∧ page ∉ q.blocksDone ∧ meetPass req q false [p] u z = (true,
      bad, g) ∧ readAll req (pageReads g q true p) g = ([], t) ∧ (pageScores t.tick page q (viewPage t q p)).any (fun r =>
      r.any (fun x => !(F32.isFin x.2))) = false ∧ finiteOut (dieBlock t.tick q (viewPage t q p) (pageScores t.tick page q
      (viewPage t q p))).1 = true) :=
  ⟨
    ⟨4, calm, (asking4 (reqIn .keyPass)), (expandFirst 4 (asking4 (reqIn .keyPass))), (reqIn .keyPass), [], (meetPass 4 (reqIn
      .keyPass) false (reqIn .keyPass).segPages calm (expandFirst 4 (asking4 (reqIn .keyPass)))).2.2, rfl, rfl,
      (by decide +kernel), (by decide +kernel), (by decide +kernel), (by decide +kernel), (triple_of (by decide +kernel)
      (by decide +kernel))⟩,
    ⟨4, calm, (asking4 (reqIn .valuePass)), (expandFirst 4 (asking4 (reqIn .valuePass))), (reqIn .valuePass), [], (meetPass 4
      (reqIn .valuePass) true (reqIn .valuePass).segPages calm (expandFirst 4 (asking4 (reqIn .valuePass)))).2.2, rfl, rfl,
      (by decide +kernel), (by decide +kernel), (by decide +kernel), (triple_of (by decide +kernel) (by decide +kernel)),
      (by decide +kernel)⟩,
    ⟨4, calm, (asking4 { (reqIn .valuePass) with segments := 2 }), (expandFirst 4 (asking4 { (reqIn .valuePass) with segments
      := 2 })), { (reqIn .valuePass) with segments := 2 }, [], (meetPass 4 { (reqIn .valuePass) with segments := 2 } true
      (reqIn .valuePass).segPages calm (expandFirst 4 (asking4 { (reqIn .valuePass) with segments := 2 }))).2.2, rfl, rfl,
      (by decide +kernel), (by decide +kernel), (by decide +kernel), (triple_of (by decide +kernel) (by decide +kernel)),
      (by decide +kernel)⟩,
    ⟨4, calm, (asking4 overflowing), overflowing, rfl, (by decide +kernel), (by decide +kernel), (by decide +kernel)⟩,
    ⟨4, calm, (asking4 (reqIn .segmentEnd)), (reqIn .segmentEnd), rfl, (by decide +kernel), (by decide +kernel),
      (by decide +kernel), (by decide +kernel)⟩,
    ⟨4, calm, (asking4 { reqIn .segmentEnd with segments := 2 }), { reqIn .segmentEnd with segments := 2 }, rfl,
      (by decide +kernel), (by decide +kernel), (by decide +kernel), (by decide +kernel)⟩,
    ⟨4, 0, calm, (asking4 (reqIn .dieBlocks)), (expandFirst 4 (asking4 (reqIn .dieBlocks))), (reqIn .dieBlocks), rp, [],
      (meetPass 4 (reqIn .dieBlocks) false [rp] calm (expandFirst 4 (asking4 (reqIn .dieBlocks)))).2.2, (readAll 4 (pageReads
      (meetPass 4 (reqIn .dieBlocks) false [rp] calm (expandFirst 4 (asking4 (reqIn .dieBlocks)))).2.2 (reqIn .dieBlocks) true
      rp) (meetPass 4 (reqIn .dieBlocks) false [rp] calm (expandFirst 4 (asking4 (reqIn .dieBlocks)))).2.2).2, rfl, rfl,
      (by decide +kernel), (by decide +kernel), (by decide +kernel), (by decide +kernel), (by decide +kernel), (triple_of
      (by decide +kernel) (by decide +kernel)), (pair_of (by decide +kernel)), (by decide +kernel), (by decide +kernel)⟩⟩

/-- The hypotheses of each clause of MergeAndFanoutComplete can be met. -/
theorem witness_merge_and_fanout_complete :
    (∃ c s b w, ∃ (payload : List Byte), Serves c payload.length s b w)
    ∧ (∃ c s b w ds, ∃ (payload : List Byte), Serves c payload.length s b w ∧ readQuery payload = some ds ∧ fullResult ds ≤
      resultRoom w c ∧ (∀ p ∈ ds, queryStep1 p.1 = true ∧ (queryRows p.1 p.2).all (fun x => x.all F32.isFin) = true))
    ∧ (∃ s z, ∃ (fanout : Nat) (sub : Nat) (f : Fanout) (x : FanSub), live s = true ∧ s.attn.fanouts.at? fanout = some f ∧
      f.subs[sub]? = some x ∧ x.ans = .waiting z) :=
  ⟨
    ⟨(cmd 0), (takes 0 up), (takes 0 up), (works 0 up), [], (served_as 0 (by decide +kernel) rfl)⟩,
    ⟨(cmd 320), (takes 320 up), (takes 320 up), (works 320 up), query1Ds, query1, (served_as 320 (by decide +kernel) rfl),
      (by decide +kernel), (by decide +kernel), (by decide +kernel)⟩,
    ⟨fanned, [], 3, 0, fan3, ⟨0, 1, 2, .waiting []⟩, rfl, (by decide +kernel), (by decide +kernel), (by decide +kernel)⟩⟩


/-! ## Tiers and the codec -/

/-- One flash target of so many blocks. -/
def oneTarget (blocks : Nat) : Tbl (Nat × Nat) FlashTarget := [((0, 0), ⟨true, blocks, 16, 0⟩)]

/-- The thresholds of packing and demotion at all frames. -/
def tight : State := { paged with
  pw := { paged.pw with uptime := 10 ^ 9 }
  tier := { Tier.reset with targets := oneTarget 16 }, knobs := { Knobs.default with compressStartPct := 100, demoteStartPct := 100 } }

/-- Frame 4 is an empty pack frame. -/
def packFrame : State := { up with frames := [(4, ⟨.open_, 1, .pack, 1, [], [], 0⟩)] }

/-- An image in flash. -/
def image1 : Image := ⟨.flash 0 0 0 0, 64, 1, zeros 64, 0, none, none⟩

/-- A page in it. -/
def flashPage : Page := { page0 with loc := .flash 1 }

/-- Its promotion. -/
def promo0 : Promotion := ⟨at0, 1, 14, zeros 32, none, [], false⟩

/-- The page lies in flash. -/
def flashed : State := { pagedWith flashPage with tier := { Tier.reset with images := [(1, image1)], recode := [1], targets := oneTarget 16, promotions := [promo0] } }

/-- It is to be recoded and its form does not change. -/
def recoding : State := { flashed with tier := { flashed.tier with promotions := [] } }

/-- A page whose digest is that of no content. -/
def blankPage : Page := { page0 with isSealed := false, digest := pageDigest [] }

/-- A page is being demoted. -/
def demoting (x : Page) : State := { pagedWith x with tier := { Tier.reset with demotions := [⟨at0, 1, zeros 64, 0, false⟩] } }

/-- A page, and a flash tier. -/
def tiered : State := { paged with tier := { Tier.reset with targets := oneTarget 16 } }

/-- The target block of span 0. -/
def tspan : Target := ⟨5, 0, 0, 0, 1, 0, 0, 0, 0⟩

/-- The target block of the node. -/
def tnode : Target := ⟨0, 0, 0, 0, 0, 2, 0, 0, 0⟩

/-- Firmware runs. -/
def fw : State := { up with pw := { up.pw with fwState := 2 } }

/-- Two blocks of flash, worn so much, and no other. -/
def worn (a b : Nat) : State := { up with tier := { Tier.reset with
  targets := oneTarget 2, blocks := [((0, 0, 0), ⟨false, a, 4, 0, false, none⟩), ((0, 0, 1), ⟨false, b, 4, 0, false, none⟩)] } }

/-- A stale block. -/
def staleBlock : State := { up with tier := { Tier.reset with targets := oneTarget 2, blocks := [((0, 0, 0), ⟨false, 0, 4, 0, true, none⟩)] } }

/-- A table with one code. -/
def lengths1 : List Byte := 1 :: List.replicate 31 0

/-- Its image. -/
def table1 : TableImage := ⟨0, 1, 5, 2, crc32c lengths1, lengths1⟩

/-- It is loaded, and a block is queued under it, or under another generation. -/
def coded1 (gen : BitVec 32) : State := { up with tier := { Tier.reset with
  slots := [(0, ⟨1, 1, false, some table1, false⟩)], queue := [⟨0, 0, gen, at0, false⟩] } }

/-! ## The fabric -/

/-- An association that has sent so many frames. -/
def assoc0 (n : Nat) : Assoc := ⟨some ⟨0, n, []⟩, none, some ⟨0, 0, []⟩, [], false, false, false, [], [], []⟩

/-- The node talks, without an association. -/
def talking : State := { up with
  knobs := { Knobs.default with dreaskakUdpPort := some 4791 }, mgmt := { Mgmt.reset with identityOk := true } }

/-- The node talks, with associations. -/
def keyed (t : Tbl (VId × NodeId × Bool) Assoc) : State := { talking with fab := { Fabric.reset with assocs := t } }

/-- A queue pair is context 1, and the node talks under an association. -/
def linked (x : Qp) : State := { talking with fab := { Fabric.reset with qps := [(1, x)], assocs := [((0, 2, false), assoc0 1)] } }

/-- A packet header of node 2. -/
def bth0 : Bth := ⟨0, true, false, 0, 1, 2, 1, 3, 0, 0, 0, false⟩

/-- The head of a message. -/
def head0 : MsgHead := ⟨0, 0, 0, 0, 0, 0, false⟩

/-- A message of one packet. -/
def data0 : DataPkt := ⟨bth0, false, some head0, []⟩

/-- An acknowledgement. -/
def ack0 : AckPkt := ⟨bth0, 0, 0, false, 0, [], false⟩

/-- A packet sent and not acknowledged. -/
def owed0 : Qp := { qp0 with unacked := [⟨⟨none, [], true, 0, 0, false⟩, 0, 0, 0, false, false⟩] }

/-- The message, whole. -/
def rx0 : RxMsg := ⟨some head0, [(0, [])], some 0, none⟩

/-- It is received. -/
def got0 : Qp := { qp0 with msgs := [(0, rx0)] }

/-- Port 0 is up, and its neighbour known. -/
def portUp : State := { up with
  configured := true, fab := { Fabric.reset with ports := [(0, { Port.reset with up := true })] }
  vnodes := [(0, { node with neighbours := [(0, ⟨⟨0, 2, 0, 0, 0, 0, 0, 0, false⟩⟩)], draining := true })] }

/-- A read of data slot 0 is awaited. -/
def reading : State := { enters 6 [] up with regions := [(0, ⟨.read at0 0 [], 0, 16⟩)] }

/-- The node without a member list. -/
def unmapped : State := { up with vnodes := [(0, { node with map := none })] }

/-- A member list of the node alone. -/
def mapBlk (epoch : BitVec 16) : MapBlk := ⟨epoch, 1, [⟨1, 0⟩]⟩

/-- An agreement with node 2. -/
def agree0 (initiator : Bool) (step resends : Nat) : Agreement := ⟨0, initiator, step, resends, [], [], [], [], [], []⟩

/-- It is under way. -/
def agreeing (a : Agreement) : State := { linked qp0 with fab := { (linked qp0).fab with agreements := [((0, 2, false), a)] } }

/-- Node 0 has asked for the agreement that an association came from, and asks again. -/
def askedTwice : State := { talking with fab := { Fabric.reset with
  assocs := [((0, 0, false), { assoc0 1 with request := agreeRequest [] [] 0 })], agreements := [((0, 0, false), agree0 false 2 0)] } }

/-- An association is in place. -/
def assocs0 (n : Nat) : State := keyed [((0, 2, false), assoc0 n)]

/-! ## Twins -/

/-- A TWIN.PAIR under way. -/
def pairing0 : Pairing := ⟨cmd 32, ⟨9, 2, 0⟩, none⟩

/-- Node 3 pairs with node 2. -/
def pairingUp : State := { up with vnodes := [(0, { node with nodeId := 3, pairing := some pairing0 })] }

/-- Node 1 alone, its twin fenced. -/
def soloUp : State := { up with vnodes := [(0, { twinned .solo with fenceSet := [2] })] }

/-- Node 1 as the twin's copy. -/
def copyingUp (s : State) : State := { s with vnodes := [(0, twinned .copying)] }

/-- A copy of span 0 with one page, its rows not all there. -/
def copied (x : Page) : State := { stored with
  frames := (10, ⟨.sealed, 1, .data, 1, [], [], 0⟩) :: stored.frames
  spans := [(2, { span0 with pages := [((0, 0, 0), x)], copy := true })] }

/-- A page that has not been copied. -/
def uncopied : Page := { page0 with loc := .notCopied }

/-- A message of copied pages. -/
def pageSent : PeerSent := ⟨⟨0, 2, false, 0, 0, 5, 0, 7, .copyPage 0 0 0 true []⟩, some 1, ⟨0, none⟩, 0⟩

/-- A message waits for the twin. -/
def queuedUp : State := { up with vnodes := [(0, { twinned .paired with mirrorQueue := [(5, 0, .copyDone)] })] }

/-- The nodes of a group. -/
def group0 : List NodeId := [1, 2, 3, 4, 5, 6, 7, 8, 9, 10]

/-- Node 1 is slot 0 of a group. -/
def coding : State := { up with vnodes := [(0, { node with codeset := some (3, group0), codeSlot := some 0 })] }

/-! ## Handoffs -/

/-- A handoff with node 2. -/
def hand0 (source : Bool) (st : HandoffState) : Handoff := ⟨4, 2, source, st, 5, 0, 1, some (cmd 32), true, false, 0, [], []⟩

/-- It is under way. -/
def handing (source : Bool) (st : HandoffState) : State := { stored with vnodes := [(0, { node with handoffs := [hand0 source st] })] }

/-- The hypotheses of each clause of SyncAppendsWait can be met. -/
theorem witness_sync_appends_wait :
    (∃ bs s rec r rows t z, ∃ (src : AppendSrc), AppendFinds src bs s rec r t ∧ AppendPasses bs rec r rows t z ∧
      r.geo.mirrorMode = 0 ∧ rowMessages z { r with handle := (readAppend bs).handle } (readAppend bs) rows ≠ []) :=
    ⟨oneRow, (pairedUp stored), 2, span0, theRows, (findSpan 0 5 0 (pairedUp stored)).2, readNeeded 2 span0 (readAppend oneRow)
      false (findSpan 0 5 0 (pairedUp stored)).2, (.msg msg), ⟨by decide +kernel, pair_of (by decide +kernel),
      by decide +kernel, by decide +kernel, by decide +kernel⟩, ⟨by decide +kernel, by decide +kernel, by decide +kernel,
      by decide +kernel, by decide +kernel, by decide +kernel, rfl, by decide +kernel, by decide +kernel, by decide +kernel,
      by decide +kernel⟩, (by decide +kernel), (by decide +kernel)⟩

/-- The hypotheses of each clause of TierEventsComplete can be met. -/
theorem witness_tier_events_complete :
    (∃ p s x r, live s = true ∧ AllFill s ∧ pageAt s p = some x ∧ spanAt s p.record = some r ∧ packs s r.vnode = true ∧
      eligible ({ s with tier := { s.tier with packOn := (r.vnode :: s.tier.packOn).eraseDups } }) p x false = true)
    ∧ (∃ s, ∃ (frame : BitVec 24), live s = true ∧ AllFill s ∧ (frameOf s frame.toNat).use = .pack ∧ (frameOf s
      frame.toNat).state = .open_ ∧ 2 * packUse s frame.toNat < granules)
    ∧ (∃ p s x r, live s = true ∧ pageAt s p = some x ∧ spanAt s p.record = some r ∧ demotes s r.vnode = true ∧ tierPresent ({
      s with tier := { s.tier with demoteOn := (r.vnode :: s.tier.demoteOn).eraseDups } }) r.vnode = true ∧ tierFull ({ s with
      tier := { s.tier with demoteOn := (r.vnode :: s.tier.demoteOn).eraseDups } }) r.vnode = false ∧ s.pw.brake = false ∧
      eligible ({ s with tier := { s.tier with demoteOn := (r.vnode :: s.tier.demoteOn).eraseDups } }) p x false = true ∧
      x.inHbm = true ∧ olderThan ({ s with tier := { s.tier with demoteOn := (r.vnode :: s.tier.demoteOn).eraseDups } })
      r.vnode (lastReadOf ({ s with tier := { s.tier with demoteOn := (r.vnode :: s.tier.demoteOn).eraseDups } }) p) (fun _ y
      => y.inHbm) = false)
    ∧ (∃ p read s z x, ∃ (d : Demotion) (r : SpanRec), live s = true ∧ drainCodec 3 s = z ∧ z.tier.demotions.find? (fun d =>
      decide (d.page = p)) = some d ∧ pageAt z p = some x ∧ spanAt z p.record = some r ∧ d.held = false ∧ judgeReadBack
      (countFlashRead d.image (endDemotion p z)) r.geo.fmt x read = .good)
    ∧ (∃ p read s z x, ∃ (d : Demotion) (r : SpanRec), live s = true ∧ drainCodec 3 s = z ∧ z.tier.demotions.find? (fun d =>
      decide (d.page = p)) = some d ∧ pageAt z p = some x ∧ spanAt z p.record = some r ∧ d.held = false ∧ judgeReadBack
      (countFlashRead d.image (endDemotion p z)) r.geo.fmt x read = .stale)
    ∧ (∃ p read s z x, ∃ (d : Demotion) (r : SpanRec), live s = true ∧ drainCodec 3 s = z ∧ z.tier.demotions.find? (fun d =>
      decide (d.page = p)) = some d ∧ pageAt z p = some x ∧ spanAt z p.record = some r ∧ d.held = false ∧ judgeReadBack
      (countFlashRead d.image (endDemotion p z)) r.geo.fmt x read = .wrong)
    ∧ (∃ p s z m, ∃ (read : Option (List Byte)), live s = true ∧ AllFill s ∧ drainCodec 2 s = z ∧ z.tier.promotions.find? (fun
      d => decide (d.page = p)) = some m ∧ m.content read = none)
    ∧ (∃ p s z m bs, ∃ (read : Option (List Byte)), live s = true ∧ AllFill s ∧ drainCodec 2 s = z ∧ z.tier.promotions.find?
      (fun d => decide (d.page = p)) = some m ∧ m.content read = some bs) :=
  ⟨
    ⟨at0, tight, page0, span1, rfl, (fun _ => Nat.zero_lt_succ 2), (by decide +kernel), (by decide +kernel),
      (by decide +kernel), (by decide +kernel)⟩,
    ⟨packFrame, 4, rfl, (fun _ => Nat.zero_lt_succ 2), (by decide +kernel), (by decide +kernel), (by decide +kernel)⟩,
    ⟨at0, tight, page0, span1, rfl, (by decide +kernel), (by decide +kernel), (by decide +kernel), (by decide +kernel),
      (by decide +kernel), (by decide +kernel), (by decide +kernel), (by decide +kernel), (by decide +kernel)⟩,
    ⟨at0, (zeros 64), (demoting blankPage), drainCodec 3 (demoting blankPage), blankPage, ⟨at0, 1, zeros 64, 0, false⟩, { span1
      with pages := [((0, 0, 0), blankPage)] }, rfl, rfl, (by decide +kernel), (by decide +kernel), (by decide +kernel),
      (by decide +kernel), (by decide +kernel)⟩,
    ⟨at0, (words64 [2 ^ 32 + 64, 0, 0, 0, 0, 0, 0, 0]), (demoting page0), drainCodec 3 (demoting page0), page0, ⟨at0, 1, zeros
      64, 0, false⟩, { span1 with pages := [((0, 0, 0), page0)] }, rfl, rfl, (by decide +kernel), (by decide +kernel),
      (by decide +kernel), (by decide +kernel), (by decide +kernel)⟩,
    ⟨at0, (zeros 64), (demoting page0), drainCodec 3 (demoting page0), page0, ⟨at0, 1, zeros 64, 0, false⟩, { span1 with pages
      := [((0, 0, 0), page0)] }, rfl, rfl, (by decide +kernel), (by decide +kernel), (by decide +kernel), (by decide +kernel),
      (by decide +kernel)⟩,
    ⟨at0, flashed, drainCodec 2 flashed, promo0, none, rfl, (fun _ => Nat.zero_lt_succ 2), rfl, (by decide +kernel),
      (by decide +kernel)⟩,
    ⟨at0, flashed, drainCodec 2 flashed, promo0, [], (some (zeros 64)), rfl, (fun _ => Nat.zero_lt_succ 2), rfl,
      (by decide +kernel), (by decide +kernel)⟩⟩

/-- The hypotheses of each clause of TierCommandsComplete can be met. -/
theorem witness_tier_commands_complete :
    (∃ c t s b w fs z, Serves c 32 s b w ∧ fieldsPass (targetFails t (tierUse false)) = true ∧ targetRecords (vnodeOf w c) t w
      = (.inl fs, z) ∧ targetGeo z t fs = none)
    ∧ (∃ c t s b w fs z, Serves c 32 s b w ∧ fieldsPass (targetFails t (tierUse false)) = true ∧ targetRecords (vnodeOf w c) t
      w = (.inl fs, z) ∧ targetGeo z t fs = none ∧ ((namedPages z t fs).filter (fun p => p.2.isSealed)).any (fun p => pinnedAny
      z p.1) = false ∧ tierPresent z (vnodeOf z c) = true ∧ tierFull z (vnodeOf z c) = false)
    ∧ (∃ c t s b w fs z, Serves c 32 s b w ∧ fieldsPass (targetFails t (tierUse false)) = true ∧ targetRecords (vnodeOf w c) t
      w = (.inl fs, z) ∧ targetGeo z t fs = none ∧ countPages z (((nodePages z (vnodeOf z c)).filter (fun p => p.2.pinned)).map
      Prod.fst) + countPages z (((namedPages z t fs).filter (fun p => !(pinnedAny z p.1))).map Prod.fst) ≤ pctFrames z (vnodeOf
      z c) (knobsOf z c).pinMaxPct)
    ∧ (∃ c t s b w, Serves c 32 s b w ∧ fieldsPass (targetFails t (tierUse true)) = true ∧ t.scope = 2)
    ∧ (∃ c t s b w fs z, Serves c 32 s b w ∧ fieldsPass (targetFails t (tierUse true)) = true ∧ t.scope ≠ 2 ∧ targetRecords
      (vnodeOf w c) t w = (.inl fs, z) ∧ targetGeo z t fs = none) :=
  ⟨
    ⟨(cmd 32), tspan, (takes 32 tiered), (takes 32 tiered), (works 32 tiered), [2], (targetRecords (vnodeOf (works 32 tiered)
      (cmd 32)) tspan (works 32 tiered)).2, (served 32 rfl), (by decide +kernel), (pair_of (by decide +kernel)),
      (by decide +kernel)⟩,
    ⟨(cmd 32), tspan, (takes 32 tiered), (takes 32 tiered), (works 32 tiered), [2], (targetRecords (vnodeOf (works 32 tiered)
      (cmd 32)) tspan (works 32 tiered)).2, (served 32 rfl), (by decide +kernel), (pair_of (by decide +kernel)),
      (by decide +kernel), (by decide +kernel), (by decide +kernel), (by decide +kernel)⟩,
    ⟨(cmd 32), tspan, (takes 32 tiered), (takes 32 tiered), (works 32 tiered), [2], (targetRecords (vnodeOf (works 32 tiered)
      (cmd 32)) tspan (works 32 tiered)).2, (served 32 rfl), (by decide +kernel), (pair_of (by decide +kernel)),
      (by decide +kernel), (by decide +kernel)⟩,
    ⟨(cmd 32), tnode, (takes 32 up), (takes 32 up), (works 32 up), (served 32 rfl), (by decide +kernel), (by decide +kernel)⟩,
    ⟨(cmd 32), tspan, (takes 32 tiered), (takes 32 tiered), (works 32 tiered), [2], (targetRecords (vnodeOf (works 32 tiered)
      (cmd 32)) tspan (works 32 tiered)).2, (served 32 rfl), (by decide +kernel), (by decide +kernel), (pair_of
      (by decide +kernel)), (by decide +kernel)⟩⟩

/-- The hypotheses of each clause of FlashEventsComplete can be met. -/
theorem witness_flash_events_complete :
    (∃ s, ∃ (p : ParamPage), live s = true ∧ s.pw.fwState = 2 ∧ p.ok = true)
    ∧ (∃ soft old s, ∃ (b : BlockRef), live s = true ∧ s.pw.brake = false ∧ (soft = true ∨ old = true ∨
      s.knobs.readDisturbLimit ≤ (blockAt s (blockKey b)).reads))
    ∧ (∃ s, ∃ (b : BlockRef), live s = true ∧ s.pw.brake = false ∧ freeBlocks s (channelVnode s b.channel) * 100 < 3 *
      usableBlocks s (channelVnode s b.channel) ∧ blockKey b ∈ (usedBlocks s (channelVnode s b.channel)).map Prod.fst ∧ (∀ x ∈
      usedBlocks s (channelVnode s b.channel), liveSectors s (blockKey b) ≤ liveSectors s x.1))
    ∧ (∃ s, ∃ (b : BlockRef), live s = true ∧ s.pw.brake = false ∧ s.knobs.wearSpread < (eraseSpread s (channelVnode s
      b.channel)).2 - (eraseSpread s (channelVnode s b.channel)).1 ∧ blockKey b ∈ (usedBlocks s (channelVnode s b.channel)).map
      Prod.fst ∧ (∀ x ∈ usedBlocks s (channelVnode s b.channel), (blockAt s (blockKey b)).erases ≤ x.2.erases))
    ∧ (∃ s, ∃ (b : BlockRef), live s = true ∧ (blockAt s (blockKey b)).bad = false)
    ∧ (∃ s, ∃ (b : BlockRef), live s = true ∧ s.pw.brake = false ∧ (blockAt s (blockKey b)).stale = true ∧ (blockAt s (blockKey
      b)).bad = false) :=
  ⟨
    ⟨fw, ⟨true, 16, 16, 0⟩, rfl, (by decide +kernel), (by decide +kernel)⟩,
    ⟨true, false, up, ⟨0, 0, 0⟩, rfl, (by decide +kernel), (by decide +kernel)⟩,
    ⟨(worn 0 0), ⟨0, 0, 0⟩, rfl, (by decide +kernel), (by decide +kernel), (by decide +kernel), (by decide +kernel)⟩,
    ⟨(worn 0 2000), ⟨0, 0, 0⟩, rfl, (by decide +kernel), (by decide +kernel), (by decide +kernel), (by decide +kernel)⟩,
    ⟨up, ⟨15, 7, 0⟩, rfl, (by decide +kernel)⟩,
    ⟨staleBlock, ⟨0, 0, 0⟩, rfl, (by decide +kernel), (by decide +kernel), (by decide +kernel)⟩⟩

/-- The hypotheses of each clause of CodecCommandsComplete can be met. -/
theorem witness_codec_commands_complete :
    (∃ c img s b w n g, Serves c (64 + 2 ^ expBits img.format.toNat) s b w ∧ fieldsPass (tableFails img) = true ∧ tableEmpty
      img = false ∧ img.lengths.length = 2 ^ expBits img.format.toNat ∧ loadTable w = .inl (n, g))
    ∧ (∃ c gen s b w, ∃ (slot : BitVec 3) (format : BitVec 4), Serves c 8 s b w ∧ (slotAt w slot.toNat).state = 1 ∧ (slotAt w
      slot.toNat).gen = gen ∧ (slotAt w slot.toNat).image.map TableImage.format = some format)
    ∧ (∃ c gen s b w, ∃ (slot : BitVec 3), Serves c 8 s b w ∧ (slotAt w slot.toNat).state ≠ 0 ∧ (slotAt w slot.toNat).gen =
      gen)
    ∧ (∃ c s b w, Serves c 0 s b w)
    ∧ (∃ c s b w, ∃ (format : BitVec 4), Serves c 8 s b w ∧ compressible format.toNat = true ∧ 8 + 8 * 2 ^ expBits format.toNat
      ≤ resultRoom b c) :=
  ⟨
    ⟨(cmd 96), table1, (takes 96 up), (takes 96 up), (works 96 up), 0, 1, (served_as 96 (by decide +kernel) rfl),
      (by decide +kernel), (by decide +kernel), (by decide +kernel), (by decide +kernel)⟩,
    ⟨(cmd 8), 1, (takes 8 (coded1 1)), (takes 8 (coded1 1)), (works 8 (coded1 1)), 0, 2, (served 8 rfl), (by decide +kernel),
      (by decide +kernel), (by decide +kernel)⟩,
    ⟨(cmd 8), 1, (takes 8 (coded1 1)), (takes 8 (coded1 1)), (works 8 (coded1 1)), 0, (served 8 rfl), (by decide +kernel),
      (by decide +kernel)⟩,
    ⟨(cmd 0), (takes 0 up), (takes 0 up), (works 0 up), (served 0 rfl)⟩,
    ⟨(cmd 8), (takes 8 up), (takes 8 up), (works 8 up), 4, (served 8 rfl), (by decide +kernel), (by decide +kernel)⟩⟩

/-- The hypotheses of each clause of CodecEventsComplete can be met. -/
theorem witness_codec_events_complete :
    (∃ image s z i p ps x, ∃ (r : SpanRec), live s = true ∧ AllFill s ∧ drainCodec 5 s = z ∧ z.tier.images.at? image = some i ∧
      pagesOfImage z image = p :: ps ∧ pageAt z p = some x ∧ spanAt z p.record = some r ∧ image ∈ z.tier.recode ∧ recodeWaits z
      i = false ∧ (pagesOfImage z image).any (formChanging z) = false ∧ (z.pw.brake = false ∨ i.block = none))
    ∧ (∃ s k, ∃ (i : CodecItem), live s = true ∧ nextBlock s.tier.queue = some k ∧ s.tier.queue[k]? = some i ∧ (slotAt s
      i.slot).state ≠ 0 ∧ (slotAt s i.slot).gen = i.gen)
    ∧ (∃ s k, ∃ (i : CodecItem), live s = true ∧ nextBlock s.tier.queue = some k ∧ s.tier.queue[k]? = some i ∧ ((slotAt s
      i.slot).state = 0 ∨ (slotAt s i.slot).gen ≠ i.gen)) :=
  ⟨
    ⟨1, recoding, drainCodec 5 recoding, image1, at0, [], flashPage, { span1 with pages := [((0, 0, 0), flashPage)] }, rfl,
      (fun _ => Nat.zero_lt_succ 2), rfl, (by decide +kernel), (by decide +kernel), (by decide +kernel), (by decide +kernel),
      (by decide +kernel), (by decide +kernel), (by decide +kernel), (by decide +kernel)⟩,
    ⟨(coded1 1), 0, ⟨0, 0, 1, at0, false⟩, rfl, (by decide +kernel), (by decide +kernel), (by decide +kernel),
      (by decide +kernel)⟩,
    ⟨(coded1 2), 0, ⟨0, 0, 2, at0, false⟩, rfl, (by decide +kernel), (by decide +kernel), (by decide +kernel)⟩⟩

/-- The hypotheses of each clause of PortEventsComplete can be met. -/
theorem witness_port_events_complete :
    (∃ s, ∃ (port : BitVec 5), live s = true ∧ portOk s port = true ∧ s.configured = true)
    ∧ (∃ s, ∃ (port : BitVec 5), live s = true ∧ portOk s port = true)
    ∧ (∃ s, ∃ (port : BitVec 5), live s = true ∧ (portAt s port).up = true)
    ∧ (∃ s, ∃ (port : BitVec 5) (p : HelloPayload) (o : Neighbour), live s = true ∧ p.rsv = false ∧ (portAt s port).up = true ∧
      (vn s (vnodeOfPort s port)).neighbours.at? port = some o ∧ neighbourDiffers o.p p = false)
    ∧ (∃ s, ∃ (port : BitVec 5) (p : HelloPayload), live s = true ∧ p.rsv = false ∧ (portAt s port).up = true ∧ (vn s
      (vnodeOfPort s port)).neighbours.at? port = none)
    ∧ (∃ s, ∃ (port : BitVec 5) (p : HelloPayload) (o : Neighbour), live s = true ∧ p.rsv = false ∧ (portAt s port).up = true ∧
      (vn s (vnodeOfPort s port)).neighbours.at? port = some o ∧ neighbourDiffers o.p p = true)
    ∧ (∃ s, ∃ (port : BitVec 5), live s = true ∧ (vn s (vnodeOfPort s port)).neighbours.has port = true)
    ∧ (∃ v s, ∃ (port : BitVec 5), live s = true ∧ (portAt s port).up = true ∧ portServes s port v = true) :=
  ⟨
    ⟨portUp, 0, rfl, (by decide +kernel), (by decide +kernel)⟩,
    ⟨up, 16, rfl, (by decide +kernel)⟩,
    ⟨portUp, 0, rfl, (by decide +kernel)⟩,
    ⟨portUp, 0, ⟨0, 2, 0, 0, 0, 0, 0, 0, false⟩, ⟨⟨0, 2, 0, 0, 0, 0, 0, 0, false⟩⟩, rfl, (by decide +kernel),
      (by decide +kernel), (by decide +kernel), (by decide +kernel)⟩,
    ⟨{ portUp with vnodes := [(0, node)] }, 0, ⟨0, 2, 0, 0, 0, 0, 0, 0, false⟩, rfl, (by decide +kernel), (by decide +kernel),
      (by decide +kernel)⟩,
    ⟨portUp, 0, ⟨0, 3, 0, 0, 0, 0, 0, 0, false⟩, ⟨⟨0, 2, 0, 0, 0, 0, 0, 0, false⟩⟩, rfl, (by decide +kernel),
      (by decide +kernel), (by decide +kernel), (by decide +kernel)⟩,
    ⟨portUp, 0, rfl, (by decide +kernel)⟩,
    ⟨0, portUp, 0, rfl, (by decide +kernel), (by decide +kernel)⟩⟩

/-- The hypotheses of each clause of QueuePairsComplete can be met. -/
theorem witness_queue_pairs_complete :
    (∃ c s b w, ∃ (p : QpCreateBlk), Serves c 32 s b w ∧ fieldsPass (qpCreateFails p) = true ∧ qpnIn s (vnodeOf s c) p.qpn =
      true ∧ qpAt w p.qpn = none ∧ hasPeer w (vnodeOf w c) p.peerNode = true)
    ∧ (∃ c s b w x, ∃ (qpn : BitVec 12), Serves c 8 s b w ∧ qpnIn s (vnodeOf s c) qpn = true ∧ qpAt w qpn = some x ∧ x.state ≠
      .hold)
    ∧ (∃ s, ∃ (qpn : BitVec 12) (x : Qp), live s = true ∧ qpAt s qpn = some x ∧ x.state = .hold)
    ∧ (∃ s x, ∃ (qpn : BitVec 12), live s = true ∧ qpAt s qpn = some x ∧ x.state = .ready ∧ x.unacked ≠ [])
    ∧ (∃ s, ∃ (qpn : BitVec 12) (x : Qp), live s = true ∧ qpAt s qpn = some x ∧ x.state = .ready ∧ 0 < x.newSince) :=
  ⟨
    ⟨(cmd 32), (takes 32 up), (takes 32 up), (works 32 up), ⟨1, 3, 2, 0, 0, 7, 0, 0, 10, 100⟩, (served 32 rfl),
      (by decide +kernel), (by decide +kernel), (by decide +kernel), (by decide +kernel)⟩,
    ⟨(cmd 8), (takes 8 (linked qp0)), (takes 8 (linked qp0)), (works 8 (linked qp0)), qp0, 1, (served 8 rfl),
      (by decide +kernel), (by decide +kernel), (by decide +kernel)⟩,
    ⟨(linked { qp0 with state := .hold }), 1, { qp0 with state := .hold }, rfl, (by decide +kernel), (by decide +kernel)⟩,
    ⟨(linked owed0), owed0, 1, rfl, (by decide +kernel), (by decide +kernel), (by decide +kernel)⟩,
    ⟨(linked { qp0 with newSince := 1 }), 1, { qp0 with newSince := 1 }, rfl, (by decide +kernel), (by decide +kernel),
      (by decide +kernel)⟩⟩

/-- The hypotheses of each clause of TransportEventsComplete can be met. -/
theorem witness_transport_events_complete :
    (∃ s x, ∃ (p : DataPkt), live s = true ∧ dataMalformed p = false ∧ talks s p.bth.vnode = true ∧ associated s p.bth.vnode
      p.bth.srcNode = true ∧ qpAt s p.bth.dstQpn = some x ∧ qpnIn s p.bth.vnode p.bth.dstQpn = true ∧ x.state = .ready ∧ x.peer
      = p.bth.srcNode ∧ x.peerQpn = p.bth.srcQpn ∧ p.bth.dstNode = (vn s p.bth.vnode).nodeId)
    ∧ (∃ s, ∃ (p : DataPkt), live s = true ∧ dataMalformed p = false ∧ talks s p.bth.vnode = true ∧ associated s p.bth.vnode
      p.bth.srcNode = true ∧ (qpAt s p.bth.dstQpn = none ∨ qpnIn s p.bth.vnode p.bth.dstQpn = false))
    ∧ (∃ s, ∃ (p : DataPkt), live s = true ∧ dataMalformed p = false ∧ talks s p.bth.vnode = true ∧ associated s p.bth.vnode
      p.bth.srcNode = false)
    ∧ (∃ s x, ∃ (p : AckPkt), live s = true ∧ p.bth.malformed = false ∧ talks s p.bth.vnode = true ∧ associated s p.bth.vnode
      p.bth.srcNode = true ∧ qpAt s p.bth.dstQpn = some x ∧ qpnIn s p.bth.vnode p.bth.dstQpn = true ∧ x.state = .ready ∧ x.peer
      = p.bth.srcNode ∧ x.peerQpn = p.bth.srcQpn ∧ p.syndrome.toNat ≤ 1 ∧ p.rsv = false)
    ∧ (∃ s x, ∃ (qpn : BitVec 12), live s = true ∧ qpAt s qpn = some x ∧ x.state = .ready ∧ x.unacked ≠ [] ∧ x.timeouts + 1 <
      x.retxLimit)
    ∧ (∃ s, ∃ (qpn : BitVec 12) (x : Qp), live s = true ∧ qpAt s qpn = some x ∧ x.state = .ready ∧ x.unacked ≠ [] ∧ x.retxLimit
      ≤ x.timeouts + 1)
    ∧ (∃ s x, ∃ (qpn : BitVec 12), live s = true ∧ qpAt s qpn = some x ∧ x.state = .ready)
    ∧ (∃ s, live s = true)
    ∧ (∃ s x y m h, ∃ (qpn : BitVec 12), live s = true ∧ qpAt s qpn = some x ∧ x.state = .ready ∧ x.skipAll = y ∧ y.due = some
      (h, m) ∧ hasTurn (updQp qpn (fun _ => y) s) qpn h = true ∧ (h.op.toNat = opPeer → peerOpKnown (peerOpOf m.payload) =
      true)) :=
  ⟨
    ⟨(linked qp0), qp0, data0, rfl, (by decide +kernel), (by decide +kernel), (by decide +kernel), (by decide +kernel),
      (by decide +kernel), (by decide +kernel), (by decide +kernel), (by decide +kernel), (by decide +kernel)⟩,
    ⟨(linked qp0), { data0 with bth := { bth0 with dstQpn := 2 } }, rfl, (by decide +kernel), (by decide +kernel),
      (by decide +kernel), (by decide +kernel)⟩,
    ⟨talking, data0, rfl, (by decide +kernel), (by decide +kernel), (by decide +kernel)⟩,
    ⟨(linked qp0), qp0, ack0, rfl, (by decide +kernel), (by decide +kernel), (by decide +kernel), (by decide +kernel),
      (by decide +kernel), (by decide +kernel), (by decide +kernel), (by decide +kernel), (by decide +kernel),
      (by decide +kernel)⟩,
    ⟨(linked owed0), owed0, 1, rfl, (by decide +kernel), (by decide +kernel), (by decide +kernel), (by decide +kernel)⟩,
    ⟨(linked { owed0 with timeouts := 6 }), 1, { owed0 with timeouts := 6 }, rfl, (by decide +kernel), (by decide +kernel),
      (by decide +kernel), (by decide +kernel)⟩,
    ⟨(linked qp0), qp0, 1, rfl, (by decide +kernel), (by decide +kernel)⟩,
    ⟨up, rfl⟩,
    ⟨(linked got0), got0, got0, rx0, head0, 1, rfl, (by decide +kernel), (by decide +kernel), (by decide +kernel),
      (by decide +kernel), (by decide +kernel), (by decide +kernel)⟩⟩

/-- The hypotheses of each clause of ReadAndMapComplete can be met. -/
theorem witness_read_and_map_complete :
    (∃ m u s bs z, ∃ (addr : BitVec 64) (len : BitVec 32) (key : BitVec 32), live s = true ∧ admits s m opReadReq (fun p =>
      decide (p = readReqBytes addr len key)) = true ∧ (memberState (takeMsg m s) m.vnode m.sender).isSome = true ∧ isFenced
      (takeMsg m s) m.vnode m.sender = false ∧ 0 < len.toNat ∧ len.toNat ≤ 1048576 ∧ (meetLink u addr.toNat (applyUpsets u
      (takeMsg m s))).1 = true ∧ readAnswer m.vnode addr.toNat len.toNat (meetLink u addr.toNat (applyUpsets u (takeMsg m
      s))).2 = (some bs, z))
    ∧ (∃ m s p slot data a n, ∃ (payload : List Byte), live s = true ∧ admits s m opReadResp (fun p => decide (p = payload)) =
      true ∧ (memberState (takeMsg m s) m.vnode m.sender).isSome = true ∧ (takeMsg m s).regions.at? m.key = some ⟨.read p slot
      data, a, n⟩ ∧ (Region.mk (.read p slot data) a n).holds m.addr payload.length = true)
    ∧ (∃ m s, ∃ (payload : List Byte), live s = true ∧ admits s m opReadResp (fun p => decide (p = payload)) = true ∧
      (memberState (takeMsg m s) m.vnode m.sender).isSome = true ∧ ((takeMsg m s).regions.at? m.key).filter (fun r => r.holds
      m.addr payload.length) = none)
    ∧ (∃ c p s b w, Serves c (8 + 4 * p.memberCount.toNat) s b w ∧ fieldsPass (mapFails p) = true ∧ (vn w (vnodeOf w c)).map =
      none)
    ∧ (∃ c p s b w, ∃ (m : MapList), Serves c (8 + 4 * p.memberCount.toNat) s b w ∧ fieldsPass (mapFails p) = true ∧ (vn w
      (vnodeOf w c)).map = some m ∧ 0 < (p.epoch - m.epoch).toNat ∧ (p.epoch - m.epoch).toNat < 32768)
    ∧ (∃ c p s b w, ∃ (m : MapList), Serves c (8 + 4 * p.memberCount.toNat) s b w ∧ fieldsPass (mapFails p) = true ∧ (vn w
      (vnodeOf w c)).map = some m ∧ p.epoch = m.epoch)
    ∧ (∃ c p s b w, ∃ (m : MapList), Serves c (8 + 4 * p.memberCount.toNat) s b w ∧ fieldsPass (mapFails p) = true ∧ (vn w
      (vnodeOf w c)).map = some m ∧ 32768 ≤ (p.epoch - m.epoch).toNat)
    ∧ (∃ v s, live s = true ∧ (vn s v).draining = true) :=
  ⟨
    ⟨msg, calm, (enters 5 (readReqBytes 0 64 0) { up with mem := ⟨[], [0]⟩ }), (zeros 64), (readAnswer msg.vnode (0 : BitVec
      64).toNat (64 : BitVec 32).toNat (meetLink calm (0 : BitVec 64).toNat (applyUpsets calm (takeMsg msg (enters 5
      (readReqBytes 0 64 0) { up with mem := ⟨[], [0]⟩ })))).2).2, 0, 64, 0, rfl, (by decide +kernel), (by decide +kernel),
      (by decide +kernel), (by decide +kernel), (by decide +kernel), (by decide +kernel), (pair_of (by decide +kernel))⟩,
    ⟨msg, reading, at0, 0, [], 0, 16, [], rfl, (by decide +kernel), (by decide +kernel), (by decide +kernel),
      (by decide +kernel)⟩,
    ⟨msg, (enters 6 [] up), [], rfl, (by decide +kernel), (by decide +kernel), (by decide +kernel)⟩,
    ⟨(cmd 12), (mapBlk 1), (takes 12 unmapped), (takes 12 unmapped), (works 12 unmapped), (served_as 12 (by decide +kernel)
      rfl), (by decide +kernel), (by decide +kernel)⟩,
    ⟨(cmd 12), (mapBlk 1), (takes 12 up), (takes 12 up), (works 12 up), ⟨0, [(1, .live), (2, .draining)]⟩, (served_as 12
      (by decide +kernel) rfl), (by decide +kernel), (by decide +kernel), (by decide +kernel), (by decide +kernel)⟩,
    ⟨(cmd 12), (mapBlk 0), (takes 12 up), (takes 12 up), (works 12 up), ⟨0, [(1, .live), (2, .draining)]⟩, (served_as 12
      (by decide +kernel) rfl), (by decide +kernel), (by decide +kernel), (by decide +kernel)⟩,
    ⟨(cmd 12), (mapBlk 40000), (takes 12 up), (takes 12 up), (works 12 up), ⟨0, [(1, .live), (2, .draining)]⟩, (served_as 12
      (by decide +kernel) rfl), (by decide +kernel), (by decide +kernel), (by decide +kernel)⟩,
    ⟨0, portUp, rfl, (by decide +kernel)⟩⟩

/-- The hypotheses of each clause of KeyAgreementCompletes can be met. -/
theorem witness_key_agreement_completes :
    (∃ v tl s, ∃ (peer : NodeId) (an : BitVec 2) (ek : List Byte) (nonce : List Byte), live s = true ∧ canAgree s v = true ∧
      peer.toNat < (vn s v).nodeId.toNat ∧ (assocAt s v peer tl).map Assoc.request ≠ some (agreeRequest ek nonce an))
    ∧ (∃ v tl s a, ∃ (peer : NodeId) (an : BitVec 2) (ek : List Byte) (nonce : List Byte), live s = true ∧ canAgree s v = true
      ∧ peer.toNat < (vn s v).nodeId.toNat ∧ (assocAt s v peer tl).map Assoc.request = some (agreeRequest ek nonce an) ∧
      s.fab.agreements.at? (v, peer, tl) = some a ∧ a.initiator = false)
    ∧ (∃ v peer tl s a, live s = true ∧ s.fab.agreements.at? (v, peer, tl) = some a ∧ canAgree s v = true ∧ a.initiator = true
      ∧ a.step = 1)
    ∧ (∃ v peer tl an s a, live s = true ∧ s.fab.agreements.at? (v, peer, tl) = some a ∧ a.step = 3 ∧ a.an = an) :=
  ⟨
    ⟨0, false, (linked qp0), 0, 0, [], [], rfl, (by decide +kernel), (by decide +kernel), (by decide +kernel)⟩,
    ⟨0, false, askedTwice, (agree0 false 2 0), 0, 0, [], [], rfl, (by decide +kernel), (by decide +kernel),
      (by decide +kernel), (by decide +kernel), (by decide +kernel)⟩,
    ⟨0, 2, false, (agreeing (agree0 true 1 0)), (agree0 true 1 0), rfl, (by decide +kernel), (by decide +kernel),
      (by decide +kernel), (by decide +kernel)⟩,
    ⟨0, 2, false, 0, (agreeing (agree0 false 3 0)), (agree0 false 3 0), rfl, (by decide +kernel), (by decide +kernel),
      (by decide +kernel)⟩⟩

/-- The hypotheses of each clause of AssociationLifeCompletes can be met. -/
theorem witness_association_life_completes :
    (∃ v peer tl s a, live s = true ∧ s.fab.agreements.at? (v, peer, tl) = some a ∧ 100 ≤ a.resends)
    ∧ (∃ v peer tl s a, live s = true ∧ s.fab.agreements.at? (v, peer, tl) = some a ∧ a.resends < 100 ∧ a.initiator = true ∧
      a.step = 1)
    ∧ (∃ v peer tl s a, live s = true ∧ s.fab.agreements.at? (v, peer, tl) = some a ∧ a.resends < 100 ∧ a.initiator = true ∧
      a.step ≠ 1)
    ∧ (∃ v peer tl s a, live s = true ∧ s.fab.agreements.at? (v, peer, tl) = some a ∧ a.resends < 100 ∧ a.initiator = false)
    ∧ (∃ s, live s = true)
    ∧ (∃ v peer tl s a, ∃ (x : TxSa), live s = true ∧ assocAt s v peer tl = some a ∧ a.tx = some x ∧ 2 ^ 62 ≤ x.next ∧
      a.rekeying = false)
    ∧ (∃ v peer tl s a, ∃ (x : TxSa), live s = true ∧ assocAt s v peer tl = some a ∧ a.tx = some x ∧ pnLimit ≤ x.next) :=
  ⟨
    ⟨0, 2, false, (agreeing (agree0 true 1 100)), (agree0 true 1 100), rfl, (by decide +kernel), (by decide +kernel)⟩,
    ⟨0, 2, false, (agreeing (agree0 true 1 99)), (agree0 true 1 99), rfl, (by decide +kernel), (by decide +kernel),
      (by decide +kernel), (by decide +kernel)⟩,
    ⟨0, 2, false, (agreeing (agree0 true 2 99)), (agree0 true 2 99), rfl, (by decide +kernel), (by decide +kernel),
      (by decide +kernel), (by decide +kernel)⟩,
    ⟨0, 2, false, (agreeing (agree0 false 3 99)), (agree0 false 3 99), rfl, (by decide +kernel), (by decide +kernel),
      (by decide +kernel)⟩,
    ⟨up, rfl⟩,
    ⟨0, 2, false, (assocs0 (2 ^ 62)), (assoc0 (2 ^ 62)), ⟨0, 2 ^ 62, []⟩, rfl, (by decide +kernel), (by decide +kernel),
      (by decide +kernel), (by decide +kernel)⟩,
    ⟨0, 2, false, (assocs0 (2 ^ 64 - 2 ^ 32)), (assoc0 (2 ^ 64 - 2 ^ 32)), ⟨0, 2 ^ 64 - 2 ^ 32, []⟩, rfl, (by decide +kernel),
      (by decide +kernel), (by decide +kernel)⟩⟩

/-- The hypotheses of each clause of PairingCompletes can be met. -/
theorem witness_pairing_completes :
    (∃ c s b w, ∃ (p : PairBlk), Serves c 32 s b w ∧ p.pairEpoch ≠ 0 ∧ p.twin.toNat < 0x1000 ∧ p.role ≠ 3 ∧ pairDenied w
      (vnodeOf w c) p = false ∧ (vn w (vnodeOf w c)).pairing = none)
    ∧ (∃ h role s g, Met h .propose s ∧ (vn (takePeer h.sender s) h.vnode).pairing = some g ∧ rolesMatch g.blk.role role = true
      ∧ h.sender.toNat < (vn (takePeer h.sender s) h.vnode).nodeId.toNat)
    ∧ (∃ h role s g, Met h .propose s ∧ (vn (takePeer h.sender s) h.vnode).pairing = some g ∧ rolesMatch g.blk.role role =
      true)
    ∧ (∃ v s g, live s = true ∧ (vn s v).pairing = some g) :=
  ⟨
    ⟨(cmd 32), (takes 32 up), (takes 32 up), (works 32 up), ⟨9, 2, 0⟩, (served 32 rfl), (by decide +kernel),
      (by decide +kernel), (by decide +kernel), (by decide +kernel), (by decide +kernel)⟩,
    ⟨phT, 0, pairingUp, pairing0, ⟨rfl, by decide +kernel, rfl⟩, (by decide +kernel), (by decide +kernel), (by decide +kernel)⟩,
    ⟨phT, 0, pairingUp, pairing0, ⟨rfl, by decide +kernel, rfl⟩, (by decide +kernel), (by decide +kernel)⟩,
    ⟨0, pairingUp, pairing0, rfl, (by decide +kernel)⟩⟩

/-- The hypotheses of each clause of HeartbeatAndFenceComplete can be met. -/
theorem witness_heartbeat_and_fence_complete :
    (∃ v s, live s = true ∧ (vn s v).pairState ≠ .unpaired ∧ (vn s v).pairState ≠ .solo)
    ∧ (∃ v sender tl s, ∃ (p : HeartbeatPayload), live s = true ∧ p.malformed = false ∧ talks s v = true ∧ (assocAt s v sender
      tl).isSome = true ∧ p.rsv = false ∧ (vn s v).pairState ≠ .unpaired ∧ (vn s v).twin = sender ∧ p.pairEpoch = (vn s
      v).pairEpoch)
    ∧ (∃ s, live s = true)
    ∧ (∃ c s b w, ∃ (p : FenceBlk), Serves c 16 s b w ∧ p.action.toNat ≤ 1 ∧ p.target.toNat < 0x1000 ∧ (vn w (vnodeOf w
      c)).fenceEpoch.toNat < p.fenceEpoch.toNat)
    ∧ (∃ c takeover s b w, Serves c 8 s b w ∧ (vn w (vnodeOf w c)).pairState ≠ .unpaired ∧ ((vn w (vnodeOf w c)).pairState ≠
      .copying ∨ (vn w (vnodeOf w c)).pairSource = true ∨ takeover = true) ∧ isFenced w (vnodeOf w c) (vn w (vnodeOf w c)).twin
      = true ∧ takeover = false)
    ∧ (∃ c takeover s b w, Serves c 8 s b w ∧ (vn w (vnodeOf w c)).pairState ≠ .unpaired ∧ ((vn w (vnodeOf w c)).pairState ≠
      .copying ∨ (vn w (vnodeOf w c)).pairSource = true ∨ takeover = true) ∧ isFenced w (vnodeOf w c) (vn w (vnodeOf w c)).twin
      = true ∧ takeover = true) :=
  ⟨
    ⟨0, (pairedUp up), rfl, (by decide +kernel), (by decide +kernel)⟩,
    ⟨0, 2, false, (pairedUp (linked qp0)), ⟨0, 9, 0, 0, 0, false, false, 0, false, false⟩, rfl, (by decide +kernel),
      (by decide +kernel), (by decide +kernel), (by decide +kernel), (by decide +kernel), (by decide +kernel),
      (by decide +kernel)⟩,
    ⟨up, rfl⟩,
    ⟨(cmd 16), (takes 16 up), (takes 16 up), (works 16 up), ⟨1, 2, 0⟩, (served 16 rfl), (by decide +kernel),
      (by decide +kernel), (by decide +kernel)⟩,
    ⟨(cmd 8), false, (takes 8 soloUp), (takes 8 soloUp), (works 8 soloUp), (served 8 rfl), (by decide +kernel),
      (by decide +kernel), (by decide +kernel), (by decide +kernel)⟩,
    ⟨(cmd 8), true, (takes 8 soloUp), (takes 8 soloUp), (works 8 soloUp), (served 8 rfl), (by decide +kernel),
      (by decide +kernel), (by decide +kernel), (by decide +kernel)⟩⟩

/-- The hypotheses of each clause of TwinQueriesComplete can be met. -/
theorem witness_twin_queries_complete :
    (∃ c s b w, Serves c 0 s b w ∧ 64 ≤ resultRoom b c)
    ∧ (∃ c s b w, ∃ (n : BitVec 13), Serves c 16 s b w ∧ 1 ≤ n.toNat ∧ n.toNat ≤ 4096)
    ∧ (∃ h s f, Met h .other s ∧ homeSeq (takePeer h.sender s) h.vnode h.handle = some f) :=
  ⟨
    ⟨(cmd 0), (takes 0 up), (takes 0 up), (works 0 up), (served 0 rfl), (by decide +kernel)⟩,
    ⟨(cmd 16), (takes 16 up), (takes 16 up), (works 16 up), 4096, (served 16 rfl), (by decide +kernel), (by decide +kernel)⟩,
    ⟨ph, stored, 1, ⟨rfl, by decide +kernel, rfl⟩, (by decide +kernel)⟩⟩

/-- The hypotheses of each clause of MirrorMessagesComplete can be met. -/
theorem witness_mirror_messages_complete :
    (∃ h s, Met h .twin s ∧ AllFill s)
    ∧ (∃ h s f, Met h .twin s ∧ AllFill s ∧ copyFor (takePeer h.sender s) h = some f)
    ∧ (∃ h s, Met h .twin s ∧ AllFill s ∧ copyFor (takePeer h.sender s) h = none)
    ∧ (∃ h s, Met h .twin s ∧ AllFill s ∧ h.links = 0)
    ∧ (∃ s, ∃ (h : PeerHdr), Met h .twin s ∧ AllFill s ∧ h.links ≠ 0)
    ∧ (∃ h layer head page s f t x, Met h .twin s ∧ h.links = 0 ∧ copyFor (takePeer h.sender s) h = some f ∧
      (let full : Bool := (match spanAt (takePeer h.sender s) f with | some r => decide (page * r.geo.cap + r.geo.pageCap page ≤ r.fill layer head) | none => false); t = if full then sealPage ⟨f, layer, head, page⟩ { takePeer h.sender s with sealQueue := (takePeer h.sender s).sealQueue.filter (fun i => i.page ≠ ⟨f, layer, head, page⟩) } else takePeer
      h.sender s) ∧ pageAt t ⟨f, layer, head, page⟩ = some x ∧ (x.loc = .notCopied ∨ x.loc = .lost ∨ x.loc = .rebuild))
    ∧ (∃ h layer head page s f t x, Met h .twin s ∧ h.links = 0 ∧ copyFor (takePeer h.sender s) h = some f ∧
      (let full : Bool := (match spanAt (takePeer h.sender s) f with | some r => decide (page * r.geo.cap + r.geo.pageCap page ≤ r.fill layer head) | none => false); t = if full then sealPage ⟨f, layer, head, page⟩ { takePeer h.sender s with sealQueue := (takePeer h.sender s).sealQueue.filter (fun i => i.page ≠ ⟨f, layer, head, page⟩) } else takePeer
      h.sender s) ∧ pageAt t ⟨f, layer, head, page⟩ = some x ∧ x.loc ≠ .notCopied ∧ x.loc ≠ .lost ∧ x.loc ≠ .rebuild ∧
      x.isSealed = true)
    ∧ (∃ h s f, Met h .twin s ∧ copyFor (takePeer h.sender s) h = some f)
    ∧ (∃ h s f, Met h .twin s ∧ copyFor (takePeer h.sender s) h = some f) :=
  ⟨
    ⟨phT, (pairedUp (copied page0)), ⟨rfl, by decide +kernel, rfl⟩, (fun _ => Nat.zero_lt_succ 2)⟩,
    ⟨phT, (pairedUp (copied page0)), 2, ⟨rfl, by decide +kernel, rfl⟩, (fun _ => Nat.zero_lt_succ 2), (by decide +kernel)⟩,
    ⟨phT, (pairedUp up), ⟨rfl, by decide +kernel, rfl⟩, (fun _ => Nat.zero_lt_succ 2), (by decide +kernel)⟩,
    ⟨phT, (pairedUp (copied page0)), ⟨rfl, by decide +kernel, rfl⟩, (fun _ => Nat.zero_lt_succ 2), (by decide +kernel)⟩,
    ⟨(pairedUp (copied page0)), { phT with links := 1 }, ⟨rfl, by decide +kernel, rfl⟩, (fun _ => Nat.zero_lt_succ 2),
      (by decide +kernel)⟩,
    ⟨phT, 0, 0, 0, (pairedUp (copied uncopied)), 2, (takePeer 2 (pairedUp (copied uncopied))), uncopied, ⟨rfl,
      by decide +kernel, rfl⟩, (by decide +kernel), (by decide +kernel), rfl, (by decide +kernel), (by decide +kernel)⟩,
    ⟨phT, 0, 0, 0, (pairedUp (copied page0)), 2, (takePeer 2 (pairedUp (copied page0))), page0, ⟨rfl, by decide +kernel, rfl⟩,
      (by decide +kernel), (by decide +kernel), rfl, (by decide +kernel), (by decide +kernel), (by decide +kernel),
      (by decide +kernel), (by decide +kernel)⟩,
    ⟨phT, (pairedUp (copied page0)), 2, ⟨rfl, by decide +kernel, rfl⟩, (by decide +kernel)⟩,
    ⟨phT, (pairedUp (copied page0)), 2, ⟨rfl, by decide +kernel, rfl⟩, (by decide +kernel)⟩⟩

/-- The hypotheses of each clause of CopyMessagesComplete can be met. -/
theorem witness_copy_messages_complete :
    (∃ h s, ∃ (spans : List (Handle × SpanIx)), Met h .copy s ∧ AllFill s ∧ (¬((enterManifest h.vnode spans (takePeer h.sender
      s)).1 = stOk ∧ h.viaTwin = true ∧ (vn (takePeer h.sender s) h.vnode).pairState = .copying ∧ (vn (takePeer h.sender s)
      h.vnode).pairSource = false ∧ (vn (takePeer h.sender s) h.vnode).twin = h.sender)))
    ∧ (∃ h s, ∃ (spans : List (Handle × SpanIx)), Met h .copy s ∧ AllFill s ∧ (enterManifest h.vnode spans (takePeer h.sender
      s)).1 = stOk ∧ h.viaTwin = true ∧ (vn (takePeer h.sender s) h.vnode).pairState = .copying ∧ (vn (takePeer h.sender s)
      h.vnode).pairSource = false ∧ (vn (takePeer h.sender s) h.vnode).twin = h.sender)
    ∧ (∃ h s f, Met h .copy s ∧ copyFor (takePeer h.sender s) h = some f)
    ∧ (∃ h layer head page sealed_ s f x, Met h .copy s ∧ h.links = 0 ∧ copyFor (takePeer h.sender s) h = some f ∧ pageAt
      (takePeer h.sender s) ⟨f, layer, head, page⟩ = some x ∧ x.loc = .notCopied ∧ x.isSealed = sealed_)
    ∧ (∃ h s, Met h .copy s ∧ AllFill s ∧ h.links = 0)
    ∧ (∃ h s, Met h .copy s ∧ handoffOf (ackPeer h stOk 0 (takePeer h.sender s)) h.vnode h.handle h.span.toNat = none)
    ∧ (∃ h s x, Met h .copy s ∧ handoffOf (ackPeer h stOk 0 (takePeer h.sender s)) h.vnode h.handle h.span.toNat = some x ∧
      x.isSource = false ∧ h.span.toNat ∉ x.done) :=
  ⟨
    ⟨ph, (handing false .receiving), [], ⟨rfl, by decide +kernel, rfl⟩, (fun _ => Nat.zero_lt_succ 2), (by decide +kernel)⟩,
    ⟨phT, (copyingUp (copied page0)), [], ⟨rfl, by decide +kernel, rfl⟩, (fun _ => Nat.zero_lt_succ 2), (by decide +kernel),
      (by decide +kernel), (by decide +kernel), (by decide +kernel), (by decide +kernel)⟩,
    ⟨phT, (copyingUp (copied page0)), 2, ⟨rfl, by decide +kernel, rfl⟩, (by decide +kernel)⟩,
    ⟨phT, 0, 0, 0, true, (copyingUp (copied uncopied)), 2, uncopied, ⟨rfl, by decide +kernel, rfl⟩, (by decide +kernel),
      (by decide +kernel), (by decide +kernel), (by decide +kernel), (by decide +kernel)⟩,
    ⟨phT, (copyingUp (copied page0)), ⟨rfl, by decide +kernel, rfl⟩, (fun _ => Nat.zero_lt_succ 2), (by decide +kernel)⟩,
    ⟨phT, (copyingUp (copied page0)), ⟨rfl, by decide +kernel, rfl⟩, (by decide +kernel)⟩,
    ⟨ph, (handing false .receiving), (hand0 false .receiving), ⟨rfl, by decide +kernel, rfl⟩, (by decide +kernel),
      (by decide +kernel), (by decide +kernel)⟩⟩

/-- The hypotheses of each clause of PeerDeliveryCompletes can be met. -/
theorem witness_peer_delivery_completes :
    (∃ h s x, Met h .other s ∧ (takePeer h.sender s).peerSent.at? h.tag = some x ∧ x.msg.dest = h.sender)
    ∧ (∃ tag s x, live s = true ∧ s.peerSent.at? tag = some x ∧ peerBlocked s (refreshed s x.msg).vnode (refreshed s
      x.msg).dest = false ∧ ((refreshed s x.msg).twinLink = false ∨ (vn s (refreshed s x.msg).vnode).pairing.isSome = true ∨
      (vn s (refreshed s x.msg).vnode).twinUp = true) ∧ (∀ l k p a b, ({ refreshed s x.msg with fenceEpoch := (vn s (refreshed
      s x.msg).vnode).fenceEpoch }).body ≠ .copyPage l k p a b))
    ∧ (∃ tag s x l k p a b, live s = true ∧ s.peerSent.at? tag = some x ∧ peerBlocked s (refreshed s x.msg).vnode (refreshed s
      x.msg).dest = false ∧ ((refreshed s x.msg).twinLink = false ∨ (vn s (refreshed s x.msg).vnode).pairing.isSome = true ∨
      (vn s (refreshed s x.msg).vnode).twinUp = true) ∧ ({ refreshed s x.msg with fenceEpoch := (vn s (refreshed s
      x.msg).vnode).fenceEpoch }).body = .copyPage l k p a b)
    ∧ (∃ v s h span body rest, live s = true ∧ (vn s v).mirrorQueue = (h, span, body) :: rest ∧ paired s v = true ∧ (vn s
      v).twinUp = true) :=
  ⟨
    ⟨ph, asking, theSent, ⟨rfl, by decide +kernel, rfl⟩, (by decide +kernel), (by decide +kernel)⟩,
    ⟨7, asking, theSent, rfl, (by decide +kernel), (by decide +kernel), (by decide +kernel), (fun _ _ _ _ _ h =>
      PeerBody.noConfusion h)⟩,
    ⟨7, { asking with peerSent := [(7, pageSent)] }, pageSent, 0, 0, 0, true, [], rfl, (by decide +kernel),
      (by decide +kernel), (by decide +kernel), (by decide +kernel)⟩,
    ⟨0, queuedUp, 5, 0, .copyDone, [], rfl, (by decide +kernel), (by decide +kernel), (by decide +kernel)⟩⟩

/-- The hypotheses of each clause of CodeGroupsComplete can be met. -/
theorem witness_code_groups_complete :
    (∃ c s b w slot, ∃ (p : CodesetBlk), Serves c 32 s b w ∧ c.links = 0 ∧ badSlot p.slots = none ∧ (List.range 10).find? (fun
      k => decide ((p.slots.take 10)[k]? = some (vn w (vnodeOf w c)).nodeId)) = some slot ∧ ((vn w (vnodeOf w c)).codeset =
      some (p.codesetId, p.slots.take 10) ∨ p.replace = true ∨ holdsCoded w (vnodeOf w c) = false))
    ∧ (∃ v s cs ns slot, live s = true ∧ (vn s v).codeset = some (cs, ns) ∧ (vn s v).codeSlot = some slot ∧ slot ≤ 7 ∧ (vn s
      v).fenced = false ∧ (vn s v).stripeExhausted = false)
    ∧ (∃ h s, Met h .code s ∧ AllFill s ∧ h.links = 0)
    ∧ (∃ h s, Met h .code s) :=
  ⟨
    ⟨(cmd 32), (takes 32 up), (takes 32 up), (works 32 up), 0, ⟨3, false, group0⟩, (served 32 rfl), (by decide +kernel),
      (by decide +kernel), (by decide +kernel), (by decide +kernel)⟩,
    ⟨0, coding, 3, group0, 0, rfl, (by decide +kernel), (by decide +kernel), (by decide +kernel), (by decide +kernel),
      (by decide +kernel)⟩,
    ⟨ph, coding, ⟨rfl, by decide +kernel, rfl⟩, (fun _ => Nat.zero_lt_succ 2), (by decide +kernel)⟩,
    ⟨ph, coding, ⟨rfl, by decide +kernel, rfl⟩⟩⟩


/-! ## Handoffs -/

/-- Node 2, where both nodes are LIVE. -/
def bothLive : State := { stored with vnodes := [(0, { node with nodeId := 2, map := some ⟨0, [(1, .live), (2, .live)]⟩ })] }

/-- A region is awaited. -/
def awaits (u : RegionUse) : State := { enters 4 [] up with regions := [(0, ⟨u, 0, 1024⟩)] }

/-! ## The host interface -/

/-- A word waits in mailbox 8. -/
def mailFull : State := { up with host := { up.host with mailboxes := [(8, { Mailbox.reset with full := true })] } }

/-- The parameters of a result ring. -/
def resultBlk (id : BitVec 9) : RingBlk := ⟨id, true, 6, 6, 0, 0, 17, 0, 0, 0, 0, 0, false⟩

/-- The parameters of a submission ring. -/
def submitBlk : RingBlk := ⟨0, false, 6, 6, 0, 1, 0, 0, 0, 0, 0, 0, false⟩

/-- The administrative rings are described. -/
def described : State := { fw with host := { fw.host with adminBlocks := [(0, submitBlk), (1, resultBlk 1)] } }

/-- A header that a host sends. -/
def hostHdr (op : BitVec 16) : CmdHeader := { hdrOf 0 with opcode := op }

/-- Submission ring 2 with result ring 3, and a header fetched. -/
def ringsUp (op : BitVec 16) : State := { up with
  configured := true
  host := { up.host with rings := [(2, { Ring.reset with state := .active, sizeLog2 := 6, resultRing := 3, fetched := [hostHdr op] }),
    (3, { Ring.reset with state := .active, isResult := true, sizeLog2 := 6, entryLog2 := 6, unsignalled := 1 })] } }

/-- A command of queue pair 0 waits. -/
def qpWaits : State := { enters 3 (zeros 64) up with host := { up.host with qpHeld := [(0, [(msg, hdrOf 0)])] } }

/-- The debug lock is open. -/
def unlocked : State := { up with mgmt := { Mgmt.reset with debugLockOpen := true } }

/-- A FENCE waits for the twin. -/
def fencing : State := { queuedUp with jobs := [(3, .fence (cmd 8) 1 true true false)] }

/-! ## Synchronisation -/

/-- A command with its header. -/
def cmdOf (h : CmdHeader) : Cmd := ⟨.fabric 0 2 0 0, h, 0⟩

/-- A header with a signal. -/
def sigHdr : CmdHeader := { hdrOf 0 with signalValid := true }

/-- A header with a wait. -/
def waitHdr : CmdHeader := { hdrOf 0 with waitValid := true }

/-- A counter. -/
def counter0 : SyncObj := ⟨.counter, false, 0, 0, 0, 0, 0, 0, false, none, 0, 0⟩

/-- A barrier of two parties. -/
def barrier0 (pending root : Bool) (parent : TreeLink) (children : List TreeLink) : SyncObj :=
  ⟨.barrier, false, 0, 0, 0, 0, 0, 0, pending, some ⟨2, root, parent, children⟩, 0, 0⟩

/-- Object 0 is there. -/
def hasObj (o : SyncObj) : State := { unlocked with sync := { State.reset.sync with objs := [(0, o)] } }

/-- A waiter on it. -/
def waiter0 : Waiter := ⟨1, 0, 0, 1, 0, .ringHead 2⟩

/-- It waits. -/
def waited : State := { hasObj counter0 with sync := { (hasObj counter0).sync with waiters := [waiter0] } }

/-! ## Configuration, firmware and management -/

/-- A load of no bytes is complete. -/
def manifest0 : Manifest := ⟨0, 0, [], 0, [], [], [], [], [], []⟩

/-- A load under way. -/
def loading (l : Loader) : State := { up with pw := { up.pw with fwState := 1, loader := some l } }

/-- A session of a role. -/
def session0 (role : Nat) : Session := ⟨0, role, 0, 0, []⟩

/-- Firmware runs under the anchors, with an identity and a session. -/
def managed (role : Nat) : State := { fw with
  mgmt := { Mgmt.reset with anchorLock := true, identityOk := true, sessions := [(0, session0 role)] } }

/-- Stream 0 is bound. -/
def bound (tenancy : Nat) : State := { up with mgmt := { Mgmt.reset with ide := [0], tenancy := tenancy } }

/-- An anchor of the tenant is set. -/
def anchored : State := { managed roleTenant with mgmt := { (managed roleTenant).mgmt with tenantAnchor := List.replicate 32 1 } }

/-- Stack 0 is at 105 °C. -/
def hotStack : State := { up with hbmStacks := [(0, { Stack.reset with temp := 105 })] }

/-- The brake holds. -/
def braked : State := { up with pw := { up.pw with brake := true } }

/-- An admitted request of session 0. -/
def mreq : MgmtReq := ⟨0, 0⟩

/-- The hypotheses of each clause of HandoffCommandsComplete can be met. -/
theorem witness_handoff_commands_complete :
    (∃ c s b w, ∃ (p : OfferBlk), Serves c 32 s b w ∧ fieldsPass (offerFails p) = true ∧ offerDenied w (vnodeOf w c) p = false
      ∧ (senderOf c = none ∨ p.dest ≠ (vn w (vnodeOf w c)).nodeId))
    ∧ (∃ c s b w q n a k, ∃ (p : OfferBlk), Serves c 32 s b w ∧ fieldsPass (offerFails p) = true ∧ c.origin = .fabric q n a k ∧
      p.dest = (vn w (vnodeOf w c)).nodeId)
    ∧ (∃ c hid fills s b w n x, Serves c c.hdr.paramLen.toNat s b w ∧ senderOf c = some n ∧ handoffAt w (vnodeOf w c) hid =
      some x ∧ x.other = n ∧ x.isSource = true ∧ x.state = .offering ∧ acceptable w (vnodeOf w c) x fills = true)
    ∧ (∃ c hid s b w n x, Serves c c.hdr.paramLen.toNat s b w ∧ senderOf c = some n ∧ handoffAt w (vnodeOf w c) hid = some x ∧
      x.other = n ∧ x.isSource = false ∧ x.state = .accepted)
    ∧ (∃ v hid s x, live s = true ∧ handoffAt s v hid = some x ∧ (vn s v).fenced = false ∧ x.state = .receiving)
    ∧ (∃ v hid s x, live s = true ∧ handoffAt s v hid = some x ∧ (vn s v).fenced = false ∧ x.state = .committing)
    ∧ (∃ c s b w, Serves c 0 s b w) :=
  ⟨
    ⟨(cmd 32), (takes 32 stored), (takes 32 stored), (works 32 stored), ⟨4, 2, 1, 5, 0⟩, (served 32 rfl), (by decide +kernel),
      (by decide +kernel), (by decide +kernel)⟩,
    ⟨(cmd 32), (takes 32 stored), (takes 32 stored), (works 32 stored), 0, 2, 0, 0, ⟨4, 1, 1, 5, 0⟩, (served 32 rfl),
      (by decide +kernel), (by decide +kernel), (by decide +kernel)⟩,
    ⟨(cmd 32), 4, [], (takes 32 (handing true .offering)), (takes 32 (handing true .offering)), (works 32 (handing true
      .offering)), 2, (hand0 true .offering), (served_as 32 (by decide +kernel) rfl), (by decide +kernel), (by decide +kernel),
      (by decide +kernel), (by decide +kernel), (by decide +kernel), (by decide +kernel)⟩,
    ⟨(cmd 32), 4, (takes 32 (handing false .accepted)), (takes 32 (handing false .accepted)), (works 32 (handing false
      .accepted)), 2, (hand0 false .accepted), (served_as 32 (by decide +kernel) rfl), (by decide +kernel),
      (by decide +kernel), (by decide +kernel), (by decide +kernel), (by decide +kernel)⟩,
    ⟨0, 4, (handing false .receiving), (hand0 false .receiving), rfl, (by decide +kernel), (by decide +kernel),
      (by decide +kernel)⟩,
    ⟨0, 4, (handing true .committing), (hand0 true .committing), rfl, (by decide +kernel), (by decide +kernel),
      (by decide +kernel)⟩,
    ⟨(cmd 0), (takes 0 up), (takes 0 up), (works 0 up), (served 0 rfl)⟩⟩

/-- The hypotheses of each clause of HandoffEndsComplete can be met. -/
theorem witness_handoff_ends_complete :
    (∃ v hid s x c, live s = true ∧ handoffAt s v hid = some x ∧ x.state = .offering ∧ x.cmd = some c)
    ∧ (∃ v hid s x, live s = true ∧ handoffAt s v hid = some x ∧ (x.state = .committing ∨ x.state = .accepted))
    ∧ (∃ v hid s x, live s = true ∧ handoffAt s v hid = some x ∧ x.state = .receiving)
    ∧ (∃ c hid s b w x, Serves c 8 s b w ∧ handoffAt w (vnodeOf w c) hid = some x ∧ x.state ≠ .offering ∧ x.state ≠ .receiving
      ∧ x.isSource = true)
    ∧ (∃ c hid s b w x, Serves c 8 s b w ∧ handoffAt w (vnodeOf w c) hid = some x ∧ x.state ≠ .offering ∧ x.state ≠ .receiving
      ∧ x.isSource = false ∧ x.acceptSent = true)
    ∧ (∃ c hid s b w x, Serves c 8 s b w ∧ handoffAt w (vnodeOf w c) hid = some x ∧ x.state ≠ .offering ∧ x.state ≠ .receiving
      ∧ x.isSource = false)
    ∧ (∃ c t s b w f u q holder dest left, ∃ (prefer : List NodeId), Serves c 32 s b w ∧ t.spanCount = 1 ∧ fieldsPass
      (targetFails t ⟨true, false, false, false, false⟩) = true ∧ findHome c t.handle w = (.found f, u) ∧ u.seqs.at? f = some q
      ∧ q.places.at? t.spanFirst.toNat = some holder ∧ q.closing = false ∧ seqBusy u (vnodeOf w c) t.handle = false ∧
      (candidates (membersOf u c) prefer).filter (fun n => decide (n ≠ holder) && liveIn (membersOf u c) n && (decide (n ≠ (vn
      u (vnodeOf w c)).nodeId) || decide (initialNeed q.geo true ≤ freeForUse u (vnodeOf w c)))) = dest :: left ∧ holder = (vn
      u (vnodeOf w c)).nodeId ∧ offerDenied u (vnodeOf w c) (⟨u.nextTag, dest, 1, t.handle, t.spanFirst⟩) = false)
    ∧ (∃ c t s b w f u q holder dest left, ∃ (prefer : List NodeId), Serves c 32 s b w ∧ t.spanCount = 1 ∧ fieldsPass
      (targetFails t ⟨true, false, false, false, false⟩) = true ∧ findHome c t.handle w = (.found f, u) ∧ u.seqs.at? f = some q
      ∧ q.places.at? t.spanFirst.toNat = some holder ∧ q.closing = false ∧ seqBusy u (vnodeOf w c) t.handle = false ∧
      (candidates (membersOf u c) prefer).filter (fun n => decide (n ≠ holder) && liveIn (membersOf u c) n && (decide (n ≠ (vn
      u (vnodeOf w c)).nodeId) || decide (initialNeed q.geo true ≤ freeForUse u (vnodeOf w c)))) = dest :: left ∧ holder ≠ (vn
      u (vnodeOf w c)).nodeId)
    ∧ (∃ c t s b w f u q holder, ∃ (prefer : List NodeId), Serves c 32 s b w ∧ t.spanCount = 1 ∧ fieldsPass (targetFails t
      ⟨true, false, false, false, false⟩) = true ∧ findHome c t.handle w = (.found f, u) ∧ u.seqs.at? f = some q ∧ q.places.at?
      t.spanFirst.toNat = some holder ∧ q.closing = false ∧ seqBusy u (vnodeOf w c) t.handle = false ∧ (candidates (membersOf u
      c) prefer).filter (fun n => decide (n ≠ holder) && liveIn (membersOf u c) n && (decide (n ≠ (vn u (vnodeOf w c)).nodeId)
      || decide (initialNeed q.geo true ≤ freeForUse u (vnodeOf w c)))) = [])
    ∧ (∃ s id a n, ∃ (m : Msg) (payload : List Byte), live s = true ∧ admits s m opWrite (fun p => decide (p = payload)) = true
      ∧ (takeMsg m s).regions.at? m.key = some ⟨.job id, a, n⟩ ∧ (Region.mk (.job id) a n).holds m.addr payload.length = true)
    ∧ (∃ s id sub a n, ∃ (m : Msg) (payload : List Byte), live s = true ∧ admits s m opWrite (fun p => decide (p = payload)) =
      true ∧ (takeMsg m s).regions.at? m.key = some ⟨.fanout id sub, a, n⟩ ∧ (Region.mk (.fanout id sub) a n).holds m.addr
      payload.length = true)
    ∧ (∃ s, ∃ (m : Msg) (payload : List Byte), live s = true ∧ admits s m opWrite (fun p => decide (p = payload)) = true ∧
      ((takeMsg m s).regions.at? m.key).filter (fun r => r.holds m.addr payload.length) = none) :=
  ⟨
    ⟨0, 4, (handing true .offering), (hand0 true .offering), (cmd 32), rfl, (by decide +kernel), (by decide +kernel),
      (by decide +kernel)⟩,
    ⟨0, 4, (handing true .committing), (hand0 true .committing), rfl, (by decide +kernel), (by decide +kernel)⟩,
    ⟨0, 4, (handing false .receiving), (hand0 false .receiving), rfl, (by decide +kernel), (by decide +kernel)⟩,
    ⟨(cmd 8), 4, (takes 8 (handing true .inDoubt)), (takes 8 (handing true .inDoubt)), (works 8 (handing true .inDoubt)),
      (hand0 true .inDoubt), (served 8 rfl), (by decide +kernel), (by decide +kernel), (by decide +kernel),
      (by decide +kernel)⟩,
    ⟨(cmd 8), 4, (takes 8 (handing false .inDoubt)), (takes 8 (handing false .inDoubt)), (works 8 (handing false .inDoubt)),
      (hand0 false .inDoubt), (served 8 rfl), (by decide +kernel), (by decide +kernel), (by decide +kernel),
      (by decide +kernel), (by decide +kernel)⟩,
    ⟨(cmd 8), 4, (takes 8 (handing false .inDoubt)), (takes 8 (handing false .inDoubt)), (works 8 (handing false .inDoubt)),
      (hand0 false .inDoubt), (served 8 rfl), (by decide +kernel), (by decide +kernel), (by decide +kernel),
      (by decide +kernel)⟩,
    ⟨(cmd 32), tspan, (takes 32 { bothLive with seqs := [(1, seq2)] }), (takes 32 { bothLive with seqs := [(1, seq2)] }),
      (works 32 { bothLive with seqs := [(1, seq2)] }), 1, (findHome (cmd 32) tspan.handle (works 32 { bothLive with seqs :=
      [(1, seq2)] })).2, seq2, 2, 1, [], [1], (served 32 rfl), (by decide +kernel), (by decide +kernel), (pair_of
      (by decide +kernel)), (by decide +kernel), (by decide +kernel), (by decide +kernel), (by decide +kernel),
      (by decide +kernel), (by decide +kernel), (by decide +kernel)⟩,
    ⟨(cmd 32), tspan, (takes 32 bothLive), (takes 32 bothLive), (works 32 bothLive), 1, (findHome (cmd 32) tspan.handle (works
      32 bothLive)).2, seq0, 1, 2, [], [2], (served 32 rfl), (by decide +kernel), (by decide +kernel), (pair_of
      (by decide +kernel)), (by decide +kernel), (by decide +kernel), (by decide +kernel), (by decide +kernel),
      (by decide +kernel), (by decide +kernel)⟩,
    ⟨(cmd 32), tspan, (takes 32 stored), (takes 32 stored), (works 32 stored), 1, (findHome (cmd 32) tspan.handle (works 32
      stored)).2, seq0, 1, [2], (served 32 rfl), (by decide +kernel), (by decide +kernel), (pair_of (by decide +kernel)),
      (by decide +kernel), (by decide +kernel), (by decide +kernel), (by decide +kernel), (by decide +kernel)⟩,
    ⟨(awaits (.job 3)), 3, 0, 1024, msg, [], rfl, (by decide +kernel), (by decide +kernel), (by decide +kernel)⟩,
    ⟨(awaits (.fanout 3 0)), 3, 0, 0, 1024, msg, [], rfl, (by decide +kernel), (by decide +kernel), (by decide +kernel)⟩,
    ⟨(enters 4 [] up), msg, [], rfl, (by decide +kernel), (by decide +kernel)⟩⟩

/-- The hypotheses of each clause of MailboxAndRegisterWrites can be met. -/
theorem witness_mailbox_and_register_writes :
    (∃ s, live s = true)
    ∧ (∃ s, ∃ (m : BitVec 4), live s = true ∧ fromHost m = false ∧ (mbAt s m).full = true)
    ∧ (∃ s, ∃ (m : BitVec 4), live s = true ∧ fromHost m = false)
    ∧ (∃ s, live s = true)
    ∧ (∃ s, i3cAnswers s = true)
    ∧ (∃ s, live s = true)
    ∧ (∃ s, live s = true)
    ∧ (∃ s, live s = true) :=
  ⟨
    ⟨up, rfl⟩,
    ⟨mailFull, 8, rfl, (by decide +kernel), (by decide +kernel)⟩,
    ⟨up, 15, rfl, (by decide +kernel)⟩,
    ⟨up, rfl⟩,
    ⟨up, (by decide +kernel)⟩,
    ⟨up, rfl⟩,
    ⟨up, rfl⟩,
    ⟨up, rfl⟩⟩

/-- The hypotheses of each clause of RingCommandsComplete can be met. -/
theorem witness_ring_commands_complete :
    (∃ s p0 p1, ∃ (value : BitVec 64), live s = true ∧ s.pw.fwState = 2 ∧ value.getLsbD 0 = true ∧ s.host.adminBlocks.at? 1 =
      some p1 ∧ adminOk s 1 = true ∧ resultRingOk s p1 = true ∧ s.host.adminBlocks.at? 0 = some p0 ∧ adminOk (createRing p1 s)
      0 = true ∧ resultRingOk (createRing p1 s) p0 = true)
    ∧ (∃ c p s b w, Serves c 64 s b w ∧ fieldsPass (ringBlkFails p) = true ∧ 2 ≤ p.ringId.toNat ∧ (ringAt w p.ringId).state =
      .disabled ∧ resultRingOk w p = true)
    ∧ (∃ c s b w, ∃ (ring : BitVec 9), Serves c 8 s b w ∧ 2 ≤ ring.toNat ∧ (ringAt w ring).state ≠ .disabled ∧ (ringAt w
      ring).isResult = false)
    ∧ (∃ s, ∃ (ring : BitVec 9) (value : BitVec 32) (f : SlotFetch), live s = true ∧ (ringAt s ring).state = .active ∧ (ringAt
      s ring).isResult = false ∧ (ringAt s ring).destroying = none ∧ value ≠ (ringAt s ring).host ∧ (value - (ringAt s
      ring).host).toNat ≤ (ringAt s ring).size ∧ f.failed = false)
    ∧ (∃ s, ∃ (ring : BitVec 9) (value : BitVec 32), live s = true ∧ (ringAt s ring).state = .active ∧ (ringAt s ring).isResult
      = true ∧ value ≠ (ringAt s ring).host ∧ (value - (ringAt s ring).host).toNat ≤ (ringAt s ring).size)
    ∧ (∃ s, ∃ (ring : BitVec 9), live s = true ∧ (ringAt s ring).isResult = true ∧ 0 < (ringAt s ring).unsignalled)
    ∧ (∃ s, ∃ (ring : BitVec 9), live s = true ∧ (ringAt s ring).isResult = false) :=
  ⟨
    ⟨described, submitBlk, (resultBlk 1), 1, rfl, (by decide +kernel), (by decide +kernel), (by decide +kernel),
      (by decide +kernel), (by decide +kernel), (by decide +kernel), (by decide +kernel), (by decide +kernel)⟩,
    ⟨(cmd 64), (resultBlk 2), (takes 64 up), (takes 64 up), (works 64 up), (served 64 rfl), (by decide +kernel),
      (by decide +kernel), (by decide +kernel), (by decide +kernel)⟩,
    ⟨(cmd 8), (takes 8 (ringsUp 0x0604)), (takes 8 (ringsUp 0x0604)), (works 8 (ringsUp 0x0604)), 2, (served 8 rfl),
      (by decide +kernel), (by decide +kernel), (by decide +kernel)⟩,
    ⟨(ringsUp 0x0604), 2, 1, ⟨[], false⟩, rfl, (by decide +kernel), (by decide +kernel), (by decide +kernel),
      (by decide +kernel), (by decide +kernel), (by decide +kernel)⟩,
    ⟨(ringsUp 0x0604), 3, 1, rfl, (by decide +kernel), (by decide +kernel), (by decide +kernel), (by decide +kernel)⟩,
    ⟨(ringsUp 0x0604), 3, rfl, (by decide +kernel), (by decide +kernel)⟩,
    ⟨(ringsUp 0x0604), 2, rfl, (by decide +kernel)⟩⟩

/-- The hypotheses of each clause of AdmissionCompletes can be met. -/
theorem witness_admission_completes :
    (∃ s h rest, ∃ (ring : BitVec 9), live s = true ∧ (ringAt s ring).fetched = h :: rest ∧ (ringAt s ring).isResult = false ∧
      (ringAt s ring).headWaiting = false ∧ fenceOpen s ring = false ∧ unreserved (ringAt s (ringAt s ring).resultRing) ≠ 0 ∧
      (ringAt s ring).headReady = false ∧ tagBusy s ring h.tag = false ∧ headerCheck s ⟨.host ring, h, 0⟩ = none ∧
      headerWaitHolds s h = true)
    ∧ (∃ s h rest r, ∃ (ring : BitVec 9), live s = true ∧ (ringAt s ring).fetched = h :: rest ∧ (ringAt s ring).isResult =
      false ∧ (ringAt s ring).headWaiting = false ∧ fenceOpen s ring = false ∧ unreserved (ringAt s (ringAt s ring).resultRing)
      ≠ 0 ∧ (ringAt s ring).headReady = false ∧ tagBusy s ring h.tag = false ∧ headerCheck s ⟨.host ring, h, 0⟩ = some r ∧
      hostDataRefusal s ⟨.host ring, h, 0⟩ r = false)
    ∧ (∃ s, ∃ (m : Msg) (p : Fetched), live s = true ∧ admits s m opCommand (fun b => decide (b.take 64 = p.bytes)) = true ∧
      hasPeer (takeMsg m s) m.vnode m.sender = true ∧ (readCmd p).mapEpoch = m.mapEpoch ∧ (takeMsg m s).host.qpHeld.atD m.qpn
      [] = [])
    ∧ (∃ s x xs, ∃ (m : Msg) (p : Fetched), live s = true ∧ admits s m opCommand (fun b => decide (b.take 64 = p.bytes)) = true
      ∧ hasPeer (takeMsg m s) m.vnode m.sender = true ∧ (readCmd p).mapEpoch = m.mapEpoch ∧ (takeMsg m s).host.qpHeld.atD m.qpn
      [] = x :: xs)
    ∧ (∃ s, ∃ (m : Msg) (p : Fetched), live s = true ∧ admits s m opCommand (fun b => decide (b.take 64 = p.bytes)) = true ∧
      hasPeer (takeMsg m s) m.vnode m.sender = true ∧ (readCmd p).mapEpoch ≠ m.mapEpoch)
    ∧ (∃ s, live s = true) :=
  ⟨
    ⟨(ringsUp 0x0604), (hostHdr 0x0604), [], 2, rfl, (by decide +kernel), (by decide +kernel), (by decide +kernel),
      (by decide +kernel), (by decide +kernel), (by decide +kernel), (by decide +kernel), (by decide +kernel),
      (by decide +kernel)⟩,
    ⟨(ringsUp 0), (hostHdr 0), [], (Reply.bad 6), 2, rfl, (by decide +kernel), (by decide +kernel), (by decide +kernel),
      (by decide +kernel), (by decide +kernel), (by decide +kernel), (by decide +kernel), (by decide +kernel),
      (by decide +kernel)⟩,
    ⟨(enters 3 (zeros 64) up), msg, ⟨zeros 64, []⟩, rfl, (by decide +kernel), (by decide +kernel), (by decide +kernel),
      (by decide +kernel)⟩,
    ⟨qpWaits, (msg, hdrOf 0), [], msg, ⟨zeros 64, []⟩, rfl, (by decide +kernel), (by decide +kernel), (by decide +kernel),
      (by decide +kernel)⟩,
    ⟨(entersM { msg with mapEpoch := 1 } 3 (zeros 64) up), { msg with mapEpoch := 1 }, ⟨zeros 64, []⟩, rfl,
      (by decide +kernel), (by decide +kernel), (by decide +kernel)⟩,
    ⟨up, rfl⟩⟩

/-- The hypotheses of each clause of ApertureFenceAndLogComplete can be met. -/
theorem witness_aperture_fence_and_log_complete :
    (∃ u s, ∃ (offset : BitVec 28) (len : BitVec 13), live s = true ∧ s.mgmt.tenancy ≠ 2 ∧ (meetLink u (apertureAddr s offset)
      (applyUpsets u s)).1 = true ∧ (readRange .normal (apertureAddr s offset) (windowLen offset len.toNat) (meetLink u
      (apertureAddr s offset) (applyUpsets u s)).2).1 = true)
    ∧ (∃ s, ∃ (offset : BitVec 28) (len : BitVec 13) (u : Upsets), live s = true ∧ s.mgmt.tenancy ≠ 2 ∧ ((meetLink u
      (apertureAddr s offset) (applyUpsets u s)).1 = false ∨ (readRange .normal (apertureAddr s offset) (windowLen offset
      len.toNat) (meetLink u (apertureAddr s offset) (applyUpsets u s)).2).1 = false))
    ∧ (∃ s, ∃ (offset : BitVec 28) (bytes : List Byte), live s = true ∧ s.mgmt.tenancy ≠ 2 ∧ s.mgmt.debugLockOpen = true ∧
      (isReadOnly s (apertureAddr s offset) (bytes.take (windowLen offset bytes.length)).length = false ∨ hbmRead s
      (apertureAddr s offset) (bytes.take (windowLen offset bytes.length)).length = (bytes.take (windowLen offset
      bytes.length))))
    ∧ (∃ s, ∃ (offset : BitVec 28) (bytes : List Byte), live s = true ∧ (s.mgmt.tenancy = 2 ∨ s.mgmt.debugLockOpen = false ∨
      (isReadOnly s (apertureAddr s offset) (bytes.take (windowLen offset bytes.length)).length = true ∧ hbmRead s
      (apertureAddr s offset) (bytes.take (windowLen offset bytes.length)).length ≠ (bytes.take (windowLen offset
      bytes.length)))))
    ∧ (∃ c s b w, Serves c 8 s b w)
    ∧ (∃ job s c serial sc lm, live s = true ∧ s.jobs.at? job = some (.fence c serial sc true lm) ∧ fenceReady s c serial sc
      false = true ∧ fenceReady s c serial sc true = false)
    ∧ (∃ c s b w, ∃ (n : BitVec 13), Serves c 16 s b w ∧ 1 ≤ n.toNat ∧ n.toNat ≤ 4096)
    ∧ (∃ c s b w, ∃ (group : BitVec 8) (index : BitVec 8) (first : BitVec 8) (count : BitVec 8), Serves c 8 s b w ∧ groupTable
      w group.toNat ≠ [] ∧ 1 ≤ count.toNat ∧ count.toNat ≤ 64 ∧ first.toNat + count.toNat ≤ (groupTable w group.toNat).length ∧
      (∀ p ∈ ((groupTable w group.toNat).drop first.toNat).take count.toNat, p.indexOk w index.toNat = true) ∧ 8 * count.toNat
      ≤ resultRoom b c) :=
  ⟨
    ⟨calm, up, 0, 64, rfl, (by decide +kernel), (by decide +kernel), (by decide +kernel)⟩,
    ⟨up, 0, 64, { calm with linkFails := 2 }, rfl, (by decide +kernel), (by decide +kernel)⟩,
    ⟨unlocked, 0, [], rfl, (by decide +kernel), (by decide +kernel), (by decide +kernel)⟩,
    ⟨up, 0, [], rfl, (by decide +kernel)⟩,
    ⟨(cmd 8), (takes 8 up), (takes 8 up), (works 8 up), (served 8 rfl)⟩,
    ⟨3, fencing, (cmd 8), 1, true, false, rfl, (by decide +kernel), (by decide +kernel), (by decide +kernel)⟩,
    ⟨(cmd 16), (takes 16 up), (takes 16 up), (works 16 up), 1, (served 16 rfl), (by decide +kernel), (by decide +kernel)⟩,
    ⟨(cmd 8), (takes 8 up), (takes 8 up), (works 8 up), 1, 0, 0, 1, (served 8 rfl), (by decide +kernel), (by decide +kernel),
      (by decide +kernel), (by decide +kernel), (by decide +kernel), (by decide +kernel)⟩⟩

/-- The hypotheses of each clause of SyncCommandsComplete can be met. -/
theorem witness_sync_commands_complete :
    (∃ c s b w, ∃ (p : SyncCreateBlk), Serves c 32 s b w ∧ badVector p.msix = false ∧ p.kind.toNat ≤ 1 ∧ (p.kind = 1 →
      p.initial.toNat ≤ 1))
    ∧ (∃ c s b w, Serves c 8 s b w)
    ∧ (∃ c s b w, Serves c 0 s b w ∧ c.hdr.signalValid = true)
    ∧ (∃ c s b w, Serves c 0 s b w ∧ c.hdr.waitValid = true)
    ∧ (∃ c s b w, ∃ (first : BitVec 14) (count : BitVec 15), Serves c 8 s b w ∧ 1 ≤ count.toNat ∧ first.toNat + count.toNat ≤
      16384)
    ∧ (∃ c s b w, Serves c 8 s b w)
    ∧ (∃ c s b w, Serves c 8 s b w ∧ debugOpenOf w c = false)
    ∧ (∃ c s b w, Serves c 8 s b w ∧ debugOpenOf w c = true)
    ∧ (∃ c index s b w o, ∃ (action : BitVec 2), Serves c 16 s b w ∧ action ≠ 3 ∧ debugOpenOf w c = true ∧ objAt w index = some
      o)
    ∧ (∃ c s b w, ∃ (action : BitVec 2), Serves c 16 s b w ∧ action ≠ 3 ∧ debugOpenOf w c = false) :=
  ⟨
    ⟨(cmd 32), (takes 32 up), (takes 32 up), (works 32 up), ⟨0, 1, 0, 1⟩, (served 32 rfl), (by decide +kernel),
      (by decide +kernel), (by decide +kernel)⟩,
    ⟨(cmd 8), (takes 8 up), (takes 8 up), (works 8 up), (served 8 rfl)⟩,
    ⟨(cmdOf sigHdr), (takesC (cmdOf sigHdr) up false), (takesC (cmdOf sigHdr) up false), (worksC (cmdOf sigHdr) up false),
      (servedC (cmdOf sigHdr) false rfl rfl), (by decide +kernel)⟩,
    ⟨(cmdOf waitHdr), (takesC (cmdOf waitHdr) up false), (takesC (cmdOf waitHdr) up false), (worksC (cmdOf waitHdr) up false),
      (servedC (cmdOf waitHdr) false rfl rfl), (by decide +kernel)⟩,
    ⟨(cmd 8), (takes 8 up), (takes 8 up), (works 8 up), 16383, 1, (served 8 rfl), (by decide +kernel), (by decide +kernel)⟩,
    ⟨(cmd 8), (takes 8 up), (takes 8 up), (works 8 up), (served 8 rfl)⟩,
    ⟨(cmd 8), (takes 8 up), (takes 8 up), (works 8 up), (served 8 rfl), (by decide +kernel)⟩,
    ⟨(cmd 8), (takesC (cmd 8) up true), (takesC (cmd 8) up true), (worksC (cmd 8) up true), (servedC (cmd 8) true rfl rfl),
      (by decide +kernel)⟩,
    ⟨(cmd 16), 0, (takesC (cmd 16) (hasObj counter0) true), (takesC (cmd 16) (hasObj counter0) true), (worksC (cmd 16) (hasObj
      counter0) true), counter0, 0, (servedC (cmd 16) true rfl rfl), (by decide +kernel), (by decide +kernel),
      (by decide +kernel)⟩,
    ⟨(cmd 16), (takes 16 up), (takes 16 up), (works 16 up), 0, (served 16 rfl), (by decide +kernel), (by decide +kernel)⟩⟩

/-- The hypotheses of each clause of SyncRegistersComplete can be met. -/
theorem witness_sync_registers_complete :
    (∃ s, live s = true)
    ∧ (∃ s, live s = true)
    ∧ (∃ s, live s = true) :=
  ⟨
    ⟨up, rfl⟩,
    ⟨up, rfl⟩,
    ⟨up, rfl⟩⟩

/-- The hypotheses of each clause of BarriersComplete can be met. -/
theorem witness_barriers_complete :
    (∃ c s b w, ∃ (p : BarrierBlk), Serves c (32 + 8 * p.childCount.toNat) s b w ∧ badVector p.msix = false ∧
      p.childCount.toNat ≤ 16 ∧ 0 < p.parties.toNat + p.childCount.toNat ∧ (p.root = true → noParent p = true) ∧ badNode
      p.parent.node = false ∧ p.children.any (fun k => badNode k.node) = false ∧ anyEqual p.children = false)
    ∧ (∃ c index sense s b w o g, Serves c 8 s b w ∧ objAt w index = some o ∧ foreignObj w c index = false ∧ o.kind = .barrier
      ∧ o.failed = false ∧ arrivalPhase o (b2n sense) = some g)
    ∧ (∃ c index sense s b w o g, ∃ (t : BitVec 32), Serves c 8 s b w ∧ objAt w index = some o ∧ foreignObj w c index = false ∧
      o.kind = .barrier ∧ o.failed = false ∧ arrivalPhase o (b2n sense) = some g ∧ 1 ≤ t.toNat ∧ t.toNat ≤ 60000000 ∧
      w.sync.waiters.length < waiterRoom)
    ∧ (∃ m index fromIndex s o, ∃ (phase : BitVec 48), live s = true ∧ admits s m opSync (syncReads 2 index fromIndex
      phase.toNat 0 false) = true ∧ objAt (takeMsg m s) index = some o ∧ o.failed = false ∧ o.vnode = m.vnode ∧ isFenced
      (takeMsg m s) m.vnode m.sender = false ∧ o.barrier.isSome = true ∧ (links o).children.any (overLink m fromIndex) = true ∧
      (arrivalPhase o (phase.toNat % 2)).isSome = true)
    ∧ (∃ m index fromIndex s o, ∃ (phase : BitVec 48), live s = true ∧ admits s m opSync (syncReads 3 index fromIndex
      phase.toNat 0 false) = true ∧ objAt (takeMsg m s) index = some o ∧ o.failed = false ∧ o.vnode = m.vnode ∧ isFenced
      (takeMsg m s) m.vnode m.sender = false ∧ o.barrier.isSome = true ∧ (links o).root = false ∧ overLink m fromIndex (links
      o).parent = true ∧ o.pending = true ∧ phase.toNat = o.value)
    ∧ (∃ m index tag rsv s, ∃ (value : BitVec 64), live s = true ∧ admits s m opSync (syncReads 1 index 0 value.toNat tag rsv)
      = true ∧ hasPeer (takeMsg m s) m.vnode m.sender = true ∧ signalMsgStatus (takeMsg m s) m index rsv = none)
    ∧ (∃ waiter s w o, live s = true ∧ s.sync.waiters.find? (fun w => w.id = waiter) = some w ∧ objAt s w.index = some o) :=
  ⟨
    ⟨(cmd 32), (takes 32 up), (takes 32 up), (works 32 up), ⟨0, 2, 0, 0, true, ⟨0, 0, 0⟩, []⟩, (served_as 32
      (by decide +kernel) rfl), (by decide +kernel), (by decide +kernel), (by decide +kernel), (by decide +kernel),
      (by decide +kernel), (by decide +kernel), (by decide +kernel)⟩,
    ⟨(cmd 8), 0, false, (takes 8 (hasObj (barrier0 false true ⟨0, 0, 0⟩ []))), (takes 8 (hasObj (barrier0 false true ⟨0, 0, 0⟩
      []))), (works 8 (hasObj (barrier0 false true ⟨0, 0, 0⟩ []))), (barrier0 false true ⟨0, 0, 0⟩ []), 1, (served 8 rfl),
      (by decide +kernel), (by decide +kernel), (by decide +kernel), (by decide +kernel), (by decide +kernel)⟩,
    ⟨(cmd 8), 0, false, (takes 8 (hasObj (barrier0 false true ⟨0, 0, 0⟩ []))), (takes 8 (hasObj (barrier0 false true ⟨0, 0, 0⟩
      []))), (works 8 (hasObj (barrier0 false true ⟨0, 0, 0⟩ []))), (barrier0 false true ⟨0, 0, 0⟩ []), 1, 1, (served 8 rfl),
      (by decide +kernel), (by decide +kernel), (by decide +kernel), (by decide +kernel), (by decide +kernel),
      (by decide +kernel), (by decide +kernel), (by decide +kernel)⟩,
    ⟨msg, 0, 5, (enters 7 (syncBytes 2 0 5 0 0) (hasObj (barrier0 false true ⟨0, 0, 0⟩ [⟨2, 5, 0⟩]))), (barrier0 false true ⟨0,
      0, 0⟩ [⟨2, 5, 0⟩]), 0, rfl, (by decide +kernel), (by decide +kernel), (by decide +kernel), (by decide +kernel),
      (by decide +kernel), (by decide +kernel), (by decide +kernel), (by decide +kernel)⟩,
    ⟨msg, 0, 5, (enters 7 (syncBytes 3 0 5 0 0) (hasObj (barrier0 true false ⟨2, 5, 0⟩ []))), (barrier0 true false ⟨2, 5, 0⟩
      []), 0, rfl, (by decide +kernel), (by decide +kernel), (by decide +kernel), (by decide +kernel), (by decide +kernel),
      (by decide +kernel), (by decide +kernel), (by decide +kernel), (by decide +kernel), (by decide +kernel)⟩,
    ⟨msg, 0, 0, false, (enters 7 (syncBytes 1 0 0 0 0) (hasObj counter0)), 0, rfl, (by decide +kernel), (by decide +kernel),
      (by decide +kernel)⟩,
    ⟨1, waited, waiter0, counter0, rfl, (by decide +kernel), (by decide +kernel)⟩⟩

/-- The hypotheses of each clause of ConfigurationCompletes can be met. -/
theorem witness_configuration_completes :
    (∃ c s b w, ∃ (img : ConfigImage), live s = true ∧ toWork c s = some (b, w) ∧ imageFault c img = none)
    ∧ (∃ c s b w, ∃ (p : ProfileBlock), Serves c (8 + 8 * p.itemCount.toNat) s b w ∧ p.items.length = p.itemCount.toNat ∧
      p.profile.toNat ≤ 4 ∧ itemsFault 72 [] p.items = none ∧ (∀ i ∈ p.items, i.knobId.toNat / 256 ≠ 2) ∧ (profileKnobsOf w
      p).demoteOk = true ∧ ((profileKnobsOf w p).hbmCodeMode = w.knobs.hbmCodeMode ∨ w.everAllocated = false))
    ∧ (∃ c s b w, Serves c 0 s b w) :=
  ⟨
    ⟨(cmd 64), (takes 64 up), (takes 64 up), (works 64 up), ⟨1, 0, 0, 0, [], []⟩, rfl, (served 64 rfl).2.1,
      (by decide +kernel)⟩,
    ⟨(cmd 8), (takes 8 up), (takes 8 up), (works 8 up), ⟨0, 0, []⟩, (served_as 8 (by decide +kernel) rfl), (by decide +kernel),
      (by decide +kernel), (by decide +kernel), (by decide +kernel), (by decide +kernel), (by decide +kernel)⟩,
    ⟨(cmd 0), (takes 0 up), (takes 0 up), (works 0 up), (served 0 rfl)⟩⟩

/-- The hypotheses of each clause of LoaderCompletes can be met. -/
theorem witness_loader_completes :
    (∃ s, ∃ (len : BitVec 32), live s = true ∧ wordReserved s 0 = false ∧ s.pw.fwState ≠ fwRunning ∧ 1 ≤ len.toNat ∧ len.toNat
      ≤ imageMax)
    ∧ (∃ s, ∃ (len : BitVec 21) (offset : BitVec 32) (l : Loader), live s = true ∧ wordReserved s 0 = false ∧ s.pw.fwState ≠
      fwRunning ∧ s.pw.loader = some l ∧ offset.toNat = l.next ∧ l.next + len.toNat ≤ l.len ∧ len.toNat ≤ loadWindow ∧
      l.manifest = none)
    ∧ (∃ s m, ∃ (l : Loader), live s = true ∧ wordReserved s 0 = false ∧ s.pw.fwState ≠ fwRunning ∧ s.pw.loader = some l ∧
      l.next = l.len ∧ l.manifest = some m ∧ componentFail m l.image true = none)
    ∧ (∃ s, live s = true ∧ s.pw.fwState = fwLoading ∧ wordReserved s 0 = false)
    ∧ (∃ s, live s = true ∧ s.pw.fwState = fwLoading)
    ∧ (∃ s, ∃ (mb : BitVec 3), live s = true ∧ (mb = 0 ∨ s.pw.fwState = fwRunning) ∧ wordReserved s (BitVec.ofNat 4 mb.toNat) =
      false)
    ∧ (∃ s, live s = true ∧ s.pw.fwState ≠ fwRunning) :=
  ⟨
    ⟨up, 1, rfl, (by decide +kernel), (by decide +kernel), (by decide +kernel), (by decide +kernel)⟩,
    ⟨(loading ⟨10, 0, [], none⟩), 1, 0, ⟨10, 0, [], none⟩, rfl, (by decide +kernel), (by decide +kernel), (by decide +kernel),
      (by decide +kernel), (by decide +kernel), (by decide +kernel), (by decide +kernel)⟩,
    ⟨(loading ⟨0, 0, [], some manifest0⟩), manifest0, ⟨0, 0, [], some manifest0⟩, rfl, (by decide +kernel),
      (by decide +kernel), (by decide +kernel), (by decide +kernel), (by decide +kernel), (by decide +kernel)⟩,
    ⟨(loading ⟨10, 0, [], none⟩), rfl, (by decide +kernel), (by decide +kernel)⟩,
    ⟨(loading ⟨10, 0, [], none⟩), rfl, (by decide +kernel)⟩,
    ⟨up, 0, rfl, (by decide +kernel), (by decide +kernel)⟩,
    ⟨up, rfl, (by decide +kernel)⟩⟩

/-- The hypotheses of each clause of I3cTargetCompletes can be met. -/
theorem witness_i3c_target_completes :
    (∃ s, i3cAnswers s = true)
    ∧ (∃ s, ∃ (a : BitVec 7), i3cAnswers s = true ∧ a ≠ 0x3A)
    ∧ (∃ s, i3cAnswers s = true ∧ s.mgmt.anchorLock = false)
    ∧ (∃ s, i3cAnswers s = true ∧ s.mgmt.anchorLock = true)
    ∧ (∃ s, i3cAnswers s = true) :=
  ⟨
    ⟨up, (by decide +kernel)⟩,
    ⟨up, 0x10, (by decide +kernel), (by decide +kernel)⟩,
    ⟨up, (by decide +kernel), (by decide +kernel)⟩,
    ⟨(managed roleTenant), (by decide +kernel), (by decide +kernel)⟩,
    ⟨up, (by decide +kernel)⟩⟩

/-- The hypotheses of each clause of SessionsComplete can be met. -/
theorem witness_sessions_complete :
    (∃ s i, ∃ (ek : List Byte) (nonce : List Byte), live s = true ∧ s.pw.mgmtMode.toNat < 2 ∧ s.pw.fwState = fwRunning ∧
      s.mgmt.anchorLock = true ∧ s.mgmt.identityOk = true ∧ freeSession s = some i ∧ ek.length = 1184 ∧ nonce.length = 32)
    ∧ (∃ s, live s = true) :=
  ⟨
    ⟨{ managed roleOperator with mgmt := { (managed roleOperator).mgmt with sessions := [] } }, 0, (zeros 1184), (zeros 32),
      rfl, (by decide +kernel), (by decide +kernel), (by decide +kernel), (by decide +kernel), (by decide +kernel),
      (by decide +kernel), (by decide +kernel)⟩,
    ⟨up, rfl⟩⟩

/-- The hypotheses of each clause of ManagementReadsComplete can be met. -/
theorem witness_management_reads_complete :
    (∃ r s, Managed r anyRole s)
    ∧ (∃ r s, ∃ (nonce : List Byte), Managed r anyRole s ∧ nonce.length = 32)
    ∧ (∃ r s, Managed r [roleOperator] s)
    ∧ (∃ r s, ∃ (v : VId), Managed r [roleOperator] s ∧ v.toNat < vnodeCount (countRecord r.session false s))
    ∧ (∃ r s, Managed r [roleOperator] s) :=
  ⟨
    ⟨mreq, (managed roleTenant), ⟨rfl, session0 roleTenant, by decide +kernel, by decide +kernel⟩⟩,
    ⟨mreq, (managed roleTenant), (zeros 32), ⟨rfl, session0 roleTenant, by decide +kernel, by decide +kernel⟩,
      (by decide +kernel)⟩,
    ⟨mreq, (managed roleOperator), ⟨rfl, session0 roleOperator, by decide +kernel, by decide +kernel⟩⟩,
    ⟨mreq, (managed roleOperator), 0, ⟨rfl, session0 roleOperator, by decide +kernel, by decide +kernel⟩, (by decide +kernel)⟩,
    ⟨mreq, (managed roleOperator), ⟨rfl, session0 roleOperator, by decide +kernel, by decide +kernel⟩⟩⟩

/-- The hypotheses of each clause of ManagementSettingsComplete can be met. -/
theorem witness_management_settings_complete :
    (∃ r s, ∃ (v : VId) (nodeId : NodeId), Managed r [roleOperator] s ∧ v.toNat < vnodeCount (countRecord r.session false s) ∧
      badNode nodeId = false ∧ (nodeId = (vn (countRecord r.session false s) v).nodeId ∨ (countRecord r.session false
      s).fab.qps.any (fun q => decide (vnodeOfQpn (countRecord r.session false s) q.1 = v) && decide (q.2.state = .ready)) =
      false))
    ∧ (∃ r s, ∃ (v : VId) (peer : NodeId), Managed r [roleOperator] s ∧ v.toNat < vnodeCount (countRecord r.session false s) ∧
      peer.toNat < 0x1000)
    ∧ (∃ r s, ∃ (digest : List Byte), Managed r [roleOperator] s ∧ digest.length = 32 ∧ (countRecord r.session false
      s).mgmt.tenancy ≠ tenSealed)
    ∧ (∃ r s, Managed r [roleOperator] s ∧ (countRecord r.session false s).mgmt.tenancy ≠ tenSealed)
    ∧ (∃ r s anchors, Managed r anyRole s ∧ roleIn (countRecord r.session false s) r = (if (countRecord r.session false
      s).mgmt.tenancy = tenSealed then roleTenant else roleOperator) ∧ anchorsOk anchors = true) :=
  ⟨
    ⟨mreq, (managed roleOperator), 0, 1, ⟨rfl, session0 roleOperator, by decide +kernel, by decide +kernel⟩,
      (by decide +kernel), (by decide +kernel), (by decide +kernel)⟩,
    ⟨mreq, (managed roleOperator), 0, 2, ⟨rfl, session0 roleOperator, by decide +kernel, by decide +kernel⟩,
      (by decide +kernel), (by decide +kernel)⟩,
    ⟨mreq, (managed roleOperator), (zeros 32), ⟨rfl, session0 roleOperator, by decide +kernel, by decide +kernel⟩,
      (by decide +kernel), (by decide +kernel)⟩,
    ⟨mreq, (managed roleOperator), ⟨rfl, session0 roleOperator, by decide +kernel, by decide +kernel⟩, (by decide +kernel)⟩,
    ⟨mreq, (managed roleOperator), [], ⟨rfl, session0 roleOperator, by decide +kernel, by decide +kernel⟩, (by decide +kernel),
      (by decide +kernel)⟩⟩

/-- The hypotheses of each clause of TenancyChangesComplete can be met. -/
theorem witness_tenancy_changes_complete :
    (∃ r s, ∃ (tk : List Byte) (hd : BitVec 8) (anchors : List AnchorEntry), Managed r [roleTenant] s ∧ tk.length = 32 ∧
      hd.toNat ≤ 1 ∧ anchorsOk anchors = true ∧ (countRecord r.session false s).mgmt.tenancy ≠ tenSealed ∧ (countRecord
      r.session false s).mgmt.identityOk = true ∧ allZero (countRecord r.session false s).mgmt.tenantAnchor = false)
    ∧ (∃ r s, ∃ (tk : List Byte), Managed r [roleOperator] s ∧ tk.length = 32 ∧ (countRecord r.session false s).mgmt.tenancy ≠
      tenSealed)
    ∧ (∃ r s, Managed r anyRole s ∧ (roleIn (countRecord r.session false s) r = roleOperator ∨ (countRecord r.session false
      s).mgmt.tenancy = tenSealed)) :=
  ⟨
    ⟨mreq, anchored, (zeros 32), 0, [], ⟨rfl, session0 roleTenant, by decide +kernel, by decide +kernel⟩, (by decide +kernel),
      (by decide +kernel), (by decide +kernel), (by decide +kernel), (by decide +kernel), (by decide +kernel)⟩,
    ⟨mreq, (managed roleOperator), (zeros 32), ⟨rfl, session0 roleOperator, by decide +kernel, by decide +kernel⟩,
      (by decide +kernel), (by decide +kernel)⟩,
    ⟨mreq, (managed roleOperator), ⟨rfl, session0 roleOperator, by decide +kernel, by decide +kernel⟩, (by decide +kernel)⟩⟩

/-- The hypotheses of each clause of SpdmAndIdeComplete can be met. -/
theorem witness_spdm_and_ide_complete :
    (∃ s, ∃ (first : BitVec 8) (last : BitVec 8), live s = true ∧ s.mgmt.identityOk = true ∧ 1 ≤ first.toNat ∧ last.toNat ≤ 8)
    ∧ (∃ s, ∃ (stream : BitVec 4), live s = true ∧ stream.toNat ≤ 8)
    ∧ (∃ s, ∃ (stream : BitVec 4), live s = true ∧ stream ∈ s.mgmt.ide ∧ s.mgmt.tenancy = tenSealed)
    ∧ (∃ s, ∃ (stream : BitVec 4), live s = true ∧ stream ∈ s.mgmt.ide ∧ s.mgmt.tenancy ≠ tenSealed) :=
  ⟨
    ⟨(managed roleTenant), 1, 8, rfl, (by decide +kernel), (by decide +kernel), (by decide +kernel)⟩,
    ⟨up, 8, rfl, (by decide +kernel)⟩,
    ⟨(bound tenSealed), 0, rfl, (by decide +kernel), (by decide +kernel)⟩,
    ⟨(bound 0), 0, rfl, (by decide +kernel), (by decide +kernel)⟩⟩

/-- The hypotheses of each clause of ResetsComplete can be met. -/
theorem witness_resets_complete :
    (∃ (s : State), s.pw.fwState ≠ 2)
    ∧ (∃ (s : State), released s = false ∧ (s.pw.thermTrip = false ∨ s.pw.tripClears = true)) :=
  ⟨
    ⟨State.reset, (by decide +kernel)⟩,
    ⟨State.reset, (by decide +kernel), (by decide +kernel)⟩⟩

/-- The hypotheses of each clause of ClockEventsComplete can be met. -/
theorem witness_clock_events_complete :
    (∃ s, live s = true)
    ∧ (∃ s, ∃ (core : BitVec 4), live s = true ∧ core.toNat < 8 ∧ s.attn.reqs.any (fun r => r.2.pages.any (fun p => decide
      (p.core = core.toNat))) = false)
    ∧ (∃ s, ∃ (core : BitVec 4), live s = true ∧ core ≠ 0 ∧ (8 ≤ core.toNat ∨ (mbAt s core).full = false)) :=
  ⟨
    ⟨up, rfl⟩,
    ⟨up, 0, rfl, (by decide +kernel), (by decide +kernel)⟩,
    ⟨up, 8, rfl, (by decide +kernel), (by decide +kernel)⟩⟩

/-- The hypotheses of each clause of PowerEventsComplete can be met. -/
theorem witness_power_events_complete :
    (∃ s, ∃ (rail : BitVec 3) (mv : Nat), live s = true ∧ s.pw.brake = false ∧ 100 * mv < 94 * railNominal.getD rail.toNat 0)
    ∧ (∃ s, ∃ (rail : BitVec 3) (mv : Nat), live s = true ∧ (s.pw.brake = true ∨ 94 * railNominal.getD rail.toNat 0 ≤ 100 *
      mv))
    ∧ (∃ s, live s = true ∧ s.pw.brake = true)
    ∧ (∃ s, live s = true)
    ∧ (∃ s, ∃ (temps : List Int), live s = true ∧ 110 ≤ hottest temps)
    ∧ (∃ s, ∃ (temps : List Int), live s = true ∧ (alertTemp { s with pw := { s.pw with temps := temps } }).hbmStacks.any (fun
      x => decide (105 ≤ x.2.temp)) = true)
    ∧ (∃ s, ∃ (temps : List Int), live s = true ∧ ((alertTemp { s with pw := { s.pw with temps := temps } }).hbmStacks.any (fun
      x => decide (105 ≤ x.2.temp)) = false) ∧ 105 ≤ hottest temps ∧ hottest temps < 110)
    ∧ (∃ s, ∃ (temps : List Int), live s = true ∧ ((alertTemp { s with pw := { s.pw with temps := temps } }).hbmStacks.any (fun
      x => decide (105 ≤ x.2.temp)) = false) ∧ 95 ≤ hottest temps ∧ hottest temps < 105 ∧ (alertTemp { s with pw := { s.pw with
      temps := temps } }).pw.thermalActed = false)
    ∧ (∃ s, ∃ (temps : List Int), live s = true ∧ ((alertTemp { s with pw := { s.pw with temps := temps } }).hbmStacks.any (fun
      x => decide (105 ≤ x.2.temp)) = false) ∧ hottest temps < 90) :=
  ⟨
    ⟨up, 0, 0, rfl, (by decide +kernel), (by decide +kernel)⟩,
    ⟨up, 0, 100000, rfl, (by decide +kernel)⟩,
    ⟨braked, rfl, (by decide +kernel)⟩,
    ⟨up, rfl⟩,
    ⟨up, [110], rfl, (by decide +kernel)⟩,
    ⟨hotStack, [20], rfl, (by decide +kernel)⟩,
    ⟨up, [105], rfl, (by decide +kernel), (by decide +kernel), (by decide +kernel)⟩,
    ⟨up, [95], rfl, (by decide +kernel), (by decide +kernel), (by decide +kernel), (by decide +kernel)⟩,
    ⟨up, [89], rfl, (by decide +kernel), (by decide +kernel)⟩⟩

/-- The hypotheses of each clause of TelemetryEventsComplete can be met. -/
theorem witness_telemetry_events_complete :
    (∃ s, ∃ (lane : BitVec 5), live s = true ∧ lane.toNat < 20)
    ∧ (∃ s, live s = true)
    ∧ (∃ s, live s = true)
    ∧ (∃ s, ∃ (port : BitVec 5), live s = true ∧ s.pw.fwState = 2 ∧ portOk s port = true) :=
  ⟨
    ⟨up, 19, rfl, (by decide +kernel)⟩,
    ⟨up, rfl⟩,
    ⟨up, rfl⟩,
    ⟨fw, 0, rfl, (by decide +kernel), (by decide +kernel)⟩⟩

/-! ## The general statements -/

/-- A header whose wait does not hold. -/
def heldHdr : CmdHeader :=
  { hdrOf 0 with opcode := 0x0604, waitValid := true, waitTimeout := 1, waitValue := 1 }

/-- A configured node with a counter. -/
def counted : State := { hasObj counter0 with configured := true }

/-- Its waiter table is full. -/
def crowded : State := { counted with sync := { counted.sync with waiters := List.replicate 8192 waiter0 } }

/-- A stopped node. -/
def fatalState : State := { up with pw := { up.pw with fatal := true } }

/-- The hypotheses of DeadNodeIgnoresCommands can be met. -/
theorem witness_dead_node_ignores_commands :
    (∃ i : Instr, ∃ s, live s = false ∧ i.alwaysOn = false)
    ∧ (∃ i : Instr, ∃ s t, s.pw.fatal = true ∧ i.resets = false ∧ (∀ mode test puf, i ≠ .powerUp mode test puf) ∧ exec i s = .next t) :=
  ⟨⟨.syncSel 0, State.reset, rfl, rfl⟩, ⟨.syncSel 0, fatalState, fatalState, rfl, rfl, (by intro _ _ _ h; cases h), rfl⟩⟩

/-- The hypotheses of each clause of HeaderChecksComeFirst on commands can be met. -/
theorem witness_header_checks_come_first :
    (∃ i : Instr, ∃ c s r, i.verb? = some c ∧ live s = true ∧ admission s c = none ∧ (i.fills = true → AllFill s) ∧ headerCheck s c = some r)
    ∧ (∃ i : Instr, ∃ c s, i.verb? = some c ∧ live s = true ∧ admission s c = none ∧ (i.fills = true → AllFill s) ∧ headerCheck s c = none
      ∧ headerWaitHolds s c.hdr = false ∧ s.sync.waiters.length < waiterRoom)
    ∧ (∃ i : Instr, ∃ c s, i.verb? = some c ∧ live s = true ∧ admission s c = none ∧ (i.fills = true → AllFill s) ∧ headerCheck s c = none
      ∧ headerWaitHolds s c.hdr = false ∧ waiterRoom ≤ s.sync.waiters.length) :=
  ⟨⟨.kvAppend (cmd 0) [] calm, cmd 0, up, Reply.bad 6, rfl, rfl, by decide +kernel, fun _ _ => Nat.zero_lt_succ 2, by decide +kernel⟩,
    ⟨.twinStatus (cmdOf heldHdr), cmdOf heldHdr, counted, rfl, rfl, by decide +kernel, fun _ _ => Nat.zero_lt_succ 2, by decide +kernel,
      by decide +kernel, by decide +kernel⟩,
    ⟨.twinStatus (cmdOf heldHdr), cmdOf heldHdr, crowded, rfl, rfl, by decide +kernel, fun _ _ => Nat.zero_lt_succ 2, by decide +kernel,
      by decide +kernel, Nat.le_of_eq (List.length_replicate).symm⟩⟩

/-- A PEER message of node 2 with a reserved field set. -/
def phBad : PeerHdr := { ph with rsv := true }

/-- Mailbox 0 holds a word with bit 53 set. -/
def badWord : State := { up with host := { up.host with mailboxes := [(0, { Mailbox.reset with full := true, word := 0x20000000000000 })] } }

/-- The hypotheses of each clause of HeaderChecksComeFirst on messages, packets and words can be met. -/
theorem witness_reserved_fields_are_refused :
    (∃ i : Instr, ∃ h cls s, i.peer? = some (h, cls) ∧ live s = true ∧ peerTaken (takePeer h.sender s) h cls = true ∧ h.rsv = true)
    ∧ (∃ h : PeerHdr, ∃ s, live s = true ∧ peerTaken (takePeer h.sender s) h .other = true ∧ h.rsv = true)
    ∧ (∃ p : AckPkt, ∃ s, live s = true ∧ p.bth.malformed = false ∧ talks s p.bth.vnode = true
      ∧ associated s p.bth.vnode p.bth.srcNode = true ∧ p.rsv = true)
    ∧ (∃ p : HelloPayload, ∃ s, live s = true ∧ p.rsv = true)
    ∧ (∃ v sender tl, ∃ p : HeartbeatPayload, ∃ s, live s = true ∧ p.malformed = false ∧ talks s v = true
      ∧ (assocAt s v sender tl).isSome = true ∧ p.rsv = true)
    ∧ (∃ s, live s = true ∧ wordReserved s 0 = true) ∧ (∃ r s, Managed r [roleOperator] s) :=
  ⟨⟨.homeUpdate phBad, phBad, .other, up, rfl, rfl, by decide +kernel, rfl⟩, ⟨phBad, up, rfl, by decide +kernel, rfl⟩,
    ⟨{ ack0 with rsv := true }, linked qp0, rfl, by decide +kernel, by decide +kernel, by decide +kernel, rfl⟩,
    ⟨⟨0, 0, 0, 0, 0, 0, 0, 0, true⟩, up, rfl, rfl⟩,
    ⟨0, 2, false, ⟨0, 0, 0, 0, 0, false, false, 0, true, false⟩, linked qp0, rfl, rfl, by decide +kernel, by decide +kernel, rfl⟩, ⟨badWord, rfl, by decide +kernel⟩,
    ⟨mreq, managed roleOperator, rfl, session0 roleOperator, by decide +kernel, by decide +kernel⟩⟩

/-- The hypotheses of each clause of ManagementRolesAreChecked can be met. -/
theorem witness_management_roles_are_checked :
    (∃ i : Instr, ∃ r roles s x, i.request? = some (r, roles) ∧ live s = true ∧ s.mgmt.sessions.at? r.session = some x ∧ x.role ∉ roles)
    ∧ (∃ i : Instr, ∃ r roles s, i.request? = some (r, roles) ∧ live s = true ∧ s.mgmt.sessions.at? r.session = none) :=
  ⟨⟨.debugLock mreq true, mreq, [roleOperator], managed roleTenant, session0 roleTenant, rfl, rfl, by decide +kernel, by decide +kernel⟩,
    ⟨.debugLock mreq true, mreq, [roleOperator], up, rfl, rfl, by decide +kernel⟩⟩

/-- A command waits, and an error has been counted. -/
def queued1 : State := { up with pending := [.syncSel 0], ctr := [((.hbmCe, 0), 5)] }

/-- The hypotheses of StepKeepsTheInvariant, and of the statements about what each row leaves, can be met. -/
theorem witness_steps :
    (∃ s t, s.Inv ∧ step s = .next t)
    ∧ (∃ c rest, ∃ s : State, s.pending = c :: rest)
    ∧ (∃ s : State, s.pending = [] ∧ live s = true) ∧ (∃ s : State, s.pending = [] ∧ released s = true ∧ (live s = false ∨ (s.hbm.ueDue = [] ∧ s.hbm.mapsDue = [])))
    ∧ (∃ s : State, s.pending = [] ∧ released s = false)
    ∧ (∃ i : Instr, ∃ s t, exec i s = .next t ∧ i.resets = false)
    ∧ (∃ i : Instr, ∃ s t, (i.syncRow = true ∨ i.reports = true) ∧ exec i s = .next t)
    ∧ (∃ i : Instr, ∃ s t, i.storesNothing = true ∧ exec i s = .next t)
    ∧ (∃ tag s t, (∀ x l k p a b, s.peerSent.at? tag = some x → x.msg.body ≠ .copyPage l k p a b) ∧ exec (.peerResend tag) s = .next t)
    ∧ (∃ i : Instr, ∃ s t, i.endsRequests = true ∧ exec i s = .next t) :=
  ⟨⟨queued1, _, ⟨by decide +kernel, by decide +kernel, by decide +kernel, by decide +kernel⟩, rfl⟩, ⟨.syncSel 0, [], queued1, rfl⟩, ⟨up, rfl, rfl⟩,
    ⟨up, rfl, rfl, .inr ⟨rfl, rfl⟩⟩, ⟨State.reset, rfl, rfl⟩, ⟨.syncSel 0, State.reset, State.reset, rfl, rfl⟩,
    ⟨Instr.syncSel 0, State.reset, State.reset, .inl rfl, rfl⟩, ⟨.syncSel 0, State.reset, State.reset, rfl, rfl⟩,
    ⟨0, State.reset, State.reset, nofun, rfl⟩, ⟨.attnAdmitTimeout 0, State.reset, State.reset, rfl, rfl⟩⟩

/-- An event with a value. -/
def event0 (value : Nat) : SyncObj := ⟨.event, false, 0, 0, value, 0, 0, 0, false, none, 0, 0⟩

/-- A waiter waits on it. -/
def eventWaited : State := { hasObj (event0 0) with sync := { (hasObj (event0 0)).sync with waiters := [waiter0] } }

/-- A header that waits for a condition that holds. -/
def passHdr : CmdHeader := { heldHdr with waitValue := 0 }

/-- The hypotheses of each clause of SignalsAndWaitConditions can be met, with wait values at the ends of their ranges. -/
theorem witness_signals_and_wait_conditions :
    (∃ s i o, objAt s i = some o ∧ o.kind = .counter)
    ∧ (∃ s i o, objAt s i = some o ∧ o.kind = .event ∧ o.value = 0 ∧ waitersOf s i = [])
    ∧ (∃ s i o w r, objAt s i = some o ∧ o.kind = .event ∧ o.value = 0 ∧ waitersOf s i = w :: r)
    ∧ (∃ s i o, objAt s i = some o ∧ o.kind = .event ∧ o.value = 1)
    ∧ (∃ h : CmdHeader, ∃ s o, h.signalValid = true ∧ objAt s h.signalObj = some o ∧ o.kind = .barrier
      ∧ (h.waitValid = true → (objAt s h.waitObj).isSome = true))
    ∧ (∃ o : SyncObj, ∃ w, o.kind = .counter ∧ w < 2 ^ 64) ∧ (∃ o : SyncObj, o.kind = .event) ∧ (∃ o : SyncObj, ∃ w, o.kind = .barrier ∧ w < 2 ^ 48)
    ∧ (∃ h : CmdHeader, ∃ s o, h.waitValid = true ∧ h.signalValid = false ∧ 1 ≤ h.waitTimeout.toNat ∧ h.waitTimeout.toNat ≤ 60000000
      ∧ objAt s h.waitObj = some o ∧ o.failed = false)
    ∧ (∃ c s o, admission s c = none ∧ headerCheck s c = none ∧ c.hdr.waitValid = true ∧ objAt s c.hdr.waitObj = some o
      ∧ waitHolds o c.hdr.waitValue.toNat = true) :=
  ⟨⟨hasObj counter0, 0, counter0, by decide +kernel, rfl⟩, ⟨hasObj (event0 0), 0, event0 0, by decide +kernel, rfl, rfl, by decide +kernel⟩,
    ⟨eventWaited, 0, event0 0, waiter0, [], by decide +kernel, rfl, rfl, by decide +kernel⟩,
    ⟨hasObj (event0 1), 0, event0 1, by decide +kernel, rfl, rfl⟩,
    ⟨sigHdr, hasObj (barrier0 false true ⟨0, 0, 0⟩ []), barrier0 false true ⟨0, 0, 0⟩ [], rfl, by decide +kernel, rfl, by decide +kernel⟩,
    ⟨counter0, 2 ^ 64 - 1, rfl, by decide +kernel⟩, ⟨event0 0, rfl⟩, ⟨barrier0 false true ⟨0, 0, 0⟩ [], 2 ^ 48 - 1, rfl, by decide +kernel⟩,
    ⟨heldHdr, hasObj counter0, counter0, rfl, rfl, by decide +kernel, by decide +kernel, by decide +kernel, rfl⟩,
    ⟨cmdOf passHdr, counted, counter0, by decide +kernel, by decide +kernel, rfl, by decide +kernel, by decide +kernel⟩⟩

/-- An empty row. -/
def emptyRow : RowPart := ⟨f32NegInf, 0, 0, 0, 0, 0, 0, 0, 0, []⟩

/-- A row with a maximum. -/
def someRow : RowPart := ⟨0, f32One, 0, 0, 0, 0, 0, 0, 1, []⟩

/-- The hypotheses of DevStatusFields, FullLogDropsItsOldest, AllocationTakesAFreeFrame and EmptyRowsMergeToNothing can be met. -/
theorem witness_shared_operations :
    (∃ s : State, s.pw.fwState < 16)
    ∧ (∃ i : Instr, ∃ s t, s.pw.fatal = true ∧ exec i s = .next t ∧ t.pw.fatal = false)
    ∧ (∃ s : State, s.log.events.length < logRoom)
    ∧ (∃ s : State, logRoom ≤ s.log.events.length)
    ∧ (∃ pc v st use s f t g a b, pc < 256 ∧ pcHasFree s pc = true ∧ allocIn pc v st use s = (f, t) ∧ g ≠ f
      ∧ (frameBase f ≤ a ∧ a < frameBase f + frameBytes) ∧ (b < frameBase f ∨ frameBase f + frameBytes ≤ b))
    ∧ (∃ s, live s = true)
    ∧ (∃ a b : RowPart, isEmptyRow a = true ∧ F32.isFin b.m = true) ∧ (∃ a b : RowPart, F32.isFin a.m = true ∧ isEmptyRow b = true)
    ∧ (∃ x, F32.isFin x = true) :=
  ⟨⟨up, by decide +kernel⟩,
    ⟨Instr.powerOn, fatalState, deviceReset causePowerOn { fatalState with pw := { fatalState.pw with causeLatched := false, wpHigh := false } }, rfl, rfl, by decide +kernel⟩,
    ⟨up, by decide +kernel⟩,
    ⟨{ up with log := { up.log with events := List.replicate logRoom ⟨0, 0, 0, 0, 0, 0, 0, []⟩ } }, Nat.le_of_eq (List.length_replicate).symm⟩,
    ⟨255, 0, .open_, .data, up, (allocIn 255 0 .open_ .data up).1, (allocIn 255 0 .open_ .data up).2,
      (allocIn 255 0 .open_ .data up).1 + 1, frameBase (allocIn 255 0 .open_ .data up).1,
      frameBase (allocIn 255 0 .open_ .data up).1 + frameBytes, by decide +kernel, by decide +kernel, rfl, Nat.succ_ne_self _,
      ⟨Nat.le_refl _, Nat.lt_add_of_pos_right (by decide)⟩, .inr (Nat.le_refl _)⟩,
    ⟨up, rfl⟩,
    ⟨emptyRow, someRow, by decide +kernel, by decide +kernel⟩, ⟨someRow, emptyRow, by decide +kernel, by decide +kernel⟩, ⟨f32One, by decide +kernel⟩⟩


/-- A message of 4,097 bytes leaves as two packets. -/
theorem two_packets : packetsOf head0 0 false (zeros 4097)
    = [⟨some head0, zeros 4096, false, 0, 0, false⟩, ⟨none, zeros 1, true, 0, 1, false⟩] := by
  have e : chunks 4096 (zeros 4097) = [zeros 4096, zeros 1] := by
    have h0 : ∀ k, chunksFuel (k + 1) 4096 (zeros 1) = [zeros 1] := by intro k; cases k <;> rfl
    have h1 : chunksFuel (4096 + 1) 4096 (zeros 4097) = (zeros 4097).take 4096 :: chunksFuel (4095 + 1) 4096 ((zeros 4097).drop 4096) := rfl
    rw [chunks, show (zeros 4097).length = 4096 + 1 from List.length_replicate, h1]
    simp only [zeros, List.take_replicate, List.drop_replicate] at h0 ⊢
    rw [h0]; rfl
  rw [packetsOf, e]
  rfl

/-- The head of a frame to node 2. -/
def frameHead0 : FrameHead := ⟨0, 0, none, zeros 16, ipAddress 0 2, 0, 0, 0, 4791⟩

/-- The hypotheses of StatusReplyWords on packets, messages and registers can be met, with values at the ends of their ranges. -/
theorem witness_words :
    (∃ h : MsgHead, h.rsv = false)
    ∧ (∃ p : DataPkt, p.bth.malformed = false ∧ (p.head.isSome = true ↔ p.bth.pktIndex = 0) ∧ (∀ h, p.head = some h → h.rsv = false)
      ∧ p.payload.length < 2 ^ 16)
    ∧ (∃ p : AckPkt, p.bth.malformed = false ∧ p.bth.psn = 0 ∧ p.bth.msn = 0 ∧ p.blocks.length < 16 ∧ p.rsv = false)
    ∧ (∃ p : HelloPayload, p.rsv = false) ∧ (∃ p : HeartbeatPayload, p.rsv = false ∧ p.malformed = false)
    ∧ (∃ h : CmdHeader, h.rsv = []) ∧ (∃ value, value < 2 ^ 64) ∧ (∃ value, value < 2 ^ 64 ∧ value < 2 ^ 48)
    ∧ (∃ icv : List Byte, icv.length = 16)
    ∧ (∃ h : FrameHead, ∃ pfx dst, h.srcIp.length = 16 ∧ h.dstIp = ipAddress pfx dst)
    ∧ (∃ h msn tw payload, ∃ k : Nat, ∃ d : TxData, (packetsOf h msn tw payload)[k]? = some d ∧ d.last = false)
    ∧ (∃ s, ∃ m : BitVec 4, (mbAt s m).full = false) ∧ (∃ s, ∃ m : BitVec 4, (mbAt s m).full = true)
    ∧ (∃ m : BitVec 4, fromHost m = false) ∧ (∃ offset, (offset < 0x2000 ∨ 0x2400 ≤ offset) ∧ offset ≠ 0x400050)
    ∧ (∃ i, 0x10 ≤ i ∧ i < 0x30) :=
  ⟨⟨head0, rfl⟩, ⟨{ data0 with head := some head0 }, rfl, by decide +kernel, (by intro h e; cases e; rfl), by decide +kernel⟩,
    ⟨{ ack0 with bth := { ack0.bth with psn := 0, msn := 0 } }, rfl, rfl, rfl, by decide +kernel, rfl⟩,
    ⟨⟨0, 0, 0, 0, 0, 0, 0, 0, false⟩, rfl⟩, ⟨⟨0, 0, 0, 0, 0, false, false, 0, false, false⟩, rfl, rfl⟩, ⟨hdrOf 0, rfl⟩,
    ⟨2 ^ 64 - 1, by decide⟩, ⟨2 ^ 48 - 1, by decide, by decide⟩, ⟨zeros 16, rfl⟩, ⟨frameHead0, 0, 2, rfl, rfl⟩,
    ⟨head0, 0, false, zeros 4097, 0, ⟨some head0, zeros 4096, false, 0, 0, false⟩, by rw [two_packets]; rfl, rfl⟩,
    ⟨up, 15, by decide +kernel⟩, ⟨mailFull, 8, by decide +kernel⟩, ⟨15, by decide +kernel⟩, ⟨0x2400, by decide +kernel⟩,
    ⟨0x2F, by decide, by decide⟩⟩

/-- A row changes something where what it answers differs there. -/
theorem changes {α : Type} [DecidableEq α] (f : State → α) (i : Instr) (s : State) (hr : i.resets = false)
    (h : (match exec i s with | .next t => decide (f t ≠ f s) | _ => false) = true) :
    ∃ i : Instr, ∃ s t, exec i s = .next t ∧ i.resets = false ∧ f t ≠ f s := by
  cases e : exec i s with
  | next t => rw [e] at h; exact ⟨i, s, t, e, hr, of_decide_eq_true h⟩
  | fault x => rw [e] at h; cases h
  | refused x => rw [e] at h; cases h

/-- The hypotheses of each clause of ModesChangeOnlyByTheirRows can be met. -/
theorem witness_mode_changes :
    (∃ i : Instr, ∃ s t, exec i s = .next t ∧ i.resets = false ∧ t.knobs ≠ s.knobs)
    ∧ (∃ i : Instr, ∃ s t, exec i s = .next t ∧ i.resets = false ∧ t.configured ≠ s.configured)
    ∧ (∃ i : Instr, ∃ s t, exec i s = .next t ∧ i.resets = false ∧ t.mgmt.tenancy ≠ s.mgmt.tenancy)
    ∧ (∃ i : Instr, ∃ s t, exec i s = .next t ∧ i.resets = false ∧ t.mgmt.debugLockOpen ≠ s.mgmt.debugLockOpen)
    ∧ (∃ i : Instr, ∃ s t, exec i s = .next t ∧ i.resets = false ∧ t.mgmt.tenantAnchor ≠ s.mgmt.tenantAnchor)
    ∧ (∃ i : Instr, ∃ s t, exec i s = .next t ∧ i.resets = false ∧ t.mgmt.operatorAnchor ≠ s.mgmt.operatorAnchor)
    ∧ (∃ i : Instr, ∃ s t, exec i s = .next t ∧ i.resets = false ∧ t.mgmt.anchorLock ≠ s.mgmt.anchorLock)
    ∧ (∃ i : Instr, ∃ s t, exec i s = .next t ∧ i.resets = false ∧ t.pw.fwState ≠ s.pw.fwState)
    ∧ (∃ i : Instr, ∃ s t, exec i s = .next t ∧ i.resets = false ∧ t.pw.fatal ≠ s.pw.fatal)
    ∧ (∃ i : Instr, ∃ s t, exec i s = .next t ∧ i.resets = false ∧ t.mgmt.meas ≠ s.mgmt.meas) :=
  ⟨changes State.knobs (.cfgProfile (cmd 8) ⟨2, 0, []⟩) (takes 8 { up with knobs := { Knobs.default with checkCoverage := 0 } }) rfl
      (by decide +kernel),
    changes State.configured (.cfgImage (cmd 64) ⟨1, 0, 0, 0, [], []⟩) (takes 64 up) rfl (by decide +kernel),
    changes (fun s => s.mgmt.tenancy) (.tenancyOpen mreq (zeros 32)) (managed roleOperator) rfl (by decide +kernel),
    changes (fun s => s.mgmt.debugLockOpen) (.debugLock mreq true) (managed roleOperator) rfl (by decide +kernel),
    changes (fun s => s.mgmt.tenantAnchor) (.setTenantAnchor mreq (List.replicate 32 1)) (managed roleOperator) rfl (by decide +kernel),
    changes (fun s => s.mgmt.operatorAnchor) (.operatorAnchor 0 [1]) up rfl (by decide +kernel),
    changes (fun s => s.mgmt.anchorLock) (.anchorLock 1) up rfl (by decide +kernel),
    changes (fun s => s.pw.fwState) (.begin_ 1) up rfl (by decide +kernel),
    changes (fun s => s.pw.fatal) (.powerUp 0 true []) { State.reset with pw := { Power.reset with fatal := true } } rfl (by decide +kernel),
    changes (fun s => s.mgmt.meas) (.cfgImage (cmd 64) ⟨1, 0, 0, 0, [], []⟩) (takes 64 up) rfl (by decide +kernel)⟩

/-- Among five codes of R392 that are reserved, one is none of the four that the node uses of its own. -/
theorem some_reserved : ∃ op, op ∈ [0x50, 0x51, 0x52, 0x53, 0x54] ∧ peerOpKnown op = false := by
  apply Classical.byContradiction
  intro h
  have g : ∀ op ∈ [0x50, 0x51, 0x52, 0x53, 0x54], peerOpKnown op = true := fun op hm => by
    cases e : peerOpKnown op
    · exact absurd ⟨op, hm, e⟩ h
    · rfl
  have h0 := g 0x50 (by decide)
  have h1 := g 0x51 (by decide)
  have h2 := g 0x52 (by decide)
  have h3 := g 0x53 (by decide)
  have h4 := g 0x54 (by decide)
  simp [peerOpKnown, List.range, List.range.loop] at h0 h1 h2 h3 h4
  omega

/-- A queue pair that has received a PEER message of a code. -/
def gotPeer (op : Byte) : Qp := { qp0 with msgs := [(0, ⟨some { head0 with op := 8 }, [(0, zeros 7 ++ [op])], some 0, none⟩)] }

/-- The hypotheses of the clause of TransportEventsComplete on reserved PEER codes can be met. -/
theorem witness_reserved_peer : ∃ s x y m h, ∃ qpn : BitVec 12, live s = true ∧ qpAt s qpn = some x ∧ x.state = .ready ∧ x.skipAll = y
    ∧ y.due = some (h, m) ∧ hasTurn (updQp qpn (fun _ => y) s) qpn h = true ∧ h.op.toNat = opPeer
    ∧ peerOpKnown (peerOpOf m.payload) = false := by
  obtain ⟨op, hm, hk⟩ := some_reserved
  simp only [List.mem_cons, List.not_mem_nil, or_false] at hm
  have go (b : Byte) (hb : peerOpKnown (peerOpOf (zeros 7 ++ [b])) = false)
      (ht : hasTurn (updQp 1 (fun _ => gotPeer b) (linked (gotPeer b))) 1 { head0 with op := 8 } = true)
      (hd : (gotPeer b).skipAll = gotPeer b ∧ (gotPeer b).due = some ({ head0 with op := 8 },
        ⟨some { head0 with op := 8 }, [(0, zeros 7 ++ [b])], some 0, none⟩) ∧ RxMsg.payload ⟨some { head0 with op := 8 }, [(0, zeros 7 ++ [b])], some 0, none⟩ = zeros 7 ++ [b]) :
      ∃ s x y m h, ∃ qpn : BitVec 12, live s = true ∧ qpAt s qpn = some x ∧ x.state = .ready ∧ x.skipAll = y
        ∧ y.due = some (h, m) ∧ hasTurn (updQp qpn (fun _ => y) s) qpn h = true ∧ h.op.toNat = opPeer
        ∧ peerOpKnown (peerOpOf m.payload) = false :=
    ⟨linked (gotPeer b), gotPeer b, gotPeer b, _, _, 1, rfl, rfl, rfl, hd.1, hd.2.1, ht, rfl, by rw [hd.2.2]; exact hb⟩
  rcases hm with rfl | rfl | rfl | rfl | rfl
  · exact go 0x50 hk (by decide +kernel) (by decide +kernel)
  · exact go 0x51 hk (by decide +kernel) (by decide +kernel)
  · exact go 0x52 hk (by decide +kernel) (by decide +kernel)
  · exact go 0x53 hk (by decide +kernel) (by decide +kernel)
  · exact go 0x54 hk (by decide +kernel) (by decide +kernel)

/-! ## Ill-formed commands -/

theorem test_wf_header : Instr.wf (.cfgRead ⟨.host 2, { hdrOf 0 with rsv := [24, 8] }, 0⟩) = false := by decide +kernel
theorem test_wf_item_count : Instr.wf (.cfgImage (cmd 72) ⟨1, 0, 1, 0, [], []⟩) = false := by decide +kernel
theorem test_wf_table_count : Instr.wf (.cfgImage (cmd 64) ⟨1, 0, 0, 1, [], []⟩) = false := by decide +kernel
theorem test_wf_profile_count : Instr.wf (.cfgProfile (cmd 16) ⟨0, 1, []⟩) = false := by decide +kernel
theorem test_wf_member_count : Instr.wf (.nodeMap (cmd 12) ⟨1, 2, [⟨1, 0⟩]⟩ []) = false := by decide +kernel
theorem test_wf_child_count : Instr.wf (.barrierCreate (cmd 40) ⟨0, 2, 1, 0, true, ⟨0, 0, 0⟩, []⟩) = false := by decide +kernel
theorem test_wf_frame_index : Instr.wf (.quarantineEnd 56661) = false := by decide +kernel
theorem test_wf_page_record : Instr.wf (.packPage ⟨56661, 0, 0, 0⟩) = false := by decide +kernel
theorem test_wf_page_layer : Instr.wf (.packPage ⟨0, 65536, 0, 0⟩) = false := by decide +kernel
theorem test_wf_page_head : Instr.wf (.packPage ⟨0, 0, 256, 0⟩) = false := by decide +kernel
theorem test_wf_page_index : Instr.wf (.packPage ⟨0, 0, 0, 65536⟩) = false := by decide +kernel
theorem test_wf_channel : Instr.wf (.ftlReclaim ⟨16, 0, 0⟩) = false := by decide +kernel
theorem test_wf_target : Instr.wf (.ftlReclaim ⟨0, 8, 0⟩) = false := by decide +kernel
theorem test_wf_packet_length : Instr.wf (.data { data0 with payload := zeros 4097 }) = false := by decide +kernel
theorem test_wf_packet_head : Instr.wf (.data { data0 with head := none }) = false := by decide +kernel
theorem test_wf_codeword : Instr.wf (.rnFill 0 rnk { calm with hbm := [⟨2 ^ 34, []⟩] }) = false := by decide +kernel
theorem test_wf_symbol : Instr.wf (.rnFill 0 rnk { calm with hbm := [⟨0, [(36, 1)]⟩] }) = false := by decide +kernel
theorem test_wf_symbol_zero : Instr.wf (.rnFill 0 rnk { calm with hbm := [⟨0, [(0, 0)]⟩] }) = false := by decide +kernel
theorem test_wf_dir_upset : Instr.wf (.dirScrub { calm with dir := [⟨16, 0, 0, 0, false⟩] }) = false := by decide +kernel
theorem test_wf_shadow_upset : Instr.wf (.dirScrub { calm with shadowUe := [(0, 4096)] }) = false := by decide +kernel
theorem test_wf_link_upset : Instr.wf (.rnFill 0 rnk { calm with linkFixes := [8] }) = false := by decide +kernel
theorem test_wf_register_upset : Instr.wf (.rnFill 0 rnk { calm with regs := [⟨0, 0, 2, false⟩] }) = false := by decide +kernel
theorem test_wf_tile : Instr.wf (.kvMaskTile (cmd 2080) 5 0 0 0 (zeros 2047)) = false := by decide +kernel
theorem test_wf_port : Instr.wf (.portLinkUp 17) = false := by decide +kernel
theorem test_wf_agreement_key : Instr.wf (.keyAgree1 0 2 false 0 (zeros 1183) (zeros 32) ⟨[], [], 0, [], 0, 0, 0, 0, [], []⟩) = false := by
  decide +kernel
theorem test_wf_cipher_text : Instr.wf (.keyAgree2 0 2 false (zeros 1087) (zeros 32) ⟨[], [], 0, [], 0, 0, 0, 0, [], []⟩) = false := by
  decide +kernel
theorem test_wf_digest : Instr.wf (.setTenantAnchor mreq (zeros 31)) = false := by decide +kernel
theorem test_wf_anchor_range : Instr.wf (.operatorAnchor 31 (zeros 2)) = false := by decide +kernel
theorem test_wf_read_length : Instr.wf (.apertureRead 0 0 calm) = false := by decide +kernel
theorem test_wf_write_length : Instr.wf (.apertureWrite 0 [] calm) = false := by decide +kernel
theorem test_wf_temperatures : Instr.wf (.nodeTempRead [] true) = false := by decide +kernel
theorem test_wf_window : Instr.wf (.firmwareLoadWindow 0 []) = false := by decide +kernel
theorem test_wf_lane : Instr.wf (.eyeScan 20 0 0) = false := by decide +kernel
theorem test_wf_message_length : Instr.wf (.append msg (List.replicate (2 ^ 20 + 1) 0) calm) = false := by
  rw [Instr.wf, List.length_replicate]; decide +kernel

/-! ## The worked examples of the manual -/

/-- FRAME_ID 0x719C40 and the key row of slot 64: row 22,502 of BG 0 on stack 3, pseudo-channel 17 (the example after R137). -/
theorem test_frame_rows : rowAddr 3 17 0 0 0 22502 = frameBase 0x719C40 + 0x2000 := by decide +kernel

/-- KEY_SCALE of that frame: row 22,508 of BG 1, codeword 8. -/
theorem test_frame_annex_row : rowAddr 3 17 0 1 0 22508 + 256 = frameBase 0x719C40 + 34048 := by decide +kernel

/-- The annex of head dimension 160 in FP4-E2M1 (the example after R62). -/
theorem test_annex_map : annexMap 7 160 = ⟨0x100, 0x380, 0x6C0, 0x860, 0xA00, 0xC80, 0xF00⟩ := by decide +kernel

/-- Its last page of a span of 65,536 tokens has 52. -/
theorem test_last_page : (Geometry.mk 16 1 1 3 7 0 false 0 false).pageCap 321 = 52 := by decide +kernel

/-- A key row with 3.0, -0.05 and 0.001 (the example after R114). -/
def row3 : List F32 := (List.range 64).map (fun i => if i = 5 then 0x40400000 else if i = 9 then 0xBD4CCCCD else if i = 40 then 0x3A83126F else 0)

theorem test_store_row : (storeRow 3 row3).map (fun r => (r.scale, r.bytes[5]?, r.bytes[9]?, r.bytes[40]?, r.deq[5]?))
    = some (0x3BDC, some 0x7E, some 0xCF, some 0x22, some 0x40408000) := by decide +kernel

/-- The buckets of five descriptors (the example after R186). -/
theorem test_buckets : [700, 3000, 3900, 40000, 70000].map bucketOf = [0, 2, 2, 6, 7] := by decide +kernel

/-- A history whose largest value is 44.9 (the example after R205). -/
theorem test_exponent : exponentFor 0x4233999A = -9 := by decide +kernel

/-- A counter near its end, and what two waiters and two signals see (the example of the synchronisation chapter). -/
def counter300 : SyncObj := { counter0 with value := 0xFFFFFFFFFFFFFFFD }

theorem test_wait_near : waitHolds counter300 2 = false := by decide +kernel
theorem test_wait_passed : waitHolds counter300 0xFFFFFFFFFFFFFFF0 = true := by decide +kernel

/-- A waiter for 2. -/
def waiting2 : State := { hasObj counter300 with sync := { (hasObj counter300).sync with waiters := [{ waiter0 with value := 2 }] } }

theorem test_signal_wraps : (match exec (.signal msg 0 4 0 false) (enters 7 (syncBytes 1 0 0 4 0) waiting2) with
    | .next t => ((objAt t 0).map SyncObj.value, t.sync.waiters.length)
    | _ => (none, 0)) = (some 1, 1) := by decide +kernel

theorem test_signal_releases : (match exec (.signal msg 0 5 0 false) (enters 7 (syncBytes 1 0 0 5 0) waiting2) with
    | .next t => ((objAt t 0).map SyncObj.value, t.sync.waiters.length)
    | _ => (none, 1)) = (some 2, 0) := by decide +kernel

/-- An event that is SET already counts an overrun. -/
theorem test_event_overrun : (match exec (.signal msg 0 1 0 false) (enters 7 (syncBytes 1 0 0 1 0) (hasObj (event0 1))) with
    | .next t => (objAt t 0).map (fun o => (o.value, o.overruns))
    | _ => none) = some (1, 1) := by decide +kernel

/-- CRC-32C of the digits 1 to 9, and SHA-256 of abc: the published check values of the two functions that the manual names. -/
theorem test_crc32c : crc32c (ascii ['1', '2', '3', '4', '5', '6', '7', '8', '9']) = 0xE3069283 := by decide +kernel

theorem test_sha256 : (sha256 (ascii ['a', 'b', 'c'])).take 8 = [0xBA, 0x78, 0x16, 0xBF, 0x8F, 0x01, 0xCF, 0xEA] := by decide +kernel

/-! ## Small steps -/

/-- A word for core 3 waits. -/
def mail3 : State := { up with host := { up.host with mailboxes := [(3, { Mailbox.reset with word := 4, full := true })] } }

/-- A word that arrives at a full mailbox sets OVERRUN and is not kept (R479–R481). -/
theorem test_mailbox_overrun : (match exec (.mbData 3 9) mail3 with
    | .next t => ((mbAt t 3).word, (mbAt t 3).overrun)
    | _ => (0, false)) = (4, true) := by decide +kernel

/-- POWER_ON leaves a node that is down. -/
theorem test_power_on : (match exec .powerOn paged with
    | .next t => (t.pw.up, t.spans.length, t.frames.length)
    | _ => (true, 1, 1)) = (false, 0, 0) := by decide +kernel

/-- A step runs the command in front. -/
theorem test_queue_front : step { up with pending := [.syncSel 7] } = exec (.syncSel 7) up := by rfl


/-- RN_SCORE of pseudo-channel 17 under tag 7, its fields at the places of R148. -/
theorem test_runner_word : rnWordOf 3 { rnk with pc := 17 } = BitVec.ofNat 128 (3 * 2 ^ 124 + 17 * 2 ^ 119 + 7 * 2 ^ 34) := by decide +kernel

/-- A base transport header in network byte order (R339): version 1 and type DATA lead, and the last byte is PKT_INDEX. -/
theorem test_packet_bytes : (bthBytes { bth0 with pktIndex := 9 } pktData 5).take 4 = [0x11, 0x80, 0x00, 0x05]
    ∧ (bthBytes { bth0 with pktIndex := 9 } pktData 5)[19]? = some 9 := by decide +kernel

/-- A PEER message with a reserved field set is answered ST_BAD_PARAM and installs nothing (R10). -/
theorem test_peer_reserved : (match exec (.homeUpdate phBad) up with
    | .next t => t.seqs.length
    | _ => 1) = 0 := by decide +kernel

/-- MB_TAKE of a mailbox that the node posts to returns the word and clears it; a write-only field reads as zero (R11, R479). -/
theorem test_mailbox_reads : (barRead mailFull 0x2208, mbAt (afterBarRead mailFull 0x2208) 8, barRead mailFull 0x100000)
    = (0, { Mailbox.reset with word := 0, full := false, empty := Mailbox.reset.empty }, 0) := by decide +kernel

end Sys2Proof.Tests
end

/-! # Mailboxes and register writes: what each row does on a node that serves it, and the statement O30 -/

namespace Sys2Proof.Machine

section
variable {m : BitVec 4} {w value : BitVec 64} {r : Reg} {s : State}

/-! ## The rows run their meanings -/

theorem exec_mbData : exec (.mbData m w) s = execMbData m w s := rfl

theorem exec_mbTake : exec (.mbTake m) s = execMbTake m s := rfl

theorem exec_mbReset : exec (.mbReset m) s = execMbReset m s := rfl

theorem exec_registerWrite : exec (.registerWrite r value) s = execRegisterWrite r value s := rfl

/-! ## Mailboxes (R479–R481) -/

/-- MB_DATA posts in a mailbox of the host and leaves the others. -/
theorem execMbData_live (h : live s = true) : execMbData m w s = .next (if fromHost m then postMail m w s else s) :=
  onNode_live h

/-- MB_TAKE of a full mailbox of the node answers its word and takes it. -/
theorem execMbTake_full (h : live s = true) (node : fromHost m = false) (full : (mbAt s m).full = true) :
    execMbTake m s = .next (takeMail m (emit (.regRead (mbAt s m).word) s)) := by
  rw [execMbTake, onNode_live h]
  simp [node, full]

/-- MB_RESET empties a mailbox of the node, whether or not it holds a word. -/
theorem execMbReset_node (h : live s = true) (node : fromHost m = false) : execMbReset m s = .next (resetMail m s) := by
  rw [execMbReset, onNode_live h]
  simp [node]

/-! ## Registers (R11) -/

/-- The I3C alert is write-one-to-clear wherever the I3C target answers, on a live node or not (R531). -/
theorem execRegisterWrite_i3cAlert (h : i3cAnswers s = true) : execRegisterWrite .i3cAlert value s
    = .next { s with mgmt := { s.mgmt with alert := s.mgmt.alert &&& ~~~(value.truncate 8) } } := by
  rw [execRegisterWrite, if_pos h]

end

/-- Settles O30: the mailbox rows by their equations above; of the registers, those of the node's function are written through `onNode`, the I3C alert
under its own condition, and the read-only and unmapped addresses under none. -/
theorem mailboxAndRegisterWrites : Obligations.MailboxAndRegisterWrites := by
  refine ⟨?mbData, ?mbTake, ?mbReset, ?devError, ?i3cAlert, ?plain, ?readOnly, ?unmapped⟩
  case mbData => exact fun _ _ _ hl => exec_mbData.trans (execMbData_live hl)
  case mbTake => exact fun _ _ hl node full => exec_mbTake.trans (execMbTake_full hl node full)
  case mbReset => exact fun _ _ hl node => exec_mbReset.trans (execMbReset_node hl node)
  case devError =>
    intro value s hl
    rw [exec_registerWrite, execRegisterWrite, onNode_live hl]
  case i3cAlert => exact fun _ _ answers => exec_registerWrite.trans (execRegisterWrite_i3cAlert answers)
  case plain =>
    intro value s hl
    refine ⟨?apertureWindow, ?syncSetValue, fun ring blk => ?adminBlock, fun m => ?mbStatus, fun v on => ?msixEntry⟩ <;>
      rw [exec_registerWrite, execRegisterWrite, onNode_live hl]
  case readOnly => exact fun _ _ _ => exec_registerWrite
  case unmapped => exact fun _ _ _ => exec_registerWrite

end Sys2Proof.Machine

/-! # Frames, sequences and spans: allocation, placement, closing and moves, and the drains and patrol scrub that bring frames back;
the statements O57, O46, O2 and O10 -/

namespace Sys2Proof.Machine

section
variable {s : State} {f : FrameId}

/-! ## Frame numbers and addresses (R50, R51) -/

theorem framePc_mkFrame {pc ix : Nat} (h : ix < 65536) : framePc (mkFrame pc ix) = pc := by
  simp only [framePc, mkFrame]; omega

theorem frameIx_mkFrame {pc ix : Nat} (h : ix < 65536) : frameIx (mkFrame pc ix) = ix := by
  simp only [frameIx, mkFrame]; omega

/-- Every address of a frame has the frame's base. -/
theorem frameBaseOf_of_mem {a : Nat} (hix : frameIx f < framesPerPc) (h₁ : frameBase f ≤ a) (h₂ : a < frameBase f + frameBytes) :
    frameBaseOf a = some (frameBase f) := by
  have hbase : frameBase f = framePc f * pcBytes + frameIx f * frameBytes := by
    simp only [frameBase, pcBytes]; omega
  have hoffset : a % pcBytes = frameIx f * frameBytes + (a - frameBase f) := by
    simp only [framesPerPc, pcBytes, frameBytes] at *; omega
  have hin : a % pcBytes < framesPerPc * frameBytes := by
    simp only [framesPerPc, pcBytes, frameBytes] at *; omega
  have hrow : a % pcBytes % frameBytes = a - frameBase f := by
    simp only [frameBytes] at *; omega
  rw [frameBaseOf, if_pos hin, hrow, Nat.sub_sub_self h₁]

/-! ## Clearing a frame (R146) -/

/-- A byte of the frame that RN_FILL clears reads zero. -/
theorem byte_clearFrame_inside {m : Memory} {a : Nat} (hix : frameIx f < framesPerPc) (h₁ : frameBase f ≤ a)
    (h₂ : a < frameBase f + frameBytes) : (m.clearFrame (frameBase f)).byte a = some 0 := by
  have hcell : Tbl.at? (m.clearFrame (frameBase f)).cells a = none := by
    refine (Tbl.at?_filter m.cells a (fun k => decide (k < frameBase f) || decide (frameBase f + frameBytes ≤ k))).trans (if_neg ?_)
    simp [h₁, h₂]
  have hun : (m.clearFrame (frameBase f)).unlisted a = some 0 := by
    simp [Memory.unlisted, frameBaseOf_of_mem hix h₁ h₂, Memory.clearFrame, mem_insertRising]
  simp only [Memory.byte, hcell, hun]

/-- A byte outside the frame that RN_FILL clears reads as before. -/
theorem byte_clearFrame_outside {m : Memory} {base a : Nat} (h : a < base ∨ base + frameBytes ≤ a) :
    (m.clearFrame base).byte a = m.byte a := by
  have hcell : Tbl.at? (m.clearFrame base).cells a = Tbl.at? m.cells a := by
    refine (Tbl.at?_filter m.cells a (fun k => decide (k < base) || decide (base + frameBytes ≤ k))).trans (if_pos ?_)
    simpa using h
  have hun : (m.clearFrame base).unlisted a = m.unlisted a := by
    simp only [Memory.unlisted]
    cases hb : frameBaseOf a with
    | none => rfl
    | some b =>
      have hne : b ≠ base := by have := frameBaseOf_range hb; omega
      simp [Memory.clearFrame, mem_insertRising, hne]
  simp only [Memory.byte, hcell, hun]

/-! ## The choice of a FREE frame (R52) -/

/-- The search ends at an index that is not busy where one of those it looks at is not. -/
theorem freeIndexFrom_notMem {busy : List Nat} {fuel start i : Nat} (hi : i < fuel) (h : (start + i) % framesPerPc ∉ busy) :
    freeIndexFrom busy start fuel ∉ busy := by
  induction fuel generalizing start i with
  | zero => omega
  | succ k ih =>
    unfold freeIndexFrom
    split
    next hmem =>
      cases i with
      | zero => exact absurd hmem h
      | succ j => exact ih (Nat.lt_of_succ_lt_succ hi) (by rwa [Nat.add_assoc, Nat.add_comm 1 j])
    next hmem => exact hmem

theorem freeIndexFrom_lt (busy : List Nat) (start fuel : Nat) : freeIndexFrom busy start fuel < framesPerPc := by
  induction fuel generalizing start with
  | zero => exact Nat.mod_lt _ (by decide)
  | succ k ih =>
    unfold freeIndexFrom
    split
    · exact ih _
    · exact Nat.mod_lt _ (by decide)

/-- Two indices that lie less than one round apart are different. -/
theorem cyclicIndex_ne {start i j : Nat} (hij : i < j) (hj : j < framesPerPc) : (start + i) % framesPerPc ≠ (start + j) % framesPerPc := by
  simp only [framesPerPc] at *; omega

/-- With fewer busy indices than frames, some index among one more than the busy ones is not busy: they are distinct. -/
theorem exists_index_notMem {busy : List Nat} (start : Nat) (h : busy.length < framesPerPc) :
    ∃ i, i < busy.length + 1 ∧ (start + i) % framesPerPc ∉ busy := by
  apply Classical.byContradiction
  intro hnone
  have hall : ∀ i, i < busy.length + 1 → (start + i) % framesPerPc ∈ busy :=
    fun i hi => Classical.byContradiction (fun hfree => hnone ⟨i, hi, hfree⟩)
  have hnodup : ((List.range (busy.length + 1)).map (fun i => (start + i) % framesPerPc)).Nodup := by
    refine List.pairwise_map.mpr (List.pairwise_lt_range.imp_of_mem ?_)
    intro i j _ hj hij
    exact cyclicIndex_ne hij (Nat.lt_of_lt_of_le (List.mem_range.mp hj) h)
  have hsub : ((List.range (busy.length + 1)).map (fun i => (start + i) % framesPerPc)) ⊆ busy := by
    intro x hx
    obtain ⟨i, hi, rfl⟩ := List.mem_map.mp hx
    exact hall i (List.mem_range.mp hi)
  have hle := hnodup.length_le_of_subset hsub
  rw [List.length_map, List.length_range] at hle
  exact Nat.not_succ_le_self _ hle

/-- A value read in a table is listed there. -/
theorem Tbl.mem_of_at? {κ α : Type} [DecidableEq κ] {t : Tbl κ α} {k : κ} {v : α} (h : t.at? k = some v) : (k, v) ∈ t := by
  induction t with
  | nil => cases h
  | cons p r ih =>
    unfold Tbl.at? at h
    split at h
    next hk => cases h; subst hk; exact List.mem_cons_self
    next => exact List.mem_cons_of_mem _ (ih h)

/-- A frame whose index is not among the busy ones of its pseudo-channel is FREE. -/
theorem frameOf_state_free (h : frameIx f ∉ busyIn s (framePc f)) : (frameOf s f).state = .free := by
  rw [frameOf, Tbl.atD_eq]
  cases hf : Tbl.at? s.frames f with
  | none => rfl
  | some x =>
    refine Decidable.byContradiction (fun hx => h (List.mem_map.mpr ⟨(f, x), List.mem_filter.mpr ⟨Tbl.mem_of_at? hf, ?_⟩, rfl⟩))
    exact (Bool.and_eq_true _ _).mpr ⟨decide_eq_true rfl, decide_eq_true hx⟩

/-- The frame that an allocation in a pseudo-channel takes. -/
def chosenFrame (pc : Nat) (s : State) : FrameId :=
  mkFrame pc (freeIndexFrom (busyIn s pc) (takeFree s).1 ((busyIn s pc).length + 1))

theorem allocIn_fst {pc : Nat} {v : VId} {st : FrameState} {use : FrameUse} : (allocIn pc v st use s).1 = chosenFrame pc s := rfl

theorem allocIn_mem {pc : Nat} {v : VId} {st : FrameState} {use : FrameUse} :
    (allocIn pc v st use s).2.mem = s.mem.clearFrame (frameBase (chosenFrame pc s)) := rfl

theorem allocIn_frames {pc : Nat} {v : VId} {st : FrameState} {use : FrameUse} : (allocIn pc v st use s).2.frames
    = s.frames.upd (chosenFrame pc s) Frame.reset (fun x =>
        { x with state := st, gen := x.gen + 1, use := use, refs := 1, readers := [], ue := [], vnode := v }) := rfl

theorem chosenFrame_index_lt (pc : Nat) (s : State) :
    freeIndexFrom (busyIn s pc) (takeFree s).1 ((busyIn s pc).length + 1) < framesPerPc := freeIndexFrom_lt ..

theorem framePc_chosenFrame (pc : Nat) (s : State) : framePc (chosenFrame pc s) = pc :=
  framePc_mkFrame (Nat.lt_trans (chosenFrame_index_lt pc s) (by decide))

theorem frameIx_chosenFrame (pc : Nat) (s : State) :
    frameIx (chosenFrame pc s) = freeIndexFrom (busyIn s pc) (takeFree s).1 ((busyIn s pc).length + 1) :=
  frameIx_mkFrame (Nat.lt_trans (chosenFrame_index_lt pc s) (by decide))

theorem frameIx_chosenFrame_lt (pc : Nat) (s : State) : frameIx (chosenFrame pc s) < framesPerPc :=
  frameIx_chosenFrame pc s ▸ chosenFrame_index_lt pc s

/-- Where the pseudo-channel has a FREE frame, the one taken is FREE. -/
theorem chosenFrame_free {pc : Nat} (h : pcHasFree s pc = true) : (frameOf s (chosenFrame pc s)).state = .free := by
  obtain ⟨i, hi, hfree⟩ := exists_index_notMem (takeFree s).1 (of_decide_eq_true h)
  apply frameOf_state_free
  rw [framePc_chosenFrame, frameIx_chosenFrame]
  exact freeIndexFrom_notMem hi hfree

end

/-- An allocation takes a FREE frame, changes no other frame-state entry, and clears the frame's bytes alone (R52, R64, R146). -/
theorem allocationsTakeFreeFrames : Parts.AllocationsTakeFreeFrames := by
  rintro pc v st use s f t - hfree halloc
  obtain rfl : chosenFrame pc s = f := congrArg Prod.fst halloc
  obtain rfl : (allocIn pc v st use s).2 = t := congrArg Prod.snd halloc
  have hentry : frameOf (allocIn pc v st use s).2 (chosenFrame pc s)
      = { frameOf s (chosenFrame pc s) with
          state := st, gen := (frameOf s (chosenFrame pc s)).gen + 1, use := use, refs := 1, readers := [], ue := [], vnode := v } := by
    rw [frameOf, allocIn_frames, Tbl.atD_upd_self]; rfl
  have hother : ∀ g, g ≠ chosenFrame pc s → frameOf (allocIn pc v st use s).2 g = frameOf s g := by
    intro g hg
    rw [frameOf, allocIn_frames, Tbl.atD_upd_ne _ _ _ _ hg.symm]; rfl
  refine ⟨framePc_chosenFrame pc s, chosenFrame_free hfree, ?_, ?_, ?_, ?_, hother, ?_, ?_⟩
  iterate 4 rw [hentry]
  · intro a h₁ h₂
    rw [allocIn_mem, byte_clearFrame_inside (frameIx_chosenFrame_lt pc s) h₁ h₂]
  · intro a h
    rw [allocIn_mem, byte_clearFrame_outside h]

/-! ## Rows whose frame waits for RN_FILL (R146, R167) -/

/-- SPAN_OPEN, SPAN_ALIAS and APPEND are held while their frame cannot be filled. -/
theorem fillsWait : Parts.FillsWait :=
  ⟨fun _ _ _ _ h => if_pos h, fun _ _ _ h => if_pos h, fun _ _ _ _ h => if_pos h⟩

/-- Settles O57: the frame taken is FREE as fewer indices are busy than there are frames, and its update and its clearing touch it alone;
a row that allocates runs through `filling`. -/
theorem allocationTakesAFreeFrame : Obligations.AllocationTakesAFreeFrame := ⟨allocationsTakeFreeFrames, fillsWait⟩

/-! ## Reset -/

/-- The state after reset meets the invariant: no memory, no event and no counter is listed, and the measurement registers are zero. -/
theorem reset_inv : State.reset.Inv := ⟨rfl, Nat.zero_le _, rfl, by decide⟩

/-- Where nothing is written and no frame is cleared, no byte has content. -/
theorem byte_empty (a : Nat) : (Memory.mk [] []).byte a = none := by
  simp only [Memory.byte, Tbl.at?, Memory.unlisted, List.not_mem_nil, if_false]
  cases frameBaseOf a <;> rfl

/-- Settles O46: every table of the reset state is empty, so that each lookup gives its default. -/
theorem resetHoldsTheInvariant : Obligations.ResetHoldsTheInvariant :=
  ⟨reset_inv, rfl, rfl, by decide, fun _ _ => rfl, fun _ => rfl, fun _ => rfl, fun _ _ => rfl, rfl, byte_empty⟩

section
variable {s b w u z t s1 : State} {c : Cmd} {h : PeerHdr} {f : FrameId} {v : VId} {handle : Handle} {q : SeqRec}

/-! ## Opening and placing spans (R43–R47, R105, R452) -/

/-- SPAN_OPEN of a handle that has no record here enters one in a new map frame and asks for its first span. -/
theorem spanOpenRow_opens {p : SpanOpenBlk} {prefer : List NodeId} {r : Reply} (hs : Serves c 32 s b w)
    (hf : fieldsPass (spanOpenFails p) = true) (hfind : findHome c p.handle w = (.stop r, t)) (hr : r.status = stMiss)
    (hframe : newMapFrame (vnodeOf w c) .map t = some (f, s1))
    (hins : insertRefusal s1 (dirEntry (vnodeOf w c) p.handle 0 kSeq 0 f) = none) :
    spanOpenRow c p prefer s = .next (assignNext (vnodeOf w c) p.handle f prefer (.open_ c)
      (acceptInsert (dirEntry (vnodeOf w c) p.handle 0 kSeq 0 f) { s1 with
        seqs := s1.seqs.put f ⟨vnodeOf w c, p.handle, openGeometry (knobsOf w c) p, [], 0, false, [], false, none, false, false⟩ })) := by
  rw [spanOpenRow, runVerb_pass hs hf]
  -- a variable in place of the refusal: the kernel would otherwise run the hash of the bank pair to compare the branches on it
  obtain ⟨refusal, hrefusal⟩ : ∃ g, g = insertRefusal := ⟨_, rfl⟩
  rw [← hrefusal] at hins ⊢
  simp only [hfind, hr, ne_eq, not_true_eq_false, if_false, hframe, hins, finish_later]

/-- A request for a span that is not here creates it and confirms. -/
theorem execSpanCreateRequest_creates {geo : Geometry} {smooth : List (Nat × Nat × List (BitVec 32))} {highest : Bool}
    (m : Met h .other s) (ha : AllFill s) (hnone : ownSpan (takePeer h.sender s) h.vnode h.handle h.span.toNat false = none) :
    execSpanCreateRequest h geo smooth highest false s = .next (
      let r := createSpan h.vnode h.handle h.span.toNat geo smooth highest (takePeer h.sender s)
      ackPeer h r.1 0 r.2) := by
  rw [execSpanCreateRequest, onPeer_met m, whenFills_of (allFill_takePeer ha)]
  simp [hnone]

/-- A member that has not confirmed in time counts as one that has refused. -/
theorem execSpanCreateTimeout_sent {tag : BitVec 32} {x : PeerSent} {geo : Geometry} {sm : List (Nat × Nat × List (BitVec 32))}
    {hi : Bool} {j : Nat} (hl : live s = true) (hx : s.peerSent.at? tag = some x) (hb : x.msg.body = .spanCreate geo sm hi)
    (hj : x.job = some j) :
    execSpanCreateTimeout tag s = .next (wake (assignAnswer j false { s with peerSent := s.peerSent.del tag })) := by
  rw [execSpanCreateTimeout, onNode_live hl]
  simp only [hx, hb, hj]

/-- A fill report at the home of an idle sequence is answered by the state of the record: a closing one has no span for it, the span that is
next is assigned, and of others it is told whether they are assigned. -/
theorem execSpanFillReport_home {prefer : List NodeId} (m : Met h .other s) (ha : AllFill s)
    (hhome : homeSeq (takePeer h.sender s) h.vnode h.handle = some f) (hq : (takePeer h.sender s).seqs.at? f = some q)
    (hidle : seqBusy (takePeer h.sender s) h.vnode h.handle = false) :
    execSpanFillReport h prefer s = .next (wake (
      if q.closing then ackPeer h stMiss 0 (takePeer h.sender s)
      else if q.nextSpan ≠ h.span.toNat + 1 then
        ackPeer h (if h.span.toNat + 1 < q.nextSpan then stOk else stMiss) 0 (takePeer h.sender s)
      else assignNext h.vnode h.handle f prefer (.report h) (takePeer h.sender s))) := by
  refine waking_of m.1 ?_
  rw [fillReportRow, onPeer_met m, whenFills_of (allFill_takePeer ha)]
  simp only [hhome, Option.bind_some, hq, Option.map_some, hidle, Bool.false_eq_true, if_false]

/-- SPAN_LOCATE at the home of an idle, open sequence assigns the span that it asks for next, or answers the places known. -/
theorem spanLocateRow_found {t : Target} {prefer : List NodeId} (hs : Serves c 32 s b w)
    (hf : fieldsPass (targetFails t ⟨true, false, false, false, false⟩) = true) (hroom : 4 * t.spanCount.toNat ≤ resultRoom w c)
    (hfind : findHome c t.handle w = (.found f, u)) (hq : u.seqs.at? f = some q) (hopen : q.closing = false)
    (hidle : seqBusy u (vnodeOf w c) t.handle = false) :
    spanLocateRow c t prefer s = .next (
      if t.spanFirst.toNat ≤ q.nextSpan ∧ q.nextSpan < t.spanFirst.toNat + t.spanCount.toNat then
        assignNext (vnodeOf w c) t.handle f prefer (.locate c t prefer) u
      else finish c b (.now (locateReply q t) u)) := by
  rw [spanLocateRow, runVerb_pass hs hf]
  simp only [Nat.not_lt.mpr hroom, if_false, hfind, hq, hopen, hidle, Bool.false_eq_true]
  split
  · rw [finish_later]
  · rfl

/-! ## Closing (R48, R49) -/

/-- The nodes that a close asks: those that hold a span of the sequence, but this one and the fenced ones. -/
def closeNodes (s : State) (v : VId) (q : SeqRec) : List NodeId :=
  q.places.vals.eraseDups.filter (fun n => n ≠ (vn s v).nodeId && memberState s v n ≠ some .fenced)

/-- SPAN_CLOSE of a sequence that no handoff, exchange or earlier close holds marks its record and begins to close its spans here; where that
is done and no other node holds a span, the close ends. -/
theorem spanCloseRow_found {t : Target} {done : Bool} (hs : Serves c 32 s b w)
    (hf : fieldsPass (targetFails t ⟨false, false, false, false, false⟩) = true)
    (hfind : findHome c t.handle w = (.found f, u)) (hq : u.seqs.at? f = some q)
    (hoff : inHandoff u (vnodeOf w c) t.handle = false) (hidle : seqBusy u (vnodeOf w c) t.handle = false)
    (hjob : closingJob u (vnodeOf w c) t.handle = none)
    (hbegin : beginClose (vnodeOf w c) t.handle none (mirrorSeq f (updSeq f (fun r => { r with closing := true }) u)) = (done, z)) :
    spanCloseRow c t s = .next (
      if (closeNodes u (vnodeOf w c) q).isEmpty && done then finishClose (vnodeOf w c) t.handle [c] z
      else
        let nodes := closeNodes u (vnodeOf w c) q
        let j := addJob (.close (vnodeOf w c) t.handle (nodes ++ if done then [] else [(vn u (vnodeOf w c)).nodeId]) [c]) z
        nodes.foldl (fun s n => sendPeer (vnodeOf w c) n false t.handle 0 .seqClose (some j.1) s) j.2) := by
  rw [spanCloseRow, runVerb_pass hs hf]
  simp only [hfind, hq, hoff, hidle, hjob, hbegin, Bool.false_eq_true, if_false]
  unfold closeNodes
  split
  · rw [finish_later]
  · rw [finish_later]

/-- SEQ_CLOSE of a sequence that no handoff and no earlier close holds here stops its spans and closes them once no append is under way. -/
theorem execSeqClose_met (m : Met h .other s) (hoff : inHandoff (takePeer h.sender s) h.vnode h.handle = false)
    (hfirst : closingHere (takePeer h.sender s) h.vnode h.handle = false) :
    execSeqClose h s = .next (wake (
      if underWay (stopSpans h.vnode h.handle (takePeer h.sender s)) h.vnode h.handle then
        (addJob (.closeHere h.vnode h.handle (some h)) (stopSpans h.vnode h.handle (takePeer h.sender s))).2
      else ackPeer h stOk 0 (closeLocal h.vnode h.handle (stopSpans h.vnode h.handle (takePeer h.sender s))))) := by
  refine waking_of m.1 ?_
  rw [seqCloseRow, onPeer_met m]
  simp only [hoff, hfirst, Bool.false_eq_true, if_false, beginClose]
  split <;> rfl

/-- When its time is over, the oldest command of a close names the first node not yet heard of. -/
theorem execSpanCloseTimeout_oldest {job : Nat} {waiting : List NodeId} {cs : List Cmd} (hl : live s = true)
    (hj : s.jobs.at? job = some (.close v handle waiting (c :: cs))) :
    execSpanCloseTimeout job s
      = .next (complete c ⟨stTimeout, 0, waiting.head?, 0, 0, 0, []⟩ (setJob job (.close v handle waiting cs) s)) := by
  rw [execSpanCloseTimeout, onNode_live hl]
  simp only [hj]

/-! ## The move of a record, and the end of a quarantine (R41, R64, R89, R297) -/

/-- The record that a new home enters. -/
def enteredRecord (rec : SeqImage) (v : VId) (handle : Handle) : SeqRec :=
  ⟨v, handle, rec.geo, rec.places, rec.nextSpan, rec.closing, rec.smooth.map (fun p => ((p.1, p.2.1), p.2.2)), false, none, false, false⟩

/-- A record that arrives at its new home is entered in the map frame taken for it. -/
theorem execSequenceRecordArrival_enters {rec : SeqImage} (m : Met h .other s) (ha : AllFill s)
    (hnone : homeSeq (takePeer h.sender s) h.vnode h.handle = none)
    (hframe : newMapFrame h.vnode .map (takePeer h.sender s) = some (f, s1))
    (hins : insertRefusal s1 (dirEntry h.vnode h.handle 0 kSeq 0 f) = none) :
    ∃ t, execSequenceRecordArrival h rec s = .next (ackPeer h stOk 0 (mirrorSeq f t))
      ∧ t.seqs.at? f = some (enteredRecord rec h.vnode h.handle) := by
  rw [execSequenceRecordArrival, onPeer_met m, whenFills_of (allFill_takePeer ha)]
  -- a variable for the refusal, as in `spanOpenRow_opens`
  obtain ⟨refusal, hrefusal⟩ : ∃ g, g = insertRefusal := ⟨_, rfl⟩
  rw [← hrefusal] at hins ⊢
  simp only [hnone, hframe, hins, Option.isSome_none, Bool.false_eq_true, if_false]
  exact ⟨_, rfl, Tbl.at?_put_self ..⟩

/-- A frame whose quarantine ends is FREE as from reset, or goes on to its repair where a row of it does not read. -/
theorem execQuarantineEnd_quarantined {frame : BitVec 24} (hl : live s = true)
    (hq : (frameOf s frame.toNat).state = .quarantined) : execQuarantineEnd frame s = .next (
      if (frameOf s frame.toNat).ue.isEmpty then
        stopTiers (frameOf s frame.toNat).vnode (updFrame frame.toNat (fun _ => Frame.reset) s)
      else updFrame frame.toNat (fun x => { Frame.reset with state := .draining, ue := x.ue, vnode := x.vnode }) s) := by
  rw [execQuarantineEnd, onNode_live hl]
  exact congrArg _ (if_neg (fun hne => hne hq))

end

/-- Opening, placing and locating spans. -/
theorem spanPlacementCompletes : Parts.SpanPlacementCompletes := by
  refine ⟨?open_, ?createRequest, ?createTimeout, ?fillReport, ?locate⟩
  case open_ =>
    exact fun _ _ _ _ _ _ _ _ _ _ hs ha hf hfind hr hframe hins =>
      filling_of hs.1 ha (spanOpenRow_opens hs hf hfind hr hframe hins)
  case createRequest => exact fun _ _ _ _ _ m ha hnone => execSpanCreateRequest_creates m ha hnone
  case createTimeout => exact fun _ _ _ _ _ _ _ hl hx hb hj => execSpanCreateTimeout_sent hl hx hb hj
  case fillReport =>
    intro h prefer s f r m ha hhome hr hidle
    have hrow := execSpanFillReport_home (prefer := prefer) m ha hhome hr hidle
    refine ⟨fun hopen hnext => hrow.trans ?next, fun hopen hlt => hrow.trans ?assigned, fun hmiss => hrow.trans ?miss⟩
    case next =>
      rw [if_neg (Bool.eq_false_iff.mp hopen), if_neg (not_not_intro hnext)]
    case assigned =>
      rw [if_neg (Bool.eq_false_iff.mp hopen), if_pos (Nat.ne_of_gt hlt), if_pos hlt]
    case miss =>
      rcases hmiss with hclosing | hgt
      · rw [if_pos hclosing]
      · rw [if_pos (Nat.ne_of_lt hgt), if_neg (Nat.lt_asymm hgt), ite_self]
  case locate =>
    intro c t prefer s b w f u q hs ha hf hroom hfind hq hopen hidle
    have hrow := spanLocateRow_found (prefer := prefer) hs hf hroom hfind hq hopen hidle
    exact ⟨fun hnext => filling_of hs.1 ha (hrow.trans (congrArg _ (if_pos hnext))),
      fun hknown => filling_of hs.1 ha (hrow.trans (congrArg _ (if_neg (fun hnext => Nat.not_lt.mpr hknown hnext.2))))⟩

/-- Closing sequences, moving their records, and the end of a quarantine. -/
theorem spanCloseAndMoveComplete : Parts.SpanCloseAndMoveComplete := by
  refine ⟨?closeAlone, ?closeOthers, ?seqClose, ?closeTimeout, ?recordMove, ?recordArrival, ?quarantine⟩
  case closeAlone =>
    intro c t s b w f u q z hs hf hfind hq hoff hidle hjob hbegin hnodes
    refine waking_of hs.1 ((spanCloseRow_found hs hf hfind hq hoff hidle hjob hbegin).trans
      (congrArg _ (if_pos ?_)))
    rw [closeNodes, hnodes]; rfl
  case closeOthers =>
    intro c t s b w f u q done z hs hf hfind hq hoff hidle hjob hbegin hmore
    refine waking_of hs.1 ((spanCloseRow_found hs hf hfind hq hoff hidle hjob hbegin).trans
      (congrArg _ (if_neg (fun hend => ?_))))
    obtain ⟨hempty, hdone⟩ := (Bool.and_eq_true _ _).mp hend
    rcases hmore with hunder | hnodes
    · exact Bool.eq_false_iff.mp hunder hdone
    · exact hnodes (List.isEmpty_iff.mp hempty)
  case seqClose =>
    intro h s m hoff hfirst
    have hrow := execSeqClose_met m hoff hfirst
    exact ⟨fun hended => hrow.trans (by simp [hended]), fun hunder => hrow.trans (by simp [hunder])⟩
  case closeTimeout => exact fun _ _ _ _ _ _ _ hl hj => execSpanCloseTimeout_oldest hl hj
  case recordMove => exact fun _ _ _ hl => onNode_live hl
  case recordArrival => exact fun _ _ _ _ _ m ha hnone hframe hins => execSequenceRecordArrival_enters m ha hnone hframe hins
  case quarantine =>
    intro frame s hl hq
    have hrow := execQuarantineEnd_quarantined hl hq
    exact ⟨fun hreads => hrow.trans (by simp [hreads]), fun hue => hrow.trans (by simp [hue])⟩

/-- Settles O2: each row by the equation of its meaning above, on the branch that the clause's conditions choose. -/
theorem spanRowsComplete : Obligations.SpanRowsComplete := ⟨spanPlacementCompletes, spanCloseAndMoveComplete⟩

section
variable {s : State}

/-! ## Drains and the patrol scrub (R64, R297, R300–R302) -/

/-- A drained frame ends its drain once no earlier request holds it and its repair can run. -/
theorem execFrameDrainEnd_ended {frame : BitVec 24} (hl : live s = true) (hd : (frameOf s frame.toNat).state = .draining)
    (he : requestsEnded s (frameOf s frame.toNat).readers = true) (hr : repairWaits s frame.toNat = false) :
    execFrameDrainEnd frame s = .next (endDrain frame.toNat s) := by
  rw [execFrameDrainEnd, onNode_live hl, if_pos ⟨hd, he, by simp [hr]⟩]

/-- While a pass that has rows left runs on a stack below throttle level 3, its next bank row is scrubbed. -/
theorem execPatrolScrubStep_running {stack : BitVec 3} {pc : BitVec 5} {u : Upsets} (hl : live s = true)
    (hr : (passAt (applyUpsets u s) stack.toNat).running = true)
    (hn : (passAt (applyUpsets u s) stack.toNat).next.atD pc.toNat 0 < rowsPerPc)
    (ht : (stackAt (applyUpsets u s) stack.toNat).throttle ≠ 3) :
    execPatrolScrubStep stack pc u s = .next (
      let t := applyUpsets u s
      let i := (passAt t stack.toNat).next.atD pc.toNat 0
      let a := patrolAddr stack.toNat pc.toNat i
      (scrubRange a 1024 (bumpAt .runnerSteps stack.toNat 1 (updPass stack.toNat (fun x => { x with
        ce := x.ce + (correctedIn t a 1024).length, ue := x.ue + (badIn t a 1024).length, next := x.next.put pc.toNat (i + 1) }) t))).2) := by
  rw [execPatrolScrubStep, onNode_live hl]
  refine congrArg _ (if_neg ?_)
  rintro (hstopped | hdone | hhot)
  · simp [hr] at hstopped
  · exact absurd hn (Nat.not_lt.mpr hdone)
  · exact ht hhot

/-- A pass that has read every codeword ends. -/
theorem execScrubPassDone_complete {stack : BitVec 3} (hl : live s = true) (hr : (passAt s stack.toNat).running = true)
    (hc : passComplete (passAt s stack.toNat) = true) :
    execScrubPassDone stack s = .next (
      let x := passAt s stack.toNat
      let s := logFrom 0 0x0705 (srcStack stack.toNat) [(8, stack.toNat), (64, x.ce), (64, x.ue)] s
      let s := updPass stack.toNat (fun x => { x with running := false }) s
      let s := endScrubJobs stack.toNat s.jobs s
      if x.late then startVerify (startPass stack.toNat s) else s) := by
  rw [execScrubPassDone, onNode_live hl]
  refine congrArg _ (if_neg ?_)
  simp [hr, hc]

/-! ### Passes that start together -/

theorem passAt_startPass_self (n : Nat) (s : State) : passAt (startPass n s) n = ScrubPass.reset := by
  simp [passAt, startPass, updPass]

theorem passAt_startPass_ne {n k : Nat} (h : n ≠ k) : passAt (startPass n s) k = passAt s k := by
  simp [passAt, startPass, updPass, Tbl.atD_upd_ne _ _ _ _ h]

/-- What the end of an interval does to one stack: a pass under way is late, and a stack that is done begins the next. -/
def intervalPass (s : State) (n : Nat) : State :=
  if (passAt s n).running then logFrom 0 0x0706 (srcStack n) [] (updPass n (fun x => { x with late := true }) s) else startPass n s

theorem intervalPass_done {n : Nat} (h : (passAt s n).running = false) : intervalPass s n = startPass n s := by
  simp [intervalPass, h]

/-- Over stacks that are done, each once, the end of an interval starts the pass of each. -/
theorem foldl_intervalPass {ns : List Nat} (hn : ns.Nodup) (h : ∀ n ∈ ns, (passAt s n).running = false) :
    ns.foldl intervalPass s = ns.foldl (fun s n => startPass n s) s := by
  induction ns generalizing s with
  | nil => rfl
  | cons n r ih =>
    obtain ⟨hnr, hr⟩ := List.nodup_cons.mp hn
    rw [List.foldl_cons, List.foldl_cons, intervalPass_done (h n List.mem_cons_self)]
    refine ih hr (fun k hk => ?_)
    have hne : n ≠ k := by rintro rfl; exact hnr hk
    rw [passAt_startPass_ne hne]
    exact h k (List.mem_cons_of_mem _ hk)

/-- A pass that runs still runs after further ones have started. -/
theorem running_foldl_startPass {ns : List Nat} {k : Nat} (h : k ∈ ns ∨ (passAt s k).running = true) :
    (passAt (ns.foldl (fun s n => startPass n s) s) k).running = true := by
  induction ns generalizing s with
  | nil => exact h.resolve_left List.not_mem_nil
  | cons n r ih =>
    apply ih
    by_cases hk : n = k
    · subst hk
      exact Or.inr (by rw [passAt_startPass_self]; rfl)
    · rw [passAt_startPass_ne hk]
      exact h.imp_left (fun hmem => (List.mem_cons.mp hmem).resolve_left (Ne.symm hk))

theorem verifyLeft_foldl_startPass (ns : List Nat) (s : State) :
    (ns.foldl (fun s n => startPass n s) s).hbm.verifyLeft = s.hbm.verifyLeft := by
  induction ns generalizing s with
  | nil => rfl
  | cons n r ih => exact ih (startPass n s)

theorem dropLeft_verifyLeft_nil (h : s.hbm.verifyLeft = []) : (dropLeft s).hbm.verifyLeft = [] := by
  simp [dropLeft, h]

/-- At the end of an interval with every stack done and no page still owed to the read-verify, every stack begins a pass. -/
theorem execScrubIntervalEnd_done (hl : live s = true) (hr : ∀ n, n < 8 → (passAt s n).running = false) (hv : s.hbm.verifyLeft = []) :
    execScrubIntervalEnd s = .next (startVerify (dropLeft ((List.range 8).foldl (fun s n => startPass n s) s))) := by
  have hfold := foldl_intervalPass List.nodup_range (fun n hn => hr n (List.mem_range.mp hn))
  have hleft := dropLeft_verifyLeft_nil ((verifyLeft_foldl_startPass (List.range 8) s).trans hv)
  have hrow : execScrubIntervalEnd s = onNode (fun s =>
      let s := dropLeft ((List.range 8).foldl intervalPass s)
      if s.hbm.verifyLeft.isEmpty then startVerify s
      else logFrom 0 0x0602 srcCore [] { s with hbm := { s.hbm with verifyLate := true } }) s := by
    unfold execScrubIntervalEnd intervalPass; rfl
  rw [hrow, onNode_live hl, hfold]
  refine congrArg _ (if_pos ?_)
  rw [hleft]; rfl

/-- SCRUB.PASS waits for the passes under way, or starts one on every stack. -/
theorem execScrubPass_serves {c : Cmd} {b w : State} (h : Serves c 0 s b w) : execScrubPass c s = .next (
    if ((List.range 8).filter (fun n => (passAt w n).running)).isEmpty then
      (addJob (.scrubPass c (List.range 8)) (startVerify ((List.range 8).foldl (fun s n => startPass n s) w))).2
    else (addJob (.scrubPass c ((List.range 8).filter (fun n => (passAt w n).running))) w).2) := by
  rw [execScrubPass, runVerb_pass h rfl]
  extract_lets under
  by_cases hu : under.isEmpty
  · rw [if_pos hu, if_pos hu, finish_later]
  · rw [if_neg hu, if_neg hu, finish_later]

end

/-- Settles O10: each row by the equation of its meaning above. -/
theorem scrubEventsComplete : Obligations.ScrubEventsComplete := by
  refine ⟨?drain, ?patrol, ?passDone, ?intervalEnd, ?startAll, ?join⟩
  case drain => exact fun _ _ hl hd he hr => execFrameDrainEnd_ended hl hd he hr
  case patrol => exact fun _ _ _ _ hl hr hn ht => execPatrolScrubStep_running hl hr hn ht
  case passDone => exact fun _ _ hl hr hc => execScrubPassDone_complete hl hr hc
  case intervalEnd =>
    exact fun s hl hr hv => ⟨_, execScrubIntervalEnd_done hl hr hv, fun n hn => running_foldl_startPass (Or.inl (List.mem_range.mpr hn))⟩
  case startAll => exact fun c _ _ _ h none => (execScrubPass_serves h).trans (congrArg _ (if_pos (List.isEmpty_iff.mpr none)))
  case join => exact fun c _ _ _ h some => (execScrubPass_serves h).trans (congrArg _ (if_neg (mt List.isEmpty_iff.mp some)))

end Sys2Proof.Machine

/-! # Smoothing vectors and prefix aliases: KV.SMOOTH at its home and at the other span nodes, and SPAN.ALIAS; the statement O3 -/

namespace Sys2Proof.Machine

section
variable {s b w t z s1 : State} {c : Cmd} {h : PeerHdr} {f rec : FrameId} {v : VId} {handle : Handle} {layer : BitVec 16} {head : BitVec 8}
  {sigma : List (BitVec 32)}

/-! ## Smoothing vectors (R112, R454) -/

/-- The nodes that KV.SMOOTH asks: those that hold a span of the sequence, but this one. -/
def smoothNodes (s : State) (v : VId) (q : SeqRec) : List NodeId :=
  q.places.vals.eraseDups.filter (fun n => n ≠ (vn s v).nodeId)

/-- KV_SMOOTH of a sequence with no other span node: the vector is installed where nothing is appended yet. -/
def smoothAlone (c : Cmd) (v : VId) (handle : Handle) (l hd : Nat) (sigma : List (BitVec 32)) (s : State) : State :=
  let hl := holdLayer v handle l hd s
  complete c (Reply.st (if hl.1 = 0 then stOk else stDenied)) (smoothEnd v handle l hd [] (if hl.1 = 0 then some sigma else none) hl.2)

/-- KV_SMOOTH of a sequence with other span nodes: each is asked to report and hold. -/
def smoothAsk (c : Cmd) (v : VId) (handle : Handle) (l hd : Nat) (sigma : List (BitVec 32)) (others : List NodeId) (s : State) : State :=
  let hl := holdLayer v handle l hd s
  let j := addJob (.smooth c v handle l hd sigma others others (decide (hl.1 ≠ 0))) hl.2
  others.foldl (fun s n => sendPeer v n false handle 0 (.smoothHold l hd) (some j.1) s) j.2

/-- The search for an inadmissible element of a vector finds none where all are admissible. -/
theorem find?_sigma_none (h : ∀ x ∈ sigma, sigmaOk x = true) :
    (List.range sigma.length).find? (fun i => !(sigmaOk (sigma.getD i 0))) = none := by
  refine List.find?_eq_none.mpr (fun i hi => ?_)
  have hlt : i < sigma.length := List.mem_range.mp hi
  simp [hlt, h]

/-- KV_SMOOTH whose vector, layer and head fit its idle sequence holds the layer and head here; with no other span node it ends at once, and otherwise
it asks the others. -/
theorem execKvSmooth_fits {q : SeqRec} (hs : Serves c (16 + 4 * q.geo.dim) s b w) (hhandle : badHandle handle = false)
    (hfind : findHome c handle w = (.found f, t)) (hq : t.seqs.at? f = some q) (hidle : seqBusy t (vnodeOf w c) handle = false)
    (hlen : sigma.length = q.geo.dim) (hhead : head.toNat < q.geo.heads) (hlayer : layer.toNat < q.geo.layers)
    (hsigma : ∀ x ∈ sigma, sigmaOk x = true) :
    execKvSmooth c handle layer head sigma s = .next (
      let others := smoothNodes t (vnodeOf w c) q
      if others.isEmpty then smoothAlone c (vnodeOf w c) handle layer.toNat head.toNat sigma t
      else smoothAsk c (vnodeOf w c) handle layer.toNat head.toNat sigma others t) := by
  have ⟨_, _, hrsv, hparam⟩ := hs
  have hblock : firstBad c [(decide (c.hdr.paramLen.toNat < 16), 12), (badHandle handle, 64)] = none :=
    firstBad_none hrsv (by simp [fieldsPass, hparam, hhandle])
  have hfields : firstBad c [(decide (c.hdr.paramLen.toNat ≠ 16 + 4 * q.geo.dim) || decide (sigma.length ≠ q.geo.dim), 12),
      (decide (q.geo.heads ≤ head.toNat), 77), (decide (q.geo.layers ≤ layer.toNat), 78)] = none :=
    firstBad_none hrsv (by simp [fieldsPass, hparam, hlen, hhead, hlayer])
  rw [execKvSmooth, runVerb_serves hs]
  simp only [hblock, hfind, hq, hidle, Bool.false_eq_true, if_false, hfields, find?_sigma_none hsigma, decide_eq_true_eq]
  by_cases alone : (smoothNodes t (vnodeOf w c) q).isEmpty
  · rw [if_pos alone]
    unfold smoothNodes at alone
    rw [if_pos alone, finish_st, smoothAlone]
  · rw [if_neg alone]
    unfold smoothNodes at alone
    rw [if_neg alone, finish_later, smoothAsk, smoothNodes]

/-- SMOOTH_HOLD renews the hold on the layer and head and reports their greatest fill point. -/
theorem execSmoothHold_met (m : Met h .other s) : execSmoothHold h layer head s = .next (
    let r := holdLayer h.vnode h.handle layer.toNat head.toNat (freeLayer h.vnode h.handle layer.toNat head.toNat (takePeer h.sender s))
    ackPeer h stOk r.1 r.2) :=
  onPeer_met m

/-- SMOOTH_INSTALL with a vector installs it and ends the hold. -/
theorem execSmoothInstall_some (m : Met h .other s) : execSmoothInstall h layer head (some sigma) s = .next (
    wake (ackPeer h stOk 0 (freeLayer h.vnode h.handle layer.toNat head.toNat
      (installSigma h.vnode h.handle layer.toNat head.toNat sigma (takePeer h.sender s))))) :=
  onPeer_met m

/-- SMOOTH_INSTALL without a vector ends the hold alone. -/
theorem execSmoothInstall_none (m : Met h .other s) : execSmoothInstall h layer head none s = .next (
    wake (ackPeer h stOk 0 (freeLayer h.vnode h.handle layer.toNat head.toNat (takePeer h.sender s)))) :=
  onPeer_met m

/-- When its time is over, KV_SMOOTH installs nothing and names the first node that it has not heard of. -/
theorem execKvSmoothTimeout_waiting {job l hd : Nat} {waiting asked : List NodeId} {nonzero : Bool} (hl : live s = true)
    (hj : s.jobs.at? job = some (.smooth c v handle l hd sigma waiting asked nonzero)) :
    execKvSmoothTimeout job s = .next (wake (complete c ⟨stTimeout, 0, waiting.head?, 0, 0, 0, []⟩
      (smoothEnd v handle l hd asked none (dropSent (fun x => decide (x.job = some job)) (endJob job s))))) := by
  rw [execKvSmoothTimeout, onNode_live hl]
  simp only [hj]

/-! ## Prefix aliases (R90, R126, R453) -/

variable {p : AliasBlk} {q : SpanRec}

/-- The checks of an alias block (R453): its two handles, that they are of one family with no ignored member bit set, and its priority. -/
def aliasFails (p : AliasBlk) : List (Bool × Nat) :=
  [(badHandle p.source, 64),
    (badHandle p.aliasHandle || decide (aliasKey p ≠ p.aliasHandle) || decide (p.aliasHandle.toNat / 2 ^ 20 ≠ p.source.toNat / 2 ^ 20), 72),
    (decide (p.priority ≠ 0) && (decide (p.priority.toNat < 0x40) || decide (0xBF < p.priority.toNat)), 84)]

theorem fieldsPass_aliasFails (hsource : badHandle p.source = false) (halias : badHandle p.aliasHandle = false)
    (hkey : aliasKey p = p.aliasHandle) (hfamily : p.aliasHandle.toNat / 2 ^ 20 = p.source.toNat / 2 ^ 20)
    (hpriority : p.priority = 0 ∨ (0x40 ≤ p.priority.toNat ∧ p.priority.toNat ≤ 0xBF)) : fieldsPass (aliasFails p) = true := by
  have hprio : (decide (p.priority ≠ 0) && (decide (p.priority.toNat < 0x40) || decide (0xBF < p.priority.toNat))) = false := by
    rcases hpriority with hzero | ⟨hlow, hhigh⟩
    · simp [hzero]
    · simp [Nat.not_lt.mpr hlow, Nat.not_lt.mpr hhigh]
  simp only [fieldsPass, aliasFails, List.all_cons, List.all_nil, hsource, halias, hkey, hfamily, hprio, ne_eq, not_true_eq_false,
    decide_false, Bool.or_self, Bool.not_false, Bool.and_self]

/-- A span record whose pages have been read can be copied for an alias: each page has its bytes and is neither lost nor poisoned nor awaited, the
directory takes the alias's entry, and frames are FREE for the copies and their record (R126). -/
structure AliasCopies (v : VId) (p : AliasBlk) (rec : FrameId) (q : SpanRec) (z : State) : Prop where
  record : spanAt z rec = some q
  readable : ∀ x ∈ q.pages, ∃ bs, pageContent z q.geo.fmt x.2.loc = .bytes bs
  unpoisoned : q.pages.findSome? (fun x => x.2.poison) = none
  notAwaited : (pagesOf (rec, q)).any (fun x => (awaited z x.1).isSome) = false
  notLost : q.pages.any (fun x => decide (x.2.loc = .lost)) = false
  entered : insertRefusal z (aliasEntry v p 0) = none
  room : q.pages.length + 1 ≤ freeForUse z v

/-- The shared record that SPAN.ALIAS builds in a frame from the copies of the source's pages. -/
def sharedRecord (v : VId) (p : AliasBlk) (f : FrameId) (q : SpanRec) (pages : List ((Nat × Nat × Nat) × Page)) : SpanRec :=
  { q with handle := aliasKey p, shared := true, pages := pages, acked := [], rounds := [], spare := none, spareOwed := none,
           reported := true, aliasOf := some (p.memberMask, (aliasEntry v p f).prio) }

/-- A content that is found to be bytes is some bytes. -/
theorem Content.eq_bytes {k : Content} (h : (match k with
    | .bytes _ => true
    | _ => false) = true) : ∃ bs, k = .bytes bs := by
  cases k with
  | bytes bs => exact ⟨bs, rfl⟩
  | _ => exact absurd h Bool.false_ne_true

/-- SPAN_ALIAS of an own span of an open sequence reads its pages, copies them into a shared record in a new map frame, and completes once the
alias's entry is valid. -/
theorem spanAliasRow_copies {x : SpanRec} (hs : Serves c 32 s b w) (hlinks : c.links = 0) (hf : fieldsPass (aliasFails p) = true)
    (hfind : findSpan (vnodeOf w c) p.source p.span.toNat w = (.found rec false, t)) (hspan : spanAt t rec = some x)
    (hopen : ((homeSeq t (vnodeOf w c) p.source).bind (fun g => t.seqs.at? g)).any (fun y => y.closing) = false)
    (hread : readPages (fun _ => true) rec t = z) (a : AliasCopies (vnodeOf w c) p rec q z)
    (hframe : newMapFrame (vnodeOf w c) .map z = some (f, s1)) :
    spanAliasRow c p s = .next (whenEntered c (aliasEntry (vnodeOf w c) p f)
      (let cp := copyShared q (aliasKey p) q.pages s1
       { cp.2 with spans := cp.2.spans.put f (sharedRecord (vnodeOf w c) p f q cp.1) })) := by
  refine (runVerb_linked hs hlinks hf).trans ?_
  obtain ⟨hrecord, hreadable, hpoison, hawaited, hlost, hins, hroom⟩ := a
  simp only [hfind, hspan, hopen, Bool.or_self, Bool.false_eq_true, if_false, hread, hrecord, Option.getD_some, or_self, hlost, hpoison,
    Option.isSome_none, hawaited, hins, Nat.not_lt.mpr hroom, hframe, or_false]
  -- the search for an unreadable page, the last check left, finds none
  rw [List.find?_eq_none.mpr (fun x hx => ?unread)]
  case unread =>
    obtain ⟨bs, hbytes⟩ := hreadable x hx
    simp only [hbytes, Bool.false_eq_true, not_false_eq_true]
  simp only [Option.isSome_none, Bool.false_eq_true, if_false, finish_later, sharedRecord]

end

/-- Settles O3: each row by the equation of its meaning above, on the branch that the clause's conditions choose. -/
theorem smoothAndAliasComplete : Obligations.SmoothAndAliasComplete := by
  refine ⟨?kvSmooth, ?smoothHold, ?smoothInstall, ?smoothTimeout, ?spanAlias⟩
  case kvSmooth =>
    intro c handle layer head sigma s b w f t q hs hhandle hfind hq hidle hlen hhead hlayer hsigma
    have hrow := execKvSmooth_fits hs hhandle hfind hq hidle hlen hhead hlayer hsigma
    exact ⟨fun alone => hrow.trans (congrArg _ (if_pos (List.isEmpty_iff.mpr alone))),
      fun others => hrow.trans (congrArg _ (if_neg (mt List.isEmpty_iff.mp others)))⟩
  case smoothHold => exact fun _ _ _ _ m => execSmoothHold_met m
  case smoothInstall => exact fun _ _ _ _ m => ⟨fun _ => execSmoothInstall_some m, execSmoothInstall_none m⟩
  case smoothTimeout => exact fun _ _ _ _ _ _ _ _ _ _ _ hl hj => execKvSmoothTimeout_waiting hl hj
  case spanAlias =>
    intro c p s b w rec t x z q f s1 hs ha hlinks hsource halias hkey hfamily hpriority hfind hspan hopen hread hrecord hreadable
      hpoison hawaited hlost hins hroom hframe
    exact filling_of hs.1 ha (spanAliasRow_copies hs hlinks (fieldsPass_aliasFails hsource halias hkey hfamily hpriority) hfind hspan
      hopen hread ⟨hrecord, fun x hx => Content.eq_bytes (List.all_eq_true.mp hreadable x hx), hpoison, hawaited, hlost, hins, hroom⟩ hframe)

end Sys2Proof.Machine

/-! # Runner commands, and the events of a stack; the statements O6, O7, O8 and O9 -/

namespace Sys2Proof.Machine

section
variable {s g t : State} {stack : BitVec 3} {k : RnCmd} {i : Instr} {u : Upsets} {op n pc : Nat} {f : State → State}

/-! ## How a runner meets a command (R148–R150) -/

/-- An encoding that no scheduler issues stops by the name of its opcode. -/
theorem onRunner_neverIssued (h : rnNeverIssued op k = true) : onRunner op stack k i f s = .fault (.runnerEncoding op) :=
  if_pos h

/-- A command waits behind one that waits, and for the end of throttle level 3 where it activates a row. -/
theorem onRunner_waits (hl : live s = true) (hissued : rnNeverIssued op k = false)
    (h : runnerHeld s stack.toNat k.pc.toNat = true ∨ (rnAddressed op = true ∧ throttleOf s stack.toNat = 3)) :
    onRunner op stack k i f s = .next (defer (.runner stack.toNat k.pc.toNat) i s.knobs s) := by
  rw [onRunner, if_neg (ne_true_of_eq_false hissued), onNode_live hl, if_pos]
  rcases h with hheld | ⟨haddressed, hhot⟩
  · rw [hheld, Bool.true_or]
  · rw [haddressed, decide_eq_true hhot, Bool.and_self, Bool.or_true]

/-! ## A runner and its sequences -/

@[simp] theorem runnerAt_updRunner_self (f : Runner → Runner) : runnerAt (updRunner n pc f s) n pc = f (runnerAt s n pc) :=
  Tbl.atD_upd_self _ _ _ _

@[simp] theorem runnerAt_setSeq_self (tag : BitVec 8) (q : RnSeq) :
    runnerAt (setSeq n pc tag q s) n pc = { runnerAt s n pc with live := (runnerAt s n pc).live.put tag q } :=
  runnerAt_updRunner_self _

/-- A command that meets no register error leaves the state, and goes on unless its sequence has ended. -/
theorem meetRegs_none (h : k.regs = []) : meetRegs n k Upsets.none s = (!seqEnded s n k.pc.toNat k.seqTag, s) := by
  rw [meetRegs, h]
  rfl

theorem meetRegs_none_goesOn (h : k.regs = []) (hseq : seqEnded s n k.pc.toNat k.seqTag = false) :
    meetRegs n k Upsets.none s = (true, s) := by
  rw [meetRegs_none h, hseq, Bool.not_false]

/-! ## RN_QLOAD (R134, R151) -/

/-- What RN_QLOAD makes of its runner's registers and status words at a throttle level. -/
def loadedRunner (level : Nat) (k : RnCmd) (rows : List (List (BitVec 32))) (r : Runner) : Runner :=
  { r with
    contexts := r.contexts.filter (fun x => decide (x.1.1 ≠ k.ctx.toNat)) ++ (qrowsOf k).map (fun i => ((k.ctx.toNat, i), rows.getD i []))
    wide := k.wide
    dsScale := if k.scoreFmt = 1 then r.dsScale.put k.ctx.toNat k.arg else r.dsScale
    blockMax := r.blockMax.put k.seqTag 0
    carry := r.carry.filter (fun x => decide (x.1.1 ≠ k.ctx.toNat))
    keyMag := r.keyMag.filter (fun x => decide (x.1.1 ≠ k.ctx.toNat))
    outMag := r.outMag.filter (fun x => decide (x.1.1 ≠ k.ctx.toNat))
    pond := r.pond.filter (fun x => decide (x.1.1 ≠ k.seqTag.toNat))
    pondMax := r.pondMax.del k.seqTag
    pondMag := r.pondMag.filter (fun x => decide (x.1.1 ≠ k.seqTag))
    seqs := r.seqs.put k.seqTag { RnStatus.zero with throttle := level } }

/-- The sequence that RN_QLOAD starts, for the request whose operand query the loaded rows hold. -/
def loadedSeq (s : State) (stack : Nat) (k : RnCmd) (rows : List (List (BitVec 32))) : RnSeq :=
  ⟨k.ctx.toNat, k.wide, false, false, requestOf s stack k ((qrowsOf k).map (fun i => rows.getD i []))⟩

/-- The state that RN_QLOAD leaves where it loads its rows. -/
def queryLoaded (stack : Nat) (k : RnCmd) (rows : List (List (BitVec 32))) (s : State) : State :=
  setSeq stack k.pc.toNat k.seqTag (loadedSeq s stack k rows)
    (updRunner stack k.pc.toNat (loadedRunner (throttleOf s stack) k rows) s)

theorem execRnQload_full {rows : List (List (BitVec 32))} (h : Issues 1 stack k s)
    (hfull : noRoomFor (runnerAt s stack.toNat k.pc.toNat) k = true) : execRnQload stack k rows s = .next s :=
  (onRunner_issues h).trans (congrArg _ (if_pos hfull))

theorem execRnQload_loads {rows : List (List (BitVec 32))} (h : Issues 1 stack k s) (hregs : k.regs = [])
    (hroom : noRoomFor (runnerAt s stack.toNat k.pc.toNat) k = false) :
    execRnQload stack k rows s = .next (queryLoaded stack.toNat k rows s) := by
  refine (onRunner_issues h).trans (congrArg _ ((if_neg (ne_true_of_eq_false hroom)).trans ?_))
  change (meetRegs stack.toNat k Upsets.none (queryLoaded stack.toNat k rows s)).2 = _
  rw [meetRegs_none hregs]

theorem runnerAt_queryLoaded (rows : List (List (BitVec 32))) : runnerAt (queryLoaded n k rows s) n k.pc.toNat =
    { loadedRunner (throttleOf s n) k rows (runnerAt s n k.pc.toNat) with
      live := (runnerAt s n k.pc.toNat).live.put k.seqTag (loadedSeq s n k rows) } := by
  rw [queryLoaded, runnerAt_setSeq_self, runnerAt_updRunner_self]
  rfl

/-- In a table made from a list of indices, each under a key of its own, an index of the list finds its own value. -/
theorem Tbl.at?_map_of_mem {ι κ α : Type} [DecidableEq κ] {key : ι → κ} (hkey : Function.Injective key) (val : ι → α)
    {is : List ι} {i : ι} (h : i ∈ is) : Tbl.at? (is.map (fun j => (key j, val j))) (key i) = some (val i) := by
  induction is with
  | nil => exact absurd h List.not_mem_nil
  | cons j js ih =>
    rw [List.map_cons, Tbl.at?]
    by_cases hj : j = i
    · rw [if_pos (congrArg key hj), hj]
    · rw [if_neg (hkey.ne hj)]
      exact ih ((List.mem_cons.mp h).resolve_left (Ne.symm hj))

/-- A loaded context holds the rows loaded, whatever it held before. -/
theorem loadedRunner_contexts {level j : Nat} {rows : List (List (BitVec 32))} {r : Runner} (h : j ≤ k.qrows.toNat) :
    (loadedRunner level k rows r).contexts.at? (k.ctx.toNat, j) = some (rows.getD j []) := by
  have hold : Tbl.at? (r.contexts.filter (fun x => decide (x.1.1 ≠ k.ctx.toNat))) (k.ctx.toNat, j) = none :=
    (Tbl.at?_filter r.contexts (k.ctx.toNat, j) (fun x => decide (x.1 ≠ k.ctx.toNat))).trans (if_neg (by simp))
  have hmem : j ∈ qrowsOf k := List.mem_range.mpr (Nat.lt_succ_of_le h)
  have hnew := Tbl.at?_map_of_mem (key := Prod.mk k.ctx.toNat) (fun _ _ e => (Prod.mk.inj e).2) (fun i => rows.getD i []) hmem
  rw [loadedRunner, Tbl.at?_append, hold]
  exact hnew

/-! ## The other commands that touch no row (R147, R151, R187, R191) -/

theorem execRnWload_goesOn (h : Issues 4 stack k s) (hregs : k.regs = []) (hseq : seqEnded s stack.toNat k.pc.toNat k.seqTag = false) :
    execRnWload stack k s = .next (updRunner stack.toNat k.pc.toNat (fun r => { r with weightsIdle := nextWeights stack.toNat k r }) s) := by
  refine (onRunner_issues h).trans ?_
  rw [meetRegs_none_goesOn hregs hseq]
  rfl

theorem execRnDrain_goesOn (h : Issues 6 stack k s) (hregs : k.regs = []) (hseq : seqEnded s stack.toNat k.pc.toNat k.seqTag = false) :
    execRnDrain stack k s = .next (endContext stack.toNat k.pc.toNat k.ctx.toNat k.seqTag (updRunner stack.toNat k.pc.toNat
      (fun r => { r with accum := r.accum.filter (fun a => decide (a.1.1 ≠ k.ctx.toNat)) })
      (let rows := (qrowsOf k).map (fun i => padWords (rnDim k) ((runnerAt s stack.toNat k.pc.toNat).accum.atD (k.ctx.toNat, i) []))
       emit (.runnerDrain stack k.pc k.ctx rows) (takeDrain stack.toNat k rows s)))) := by
  rw [execRnDrain, onRunner_issues h]
  simp only [meetRegs_none_goesOn hregs hseq, Bool.not_true, Bool.false_eq_true, if_false]

/-- RN_ABORT of a tag that no sequence has clears the registers of its context. -/
theorem execRnAbort_noSeq (h : Issues 10 stack k s) (hseq : (runnerAt s stack.toNat k.pc.toNat).live.at? k.seqTag = none) :
    execRnAbort stack k s = .next (updRunner stack.toNat k.pc.toNat (clearRegs false k.ctx.toNat) s) := by
  rw [execRnAbort, onRunner_issues h]
  simp only [hseq]

theorem execRnAbort_ends {q : RnSeq} (h : Issues 10 stack k s) (hseq : (runnerAt s stack.toNat k.pc.toNat).live.at? k.seqTag = some q)
    (hq : q.ended = false) :
    execRnAbort stack k s = .next (issueOwed stack.toNat k.pc.toNat (setSeq stack.toNat k.pc.toNat k.seqTag { q with ended := true }
      (updRnStatus stack.toNat k.pc.toNat k.seqTag (fun x => { x with aborted := true })
        (updRunner stack.toNat k.pc.toNat (clearRegs q.wide q.ctx) s)))) := by
  rw [execRnAbort, onRunner_issues h]
  simp only [hseq, hq, Bool.false_eq_true, if_false]

/-! ## Steps (R141, R145, R165) -/

/-- A step whose registers and codewords read does its work on the bytes of its sweep. -/
theorem rnReadStep_reads {w : List Byte → State → State} (hm : meetRegs n k u (applyHbmUpsets u s) = (true, g))
    (hr : readSweep .runner n k g = (true, t)) :
    rnReadStep n k u w s = stepDone n k (w (hbmRead t (sweep n k).1 (sweep n k).2) t) := by
  simp only [rnReadStep, hm, hr, Bool.not_true, Bool.false_eq_true, if_false, if_true]

/-- A step that meets an uncorrectable codeword counts, and does none of its work. -/
theorem rnReadStep_unreadable {w : List Byte → State → State} (hm : meetRegs n k u (applyHbmUpsets u s) = (true, g))
    (hr : readSweep .runner n k g = (false, t)) : rnReadStep n k u w s = stepDone n k t := by
  simp only [rnReadStep, hm, hr, Bool.not_true, Bool.false_eq_true, if_false]

theorem rnWriteStep_goesOn (hm : meetRegs n k u (startWrite n k (applyHbmUpsets u s)) = (true, g)) :
    rnWriteStep n k u f s = stepDone n k (f g) := by
  simp only [rnWriteStep, hm, if_true]

section
variable {a : Nat} {bs : List Byte}

theorem writeSweep_linked (h : u.linkFails = 0) : writeSweep n k a bs u s = hbmWrite a bs s := by
  rw [writeSweep, h]
  rfl

/-- A transfer that fails once is sent again. -/
theorem writeSweep_resent (h : u.linkFails = 1) : writeSweep n k a bs u s = hbmWrite a bs (bumpAt .stackLinkResends n 1 s) := by
  rw [writeSweep, h]
  rfl

/-- A transfer that fails again leaves its codeword unwritten and ends its sequence. -/
theorem writeSweep_failed (h : 2 ≤ u.linkFails) : writeSweep n k a bs u s = hbmWrite (a + 32) (bs.drop 32)
    (failSeq n k.pc.toNat k.seqTag (fun x => { x with linkErr := true })
      (logFrom 0 0x0301 (srcStack n) [(8, n), (8, k.pc.toNat)] (bumpAt .stackLinkResends n 1 s))) := by
  have hfails : u.linkFails ≠ 0 := by omega
  rw [writeSweep, if_pos h, if_pos hfails]

end

/-- RN_FILL writes ARG over its sweep as the link lets it. -/
theorem execRnFill_goesOn (h : Issues 7 stack k s)
    (hm : meetRegs stack.toNat k u (startWrite stack.toNat k (applyHbmUpsets u s)) = (true, g)) :
    execRnFill stack k u s = .next (stepDone stack.toNat k (writeSweep stack.toNat k (sweep stack.toNat k).1
      ((List.replicate ((sweep stack.toNat k).2 / 4) (leBytes 4 k.arg.toNat)).flatten) u g)) :=
  (onRunner_issues h).trans (congrArg _ (rnWriteStep_goesOn hm))

/-- RN_COPY writes the bytes of its sweep to the row that ARG names. -/
theorem execRnCopy_reads (h : Issues 8 stack k s)
    (hm : meetRegs stack.toNat k u (startWrite stack.toNat k (applyHbmUpsets u s)) = (true, g))
    (hr : readSweep .runner stack.toNat k g = (true, t)) :
    execRnCopy stack k u s = .next (stepDone stack.toNat k (writeSweep stack.toNat k
      (rowAddr stack.toNat k.pc.toNat (bitsOf k.arg.toNat 20 19) (bitsOf k.arg.toNat 18 17) (bitsOf k.arg.toNat 16 15)
        (bitsOf k.arg.toNat 14 0) + 64 * k.colFirst.toNat)
      (hbmRead t (sweep stack.toNat k).1 (sweep stack.toNat k).2) u t)) := by
  rw [execRnCopy, onRunner_issues h, rnWriteStep_goesOn hm]
  simp only [hr, Bool.not_true, Bool.false_eq_true, if_false]

/-- RN_SCRUB of a range whose codewords can all be corrected ends with what the scrub leaves. -/
theorem execRnScrub_corrects (h : Issues 9 stack k s)
    (hm : meetRegs stack.toNat k u (startWrite stack.toNat k (applyHbmUpsets u s)) = (true, g))
    (hr : scrubRange (sweep stack.toNat k).1 (sweep stack.toNat k).2 (updRnStatus stack.toNat k.pc.toNat k.seqTag (fun x =>
      { x with ceCount := min 65535 (x.ceCount + (correctedIn g (sweep stack.toNat k).1 (sweep stack.toNat k).2).length) }) g) = (true, t)) :
    execRnScrub stack k u s = .next (stepDone stack.toNat k t) := by
  rw [execRnScrub, onRunner_issues h, rnWriteStep_goesOn hm]
  simp only [hr, if_true]

/-! ## Refresh and throttling (R160–R170) -/

theorem execRefreshDue_live {pc : BitVec 5} (hl : live s = true) : execRefreshDue stack pc s = .next (
    if !(runnerAt s stack.toNat pc.toNat).runs then issueOwed stack.toNat pc.toNat s
    else if (stackAt s stack.toNat).owed.atD pc.toNat 0 < 3 then
      bumpAt .refPostponed stack.toNat 1 (updStack stack.toNat (fun x =>
        { x with owed := x.owed.put pc.toNat ((stackAt s stack.toNat).owed.atD pc.toNat 0 + 1) }) s)
    else bumpAt .refSplits stack.toNat 1 s) :=
  onNode_live hl

@[simp] theorem stackAt_updStack_self (f : Stack → Stack) : stackAt (updStack n f s) n = f (stackAt s n) :=
  Tbl.atD_upd_self _ _ _ _

@[simp] theorem setAlert_hbmStacks (bit : Nat) : (setAlert bit s).hbmStacks = s.hbmStacks := by
  unfold setAlert
  split <;> rfl

@[simp] theorem stackAt_alertTemp : stackAt (alertTemp s) n = stackAt s n := by
  unfold alertTemp
  split
  · rw [stackAt, setAlert_hbmStacks, stackAt]
  · rfl

section
variable {temp : Int} {power : Nat} {quiet : Bool}

/-- A reading of a stack's sensors, taken down with the power limit in force, and the alert that a hot stack raises. -/
def sensorNoted (n : Nat) (temp : Int) (power : Nat) (s : State) : State :=
  alertTemp (updStack n (fun x => { x with temp := temp, power := power, limitW := stackLimit s }) s)

theorem throttle_sensorNoted : (stackAt (sensorNoted n temp power s) n).throttle = (stackAt s n).throttle := by
  rw [sensorNoted, stackAt_alertTemp, stackAt_updStack_self]

/-- What a reading does to a stack's throttle level: it rises at once, falls by one after a quiet millisecond that keeps the hysteresis of R168, and
stays otherwise. -/
theorem sensorRow_live (hl : live s = true) : sensorRow stack temp power quiet s = .next (
    let l := (stackAt s stack.toNat).throttle
    let t := sensorNoted stack.toNat temp power s
    if l < levelFor temp power (stackLimit s) then setLevel stack.toNat (levelFor temp power (stackLimit s)) t
    else if 0 < l ∧ quiet ∧ temp + 3 ≤ throttleTemp l ∧ 100 * power < 95 * stackLimit s then
      if l = 3 then resumeSteps stack.toNat (setLevel stack.toNat (l - 1) t) else setLevel stack.toNat (l - 1) t
    else t) := by
  rw [← throttle_sensorNoted (temp := temp) (power := power)]
  exact onNode_live hl

theorem execStackSensorRead_rises (hl : live s = true) (hwant : (stackAt s stack.toNat).throttle < levelFor temp power (stackLimit s)) :
    execStackSensorRead stack temp power quiet s = .next (wake (setLevel stack.toNat (levelFor temp power (stackLimit s))
      (sensorNoted stack.toNat temp power s))) :=
  waking_of hl ((sensorRow_live hl).trans (congrArg _ (if_pos hwant)))

/-- After a quiet millisecond a level falls by one step; below level 3, what waited on the stack's runners goes on. -/
theorem execStackSensorRead_falls (hl : live s = true) (hwant : levelFor temp power (stackLimit s) ≤ (stackAt s stack.toNat).throttle)
    (hlevel : 0 < (stackAt s stack.toNat).throttle) (htemp : temp + 3 ≤ throttleTemp (stackAt s stack.toNat).throttle)
    (hpower : 100 * power < 95 * stackLimit s) :
    execStackSensorRead stack temp power true s = .next (wake (
      let t := setLevel stack.toNat ((stackAt s stack.toNat).throttle - 1) (sensorNoted stack.toNat temp power s)
      if (stackAt s stack.toNat).throttle = 3 then resumeSteps stack.toNat t else t)) :=
  waking_of hl ((sensorRow_live hl).trans
    (congrArg _ ((if_neg (Nat.not_lt.mpr hwant)).trans (if_pos ⟨hlevel, rfl, htemp, hpower⟩))))

end

/-! ## The scrub of the on-die SRAMs (R298) -/

/-- The scrub meets its errors one after the other. -/
theorem execSramScrub_live {errs : List SramErr} (hl : live s = true) : execSramScrub errs s = .next (errs.foldl sramError s) :=
  onNode_live hl

end

/-- Settles O6: each command is executed at once and meets no register error, so that its own work is left; RN_QLOAD's is read off the runner
that it leaves. -/
theorem runnerRegisterCommandsComplete : Obligations.RunnerRegisterCommandsComplete := by
  refine ⟨?nop, ?qload, ?wload, ?drain, ?abort, ?status⟩
  case nop => exact fun _ _ _ h => onRunner_issues h
  case qload =>
    intro stack k rows s h hregs
    refine ⟨execRnQload_full h, fun hroom => ⟨_, execRnQload_loads h hregs hroom, ?_⟩⟩
    rw [runnerAt_queryLoaded]
    exact ⟨Tbl.at?_put_self _ _ _, Tbl.at?_put_self _ _ _, fun _ hi => loadedRunner_contexts (level := throttleOf s stack.toNat) hi,
      rfl, rfl, rfl, rfl, rfl⟩
  case wload => exact fun _ _ _ h hregs hseq => execRnWload_goesOn h hregs hseq
  case drain => exact fun _ _ _ h hregs hseq => execRnDrain_goesOn h hregs hseq
  case abort => exact fun _ _ _ h => ⟨execRnAbort_noSeq h, fun _ hseq hq => execRnAbort_ends h hseq hq⟩
  case status => exact fun _ _ _ h => onRunner_issues h

/-- Every command that sweeps columns does its work on what its step reads, or writes it as the link lets it. -/
theorem runnerSweeps : Parts.RunnerSweeps := by
  refine ⟨?scale, ?score, ?weigh, ?fillLinked, ?fillResent, ?fillFailed, ?copy, ?scrub⟩
  case scale => exact fun _ _ _ _ _ _ h hm hr => (onRunner_issues h).trans (congrArg _ (rnReadStep_reads hm hr))
  case score => exact fun _ _ _ _ _ _ h hm hr => (onRunner_issues h).trans (congrArg _ (rnReadStep_reads hm hr))
  case weigh => exact fun _ _ _ _ _ _ h hm hr => (onRunner_issues h).trans (congrArg _ (rnReadStep_reads hm hr))
  case fillLinked => exact fun _ _ _ _ _ h hu hm => (execRnFill_goesOn h hm).trans (by rw [writeSweep_linked hu])
  case fillResent => exact fun _ _ _ _ _ h hu hm => (execRnFill_goesOn h hm).trans (by rw [writeSweep_resent hu])
  case fillFailed => exact fun _ _ _ _ _ h hu hm => (execRnFill_goesOn h hm).trans (by rw [writeSweep_failed hu])
  case copy => exact fun _ _ _ _ _ _ h hu hm hr => (execRnCopy_reads h hm hr).trans (by rw [writeSweep_linked hu])
  case scrub => exact fun _ _ _ _ _ _ h hm hr => execRnScrub_corrects h hm hr

theorem runnerCommandsWaitInOrder : Parts.RunnerCommandsWaitInOrder := by
  refine ⟨?hot, ?behind, ?unreadable⟩
  case hot => exact fun _ _ _ _ hl hissued hhot => onRunner_waits hl hissued (Or.inr ⟨rfl, hhot⟩)
  case behind => exact fun _ _ _ hl hissued hheld => onRunner_waits hl hissued (Or.inl hheld)
  case unreadable => exact fun _ _ _ _ _ _ h hm hr => (onRunner_issues h).trans (congrArg _ (rnReadStep_unreadable hm hr))

/-- Settles O7: the commands executed at once by their steps above, and those that wait by how a runner meets a command. -/
theorem runnerSweepsComplete : Obligations.RunnerSweepsComplete := ⟨runnerSweeps, runnerCommandsWaitInOrder⟩

/-- Settles O8: every runner row runs through `onRunner`, which checks the encoding first. -/
theorem runnerEncodingStops : Obligations.RunnerEncodingStops := fun _ _ _ _ _ =>
  ⟨onRunner_neverIssued, onRunner_neverIssued, onRunner_neverIssued, onRunner_neverIssued, onRunner_neverIssued, onRunner_neverIssued,
    onRunner_neverIssued, onRunner_neverIssued, onRunner_neverIssued, onRunner_neverIssued, onRunner_neverIssued, onRunner_neverIssued⟩

/-- Settles O9: each event by the equation of its meaning above, on the branch that the clause's conditions choose. -/
theorem stackEventsComplete : Obligations.StackEventsComplete := by
  refine ⟨?refresh, ?rises, ?falls, ?leavesThree, ?scrub⟩
  case refresh =>
    intro stack pc s hl
    refine ⟨fun hidle => ?issued, fun hruns howed => ?postponed, fun hruns howed => ?split⟩ <;>
      refine (execRefreshDue_live hl).trans (congrArg _ ?_)
    case issued => rw [hidle, Bool.not_false, if_pos rfl]
    case postponed => rw [hruns, Bool.not_true, if_neg Bool.false_ne_true, if_pos howed]
    case split => rw [hruns, Bool.not_true, if_neg Bool.false_ne_true, if_neg (Nat.not_lt.mpr howed)]
  case rises => exact fun _ _ _ _ _ hl hwant => execStackSensorRead_rises hl hwant
  case falls =>
    intro stack temp power s hl hwant hlevel hnot3 htemp hpower
    exact (execStackSensorRead_falls hl hwant hlevel htemp hpower).trans (congrArg (fun t => Host.Outcome.next (wake t)) (if_neg hnot3))
  case leavesThree =>
    intro stack temp power s hl h3 htemp hpower hwant
    rw [← h3] at htemp hwant
    refine (execStackSensorRead_falls hl hwant (by omega) htemp hpower).trans (congrArg (fun t => Host.Outcome.next (wake t)) ((if_pos h3).trans ?_))
    rw [h3]
    rfl
  case scrub => exact fun _ _ hl => execSramScrub_live hl

end Sys2Proof.Machine

/-! # A step of the machine; the statement O45 -/

namespace Sys2Proof.Machine

section
variable {s : State}

/-! ## Steps (R559) -/

theorem step_pending {c : Instr} {rest : List Instr} (h : s.pending = c :: rest) : step s = exec c { s with pending := rest } := by
  rw [step, h]

theorem step_idle (h : s.pending = []) : step s = .next (idle s) := by
  rw [step, h]

/-! ## The idle node (R142, R296) -/

theorem idle_live (h : live s = true) : idle s = countTime (settleMaps (settleUe s)) := by
  rw [idle, if_pos h]

theorem idle_dead (h : live s = false) : idle s = countTime s := by
  rw [idle, if_neg (ne_true_of_eq_false h)]

/-- Where part writes have found nothing, nothing is handled. -/
theorem settleUe_nothingDue (h : s.hbm.ueDue = []) : settleUe s = s := by
  have hkept : { s with hbm := { s.hbm with ueDue := [] } } = s := by rw [← h]
  rw [settleUe, hkept, h]
  rfl

theorem settleMaps_nothingDue (h : s.hbm.mapsDue = []) : settleMaps s = s := by
  unfold settleMaps
  rw [h]
  rfl

/-- With nothing to handle and no map frame to rebuild, an idle node counts time alone. -/
theorem idle_nothingDue (hue : s.hbm.ueDue = []) (hmaps : s.hbm.mapsDue = []) : idle s = countTime s := by
  cases hl : live s with
  | true => rw [idle_live hl, settleUe_nothingDue hue, settleMaps_nothingDue hmaps]
  | false => exact idle_dead hl

theorem countTime_released (h : released s = true) : countTime s = { s with pw := { s.pw with uptime := s.pw.uptime + 40 } } := by
  rw [countTime, if_pos h]

theorem countTime_unreleased (h : released s = false) : countTime s = s := by
  rw [countTime, if_neg (ne_true_of_eq_false h)]

/-- A node held in device reset is not live. -/
theorem live_unreleased (h : released s = false) : live s = false := by
  rw [live, (Bool.or_eq_false_iff.mp h).1, Bool.false_and]

end

/-- Settles O45: a step runs the command in front or idles, and an idle node is live or not, released or not. -/
theorem stepRunsTheFrontCommand : Obligations.StepRunsTheFrontCommand := by
  refine ⟨?front, ?idleLive, ?idleCounts, ?idleHeld⟩
  case front => exact fun _ _ _ h => step_pending h
  case idleLive => exact fun _ h hl => (step_idle h).trans (congrArg _ (idle_live hl))
  case idleCounts =>
    intro s h hrel hnothing
    have hidle : idle s = countTime s := hnothing.elim idle_dead (fun ⟨hue, hmaps⟩ => idle_nothingDue hue hmaps)
    rw [step_idle h, hidle, countTime_released hrel]
  case idleHeld =>
    intro s h hrel
    rw [step_idle h, idle_dead (live_unreleased hrel), countTime_unreleased hrel]

end Sys2Proof.Machine

/-! # How queries enter, wait and are refused; the statement O12 -/

namespace Sys2Proof.Machine

section
variable {s b w : State} {c : Cmd} {m : Msg} {payload : List Byte} {u : Upsets} {ds : List (QDesc × List Byte)} {req : Nat}

/-! ## ATTN_QUERY (R172, R177, R447) -/

/-- ATTN_QUERY with descriptors that can be read, whose records fit its result, is served descriptor by descriptor. -/
theorem execAttnQuery_serves (h : Serves c payload.length s b w) (hds : readQuery payload = some ds)
    (hroom : fullResult ds ≤ resultRoom w c) : execAttnQuery c payload u s = .next (
      let o := openBatch (.cmd c) (vnodeOf w c) ds.length (applyUpsets u w)
      serveDescs o.1 (vnodeOf w c) (knobsOf w c) c.hdr.mapEpoch (mapFor w (vnodeOf w c) c.hdr.mapEpoch).isSome (stallOf w c) ds o.2) := by
  have ⟨_, _, _, hlen⟩ := h
  rw [execAttnQuery, runVerb_serves h]
  simp only [hds, hlen, ne_eq, not_true_eq_false, if_false, Nat.not_lt.mpr hroom, finish_later]

/-! ## QUERY (R342, R343, R375) -/

/-- Whether a QUERY comes from a fenced node or reaches one (R375). -/
def queryFenced (m : Msg) (s : State) : Bool := isFenced s m.vnode m.sender || selfFenced s m.vnode

/-- A QUERY that is the next of its queue pair, of a known sender, with descriptors that can be read and a stride for their records, is served
descriptor by descriptor, or, where it is fenced, refused so. -/
theorem execQuery_readable (hl : live s = true) (ha : admits s m opQuery (fun p => decide (p = payload)) = true)
    (hpeer : hasPeer (takeMsg m s) m.vnode m.sender = true) (hds : readQuery payload = some ds) (hunit : m.aux.toNat % 64 = 0)
    (hstride : longestRecord ds ≤ m.aux.toNat) : execQuery m payload u s = .next (
      if queryFenced m (takeMsg m s) then fenceDescs m m.aux.toNat ds (takeMsg m s)
      else
        let t := takeMsg m s
        let o := openBatch (.msg m m.aux.toNat) m.vnode ds.length (applyUpsets u t)
        serveDescs o.1 m.vnode (msgKnobs s m) m.mapEpoch (mapFor t m.vnode m.mapEpoch).isSome
          (((t.fab.qps.at? m.qpn).map Qp.stallUs).getD 0) ds o.2) := by
  have hfits : ¬(m.aux.toNat % 64 ≠ 0 ∨ m.aux.toNat < longestRecord ds) := by omega
  rw [execQuery, onMsg_admits hl ha]
  simp only [hpeer, Bool.not_true, Bool.false_eq_true, if_false, hds]
  exact congrArg _ (if_neg hfits)

/-- A QUERY whose message cannot be read, and that no fence meets, is answered ST_BAD_PARAM by one record. -/
theorem execQuery_unreadable (hl : live s = true) (ha : admits s m opQuery (fun p => decide (p = payload)) = true)
    (hpeer : hasPeer (takeMsg m s) m.vnode m.sender = true) (hfence : queryFenced m (takeMsg m s) = false)
    (hnone : readQuery payload = none) : execQuery m payload u s = .next (refuseQuery m payload stBadParam (takeMsg m s)) := by
  unfold queryFenced at hfence
  rw [execQuery, onMsg_admits hl ha]
  simp only [hpeer, Bool.not_true, Bool.false_eq_true, if_false, hnone, hfence]

/-- A QUERY that is not the next of its queue pair leaves the node as it is. -/
theorem execQuery_outOfTurn (hl : live s = true) (ha : admits s m opQuery (fun p => decide (p = payload)) = false) :
    execQuery m payload u s = .next s := by
  rw [execQuery, onMsg, onNode_live hl, ha, if_neg Bool.false_ne_true]

/-! ## Waits that end (R218, R310) -/

variable {q : AttnReq}

/-- A request whose wait for admission ends is told when to come again. -/
theorem execAttnAdmitTimeout_waiting (hl : live s = true) (hq : s.attn.reqs.at? req = some q) (hwait : q.phase = .waiting) :
    execAttnAdmitTimeout req s
      = .next (failReq req stRetryAfter (max 1 (takeEstimate s).1) (bump .attnAdmitRetries (takeEstimate s).2)) := by
  rw [execAttnAdmitTimeout, onNode_live hl]
  simp only [hq, hwait, if_true]

/-- A request that still waits for a page when its promotion wait ends is told when to come again. -/
theorem execPromoteStallExpiry_missing (hl : live s = true) (hq : s.attn.reqs.at? req = some q)
    (hmissing : q.pages.any (fun p => p.missing) = true) : execPromoteStallExpiry req s
      = .next (failReq req stRetryAfter (max 1 (takeEstimate s).1) (bump .promoteRetryAnswers (takeEstimate s).2)) := by
  rw [execPromoteStallExpiry, onNode_live hl]
  simp only [hq, hmissing, if_true]

end

/-- Settles O12: each row by the equation of its meaning above, on the branch that the clause's conditions choose. -/
theorem queryEntryCompletes : Obligations.QueryEntryCompletes := by
  refine ⟨?attnQuery, ?served, ?fenced, ?unreadable, ?outOfTurn, ?reserve, ?admitTimeout, ?stallExpiry⟩
  case attnQuery => exact fun _ _ _ _ _ _ _ h hds hroom => execAttnQuery_serves h hds hroom
  case served =>
    intro m payload u s ds hl ha hpeer hds hunit hstride hsender hself
    have hfree : queryFenced m (takeMsg m s) = false := Bool.or_eq_false_iff.mpr ⟨hsender, hself⟩
    exact (execQuery_readable hl ha hpeer hds hunit hstride).trans (congrArg _ (if_neg (Bool.eq_false_iff.mp hfree)))
  case fenced =>
    intro m payload u s ds hl ha hpeer hds hunit hstride hfence
    have hfenced : queryFenced m (takeMsg m s) = true := (Bool.or_eq_true _ _).mpr hfence
    exact (execQuery_readable hl ha hpeer hds hunit hstride).trans (congrArg _ (if_pos hfenced))
  case unreadable =>
    exact fun _ _ _ _ hl ha hpeer hsender hself hnone =>
      execQuery_unreadable hl ha hpeer (Bool.or_eq_false_iff.mpr ⟨hsender, hself⟩) hnone
  case outOfTurn => exact fun _ _ _ _ hl ha => execQuery_outOfTurn hl ha
  case reserve => exact fun _ _ hl => onNode_live hl
  case admitTimeout => exact fun _ _ _ hl hq hwait => execAttnAdmitTimeout_waiting hl hq hwait
  case stallExpiry => exact fun _ _ _ hl hq hmissing => execPromoteStallExpiry_missing hl hq hmissing

end Sys2Proof.Machine

/-! # Masks: mask sets entered, filled, dropped and freed, and tiles whose write meets link errors; the statement O5 -/

namespace Sys2Proof.Machine

section
variable {s b w t u z s1 : State} {c : Cmd} {v : VId} {handle : Handle} {span : SpanIx} {rec k : FrameId} {x y : Bool}

/-! ## KV_MASK_SET (R208, R210, R455) -/

/-- The mask set in its new frame: every tile entry of the initial kind, MASK_ROWS in the annex, and the record. -/
def maskSetStored (v : VId) (handle : Handle) (span rows kind cols : Nat) (f : FrameId) (s : State) : State :=
  let z := hbmWrite (frameBase f + annexAt) (leBytes 2 rows)
    (hbmWrite (frameBase f) ((List.replicate (rows / 128 * cols) (leBytes 4 (kind * 2 ^ 30))).flatten)
      (deleteWhere v handle (fun e => decide (e.kind = kMaskTomb) && decide (e.span = span)) s))
  { z with masks := z.masks.put f ⟨v, handle, span, rows, cols⟩ }

/-- The checks of KV_MASK_SET's handle, and of its rows and initial kind (R455). -/
def maskSetFails (handle : Handle) (rows kind : Nat) : List (Bool × Nat) :=
  [(badHandle handle, 64), (decide (1 < kind) || decide (rows % 128 ≠ 0) || decide (rows < 128) || decide (8192 < rows), 75)]

theorem fieldsPass_maskSetFails {rows kind : Nat} (hhandle : badHandle handle = false) (hkind : kind ≤ 1) (hunit : rows % 128 = 0)
    (hlow : 128 ≤ rows) (hhigh : rows ≤ 8192) : fieldsPass (maskSetFails handle rows kind) = true := by
  simp [fieldsPass, maskSetFails, hhandle, hkind, hunit, hlow, hhigh]

/-- KV_MASK_SET of a span without a mask set enters one, within the limit of R206, in a new map frame. -/
theorem kvMaskSetRow_enters {maskRows : BitVec 14} {kind : BitVec 2} {q : SpanRec} (hs : Serves c 32 s b w) (hlinks : c.links = 0)
    (hf : fieldsPass (maskSetFails handle maskRows.toNat kind.toNat) = true)
    (hfind : findSpan (vnodeOf w c) handle span.toNat w = (.found rec x, t)) (hspan : spanAt t rec = some q)
    (hlimit : maskRows.toNat * q.geo.spanLen ≤ maskLimit) (hnone : maskOf t (vnodeOf w c) handle span.toNat = none)
    (hframe : newMapFrame (vnodeOf w c) .mask t = some (k, s1))
    (hins : insertRefusal s1 (dirEntry (vnodeOf w c) handle span.toNat kMask 0 k) = none) :
    kvMaskSetRow c handle span maskRows kind s = .next (complete c (Reply.st stOk) (mirrorSpan rec
      (acceptInsert (dirEntry (vnodeOf w c) handle span.toNat kMask 0 k)
        (maskSetStored (vnodeOf w c) handle span.toNat maskRows.toNat kind.toNat (q.geo.spanLen / 128) k s1)))) := by
  refine (runVerb_linked hs hlinks hf).trans ?_
  -- a variable for the refusal, as in `spanOpenRow_opens`
  obtain ⟨refusal, hrefusal⟩ : ∃ g, g = insertRefusal := ⟨_, rfl⟩
  rw [← hrefusal] at hins ⊢
  simp only [hfind, hspan, Nat.not_lt.mpr hlimit, hnone, Option.isSome_none, Bool.false_eq_true, if_false, hframe, hins, finish_st,
    maskSetStored]

/-! ## Writes that meet link errors (R145) -/

variable {body : State → Done} {d : Done} {r : Reply} {a : Nat}

/-- Link errors meet the work that a body does in the state at hand. -/
theorem linkDone_congr (h : body w = d) : linkDone c body w = linkDone c (fun _ => d) w := by
  simp only [linkDone, h]

/-- A write that meets one link error is sent once more; after a second one nothing of its command is done. -/
theorem linkDone_changed (hl : c.links ≠ 0) (ha : firstChanged w.mem.cells u.mem.cells = some a) :
    linkDone c (fun _ => .now r u) w
      = if c.links = 1 then .now r (resent a u) else .now (Reply.st stUncorrectable) (linkBroken a w) := by
  simp only [linkDone, Done.state, if_neg hl, ha, Done.map]

/-! ## KV_MASK_TILE (R208, R211, R456) -/

variable {row : BitVec 6} {col : BitVec 13} {tile : List Byte} {m : MaskRec}

/-- A tile for a place of a mask set: from `w` the searches find its span and then, in `z`, its mask record. -/
structure TileFits (v : VId) (handle : Handle) (span : SpanIx) (row : BitVec 6) (col : BitVec 13) (tile : List Byte) (k : FrameId)
    (m : MaskRec) (w z : State) : Prop where
  handleOk : badHandle handle = false
  length : tile.length = 2048
  found : ∃ rec x t y, findSpan v handle span.toNat w = (.found rec x, t) ∧ findMask v handle span.toNat t = (.found k y, z)
  record : z.masks.at? k = some m
  colFits : col.toNat < m.cols
  rowFits : row.toNat < m.rows / 128

/-- A tile's entry is written in `t`, and the slot that it named in `z` is retired. -/
def entryStored (k : FrameId) (m : MaskRec) (row : BitVec 6) (col : BitVec 13) (z : State) (entry : Nat) (t : State) : State :=
  retireMaskSlot (tileEntry z k m row.toNat col.toNat)
    (hbmWrite (frameBase k + 4 * (row.toNat * m.cols + col.toNat)) (leBytes 4 entry) t)

/-- A tile is written to a mask slot, which is thereby in use. -/
def slotStored (tile : List Byte) (p : FrameId) (i : Nat) (t : State) : State :=
  hbmWrite (frameBase p + 2048 * i) tile { t with maskPages := t.maskPages.upd p [] (fun t => t.put i ⟨true, []⟩) }

/-- What KV_MASK_TILE does with a tile that fits: one of ones or zeros is said by its entry alone, and any other takes a slot. -/
def tileDone (v : VId) (row : BitVec 6) (col : BitVec 13) (tile : List Byte) (k : FrameId) (m : MaskRec) (z : State) : Done :=
  if tile.all (· == 0xFF) then .now (Reply.st stOk) (entryStored k m row col z (2 ^ 30) z)
  else if allZero tile then .now (Reply.st stOk) (entryStored k m row col z 0 z)
  else match takeMaskSlot v z with
    | none => .refuse stNoSpace z
    | some (p, i, t) => .now (Reply.st stOk) (entryStored k m row col z (word [(30, 2), (4, p), (0, i)]) (slotStored tile p i t))

theorem tileDone_ones (h : tile.all (· == 0xFF) = true) :
    tileDone v row col tile k m z = .now (Reply.st stOk) (entryStored k m row col z (2 ^ 30) z) := if_pos h

/-- A tile with a byte is not both of ones and of zeros. -/
theorem not_ones_of_allZero (hlen : tile.length = 2048) (h : allZero tile = true) : tile.all (· == 0xFF) = false := by
  cases tile with
  | nil => cases hlen
  | cons a l =>
    obtain ⟨rfl, -⟩ : a = 0 ∧ ∀ x ∈ l, x = 0 := by simpa [allZero] using h
    rfl

theorem tileDone_zeros (hlen : tile.length = 2048) (h : allZero tile = true) :
    tileDone v row col tile k m z = .now (Reply.st stOk) (entryStored k m row col z 0 z) := by
  rw [tileDone, not_ones_of_allZero hlen h, if_neg Bool.false_ne_true, if_pos h]

theorem tileDone_slot {p : FrameId} {i : Nat} (hones : tile.all (· == 0xFF) = false) (hzeros : allZero tile = false)
    (hslot : takeMaskSlot v z = some (p, i, t)) : tileDone v row col tile k m z
      = .now (Reply.st stOk) (entryStored k m row col z (word [(30, 2), (4, p), (0, i)]) (slotStored tile p i t)) := by
  rw [tileDone, hones, hzeros, if_neg Bool.false_ne_true, if_neg Bool.false_ne_true, hslot]

/-- KV_MASK_TILE with a tile that fits does so, as the link lets it. -/
theorem kvMaskTileRow_fits (hs : Serves c 2080 s b w) (fits : TileFits (vnodeOf w c) handle span row col tile k m w z) :
    kvMaskTileRow c handle span row col tile s
      = .next (finish c b (linkDone c (fun _ => tileDone (vnodeOf w c) row col tile k m z) w)) := by
  have ⟨_, _, hrsv, hlen⟩ := hs
  obtain ⟨hhandle, hlength, ⟨rec, x, t, y, hspan, hmask⟩, hrecord, hcol, hrow⟩ := fits
  have hfields : fieldsPass [(badHandle handle, 64), (decide (tile.length ≠ 2048), 12)] = true := by
    simp [fieldsPass, hhandle, hlength]
  rw [kvMaskTileRow, runVerb_serves hs, linkDone_congr (d := tileDone (vnodeOf w c) row col tile k m z) ?work]
  case work =>
    rw [withParams_pass hrsv hlen hfields]
    simp only [hspan, hmask, hrecord, Nat.not_le.mpr hcol, Nat.not_le.mpr hrow, if_false]
    rfl

/-- A tile that is stored with no link error completes the command. -/
theorem exec_kvMaskTile_stored (hs : Serves c 2080 s b w) (hfills : AllFill s) (hlinks : c.links = 0)
    (fits : TileFits (vnodeOf w c) handle span row col tile k m w z)
    (hdone : tileDone (vnodeOf w c) row col tile k m z = .now (Reply.st stOk) u) :
    exec (.kvMaskTile c handle span row col tile) s = .next (settleUe (complete c (Reply.st stOk) u)) := by
  refine filling_of hs.1 hfills ((kvMaskTileRow_fits hs fits).trans ?_)
  rw [linkDone_none hlinks, hdone, finish_st]

/-- A tile whose write meets link errors is stored after one, and after two the command fails. -/
theorem exec_kvMaskTile_linkErrors (hs : Serves c 2080 s b w) (hfills : AllFill s) (hlinks : c.links ≠ 0)
    (fits : TileFits (vnodeOf w c) handle span row col tile k m w z)
    (hdone : tileDone (vnodeOf w c) row col tile k m z = .now (Reply.st stOk) u)
    (ha : firstChanged w.mem.cells u.mem.cells = some a) :
    exec (.kvMaskTile c handle span row col tile) s = .next (settleUe (
      if c.links = 1 then complete c (Reply.st stOk) (resent a u) else complete c (Reply.st stUncorrectable) (linkBroken a w))) := by
  refine filling_of hs.1 hfills ((kvMaskTileRow_fits hs fits).trans (congrArg _ ?_))
  rw [hdone, linkDone_changed hlinks ha]
  split
  · rw [finish_st]
  · rw [finish_st]

/-! ## KV_MASK_DROP and MASK_SLOT_FREE (R210, R211) -/

/-- KV_MASK_DROP of a span with a mask set takes the set away, and the mark that it was lost. -/
theorem execKvMaskDrop_drops {p : Target} (hs : Serves c 32 s b w) (hcount : p.spanCount = 1)
    (hf : fieldsPass (targetFails p ⟨true, false, false, false, false⟩) = true)
    (hspan : findSpan (vnodeOf w c) p.handle p.spanFirst.toNat w = (.found rec x, u))
    (hmask : findMask (vnodeOf w c) p.handle p.spanFirst.toNat u = (.found k y, z)) :
    execKvMaskDrop c p s = .next (complete c (Reply.st stOk)
      (mirrorSpan rec (updSpan rec (fun r => { r with maskLost := false }) (dropMask k z)))) := by
  have hfields : fieldsPass ((decide (p.spanCount ≠ 1), 72) :: targetFails p ⟨true, false, false, false, false⟩) = true := by
    rw [fieldsPass] at hf
    simp only [fieldsPass, List.all_cons, hf, hcount, ne_eq, not_true_eq_false, decide_false, Bool.not_false, Bool.and_self]
  rw [execKvMaskDrop, runVerb_pass hs hfields]
  simp only [hspan, hmask, finish_st]

/-- A replaced slot is freed once no query admitted before is left. -/
theorem execMaskSlotFree_ended {frame : BitVec 24} {slot : BitVec 4} {e : MaskSlot} (hl : live s = true)
    (hslot : (s.maskPages.atD frame.toNat []).at? slot.toNat = some e) (hreplaced : e.live = false)
    (hended : queriesEnded s e.readers = true) : execMaskSlotFree frame slot s = .next (freeMaskSlot frame.toNat slot.toNat s) := by
  rw [execMaskSlotFree, onNode_live hl]
  simp only [hslot, hreplaced, hended, Bool.not_false, and_self, if_true]

end

/-- Settles O5: each command by the equation of its meaning above; of a tile, by what `tileDone` makes of its bytes. -/
theorem maskCommandsComplete : Obligations.MaskCommandsComplete := by
  refine ⟨?set, ?tile, ?linkErrors, ?drop, ?slotFree⟩
  case set =>
    exact fun _ _ _ _ _ _ _ _ _ _ _ _ _ _ hs hfills hlinks hhandle hkind hunit hlow hhigh hfind hspan hlimit hnone hframe hins =>
      filling_of hs.1 hfills (kvMaskSetRow_enters hs hlinks (fieldsPass_maskSetFails hhandle hkind hunit hlow hhigh) hfind hspan hlimit
        hnone hframe hins)
  case tile =>
    intro c handle span row col tile s b w rec x t k y z m hs hfills hlinks hhandle hlen hspan hmask hrecord hcol hrow
    have fits : TileFits (vnodeOf w c) handle span row col tile k m w z := ⟨hhandle, hlen, ⟨rec, x, t, y, hspan, hmask⟩, hrecord, hcol, hrow⟩
    exact ⟨fun hones => exec_kvMaskTile_stored hs hfills hlinks fits (tileDone_ones hones),
      fun hzeros => exec_kvMaskTile_stored hs hfills hlinks fits (tileDone_zeros hlen hzeros),
      fun p i z1 hones hzeros hslot => exec_kvMaskTile_stored hs hfills hlinks fits (tileDone_slot hones hzeros hslot)⟩
  case linkErrors =>
    intro c handle span row col tile s b w rec x t k y z m a hs hfills hhandle hlen hones hspan hmask hrecord hcol hrow u ha
    have fits : TileFits (vnodeOf w c) handle span row col tile k m w z := ⟨hhandle, hlen, ⟨rec, x, t, y, hspan, hmask⟩, hrecord, hcol, hrow⟩
    have hexec := fun hlinks => exec_kvMaskTile_linkErrors hs hfills hlinks fits (tileDone_ones hones) ha
    refine ⟨fun honce => (hexec ?one).trans ?resent, fun htwice => (hexec ?more).trans ?broken⟩
    case one => omega
    case more => omega
    case resent => rw [if_pos honce]; rfl
    case broken => rw [if_neg (by omega)]
  case drop => exact fun _ _ _ _ _ _ _ _ _ _ _ hs hcount hf hspan hmask => execKvMaskDrop_drops hs hcount hf hspan hmask
  case slotFree => exact fun _ _ _ _ hl hslot hreplaced hended => execMaskSlotFree_ended hl hslot hreplaced hended

end Sys2Proof.Machine

/-! # Empty rows in a merge; the statement O58 -/

namespace Sys2Proof.Machine

section
variable {x y : F32} {a b : RowPart} {tick salt : Nat}

/-! ## Binary32 minus infinity, zero and differences (R107) -/

theorem F32.exists_fin (h : F32.isFin x = true) : ∃ n m, F32.val x = .fin n m := by
  unfold F32.isFin at h
  cases hx : F32.val x with
  | fin n m => exact ⟨n, m, rfl⟩
  | inf n => simp [hx, FV.isFin] at h
  | nan => simp [hx, FV.isFin] at h

theorem F32.val_negInf : F32.val f32NegInf = .inf true := by decide +kernel

theorem F32.val_of_zero (n : Bool) : F32.val (F32.of (.fin n 0)) = .fin n 0 := by
  cases n <;> decide +kernel

theorem F32.val_zero : F32.val 0 = .fin false 0 := by decide +kernel

theorem ne_negInf_of_isFin (h : F32.isFin x = true) : x ≠ f32NegInf := by
  rintro rfl
  rw [F32.isFin, F32.val_negInf] at h
  cases h

theorem FV.rat_add_rat_not (n : Bool) (m : Rat) : (FV.fin n m).rat + (FV.fin (!n) m).rat = 0 := by
  cases n with
  | false => exact Rat.add_neg_cancel m
  | true => exact Rat.neg_add_cancel m

/-- A finite value less itself is +0: two zeros of opposite signs, or an exact cancellation. -/
theorem FV.add_neg_self (n : Bool) (m : Rat) : (FV.fin n m).add (FV.fin n m).neg = .fin false 0 := by
  rw [FV.neg, FV.add]
  split
  · rw [Bool.and_not_self]
  · rw [FV.rat_add_rat_not, FV.ofRat, if_neg Rat.lt_irrefl]

theorem f32sub_self (h : F32.isFin x = true) : f32sub x x = F32.of (.fin false 0) := by
  obtain ⟨n, m, hx⟩ := F32.exists_fin h
  rw [f32sub, hx, FV.add_neg_self]

theorem f32max_negInf_left (h : F32.isFin y = true) : f32max f32NegInf y = y := by
  obtain ⟨n, m, hy⟩ := F32.exists_fin h
  simp [f32max, f32lt, F32.val_negInf, hy]

theorem f32max_negInf_right (h : F32.isFin x = true) : f32max x f32NegInf = x := by
  obtain ⟨n, m, hx⟩ := F32.exists_fin h
  simp [f32max, f32lt, F32.val_negInf, hx]

theorem f32max_self (x : F32) : f32max x x = x := ite_self x

theorem isFin_f32max (hx : F32.isFin x = true) (hy : F32.isFin y = true) : F32.isFin (f32max x y) = true := by
  rw [f32max]
  split
  · exact hy
  · exact hx

/-- Zero times a finite value is a zero, of either sign. -/
theorem rat_f32mul_zero (h : F32.isFin x = true) : F32.rat (f32mul 0 x) = 0 := by
  obtain ⟨n, m, hx⟩ := F32.exists_fin h
  have hmul : (F32.val 0).mul (F32.val x) = .fin (false != n) 0 := by rw [F32.val_zero, hx, FV.mul, Rat.zero_mul]
  rw [F32.rat, f32mul, hmul, F32.val_of_zero]
  cases n <;> rfl

/-! ## The rescale factor and the merged row (R230–R232) -/

theorem isEmptyRow_iff : isEmptyRow a = true ↔ a.m = f32NegInf := decide_eq_true_iff

/-- An empty row's factor is exactly zero, whatever the new maximum, and it does not absorb. -/
theorem mergeFactor_empty (h : isEmptyRow a = true) : mergeFactor tick salt a.m y = (0, false) := if_pos (isEmptyRow_iff.mp h)

/-- The factor of a row whose own maximum stands is exactly one. -/
theorem mergeFactor_self (h : F32.isFin x = true) : mergeFactor tick salt x x = (f32One, false) := by
  rw [mergeFactor, if_neg (ne_negInf_of_isFin h)]
  simp only [f32sub_self h, F32.val_of_zero, if_true]

/-- Two rows merged under a maximum and a factor for each: SCALE fields and OUT are scaled and summed, ADD fields are summed (R227, R232). -/
def scaledRow (m fa fb : F32) (a b : RowPart) : RowPart :=
  let mix (x y : F32) : F32 := f32add (f32mul fa x) (f32mul fb y)
  ⟨m, mix a.l b.l, f32add a.scoreRef b.scoreRef, f32add a.scoreSum b.scoreSum, mix a.outSum b.outSum, f32add a.scoreAbs b.scoreAbs,
    mix a.outAbs b.outAbs, mix a.outRef b.outRef, min (2 ^ 64 - 1) (a.unmasked + b.unmasked), (a.out.zip b.out).map (fun p => mix p.1 p.2)⟩

/-- Unless both rows are empty, each is scaled by its factor towards the larger maximum. -/
theorem mergeRow_scaled (h : ¬(isEmptyRow a = true ∧ isEmptyRow b = true)) {fa fb : F32 × Bool}
    (ha : mergeFactor tick (2 * salt) a.m (f32max a.m b.m) = fa)
    (hb : mergeFactor tick (2 * salt + 1) b.m (f32max a.m b.m) = fb) :
    mergeRow tick salt a b = (scaledRow (f32max a.m b.m) fa.1 fb.1 a b, b2n fa.2 + b2n fb.2) := by
  subst ha hb
  rw [mergeRow, if_neg h]
  rfl

/-- A row with a maximum, merged with an empty one before it, keeps its maximum and its factor is one. -/
theorem mergeRow_empty_left (ha : isEmptyRow a = true) (hb : F32.isFin b.m = true) :
    mergeRow tick salt a b = (scaledRow b.m 0 f32One a b, 0) := by
  have hm : f32max a.m b.m = b.m := by rw [isEmptyRow_iff.mp ha, f32max_negInf_left hb]
  have hfb : mergeFactor tick (2 * salt + 1) b.m (f32max a.m b.m) = (f32One, false) := by rw [hm, mergeFactor_self hb]
  have hnot : ¬(isEmptyRow a = true ∧ isEmptyRow b = true) := fun h => ne_negInf_of_isFin hb (isEmptyRow_iff.mp h.2)
  rw [mergeRow_scaled hnot (mergeFactor_empty ha) hfb, hm]
  rfl

/-- The same with the empty row behind it. -/
theorem mergeRow_empty_right (ha : F32.isFin a.m = true) (hb : isEmptyRow b = true) :
    mergeRow tick salt a b = (scaledRow a.m f32One 0 a b, 0) := by
  have hm : f32max a.m b.m = a.m := by rw [isEmptyRow_iff.mp hb, f32max_negInf_right ha]
  have hfa : mergeFactor tick (2 * salt) a.m (f32max a.m b.m) = (f32One, false) := by rw [hm, mergeFactor_self ha]
  have hnot : ¬(isEmptyRow a = true ∧ isEmptyRow b = true) := fun h => ne_negInf_of_isFin ha (isEmptyRow_iff.mp h.1)
  rw [mergeRow_scaled hnot hfa (mergeFactor_empty hb), hm]
  rfl

/-- The merged maximum is the larger of the two, between two empty rows too. -/
theorem mergeRow_m : (mergeRow tick salt a b).1.m = f32max a.m b.m := by
  by_cases h : isEmptyRow a = true ∧ isEmptyRow b = true
  · rw [mergeRow, if_pos h, isEmptyRow_iff.mp h.1, isEmptyRow_iff.mp h.2, f32max_self]
  · rw [mergeRow_scaled h rfl rfl]
    rfl

/-- Of two maxima, each minus infinity or finite, the larger is minus infinity only where both are. -/
theorem f32max_eq_negInf_iff (hx : x = f32NegInf ∨ F32.isFin x = true) (hy : y = f32NegInf ∨ F32.isFin y = true) :
    f32max x y = f32NegInf ↔ x = f32NegInf ∧ y = f32NegInf := by
  rcases hx with rfl | hx <;> rcases hy with rfl | hy
  · simp [f32max_self]
  · simp [f32max_negInf_left hy]
  · simp [f32max_negInf_right hx]
  · simp [ne_negInf_of_isFin hx, ne_negInf_of_isFin (isFin_f32max hx hy)]

end

/-- Settles O58: the maximum that stands is the other row's own, so that its factor is one (`mergeRow_empty_left`, `mergeRow_empty_right`); the
merged maximum is the larger of the two, and so minus infinity only where both are. -/
theorem emptyRowsMergeToNothing : Obligations.EmptyRowsMergeToNothing := by
  refine ⟨?emptyLeft, ?emptyRight, ?emptyBoth, ?zero⟩
  case emptyLeft =>
    intro tick salt a b ha hb
    rw [mergeRow_empty_left ha hb]
    exact ⟨rfl, rfl⟩
  case emptyRight =>
    intro tick salt a b ha hb
    rw [mergeRow_empty_right ha hb]
    exact ⟨rfl, rfl⟩
  case emptyBoth =>
    intro tick salt a b ha hb
    rw [isEmptyRow_iff] at ha hb
    rw [isEmptyRow_iff, isEmptyRow_iff, isEmptyRow_iff, mergeRow_m, f32max_eq_negInf_iff ha hb]
  case zero => exact fun _ h => rat_f32mul_zero h

end Sys2Proof.Machine

/-! # Merges, fan-outs and sub-queries that do not answer; the statement O14 -/

namespace Sys2Proof.Machine

section
variable {s b w : State} {c : Cmd} {payload : List Byte} {ds : List (QDesc × List Byte)}

/-! ## ATTN_MERGE (R234, R240–R242) -/

/-- ATTN_MERGE of inputs that pass R241 answers the merged record and counts it. -/
theorem execAttnMerge_accepted {xs : List MergeInput} (h : Serves c payload.length s b w) (hxs : checkMerge payload = .inl xs) :
    execAttnMerge c payload s = .next (
      let m := mergeInputs w.tick (vn w (vnodeOf w c)).nodeId (readMergeDesc payload) xs
      finish c b (.now (batchReply [recordBytes m.1.1 m.1.2])
        (bumpBy .mergeInputs xs.length (bump .mergeCommands (bumpBy .rowsAbsorbed m.2 { w with tick := w.tick + 1 }))))) := by
  have ⟨_, _, _, hlen⟩ := h
  rw [execAttnMerge, runVerb_serves h]
  simp only [hlen, ne_eq, not_true_eq_false, if_false, hxs]

/-- Inputs that fail it are answered by a status-only record, and nothing is counted. -/
theorem execAttnMerge_refused {st : Status} {detail : BitVec 16} (h : Serves c payload.length s b w)
    (hfail : checkMerge payload = .inr (st, detail)) : execAttnMerge c payload s = .next (finish c b (.now
      { batchReply [hdrBytes (mergeRefusal w (vnodeOf w c) payload st)] with status := st, detail := detail } w)) := by
  have ⟨_, _, _, hlen⟩ := h
  rw [execAttnMerge, runVerb_serves h]
  simp only [hlen, ne_eq, not_true_eq_false, if_false, hfail]

/-! ## ATTN_QUERY_FANOUT (R177, R244, R245) -/

/-- The next descriptor of a fan-out, where it passes the checks of R177: refused under a stale map epoch, else searched for and fanned out. -/
def fanNext (c : Cmd) (w : State) (b : Nat) (t : State) (p : Nat × QDesc × List Byte) : State :=
  if (mapFor t (vnodeOf w c) c.hdr.mapEpoch).isNone then
    refuseFan b p.1 (vnodeOf w c) p.2.1 stStaleMap none 0 (bumpV .staleMapAnswers (vnodeOf w c) t)
  else fanDesc (takeId t).1 c b p.1 (vnodeOf w c) p.2.1 p.2.2 (knobsOf w c) (stallOf w c) (takeId t).2

/-- No element of queries that are all finite is found not to be. -/
theorem any_not_isFin {rows : List (List F32)} (h : rows.all (fun x => x.all F32.isFin) = true) :
    rows.any (fun x => x.any (fun e => !(F32.isFin e))) = false := by
  simpa [List.all_eq_true, List.any_eq_false] using h

/-- ATTN_QUERY_FANOUT of descriptors that pass their checks, and whose records fit its result, takes them up one by one. -/
theorem execAttnQueryFanout_serves (h : Serves c payload.length s b w) (hds : readQuery payload = some ds)
    (hroom : fullResult ds ≤ resultRoom w c)
    (hpass : ∀ p ∈ ds, queryStep1 p.1 = true ∧ (queryRows p.1 p.2).all (fun x => x.all F32.isFin) = true) :
    execAttnQueryFanout c payload s = .next (
      let o := openBatch (.cmd c) (vnodeOf w c) ds.length w
      dispatchBatch o.1 (((List.range ds.length).zip ds).foldl (fanNext c w o.1) o.2)) := by
  have ⟨_, _, _, hlen⟩ := h
  rw [execAttnQueryFanout, runVerb_serves h]
  simp only [hds, hlen, ne_eq, not_true_eq_false, if_false, Nat.not_lt.mpr hroom, finish_later]
  refine congrArg _ (congrArg _ (List.foldl_rel (r := Eq) rfl ?_))
  rintro p hp t _ rfl
  obtain ⟨hstep, hfinite⟩ := hpass p.2 (List.of_mem_zip hp).2
  simp only [hstep, any_not_isFin hfinite, Bool.not_true, Bool.false_eq_true, or_self, if_false]
  rfl

/-! ## FANOUT_TIMEOUT (R247) -/

/-- A sub-query that still waits when its time ends gives up its region, and has failed with ST_TIMEOUT of its node. -/
theorem execFanoutTimeout_waiting {fanout sub : Nat} {f : Fanout} {x : FanSub} {z : List Byte} (hl : live s = true)
    (hf : s.attn.fanouts.at? fanout = some f) (hx : f.subs[sub]? = some x) (hwait : x.ans = .waiting z) :
    execFanoutTimeout fanout sub s = .next (fanFinish fanout (setSub fanout sub (.failed stTimeout x.node 0)
      { s with regions := s.regions.filter (fun r => decide (r.2.use ≠ .fanout fanout sub)) })) := by
  rw [execFanoutTimeout, onNode_live hl]
  simp only [hf, hx, hwait]

end

/-- Settles O14: each row by the equation of its meaning above; ATTN_MERGE by what R241 makes of its inputs. -/
theorem mergeAndFanoutComplete : Obligations.MergeAndFanoutComplete := by
  refine ⟨?merge, ?fanout, ?timeout⟩
  case merge =>
    intro c payload s b w h
    cases hcheck : checkMerge payload with
    | inl xs => exact execAttnMerge_accepted h hcheck
    | inr refusal => exact execAttnMerge_refused h hcheck
  case fanout => exact fun _ _ _ _ _ _ h hds hroom hpass => execAttnQueryFanout_serves h hds hroom hpass
  case timeout => exact fun _ _ _ _ _ _ hl hf hx hwait => execFanoutTimeout_waiting hl hf hx hwait

end Sys2Proof.Machine

/-! # Verification and repair of content, coverage, and SPAN.RESET; the statement O11 -/

namespace Sys2Proof.Machine

section
variable {s b w u z t : State} {c : Cmd} {h : PeerHdr} {p : PageRef} {f : FrameId} {x : Page} {r : SpanRec} {ups : Upsets}
  {layer head page : Nat} {digest hash bs : List Byte}

/-! ## Scheduled read-verify and SCRUB.VERIFY (R278, R279, R451) -/

/-- One page of a pass verified and taken off the pass, with the pages that have left it. -/
def passVerified (p : PageRef) (ups : Upsets) (s : State) : State :=
  dropLeft (verifyPage p (applyUpsets ups { s with hbm := { s.hbm with verifyLeft := s.hbm.verifyLeft.filter (fun q => q ≠ p) } }))

/-- Under FULL_VERIFY a page still due is verified; a late pass that this ends is followed by the next. -/
theorem execReadVerify_due (hl : live s = true) (hmode : s.hbm.verifyMode = 2) (hdue : stillDue (dropLeft s) p = true) :
    execReadVerify p ups s = .next (
      let t := passVerified p ups (dropLeft s)
      if t.hbm.verifyLate ∧ t.hbm.verifyLeft.isEmpty then startVerify t else t) := by
  have hpass : (dropLeft s).hbm.verifyMode = 2 ∧ stillDue (dropLeft s) p = true := ⟨hmode, hdue⟩
  rw [execReadVerify, onNode_live hl]
  simp only [if_pos hpass]
  rfl

/-- The state after every page that a target names in some records has been verified. -/
def verifyTargets (tgt : Target) (fs : List FrameId) (s : State) : State :=
  (fs.flatMap (targetPages s tgt)).foldl (fun s p => verifyPage p s) s

/-- The records of a virtual node. -/
def vnodeRecords (s : State) (v : VId) : List FrameId := (s.spans.filter (fun p => decide (p.2.vnode = v))).map Prod.fst

section
variable {tgt : Target} (hs : Serves c 32 s b w) (hf : fieldsPass (targetFails tgt ⟨true, true, true, false, false⟩) = true)
include hs hf

theorem execScrubVerify_node (hscope : tgt.scope = 2) :
    execScrubVerify c tgt s = .next (complete c (Reply.st stOk) (verifyTargets tgt (vnodeRecords w (vnodeOf w c)) w)) := by
  rw [execScrubVerify, runVerb_pass hs hf]
  simp only [hscope, if_true, finish_st]
  rfl

theorem execScrubVerify_spans {fs : List FrameId} (hscope : tgt.scope ≠ 2)
    (hfind : verifySpans (vnodeOf w c) tgt.handle (targetSpans tgt) w = (.inl fs, z)) :
    execScrubVerify c tgt s = .next (complete c (Reply.st stOk) (verifyTargets tgt fs z)) := by
  rw [execScrubVerify, runVerb_pass hs hf]
  simp only [hscope, if_false, hfind, finish_st]
  rfl

end

/-! ## TWIN.VERIFY (R282, R283) -/

/-- A holder's answer to VERIFY_REQ: the hash and content of its copy, where it reads, under the recorded digest of its page. -/
def answerVerify (h : PeerHdr) (layer head page : Nat) (x : Page) (own : Option (List Byte)) (content : List Byte) (s : State) : State :=
  sendPeer h.vnode h.sender true h.handle h.span.toNat (.verifyResp layer head page x.digest own content) none (ackPeer h stOk 0 s)

/-- What the holder of a sealed copy makes of the other's digest and hash, once its own content has been read (R283): neither copy is preferred
where the recorded digests differ or both contents do; a copy that differs alone waits for its rewriting. -/
def judgeCopy (p : PageRef) (x : Page) (bs digest hash : List Byte) (t : State) : State :=
  if contentHash x bs = x.digest then
    (if digest ≠ x.digest then divergent p x.digest digest (contentHash x bs) hash t else notAwaiting p t)
  else
    let t := if (awaited t p).isNone then endReaders p x (contentHash x bs) t else t
    if digest ≠ x.digest ∨ hash ≠ x.digest then divergent p x.digest digest (contentHash x bs) hash t
    else awaitPage p (some (contentHash x bs)) t

/-- The holder of a copy answers VERIFY_REQ, and judges its copy where it reads. -/
def answerCopy (h : PeerHdr) (layer head page : Nat) (p : PageRef) (x : Page) (fmt : Nat) (digest hash : List Byte) (s : State) : State :=
  let c := readCopy 4 fmt x s
  match c.1 with
  | .reads bs =>
    let t := answerVerify h layer head page x (some (contentHash x bs)) bs c.2
    if x.isSealed = false ∨ hash = [] ∨ x.poison.isSome then t else judgeCopy p x bs digest hash t
  | _ => if x.held || x.isPlain then pageUnreadable p (answerVerify h layer head page x none [] c.2)
    else answerVerify h layer head page x none [] c.2

/-- The model's order of the cases of R283, in which the other's digest is looked at first, comes to the same. -/
theorem judgeCopy_eq : judgeCopy p x bs digest hash t =
    let g := if contentHash x bs ≠ x.digest ∧ (awaited t p).isNone then endReaders p x (contentHash x bs) t else t
    if digest ≠ x.digest ∨ (contentHash x bs ≠ x.digest ∧ hash ≠ x.digest) then divergent p x.digest digest (contentHash x bs) hash g
    else if contentHash x bs ≠ x.digest then awaitPage p (some (contentHash x bs)) g
    else notAwaiting p g := by
  by_cases hmine : contentHash x bs = x.digest
  · simp only [judgeCopy, hmine, ne_eq, not_true_eq_false, false_and, or_false, if_true, if_false]
  · simp only [judgeCopy, hmine, ne_eq, not_false_eq_true, true_and, if_true, if_false]

section
variable (m : Met h .twin s) (hrec : verifyRecord (takePeer h.sender s) h = some f)
  (hpage : pageAt (takePeer h.sender s) ⟨f, layer, head, page⟩ = some x) (hspan : spanAt (takePeer h.sender s) f = some r)
include m hrec hpage hspan

/-- The holder of the SPAN entry that is told of a mismatch resolves the page. -/
theorem execVerifyReq_resolves (hcopy : r.copy = false) (hhash : hash ≠ []) :
    execVerifyReq h layer head page digest hash ups s
      = .next (resolvePage ⟨f, layer, head, page⟩ (ackPeer h stOk 0 (applyUpsets ups (takePeer h.sender s)))) := by
  have hown : (!r.copy) = true ∧ (!hash.isEmpty) = true := by simp [hcopy, hhash]
  rw [execVerifyReq, onPeer_met m]
  simp only [hrec, hpage, hspan, if_pos hown]

/-- The holder of a copy, and whoever is asked for content alone, answers. -/
theorem execVerifyReq_answers (hcopy : r.copy = true ∨ hash = []) :
    execVerifyReq h layer head page digest hash ups s = .next (
      answerCopy h layer head page ⟨f, layer, head, page⟩ x r.geo.fmt digest hash (applyUpsets ups (takePeer h.sender s))) := by
  have hother : ¬((!r.copy) = true ∧ (!hash.isEmpty) = true) := by
    rcases hcopy with hcopy | rfl
    · simp [hcopy]
    · simp
  rw [execVerifyReq, onPeer_met m]
  simp only [hrec, hpage, hspan, if_neg hother]
  simp only [answerCopy, judgeCopy_eq, Bool.not_eq_true', List.isEmpty_iff]
  rfl

end

/-- VERIFY_RESP compares the copies of the span held here, its own before one held for the twin. -/
theorem execVerifyResp_compares {own : Option (List Byte)} (m : Met h .twin s) (hlinks : h.links = 0)
    (hown : (ownSpan (ackPeer h stOk 0 (takePeer h.sender s)) h.vnode h.handle h.span.toNat false).or
      (ownSpan (ackPeer h stOk 0 (takePeer h.sender s)) h.vnode h.handle h.span.toNat true) = some f) :
    execVerifyResp h layer head page digest own bs s = .next (afterForm (compareCopies ⟨f, layer, head, page⟩ digest
      (own.map (fun x => (x, bs))) (ackPeer h stOk 0 (takePeer h.sender s)))) := by
  rw [execVerifyResp, onPeer_met m, linkPeer_none hlinks]
  rcases Option.or_eq_some_iff.mp hown with hspan | ⟨hnone, hcopy⟩
  · simp only [hspan]
  · simp only [hnone, hcopy]

/-! ## Repair (R283–R286, R296, R405) -/

/-- Whether a page is to be repaired: it awaits its resolution, is POISONED, or waits to be rebuilt. -/
def repairDue (s : State) (p : PageRef) (x : Page) : Bool :=
  (awaited s p).isSome || x.poison.isSome || decide (x.loc = .rebuild)

/-- Whether its correction counts as a repair: it is POISONED or its content mismatched. -/
def repairCounts (s : State) (p : PageRef) (x : Page) : Bool := x.poison.isSome || ((awaited s p).getD none).isSome

theorem repairDue_iff : repairDue s p x = true ↔ (awaited s p).isSome = true ∨ x.poison.isSome = true ∨ x.loc = .rebuild := by
  simp only [repairDue, Bool.or_eq_true, decide_eq_true_eq, or_assoc]

theorem execTwinVerifyTimeout_awaited (hl : live s = true) (hawaited : (awaited s p).isSome = true) :
    execTwinVerifyTimeout p s = .next (afterForm (noGoodCopy p s)) := by
  rw [execTwinVerifyTimeout, onNode_live hl, if_pos hawaited]

theorem execReplicaRewrite_due (hl : live s = true) (hpage : pageAt s p = some x)
    (hdue : (awaited s p).isSome = true ∨ x.poison.isSome = true) :
    execReplicaRewrite p bs s = .next (afterForm (rewriteFrom p bs (repairCounts s p x) s)) := by
  rw [execReplicaRewrite, onNode_live hl]
  simp only [hpage, if_pos hdue]
  rfl

section
variable (hl : live s = true) (hpage : pageAt s p = some x) (hdue : repairDue s p x = true)
include hl hpage hdue

/-- PAGE_REPAIR of a page to be repaired places the content fetched, or finds that there is none. -/
theorem execPageRepair_due {content : Option (List Byte)} : execPageRepair p content s = .next (afterForm (match content with
    | none => noGoodCopy p s
    | some bs => match rewritePage p bs s with
      | .done t => contribute p (if repairCounts s p x then bump .replicaRepairs t else t)
      | .differs t => rebuiltDiffers p bs t
      | .noFrame => s)) := by
  have hgo : ¬((awaited s p).isNone = true ∧ x.poison.isNone = true ∧ x.loc ≠ .rebuild) := by
    rintro ⟨hawaited, hpoison, hloc⟩
    rcases repairDue_iff.mp hdue with h | h | h
    · simp [Option.isNone_iff_eq_none.mp hawaited] at h
    · simp [Option.isNone_iff_eq_none.mp hpoison] at h
    · exact hloc h
  rw [execPageRepair, onNode_live hl]
  simp only [hpage, if_neg hgo]
  rfl

/-- PAGE_REBUILD of such a page of a coded stripe does so with the content that its fragments give. -/
theorem execPageRebuild_due {fragments : List (Nat × List Byte)} {cs : BitVec 16} {stripe slot : Nat}
    (hcoded : x.coded = some (cs, stripe, slot)) : execPageRebuild p fragments s = .next (afterForm (
      match rebuildFragment slot ((fragments ++ gathered s p fragments).map (fun f => (f.1, padTo frameBytes f.2))) with
      | none => noGoodCopy p s
      | some bs => match rewritePage p bs s with
        | .done t => bump .pagesRebuiltCode (if repairCounts s p x then bump .replicaRepairs t else t)
        | .differs t => rebuiltDiffers p bs t
        | .noFrame => s)) := by
  unfold repairDue at hdue
  rw [execPageRebuild, onNode_live hl]
  simp only [hpage, hcoded, hdue]
  rfl

end

/-! ## SPAN_COVERAGE (R264, R452) -/

theorem fieldsPass_append {xs ys : List (Bool × Nat)} (hx : fieldsPass xs = true) (hy : fieldsPass ys = true) :
    fieldsPass (xs ++ ys) = true := by
  rw [fieldsPass, List.all_append]
  exact (Bool.and_eq_true _ _).mpr ⟨hx, hy⟩

@[simp] theorem leBytes_length (n v : Nat) : (leBytes n v).length = n := by
  induction n generalizing v with
  | zero => rfl
  | succ k ih => rw [leBytes, List.length_cons, ih]

@[simp] theorem words64_length (ws : List Nat) : (words64 ws).length = 8 * ws.length := by
  induction ws with
  | nil => rfl
  | cons v ws ih =>
    have hcons : words64 (v :: ws) = leBytes 8 v ++ words64 ws := List.flatMap_cons
    rw [hcons, List.length_append, leBytes_length, ih, List.length_cons]
    omega

/-- The checks of SPAN_COVERAGE's target block (R451, R452). -/
def coverageFails (tgt : Target) : List (Bool × Nat) :=
  targetFails tgt ⟨true, true, false, true, false⟩ ++ [(decide (tgt.scope ≠ 1), 87), (decide (tgt.spanCount ≠ 1), 72)]

theorem fieldsPass_coverageFails {tgt : Target} (hf : fieldsPass (targetFails tgt ⟨true, true, false, true, false⟩) = true)
    (hscope : tgt.scope = 1) (hcount : tgt.spanCount = 1) : fieldsPass (coverageFails tgt) = true :=
  fieldsPass_append hf (by simp [fieldsPass, hscope, hcount])

/-- Whether the limit of tokens cuts a sealed page of a layer and head, whose coverage term is that of all its tokens. -/
def cutsSealed (r : SpanRec) (l hd n : Nat) : Bool :=
  (coveragePages r l hd n).any (fun p => p.2.1.isSealed && decide (p.2.2 < min r.geo.cap (r.fill l hd - p.1 * r.geo.cap)))

/-- Whether one of the pages that hold the first tokens is lost. -/
def coversLost (s : State) (f : FrameId) (r : SpanRec) (l hd n : Nat) : Bool :=
  (coveragePages r l hd n).any (fun p => decide (p.2.1.loc = .lost) || isLost s ⟨f, l, hd, p.1⟩)

/-- The sum of the coverage terms of the pages that hold the first tokens of a layer and head, with their number and that of the tokens. -/
def coverageReply (s : State) (r : SpanRec) (l hd n : Nat) : Reply :=
  Reply.ofResult 1 (leBytes 32 (((coveragePages r l hd n).foldl (fun a p => a + recordTerm s r l hd p) 0) % 2 ^ 256)
    ++ words64 [word [(32, (coveragePages r l hd n).length)], n % 2 ^ 48, 0, 0])

theorem fits_coverageReply {l hd n : Nat} (hroom : 64 ≤ resultRoom b c) : Fits c b (coverageReply s r l hd n) := by
  simpa [Fits, coverageReply, Reply.ofResult] using hroom

/-- A span of which a layer and head hold the tokens asked for, on whole sealed pages, none lost, and under an accepted map epoch. -/
structure Covers (c : Cmd) (tgt : Target) (f : FrameId) (r : SpanRec) (u : State) : Prop where
  view : viewOf u c f = some r
  layer : tgt.layer.toNat < r.geo.layers
  head : tgt.head.toNat < r.geo.heads
  filled : tgt.tokenLimit.toNat ≤ r.fill tgt.layer.toNat tgt.head.toNat
  whole : cutsSealed r tgt.layer.toNat tgt.head.toNat tgt.tokenLimit.toNat = false
  notLost : coversLost u f r tgt.layer.toNat tgt.head.toNat tgt.tokenLimit.toNat = false

theorem execSpanCoverage_sums {tgt : Target} {shared : Bool} (hs : Serves c 32 s b w) (hf : fieldsPass (coverageFails tgt) = true)
    (hmap : (membersOf w c).isSome = true)
    (hfind : findSpan (vnodeOf w c) tgt.handle tgt.spanFirst.toNat w = (.found f shared, u)) (hcov : Covers c tgt f r u)
    (hroom : 64 ≤ resultRoom b c) : execSpanCoverage c tgt s
      = .next (complete c (coverageReply u r tgt.layer.toNat tgt.head.toNat tgt.tokenLimit.toNat) u) := by
  obtain ⟨hview, hlayer, hhead, hfilled, hwhole, hlost⟩ := hcov
  unfold cutsSealed at hwhole
  unfold coversLost at hlost
  have hepoch : (membersOf w c).isNone = false := by rw [← Option.not_isSome, hmap]; rfl
  rw [← finish_now (fits_coverageReply hroom)]
  refine (runVerb_pass hs hf).trans ?_
  simp only [hepoch, hfind, hview, Nat.not_le.mpr hlayer, Nat.not_le.mpr hhead, Nat.not_lt.mpr hfilled, hwhole, hlost, Bool.false_eq_true,
    if_false]
  rfl

theorem execSpanCoverage_staleMap {tgt : Target} (hs : Serves c 32 s b w) (hf : fieldsPass (coverageFails tgt) = true)
    (hmap : (membersOf w c).isSome = false) :
    execSpanCoverage c tgt s = .next (complete c (Reply.st stStaleMap) (bumpV .staleMapAnswers (vnodeOf w c) w)) := by
  have hepoch : (membersOf w c).isNone = true := by rw [← Option.not_isSome, hmap]; rfl
  refine (runVerb_pass hs hf).trans ?_
  rw [if_pos hepoch, Done.refuse, finish_st]

/-! ## SPAN_RESET (R416) -/

/-- The reset of a span that no handoff holds, whose entry leads to an open record of its own. -/
theorem spanResetRow_hit {tgt : Target} {k a : Nat} {e : DirEntry} (hs : Serves c 32 s b w) (hcount : tgt.spanCount = 1)
    (hf : fieldsPass (targetFails tgt ⟨true, false, false, false, false⟩) = true)
    (hoff : handoffOf w (vnodeOf w c) tgt.handle tgt.spanFirst.toNat = none)
    (hhit : search (vnodeOf w c) tgt.handle tgt.spanFirst.toNat 0 w = (.hit k a e, u)) (hshared : e.form ≠ 2) (hmoved : e.form ≠ 3)
    (hspan : spanAt u e.record = some r) (hopen : r.closing = false) :
    spanResetRow c tgt s = .next (complete c (Reply.st stOk) (resetSpan e.record u)) := by
  have hfields : fieldsPass ((decide (tgt.spanCount ≠ 1), 72) :: targetFails tgt ⟨true, false, false, false, false⟩) = true :=
    fieldsPass_append (xs := [_]) (by simp [fieldsPass, hcount]) hf
  rw [spanResetRow, runVerb_pass hs hfields]
  simp only [hoff, Option.isSome_none, Bool.false_eq_true, if_false, hhit, hshared, hmoved, hspan, hopen, finish_st]

end

/-- The verification of content. -/
theorem verifyCommandsComplete : Parts.VerifyCommandsComplete := by
  refine ⟨?readVerify, ?scrubVerify, ?verifyReq, ?verifyResp⟩
  case readVerify => exact fun _ _ _ hl hmode hdue => execReadVerify_due hl hmode hdue
  case scrubVerify =>
    exact fun _ _ _ _ _ hs hf => ⟨execScrubVerify_node hs hf, fun _ _ hscope hfind => execScrubVerify_spans hs hf hscope hfind⟩
  case verifyReq =>
    exact fun _ _ _ _ _ _ _ _ _ _ _ m hrec hpage hspan =>
      ⟨execVerifyReq_resolves m hrec hpage hspan, execVerifyReq_answers m hrec hpage hspan⟩
  case verifyResp => exact fun _ _ _ _ _ _ _ _ _ m hlinks hown => execVerifyResp_compares m hlinks hown

/-- The repair of content. -/
theorem repairEventsComplete : Parts.RepairEventsComplete := by
  refine ⟨?timeout, ?rewrite, ?repair, ?rebuild⟩
  case timeout => exact fun _ _ hl hawaited => execTwinVerifyTimeout_awaited hl hawaited
  case rewrite => exact fun _ _ _ _ hl hpage hdue => execReplicaRewrite_due hl hpage hdue
  case repair =>
    intro p s x hl hpage hdue
    have hrow := fun content => execPageRepair_due (content := content) hl hpage (repairDue_iff.mpr hdue)
    exact ⟨fun bs => hrow (some bs), hrow none⟩
  case rebuild =>
    exact fun _ _ _ _ _ _ _ hl hpage hcoded hdue => execPageRebuild_due hl hpage (repairDue_iff.mpr hdue) hcoded

/-- Coverage and reset. -/
theorem spanContentCommandsComplete : Parts.SpanContentCommandsComplete := by
  refine ⟨?coverage, ?staleMap, ?reset⟩
  case coverage =>
    exact fun _ _ _ _ _ _ _ _ _ hs hf hscope hcount hmap hfind hview hlayer hhead hfilled hwhole hlost hroom =>
      execSpanCoverage_sums hs (fieldsPass_coverageFails hf hscope hcount) hmap hfind ⟨hview, hlayer, hhead, hfilled, hwhole, hlost⟩ hroom
  case staleMap =>
    exact fun _ _ _ _ _ hs hf hscope hcount hmap => execSpanCoverage_staleMap hs (fieldsPass_coverageFails hf hscope hcount) hmap
  case reset =>
    exact fun _ _ _ _ _ _ _ _ _ _ hs hcount hf hoff hhit hshared hmoved hspan hopen =>
      waking_of hs.1 (spanResetRow_hit hs hcount hf hoff hhit hshared hmoved hspan hopen)

/-- Settles O11: each row by the equation of its meaning above; the answer to a VERIFY_REQ by the order of its cases (`judgeCopy_eq`). -/
theorem contentCheckRowsComplete : Obligations.ContentCheckRowsComplete :=
  ⟨verifyCommandsComplete, repairEventsComplete, spanContentCommandsComplete⟩

end Sys2Proof.Machine

/-! # How the passes of a query end; the statement O13 -/

namespace Sys2Proof.Machine

section
variable {s t g : State} {q : AttnReq} {u : Upsets} {req page : Nat} {bad : List Nat}

/-! ## Key passes and value passes (R187, R195, R203, R204, R223) -/

section
variable (hl : live s = true) (hreq : (expandFirst req s).attn.reqs.at? req = some q)
  (hgo : passWaits (expandFirst req s) q.segPages = false)
include hl hreq hgo

/-- A key pass whose pages are at hand and read ends with its scores and weights. -/
theorem execKeyPassComplete_reads (hphase : q.phase = .keyPass) (hpages : q.pages.any (fun p => p.missing) = false)
    (hmeet : meetPass req q false q.segPages u (expandFirst req s) = (true, bad, t)) :
    execKeyPassComplete req u s = .next (endKeyPass req q t) := by
  rw [execKeyPassComplete, onNode_live hl]
  simp only [hreq, hphase, hpages, hgo, Bool.not_false, and_self, if_true, hmeet]

/-- The rows of each core after a value pass (R195). -/
def valueCores (q : AttnReq) (s : State) : List (Nat × List RowPart) :=
  let vs := (q.segPages.map (viewPage s q)).zip q.weights
  q.cores.map (fun c => (c.1, ((List.range q.desc.rows).zip c.2).map (fun r =>
    withOutputs s.tick (c.1 + 1) q r.1 r.2 c.1 ((vs.filter (fun v => decide (v.1.p.core = c.1))).map (fun v => (v.1, v.2.getD r.1 []))))))

/-- The rows of the request's segment, its cores combined. -/
def valueRows (q : AttnReq) (s : State) : List RowPart := (reduceRows q (s.tick + 2) ((valueCores q s).map Prod.snd)).1

/-- The state in which a value pass has been counted. -/
def valuePassCounted (q : AttnReq) (s : State) : State :=
  bumpBy .segmentsRun (if q.segments = 1 then 0 else 1) { s with tick := s.tick + 3 }

/-- The request with the check of its cores; the first failure of its segments is kept (R272). -/
def coresChecked (q : AttnReq) (s : State) : AttnReq :=
  { q with coreFail := if q.coreFail.isSome then q.coreFail else verifyCores (valuePassCounted q s) q (valueCores q s) q.segPages }

/-- A value pass whose pages read ends with its sums: the record of a request in one segment, and otherwise the end of the segment. -/
theorem execValuePassComplete_reads (hphase : q.phase = .valuePass)
    (hmeet : meetPass req q true q.segPages u (expandFirst req s) = (true, bad, t)) :
    execValuePassComplete req u s = .next (
      if finiteOut (valueRows q t) then
        if q.segments = 1 then produce req (coresChecked q t) (valueRows q t) (valuePassCounted q t)
        else putReq req { coresChecked q t with phase := .segmentEnd, cores := [(0, valueRows q t)], weights := [], drained := [] }
          (valuePassCounted q t)
      else overflowReq req q (valuePassCounted q t)) := by
  have hruns : ¬(q.phase ≠ .valuePass ∨ passWaits (expandFirst req s) q.segPages = true) := by simp [hphase, hgo]
  rw [execValuePassComplete, onNode_live hl]
  simp only [hreq, if_neg hruns, hmeet, Bool.not_true, Bool.false_eq_true, if_false, Bool.not_eq_true', ← Bool.not_eq_true, ite_not]
  rfl

end

/-! ## Segments (R196, R237–R239) -/

/-- The running rows with those of the segment that has ended, and the rows that the merge absorbed. -/
def segmentRows (q : AttnReq) (tick : Nat) : List RowPart × Nat :=
  let new := (q.cores.head?.map Prod.snd).getD []
  match q.running with
  | none => (new, 0)
  | some old => mergeRows tick 0 old new

/-- The request once its segment has been folded in. -/
def segmentFolded (q : AttnReq) (tick : Nat) : AttnReq :=
  { q with absorbed := q.absorbed || decide ((segmentRows q tick).2 ≠ 0), running := some (segmentRows q tick).1, cores := [] }

/-- A segment is folded into the running state (R237, R238): an output sum that is not finite ends the request, the last segment brings its
record, and after any other the next one begins. -/
def foldSegment (req : Nat) (q : AttnReq) (s : State) : State :=
  let t := bumpBy .rowsAbsorbed (segmentRows q s.tick).2 { s with tick := s.tick + 1 }
  if finiteOut (segmentRows q s.tick).1 then
    if q.segment + 1 = q.segments then produce req (segmentFolded q s.tick) (segmentRows q s.tick).1 t
    else putReq req { segmentFolded q s.tick with segment := q.segment + 1, phase := .keyPass } t
  else overflowReq req (segmentFolded q s.tick) t

theorem execSegmentComplete_folds (hl : live s = true) (hreq : s.attn.reqs.at? req = some q) (hphase : q.phase = .segmentEnd) :
    execSegmentComplete req u s = .next (foldSegment req q (applyUpsets u s)) := by
  have hended : ¬q.phase ≠ .segmentEnd := not_not_intro hphase
  rw [execSegmentComplete, onNode_live hl]
  simp only [hreq, if_neg hended, Bool.not_eq_true', ← Bool.not_eq_true, ite_not]
  rfl

/-! ## Die blocks (R213–R215, R235) -/

/-- The scores of a page of a die request. -/
def blockScores (q : AttnReq) (page : Nat) (p : ReqPage) (s : State) : List (List (Nat × F32)) := pageScores s.tick page q (viewPage s q p)

/-- Its block: the rows of the page alone, and how many of them were checked against key sums formed directly. -/
def blockOfPage (q : AttnReq) (page : Nat) (p : ReqPage) (s : State) : List RowPart × Nat :=
  dieBlock s.tick q (viewPage s q p) (blockScores q page p s)

/-- The rows of a page's engine with its block folded in, and the rows that the merge absorbed. -/
def engineRows (q : AttnReq) (page : Nat) (p : ReqPage) (s : State) : List RowPart × Nat :=
  let e := engineOf q page
  match q.engines.find? (fun x => decide (x.core = e.1 ∧ x.engine = e.2)) with
  | none => ((blockOfPage q page p s).1, 0)
  | some x => mergeRows (s.tick + 7) 7 x.rows (blockOfPage q page p s).1

/-- The request with the block of a page folded in. -/
def blockFolded (q : AttnReq) (page : Nat) (p : ReqPage) (s : State) : AttnReq :=
  let e := engineOf q page
  { q with
    engines := q.engines.filter (fun x => !decide (x.core = e.1 ∧ x.engine = e.2)) ++ [⟨e.1, e.2, (engineRows q page p s).1⟩]
    blocksDone := q.blocksDone ++ [page]
    absorbed := q.absorbed || decide ((engineRows q page p s).2 ≠ 0) }

/-- The state in which the block has been counted. -/
def blockCounted (q : AttnReq) (page : Nat) (p : ReqPage) (s : State) : State :=
  bumpBy .rowsAbsorbed (engineRows q page p s).2 (bumpBy .certDirectPages (blockOfPage q page p s).2 { s with tick := s.tick + 8 })

/-- A page of a die request at hand and not yet done, whose keys and values read. -/
structure BlockReads (req : Nat) (q : AttnReq) (page : Nat) (p : ReqPage) (u : Upsets) (s t : State) : Prop where
  phase : q.phase = .dieBlocks
  named : q.pages[page]? = some p
  atHand : p.missing = false
  notDone : page ∉ q.blocksDone
  reads : ∃ bad g, meetPass req q false [p] u s = (true, bad, g) ∧ readAll req (pageReads g q true p) g = ([], t)

/-- One page of a die request whose scores and output sums are finite is folded into its engine's rows; the last one brings the record. -/
theorem execDieBlockDone_folds {p : ReqPage} (hl : live s = true) (hreq : (expandFirst req s).attn.reqs.at? req = some q)
    (hreads : BlockReads req q page p u (expandFirst req s) t)
    (hscores : (blockScores q page p t).any (fun r => r.any (fun x => !(F32.isFin x.2))) = false)
    (hsums : finiteOut (blockOfPage q page p t).1 = true) : execDieBlockDone req page u s = .next (
      if q.blocksDone.length + 1 = q.pages.length then
        finishDie req (blockFolded q page p t) (putReq req (blockFolded q page p t) (blockCounted q page p t))
      else putReq req (blockFolded q page p t) (blockCounted q page p t)) := by
  obtain ⟨hphase, hpage, hatHand, hnotDone, bad, g, hmeet, hread⟩ := hreads
  have hserved : ¬q.phase ≠ .dieBlocks := not_not_intro hphase
  have hdue : ¬(p.missing = true ∨ page ∈ q.blocksDone) := by simp [hatHand, hnotDone]
  unfold blockOfPage blockScores at hsums
  unfold blockScores at hscores
  rw [execDieBlockDone, onNode_live hl]
  simp only [hreq, if_neg hserved, hpage, if_neg hdue, hmeet, hread, hscores, hsums, Bool.not_true, List.isEmpty_nil, Bool.or_self, or_self,
    Bool.false_eq_true, if_true, if_false, List.length_append, List.length_singleton]
  rfl

end

/-- Settles O13: each pass by the equation of its meaning above, on the branch that the clause's conditions choose. -/
theorem queryPassesComplete : Obligations.QueryPassesComplete := by
  refine ⟨?keyPass, ?valuePass, ?segment, ?dieBlock⟩
  case keyPass =>
    rintro req u s _ q bad t hl rfl hreq hphase hpages hgo hmeet
    exact execKeyPassComplete_reads hl hreq hgo hphase hpages hmeet
  case valuePass =>
    rintro req u s _ q bad t hl rfl hreq hphase hgo hmeet
    have hrow := execValuePassComplete_reads hl hreq hgo hphase hmeet
    refine ⟨fun hone => hrow.trans ?one, fun hmore => hrow.trans ?more⟩
    case one => simp only [valuePassCounted, coresChecked, if_pos hone]; rfl
    case more => simp only [valuePassCounted, coresChecked, if_neg hmore]; rfl
  case segment =>
    intro req u s q hl hreq hphase
    have hrow : exec (.segmentComplete req u) s = .next (foldSegment req q (applyUpsets u s)) := execSegmentComplete_folds hl hreq hphase
    refine ⟨fun hinf => hrow.trans (congrArg _ ?overflows), fun hfin hlast => hrow.trans (congrArg _ ?last),
      fun hfin hmore => hrow.trans (congrArg _ ?goesOn)⟩
    case overflows => exact if_neg (Bool.eq_false_iff.mp hinf)
    case last => exact (if_pos hfin).trans (if_pos hlast)
    case goesOn => exact (if_pos hfin).trans (if_neg hmore)
  case dieBlock =>
    rintro req page u s _ q p bad g t hl rfl hreq hphase hpage hatHand hnotDone hmeet hread
    exact fun hscores hsums => execDieBlockDone_folds hl hreq ⟨hphase, hpage, hatHand, hnotDone, bad, g, hmeet, hread⟩ hscores hsums

end Sys2Proof.Machine

/-! # Packing, demotion, promotion and the TIER commands; the statement O15 -/

namespace Sys2Proof.Machine

section
variable {s b w z : State} {c : Cmd} {p : PageRef} {x : Page} {r : SpanRec} {v : VId} {bs read : List Byte}

/-! ## Packing (R304–R306) -/

/-- The state in which packing runs for a virtual node. -/
def packingOn (v : VId) (s : State) : State := { s with tier := { s.tier with packOn := (v :: s.tier.packOn).eraseDups } }

/-- A page's image is stored in pack frames once the page has read and the codec has served its blocks; the page is switched to it and counted where
the image expands to the content that the page had (R305). -/
def packStored (p : PageRef) (x : Page) (r : SpanRec) (im : List Byte) (s : State) : State :=
  let c := readStored x (drainCodec 3 (queueCoding 3 p r.geo.fmt s))
  match (if c.1 then storePack r.vnode (pageGen s x) im c.2 else none) with
  | none => c.2
  | some (n, t) => match pageContent t r.geo.fmt (.packed n) with
    | .bytes bs => if contentOk x bs then bump .pagesPacked (switchAll x.loc (.packed n) t) else removeImage n t
    | _ => removeImage n t

/-- An eligible page is packed where it has an image short enough and no page of its virtual node that has one was read earlier. -/
def packInTurn (p : PageRef) (x : Page) (r : SpanRec) (s : State) : State :=
  if olderThan s r.vnode (lastReadOf s p) (fun q y => (packImage s q y).isSome) then s
  else match packImage s p x with
    | none => s
    | some im => packStored p x r im s

theorem execPackPage_eligible (hl : live s = true) (hfills : AllFill s) (hpage : pageAt s p = some x) (hspan : spanAt s p.record = some r)
    (hpacks : packs s r.vnode = true) (heligible : eligible (packingOn r.vnode s) p x false = true) :
    execPackPage p s = .next (packInTurn p x r (packingOn r.vnode s)) := by
  unfold packingOn at heligible ⊢
  rw [execPackPage, onNode_live hl, whenFills_of hfills]
  simp only [hpage, hspan, hpacks, heligible, Bool.not_true, Bool.false_eq_true, if_false, false_or]
  rfl

/-- A pack frame less than half live is emptied, and released once nothing is left in it. -/
theorem execPackCompact_sparse {frame : BitVec 24} (hl : live s = true) (hfills : AllFill s) (huse : (frameOf s frame.toNat).use = .pack)
    (hopen : (frameOf s frame.toNat).state = .open_) (hsparse : 2 * packUse s frame.toNat < granules) :
    execPackCompact frame s = .next (if packUse (movePacked frame.toNat s) frame.toNat = 0
      then releaseFrame frame.toNat (movePacked frame.toNat s) else movePacked frame.toNat s) := by
  rw [execPackCompact, onNode_live hl, whenFills_of hfills]
  simp only [huse, hopen, hsparse, and_self, if_true]

/-! ## Demotion (R304, R307, R308, R330, R331) -/

/-- The state in which demotion runs for a virtual node. -/
def demotionOn (v : VId) (s : State) : State := { s with tier := { s.tier with demoteOn := (v :: s.tier.demoteOn).eraseDups } }

/-- A page that may be demoted now: the tier has room, no brake holds programs back, and the page is the eligible one in HBM that was read
longest ago. -/
structure DemotesNow (s : State) (v : VId) (p : PageRef) (x : Page) : Prop where
  present : tierPresent s v = true
  room : tierFull s v = false
  unbraked : s.pw.brake = false
  eligible : eligible s p x false = true
  inHbm : x.inHbm = true
  oldest : olderThan s v (lastReadOf s p) (fun _ y => y.inHbm) = false

theorem execDemotePage_programs (hl : live s = true) (hpage : pageAt s p = some x) (hspan : spanAt s p.record = some r)
    (hdemotes : demotes s r.vnode = true) (hnow : DemotesNow (demotionOn r.vnode s) r.vnode p x) :
    execDemotePage p s = .next ((programDemotion p 1 (demotionOn r.vnode s)).getD (demotionOn r.vnode s)) := by
  obtain ⟨hpresent, hroom, hunbraked, heligible, hinHbm, holdest⟩ := hnow
  have hbrake : s.pw.brake = false := hunbraked
  unfold demotionOn at hpresent hroom heligible holdest ⊢
  rw [execDemotePage, onNode_live hl]
  simp only [hpage, hspan, hdemotes, hpresent, hroom, hbrake, heligible, hinHbm, holdest, Bool.not_true, Bool.false_eq_true, or_self,
    if_false]

/-- The image of a demotion as it was read back. -/
def imageReadBack (n : Nat) (read : List Byte) (s : State) : State :=
  { s with tier := { s.tier with images := s.tier.images.map (fun i => if i.1 = n then (i.1, { i.2 with bytes := read }) else i) } }

/-- The end of a demotion as its read-back is judged: the page is switched, or not where its table is gone, or the demotion is tried again. -/
def readBackJudged (d : Demotion) (p : PageRef) (x : Page) (r : SpanRec) (read : List Byte) (s : State) : State :=
  match judgeReadBack s r.geo.fmt x read with
  | .good => afterForm (bump .pagesDemoted (switchAll x.loc (.flash d.image) (imageReadBack d.image read s)))
  | .stale => afterForm (pageUnreadable p (dropFromTiers true stCodecTableStale p
      (removeImage d.image (bumpBy .codecStale (codedBlocks read) s))))
  | .wrong => retryDemotion d x r s

theorem execDemoteComplete_judges {d : Demotion} (hl : live s = true)
    (hfind : (drainCodec 3 s).tier.demotions.find? (fun d => decide (d.page = p)) = some d) (hpage : pageAt (drainCodec 3 s) p = some x)
    (hspan : spanAt (drainCodec 3 s) p.record = some r) (hheld : d.held = false) : execDemoteComplete p read s
      = .next (readBackJudged d p x r read (countFlashRead d.image (endDemotion p (drainCodec 3 s)))) := by
  rw [execDemoteComplete, onNode_live hl]
  simp only [hfind, hpage, hspan, hheld, Bool.false_eq_true, if_false]
  rfl

/-! ## Promotion (R309–R312) -/

section
variable {m : Promotion} {got : Option (List Byte)} (hl : live s = true) (hfills : AllFill s)
  (hfind : (drainCodec 2 s).tier.promotions.find? (fun d => decide (d.page = p)) = some m)
include hl hfills hfind

/-- A promotion whose image does not expand fails. -/
theorem execPromoteComplete_unread (hnone : m.content got = none) :
    execPromoteComplete p got s = .next (failPromotion m none (countFlashRead m.image (drainCodec 2 s))) := by
  rw [execPromoteComplete, onNode_live hl, whenFills_of hfills]
  simp only [hfind, hnone]

/-- One whose image expands gives its content where it has the digest of the page, and otherwise fails too. -/
theorem execPromoteComplete_expanded (hcontent : m.content got = some bs) : execPromoteComplete p got s = .next (
    if pageDigest bs = m.digest ∧ (readHeader (bs.drop annexAt)).digest = m.digest
    then promoteContent m bs (countFlashRead m.image (drainCodec 2 s))
    else failPromotion m (some bs) (countFlashRead m.image (drainCodec 2 s))) := by
  rw [execPromoteComplete, onNode_live hl, whenFills_of hfills]
  simp only [hfind, hcontent]

end

/-! ## The TIER commands (R313, R451, R464) -/

variable {tgt : Target} {fs : List FrameId}

/-- The number of pages that are pinned in a virtual node (R313). -/
def pagesPinned (s : State) (v : VId) : Nat := countPages s (((nodePages s v).filter (fun p => p.2.pinned)).map Prod.fst)

/-- The number of pages of a list that are not pinned yet. -/
def pagesToPin (s : State) (ps : List (PageRef × Page)) : Nat := countPages s ((ps.filter (fun p => !(pinnedAny s p.1))).map Prod.fst)

/-- Pages pinned through every record, their demotions cancelled. -/
def pinPages (ps : List (PageRef × Page)) (s : State) : State :=
  ps.foldl (fun s p => cancelDemotion p.1 (updShared p.1 (fun x => { x with pinned := true }) s)) s

/-- A target names pages of records, all of which have the layers and heads that it names. -/
structure TargetNames (v : VId) (tgt : Target) (w : State) (fs : List FrameId) (z : State) : Prop where
  found : targetRecords v tgt w = (.inl fs, z)
  inRange : targetGeo z tgt fs = none

/-- Work on the pages of a target that names some is done on these. -/
theorem onPages_named {i : Instr} {f : List (PageRef × Page) → State → Done} (hnames : TargetNames (vnodeOf w c) tgt w fs z) :
    onPages c tgt i f w = f (namedPages z tgt fs) z := by
  simp only [onPages, hnames.found, hnames.inRange]

section
variable (hs : Serves c 32 s b w) (hnames : TargetNames (vnodeOf w c) tgt w fs z)
include hs hnames

section
variable (hf : fieldsPass (targetFails tgt (tierUse false)) = true)
include hf

/-- A TIER command that names pages ends as its work on them says. -/
theorem runVerb_named {i : Instr} {f : List (PageRef × Page) → State → Done} :
    runVerb c (withParams c 32 (targetFails tgt (tierUse false)) (onPages c tgt i f)) s
      = .next (finish c b (f (namedPages z tgt fs) z)) := by
  rw [runVerb_pass hs hf, onPages_named hnames]

theorem execTierPromote_starts :
    execTierPromote c tgt s = .next (finish c b (startTier c false ((namedPages z tgt fs).map Prod.fst) z)) := runVerb_named hs hnames hf

/-- TIER_DEMOTE of sealed pages none of which is pinned, with room in the tier, starts their demotion. -/
theorem execTierDemote_starts
    (hfree : ((namedPages z tgt fs).filter (fun p => p.2.isSealed)).any (fun p => pinnedAny z p.1) = false)
    (hpresent : tierPresent z (vnodeOf z c) = true) (hroom : tierFull z (vnodeOf z c) = false) : execTierDemote c tgt s
      = .next (finish c b (startTier c true (((namedPages z tgt fs).filter (fun p => p.2.isSealed)).map Prod.fst) z)) := by
  rw [execTierDemote, runVerb_named hs hnames hf]
  simp only [hfree, hpresent, hroom, Bool.not_true, Bool.false_eq_true, or_self, if_false]

/-- TIER_PIN within PIN_MAX_PCT pins its pages and starts their promotion. -/
theorem execTierPin_starts (hlimit : pagesPinned z (vnodeOf z c) + pagesToPin z (namedPages z tgt fs)
      ≤ pctFrames z (vnodeOf z c) (knobsOf z c).pinMaxPct) : execTierPin c tgt s
      = .next (finish c b (startTier c false ((namedPages z tgt fs).map Prod.fst) (pinPages (namedPages z tgt fs) z))) := by
  unfold pagesPinned pagesToPin at hlimit
  rw [execTierPin, runVerb_named hs hnames hf]
  simp only [if_neg (Nat.not_lt.mpr hlimit), pinPages]

theorem execTierUnpin_unpins : execTierUnpin c tgt s = .next (complete c (Reply.st stOk)
    ((namedPages z tgt fs).foldl (fun s p => updShared p.1 (fun x => { x with pinned := false }) s) z)) := by
  rw [execTierUnpin, runVerb_named hs hnames hf, finish_st]

end

/-- TIER_STATUS answers the counts of the pages that it names. -/
theorem execTierStatus_pages (hf : fieldsPass (targetFails tgt (tierUse true)) = true) (hscope : tgt.scope ≠ 2) : execTierStatus c tgt s
    = .next (finish c b (.now (Reply.ofResult 1 (tierBlock z (vnodeOf w c) (namedPages z tgt fs))) z)) := by
  rw [execTierStatus, runVerb_pass hs hf]
  simp only [if_neg hscope, onPages_named hnames]

end

/-- Under the scope of the node it answers those of all its pages. -/
theorem execTierStatus_node (hs : Serves c 32 s b w) (hf : fieldsPass (targetFails tgt (tierUse true)) = true) (hscope : tgt.scope = 2) :
    execTierStatus c tgt s
      = .next (finish c b (.now (Reply.ofResult 1 (tierBlock w (vnodeOf w c) (nodePages w (vnodeOf w c)))) w)) := by
  rw [execTierStatus, runVerb_pass hs hf]
  simp only [if_pos hscope]

end

/-- The changes of a page's form. -/
theorem tierEventsComplete : Parts.TierEventsComplete := by
  refine ⟨?pack, ?compact, ?demote, ?readBack, ?promote⟩
  case pack => exact fun _ _ _ _ hl hfills hpage hspan hpacks heligible => execPackPage_eligible hl hfills hpage hspan hpacks heligible
  case compact => exact fun _ _ hl hfills huse hopen hsparse => execPackCompact_sparse hl hfills huse hopen hsparse
  case demote =>
    exact fun _ _ _ _ hl hpage hspan hdemotes hpresent hroom hbrake heligible hinHbm holdest =>
      execDemotePage_programs hl hpage hspan hdemotes ⟨hpresent, hroom, hbrake, heligible, hinHbm, holdest⟩
  case readBack =>
    rintro p read s _ d x r hl rfl hfind hpage hspan hheld
    have hrow : exec (.demoteComplete p read) s = .next (readBackJudged d p x r read _) :=
      execDemoteComplete_judges hl hfind hpage hspan hheld
    unfold readBackJudged at hrow
    refine ⟨fun hgood => ?good, fun hstale => ?stale, fun hwrong => ?wrong⟩
    case good => rw [hrow, hgood]; rfl
    case stale => rw [hrow, hstale]
    case wrong => rw [hrow, hwrong]
  case promote =>
    rintro p read s _ m hl hfills rfl hfind
    exact ⟨fun hnone => execPromoteComplete_unread hl hfills hfind hnone,
      fun _ hcontent => execPromoteComplete_expanded hl hfills hfind hcontent⟩

/-- The TIER commands. -/
theorem tierCommandsComplete : Parts.TierCommandsComplete := by
  refine ⟨?pages, ?statusNode, ?statusPages⟩
  case pages =>
    intro c t s b w fs z hs hf hfound hrange
    have hnames : TargetNames (vnodeOf w c) t w fs z := ⟨hfound, hrange⟩
    exact ⟨execTierPromote_starts hs hnames hf, fun hfree hpresent hroom => execTierDemote_starts hs hnames hf hfree hpresent hroom,
      fun hlimit => execTierPin_starts hs hnames hf hlimit, execTierUnpin_unpins hs hnames hf⟩
  case statusNode => exact fun _ _ _ _ _ hs hf hscope => execTierStatus_node hs hf hscope
  case statusPages => exact fun _ _ _ _ _ _ _ hs hf hscope hfound hrange => execTierStatus_pages hs ⟨hfound, hrange⟩ hf hscope

/-- Settles O15: each event and command by the equation of its meaning above; a demotion by what its read-back is judged to be. -/
theorem tierRowsComplete : Obligations.TierRowsComplete := ⟨tierEventsComplete, tierCommandsComplete⟩

end Sys2Proof.Machine

/-! # The codec's commands, its re-coding and its engines; the statement O17 -/

namespace Sys2Proof.Machine

section
variable {s b w z : State} {c : Cmd} {gen : BitVec 32} {slot : BitVec 3} {format : BitVec 4}

/-! ## The commands (R325–R330, R461, R462) -/

/-- CODEC_LOAD puts a table that passes R326 in the lowest FREE slot, and answers the slot and its new generation. -/
theorem execCodecLoad_loads {img : TableImage} {n : Nat} {g : BitVec 32} (hs : Serves c (64 + 2 ^ expBits img.format.toNat) s b w)
    (hf : fieldsPass (tableFails img) = true) (hcodes : tableEmpty img = false)
    (hlen : img.lengths.length = 2 ^ expBits img.format.toNat) (hload : loadTable w = .inl (n, g)) :
    execCodecLoad c img s = .next (complete c { Reply.st stOk with r0 := BitVec.ofNat 64 (word [(32, g.toNat), (0, n)]) }
      (putTable img n g w)) := by
  refine (runVerb_pass hs hf).trans ?_
  simp only [hcodes, hlen, ne_eq, not_true_eq_false, Bool.false_eq_true, or_self, if_false, hload]
  rw [finish_now (Nat.zero_le _)]

/-- The codec's slots once one of them is current for its format. -/
def slotSelected (slot : BitVec 3) (format : BitVec 4) (s : State) : State :=
  { s with tier := { s.tier with slots := s.tier.slots.map (fun p => if (p.2.image.map TableImage.format) = some format
    then (p.1, { p.2 with current := decide (p.1 = slot.toNat) }) else p) } }

/-- CODEC_SELECT of a LOADED slot that holds a table of the format and generation makes it current. -/
theorem execCodecSelect_selects (hs : Serves c 8 s b w) (hloaded : (slotAt w slot.toNat).state = 1)
    (hgen : (slotAt w slot.toNat).gen = gen) (hformat : (slotAt w slot.toNat).image.map TableImage.format = some format) :
    execCodecSelect c gen slot format s = .next (complete c (Reply.st stOk) (slotSelected slot format w)) := by
  refine (runVerb_pass hs rfl).trans ?_
  simp only [hloaded, hgen, hformat, ne_eq, not_true_eq_false, Nat.one_ne_zero, or_self, if_false, finish_st]
  rfl

/-- A slot set RETIRING. -/
def slotRetired (slot : BitVec 3) (force : Bool) (s : State) : State :=
  updSlot slot.toNat (fun x => { x with state := 2, current := false, forced := x.forced || force }) s

/-- What becomes of the images of a retired table (R329, R330): they are queued for their re-coding, or with FORCE left as they are, the blocks that
wait for the table being told so. -/
def imagesRetired (gen : BitVec 32) (slot : BitVec 3) (force : Bool) (s : State) : State :=
  if force then { s with tier := { s.tier with
    recode := s.tier.recode.filter (fun i => !(decide (i ∈ imagesNaming s slot.toNat gen)))
    queue := s.tier.queue.map (fun q => if q.slot = slot.toNat ∧ q.gen = gen then { q with old := true } else q) } }
  else { s with tier := { s.tier with recode := (s.tier.recode ++ imagesNaming s slot.toNat gen).eraseDups } }

theorem execCodecRetire_retires {force : Bool} (hs : Serves c 8 s b w) (hheld : (slotAt w slot.toNat).state ≠ 0)
    (hgen : (slotAt w slot.toNat).gen = gen) : execCodecRetire c gen slot force s
      = .next (complete c (Reply.st stOk) (settleSlots (imagesRetired gen slot force (slotRetired slot force w)))) := by
  refine (runVerb_pass hs rfl).trans ?_
  simp only [if_neg hheld, hgen, ne_eq, not_true_eq_false, if_false, finish_st]
  rfl

theorem execCodecStatus_serves (hs : Serves c 0 s b w) : execCodecStatus c s
    = .next (finish c b (.now (Reply.ofResult 8 ((List.range 8).flatMap (slotStatus w))) w)) := runVerb_pass hs rfl

/-- The block of CODEC.SAMPLE: the format with the number of pages sampled, and the count of each exponent (R462). -/
def sampleBlock (format : BitVec 4) (s : State) : List Byte :=
  words64 (word [(32, (s.tier.samples.atD format.toNat (0, [])).1), (0, format.toNat)]
    :: (List.range (2 ^ expBits format.toNat)).map (fun i => (s.tier.samples.atD format.toNat (0, [])).2.atD i 0))

theorem sampleBlock_length : (sampleBlock format s).length = 8 + 8 * 2 ^ expBits format.toNat := by
  rw [sampleBlock, words64_length, List.length_cons, List.length_map, List.length_range]
  omega

/-- CODEC_SAMPLE of a format that the codec knows answers its counts, where they fit, and clears them. -/
theorem execCodecSample_counts (hs : Serves c 8 s b w) (hformat : compressible format.toNat = true)
    (hroom : 8 + 8 * 2 ^ expBits format.toNat ≤ resultRoom b c) : execCodecSample c format s
      = .next (complete c (Reply.ofResult (1 + 2 ^ expBits format.toNat) (sampleBlock format w))
        { w with tier := { w.tier with samples := w.tier.samples.del format.toNat } }) := by
  have hfields : fieldsPass [(!(compressible format.toNat), 64)] = true := by simp [fieldsPass, hformat]
  have hfits : Fits c b (Reply.ofResult (1 + 2 ^ expBits format.toNat) (sampleBlock format w)) :=
    Nat.le_trans (Nat.le_of_eq sampleBlock_length) hroom
  rw [← finish_now hfits]
  exact runVerb_pass hs hfields

/-! ## Re-coding and the engines (R329–R331) -/

/-- An image is re-coded from the content that its page reads; one that reads wrongly or not at all leaves the queue, and its page is resolved. -/
def recodePage (image : Nat) (i : Image) (fmt : Nat) (p : PageRef) (x : Page) (s : State) : State :=
  let c := readCopy 5 fmt x s
  match c.1 with
  | .reads bs => if contentOk x bs then afterForm (settleSlots (recodeTo image i fmt p x bs c.2))
      else afterForm (digestMismatch p (contentHash x bs) (recoded image c.2))
  | _ => afterForm (settleSlots (pageUnreadable p (recoded image c.2)))

/-- An image of the re-coding queue whose turn it is, with the first page that lies in it: no PACKED image stands before one in flash, none of its
pages changes its form, and no brake holds the program that one in flash needs (R308, R329). -/
structure RecodeDue (s : State) (image : Nat) (i : Image) (p : PageRef) (x : Page) (r : SpanRec) : Prop where
  stored : s.tier.images.at? image = some i
  first : (pagesOfImage s image).head? = some p
  page : pageAt s p = some x
  span : spanAt s p.record = some r
  queued : image ∈ s.tier.recode
  turn : recodeWaits s i = false
  steady : (pagesOfImage s image).any (formChanging s) = false
  unbraked : s.pw.brake = false ∨ i.block = none

theorem execRecodeImage_due {image : Nat} {i : Image} {p : PageRef} {x : Page} {r : SpanRec} (hl : live s = true) (hfills : AllFill s)
    (hdue : RecodeDue (drainCodec 5 s) image i p x r) :
    execRecodeImage image s = .next (recodePage image i r.geo.fmt p x (drainCodec 5 s)) := by
  obtain ⟨himage, hfirst, hpage, hspan, hqueued, hturn, hsteady, hbrake⟩ := hdue
  have hrow : ¬(image ∉ (drainCodec 5 s).tier.recode ∨ recodeWaits (drainCodec 5 s) i = true
      ∨ (pagesOfImage (drainCodec 5 s) image).any (formChanging (drainCodec 5 s)) = true
      ∨ ((drainCodec 5 s).pw.brake = true ∧ i.block.isSome = true)) := by
    rcases hbrake with hbrake | hbrake
    · simp [hqueued, hturn, hsteady, hbrake]
    · simp [hqueued, hturn, hsteady, hbrake]
  rw [execRecodeImage, onNode_live hl, whenFills_of hfills]
  simp only [himage, hfirst, hpage, hspan, if_neg hrow]
  rfl

/-- The queue without the block at a place. -/
def blockTaken (k : Nat) (s : State) : State := { s with tier := { s.tier with queue := s.tier.queue.eraseIdx k } }

variable {k : Nat} {i : CodecItem}

/-- A block whose slot still holds its table is coded. -/
theorem serveBlock_held (hslot : (slotAt s i.slot).state ≠ 0) (hgen : (slotAt s i.slot).gen = i.gen) :
    serveBlock k i s = settleSlots (blockTaken k s) := congrArg settleSlots (if_pos ⟨hslot, hgen⟩)

/-- What needed a block whose slot does not hold its table any more fails. -/
theorem serveBlock_stale (hgone : (slotAt s i.slot).state = 0 ∨ (slotAt s i.slot).gen ≠ i.gen) :
    serveBlock k i s = settleSlots (staleBlock i (bump .codecStale (blockTaken k s))) :=
  congrArg settleSlots (if_neg (fun ⟨hslot, hgen⟩ => hgone.elim hslot (fun hother => hother hgen)))

/-- An engine takes the next block. -/
theorem execCodecBlock_next {engine : BitVec 2} (hl : live s = true) (hnext : nextBlock s.tier.queue = some k)
    (hitem : s.tier.queue[k]? = some i) : execCodecBlock engine s = .next (afterForm (serveBlock k i s)) := by
  rw [execCodecBlock, onNode_live hl]
  simp only [hnext, hitem]

end

/-- The codec's commands. -/
theorem codecCommandsComplete : Parts.CodecCommandsComplete := by
  refine ⟨?load, ?select, ?retire, ?status, ?sample⟩
  case load => exact fun _ _ _ _ _ _ _ hs hf hcodes hlen hload => execCodecLoad_loads hs hf hcodes hlen hload
  case select => exact fun _ _ _ _ _ _ _ hs hloaded hgen hformat => execCodecSelect_selects hs hloaded hgen hformat
  case retire => exact fun _ _ _ _ _ _ _ hs hheld hgen => execCodecRetire_retires hs hheld hgen
  case status => exact fun _ _ _ _ hs => execCodecStatus_serves hs
  case sample => exact fun _ _ _ _ _ hs hformat hroom => execCodecSample_counts hs hformat hroom

/-- The codec's background work. -/
theorem codecEventsComplete : Parts.CodecEventsComplete := by
  refine ⟨?recode, ?block⟩
  case recode =>
    rintro image s _ i p ps x r hl hfills rfl himage hpages hpage hspan hqueued hturn hsteady hbrake
    have hfirst : (pagesOfImage (drainCodec 5 s) image).head? = some p := by rw [hpages, List.head?_cons]
    exact execRecodeImage_due hl hfills ⟨himage, hfirst, hpage, hspan, hqueued, hturn, hsteady, hbrake⟩
  case block =>
    intro engine s k i hl hnext hitem
    have hrow : exec (.codecBlock engine) s = .next (afterForm (serveBlock k i s)) :=
      execCodecBlock_next (engine := engine) hl hnext hitem
    refine ⟨fun hslot hgen => ?held, fun hgone => ?stale⟩
    case held => rw [hrow, serveBlock_held hslot hgen, blockTaken]
    case stale => rw [hrow, serveBlock_stale hgone, blockTaken]

/-- Settles O17: each command and event by the equation of its meaning above. -/
theorem codecRowsComplete : Obligations.CodecRowsComplete := ⟨codecCommandsComplete, codecEventsComplete⟩

end Sys2Proof.Machine

/-! # Reads between nodes, member lists and the drain window; the statement O21 -/

namespace Sys2Proof.Machine

section
variable {s b w : State} {c : Cmd} {m : Msg} {v : VId}

/-! ## Reads between nodes (R295, R342, R362, R405) -/

section
variable {addr : BitVec 64} {len key : BitVec 32} {u : Upsets} {bs payload : List Byte} {z : State}
  (hl : live s = true) (hmember : (memberState (takeMsg m s) m.vnode m.sender).isSome = true)
include hl hmember

/-- A READ_REQ of a member that is not fenced, over a link that holds, is answered with the bytes that it reads. -/
theorem execReadReq_answers (ha : admits s m opReadReq (fun p => decide (p = readReqBytes addr len key)) = true)
    (hfence : isFenced (takeMsg m s) m.vnode m.sender = false) (hlow : 0 < len.toNat) (hhigh : len.toNat ≤ 1048576)
    (hlink : (meetLink u addr.toNat (applyUpsets u (takeMsg m s))).1 = true)
    (hread : readAnswer m.vnode addr.toNat len.toNat (meetLink u addr.toNat (applyUpsets u (takeMsg m s))).2 = (some bs, z)) :
    execReadReq m addr len key u s = .next (
      sendOn m.qpn false (headOf (takeMsg m s) m.vnode opReadResp m.addr key 0 bs.length) bs
        (emit (.readResp m.vnode m.qpn m.sender m.addr key bs) z)) := by
  have hlength : ¬(len.toNat = 0 ∨ 1048576 < len.toNat) := by omega
  rw [execReadReq, onMsg_admits hl ha]
  simp only [Option.isNone_eq_false_iff.mpr hmember, hfence, Bool.false_eq_true, if_false, if_neg hlength, hlink, hread]

/-- A READ_RESP that lies inside the region of the node's own request goes there. -/
theorem execReadResp_inside {p : PageRef} {slot n : Nat} {data : List Byte} {a : BitVec 64}
    (ha : admits s m opReadResp (fun p => decide (p = payload)) = true)
    (hregion : (takeMsg m s).regions.at? m.key = some ⟨.read p slot data, a, n⟩)
    (hinside : (Region.mk (.read p slot data) a n).holds m.addr payload.length = true) :
    execReadResp m payload s = .next { takeMsg m s with
      regions := (takeMsg m s).regions.put m.key ⟨.read p slot (putBytes data (m.addr - a).toNat payload), a, n⟩ } := by
  have hmeant : ((takeMsg m s).regions.at? m.key).filter (fun r => r.holds m.addr payload.length) = some ⟨.read p slot data, a, n⟩ :=
    Option.filter_eq_some_iff.mpr ⟨hregion, hinside⟩
  rw [execReadResp, onMsg_admits hl ha]
  simp only [Option.isNone_eq_false_iff.mpr hmember, Bool.false_eq_true, if_false, hmeant]

/-- One that lies in no region of the node is discarded and counted. -/
theorem execReadResp_outside (ha : admits s m opReadResp (fun p => decide (p = payload)) = true)
    (houtside : ((takeMsg m s).regions.at? m.key).filter (fun r => r.holds m.addr payload.length) = none) :
    execReadResp m payload s = .next (bumpV .writeRejects m.vnode (takeMsg m s)) := by
  rw [execReadResp, onMsg_admits hl ha]
  simp only [Option.isNone_eq_false_iff.mpr hmember, Bool.false_eq_true, if_false, houtside]

end

/-! ## NODE.MAP (R373) -/

/-- The member list of a NODE.MAP in force, with the list that it takes the place of and whether a drain window opens. -/
def mapEntered (v : VId) (p : MapBlk) (prefer : List NodeId) (prev : Option MapList) (drains : Bool) (s : State) : State :=
  mapInstalled v prefer (updVn v (fun n => { n with map := some (mapListOf p), prevMap := prev, draining := drains }) s)

section
variable {p : MapBlk} {prefer : List NodeId} {old : MapList} (hs : Serves c (8 + 4 * p.memberCount.toNat) s b w)
  (hf : fieldsPass (mapFails p) = true)
include hs hf

theorem execNodeMap_first (hnone : (vn w (vnodeOf w c)).map = none) : execNodeMap c p prefer s
    = .next (wake (complete c (Reply.st stOk) (mapEntered (vnodeOf w c) p prefer none false w))) := by
  refine waking_of hs.1 ((runVerb_pass hs hf).trans ?_)
  simp only [hnone, finish_st, mapEntered]

/-- An epoch is ahead of another where it lies less than half the circle of epochs beyond it. -/
theorem execNodeMap_ahead (hold : (vn w (vnodeOf w c)).map = some old) (hother : 0 < (p.epoch - old.epoch).toNat)
    (hahead : (p.epoch - old.epoch).toNat < 32768) : execNodeMap c p prefer s
      = .next (wake (complete c (Reply.st stOk) (mapEntered (vnodeOf w c) p prefer (some old) true w))) := by
  refine waking_of hs.1 ((runVerb_pass hs hf).trans ?_)
  simp only [hold, if_neg (Nat.ne_of_gt hother), if_pos hahead, finish_st, mapEntered]

theorem execNodeMap_sameEpoch (hold : (vn w (vnodeOf w c)).map = some old) (hsame : p.epoch = old.epoch) : execNodeMap c p prefer s
    = .next (wake (complete c (Reply.st (if mapListOf p = old then stOk else stDenied)) w)) := by
  have hzero : (p.epoch - old.epoch).toNat = 0 := by rw [hsame, BitVec.sub_self, BitVec.toNat_zero]
  refine waking_of hs.1 ((runVerb_pass hs hf).trans ?_)
  simp only [hold, if_pos hzero]
  split
  · rw [finish_st]
  · rw [Done.refuse, finish_st]

theorem execNodeMap_behind (hold : (vn w (vnodeOf w c)).map = some old) (hbehind : 32768 ≤ (p.epoch - old.epoch).toNat) :
    execNodeMap c p prefer s = .next (wake (complete c (Reply.st stStaleMap) w)) := by
  have hother : (p.epoch - old.epoch).toNat ≠ 0 := by omega
  refine waking_of hs.1 ((runVerb_pass hs hf).trans ?_)
  simp only [hold, if_neg hother, if_neg (Nat.not_lt.mpr hbehind), Done.refuse, finish_st]

end

/-! ## The drain window (R41, R374) -/

/-- At the end of the drain window each record that is still awaited is an event. -/
theorem execDrainWindowEnd_draining (hl : live s = true) (hdrain : (vn s v).draining = true) : execDrainWindowEnd v s
    = .next ((vn s v).awaitedRecords.foldl (fun s x => logFrom v 0x0101 srcCore [(64, x.1.toNat), (16, x.2.toNat)] s)
      (updVn v (fun n => { n with draining := false, awaitedRecords := [] }) s)) := by
  rw [execDrainWindowEnd, onNode_live hl]
  simp only [hdrain, Bool.not_true, Bool.false_eq_true, if_false]

end

/-- Settles O21: each row by the equation of its meaning above; NODE.MAP by how far its epoch lies ahead of the present one. -/
theorem readAndMapComplete : Obligations.ReadAndMapComplete := by
  refine ⟨?readReq, ?readResp, ?nodeMap, ?drainEnd⟩
  case readReq =>
    exact fun _ _ _ _ _ _ hl ha hmember hfence hlow hhigh _ _ hlink hread =>
      execReadReq_answers hl hmember ha hfence hlow hhigh hlink hread
  case readResp =>
    exact fun _ _ _ hl ha hmember =>
      ⟨fun _ _ _ _ _ hregion hinside => execReadResp_inside hl hmember ha hregion hinside,
        fun houtside => execReadResp_outside hl hmember ha houtside⟩
  case nodeMap =>
    exact fun _ _ _ _ _ _ hs hf =>
      ⟨fun hnone => execNodeMap_first hs hf hnone, fun _ hold hother hahead => execNodeMap_ahead hs hf hold hother hahead,
        fun _ hold hsame => execNodeMap_sameEpoch hs hf hold hsame, fun _ hold hbehind => execNodeMap_behind hs hf hold hbehind⟩
  case drainEnd => exact fun _ _ hl hdrain => execDrainWindowEnd_draining hl hdrain

end Sys2Proof.Machine

/-! # Ports, HELLO and neighbours; the statement O18 -/

namespace Sys2Proof.Machine

section
variable {s : State} {port : BitVec 5} {v : VId} {p : HelloPayload} (hl : live s = true)
include hl

/-! ## Links (R333, R578) -/

/-- The link of a port that exists comes up once a configuration has been accepted; that it does shows the reference running, which is the model's
reading of R558. -/
theorem execPortLinkUp_configured (hport : portOk s port = true) (hconf : s.configured = true) : execPortLinkUp port s
    = .next (updPort port (fun x => { x with up := true, heard := false }) { s with pw := { s.pw with refclk156 := true } }) := by
  rw [execPortLinkUp, onNode_live hl, if_pos ⟨hport, hconf⟩]

theorem execPortLinkDown_exists (hport : portOk s port = true) :
    execPortLinkDown port s = .next (updPort port (fun x => { x with up := false }) s) := by
  rw [execPortLinkDown, onNode_live hl, if_pos hport]

/-! ## Discovery (R368, R369) -/

theorem execHelloSend_up (hup : (portAt s port).up = true) : execHelloSend port s
    = .next (emit (.hello port (helloOf s port) (helloFrame s port)) (updPort port (fun x => { x with helloSeq := x.helloSeq + 1 }) s)) := by
  rw [execHelloSend, onNode_live hl, if_pos hup]

/-- A port that has taken a HELLO: it has heard one, and the payload stands as its neighbour's. -/
def helloTaken (port : BitVec 5) (p : HelloPayload) (s : State) : State :=
  updVn (vnodeOfPort s port) (fun n => { n with neighbours := n.neighbours.put port ⟨p⟩ }) (updPort port (fun x => { x with heard := true }) s)

/-- Whether the neighbour that a port already knows is the one that a HELLO describes. -/
def neighbourKnown (port : BitVec 5) (p : HelloPayload) (s : State) : Bool :=
  ((vn s (vnodeOfPort s port)).neighbours.at? port).any (fun o => !(neighbourDiffers o.p p))

/-- A HELLO without reserved bits is taken by a port that is up, and logged where it tells of another neighbour than the port knows. -/
theorem execHello_up (hrsv : p.rsv = false) (hup : (portAt s port).up = true) : execHello port p s = .next (
    if neighbourKnown port p s then helloTaken port p s
    else logFrom (vnodeOfPort s port) 0x0805 srcFabric [] (helloTaken port p s)) := by
  rw [execHello, onNode_live hl]
  cases hold : (vn s (vnodeOfPort s port)).neighbours.at? port with
  | none => simp only [hrsv, hup, Bool.not_true, Bool.false_eq_true, or_self, if_false, hold, neighbourKnown, Option.any_none, helloTaken]
  | some o => simp only [hrsv, hup, Bool.not_true, Bool.false_eq_true, or_self, if_false, hold, neighbourKnown, Option.any_some, helloTaken]

/-- A neighbour that is not heard for 500 ms is dropped and logged. -/
theorem execNeighbourExpiry_known (hknown : (vn s (vnodeOfPort s port)).neighbours.has port = true) : execNeighbourExpiry port s
    = .next (logFrom (vnodeOfPort s port) 0x0805 srcFabric []
      (updVn (vnodeOfPort s port) (fun n => { n with neighbours := n.neighbours.del port }) s)) := by
  rw [execNeighbourExpiry, onNode_live hl]
  exact congrArg _ (if_pos hknown)

/-! ## Frames (R334, R378, R385) -/

/-- A frame on an up port, for a virtual node that the port serves, has its codewords counted and is taken. -/
theorem execFrameReceive_served {f : RxFrame} {fc fu : Nat} (hup : (portAt s port).up = true) (hserves : portServes s port v = true) :
    execFrameReceive v port f fc fu s
      = .next (takeFrame v port f (bumpAt .fecCwCorrected port.toNat fc (bumpAt .fecCwUncorrected port.toNat fu s))) := by
  rw [execFrameReceive, onNode_live hl]
  simp only [hup, hserves, Bool.not_true, Bool.false_eq_true, or_self, if_false]

end

/-- Settles O18: each event by the equation of its meaning above; HELLO by whether the port knows the neighbour that it describes. -/
theorem portEventsComplete : Obligations.PortEventsComplete := by
  refine ⟨?linkUp, ?linkDown, ?helloSend, ?hello, ?expiry, ?frame⟩
  case linkUp => exact fun _ _ hl hport hconf => execPortLinkUp_configured hl hport hconf
  case linkDown => exact fun _ _ hl hport => execPortLinkDown_exists hl hport
  case helloSend => exact fun _ _ hl hup => execHelloSend_up hl hup
  case hello =>
    intro port p s hl hrsv hup
    have hrow := execHello_up hl hrsv hup
    refine ⟨fun o hold hsame => hrow.trans ?same, fun hnone => hrow.trans ?new, fun o hold hdiffers => hrow.trans ?changed⟩
    case same => exact congrArg _ (if_pos (by simp [neighbourKnown, hold, hsame]))
    case new => exact congrArg _ (if_neg (by simp [neighbourKnown, hnone]))
    case changed => exact congrArg _ (if_neg (by simp [neighbourKnown, hold, hdiffers]))
  case expiry => exact fun _ _ hl hknown => execNeighbourExpiry_known hl hknown
  case frame => exact fun _ _ _ _ _ _ hl hup hserves => execFrameReceive_served hl hup hserves

end Sys2Proof.Machine

/-! # The life of a queue pair; the statement O19 -/

namespace Sys2Proof.Machine

section
variable {s b w : State} {c : Cmd} {p : QpCreateBlk} {qpn : BitVec 12} {x : Qp}

/-! ## Contexts (R344, R346) -/

/-- NODE_QP_CREATE of a FREE context of the virtual node's share, for a peer of its table, makes it READY. -/
theorem execNodeQpCreate_free (hs : Serves c 32 s b w) (hf : fieldsPass (qpCreateFails p) = true)
    (hshare : qpnIn s (vnodeOf s c) p.qpn = true) (hfree : qpAt w p.qpn = none) (hpeer : hasPeer w (vnodeOf w c) p.peerNode = true) :
    execNodeQpCreate c p s = .next (complete c (Reply.st stOk)
      { w with fab := { w.fab with qps := w.fab.qps.put p.qpn (qpNew w (vnodeOf w c) p) } }) := by
  have hfields : fieldsPass (qpCreateFails p ++ [(!(qpnIn s (vnodeOf s c) p.qpn), 70)]) = true := by
    simpa [fieldsPass, hshare] using hf
  rw [execNodeQpCreate, runVerb_pass hs hfields]
  simp only [hfree, hpeer, Bool.not_true, Bool.false_eq_true, if_false, finish_st]

/-- A context that NODE_QP_DESTROY has cleared: it names nothing, and is held from now on. -/
def clearedQp (s : State) : Qp := { qpNew s 0 ⟨0, 0, 0, 0, 0, 0, 0, 0, 0, 0⟩ with state := .hold, heldAt := s.pw.uptime, rate := 0 }

/-- NODE_QP_DESTROY clears a context that is not yet held, and holds it. -/
theorem execNodeQpDestroy_notHeld (hs : Serves c 8 s b w) (hshare : qpnIn s (vnodeOf s c) qpn = true) (hx : qpAt w qpn = some x)
    (hstate : x.state ≠ .hold) : execNodeQpDestroy c qpn s = .next (complete c (Reply.st stOk) (updQp qpn (fun _ => clearedQp w) w)) := by
  have hfields : fieldsPass [(!(qpnIn s (vnodeOf s c) qpn), 70)] = true := by simp [fieldsPass, hshare]
  rw [execNodeQpDestroy, runVerb_pass hs hfields]
  simp only [hx, if_neg hstate, finish_st, clearedQp]

variable (hl : live s = true) (hx : qpAt s qpn = some x)
include hl hx

/-- At the end of its hold a context is FREE. -/
theorem execQpHoldExpiry_held (hstate : x.state = .hold) :
    execQpHoldExpiry qpn s = .next { s with fab := { s.fab with qps := s.fab.qps.del qpn } } := by
  rw [execQpHoldExpiry, onNode_live hl, hx, Option.map_some, hstate, if_pos rfl]

variable (hready : x.state = .ready)
include hready

/-- A READY queue pair with a packet unacknowledged whose retries are exhausted enters ERROR. -/
theorem execQpRetryExhausted_owing (howing : x.unacked ≠ []) : execQpRetryExhausted qpn s = .next (settle (qpError qpn 1 s)) := by
  rw [execQpRetryExhausted, onNode_live hl]
  simp only [hx, hready, List.isEmpty_eq_false_iff.mpr howing, Bool.not_false, and_self, if_true]

/-! ## Acknowledgements in time (R349) -/

/-- The acknowledgement timer of a READY queue pair acknowledges the packets that are new since the last. -/
theorem execAckTimer_new (hnew : 0 < x.newSince) : execAckTimer qpn s = .next (sendAck qpn 0 0 s) := by
  rw [execAckTimer, onNode_live hl]
  simp only [hx, hready, hnew, and_self, if_true]

end

/-- Settles O19: each command and event by the equation of its meaning above. -/
theorem queuePairsComplete : Obligations.QueuePairsComplete := by
  refine ⟨?create, ?destroy, ?holdExpiry, ?exhausted, ?ackTimer⟩
  case create => exact fun _ _ _ _ _ hs hf hshare hfree hpeer => execNodeQpCreate_free hs hf hshare hfree hpeer
  case destroy => exact fun _ _ _ _ _ _ hs hshare hx hstate => execNodeQpDestroy_notHeld hs hshare hx hstate
  case holdExpiry => exact fun _ _ _ hl hx hstate => execQpHoldExpiry_held hl hx hstate
  case exhausted => exact fun _ _ _ hl hx hready howing => execQpRetryExhausted_owing hl hx hready howing
  case ackTimer => exact fun _ _ _ hl hx hready hnew => execAckTimer_new hl hx hready hnew

end Sys2Proof.Machine

/-! # Packets, timers and messages in order; the statement O20 -/

namespace Sys2Proof.Machine

section
variable {s : State} {qpn : BitVec 12} {x y : Qp} {f : Qp → Qp}

/-! ## A context and its change (R344) -/

theorem updQp_of_some (hx : qpAt s qpn = some x) : updQp qpn f s = { s with fab := { s.fab with qps := s.fab.qps.put qpn (f x) } } := by
  rw [updQp, hx]

theorem qpAt_updQp_self (hx : qpAt s qpn = some x) : qpAt (updQp qpn f s) qpn = some (f x) := by
  rw [updQp_of_some hx, qpAt, Tbl.at?_put_self]

/-! ## Packets (R347, R348, R351, R364, R378) -/

/-- The header of a packet names a context of the virtual node's share whose peer, and the peer's queue pair, it comes from, and the context is
READY (R347, R378). -/
structure ReachesContext (h : Bth) (x : Qp) (s : State) : Prop where
  context : qpAt s h.dstQpn = some x
  inShare : qpnIn s h.vnode h.dstQpn = true
  ready : x.state = .ready
  fromPeer : x.peer = h.srcNode
  fromQpn : x.peerQpn = h.srcQpn

section
variable {p : DataPkt} (hl : live s = true) (hform : dataMalformed p = false) (htalks : talks s p.bth.vnode = true)
include hl hform htalks

/-- Without an association a DATA is dropped and counted (R364). -/
theorem execData_unassociated (hassoc : associated s p.bth.vnode p.bth.srcNode = false) :
    execData p s = .next (bumpV .macsecNoSa p.bth.vnode s) := by
  rw [execData, onNode_live hl]
  simp only [hform, htalks, hassoc, Bool.not_true, Bool.not_false, Bool.false_eq_true, if_true, if_false]

variable (hassoc : associated s p.bth.vnode p.bth.srcNode = true)
include hassoc

/-- A DATA of its context's peer, to this node, is taken up. -/
theorem execData_reaches (hreach : ReachesContext p.bth x s) (hdst : p.bth.dstNode = (vn s p.bth.vnode).nodeId) :
    execData p s = .next (takeData p.bth.vnode x p s) := by
  obtain ⟨hx, hshare, hready, hpeer, hqpn⟩ := hreach
  rw [execData, onNode_live hl]
  simp only [hform, htalks, hassoc, hx, hshare, hready, hpeer, hqpn, hdst, Bool.not_true, Bool.false_eq_true, if_false, ne_eq,
    not_true_eq_false, or_self]

/-- A DATA to a FREE context, or to one of another virtual node's share, is answered INVALID. -/
theorem execData_noContext (hnone : qpAt s p.bth.dstQpn = none ∨ qpnIn s p.bth.vnode p.bth.dstQpn = false) :
    execData p s = .next (ackInvalid p.bth s) := by
  rw [execData, onNode_live hl]
  simp only [hform, htalks, hassoc, Bool.not_true, Bool.false_eq_true, if_false]
  cases hx : qpAt s p.bth.dstQpn with
  | none => rfl
  | some x =>
    have hforeign : qpnIn s p.bth.vnode p.bth.dstQpn = false := hnone.resolve_left (by simp [hx])
    simp only [hforeign, Bool.not_false, true_or, if_true]

end

section
variable {p : AckPkt} (hl : live s = true)
include hl

/-- A positive or RNR acknowledgement of its context's peer is taken up. -/
theorem execAck_reaches (hform : p.bth.malformed = false) (htalks : talks s p.bth.vnode = true)
    (hassoc : associated s p.bth.vnode p.bth.srcNode = true) (hreach : ReachesContext p.bth x s) (hsyndrome : p.syndrome.toNat ≤ 1)
    (hrsv : p.rsv = false) : execAck p s = .next (takeAck p s) := by
  obtain ⟨hx, hshare, hready, hpeer, hqpn⟩ := hreach
  rw [execAck, onNode_live hl]
  simp only [hform, htalks, hassoc, hrsv, hx, hshare, hready, hpeer, hqpn, Nat.not_lt.mpr hsyndrome, Bool.not_true, Bool.false_eq_true,
    if_false, ne_eq, not_true_eq_false, or_self]

/-! ## Timers (R346, R351, R354, R355) -/

/-- The end of its suspension gives an entropy value back. -/
theorem execEntropySuspendEnd_live {entropy : BitVec 6} : execEntropySuspendEnd qpn entropy s
    = .next (updQp qpn (fun x => { x with suspended := x.suspended.filter (fun e => e ≠ entropy.toNat) }) s) :=
  onNode_live hl

variable (hx : qpAt s qpn = some x) (hready : x.state = .ready)
include hx hready

/-- An expiry of the retransmission timer before the last doubles it, up to 100 ms, and sends every unacknowledged packet again. -/
theorem execRetxTimerExpiry_resends (howing : x.unacked ≠ []) (hleft : x.timeouts + 1 < x.retxLimit) :
    execRetxTimerExpiry qpn s = .next (resendWhere qpn (fun _ => true) id
      (updQp qpn (fun x => { x with timeouts := x.timeouts + 1, timerUs := min 100000 (2 * x.timerUs) }) (countExpiries qpn s))) := by
  rw [execRetxTimerExpiry, onNode_live hl]
  simp only [hx, hready, List.isEmpty_eq_false_iff.mpr howing, ne_eq, not_true_eq_false, Bool.false_eq_true, or_self, if_false,
    Nat.not_le.mpr hleft]

/-- The RETX_LIMIT-th expiry puts the queue pair into ERROR. -/
theorem execRetxTimerExpiry_last (howing : x.unacked ≠ []) (hlast : x.retxLimit ≤ x.timeouts + 1) :
    execRetxTimerExpiry qpn s = .next (settle (qpError qpn 1 s)) := by
  rw [execRetxTimerExpiry, onNode_live hl]
  simp only [hx, hready, List.isEmpty_eq_false_iff.mpr howing, ne_eq, not_true_eq_false, Bool.false_eq_true, or_self, if_false, hlast,
    if_true]

/-- The end of a RNR wait sends the packets that it held again. -/
theorem execRnrWaitExpiry_ready :
    execRnrWaitExpiry qpn s = .next (resendWhere qpn (fun t => t.rnr) (fun t => { t with rnr := false }) s) := by
  rw [execRnrWaitExpiry, onNode_live hl]
  simp only [hx, hready, if_true]

/-- The rate of a queue pair rises by 5,000 Mb/s, up to that of the ports to its peer. -/
theorem execRateIncrease_ready : execRateIncrease qpn s
    = .next (updQp qpn (fun x => { x with rate := min (peerRate s (vnodeOfQpn s qpn) x.peer) (x.rate + 5000) }) s) := by
  rw [execRateIncrease, onNode_live hl]
  simp only [hx, hready, if_true]

end

/-! ## The headrace (R359, R361, R393) -/

/-- A context past the message that it has sent into the headrace. -/
def Qp.passed (y : Qp) : Qp := { y with nextMsn := y.nextMsn + 1, msgs := y.msgs.del y.nextMsn }

/-- A queue pair has had its turn with the message of a context past its refused ones: the context is past it, and the turn is the last. -/
def turnTaken (qpn : BitVec 12) (y : Qp) (s : State) : State :=
  let t := updQp qpn Qp.passed (updQp qpn (fun _ => y) s)
  { t with fab := { t.fab with turns := t.fab.turns.filter (fun q => q ≠ qpn) ++ [qpn] } }

/-- What a turn leaves of the headrace and the contexts: nothing enters by it, the queue pair is past the message and last in turn. -/
theorem turnTaken_of_some (hx : qpAt s qpn = some x) : turnTaken qpn y s = { s with fab := { s.fab with
    qps := (s.fab.qps.put qpn y).put qpn y.passed, turns := s.fab.turns.filter (fun q => q ≠ qpn) ++ [qpn] } } := by
  have hy : qpAt (updQp qpn (fun _ => y) s) qpn = some y := qpAt_updQp_self hx
  rw [turnTaken, updQp_of_some hy, updQp_of_some hx]

theorem qpAt_turnTaken_self (hx : qpAt s qpn = some x) : qpAt (turnTaken qpn y s) qpn = some y.passed := by
  rw [turnTaken_of_some hx, qpAt, Tbl.at?_put_self]

variable {msn : BitVec 24} {h : MsgHead} {m : RxMsg}

/-- A message of a known operation enters the headrace. -/
theorem enterRace_known (hop : h.op.toNat = opPeer → peerOpKnown (peerOpOf m.payload) = true) : enterRace qpn msn h m s
    = { s with fab := { s.fab with entered := s.fab.entered ++ [⟨qpn, msn, h, m.payload, s.knobs⟩] } } := by
  refine if_neg (fun hreserved => ?_)
  obtain ⟨hpeer, hunknown⟩ := hreserved
  simp [hop hpeer] at hunknown

/-- A PEER message of a reserved operation is dropped there. -/
theorem enterRace_reserved (hpeer : h.op.toNat = opPeer) (hop : peerOpKnown (peerOpOf m.payload) = false) :
    enterRace qpn msn h m s = bump .peerDrops s :=
  if_pos ⟨hpeer, by rw [hop, Bool.not_false]⟩

/-- A READY queue pair whose next message, past the refused ones, is complete, and which has its turn, sends it into the headrace. -/
theorem execHeadraceAdmit_due (hl : live s = true) (hx : qpAt s qpn = some x) (hready : x.state = .ready)
    (hdue : x.skipAll.due = some (h, m)) (hturn : hasTurn (updQp qpn (fun _ => x.skipAll) s) qpn h = true) :
    execHeadraceAdmit qpn s = .next (enterRace qpn x.skipAll.nextMsn h m (turnTaken qpn x.skipAll s)) := by
  rw [execHeadraceAdmit, onNode_live hl]
  simp only [hx, hready, ne_eq, not_true_eq_false, if_false, hdue, hturn, Bool.not_true, Bool.false_eq_true]
  rfl

end

/-- Settles O20: each packet and event by the equation of its meaning above, on the branch that the clause's conditions choose; the headrace by
whether the message's operation is known. -/
theorem transportEventsComplete : Obligations.TransportEventsComplete := by
  refine ⟨?data, ?noContext, ?unassociated, ?ack, ?retxTimer, ?rnrWait, ?entropy, ?rate, ?admitted, ?reserved⟩
  case data =>
    exact fun _ _ _ hl hform htalks hassoc hx hshare hready hpeer hqpn hdst =>
      execData_reaches hl hform htalks hassoc ⟨hx, hshare, hready, hpeer, hqpn⟩ hdst
  case noContext => exact fun _ _ hl hform htalks hassoc hnone => execData_noContext hl hform htalks hassoc hnone
  case unassociated => exact fun _ _ hl hform htalks hassoc => execData_unassociated hl hform htalks hassoc
  case ack =>
    exact fun _ _ _ hl hform htalks hassoc hx hshare hready hpeer hqpn hsyndrome hrsv =>
      execAck_reaches hl hform htalks hassoc ⟨hx, hshare, hready, hpeer, hqpn⟩ hsyndrome hrsv
  case retxTimer =>
    exact fun _ _ _ hl hx hready howing =>
      ⟨fun hleft => execRetxTimerExpiry_resends hl hx hready howing hleft, fun hlast => execRetxTimerExpiry_last hl hx hready howing hlast⟩
  case rnrWait => exact fun _ _ _ hl hx hready => execRnrWaitExpiry_ready hl hx hready
  case entropy => exact fun _ _ _ hl => execEntropySuspendEnd_live hl
  case rate => exact fun _ _ _ hl hx hready => execRateIncrease_ready hl hx hready
  case admitted =>
    intro qpn s x y m h hl hx hready hskip hdue hturn hop
    subst hskip
    have hafter := turnTaken_of_some (y := x.skipAll) hx
    refine ⟨_, (execHeadraceAdmit_due hl hx hready hdue hturn).trans (congrArg _ (enterRace_known hop)), ?_, ?_, ?_, ?_⟩
    · rw [hafter]
    · exact qpAt_turnTaken_self hx
    · rw [hafter]
    · rw [hafter]
  case reserved =>
    intro qpn s x y m h hl hx hready hskip hdue hturn hpeer hop
    subst hskip
    refine ⟨_, (execHeadraceAdmit_due hl hx hready hdue hturn).trans (congrArg _ (enterRace_reserved hpeer hop)), ?_, ⟨_, rfl⟩, ?_⟩
    · rw [turnTaken_of_some hx]
      rfl
    · exact qpAt_turnTaken_self hx

end Sys2Proof.Machine

/-! # Key agreement and the life of an association; the statement O22 -/

namespace Sys2Proof.Machine

section
variable {s : State} {v : VId} {peer : NodeId} {tl : Bool} {an : BitVec 2} {nonce : List Byte} {cred : Credential} {a : Agreement}
  (hl : live s = true)
include hl

/-! ## Key agreement (R365–R367) -/

section
variable {ek : List Byte} (hcan : canAgree s v = true) (hlower : peer.toNat < (vn s v).nodeId.toNat)
include hcan hlower

/-- The agreement of a responder, as it stands once it has encapsulated and answered: it awaits the initiator's confirmation. -/
def responderAgreement (an : BitVec 2) (ek nonce : List Byte) (cred : Credential) (s : State) : Agreement :=
  let k := Config.kemEncap ek (Config.randomBytes s.tick 32)
  let mine := Config.randomBytes (s.tick + 1) 32
  ⟨an, false, 3, 0, k.2, mine, signedStep s (k.1 ++ mine) (agreeRequest ek nonce an), sha256 cred.rootKey, sha256 cred.endEntityKey,
    agreeRequest ek nonce an⟩

/-- An agreement stands under way. -/
def putAgreement (v : VId) (peer : NodeId) (tl : Bool) (a : Agreement) (s : State) : State :=
  { s with fab := { s.fab with agreements := s.fab.agreements.put (v, peer, tl) a } }

/-- The responder of the greater identifier, asked for an agreement other than the one in force, judges the initiator; accepted, it answers, installs
its receive association and confirms. -/
theorem execKeyAgree1_new (hnew : (assocAt s v peer tl).map Assoc.request ≠ some (agreeRequest ek nonce an)) :
    execKeyAgree1 v peer tl an ek nonce cred s = .next ((judgePeer v peer tl 2 cred (agreeRequest ek nonce an) s).getD (
      let b := responderAgreement an ek nonce cred s
      sendConfirm v peer tl (installRx v peer tl b (saKeys b.dk nonce b.nonce peer (vn s v).nodeId an)
        (sendAgree v peer tl an 2 b.body (putAgreement v peer tl b { s with tick := s.tick + 2 }))))) := by
  rw [execKeyAgree1, onNode_live hl]
  simp only [hcan, Bool.not_true, Bool.false_eq_true, Nat.not_le.mpr hlower, or_self, if_false, decide_eq_false hnew]
  cases judgePeer v peer tl 2 cred (agreeRequest ek nonce an) s <;> rfl

/-- The same request again is answered and confirmed as before. -/
theorem execKeyAgree1_again (hsame : (assocAt s v peer tl).map Assoc.request = some (agreeRequest ek nonce an))
    (ha : s.fab.agreements.at? (v, peer, tl) = some a) (hresponder : a.initiator = false) :
    execKeyAgree1 v peer tl an ek nonce cred s = .next (sendConfirm v peer tl (sendAgree v peer tl an 2 a.body s)) := by
  rw [execKeyAgree1, onNode_live hl]
  simp only [hcan, Bool.not_true, Bool.false_eq_true, Nat.not_le.mpr hlower, or_self, if_false, decide_eq_true hsame, ha, hresponder]

end

variable (ha : s.fab.agreements.at? (v, peer, tl) = some a)
include ha

/-- The agreement of an initiator, as it stands once it has the responder's answer: it awaits the confirmation. -/
def initiatorAgreement (a : Agreement) (ct nonce : List Byte) (cred : Credential) : Agreement :=
  { a with step := 3, resends := 0, dk := Config.kemDecap a.dk ct, body := nonce, root := sha256 cred.rootKey,
           device := sha256 cred.endEntityKey }

/-- The initiator that awaits an answer judges the responder; accepted, it installs its receive association and confirms. -/
theorem execKeyAgree2_answered {ct : List Byte} (hcan : canAgree s v = true) (hinitiator : a.initiator = true) (hstep : a.step = 1) :
    execKeyAgree2 v peer tl ct nonce cred s = .next ((judgePeer v peer tl 3 cred (a.request ++ ct ++ nonce) s).getD (
      let b := initiatorAgreement a ct nonce cred
      sendConfirm v peer tl (installRx v peer tl b (saKeys b.dk b.nonce nonce (vn s v).nodeId peer b.an) (putAgreement v peer tl b s)))) := by
  rw [execKeyAgree2, onNode_live hl]
  have hmeant : ¬((!canAgree s v) = true ∨ (!a.initiator) = true ∨ a.step ≠ 1) := by simp [hcan, hinitiator, hstep]
  simp only [ha, if_neg hmeant]
  cases judgePeer v peer tl 3 cred (a.request ++ ct ++ nonce) s <;> rfl

/-- An agreement ends: the node transmits under the association that awaited the confirmation. -/
def confirmedAssoc (v : VId) (peer : NodeId) (tl : Bool) (s : State) : State :=
  updAssoc v peer tl (fun x => { x with tx := x.txWaiting, txWaiting := none, rekeying := false, stopped := false })
    { s with fab := { s.fab with agreements := s.fab.agreements.del (v, peer, tl) } }

/-- The peer's confirmation ends the agreement: the ports that the association alone serves are released, and what waited for it goes out. -/
theorem execKeyAgree3_confirmed (hstep : a.step = 3) (han : a.an = an) : execKeyAgree3 v peer tl an true s = .next (
    let t := confirmedAssoc v peer tl s
    pumpPeer v peer (bumpV .rekeys v (stopPorts (soleOnPorts t v peer tl) false t))) := by
  rw [execKeyAgree3, onNode_live hl]
  simp only [ha, hstep, han, ne_eq, not_true_eq_false, or_self, if_false, Bool.not_true, Bool.false_eq_true, confirmedAssoc]

/-! ## Resending (R366) -/

/-- After 100 resends an agreement fails, at the step that goes unanswered. -/
theorem execKeyAgreeResend_last (hlast : 100 ≤ a.resends) : execKeyAgreeResend v peer tl s
    = .next (agreeFail v peer tl (if a.initiator ∧ a.step = 1 then 1 else 5) s) := by
  rw [execKeyAgreeResend, onNode_live hl]
  simp only [ha, hlast, if_true]

/-- Until then it sends what its step calls for again, and counts it. -/
theorem execKeyAgreeResend_again (hleft : a.resends < 100) : execKeyAgreeResend v peer tl s = .next (
    let t := putAgreement v peer tl { a with resends := a.resends + 1 } s
    if a.initiator ∧ a.step = 1 then sendAgree v peer tl a.an 1 a.body t
    else if a.initiator then sendConfirm v peer tl t
    else sendConfirm v peer tl (sendAgree v peer tl a.an 2 a.body t)) := by
  rw [execKeyAgreeResend, onNode_live hl]
  simp only [ha, Nat.not_le.mpr hleft, if_false, putAgreement]

omit ha

/-! ## Retirement and exhaustion (R366, R367) -/

theorem execRxSaRetire_live : execRxSaRetire v peer tl s
    = .next (updAssoc v peer tl (fun x => if x.newSeen then { x with prevRx := [] } else x) s) :=
  onNode_live hl

variable {x : Assoc} {tx : TxSa} (hx : assocAt s v peer tl = some x) (htx : x.tx = some tx)
include hx htx

/-- A transmit packet number of 2^62 begins a new agreement, once. -/
theorem execRekeyDue_reached (hpn : 2 ^ 62 ≤ tx.next) (hfirst : x.rekeying = false) :
    execRekeyDue v peer tl s = .next (startAgreement v peer tl
      (logFrom v 0x0804 srcFabric [] (updAssoc v peer tl (fun x => { x with rekeying := true }) s))) := by
  rw [execRekeyDue, onNode_live hl]
  simp only [hx, htx, decide_eq_true hpn, hfirst, Bool.not_true, Bool.false_eq_true, or_self, if_false]

/-- One of 2^64 − 2^32 stops the association, and the ports that it alone serves. -/
theorem execPnExhausted_reached (hpn : pnLimit ≤ tx.next) : execPnExhausted v peer tl s
    = .next (stopPorts (soleOnPorts s v peer tl) true (updAssoc v peer tl (fun x => { x with stopped := true }) s)) := by
  rw [execPnExhausted, onNode_live hl]
  simp only [hx, htx, decide_eq_true hpn, Bool.not_true, Bool.false_eq_true, if_false]

end

/-- Key agreement: KEY_AGREE 1 and 2 by the judgement of the peer's credentials, KEY_AGREE 3 by its own equation. -/
theorem keyAgreementCompletes : Parts.KeyAgreementCompletes := by
  refine ⟨?request, ?again, ?answer, ?confirm⟩
  case request =>
    intro v peer tl an ek nonce cred s hl hcan hlower hnew
    have hrow := execKeyAgree1_new (cred := cred) hl hcan hlower hnew
    split
    next t hjudge => exact hrow.trans (by rw [hjudge, Option.getD_some])
    next hjudge =>
      refine ⟨responderAgreement an ek nonce cred s, _, hrow.trans (by rw [hjudge, Option.getD_none]), ?_⟩
      exact ⟨Tbl.at?_put_self _ _ _, rfl, rfl, rfl, rfl, rfl, rfl, rfl, rfl⟩
  case again =>
    exact fun _ _ _ _ _ _ _ _ _ hl hcan hlower hsame ha hresponder => execKeyAgree1_again hl hcan hlower hsame ha hresponder
  case answer =>
    intro v peer tl ct nonce cred s a hl ha hcan hinitiator hstep
    have hrow := execKeyAgree2_answered (ct := ct) (nonce := nonce) (cred := cred) hl ha hcan hinitiator hstep
    split
    next t hjudge => exact hrow.trans (by rw [hjudge, Option.getD_some])
    next hjudge =>
      refine ⟨initiatorAgreement a ct nonce cred, _, hrow.trans (by rw [hjudge, Option.getD_none]; rfl), ?_⟩
      exact ⟨Tbl.at?_put_self _ _ _, rfl, rfl, rfl, rfl, rfl, rfl, rfl⟩
  case confirm => exact fun _ _ _ _ _ _ hl ha hstep han => execKeyAgree3_confirmed hl ha hstep han

/-- The life of an association: each event by the equation of its meaning above; KEY_AGREE_RESEND by the count of resends and by the side and the step
of the agreement. -/
theorem associationLifeCompletes : Parts.AssociationLifeCompletes := by
  refine ⟨?resend, ?retire, ?rekey, ?exhausted⟩
  case resend =>
    intro v peer tl s a hl ha
    refine ⟨fun hlast => execKeyAgreeResend_last hl ha hlast, fun hleft => ?_⟩
    have hrow := execKeyAgreeResend_again hl ha hleft
    refine ⟨fun hinitiator hstep => hrow.trans ?request, fun hinitiator hstep => hrow.trans ?confirmation, fun hresponder => hrow.trans ?answer⟩
    case request => exact congrArg _ (if_pos ⟨hinitiator, hstep⟩)
    case confirmation => exact congrArg _ ((if_neg (mt And.right hstep)).trans (if_pos hinitiator))
    case answer =>
      have hnot : ¬(a.initiator = true) := Bool.eq_false_iff.mp hresponder
      exact congrArg _ ((if_neg (mt And.left hnot)).trans (if_neg hnot))
  case retire => exact fun _ _ _ _ hl => execRxSaRetire_live hl
  case rekey => exact fun _ _ _ _ _ _ hl hx htx hpn hfirst => execRekeyDue_reached hl hx htx hpn hfirst
  case exhausted => exact fun _ _ _ _ _ _ hl hx htx hpn => execPnExhausted_reached hl hx htx hpn

/-- Settles O22: the agreement of keys, and the life of an association. -/
theorem associationsComplete : Obligations.AssociationsComplete := ⟨keyAgreementCompletes, associationLifeCompletes⟩

end Sys2Proof.Machine

/-! # Appends: from the message or command to the rows written, what goes on after them, and what ends by a timeout; the statement O4 -/

namespace Sys2Proof.Machine

section
variable {s b w t z : State} {c : Cmd} {m : Msg} {src : AppendSrc} {i : Instr} {payload : List Byte} {d : AppendDesc} {k : Knobs} {u : Upsets}
  {rec : FrameId} {r : SpanRec} {rows : List (List StoredRow)} {cmp : List (Nat × Nat × Compared)}

/-! ## The message and the command (R95, R98, R102, R359, R375) -/

section
variable (hl : live s = true)
include hl

/-- An APPEND that is not the next of its queue pair leaves the node as it is. -/
theorem appendMsgRow_outOfTurn (ha : admits s m opAppend (fun p => decide (p = payload)) = false) :
    appendMsgRow m payload u s = .next s := by
  rw [appendMsgRow, onMsg, onNode_live hl, ha, if_neg Bool.false_ne_true]

variable (ha : admits s m opAppend (fun p => decide (p = payload)) = true) (hpeer : hasPeer (takeMsg m s) m.vnode m.sender = true)
include ha hpeer

/-- One of a fenced sender, or at a fenced node, is answered ST_FENCED before any check of it. -/
theorem appendMsgRow_fenced (hfence : isFenced (takeMsg m s) m.vnode m.sender = true ∨ selfFenced (takeMsg m s) m.vnode = true) :
    appendMsgRow m payload u s = .next (answerAppend (.msg m) (readAppend payload) { status := stFenced }
      (bumpV .fencedAnswers m.vnode (takeMsg m s))) := by
  rw [appendMsgRow, onMsg_admits hl ha]
  simp only [hpeer, Bool.not_true, Bool.false_eq_true, if_false, if_pos hfence]

variable (hsender : isFenced (takeMsg m s) m.vnode m.sender = false) (hself : selfFenced (takeMsg m s) m.vnode = false)
include hsender hself

/-- One whose descriptor step 1 refuses is answered ST_BAD_PARAM. -/
theorem appendMsgRow_badField {o : Nat} (hbad : appendStep1 payload = some o) : appendMsgRow m payload u s
    = .next (answerAppend (.msg m) (readAppend payload) { status := stBadParam } (takeMsg m s)) := by
  rw [appendMsgRow, onMsg_admits hl ha]
  simp only [hpeer, hsender, hself, hbad, Bool.not_true, Bool.false_eq_true, or_self, if_false]

/-- One under an accepted map epoch whose descriptor passes step 1 goes to the span search. -/
theorem appendMsgRow_enters (hgood : appendStep1 payload = none) (hmap : (mapFor (takeMsg m s) m.vnode m.mapEpoch).isSome = true) :
    appendMsgRow m payload u s = .next (appendFrom (.msg m) (.append m payload u) payload (msgKnobs s m) false none u
      (applyDirUpsets u (takeMsg m s))) := by
  rw [appendMsgRow, onMsg_admits hl ha]
  simp only [hpeer, hsender, hself, hgood, Option.isNone_eq_false_iff.mpr hmap, Bool.not_true, Bool.false_eq_true, or_self, if_false]

end

/-- A served KV_APPEND whose descriptor passes step 1 goes to the span search. -/
theorem kvAppendRow_enters (hs : Serves c payload.length s b w) (hgood : appendStep1 payload = none) : kvAppendRow c payload u s
    = .next (appendFrom (.cmd c) (.kvAppend c payload u) payload (knobsOf w c) false none u (applyDirUpsets u w)) := by
  have ⟨_, _, _, hlen⟩ := hs
  rw [kvAppendRow, runVerb_serves hs]
  simp only [hgood, hlen, ne_eq, not_true_eq_false, if_false, finish_later]

/-- Where every stack fills, an APPEND leaves what its row does, with what part writes have found handled (R142, R146). -/
theorem execAppend_fills (hl : live s = true) (hfill : AllFill s) (hrow : appendMsgRow m payload u s = .next t) :
    execAppend m payload u s = .next (settleUe t) :=
  filling_of hl hfill hrow

/-- So does a KV_APPEND. -/
theorem execKvAppend_fills (hl : live s = true) (hfill : AllFill s) (hrow : kvAppendRow c payload u s = .next t) :
    execKvAppend c payload u s = .next (settleUe t) :=
  filling_of hl hfill hrow

/-! ## The span search and the checks (R85, R101–R103) -/

/-- A descriptor that no held one goes before, whose span is found with a geometry that it fits and no hold on its heads, is checked against the span
record, where no copy-on-write that it would repeat awaits its twin. -/
theorem appendFrom_found {order : Option Nat} {shared : Bool} (hfirst : behindHeld s order (srcVnode s src) (readAppend payload) = false)
    (hfind : findSpanFor order.isSome (srcVnode s src) (readAppend payload).handle (readAppend payload).span s = (.found rec shared, t))
    (hrec : spanAt t rec = some r) (hfits : appendGeometry r.geo (readAppend payload) payload.length = none)
    (hfree : heldHead t rec (readAppend payload) = none)
    (hcow : (shared && hasNew r (readAppend payload) && cowPending t (srcVnode s src) (readAppend payload)) = false) :
    appendFrom src i payload k false order u s = appendChecked src payload (readAppend payload) rec r shared k false u t := by
  rw [appendFrom]
  simp only [hfirst, hfind, hrec, hfits, hfree, hcow, Bool.not_false, Bool.true_and, Bool.false_eq_true, if_false]

/-- The same for a new descriptor, of a record that is not shared. -/
theorem appendFrom_finds (h : AppendFinds src payload s rec r t) :
    appendFrom src i payload k false none u s = appendChecked src payload (readAppend payload) rec r false k false u t := by
  obtain ⟨hfirst, hfind, hrec, hfits, hfree⟩ := h
  exact appendFrom_found hfirst hfind hrec hfits hfree (by rw [Bool.false_and, Bool.false_and])

/-- The record under the handle that a descriptor names it by. -/
def named (r : SpanRec) (d : AppendDesc) : SpanRec := { r with handle := d.handle }

/-- A descriptor that passes every check is mirrored and applied. -/
theorem appendChecked_passes (h : AppendPasses payload rec r rows t z) :
    appendChecked src payload (readAppend payload) rec r false k false u t = appendChecked.appendMirror src payload (readAppend payload) rec r
      false k false rows (repeats z r (readAppend payload) rows) u.linkFails z := by
  obtain ⟨hsmooth, hgap, hlost, hopen, hgen, hconv, hreads, hkept, hreadable, hconflict, hroom⟩ := h
  have hframes : ¬(freeForUse z r.vnode + b2n r.spare.isSome < newPages r (readAppend payload) + 0 ∨ freeForUse z r.vnode < 0) := by omega
  rw [appendChecked]
  simp only [hsmooth, hgap, hlost, hopen, hgen, hconv, Bool.false_and, Bool.false_eq_true, if_false, hreads, hkept, Option.getD_some,
    hreadable, hconflict, false_and, if_neg hframes]

/-- Where no node mirrors a descriptor's rows it is applied at once. -/
theorem appendMirror_alone {links : Nat} (hnone : rowMessages z (named r d) d rows = []) :
    appendChecked.appendMirror src payload d rec r false k false rows cmp links z = applyLinked src d rec r false rows cmp links z := by
  rw [named] at hnone
  rw [appendChecked.appendMirror]
  simp only [Bool.false_and, Bool.false_eq_true, if_false, hnone, List.append_nil, List.isEmpty_nil, true_or, if_true]

/-- A SYNC descriptor whose rows another node is to have sends them and waits. -/
theorem appendMirror_sync {links : Nat} (hsync : r.geo.mirrorMode = 0) (hsome : rowMessages z (named r d) d rows ≠ []) :
    appendChecked.appendMirror src payload d rec r false k false rows cmp links z
      = sendSync src payload d rec (named r d) k links (rowMessages z (named r d) d rows) z := by
  rw [named] at hsome ⊢
  rw [appendChecked.appendMirror]
  simp only [Bool.false_and, Bool.false_eq_true, if_false, List.nil_append, List.isEmpty_eq_false_iff.mpr hsome, or_self, hsync, if_true]

/-- A new descriptor that is found its span, passes every check and is mirrored by no other node is applied at once. -/
theorem appendFrom_alone (hfind : AppendFinds src payload s rec r t) (hpass : AppendPasses payload rec r rows t z)
    (hnone : rowMessages z (named r (readAppend payload)) (readAppend payload) rows = []) : appendFrom src i payload k false none u s
      = applyLinked src (readAppend payload) rec r false rows (repeats z r (readAppend payload) rows) u.linkFails z :=
  (appendFrom_finds hfind).trans ((appendChecked_passes hpass).trans (appendMirror_alone hnone))

/-! ## The write (R103, R120, R145) -/

theorem applyLinked_unbroken {shared : Bool} : applyLinked src d rec r shared rows cmp 0 s = applyRows src d rec r shared rows cmp s := by
  rw [applyLinked, if_neg (fun h => h.2 rfl)]

section
variable {shared : Bool} (hnew : hasNew r d = true)
include hnew

/-- A write whose first transfer alone fails is sent again. -/
theorem applyLinked_once : applyLinked src d rec r shared rows cmp 1 s
    = applyRows src d rec r shared rows cmp (bumpAt .stackLinkResends (frameStack (writtenFrame rec r shared d s)) 1 s) := by
  rw [applyLinked, if_pos ⟨hnew, Nat.one_ne_zero⟩]
  exact if_neg (by decide)

/-- After the second failure nothing is written. -/
theorem applyLinked_broken {links : Nat} (htwice : 2 ≤ links) : applyLinked src d rec r shared rows cmp links s = (
    let f := writtenFrame rec r shared d s
    let t := bumpAt .stackLinkResends (frameStack f) 1 s
    answerAppend src d (outFrom t rec d { status := stUncorrectable }) (linkFailed f t)) := by
  rw [applyLinked, if_pos ⟨hnew, by omega⟩]
  exact if_pos htwice

end

section
variable {o : AppendOut}

/-- The fields that a reply takes from the record are its fill point and generations. -/
theorem outFrom_fields : ∃ fill first last, outFrom s rec d o = { o with fill := fill, firstGen := first, lastGen := last } := by
  rw [outFrom]
  cases spanAt s rec with
  | none => exact ⟨o.fill, o.firstGen, o.lastGen, rfl⟩
  | some r => exact ⟨_, _, _, rfl⟩

theorem outFrom_status : (outFrom s rec d o).status = o.status := by
  obtain ⟨_, _, _, h⟩ := outFrom_fields (s := s) (rec := rec) (d := d) (o := o)
  rw [h]

/-- A descriptor whose rows are written is answered by whether frames run low. -/
theorem growStatus_cases {low : Prop} [Decidable low] :
    (if low then stGrowLow else stOk) = stOk ∨ (if low then stGrowLow else stOk) = stGrowLow := by
  by_cases h : low
  · exact Or.inr (if_pos h)
  · exact Or.inl (if_neg h)

/-- What the rows of a descriptor that makes no copy answer: ST_OK or ST_GROW_LOW, with no field at fault, no other node named and nothing copied. -/
theorem applyRows_answers : ∃ o t, applyRows src d rec r false rows cmp s = answerAppend src d o t
    ∧ (o.status = stOk ∨ o.status = stGrowLow) ∧ o.bad = 0 ∧ o.node = none ∧ o.copied = false := by
  refine ⟨_, _, rfl, ?_⟩
  obtain ⟨fill, first, last, hout⟩ := outFrom_fields
  rw [hout]
  exact ⟨growStatus_cases, rfl, rfl, rfl⟩

end

/-! ## The seal and spare queues (R119, R123, R382) -/

/-- The first page of the seal queue is sealed. -/
theorem execPageSeal_first {x : SealItem} {rest : List SealItem} (hl : live s = true) (hqueue : s.sealQueue = x :: rest) :
    execPageSeal s = .next (wake (settle (sealPage x.page { s with sealQueue := rest, work := x.work }))) := by
  refine waking_of hl ?_
  rw [pageSealRow, onNode_live hl]
  simp only [hqueue]

/-- The spare owed longest is taken. -/
theorem execSpareReplenish_owed (hl : live s = true) (howed : owedFirst s = some rec) :
    execSpareReplenish s = .next (takeSpare rec s) := by
  rw [execSpareReplenish, onNode_live hl]
  simp only [howed]

/-! ## Timeouts (R67, R396, R397) -/

section
variable {req : Nat} (hl : live s = true)
include hl

/-- A mirrored append whose twin does not answer writes nothing and is told when to come again. -/
theorem execMirrorAckTimeout_waiting (hdrop : dropAppend req s = some (src, d, rec, t)) : execMirrorAckTimeout req s = .next (
    let e := takeEstimate t
    wake (answerAppend src d (outFrom t rec d { status := stRetryAfter, hint := e.1 }) (bump .mirrorRetries e.2))) := by
  rw [execMirrorAckTimeout, onNode_live hl]
  simp only [hdrop]

/-- A query that is in service ends with its request. -/
theorem execDataRequestTimeout_inService (hreq : s.attn.reqs.has req = true) :
    execDataRequestTimeout req s = .next (settle (failReq req stTimeout 0 s)) := by
  rw [execDataRequestTimeout, onNode_live hl, if_pos hreq]

variable (hreq : s.attn.reqs.has req = false)
include hreq

/-- A query descriptor that the directory holds ends. -/
theorem execDataRequestTimeout_heldQuery {q : HeldQuery} (hheld : s.attn.held.at? req = some q) :
    execDataRequestTimeout req s = .next (wake (endQuery req q stTimeout s)) := by
  rw [execDataRequestTimeout, onNode_live hl]
  simp only [hreq, Bool.false_eq_true, if_false, hheld]

variable (hheld : s.attn.held.at? req = none)
include hheld

/-- An append that waits for its twin ends, and writes nothing. -/
theorem execDataRequestTimeout_mirrored (hdrop : dropAppend req s = some (src, d, rec, t)) :
    execDataRequestTimeout req s = .next (wake (answerAppend src d (outFrom t rec d { status := stTimeout }) t)) := by
  rw [execDataRequestTimeout, onNode_live hl]
  simp only [hreq, Bool.false_eq_true, if_false, hheld, hdrop]

variable (hdrop : dropAppend req s = none)
include hdrop

/-- A held APPEND is answered ST_TIMEOUT. -/
theorem execDataRequestTimeout_heldAppend {x : Deferred} (hx : s.deferred.find? (fun x => decide (x.id = req)) = some x)
    (hi : x.instr = .append m payload u) : execDataRequestTimeout req s
      = .next (wake (answerAppend (.msg m) (readAppend payload) { status := stTimeout } (undefer req s))) := by
  rw [execDataRequestTimeout, onNode_live hl]
  simp only [hreq, Bool.false_eq_true, if_false, hheld, hdrop, hx, hi]

/-- A held KV_APPEND is answered ST_TIMEOUT. -/
theorem execDataRequestTimeout_heldKvAppend {x : Deferred} (hx : s.deferred.find? (fun x => decide (x.id = req)) = some x)
    (hi : x.instr = .kvAppend c payload u) : execDataRequestTimeout req s
      = .next (wake (answerAppend (.cmd c) (readAppend payload) { status := stTimeout } (undefer req s))) := by
  rw [execDataRequestTimeout, onNode_live hl]
  simp only [hreq, Bool.false_eq_true, if_false, hheld, hdrop, hx, hi]

/-- A command of the TIER family ends with its page operation. -/
theorem execDataRequestTimeout_tier {down : Bool} {left : List PageRef} {st : Status}
    (hfree : s.deferred.find? (fun x => decide (x.id = req)) = none) (hjob : s.jobs.at? req = some (.tier c down left st)) :
    execDataRequestTimeout req s = .next (complete c (Reply.st stTimeout) (endJob req s)) := by
  rw [execDataRequestTimeout, onNode_live hl]
  simp only [hreq, Bool.false_eq_true, if_false, hheld, hdrop, hfree, hjob]

end

end

/-- How an APPEND and a KV_APPEND are met, where no stack holds a frame back. -/
theorem appendCommandsEnter : Parts.AppendCommandsEnter := by
  refine ⟨?enters, ?badField, ?fenced, ?outOfTurn, ?kvAppend⟩
  case enters =>
    exact fun _ _ _ _ hl hfill ha hpeer hgood hsender hself hmap =>
      execAppend_fills hl hfill (appendMsgRow_enters hl ha hpeer hsender hself hgood hmap)
  case badField =>
    exact fun _ _ _ _ _ hl hfill ha hpeer hsender hself hbad =>
      execAppend_fills hl hfill (appendMsgRow_badField hl ha hpeer hsender hself hbad)
  case fenced => exact fun _ _ _ _ hl hfill ha hpeer hfence => execAppend_fills hl hfill (appendMsgRow_fenced hl ha hpeer hfence)
  case outOfTurn => exact fun _ _ _ _ hl hfill ha => execAppend_fills hl hfill (appendMsgRow_outOfTurn hl ha)
  case kvAppend => exact fun _ _ _ _ _ _ hs hfill hgood => execKvAppend_fills hs.1 hfill (kvAppendRow_enters hs hgood)

/-- The descriptors that pass every check and that no other node mirrors, their writes over links that fail, and their answers. -/
theorem appendsWriteTheirRows : Parts.AppendsWriteTheirRows := by
  refine ⟨?append, ?kvAppend, ?linked, ?answers⟩
  case append =>
    intro m payload u s rec r rows t z hl hfill ha hpeer hgood hsender hself hmap hfind hpass hnone
    have hrow := appendMsgRow_enters (u := u) hl ha hpeer hsender hself hgood hmap
    exact execAppend_fills hl hfill (hrow.trans (congrArg _ (appendFrom_alone hfind hpass hnone)))
  case kvAppend =>
    intro c payload u s b w rec r rows t z hs hfill hgood hfind hpass hnone
    exact execKvAppend_fills hs.1 hfill ((kvAppendRow_enters hs hgood).trans (congrArg _ (appendFrom_alone hfind hpass hnone)))
  case linked =>
    intro src d rec r shared rows cmp s
    refine ⟨applyLinked_unbroken, fun hnew => applyLinked_once hnew, fun links hnew htwice => ?_⟩
    exact ⟨_, _, applyLinked_broken hnew htwice, outFrom_status, rfl, rfl⟩
  case answers => exact fun _ _ _ _ _ _ _ => applyRows_answers

/-- A SYNC append: its search, its checks and its mirroring in turn. -/
theorem syncAppendsWait : Parts.SyncAppendsWait :=
  fun _ _ _ _ _ _ _ _ _ _ _ hfind hpass hsync hsome =>
    (appendFrom_finds hfind).trans ((appendChecked_passes hpass).trans (appendMirror_sync hsync hsome))

/-- What ends by a timeout, by what the request waits for. -/
theorem requestTimeoutsComplete : Parts.RequestTimeoutsComplete := by
  refine ⟨?mirrorAck, ?inService, ?heldQuery, ?mirrored, ?heldAppend, ?tier⟩
  case mirrorAck => exact fun _ _ _ _ _ _ hl hdrop => execMirrorAckTimeout_waiting hl hdrop
  case inService => exact fun _ _ hl hreq => execDataRequestTimeout_inService hl hreq
  case heldQuery => exact fun _ _ _ hl hreq hheld => execDataRequestTimeout_heldQuery hl hreq hheld
  case mirrored => exact fun _ _ _ _ _ _ hl hreq hheld hdrop => execDataRequestTimeout_mirrored hl hreq hheld hdrop
  case heldAppend =>
    exact fun _ _ _ hl hreq hheld hdrop hx =>
      ⟨fun _ _ _ hi => execDataRequestTimeout_heldAppend hl hreq hheld hdrop hx hi,
        fun _ _ _ hi => execDataRequestTimeout_heldKvAppend hl hreq hheld hdrop hx hi⟩
  case tier => exact fun _ _ _ _ _ _ hl hreq hheld hdrop hfree hjob => execDataRequestTimeout_tier hl hreq hheld hdrop hfree hjob

/-- Settles O4: the part statements above, with the seal and spare queues and the span search by the equations of their meaning. -/
theorem appendRowsComplete : Obligations.AppendRowsComplete :=
  ⟨appendCommandsEnter, appendsWriteTheirRows, syncAppendsWait,
    ⟨fun _ _ _ hl hqueue => execPageSeal_first hl hqueue, fun _ _ hl howed => execSpareReplenish_owed hl howed⟩,
    fun _ _ _ _ _ _ _ _ _ _ _ hfirst hfind hrec hfits hfree hcow => appendFrom_found hfirst hfind hrec hfits hfree hcow,
    requestTimeoutsComplete⟩

end Sys2Proof.Machine

/-! # Pairs: their forming, heartbeats, fences, solo operation and the queries about twins; the statements O23 and O24 -/

namespace Sys2Proof.Machine

section
variable {s b w : State} {c : Cmd} {h : PeerHdr} {v : VId} {g : Pairing} {role : BitVec 2}

/-! ## Forming a pair (R386, R387) -/

/-- A virtual node that has entered a pairing: the lower identifier has proposed it to the other. -/
def pairingBegun (v : VId) (c : Cmd) (p : PairBlk) (s : State) : State :=
  let t := updVn v (fun n => { n with pairing := some ⟨c, p, none⟩ }) s
  if (vn s v).nodeId.toNat < p.twin.toNat then sendProposed v p.twin p.pairEpoch (.pairPropose p.role) t else t

theorem execTwinPair_begins {p : PairBlk} (hs : Serves c 32 s b w) (hepoch : p.pairEpoch ≠ 0) (htwin : p.twin.toNat < 0x1000)
    (hrole : p.role ≠ 3) (hallowed : pairDenied w (vnodeOf w c) p = false) (hnone : (vn w (vnodeOf w c)).pairing = none) :
    execTwinPair c p s = .next (pairingBegun (vnodeOf w c) c p w) := by
  rw [execTwinPair, runVerb_pass hs (by simpa [fieldsPass, htwin] using ⟨hepoch, hrole⟩)]
  simp only [hallowed, hnone, Option.isSome_none, Bool.false_eq_true, if_false, finish_later, pairingBegun]

section
variable (m : Met h .propose s) (hpairing : (vn (takePeer h.sender s) h.vnode).pairing = some g)
  (hroles : rolesMatch g.blk.role role = true)
include m hpairing hroles

/-- A proposal of the lower identifier with matching roles, which names this node, is confirmed and forms the pair. -/
theorem execPairPropose_matches (hlower : h.sender.toNat < (vn (takePeer h.sender s) h.vnode).nodeId.toNat) :
    execPairPropose h role (vn (takePeer h.sender s) h.vnode).nodeId s = .next (formPair h.vnode
      (sendProposed h.vnode h.sender h.pairEpoch (.pairConfirm g.blk.role) (ackPeer h stOk 0 (takePeer h.sender s)))) := by
  rw [execPairPropose, onPeer_met m]
  simp only [hpairing, hroles, Bool.not_true, Bool.false_eq_true, ne_eq, not_true_eq_false, Nat.not_le.mpr hlower, or_self, if_false]

theorem execPairConfirm_matches : execPairConfirm h role (vn (takePeer h.sender s) h.vnode).nodeId s
    = .next (formPair h.vnode (ackPeer h stOk 0 (takePeer h.sender s))) := by
  rw [execPairConfirm, onPeer_met m]
  simp only [hpairing, hroles, Bool.not_true, Bool.false_eq_true, ne_eq, not_true_eq_false, or_self, if_false]

end

theorem execTwinPairTimeout_pairing (hl : live s = true) (hpairing : (vn s v).pairing = some g) : execTwinPairTimeout v s
    = .next (complete g.cmd (Reply.st stTimeout) (dropSent (isPairing v) (updVn v (fun n => { n with pairing := none }) s))) := by
  rw [execTwinPairTimeout, onNode_live hl]
  simp only [hpairing]

/-! ## Heartbeats (R407, R408, R411) -/

/-- The payload of a heartbeat that a node sends to its twin. -/
def heartbeatOf (s : State) (v : VId) : HeartbeatPayload :=
  let n := vn s v
  ⟨n.hbSeq, n.pairEpoch, n.fenceEpoch, mapEpochOf s v, BitVec.ofNat 8 n.pairState.code, isFenced s v n.twin, n.fenced,
    BitVec.ofNat 32 (rowsUnacked s v), false, false⟩

theorem execHeartbeatSend_paired (hl : live s = true) (hpaired : (vn s v).pairState ≠ .unpaired) (hsolo : (vn s v).pairState ≠ .solo) :
    execHeartbeatSend v s = .next (sendHeartbeat v false (heartbeatOf s v) (sendHeartbeat v true (heartbeatOf s v)
      (updVn v (fun n => { n with hbSeq := n.hbSeq + 1 }) s))) := by
  rw [execHeartbeatSend, onNode_live hl]
  simp only [hpaired, hsolo, or_self, if_false, heartbeatOf]

/-- Mark the path that a heartbeat came on, or that one was missed on. -/
def pathMarked (v : VId) (twinLink up : Bool) (s : State) : State :=
  updPair v (fun n => if twinLink then { n with twinUp := up } else { n with fabricUp := up }) s

theorem execHeartbeat_taken {sender : NodeId} {tl : Bool} {p : HeartbeatPayload} (hl : live s = true) (hform : p.malformed = false)
    (htalks : talks s v = true) (hassoc : (assocAt s v sender tl).isSome = true) (hrsv : p.rsv = false)
    (hpaired : (vn s v).pairState ≠ .unpaired) (htwin : (vn s v).twin = sender) (hepoch : p.pairEpoch = (vn s v).pairEpoch) :
    execHeartbeat v sender tl p s = .next (
      if p.youFenced then learnFenced v 3 (pathMarked v tl true s) else pathMarked v tl true s) := by
  have hknown : (assocAt s v sender tl).isNone = false := Option.isNone_eq_false_iff.mpr hassoc
  rw [execHeartbeat, onNode_live hl]
  simp only [hform, htalks, Bool.not_true, Bool.false_eq_true, if_false, hknown, hrsv, hpaired, htwin, hepoch, ne_eq, not_true_eq_false,
    or_self, pathMarked]

theorem execHeartbeatMiss_live {tl : Bool} (hl : live s = true) : execHeartbeatMiss v tl s = .next (pathMarked v tl false s) :=
  onNode_live hl

/-! ## Fences (R409, R411) -/

/-- A fence epoch taken, with its target added to the fence set or removed from it. -/
def fenceTaken (v : VId) (p : FenceBlk) (s : State) : State :=
  updVn v (fun n => { n with
    fenceEpoch := p.fenceEpoch
    fenceSet := if p.action = 0 then (if p.target ∈ n.fenceSet then n.fenceSet else n.fenceSet ++ [p.target])
      else n.fenceSet.filter (fun x => x ≠ p.target) }) s

/-- NODE_FENCE of a later epoch takes it; a node that is its own new target learns that it is fenced. -/
theorem execNodeFence_later {p : FenceBlk} (hs : Serves c 16 s b w) (haction : p.action.toNat ≤ 1) (htarget : p.target.toNat < 0x1000)
    (hlater : (vn w (vnodeOf w c)).fenceEpoch.toNat < p.fenceEpoch.toNat) :
    execNodeFence c p s = .next (complete c (Reply.st stOk) (
      if p.action = 0 ∧ p.target = (vn w (vnodeOf w c)).nodeId then learnFenced (vnodeOf w c) 1 (fenceTaken (vnodeOf w c) p w)
      else fenceTaken (vnodeOf w c) p w)) := by
  rw [execNodeFence, runVerb_pass hs (by simp [fieldsPass, haction, htarget])]
  simp only [Nat.not_le.mpr hlater, if_false, finish_st, fenceTaken]

/-! ## Solo operation and the takeover (R413, R414, R421) -/

/-- Whether TWIN_SOLO is allowed: the node has a twin, which is fenced; a bring-in's destination goes SOLO with a takeover alone. -/
structure SoloAllowed (v : VId) (takeover : Bool) (s : State) : Prop where
  paired : (vn s v).pairState ≠ .unpaired
  whole : (vn s v).pairState ≠ .copying ∨ (vn s v).pairSource = true ∨ takeover = true
  fenced : isFenced s v (vn s v).twin = true

theorem SoloAllowed.not_denied {takeover : Bool} (a : SoloAllowed v takeover s) :
    ¬((vn s v).pairState = .unpaired ∨ ((vn s v).pairState = .copying ∧ (!(vn s v).pairSource) = true ∧ (!takeover) = true)
      ∨ (!(isFenced s v (vn s v).twin)) = true) := by
  rintro (hunpaired | ⟨hcopying, hsource, hstays⟩ | hfree)
  · exact a.paired hunpaired
  · rcases a.whole with hwhole | hsrc | htake
    · exact hwhole hcopying
    · simp [hsrc] at hsource
    · simp [htake] at hstays
  · simp [a.fenced] at hfree

/-- The copies of the twin's spans and of its sequence records taken over. -/
def takenOver (v : VId) (s : State) : State :=
  let t := (twinCopies s v).foldl (fun s f => takeOver f s) s
  ((t.seqs.filter (fun q => decide (q.2.vnode = v) && q.2.copy)).map Prod.fst).foldl (fun s f => takeOverSeq f s) t

/-- The SPAN entries that a takeover writes. -/
def takeoverEntries (v : VId) (s : State) : List DirEntry := (twinCopies s v).filterMap (fun f => (spanAt s f).map (spanEntry f))

theorem twinSoloRow_allowed {takeover : Bool} (hs : Serves c 8 s b w) (a : SoloAllowed (vnodeOf w c) takeover w) :
    twinSoloRow c takeover s = .next (finish c b (
      let t := goSolo (vnodeOf w c) w
      if !takeover then .now (Reply.st stOk) t
      else if (takeoverEntries (vnodeOf w c) t).isEmpty then .now (Reply.st stOk) (takenOver (vnodeOf w c) t)
      else .later (addJob (.takeover c (takeoverEntries (vnodeOf w c) t)) (takenOver (vnodeOf w c) t)).2)) :=
  (runVerb_pass hs rfl).trans (congrArg (fun d => Host.Outcome.next (finish c b d)) (if_neg a.not_denied))

theorem execTwinSolo_stays (hs : Serves c 8 s b w) (a : SoloAllowed (vnodeOf w c) false w) :
    execTwinSolo c false s = .next (wake (complete c (Reply.st stOk) (goSolo (vnodeOf w c) w))) := by
  refine waking_of hs.1 ((twinSoloRow_allowed hs a).trans ?_)
  simp only [Bool.not_false, if_true, finish_st]

/-- With a takeover TWIN_SOLO ends at once where no SPAN entry is to be written, and otherwise with the last of them. -/
theorem execTwinSolo_takesOver (hs : Serves c 8 s b w) (a : SoloAllowed (vnodeOf w c) true w) :
    execTwinSolo c true s = .next (wake (
      let t := takenOver (vnodeOf w c) (goSolo (vnodeOf w c) w)
      let es := takeoverEntries (vnodeOf w c) (goSolo (vnodeOf w c) w)
      if es.isEmpty then complete c (Reply.st stOk) t else (addJob (.takeover c es) t).2)) := by
  refine waking_of hs.1 ((twinSoloRow_allowed hs a).trans ?_)
  simp only [Bool.not_true, Bool.false_eq_true, if_false]
  split
  · rw [finish_st]
  · rw [finish_later]

/-- HOME_UPDATE at the home of its handle notes where the span lies. -/
theorem execHomeUpdate_home {f : FrameId} (m : Met h .other s) (hhome : homeSeq (takePeer h.sender s) h.vnode h.handle = some f) :
    execHomeUpdate h s = .next (ackPeer h stOk 0 (setPlace h.vnode h.handle h.span.toNat h.sender (takePeer h.sender s))) := by
  rw [execHomeUpdate, onPeer_met m]
  simp only [hhome]

/-! ## Words of a structure (R7) -/

theorem leNat_leBytes (n x : Nat) : leNat (leBytes n x) = x % 256 ^ n := by
  induction n generalizing x with
  | zero => simp [leBytes, leNat, Nat.mod_one]
  | succ k ih =>
    have hbyte : (BitVec.ofNat 8 x).toNat = x % 256 := BitVec.toNat_ofNat x 8
    rw [leBytes, leNat, ih, hbyte, Nat.pow_succ', Nat.mod_mul]

/-- Word `i` of a structure is the number that stands there, cut to 64 bits. -/
theorem wordAt_words64 {ws : List Nat} {i x : Nat} (hx : ws[i]? = some x) : wordAt (words64 ws) i = x % 2 ^ 64 := by
  induction ws generalizing i with
  | nil => simp at hx
  | cons y r ih =>
    have hcons : words64 (y :: r) = leBytes 8 y ++ words64 r := List.flatMap_cons
    rw [hcons, wordAt, bytesAt]
    cases i with
    | zero =>
      obtain rfl : y = x := by simpa using hx
      have hbytes : 256 ^ 8 = 2 ^ 64 := by decide
      rw [Nat.mul_zero, List.drop_zero, List.take_left' (leBytes_length 8 y), leNat_leBytes, hbytes]
    | succ k =>
      have hskip : 8 * (k + 1) = (leBytes 8 y).length + 8 * k := by rw [leBytes_length]; omega
      rw [hskip, List.drop_length_add_append]
      exact ih (by simpa using hx)

/-! ## Status and the lost-span list (R415, R463, R465) -/

/-- The words of TWIN.STATUS. -/
def twinStatusWords (v : VId) (s : State) : List Nat :=
  let n := vn s v
  [word [(48, n.twin.toNat), (40, n.pairState.code), (32, liveness n), (0, n.pairEpoch.toNat)],
    word [(32, n.prevPairEpoch.toNat), (0, rowsUnacked s v)],
    word [(48, (n.codeset.map (fun p => p.1.toNat)).getD 0), (44, n.codeSlot.getD 15)], n.fenceEpoch.toNat,
    if n.pairState = .copying then word [(32, n.manifest.length), (0, n.manifestDone.length)] else 0, 0, 0, 0]

theorem execTwinStatus_serves (hs : Serves c 0 s b w) (hroom : 64 ≤ resultRoom b c) :
    execTwinStatus c s = .next (complete c (Reply.ofResult 1 (words64 (twinStatusWords (vnodeOf w c) w))) w) := by
  have hfits : Fits c b (Reply.ofResult 1 (words64 (twinStatusWords (vnodeOf w c) w))) := by
    rw [Fits, Reply.ofResult, words64_length]
    exact hroom
  rw [← finish_now hfits, execTwinStatus, runVerb_pass hs rfl]
  simp only [decide_eq_true_eq, twinStatusWords]

/-- The entries that NODE.LOST_LIST returns: those at or after a number, in its order, as many as are asked for and fit. -/
def lostReturned (c : Cmd) (fromSeq : BitVec 32) (most : Nat) (s : State) : List LostEntry :=
  (sortBy (fun a b => decide ((a.seq - fromSeq).toNat ≤ (b.seq - fromSeq).toNat))
    ((vn s (vnodeOf s c)).lost.filter (fun e => decide ((e.seq - fromSeq).toNat < 2 ^ 31)))).take (min most (resultRoom s c / 32))

/-- The lost-span list without the entries of kinds TAIL and MASKS that have been returned. -/
def lostDropped (v : VId) (out : List LostEntry) (s : State) : State :=
  updVn v (fun n => { n with lost := n.lost.filter (fun e =>
    !(decide (e ∈ out) && (decide (e.kind = .tail) || decide (e.kind = .masks)))) }) s

theorem execNodeLostList_serves {fromSeq : BitVec 32} {n : BitVec 13} (hs : Serves c 16 s b w) (hlow : 1 ≤ n.toNat) (hhigh : n.toNat ≤ 4096) :
    execNodeLostList c fromSeq n s = .next (finish c b (
      let out := lostReturned c fromSeq n.toNat w
      .now (Reply.ofResult out.length (out.flatMap lostEntryBytes)) (lostDropped (vnodeOf w c) out w))) := by
  have hcount : (decide (n.toNat < 1) || decide (4096 < n.toNat)) = false := by
    rw [decide_eq_false (Nat.not_lt.mpr hlow), decide_eq_false (Nat.not_lt.mpr hhigh), Bool.or_self]
  have hf : fieldsPass [(decide (n.toNat < 1) || decide (4096 < n.toNat), 72)] = true := by rw [hcount]; rfl
  rw [execNodeLostList, runVerb_pass hs hf]
  rfl

end

/-- Settles O23: each row by the equation of its meaning above. -/
theorem pairingCompletes : Obligations.PairingCompletes := by
  refine ⟨?twinPair, ?propose, ?confirm, ?timeout⟩
  case twinPair => exact fun _ _ _ _ _ hs hepoch htwin hrole hallowed hnone => execTwinPair_begins hs hepoch htwin hrole hallowed hnone
  case propose => exact fun _ _ _ _ m hpairing hroles hlower => execPairPropose_matches m hpairing hroles hlower
  case confirm => exact fun _ _ _ _ m hpairing hroles => execPairConfirm_matches m hpairing hroles
  case timeout => exact fun _ _ _ hl hpairing => execTwinPairTimeout_pairing hl hpairing

/-- The heartbeat, fence and solo rows. -/
theorem heartbeatAndFenceComplete : Parts.HeartbeatAndFenceComplete := by
  refine ⟨?send, ?heartbeat, ?miss, ?fence, ?solo⟩
  case send => exact fun _ _ hl hpaired hsolo => execHeartbeatSend_paired hl hpaired hsolo
  case heartbeat =>
    exact fun _ _ _ _ _ hl hform htalks hassoc hrsv hpaired htwin hepoch =>
      execHeartbeat_taken hl hform htalks hassoc hrsv hpaired htwin hepoch
  case miss => exact fun _ _ _ hl => execHeartbeatMiss_live hl
  case fence => exact fun _ _ _ _ _ hs haction htarget hlater => execNodeFence_later hs haction htarget hlater
  case solo =>
    intro c takeover s b w hs hpaired hwhole hfenced
    constructor
    · rintro rfl
      exact execTwinSolo_stays hs ⟨hpaired, hwhole, hfenced⟩
    · rintro rfl
      exact execTwinSolo_takesOver hs ⟨hpaired, hwhole, hfenced⟩

/-- The queries about twins; the words of TWIN.STATUS are read off its structure. -/
theorem twinQueriesComplete : Parts.TwinQueriesComplete := by
  refine ⟨?status, ?lostList, ?homeUpdate⟩
  case status =>
    intro c s b w hs hroom
    have hword : ∀ i x, (twinStatusWords (vnodeOf w c) w)[i]? = some x → wordAt (words64 (twinStatusWords (vnodeOf w c) w)) i = x % 2 ^ 64 :=
      fun _ _ hx => wordAt_words64 hx
    exact ⟨words64 (twinStatusWords (vnodeOf w c) w), words64_length _, execTwinStatus_serves hs hroom, hword 0 _ rfl, hword 1 _ rfl,
      hword 2 _ rfl, hword 4 _ rfl, hword 5 0 rfl, hword 6 0 rfl, hword 7 0 rfl,
      (hword 3 _ rfl).trans (Nat.mod_eq_of_lt (BitVec.isLt (w := 64) _))⟩
  case lostList => exact fun _ _ _ _ _ _ hs hlow hhigh => execNodeLostList_serves hs hlow hhigh
  case homeUpdate => exact fun _ _ _ m hhome => execHomeUpdate_home m hhome

/-- Settles O24: the heartbeats, fences and solo operation, and the queries. -/
theorem twinAndFenceRowsComplete : Obligations.TwinAndFenceRowsComplete := ⟨heartbeatAndFenceComplete, twinQueriesComplete⟩

end Sys2Proof.Machine

/-! # What a twin and the source of a copy send; the statements O25 and O26 -/

namespace Sys2Proof.Machine

section
variable {s : State} {h : PeerHdr} {f : FrameId} {layer head page : Nat}

/-- A PEER message over links that hold, where no frame waits for its fill, has its own effect. -/
theorem onPeer_linkedFills {cls : PeerClass} {g : State → State} (m : Met h cls s) (ha : AllFill s) (hlinks : h.links = 0) :
    onPeer h cls (linkPeer h (whenFills g)) s = .next (g (takePeer h.sender s)) := by
  rw [onPeer_met m, linkPeer_none hlinks, whenFills_of (allFill_takePeer ha)]

/-! ## Records and rows of a twin (R395, R398) -/

section
variable (m : Met h .twin s) (ha : AllFill s)
include m ha

theorem execMirrorRecord_seq {im : SeqImage} : execMirrorRecord h (.inr im) s = .next (
    let r := takeSeqImage h.vnode h.handle im (takePeer h.sender s)
    ackPeer h r.1 0 r.2) := by
  rw [execMirrorRecord, onPeer_met m, whenFills_of (allFill_takePeer ha)]

/-- The image of a span record whose copy is here changes the copy. -/
theorem execMirrorRecord_known {im : RecordImage} (hcopy : copyFor (takePeer h.sender s) h = some f) :
    execMirrorRecord h (.inl im) s = .next (ackPeer h stOk 0 (updSpan f (fun r => updatedBy r im) (takePeer h.sender s))) := by
  rw [execMirrorRecord, onPeer_met m, whenFills_of (allFill_takePeer ha)]
  simp only [hcopy]

/-- The image of a span record of which there is no copy enters one. -/
theorem execMirrorRecord_new {im : RecordImage} (hnone : copyFor (takePeer h.sender s) h = none) :
    execMirrorRecord h (.inl im) s = .next (
      let r := newCopy h.vnode h.handle h.span.toNat (recordOf h.vnode h.handle h.span.toNat im) (takePeer h.sender s)
      ackPeer h r.1 0 r.2) := by
  rw [execMirrorRecord, onPeer_met m, whenFills_of (allFill_takePeer ha)]
  simp only [hnone]

/-- Where no frame waits for its fill, MIRROR_ROWS is its rows taken over links that may fail. -/
theorem execMirrorRows_fills {rows : List RowsImage} :
    execMirrorRows h rows s = .next (linkPeer h (takeRows h rows) (takePeer h.sender s)) := by
  have hfills : whenFills (takeRows h rows) (takePeer h.sender s) = takeRows h rows (takePeer h.sender s) :=
    whenFills_of (allFill_takePeer ha)
  rw [execMirrorRows, onPeer_met m, linkPeer, hfills, linkPeer]

end

/-- What a message brings over links that fail: all of it where its write changes nothing, all of it after one resending, and nothing after the
second failure, at the place that the model's `firstChanged` names (R145; entries 114 and 121). -/
theorem linkPeer_errors {g : State → State} (hlinks : h.links ≠ 0) : linkPeer h g s = (
    match firstChanged s.mem.cells (g s).mem.cells with
    | none => g s
    | some a => if h.links = 1 then resent a (g s) else ackPeer h stUncorrectable 0 (linkBroken a s)) := by
  cases hc : firstChanged s.mem.cells (g s).mem.cells with
  | none => simp only [linkPeer, if_neg hlinks, hc]
  | some a => simp only [linkPeer, if_neg hlinks, hc]

/-! ## Seals and releases of a twin (R399, R400) -/

section
variable {p : PageRef} {x : Page} {digest : List Byte}

/-- Whether the rows of a copy fill a page. -/
def pageFilled (s : State) (p : PageRef) : Bool :=
  match spanAt s p.record with
  | some r => decide (p.page * r.geo.cap + r.geo.pageCap p.page ≤ r.fill p.layer p.head)
  | none => false

/-- The state in which a seal of the twin is judged: a page that is full is sealed and waits in the queue no more. -/
def sealJudged (p : PageRef) (s : State) : State :=
  if pageFilled s p then sealPage p { s with sealQueue := s.sealQueue.filter (fun i => i.page ≠ p) } else s

/-- The answer to a seal of the twin, whose copy is here. -/
def sealAnswered (h : PeerHdr) (p : PageRef) (digest : List Byte) (s : State) : State :=
  let t := sealJudged p s
  match pageAt t p with
  | none => ackPeer h (if pageFilled s p then stMiss else stRetryAfter) 0 t
  | some x =>
    if x.loc = .notCopied ∨ x.loc = .lost ∨ x.loc = .rebuild then
      ackPeer h stOk 0 (updPage p (fun x => { x with isSealed := true, digest := digest }) t)
    else if !x.isSealed then ackPeer h stRetryAfter 0 t
    else ackPeer h (if x.digest = digest then stOk else stReplicaDivergent) 0 t

theorem execMirrorSeal_copy (m : Met h .twin s) (hlinks : h.links = 0) (hcopy : copyFor (takePeer h.sender s) h = some f) :
    execMirrorSeal h layer head page digest s = .next (sealAnswered h ⟨f, layer, head, page⟩ digest (takePeer h.sender s)) := by
  rw [execMirrorSeal, onPeer_met m, linkPeer_none hlinks]
  simp only [hcopy]
  rfl

/-- A page that is not held takes the seal and its digest. -/
theorem sealAnswered_unheld (hpage : pageAt (sealJudged p s) p = some x) (hloc : x.loc = .notCopied ∨ x.loc = .lost ∨ x.loc = .rebuild) :
    sealAnswered h p digest s
      = ackPeer h stOk 0 (updPage p (fun x => { x with isSealed := true, digest := digest }) (sealJudged p s)) := by
  rw [sealAnswered]
  simp only [hpage, if_pos hloc]

/-- A page that is held and sealed has its digest compared. -/
theorem sealAnswered_sealed (hpage : pageAt (sealJudged p s) p = some x)
    (hloc : ¬(x.loc = .notCopied ∨ x.loc = .lost ∨ x.loc = .rebuild)) (hsealed : x.isSealed = true) :
    sealAnswered h p digest s = ackPeer h (if x.digest = digest then stOk else stReplicaDivergent) 0 (sealJudged p s) := by
  rw [sealAnswered]
  simp only [hpage, if_neg hloc, hsealed, Bool.not_true, Bool.false_eq_true, if_false]

end

section
variable (m : Met h .twin s) (hcopy : copyFor (takePeer h.sender s) h = some f)
include m hcopy

theorem execMirrorRelease_whole : execMirrorRelease h none s = .next (ackPeer h stOk 0 (dropCopy f (takePeer h.sender s))) := by
  rw [execMirrorRelease, onPeer_met m]
  simp only [hcopy]

theorem execMirrorRelease_pages (ps : List (Nat × Nat × Nat)) :
    execMirrorRelease h (some ps) s = .next (ackPeer h stOk 0 (dropPages f ps (takePeer h.sender s))) := by
  rw [execMirrorRelease, onPeer_met m]
  simp only [hcopy]

end

/-! ## The messages of a copy (R417–R420, R423) -/

section
variable (m : Met h .copy s)
include m

/-- A manifest as it is entered and acknowledged. -/
def manifestEntered (h : PeerHdr) (spans : List (Handle × SpanIx)) (s : State) : State :=
  ackPeer h (enterManifest h.vnode spans s).1 0 (enterManifest h.vnode spans s).2

/-- Whether a manifest that has been entered is that of the bring-in under way here. -/
def bringsIn (h : PeerHdr) (spans : List (Handle × SpanIx)) (s : State) : Prop :=
  (enterManifest h.vnode spans s).1 = stOk ∧ h.viaTwin = true ∧ (vn s h.vnode).pairState = .copying ∧ (vn s h.vnode).pairSource = false
    ∧ (vn s h.vnode).twin = h.sender

/-- A manifest that is not a bring-in's, or that is not entered, is acknowledged and no more. -/
theorem execCopyManifest_other {spans : List (Handle × SpanIx)} (ha : AllFill s) (hother : ¬bringsIn h spans (takePeer h.sender s)) :
    execCopyManifest h spans s = .next (manifestEntered h spans (takePeer h.sender s)) := by
  rw [execCopyManifest, onPeer_met m, whenFills_of (allFill_takePeer ha)]
  simp only [Bool.not_eq_true']
  exact congrArg _ (if_neg hother)

/-- The manifest of a bring-in is noted, and completes it where it is empty. -/
theorem execCopyManifest_bringIn {spans : List (Handle × SpanIx)} (ha : AllFill s) (hbring : bringsIn h spans (takePeer h.sender s)) :
    execCopyManifest h spans s = .next (
      let u := updVn h.vnode (fun n => { n with manifest := spans.map (fun x => (x.1, x.2.toNat)) })
        (manifestEntered h spans (takePeer h.sender s))
      if spans.isEmpty then copyComplete h.vnode u else u) := by
  rw [execCopyManifest, onPeer_met m, whenFills_of (allFill_takePeer ha)]
  simp only [Bool.not_eq_true']
  exact congrArg _ (if_pos hbring)

theorem execCopyRecord_copy {rec : RecordImage} (hcopy : copyFor (takePeer h.sender s) h = some f) :
    execCopyRecord h rec s = .next (ackPeer h stOk 0
      (updSpan f (fun r => if r.arrived then r else recordOf r.vnode r.handle r.span rec) (takePeer h.sender s))) := by
  rw [execCopyRecord, onPeer_met m]
  simp only [hcopy]

/-- A page that the copy lacks enters it where its content is right and a frame is FREE. -/
theorem execCopyPage_lacked {x : Page} {content : List Byte} (hlinks : h.links = 0)
    (hcopy : copyFor (takePeer h.sender s) h = some f) (hpage : pageAt (takePeer h.sender s) ⟨f, layer, head, page⟩ = some x)
    (hloc : x.loc = .notCopied) : execCopyPage h layer head page x.isSealed content s = .next (
      match rewritePage ⟨f, layer, head, page⟩ content (takePeer h.sender s) with
      | .done t => ackPeer h stOk 0 (if x.isSealed then bump .pagesSpareCopied t else t)
      | .differs t => ackPeer h stCheckFail 0 t
      | .noFrame => ackPeer h stNoSpace 0 (takePeer h.sender s)) := by
  rw [execCopyPage, onPeer_met m, linkPeer_none hlinks]
  simp only [hcopy, hpage]
  exact congrArg _ ((if_neg (not_not_intro hloc)).trans (if_neg (not_not_intro rfl)))

/-- COPY_ROWS over links that hold is taken as a twin's rows are, and goes on to this node's own twin where the span has been copied there. -/
theorem execCopyRows_fills {rows : List RowsImage} (ha : AllFill s) (hlinks : h.links = 0) : execCopyRows h rows s = .next (
    let t := takeRows h rows (takePeer h.sender s)
    if forwardsRows t h then toTwin h.vnode h.handle h.span.toNat (.mirrorRows rows) t else t) :=
  onPeer_linkedFills m ha hlinks

/-- The end of a span of a bring-in is a step of its manifest. -/
theorem execCopyDone_bringIn (hnone : handoffOf (ackPeer h stOk 0 (takePeer h.sender s)) h.vnode h.handle h.span.toNat = none) :
    execCopyDone h s = .next (manifestStep h.vnode h.handle h.span.toNat (ackPeer h stOk 0 (takePeer h.sender s))) := by
  rw [execCopyDone, onPeer_met m]
  simp only [hnone]

/-- The end of a span of a handoff is noted; with the last span the copies go to this node's own twin and OWN.ACCEPT may go out. -/
theorem execCopyDone_handoff {x : Handoff}
    (hx : handoffOf (ackPeer h stOk 0 (takePeer h.sender s)) h.vnode h.handle h.span.toNat = some x)
    (hdest : x.isSource = false) (hnew : h.span.toNat ∉ x.done) : execCopyDone h s = .next (
      let y : Handoff := { x with done := x.done ++ [h.span.toNat] }
      let u := updHandoff h.vnode x.id (fun _ => y) (ackPeer h stOk 0 (takePeer h.sender s))
      if y.spans.all (fun n => decide (n ∈ y.done))
        then tryAccept h.vnode y ((handoffCopies u h.vnode y).foldl (fun s f => mirrorWhole f s) u) else u) := by
  rw [execCopyDone, onPeer_met m]
  simp only [hx, hdest, hnew, Bool.false_eq_true, or_self, if_false]

end

end

/-- Settles O25: each row by the equation of its meaning above; rows by whether their write meets link errors, seals by how their page stands. -/
theorem mirrorMessagesComplete : Obligations.MirrorMessagesComplete := by
  refine ⟨?seqRecord, ?spanRecord, ?rows, ?linkedRows, ?sealed, ?release⟩
  case seqRecord => exact fun _ _ _ m ha => execMirrorRecord_seq m ha
  case spanRecord =>
    exact fun _ _ _ m ha => ⟨fun _ hcopy => execMirrorRecord_known m ha hcopy, fun hnone => execMirrorRecord_new m ha hnone⟩
  case rows => exact fun _ _ _ m ha hlinks => (execMirrorRows_fills m ha).trans (congrArg _ (linkPeer_none hlinks))
  case linkedRows => exact fun _ _ _ m ha hlinks => (execMirrorRows_fills m ha).trans (congrArg _ (linkPeer_errors hlinks))
  case sealed =>
    rintro h layer head page digest s f t x m hlinks hcopy rfl hpage
    have hrow := execMirrorSeal_copy (layer := layer) (head := head) (page := page) (digest := digest) m hlinks hcopy
    refine ⟨fun hloc => hrow.trans (congrArg _ (sealAnswered_unheld hpage hloc)), fun hcopied hkept hbuilt hsealed => ?_⟩
    exact hrow.trans (congrArg _ (sealAnswered_sealed hpage (by simp [hcopied, hkept, hbuilt]) hsealed))
  case release => exact fun _ _ _ m hcopy => ⟨execMirrorRelease_whole m hcopy, execMirrorRelease_pages m hcopy⟩

/-- Settles O26: each row by the equation of its meaning above; the manifest by whether it is a bring-in's, COPY_DONE by whether its span is
a handoff's. -/
theorem copyMessagesComplete : Obligations.CopyMessagesComplete := by
  refine ⟨?manifest, ?record, ?page, ?rows, ?done⟩
  case manifest =>
    exact fun _ _ _ m ha => ⟨fun hother => execCopyManifest_other m ha hother,
      fun hentered hvia hcopying hsource htwin => execCopyManifest_bringIn m ha ⟨hentered, hvia, hcopying, hsource, htwin⟩⟩
  case record => exact fun _ _ _ _ m hcopy => execCopyRecord_copy m hcopy
  case page =>
    rintro h layer head page _ content s f x m hlinks hcopy hpage hloc rfl
    exact execCopyPage_lacked m hlinks hcopy hpage hloc
  case rows => exact fun _ _ _ m ha hlinks => execCopyRows_fills m ha hlinks
  case done =>
    exact fun _ _ m => ⟨fun hnone => execCopyDone_bringIn m hnone, fun _ hx hdest hnew => execCopyDone_handoff m hx hdest hnew⟩

end Sys2Proof.Machine

/-! # Acknowledgements between nodes, and frames that wait for their fill; the refutation of O27 -/

namespace Sys2Proof.Machine

section
variable {s t : State} {v : VId} {st : FrameState} {use : FrameUse} {f : FrameId}

/-! ## The allocation of a frame, and where its fill waits (R52, R146, R167) -/

/-- No stack of a virtual node issues fills. -/
def NoneFills (s : State) (v : VId) : Prop := ∀ pc, pcIn s v pc = true → pcFills s pc = false

theorem pcFrom_some {start pc : Nat} {p : Nat → Bool} (h : pcFrom s v start p = some pc) : pcIn s v pc = true ∧ p pc = true := by
  obtain ⟨i, hi, rfl⟩ := List.mem_map.mp (List.mem_of_find?_eq_some h)
  have hmod : (start + i) % (pcsOf s v).2 < (pcsOf s v).2 := Nat.mod_lt _ (Nat.zero_lt_of_lt (List.mem_range.mp hi))
  refine ⟨?_, List.find?_some h⟩
  simp only [pcIn, Bool.and_eq_true, decide_eq_true_eq]
  omega

theorem pcToFill_some {start pc : Nat} {p : Nat → Bool} (h : pcToFill s v start p = some pc) : pcIn s v pc = true ∧ p pc = true := by
  unfold pcToFill at h
  split at h
  next hfills =>
    obtain rfl := Option.some.inj h
    have ⟨hin, hboth⟩ := pcFrom_some hfills
    exact ⟨hin, ((Bool.and_eq_true _ _).mp hboth).1⟩
  next => exact pcFrom_some h

/-- Where every pseudo-channel satisfies the test, one is found. -/
theorem pcToFill_isSome {start : Nat} {p : Nat → Bool} (hpcs : 0 < (pcsOf s v).2) (hp : ∀ pc, p pc = true) :
    (pcToFill s v start p).isSome = true := by
  have hfrom : (pcFrom s v start p).isSome = true :=
    List.find?_isSome.mpr ⟨_, List.mem_map_of_mem (List.mem_range.mpr hpcs), hp _⟩
  unfold pcToFill
  split
  next => rfl
  next => exact hfrom

/-- An allocation takes a frame of a pseudo-channel of the virtual node that has one FREE. -/
theorem allocFree_some {a : FrameId × State} (h : allocFree v st use s = some a) :
    ∃ pc, pcIn s v pc = true ∧ pcHasFree s pc = true ∧ allocIn pc v st use (takeFree s).2 = a := by
  simp only [allocFree] at h
  split at h
  next pc hpc =>
    have ⟨hin, hfree⟩ := pcToFill_some hpc
    exact ⟨pc, hin, hfree, Option.some.inj h⟩
  next => cases h

theorem allocFree_isSome (hpcs : 0 < (pcsOf s v).2) (hfree : ∀ pc, pcHasFree s pc = true) : (allocFree v st use s).isSome = true := by
  obtain ⟨pc, hpc⟩ := Option.isSome_iff_exists.mp (pcToFill_isSome (start := (takeFree s).1) hpcs hfree)
  simp only [allocFree, hpc, Option.isSome_some]

/-- Where no stack fills, every frame that is allocated waits for its fill. -/
theorem allocFree_waits {a : FrameId × State} (hnone : NoneFills s v) (hst : st ≠ .free) (h : allocFree v st use s = some a) :
    fillWaits s a.2 = true := by
  obtain ⟨pc, hin, hfree, rfl⟩ := allocFree_some h
  have hentry : ∃ x, (allocIn pc v st use (takeFree s).2).2.frames.at? (chosenFrame pc (takeFree s).2) = some x ∧ x.state = st := by
    rw [allocIn_frames, Tbl.at?_upd_self]
    exact ⟨_, rfl, rfl⟩
  obtain ⟨x, hx, hstate⟩ := hentry
  refine List.any_eq_true.mpr ⟨_, Tbl.mem_of_at? hx, ?_⟩
  have hwas : (frameOf s (chosenFrame pc (takeFree s).2)).state = .free := chosenFrame_free (s := (takeFree s).2) hfree
  have hheld : pcFills s (framePc (chosenFrame pc (takeFree s).2)) = false := by rw [framePc_chosenFrame, hnone pc hin]
  rw [frameOf] at hwas
  simp [hwas, hstate, hst, hheld]

/-- Whether an allocation waits depends on the frames before and after it, and on the stacks, alone. -/
theorem fillWaits_congr {s' t' : State} (hframes : s.frames = s'.frames) (hstacks : s.hbmStacks = s'.hbmStacks) (hnew : t.frames = t'.frames) :
    fillWaits s t = fillWaits s' t' := by
  unfold fillWaits pcFills throttleOf
  rw [hframes, hstacks, hnew]

theorem updSpan_of_some {r : SpanRec} {g : SpanRec → SpanRec} (h : spanAt s f = some r) :
    updSpan f g s = { s with spans := s.spans.put f (g r) } := by
  rw [spanAt] at h
  rw [updSpan, h]

/-- Where no stack fills, the spare of the only record is not taken: it is owed (R123), or there is no frame for it. -/
theorem takeSpare_waits {r : SpanRec} (hspans : s.spans = [(f, r)]) (hnone : NoneFills s r.vnode) (howed : r.spareOwed = none) :
    ∃ o n, takeSpare f s = { s with spans := [(f, { r with spareOwed := o })], nextId := n } := by
  have hrec : spanAt s f = some r := by simp [spanAt, hspans, Tbl.at?]
  rw [takeSpare, hrec]
  cases hx : allocFree r.vnode .spare .data s with
  | none =>
    refine ⟨none, s.nextId, ?_⟩
    simp only [hx]
    rw [← howed, ← hspans]
  | some a =>
    have hwaits : fillWaits s a.2 = true := allocFree_waits hnone (by decide) hx
    refine ⟨some s.nextId, s.nextId + 1, ?_⟩
    simp only [hx, hwaits, howed, Option.isSome_none, Bool.false_eq_true, if_true, if_false]
    rw [updSpan_of_some (s := { s with nextId := s.nextId + 1 }) hrec]
    simp only [hspans, Tbl.put, if_true]

/-! ## What an update of the directory, a pair, a home and the waits leave, where there is nothing to do -/

theorem bankAt_emptyDir {b : Nat} (hdir : s.dir.banks = []) : bankAt s b = DirBank.empty := by
  rw [bankAt, hdir, Tbl.atD]

theorem deleteWhere_emptyDir {handle : Handle} {p : DirEntry → Bool} (hdir : s.dir.banks = []) : deleteWhere v handle p s = s := by
  have hexisting : DirBank.empty.existing = [] := rfl
  simp [deleteWhere, entriesOf, bankAt_emptyDir hdir, hexisting]

theorem bankAt_updBank_self {b : Nat} {g : DirBank → DirBank} : bankAt (updBank b g s) b = g (bankAt s b) := Tbl.atD_upd_self _ _ _ _

/-- The first insert into a bank begins at once, and changes the directory alone. -/
theorem queueUpdate_insertFirst {b : Nat} {e : DirEntry} (hbank : bankAt s b = DirBank.empty) :
    ∃ d, queueUpdate b (.insert e none) s = { s with dir := d } := by
  rw [queueUpdate, beginUpdate, bankAt_updBank_self, hbank]
  exact ⟨_, rfl⟩

theorem acceptInsert_emptyDir {e : DirEntry} (hdir : s.dir.banks = []) : ∃ d, acceptInsert e s = { s with dir := d } :=
  queueUpdate_insertFirst (bankAt_emptyDir hdir)

theorem mirrorSpan_unpaired {r : SpanRec} (hrec : spanAt s f = some r) (hpair : paired s r.vnode = false) : mirrorSpan f s = s := by
  simp only [mirrorSpan, hrec, toTwin, hpair, Bool.false_eq_true, if_false, ite_self]

theorem dropSparesBelow_noneBelow {handle : Handle} {span : Nat} (h : ∀ p ∈ s.spans, span ≤ p.2.span) :
    dropSparesBelow v handle span s = s := by
  have hnone : (recordsOf s v handle).filter (fun p => decide (p.2.span < span)) = [] := by
    refine List.filter_eq_nil_iff.mpr (fun p hp => ?_)
    have hle := h p (List.mem_filter.mp hp).1
    simpa using hle
  rw [dropSparesBelow, hnone]
  rfl

theorem setPlace_noHome {handle : Handle} {span : Nat} {n : NodeId} (h : homeSeq s v handle = none) : setPlace v handle span n s = s := by
  rw [setPlace, h]

theorem acceptsDue_noHandoffs (h : (vn s v).handoffs = []) : acceptsDue v s = s := by
  rw [acceptsDue, h]
  rfl

/-- Nothing waits for other work to end. -/
structure NothingWaits (s : State) : Prop where
  deferred : s.deferred = []
  jobs : s.jobs = []
  ueDue : s.hbm.ueDue = []
  rings : s.host.rings = []
  qpReady : s.host.qpReady = []
  due : s.sync.due = []
  waiters : s.sync.waiters = []
  images : s.tier.images = []

theorem wake_nothingWaits (h : NothingWaits s) : wake s = s := by
  obtain ⟨hdeferred, hjobs, hue, hrings, hqps, hdue, hwaiters, himages⟩ := h
  have happly : applyDue s = s := by
    rw [applyDue, hdue, hwaiters]
    rfl
  have hsettle : settle s = s := by
    rw [settle, happly, hjobs]
    simp only [settleFences, hrings, settleRings, happly, hqps, settleQps]
  have hheld : runHeld awake s.deferred s = s := by
    rw [hdeferred]
    rfl
  have hfilled : resumeFilled s = s := by
    rw [resumeFilled, hjobs]
    rfl
  have hcloses : settleCloses s = s := by
    rw [settleCloses, hjobs]
    rfl
  have hswept : sweepImages s = s := by
    rw [sweepImages, himages]
    rfl
  rw [wake, hheld, hfilled, settleUe_nothingDue hue, hcloses, hsettle, hswept]

/-! ## A span that the home itself creates (R45, R47) -/

/-- The state in which a span record has been entered, its entry accepted and its twin told. -/
def spanCreated (v : VId) (handle : Handle) (span : Nat) (f : FrameId) (s : State) : State :=
  let t := deleteWhere v handle (fun e => decide (e.kind = kSpanTomb) && decide (e.span = span)) (takeSpare f s)
  dropSparesBelow v handle span (mirrorSpan f (acceptInsert (dirEntry v handle span kSpan 0 f) t))

theorem createSpan_accepted {handle : Handle} {span : Nat} {g : Geometry} {smooth : List (Nat × Nat × List (BitVec 32))}
    (hroom : initialNeed g true ≤ freeForUse s v) (hframe : newMapFrame v .map s = some (f, t))
    (hins : insertRefusal t (dirEntry v handle span kSpan 0 f) = none) : createSpan v handle span g smooth true s
      = (stOk, spanCreated v handle span f { t with spans := t.spans.put f (SpanRec.new v handle span g smooth) }) := by
  rw [createSpan, if_neg (Nat.not_lt.mpr hroom)]
  -- a variable in place of the refusal: the kernel would otherwise run the hash of the bank pair to compare the branches on it
  obtain ⟨refusal, hrefusal⟩ : ∃ r, r = insertRefusal := ⟨_, rfl⟩
  rw [← hrefusal] at hins ⊢
  simp only [hframe, hins, if_true]
  rfl

/-- In an empty directory the only record of an unpaired node is created with its entry on the way and its spare owed. -/
theorem spanCreated_only {handle : Handle} {span : Nat} {r : SpanRec} (hspans : s.spans = [(f, r)]) (hspan : span ≤ r.span)
    (hnone : NoneFills s r.vnode) (howed : r.spareOwed = none) (hdir : s.dir.banks = []) (hpair : paired s r.vnode = false) :
    ∃ d m n, spanCreated v handle span f s = { s with dir := d, spans := m, nextId := n } := by
  obtain ⟨o, n, hspare⟩ := takeSpare_waits hspans hnone howed
  obtain ⟨t, ht⟩ : ∃ t : State, t = { s with spans := [(f, { r with spareOwed := o })], nextId := n } := ⟨_, rfl⟩
  have htdir : t.dir.banks = [] := by rw [ht]; exact hdir
  obtain ⟨d, hins⟩ := acceptInsert_emptyDir (e := dirEntry v handle span kSpan 0 f) htdir
  have hmirror : mirrorSpan f { t with dir := d } = { t with dir := d } := by
    refine mirrorSpan_unpaired (r := { r with spareOwed := o }) ?_ ?_
    · simp [spanAt, ht, Tbl.at?]
    · rw [ht]; exact hpair
  have hbelow : dropSparesBelow v handle span { t with dir := d } = { t with dir := d } := by
    refine dropSparesBelow_noneBelow (fun p hp => ?_)
    simp only [ht, List.mem_singleton] at hp
    rw [hp]
    exact hspan
  refine ⟨d, [(f, { r with spareOwed := o })], n, ?_⟩
  simp only [spanCreated, hspare, ← ht, deleteWhere_emptyDir htdir, hins, hmirror, hbelow]
  rw [ht]

/-- An empty directory of an unsliced node accepts every legal entry. -/
theorem insertRefusal_emptyDir {e : DirEntry} (hdir : s.dir.banks = []) (hone : vnodeCount s = 1) (hlegal : e.legal = true) :
    insertRefusal s e = none := by
  have hroom : DirBank.empty.room = 4096 := rfl
  have hexisting : DirBank.empty.existing = [] := rfl
  simp [insertRefusal, pairRoom, bankAt_emptyDir hdir, hroom, hexisting, hone, hlegal]

/-- A background attempt whose next member is the node itself creates the span there. -/
theorem assignLoop_self {k considered span : Nat} {handle : Handle} {g : Geometry} {rest : List NodeId} {z : State}
    (hlive : liveIn (vn s v).map (vn s v).nodeId = true) (hhome : homeSeq s v handle = none)
    (hcreate : createSpan v handle span g [] true s = (stOk, z)) :
    assignLoop (k + 1) v handle span g ((vn s v).nodeId :: rest) considered .background s = setPlace v handle span (vn s v).nodeId z := by
  rw [assignLoop]
  simp only [AssignFor.members, hlive, Bool.not_true, Bool.false_eq_true, if_false, if_true, hhome, Option.bind_none, hcreate, ne_eq,
    not_true_eq_false, AssignFor.goesOn, assignDone]

end

section
variable {s : State} {h : PeerHdr} {st : Status} {fill : Nat} {x : PeerSent}

/-! ## Acknowledgements (R393) -/

/-- What an acknowledgement of a message that awaits it brings. -/
def ackTaken (h : PeerHdr) (x : PeerSent) (st : Status) (fill : Nat) (s : State) : State :=
  wake (acceptsDue h.vnode (ackOf h.tag x st fill (if st = stFenced then learnFenced h.vnode 4 s else s)))

/-- The refusal of a request to create a span lets the attempt go on with its next member. -/
theorem ackOf_spanRefused {tag : BitVec 32} {id : Nat} {g : Geometry} {smooth : List (Nat × Nat × List (BitVec 32))} {top : Bool}
    {v : VId} {handle : Handle} {span considered : Nat} {left : List NodeId} {asking : NodeId} {purpose : AssignFor}
    (hbody : x.msg.body = .spanCreate g smooth top) (hjob : x.job = some id) (hst : st ≠ stOk)
    (hassign : s.jobs.at? id = some (.assign v handle span g left considered asking purpose)) :
    ackOf tag x st fill s = (
      let t := endJob id (forget tag s)
      assignLoop (assignFuel t v left purpose) v handle span g left considered purpose t) := by
  have hjobs : (forget tag s).jobs.at? id = some (.assign v handle span g left considered asking purpose) := hassign
  simp only [ackOf, hbody, hjob, hst, decide_false, assignAnswer, hjobs, Bool.not_false, if_true]

theorem ackTaken_notFenced (hst : st ≠ stFenced) : ackTaken h x st fill s = wake (acceptsDue h.vnode (ackOf h.tag x st fill s)) := by
  rw [ackTaken, if_neg hst]

/-- An acknowledgement by the message's destination is taken, unless it would allocate a frame that waits for its fill: then it is left. -/
theorem execPeerAck_awaited (m : Met h .other s) (hsent : (takePeer h.sender s).peerSent.at? h.tag = some x) (hdest : x.msg.dest = h.sender) :
    execPeerAck h st fill s = .next (if fillWaits (takePeer h.sender s) (ackTaken h x st fill (takePeer h.sender s))
      then takePeer h.sender s else ackTaken h x st fill (takePeer h.sender s)) := by
  rw [execPeerAck, onPeerAck_met m, whenFills]
  simp only [hsent, hdest, ne_eq, not_true_eq_false, if_false]
  rfl

end

/-! ## An acknowledgement that is left -/

/-- One layer and head of 64 elements. -/
def smallGeometry : Geometry := ⟨14, 1, 1, 0, 0, 0, false, 0, false⟩

/-- A message of handle 5 that asks node 2 to create span 1 for an assignment under way. -/
def askedSpan : PeerSent := ⟨⟨0, 2, false, 0, 0, 5, 1, 7, .spanCreate smallGeometry [] true⟩, some 4, ⟨0, none⟩, 0⟩

/-- Node 1, whose stacks are all at throttle level 3, has asked node 2 for a span and would create it itself next. -/
def hotAsking : State := { State.reset with
  pw := { Power.reset with up := true }
  vnodes := [(0, { VNode.reset with nodeId := 1, map := some ⟨0, [(1, .live), (2, .draining)]⟩ })]
  hbmStacks := (List.range 8).map (fun n => (n, { Stack.reset with throttle := 3 }))
  jobs := [(4, .assign 0 5 1 smallGeometry [1] 1 2 .background)]
  peerSent := [(7, askedSpan)] }

/-- Node 2's refusal of the span. -/
def spanRefused : PeerHdr := ⟨0, 2, false, 0, 0, 5, 1, 7, false, 0⟩

theorem hotAsking_met : Met spanRefused .other hotAsking := ⟨rfl, by decide +kernel, rfl⟩

/-- The node as it turns from node 2 to itself. -/
def hotCreating : State := endJob 4 (forget spanRefused.tag (takePeer 2 hotAsking))

theorem hotCreating_noneFills : NoneFills hotCreating 0 := by
  have hstacks : ∀ n < 8, throttleOf hotCreating n = 3 := by decide
  intro pc hin
  have hpc : pc < 256 := by
    have hboth : (decide (0 ≤ pc) && decide (pc < 256)) = true := hin
    simpa using hboth
  rw [pcFills, hstacks (pc / 32) (by omega)]
  rfl

theorem hotCreating_room : initialNeed smallGeometry true ≤ freeForUse hotCreating 0 := by decide +kernel

theorem newMapFrame_hotCreating : newMapFrame 0 .map hotCreating = allocFree 0 .open_ .map hotCreating := by
  have hneed : 0 < initialNeed smallGeometry true := by decide
  rw [newMapFrame, allocAny, if_neg (Nat.ne_of_gt (Nat.lt_of_lt_of_le hneed hotCreating_room))]

/-- All frames of the virtual node are FREE. -/
theorem hotCreating_allocates : ∃ pc, allocFree 0 .open_ .map hotCreating = some (allocIn pc 0 .open_ .map (takeFree hotCreating).2) := by
  obtain ⟨a, ha⟩ := Option.isSome_iff_exists.mp (allocFree_isSome (s := hotCreating) (v := 0) (st := .open_) (use := .map)
    (by decide) (fun _ => rfl))
  obtain ⟨pc, -, -, halloc⟩ := allocFree_some ha
  exact ⟨pc, ha.trans (congrArg some halloc.symm)⟩

/-- The state in which the map frame of the span has been allocated, in a pseudo-channel of firmware's choice. -/
def hotAllocated (pc : Nat) : State := (allocIn pc 0 .open_ .map (takeFree hotCreating).2).2

/-- The map frame of the span is all that the refusal changes in the frames. -/
theorem ackTaken_hotAsking_frames {pc : Nat}
    (halloc : allocFree 0 .open_ .map hotCreating = some (allocIn pc 0 .open_ .map (takeFree hotCreating).2)) :
    (ackTaken spanRefused askedSpan stNoSpace 0 (takePeer 2 hotAsking)).frames = (hotAllocated pc).frames := by
  have hgoesOn : ackOf spanRefused.tag askedSpan stNoSpace 0 (takePeer 2 hotAsking)
      = assignLoop (assignFuel hotCreating 0 [1] .background) 0 5 1 smallGeometry [1] 1 .background hotCreating :=
    ackOf_spanRefused rfl rfl (by decide) rfl
  have hfuel : assignFuel hotCreating 0 [1] .background = 2 + 1 := rfl
  have hlive : liveIn (vn hotCreating 0).map (vn hotCreating 0).nodeId = true := by decide
  have hlegal : (dirEntry 0 5 1 kSpan 0 (chosenFrame pc (takeFree hotCreating).2)).legal = true :=
    (rfl : _ = (dirEntry 0 5 1 kSpan 0 0).legal).trans (by decide)
  have hcreate := createSpan_accepted (handle := 5) (span := 1) (g := smallGeometry) (smooth := []) hotCreating_room
    (newMapFrame_hotCreating.trans halloc) (insertRefusal_emptyDir rfl rfl hlegal)
  have hnone : NoneFills (hotAllocated pc) 0 := hotCreating_noneFills
  obtain ⟨d, m, n, hcreated⟩ := spanCreated_only (v := 0) (handle := 5) (span := 1)
    (s := { hotAllocated pc with spans := [(chosenFrame pc (takeFree hotCreating).2, SpanRec.new 0 5 1 smallGeometry [])] })
    rfl (Nat.le_refl 1) hnone rfl rfl rfl
  rw [hfuel] at hgoesOn
  have hloop := hgoesOn.trans (assignLoop_self (rest := []) hlive rfl (hcreate.trans (congrArg _ hcreated)))
  rw [ackTaken_notFenced (by decide), hloop, setPlace_noHome rfl, acceptsDue_noHandoffs rfl,
    wake_nothingWaits ⟨rfl, rfl, rfl, rfl, rfl, rfl, rfl, rfl⟩]

theorem hotAsking_waits :
    fillWaits (takePeer 2 hotAsking) (ackTaken spanRefused askedSpan stNoSpace 0 (takePeer 2 hotAsking)) = true := by
  obtain ⟨pc, halloc⟩ := hotCreating_allocates
  have hlike : fillWaits (takePeer 2 hotAsking) (ackTaken spanRefused askedSpan stNoSpace 0 (takePeer 2 hotAsking))
      = fillWaits hotCreating (hotAllocated pc) :=
    fillWaits_congr rfl rfl (ackTaken_hotAsking_frames halloc)
  exact hlike.trans (allocFree_waits hotCreating_noneFills (by decide) halloc)

/-- Refutes O27: its first clause has an acknowledgement taken on every live node. One whose effect would allocate a frame of a stack at throttle
level 3 is left (R146, R167), as `hotAsking` leaves the refusal of a span that it would create itself next: the clause has the span's map frame
allocated, and the step allocates none. (The clause lacks the premise `AllFill s`, under which no
frame waits.) -/
theorem not_peerDeliveryCompletes : ¬ Obligations.PeerDeliveryCompletes := by
  rintro ⟨hack, -, -⟩
  have hsent : (takePeer 2 hotAsking).peerSent.at? 7 = some askedSpan := rfl
  have hclaimed : exec (.peerAck spanRefused stNoSpace 0) hotAsking
      = .next (ackTaken spanRefused askedSpan stNoSpace 0 (takePeer 2 hotAsking)) :=
    hack spanRefused stNoSpace 0 hotAsking askedSpan hotAsking_met hsent rfl
  have hleft : exec (.peerAck spanRefused stNoSpace 0) hotAsking = .next (takePeer 2 hotAsking) :=
    (execPeerAck_awaited hotAsking_met hsent rfl).trans (congrArg _ (if_pos hotAsking_waits))
  have hsame : takePeer 2 hotAsking = ackTaken spanRefused askedSpan stNoSpace 0 (takePeer 2 hotAsking) :=
    Host.Outcome.next.inj (hleft.symm.trans hclaimed)
  have hnone : fillWaits (takePeer 2 hotAsking) (takePeer 2 hotAsking) = false := rfl
  have hwaits := hotAsking_waits
  rw [← hsame, hnone] at hwaits
  exact Bool.false_ne_true hwaits

end Sys2Proof.Machine

/-! # Code groups; the statement O28 -/

namespace Sys2Proof.Machine

section
variable {s b w : State} {c : Cmd} {v : VId}

/-! ## The set, and a slot that contributes nothing (R401, R402, R406) -/

/-- TWIN_CODESET done at a node that stands in a slot: its set and slot, the fragments of a lost member's slot where it takes that member's place, and
the pages that it is still to contribute. -/
def codesetTaken (v : VId) (p : CodesetBlk) (slot : Nat) (stripes : List (Nat × List (Nat × List Byte))) (s : State) : State :=
  let t := updVn v (fun n => { n with codeset := some (p.codesetId, p.slots.take 10), codeSlot := some slot }) s
  let t := if p.replace then stripes.foldl (fun s k => replaceFragment v slot k s) t else t
  (uncontributed t v).foldl (fun s p => contribute p s) t

/-- A slot list with no bad slot that names this node is taken where it is the present one, where the node takes a lost member's place, or where
the node holds nothing coded. -/
theorem execTwinCodeset_named {p : CodesetBlk} {stripes : List (Nat × List (Nat × List Byte))} {slot : Nat} (hs : Serves c 32 s b w)
    (hlinks : c.links = 0) (hgood : badSlot p.slots = none)
    (hslot : (List.range 10).find? (fun k => decide ((p.slots.take 10)[k]? = some (vn w (vnodeOf w c)).nodeId)) = some slot)
    (hfree : (vn w (vnodeOf w c)).codeset = some (p.codesetId, p.slots.take 10) ∨ p.replace = true ∨ holdsCoded w (vnodeOf w c) = false) :
    execTwinCodeset c p stripes s = .next (complete c (Reply.st stOk) (codesetTaken (vnodeOf w c) p slot stripes w)) := by
  have hallowed : ¬((vn w (vnodeOf w c)).codeset ≠ some (p.codesetId, p.slots.take 10) ∧ (!p.replace) = true
      ∧ holdsCoded w (vnodeOf w c) = true) := by
    rintro ⟨hother, hkeeps, hcoded⟩
    rcases hfree with hsame | hreplace | hnone
    · exact hother hsame
    · simp [hreplace] at hkeeps
    · simp [hnone] at hcoded
  rw [execTwinCodeset, runVerb_linked hs hlinks (by simp [fieldsPass, hgood])]
  simp only [hslot, if_neg hallowed, finish_st, codesetTaken]

/-- A data slot that has contributed nothing for a while sends nulls to both parity nodes and takes the next stripe. -/
theorem execCodeStripeTimeout_dataSlot {cs : BitVec 16} {ns : List NodeId} {slot : Nat} (hl : live s = true)
    (hset : (vn s v).codeset = some (cs, ns)) (hslot : (vn s v).codeSlot = some slot) (hdata : slot ≤ 7) (hfree : (vn s v).fenced = false)
    (hleft : (vn s v).stripeExhausted = false) : execCodeStripeTimeout v s = .next (
      let t := sendPeer v (ns.getD 8 0xFFFF) false 0 0 (.codeNull (vn s v).stripeNext slot) none s
      let u := sendPeer v (ns.getD 9 0xFFFF) false 0 0 (.codeNull (vn s v).stripeNext slot) none t
      takeStripe v none s.nextTag t.nextTag u) := by
  rw [execCodeStripeTimeout, onNode_live hl]
  simp only [hset, hslot, Nat.not_lt.mpr hdata, hfree, hleft, Bool.false_eq_true, or_self, if_false]

end

/-- Settles O28: the set and the timeout by the equations above; a slot's message runs once through `onStripe`, a contribution over links that hold
and with its parity frame filled. -/
theorem codeGroupsComplete : Obligations.CodeGroupsComplete := by
  refine ⟨?codeset, ?timeout, ?contrib, ?null⟩
  case codeset => exact fun _ _ _ _ _ _ _ hs hlinks hgood hslot hfree => execTwinCodeset_named hs hlinks hgood hslot hfree
  case timeout => exact fun _ _ _ _ _ hl hset hslot hdata hfree hleft => execCodeStripeTimeout_dataSlot hl hset hslot hdata hfree hleft
  case contrib => exact fun _ _ _ _ _ m ha hlinks => onPeer_linkedFills m ha hlinks
  case null => exact fun _ _ _ _ m => onPeer_met m

end Sys2Proof.Machine

/-! # Handoffs, SPAN.MOVE and the answers to the node's own requests; the statement O29 -/

namespace Sys2Proof.Machine

section
variable {s b w : State} {c : Cmd} {v : VId} {n : NodeId} {x : Handoff} {hid : BitVec 32}

/-! ## OWN.OFFER (R422) -/

section
variable {p : OfferBlk} (hs : Serves c 32 s b w) (hf : fieldsPass (offerFails p) = true)
include hs hf

/-- An offer of the host, or of a node that names another destination, goes out where this node may give the spans up. -/
theorem execOwnOffer_out (hallowed : offerDenied w (vnodeOf w c) p = false)
    (hsource : senderOf c = none ∨ p.dest ≠ (vn w (vnodeOf w c)).nodeId) :
    execOwnOffer c p s = .next (offerOut (vnodeOf w c) p (some c) [] w) := by
  rw [execOwnOffer, runVerb_pass hs hf]
  cases horigin : c.origin with
  | host r => simp only [hallowed, Bool.false_eq_true, if_false, finish_later]
  | fabric q sender a k =>
    have hother : p.dest ≠ (vn w (vnodeOf w c)).nodeId := hsource.resolve_left (by simp [senderOf, horigin])
    simp only [if_neg hother, hallowed, Bool.false_eq_true, if_false, finish_later]

/-- An offer of a node that names this one as its destination is entered here. -/
theorem execOwnOffer_in {q : BitVec 12} {a : BitVec 64} {k : BitVec 32} (horigin : c.origin = .fabric q n a k)
    (hdest : p.dest = (vn w (vnodeOf w c)).nodeId) : execOwnOffer c p s = .next (finish c b (offerIn (vnodeOf w c) n p w)) := by
  rw [execOwnOffer, runVerb_pass hs hf]
  simp only [horigin, if_pos hdest]

end

/-! ## OWN.ACCEPT, OWN.COMMIT, their resending and OWN.STATUS (R422–R425, R466) -/

section
variable (hs : Serves c c.hdr.paramLen.toNat s b w) (hsender : senderOf c = some n) (hx : handoffAt w (vnodeOf w c) hid = some x)
  (hother : x.other = n)
include hs hsender hx hother

/-- The destination's acceptance of an offer whose fill points are right commits it at the source. -/
theorem execOwnAccept_acceptable {fills : List FillPoint} (hsource : x.isSource = true) (hstate : x.state = .offering)
    (hright : acceptable w (vnodeOf w c) x fills = true) : execOwnAccept c hid fills s
      = .next (complete c (Reply.st stOk) (sendCommit (vnodeOf w c) x (enterState (vnodeOf w c) hid .committing w))) := by
  have ⟨_, _, hrsv, _⟩ := hs
  have hgood : firstBad c [] = none := firstBad_none hrsv rfl
  rw [execOwnAccept, runVerb_serves hs]
  simp only [hgood, hsender, hx, hother, hsource, hstate, hright, ne_eq, not_true_eq_false, Bool.not_true,
    Bool.false_eq_true, or_self, if_false, if_true, finish_st]

/-- The source's commitment makes a destination that has accepted win. -/
theorem execOwnCommit_accepted (hdest : x.isSource = false) (hstate : x.state = .accepted) :
    execOwnCommit c hid s = .next (complete c (Reply.st stOk) (destinationWins (vnodeOf w c) x w)) := by
  have ⟨_, _, hrsv, _⟩ := hs
  have hgood : firstBad c [] = none := firstBad_none hrsv rfl
  rw [execOwnCommit, runVerb_serves hs]
  simp only [hgood, hsender, hx, hother, hdest, hstate, ne_eq, not_true_eq_false, Bool.false_eq_true, or_self,
    if_false, finish_st]

end

section
variable (hl : live s = true) (hx : handoffAt s v hid = some x)
include hl hx

section
variable (hfree : (vn s v).fenced = false)
include hfree

theorem execOwnResend_receiving (hstate : x.state = .receiving) : execOwnResend v hid s = .next (tryAccept v x s) := by
  rw [execOwnResend, onNode_live hl]
  simp only [hx, hfree, hstate, Bool.false_eq_true, if_false]

theorem execOwnResend_committing (hstate : x.state = .committing) : execOwnResend v hid s = .next (sendCommit v x s) := by
  rw [execOwnResend, onNode_live hl]
  simp only [hx, hfree, hstate, Bool.false_eq_true, if_false]

end

/-! ## The wait of each state (R424, R425) -/

theorem execOwnWaitExpiry_offering (hstate : x.state = .offering) (hcmd : x.cmd = some c) :
    execOwnWaitExpiry v hid s = .next (wake (complete c (Reply.st stTimeout) (dropHandoff v hid s))) := by
  refine waking_of hl ?_
  rw [ownWaitRow, onNode_live hl]
  simp only [hx, hstate, hcmd]

/-- A handoff that awaits its commitment, on either side, comes to be in doubt. -/
theorem execOwnWaitExpiry_committed (hstate : x.state = .committing ∨ x.state = .accepted) :
    execOwnWaitExpiry v hid s = .next (wake (inDoubt v x s)) := by
  refine waking_of hl ?_
  rw [ownWaitRow, onNode_live hl]
  rcases hstate with hcommitting | haccepted
  · simp only [hx, hcommitting]
  · simp only [hx, haccepted]

/-- A destination that is still to accept gives the copies up; one whose acceptance has gone out cannot tell how the source decides. -/
theorem execOwnWaitExpiry_receiving (hstate : x.state = .receiving) :
    execOwnWaitExpiry v hid s = .next (wake (if x.acceptSent then inDoubt v x s else abandon v x s)) := by
  refine waking_of hl ?_
  rw [ownWaitRow, onNode_live hl]
  simp only [hx, hstate]

end

/-! ## OWN.RESOLVE (R427) -/

section
variable (hs : Serves c 8 s b w) (hx : handoffAt w (vnodeOf w c) hid = some x) (hoffering : x.state ≠ .offering)
  (hreceiving : x.state ≠ .receiving)
include hs hx hoffering hreceiving

theorem execOwnResolve_sourceToDestination (hsource : x.isSource = true) :
    execOwnResolve c hid 1 s = .next (wake (complete c (Reply.st stOk) (sourceReleases (vnodeOf w c) x w))) := by
  refine waking_of hs.1 ((runVerb_pass hs rfl).trans ?_)
  simp only [hx, hoffering, hreceiving, or_self, if_false, hsource, if_true, finish_st]

/-- Where the source is to keep the spans, it forgets the handoff and ends its command. -/
theorem execOwnResolve_sourceToSource (hsource : x.isSource = true) :
    execOwnResolve c hid 0 s = .next (wake (complete c (Reply.st stOk) (
      let t := dropHandoff (vnodeOf w c) hid w
      match x.cmd with
      | some o => complete o (Reply.st stAborted) t
      | none => t))) := by
  have hloses : (0 : BitVec 1) ≠ 1 := by decide
  refine waking_of hs.1 ((runVerb_pass hs rfl).trans ?_)
  cases hcmd : x.cmd with
  | none => simp only [hx, hoffering, hreceiving, or_self, if_false, hsource, if_true, hloses, hcmd, finish_st]
  | some o => simp only [hx, hoffering, hreceiving, or_self, if_false, hsource, if_true, hloses, hcmd, finish_st]

theorem execOwnResolve_destinationToDestination (hdest : x.isSource = false) (hsent : x.acceptSent = true) :
    execOwnResolve c hid 1 s = .next (wake (complete c (Reply.st stOk) (destinationWins (vnodeOf w c) x w))) := by
  refine waking_of hs.1 ((runVerb_pass hs rfl).trans ?_)
  simp only [hx, hoffering, hreceiving, or_self, if_false, hdest, Bool.false_eq_true, hsent, if_true, finish_st]

theorem execOwnResolve_destinationToSource (hdest : x.isSource = false) :
    execOwnResolve c hid 0 s = .next (wake (complete c (Reply.st stOk) (abandon (vnodeOf w c) x w))) := by
  have hloses : (0 : BitVec 1) ≠ 1 := by decide
  refine waking_of hs.1 ((runVerb_pass hs rfl).trans ?_)
  simp only [hx, hoffering, hreceiving, or_self, if_false, hdest, Bool.false_eq_true, hloses, finish_st]

end

/-- OWN.STATUS lists the handoffs in the order of their identifiers. -/
theorem execOwnStatus_serves (hs : Serves c 0 s b w) : execOwnStatus c s = .next (finish c b (
    let xs := sortBy (fun a b => decide (a.id.toNat ≤ b.id.toNat)) (vn w (vnodeOf w c)).handoffs
    .now (Reply.ofResult xs.length (xs.flatMap (handoffBytes w))) w)) :=
  runVerb_pass hs rfl

/-! ## SPAN.MOVE (R44, R428) -/

/-- The offer of one span that SPAN.MOVE makes to a destination. -/
def moveOffer (handle : Handle) (span : SpanIx) (dest : NodeId) (s : State) : OfferBlk := ⟨s.nextTag, dest, 1, handle, span⟩

theorem moveTo_here {handle : Handle} {span : SpanIx} {dest : NodeId} {left : List NodeId} :
    moveTo c v (vn s v).nodeId handle span.toNat dest left s
      = offerOut v (moveOffer handle span dest s) (some c) left { s with nextTag := s.nextTag + 1 } := by
  have hself : (vn s v).nodeId = (vn { s with nextTag := s.nextTag + 1 } v).nodeId := rfl
  rw [moveTo, if_pos hself, BitVec.ofNat_toNat, BitVec.setWidth_eq, moveOffer]

theorem moveTo_elsewhere {handle : Handle} {span : SpanIx} {dest holder : NodeId} {left : List NodeId} (hother : holder ≠ (vn s v).nodeId) :
    moveTo c v holder handle span.toNat dest left s = sendCommand v holder 0x0901
      (offerBytes (moveOffer handle span dest s).handoffId dest 1 handle span.toNat) (.move c v holder handle span.toNat left)
      { s with nextTag := s.nextTag + 1 } := by
  have hnot : holder ≠ (vn { s with nextTag := s.nextTag + 1 } v).nodeId := hother
  rw [moveTo, if_neg hnot, moveOffer]

/-- The members that SPAN.MOVE may choose for a span, in its order of preference: live, other than the holder, and with room where it is this
node. -/
def moveChoices (c : Cmd) (v : VId) (prefer : List NodeId) (holder : NodeId) (g : Geometry) (s : State) : List NodeId :=
  (candidates (membersOf s c) prefer).filter (fun n => decide (n ≠ holder) && liveIn (membersOf s c) n
    && (decide (n ≠ (vn s v).nodeId) || decide (initialNeed g true ≤ freeForUse s v)))

section
variable {t : Target} {prefer left : List NodeId} {f : FrameId} {u : State} {q : SeqRec} {holder dest : NodeId}
  (hs : Serves c 32 s b w) (hcount : t.spanCount = 1) (hf : fieldsPass (targetFails t ⟨true, false, false, false, false⟩) = true)
  (hfind : findHome c t.handle w = (.found f, u)) (hq : u.seqs.at? f = some q) (hplace : q.places.at? t.spanFirst.toNat = some holder)
  (hopen : q.closing = false) (hidle : seqBusy u (vnodeOf w c) t.handle = false)
include hs hcount hf hfind hq hplace hopen hidle

/-- A span that no member may take stays. -/
theorem execSpanMove_noChoice (hchoices : moveChoices c (vnodeOf w c) prefer holder q.geo u = []) :
    execSpanMove c t prefer s = .next (complete c (Reply.st stNoSpace) u) := by
  have hfields : fieldsPass ((decide (t.spanCount ≠ 1), 72) :: targetFails t ⟨true, false, false, false, false⟩) = true :=
    fieldsPass_append (xs := [(decide (t.spanCount ≠ 1), 72)]) (by simp [fieldsPass, hcount]) hf
  unfold moveChoices at hchoices
  rw [execSpanMove, runVerb_pass hs hfields]
  simp only [hfind, hq, hplace, hopen, hidle, Bool.false_eq_true, if_false, hchoices, Done.refuse, finish_st]

/-- The first choice is offered the span, where this node does not hold it itself and may not give it up. -/
theorem execSpanMove_chosen (hchoices : moveChoices c (vnodeOf w c) prefer holder q.geo u = dest :: left)
    (hallowed : holder = (vn u (vnodeOf w c)).nodeId → offerDenied u (vnodeOf w c) (moveOffer t.handle t.spanFirst dest u) = false) :
    execSpanMove c t prefer s = .next (moveTo c (vnodeOf w c) holder t.handle t.spanFirst.toNat dest left u) := by
  have hfields : fieldsPass ((decide (t.spanCount ≠ 1), 72) :: targetFails t ⟨true, false, false, false, false⟩) = true :=
    fieldsPass_append (xs := [(decide (t.spanCount ≠ 1), 72)]) (by simp [fieldsPass, hcount]) hf
  have hnotDenied : ¬(holder = (vn u (vnodeOf w c)).nodeId
      ∧ offerDenied u (vnodeOf w c) ⟨u.nextTag, dest, 1, t.handle, t.spanFirst⟩ = true) :=
    fun hdenied => Bool.false_ne_true ((hallowed hdenied.1).symm.trans hdenied.2)
  unfold moveChoices at hchoices
  rw [execSpanMove, runVerb_pass hs hfields]
  simp only [hfind, hq, hplace, hopen, hidle, Bool.false_eq_true, if_false, hchoices, if_neg hnotDenied, finish_later]

end

/-! ## Answers to the node's own requests (R362) -/

section
variable {m : Msg} {payload : List Byte} (hl : live s = true) (ha : admits s m opWrite (fun p => decide (p = payload)) = true)
include hl ha

section
variable {a : BitVec 64} {size : Nat}

/-- A WRITE inside the region of a job's answer answers the job, and uses the region up. -/
theorem execWrite_job {id : Nat} (hregion : (takeMsg m s).regions.at? m.key = some ⟨.job id, a, size⟩)
    (hinside : (Region.mk (.job id) a size).holds m.addr payload.length = true) : execWrite m payload s = .next (wake (ownAnswer id
      (BitVec.ofNat 16 (bitsOf (wordAt payload 0) 31 16)) { takeMsg m s with regions := (takeMsg m s).regions.del m.key })) := by
  have hmeant : ((takeMsg m s).regions.at? m.key).filter (fun r => r.holds m.addr payload.length) = some ⟨.job id, a, size⟩ :=
    Option.filter_eq_some_iff.mpr ⟨hregion, hinside⟩
  refine waking_of hl ((onMsg_admits hl ha).trans ?_)
  simp only [hmeant]

/-- A WRITE inside the region of a sub-query's answer goes there. -/
theorem execWrite_fanout {id sub : Nat} (hregion : (takeMsg m s).regions.at? m.key = some ⟨.fanout id sub, a, size⟩)
    (hinside : (Region.mk (.fanout id sub) a size).holds m.addr payload.length = true) :
    execWrite m payload s = .next (wake (fanWrite id sub m.key (m.addr - a).toNat payload (takeMsg m s))) := by
  have hmeant : ((takeMsg m s).regions.at? m.key).filter (fun r => r.holds m.addr payload.length) = some ⟨.fanout id sub, a, size⟩ :=
    Option.filter_eq_some_iff.mpr ⟨hregion, hinside⟩
  refine waking_of hl ((onMsg_admits hl ha).trans ?_)
  simp only [hmeant]

end

/-- A WRITE inside no region is discarded and counted. -/
theorem execWrite_outside (houtside : ((takeMsg m s).regions.at? m.key).filter (fun r => r.holds m.addr payload.length) = none) :
    execWrite m payload s = .next (wake (bumpV .writeRejects m.vnode (takeMsg m s))) := by
  refine waking_of hl ((onMsg_admits hl ha).trans ?_)
  simp only [houtside]

end

end

/-- The rows by which ownership moves, by role and state of the handoff. -/
theorem handoffCommandsComplete : Parts.HandoffCommandsComplete := by
  refine ⟨?offerOut, ?offerIn, ?accept, ?commit, ?resend, ?status⟩
  case offerOut => exact fun _ _ _ _ _ hs hf hallowed hsource => execOwnOffer_out hs hf hallowed hsource
  case offerIn => exact fun _ _ _ _ _ _ _ _ _ hs hf horigin hdest => execOwnOffer_in hs hf horigin hdest
  case accept =>
    exact fun _ _ _ _ _ _ _ _ hs hsender hx hother hsource hstate hright =>
      execOwnAccept_acceptable hs hsender hx hother hsource hstate hright
  case commit =>
    exact fun _ _ _ _ _ _ _ hs hsender hx hother hdest hstate => execOwnCommit_accepted hs hsender hx hother hdest hstate
  case resend =>
    exact fun _ _ _ _ hl hx hfree =>
      ⟨fun hstate => execOwnResend_receiving hl hx hfree hstate, fun hstate => execOwnResend_committing hl hx hfree hstate⟩
  case status => exact fun _ _ _ _ hs => execOwnStatus_serves hs

/-- The rows by which handoffs end, SPAN.MOVE by where the span lies, and WRITE by the region that it meets. -/
theorem handoffEndsComplete : Parts.HandoffEndsComplete := by
  refine ⟨?wait, ?resolve, ?move, ?write⟩
  case wait =>
    exact fun _ _ _ _ hl hx =>
      ⟨fun _ hstate hcmd => execOwnWaitExpiry_offering hl hx hstate hcmd, fun hstate => execOwnWaitExpiry_committed hl hx hstate,
        fun hstate => execOwnWaitExpiry_receiving hl hx hstate⟩
  case resolve =>
    exact fun _ _ _ _ _ _ hs hx hoffering hreceiving =>
      ⟨fun hsource => execOwnResolve_sourceToDestination hs hx hoffering hreceiving hsource,
        fun hsource => execOwnResolve_sourceToSource hs hx hoffering hreceiving hsource,
        fun hdest hsent => execOwnResolve_destinationToDestination hs hx hoffering hreceiving hdest hsent,
        fun hdest => execOwnResolve_destinationToSource hs hx hoffering hreceiving hdest⟩
  case move =>
    intro c t prefer s b w f u q holder dest hs hcount hf hfind hq hplace hopen hidle
    refine ⟨fun left hchoices => ⟨?here, ?elsewhere⟩, fun hchoices => ?none⟩
    case here =>
      rintro rfl hallowed
      exact (execSpanMove_chosen hs hcount hf hfind hq hplace hopen hidle hchoices (fun _ => hallowed)).trans (congrArg _ moveTo_here)
    case elsewhere =>
      intro hother
      exact (execSpanMove_chosen hs hcount hf hfind hq hplace hopen hidle hchoices (fun hself => absurd hself hother)).trans
        (congrArg _ (moveTo_elsewhere hother))
    case none => exact execSpanMove_noChoice hs hcount hf hfind hq hplace hopen hidle hchoices
  case write =>
    exact fun _ _ _ hl ha =>
      ⟨fun _ _ _ hregion hinside => execWrite_job hl ha hregion hinside, fun _ _ _ _ hregion hinside => execWrite_fanout hl ha hregion hinside,
        fun houtside => execWrite_outside hl ha houtside⟩

/-- Settles O29: the moves of ownership, and their ends. -/
theorem handoffRowsComplete : Obligations.HandoffRowsComplete := ⟨handoffCommandsComplete, handoffEndsComplete⟩

end Sys2Proof.Machine

/-! # What the rows keep: the queue and the invariant, the stored content, and all content; the relations, and the operations that run others -/

namespace Sys2Proof.Machine

/-! ## Three relations between a state and a later one -/

/-- The queue, the invariant and the whole content are kept. -/
def State.Same (s t : State) : Prop := s.Keeps t ∧ t.SameContent s

/-- The queue, the invariant, memory, the frame-state entries and the records are kept. -/
def State.Spares (s t : State) : Prop :=
  s.Keeps t ∧ t.mem = s.mem ∧ t.frames = s.frames ∧ t.spans = s.spans ∧ t.seqs = s.seqs ∧ t.masks = s.masks

/-- The fields that `State.Spares` and the invariant rest on. -/
def State.stored (s : State) := (s.core5, s.frames, s.spans, s.seqs, s.masks)

/-- The fields that `State.SameContent` and the invariant rest on. -/
def State.content (s : State) :=
  (s.stored, s.withheld, s.dir, s.tier, s.hbm, s.maskPages, s.attn, s.sealQueue, s.holds, s.deferred, s.vnodes, s.runners, s.hbmStacks,
    s.knobs, s.configured, s.profile, s.pw)

section
variable {s t u : State}

theorem State.Keeps.refl : s.Keeps s := keeps_refl

theorem State.Keeps.trans (h : s.Keeps t) (k : t.Keeps u) : s.Keeps u := keeps_trans h k

theorem State.Keeps.only (h : t.core5 = s.core5) : s.Keeps t := keeps_of_core h

theorem State.SameContent.refl : s.SameContent s := by simp only [State.SameContent, and_self]

theorem State.SameContent.trans (h : t.SameContent s) (k : u.SameContent t) : u.SameContent s := by
  simp only [State.SameContent] at h k ⊢
  simp only [k, h, and_self]

theorem State.Same.refl : s.Same s := ⟨.refl, .refl⟩

theorem State.Same.trans (h : s.Same t) (k : t.Same u) : s.Same u := ⟨h.1.trans k.1, h.2.trans k.2⟩

theorem State.Spares.refl : s.Spares s := ⟨.refl, rfl, rfl, rfl, rfl, rfl⟩

theorem State.Spares.trans (h : s.Spares t) (k : t.Spares u) : s.Spares u := by
  obtain ⟨hk, hm, hf, hs, hq, hx⟩ := h
  obtain ⟨kk, km, kf, ks, kq, kx⟩ := k
  exact ⟨hk.trans kk, km.trans hm, kf.trans hf, ks.trans hs, kq.trans hq, kx.trans hx⟩

/-- A change to other fields keeps what is stored. -/
theorem State.Spares.only (h : t.stored = s.stored) : s.Spares t := by
  simp only [State.stored, Prod.mk.injEq] at h
  obtain ⟨hc, hf, hs, hq, hx⟩ := h
  exact ⟨.only hc, congrArg (fun c => c.2.1) hc, hf, hs, hq, hx⟩

/-- A change to other fields keeps the content. -/
theorem State.Same.of_keeps (k : s.Keeps t) (hm : t.mem = s.mem)
    (h : (t.frames, t.spans, t.seqs, t.masks, t.content.2) = (s.frames, s.spans, s.seqs, s.masks, s.content.2)) : s.Same t := by
  simp only [State.content, Prod.mk.injEq] at h
  obtain ⟨h1, h2, h3, h4, h5, h6, h7, h8, h9, h10, h11, h12, h13, h14, h15, h16, h17, h18, h19, h20⟩ := h
  exact ⟨k, hm, h1, h5, h2, h3, h6, h7, h8, h4, h9, h10, h11, h12, h13, h14, h15, h16, h17, h18, h19, h20⟩

theorem State.Same.only (h : t.content = s.content) : s.Same t := by
  have hs : t.stored = s.stored := congrArg Prod.fst h
  obtain ⟨hk, hm, hf, hsp, hq, hx⟩ := State.Spares.only hs
  refine .of_keeps hk hm ?_
  rw [hf, hsp, hq, hx, h]

theorem State.Keeps.after (k : t.Keeps u) (h : s.Keeps t) : s.Keeps u := h.trans k

theorem State.Same.after (k : t.Same u) (h : s.Same t) : s.Same u := h.trans k

theorem State.Spares.after (k : t.Spares u) (h : s.Spares t) : s.Spares u := h.trans k

theorem State.Same.spares (h : s.Same t) : s.Spares t := by
  obtain ⟨hk, hm, hf, -, hs, hq, -, -, -, hx, -⟩ := h
  exact ⟨hk, hm, hf, hs, hq, hx⟩

theorem State.Same.keeps (h : s.Same t) : s.Keeps t := h.1

theorem State.Spares.keeps (h : s.Spares t) : s.Keeps t := h.1

end

/-! ## Relations that allow every change outside the content -/

/-- A preorder that allows every change outside the content. -/
structure Lax (R : State → State → Prop) : Prop where
  refl : ∀ {s}, R s s
  trans : ∀ {s t u}, R s t → R t u → R s u
  same : ∀ {s t}, s.Same t → R s t

/-- A preorder that allows every change outside what is stored. -/
structure Loose (R : State → State → Prop) : Prop extends Lax R where
  spares : ∀ {s t}, s.Spares t → R s t

theorem alike : Lax State.Same := ⟨.refl, .trans, id⟩
theorem spared : Loose State.Spares := ⟨⟨.refl, .trans, State.Same.spares⟩, id⟩
theorem kept : Loose State.Keeps := ⟨⟨.refl, .trans, State.Same.keeps⟩, State.Spares.keeps⟩

/-- Where a row goes on to a next state, that state stands in the relation to the one before. -/
def Leads (R : State → State → Prop) (s : State) (r : Res) : Prop := ∀ t, r = .next t → R s t

section
variable {R : State → State → Prop} {s t u : State}

theorem Leads.next (h : R s t) : Leads R s (.next t) := fun _ e => Host.Outcome.next.inj e ▸ h

theorem Leads.fault {f : Fault} : Leads R s (.fault f) := fun _ e => by cases e

theorem Leads.keeps {r : Res} (h : Leads State.Spares s r) : Leads State.Keeps s r := fun u e => (h u e).keeps

theorem Leads.spares {r : Res} (h : Leads State.Same s r) : Leads State.Spares s r := fun u e => (h u e).spares

/-- The state that an attempt gives, or the one before. -/
theorem Lax.getD (_ : Lax R) {o : Option State} (h : ∀ t, o = some t → R s t) (k : R s u) : R s (o.getD u) := by
  cases o with
  | none => exact k
  | some t => exact h t rfl

theorem Lax.leads (L : Lax R) {r : Res} (h : Leads R t r) (k : R s t) : Leads R s r := fun u e => L.trans k (h u e)

theorem Lax.ite (_ : Lax R) {p : Prop} [Decidable p] (h : R s t) (k : R s u) : R s (if p then t else u) := by
  split <;> assumption

theorem Lax.foldl (L : Lax R) {α : Type} {f : State → α → State} {xs : List α} {s : State} (h : ∀ u x, R u (f u x)) :
    R s (xs.foldl f s) := by
  induction xs generalizing s with
  | nil => exact L.refl
  | cons x r ih => exact L.trans (h s x) ih

/-- A fold that carries a value beside the state. -/
theorem Lax.foldl_snd (L : Lax R) {α β : Type} {f : β × State → α → β × State} {xs : List α} {p : β × State}
    (h : ∀ b u x, R u (f (b, u) x).2) : R p.2 (xs.foldl f p).2 := by
  induction xs generalizing p with
  | nil => exact L.refl
  | cons x r ih => exact L.trans (h p.1 p.2 x) ih

/-- The work of a command that answers now. -/
theorem Lax.now (_ : Lax R) {r : Reply} (h : R s t) : R s (Done.now r t).state := h

/-- The work of a command that answers later. -/
theorem Lax.later (_ : Lax R) (h : R s t) : R s (Done.later t).state := h

/-- Of two results of three parts, by a condition. -/
theorem Lax.snd_ite (_ : Lax R) {α β : Type} {p : Prop} [Decidable p] {x y : α × β × State} (h : R s x.2.2) (k : R s y.2.2) :
    R s (if p then x else y).2.2 := by
  split <;> assumption

/-- The state of a pair, where the pair is known by its two parts. -/
theorem Lax.snd (_ : Lax R) {α : Type} {p : α × State} {a : α} (e : p = (a, t)) (h : R s p.2) : R s t := by
  rw [e] at h; exact h

end

/-! ## Measurement registers (R542) -/

@[simp] theorem beBytes_length (n v : Nat) : (beBytes n v).length = n := by simp [beBytes]

@[simp] theorem wordsOfNat_length (n k : Nat) : (wordsOfNat n k).length = k := by
  induction k with
  | zero => rfl
  | succ k ih => rw [wordsOfNat, List.length_cons, ih]

theorem shaRound_length (kw : BitVec 32) (ws : List (BitVec 32)) : (shaRound kw ws).length = ws.length := by
  unfold shaRound
  split <;> rfl

theorem shaBlock_length (hash : List (BitVec 32)) (block : List Byte) : (shaBlock hash block).length = hash.length := by
  have rounds (kws ws : List (BitVec 32)) : (kws.foldl (fun ws kw => shaRound kw ws) ws).length = ws.length := by
    induction kws generalizing ws with
    | nil => rfl
    | cons kw r ih => rw [List.foldl_cons, ih, shaRound_length]
  rw [shaBlock, List.length_zipWith, rounds, Nat.min_self]

theorem sha256_length (m : List Byte) : (sha256 m).length = 32 := by
  have blocks (bs : List (List Byte)) (hash : List (BitVec 32)) : (bs.foldl shaBlock hash).length = hash.length := by
    induction bs generalizing hash with
    | nil => rfl
    | cons b r ih => rw [List.foldl_cons, ih, shaBlock_length]
  simp [sha256, List.length_flatMap, blocks, shaStart]

/-- A register below MEAS_6 set to 32 bytes leaves the registers in form. -/
theorem measOk_set {m : List (List Byte)} {i : Nat} {x : List Byte} (hi : i < 6) (hx : x.length = 32) (h : measOk m = true) :
    measOk (m.set i x) = true := by
  simp only [measOk, Bool.and_eq_true, decide_eq_true_eq, List.all_eq_true] at h ⊢
  obtain ⟨⟨hlen, hall⟩, hrest⟩ := h
  refine ⟨⟨by rw [List.length_set, hlen], fun r hr => ?_⟩, ?_⟩
  · rcases List.mem_or_eq_of_mem_set hr with hr | rfl
    · exact hall r hr
    · exact hx
  · rw [List.drop_set_of_lt hi, hrest]

end Sys2Proof.Machine

/-! # What leaves all content

The operations and rows after which all content, the queue and the invariant are as before (`State.Same`), in the order of the model. -/

namespace Sys2Proof.Machine

/-! ## Machine/Flags.lean -/

theorem emit_same {o : Output} {s : State} : s.Same (emit o s) := .only rfl

theorem raise_same {v : Nat} {s : State} : s.Same (raise v s) := alike.ite emit_same (alike.ite .refl (.only rfl))

theorem setDevError_same {bit : Nat} {s : State} : s.Same (setDevError bit s) := alike.ite .refl (raise_same.after (.only rfl))

/-! ## Machine/Ops.lean -/

theorem takeFree_same {s : State} : s.Same (takeFree s).2 := .only rfl

theorem bumpAt_same {c : Counter} {ix n : Nat} {s : State} : s.Same (bumpAt c ix n s) := .of_keeps bumpAt_keeps rfl rfl

theorem bump_same {c : Counter} {s : State} : s.Same (bump c s) := bumpAt_same

theorem bumpV_same {c : Counter} {v : VId} {s : State} : s.Same (bumpV c v s) := bumpAt_same

theorem logFrom_same {v : VId} {code src : Nat} {p : List (Nat × Nat)} {s : State} : s.Same (logFrom v code src p s) := by
  have entered {t : State} {lg : Log} (h : s.Same t) : ({ t with log := lg }).SameContent s :=
    h.2.trans (by simp only [State.SameContent, and_self])
  refine ⟨logFrom_keeps, ?_⟩
  unfold logFrom
  extract_lets _ s₁ _ _ _ _ s₂
  have hs₁ : s.Same s₁ := alike.ite (setDevError_same.after bump_same) .refl
  have hs₂ : s₂.SameContent s := entered hs₁
  split
  · exact hs₂.trans raise_same.2
  · exact hs₂

theorem addJob_same {j : Job} {s : State} : s.Same (addJob j s).2 := .only rfl

theorem endJob_same {id : Nat} {s : State} : s.Same (endJob id s) := .only rfl

/-! ## Machine/Transport.lean -/

theorem updQp_same {q : BitVec 12} {f : Qp → Qp} {s : State} : s.Same (updQp q f s) := by
  unfold updQp
  extract_lets
  split
  · exact .only rfl
  · exact .refl

theorem updAssoc_same {v : VId} {n : NodeId} {twin : Bool} {f : Assoc → Assoc} {s : State} : s.Same (updAssoc v n twin f s) := by
  unfold updAssoc
  extract_lets
  split
  · exact .only rfl
  · exact .refl

theorem usePn_same {v : VId} {n : NodeId} {twin : Bool} {s : State} : s.Same (usePn v n twin s) := updAssoc_same

theorem onPort_same {v : VId} {n : NodeId} {twin : Bool} {o : BitVec 5 → Output} {s : State} : s.Same (onPort v n twin o s) :=
  alike.ite .refl (emit_same.after (.only rfl))

theorem sendPacketTo_same {v : VId} {n : NodeId} {twin : Bool} {dscp : BitVec 6} {entropy : Nat} {qpn : BitVec 12}
    {content : List Byte} {o : BitVec 5 → List Byte → Output} {s : State} :
    s.Same (sendPacketTo v n twin dscp entropy qpn content o s) := by
  unfold sendPacketTo
  split
  · exact .refl
  · exact alike.ite .refl (usePn_same.after onPort_same)

theorem sendData_same {q : BitVec 12} {x : Qp} {d : TxData} {psn : BitVec 32} {entropy : Nat} {again : Bool} {s : State} :
    s.Same (sendData q x d psn entropy again s) :=
  sendPacketTo_same

theorem pumpTx_same {fuel : Nat} {q : BitVec 12} {s : State} : s.Same (pumpTx fuel q s) := by
  induction fuel generalizing q s with
  | zero => exact .refl
  | succ k ih =>
    unfold pumpTx
    extract_lets
    split
    · exact .refl
    · extract_lets
      split
      · exact .refl
      · exact alike.ite .refl (ih.after (sendData_same.after updQp_same))

theorem pumpAll_same {q : BitVec 12} {s : State} : s.Same (pumpAll q s) := pumpTx_same

theorem sendOn_same {q : BitVec 12} {viaTwin : Bool} {h : MsgHead} {payload : List Byte} {s : State} :
    s.Same (sendOn q viaTwin h payload s) := by
  unfold sendOn
  split
  · exact alike.ite (pumpAll_same.after updQp_same) .refl
  · exact .refl

theorem takeMsg_same {m : Msg} {s : State} : s.Same (takeMsg m s) := .only rfl

theorem rejectMsg_same {v : VId} {sender : NodeId} {q : BitVec 12} {msn : BitVec 24} {st : Status} {s : State} :
    s.Same (rejectMsg v sender q msn st s) :=
  logFrom_same.after bumpV_same

/-! ## Machine/Cmd.lean -/

theorem updObj_same {i : BitVec 14} {f : SyncObj → SyncObj} {s : State} : s.Same (updObj i f s) := by
  unfold updObj
  extract_lets
  split
  · exact .only rfl
  · exact .refl

theorem updRing_same {r : BitVec 9} {f : Ring → Ring} {s : State} : s.Same (updRing r f s) := .only rfl

theorem coalesce_same {r : BitVec 9} {irqNow : Bool} {s : State} : s.Same (coalesce r irqNow s) :=
  alike.ite (raise_same.after updRing_same) .refl

theorem writeRecord_same {ring : BitVec 9} {c : Cmd} {reply : List Byte} {result : List Byte} {s : State} :
    s.Same (writeRecord ring c reply result s) :=
  alike.ite bump_same (coalesce_same.after (updRing_same.after emit_same))

theorem sendReply_same {v : VId} {qpn : BitVec 12} {dest : NodeId} {addr : BitVec 64} {key : BitVec 32} {moved : Option NodeId}
    {bs : List Byte} {s : State} : s.Same (sendReply v qpn dest addr key moved bs s) :=
  alike.ite bumpV_same (sendOn_same.after emit_same)

theorem takeInWith_same {k : Knobs} {c : Cmd} {reserve : Bool} {s : State} : s.Same (takeInWith k c reserve s) := by
  unfold takeInWith
  extract_lets _ _ s₁ s₂
  have hs₁ : s.Same s₁ := .only rfl
  have hs₂ : s.Same s₂ := bump_same.after hs₁
  split
  · exact alike.ite (updRing_same.after hs₂) hs₂
  · exact hs₁

theorem takeIn_same {c : Cmd} {reserve : Bool} {s : State} : s.Same (takeIn c reserve s) := takeInWith_same

theorem retire_same {c : Cmd} {s : State} : s.Same (retire c s) := .only rfl

theorem sendResult_same {fuel : Nat} {v : VId} {q : BitVec 12} {n : NodeId} {addr : BitVec 64} {key : BitVec 32} {bs : List Byte}
    {s : State} : s.Same (sendResult fuel v q n addr key bs s) := by
  induction fuel generalizing v q n addr key bs s with
  | zero => exact .refl
  | succ k ih =>
        unfold sendResult
        exact alike.ite .refl (ih.after sendReply_same)

theorem answer_same {c : Cmd} {r : Reply} {s : State} : s.Same (answer c r s) := by
  unfold answer
  extract_lets
  split
  · exact writeRecord_same
  · exact sendReply_same.after sendResult_same

theorem oweSignal_same {c : Cmd} {st : Status} {s : State} : s.Same (oweSignal c st s) := alike.ite (.only rfl) .refl

theorem completeOnly_same {c : Cmd} {r : Reply} {s : State} : s.Same (completeOnly c r s) :=
  oweSignal_same.after (retire_same.after answer_same)

theorem refuseNew_same {c : Cmd} {r : Reply} {s : State} : s.Same (refuseNew c r s) := by
  unfold refuseNew
  extract_lets _ _ s₁
  have hs₁ : s.Same s₁ := completeOnly_same.after (.only rfl)
  exact hs₁.trans (.only rfl)

theorem releaseWaiter_same {w : Waiter} {s : State} : s.Same (releaseWaiter w s) := by
  unfold releaseWaiter
  extract_lets
  split
  · exact updRing_same
  · exact .only rfl
  · exact alike.ite (completeOnly_same.after takeIn_same) takeIn_same
  · exact completeOnly_same

theorem endWaiter_same {w : Waiter} {st : Status} {s : State} : s.Same (endWaiter w st s) := by
  unfold endWaiter
  extract_lets
  split
  · split
    · exact completeOnly_same.after updRing_same
    · exact .refl
  · split
    · exact completeOnly_same.after (.only rfl)
    · exact .refl
  · exact completeOnly_same
  · exact completeOnly_same

theorem dropWaiter_same {id : Nat} {s : State} : s.Same (dropWaiter id s) := .only rfl

theorem releaseList_same {i : BitVec 14} {ws : List Waiter} {s : State} : s.Same (releaseList i ws s) := by
  induction ws generalizing i s with
  | nil => exact .refl
  | cons x r ih =>
    unfold releaseList
    split
    · exact .refl
    · exact alike.ite (ih.after (releaseWaiter_same.after (bump_same.after (dropWaiter_same.after (alike.ite updObj_same .refl))))) ih

theorem releaseWaiters_same {i : BitVec 14} {s : State} : s.Same (releaseWaiters i s) := releaseList_same

theorem applySignal_same {i : BitVec 14} {value : Nat} {who : BitVec 64} {s : State} : s.Same (applySignal i value who s) := by
  unfold applySignal
  extract_lets _ s₁ s₂
  have hs₁ : s.Same s₁ := bump_same.after updObj_same
  have hs₂ : s.Same s₂ := bump_same.after updObj_same
  split
  · exact .refl
  · extract_lets
    split
    · exact releaseWaiters_same.after (alike.ite (raise_same.after hs₁) hs₁)
    · exact alike.ite (releaseWaiters_same.after (alike.ite (raise_same.after hs₂) hs₂)) (bump_same.after (bump_same.after updObj_same))
    · exact .refl

theorem dropSignal_same {i : BitVec 14} {who : BitVec 64} {s : State} : s.Same (dropSignal i who s) := logFrom_same.after bump_same

theorem signalOrDrop_same {i : BitVec 14} {value : Nat} {who : BitVec 64} {s : State} : s.Same (signalOrDrop i value who s) :=
  alike.ite applySignal_same dropSignal_same

theorem drainSignals_same {fuel : Nat} {s : State} : s.Same (drainSignals fuel s) := by
  induction fuel generalizing s with
  | zero => exact .refl
  | succ k ih =>
    unfold drainSignals
    extract_lets
    split
    · exact .refl
    · exact ih.after (signalOrDrop_same.after (.only rfl))

theorem applyDue_same {s : State} : s.Same (applyDue s) := drainSignals_same

theorem settleFences_same {js : List (Nat × Job)} {s : State} : s.Same (settleFences js s) := by
  induction js generalizing s with
  | nil => exact .refl
  | cons p r ih =>
    unfold settleFences
    split
    · exact .refl
    · next heq =>
      obtain ⟨-, rfl⟩ := List.cons.inj heq
      exact alike.ite (ih.after (completeOnly_same.after (alike.ite (logFrom_same.after endJob_same) endJob_same))) ih
    · next heq =>
      obtain ⟨-, rfl⟩ := List.cons.inj heq
      exact ih

theorem settleRings_same {rs : List (BitVec 9 × Ring)} {s : State} : s.Same (settleRings rs s) := by
  induction rs generalizing s with
  | nil => exact .refl
  | cons x r ih =>
    unfold settleRings
    split
    · exact alike.ite (ih.after (updRing_same.after completeOnly_same)) ih
    · exact ih

theorem countRefusal_same {v : VId} {r : Reply} {s : State} : s.Same (countRefusal v r s) :=
  alike.ite bumpV_same (alike.ite bumpV_same .refl)

theorem noteHostDenied_same {c : Cmd} {s : State} : s.Same (noteHostDenied c s) := by
  unfold noteHostDenied
  extract_lets _ _ s₂
  have hs₂ : s.Same s₂ := logFrom_same.after bump_same
  exact alike.ite bump_same (hs₂.trans (.only rfl))

theorem addWaiter_same {i : BitVec 14} {who : BitVec 64} {value : Nat} {timeoutUs : Nat} {wf : WaitFor} {s : State} :
    s.Same (addWaiter i who value timeoutUs wf s) :=
  .only rfl

theorem passWait_same {i : BitVec 14} {s : State} : s.Same (passWait i s) := updObj_same

theorem admitHeld_same {q : BitVec 12} {fuel : Nat} {ready : Bool} {kn : Knobs} {s : State} : s.Same (admitHeld q fuel ready kn s) := by
  induction fuel generalizing q ready kn s with
  | zero => exact .refl
  | succ k ih =>
    unfold admitHeld
    extract_lets
    split
    · exact .only rfl
    · extract_lets _ s'
      have hs' : s.Same s' := .only rfl
      split
      · exact ih.after (takeInWith_same.after hs')
      · split
        · exact ih.after (refuseNew_same.after (countRefusal_same.after hs'))
        · split
          · exact ih.after (takeInWith_same.after (alike.ite (passWait_same.after hs') hs'))
          · exact alike.ite (ih.after (refuseNew_same.after (bump_same.after hs'))) addWaiter_same

theorem settleQps_same {qs : List (BitVec 12)} {s : State} : s.Same (settleQps qs s) := by
  induction qs generalizing s with
  | nil => exact .refl
  | cons x r ih =>
        unfold settleQps
        exact ih.after (admitHeld_same.after (.only rfl))

theorem settle_same {s : State} : s.Same (settle s) :=
  applyDue_same.after (settleQps_same.after (applyDue_same.after (settleRings_same.after (settleFences_same.after applyDue_same))))

theorem complete_same {c : Cmd} {r : Reply} {s : State} : s.Same (complete c r s) := settle_same.after completeOnly_same

/-- A command's completion is in the relation where its own work is. -/
theorem Lax.finish {R : State → State → Prop} (L : Lax R) {c : Cmd} {b : State} {d : Done} (h : R b d.state) : R b (finish c b d) := by
  cases d with
  | now r t => exact L.ite (L.same complete_same) (L.trans h (L.same complete_same))
  | later t => exact h

theorem asWork_same {c : Cmd} {s : State} : s.Same (asWork c s) := by
  unfold asWork
  split
  · exact .only rfl
  · exact .refl

theorem Lax.runCmd {R : State → State → Prop} (L : Lax R) {c : Cmd} {body : State → Done} {s : State} (h : ∀ t, R t (body t).state) :
    R s (runCmd c body s) := by
  unfold Machine.runCmd
  split
  · exact L.finish (L.trans (L.same asWork_same) (h _))
  · split
    · exact L.same (complete_same.after (countRefusal_same.after (alike.ite noteHostDenied_same .refl)))
    · split
      · exact L.trans (L.same (takeIn_same.after (alike.ite passWait_same .refl))) (L.finish (L.trans (L.same asWork_same) (h _)))
      · exact L.ite (L.same (complete_same.after bump_same)) (L.same addWaiter_same)

theorem Lax.withParams {R : State → State → Prop} (L : Lax R) {c : Cmd} {len : Nat} {fails : List (Bool × Nat)} {body : State → Done}
    {s : State} (h : ∀ t, R t (body t).state) : R s (withParams c len fails body s).state := by
  unfold Machine.withParams
  split
  · exact L.refl
  · exact h s

theorem Lax.onNode {R : State → State → Prop} (L : Lax R) {f : State → State} {s : State} (h : ∀ t, R t (f t)) :
    Leads R s (onNode f s) :=
  .next (L.ite (h s) L.refl)

theorem Lax.onMsg {R : State → State → Prop} (L : Lax R) {m : Msg} {op : Nat} {reads : List Byte → Bool} {f : State → State} {s : State}
    (h : ∀ t, R t (f t)) : Leads R s (onMsg m op reads f s) :=
  L.onNode (fun _ => L.ite (L.trans (L.same takeMsg_same) (h _)) L.refl)

theorem Lax.runVerb {R : State → State → Prop} (L : Lax R) {c : Cmd} {body : State → Done} {s : State} (h : ∀ t, R t (body t).state) :
    Leads R s (runVerb c body s) := L.onNode (fun _ => L.runCmd h)

theorem Done.refuse_same {st : Status} {s : State} : s.Same (Done.refuse st s).state := .refl

/-! ## Machine/Dir.lean -/

theorem execDirRead_same {c : Cmd} {bank : BitVec 4} {first : BitVec 12} {count : BitVec 13} {s : State} :
    Leads State.Same s (execDirRead c bank first count s) :=
  alike.runVerb (fun _ => alike.withParams (fun _ => .refl))

/-! ## Machine/HostIf.lean -/

theorem createRing_same {p : RingBlk} {s : State} : s.Same (createRing p s) := .only rfl

theorem execNodeRingCreate_same {c : Cmd} {p : RingBlk} {s : State} : Leads State.Same s (execNodeRingCreate c p s) :=
  alike.runVerb (fun _ => alike.withParams (fun s₂ => by
    split
    · exact .refl
    · exact alike.now createRing_same))

theorem execNodeRingDestroy_same {c : Cmd} {ring : BitVec 9} {s : State} : Leads State.Same s (execNodeRingDestroy c ring s) :=
  alike.runVerb (fun _ => alike.withParams (fun s₂ => by
    extract_lets
    split
    · exact .refl
    · split
      · exact .refl
      · split
        · exact .refl
        · exact alike.later (settle_same.after updRing_same)))

theorem execOrderFence_same {c : Cmd} {scopeNode : Bool} {mirror : Bool} {logMark : Bool} {s : State} :
    Leads State.Same s (execOrderFence c scopeNode mirror logMark s) :=
  alike.runVerb (fun _ => alike.withParams (fun _ => alike.later (settle_same.after addJob_same)))

/-! ## Machine/Log.lean -/

theorem execLogRead_same {c : Cmd} {fromSeq : BitVec 64} {maxRecords : BitVec 13} {s : State} :
    Leads State.Same s (execLogRead c fromSeq maxRecords s) :=
  alike.runVerb (fun _ => alike.withParams (fun _ => .refl))

theorem execLogCounters_same {c : Cmd} {group : BitVec 8} {index : BitVec 8} {first : BitVec 8} {count : BitVec 8} {s : State} :
    Leads State.Same s (execLogCounters c group index first count s) :=
  alike.runVerb (fun _ => alike.withParams (fun _ => .refl))

/-! ## Machine/Codec.lean -/

theorem execCodecStatus_same {c : Cmd} {s : State} : Leads State.Same s (execCodecStatus c s) :=
  alike.runVerb (fun _ => alike.withParams (fun _ => .refl))

/-! ## Machine/SyncUnit.lean -/

theorem putObj_same {i : BitVec 14} {o : SyncObj} {s : State} : s.Same (putObj i o s) := .only rfl

theorem createObj_same {c : Cmd} {i : BitVec 14} {o : SyncObj} {s : State} : s.Same (createObj c i o s).state := by
  unfold createObj
  split
  · exact .refl
  · split
    · exact .refl
    · exact alike.now putObj_same

theorem execSyncCreate_same {c : Cmd} {p : SyncCreateBlk} {s : State} : Leads State.Same s (execSyncCreate c p s) :=
  alike.runVerb (fun _ => alike.withParams (fun _ => createObj_same))

theorem endWaiters_same {st : Status} {ws : List Waiter} {s : State} : s.Same (endWaiters st ws s) := by
  induction ws generalizing st s with
  | nil => exact .refl
  | cons x r ih =>
        unfold endWaiters
        exact ih.after (endWaiter_same.after dropWaiter_same)

theorem destroyObj_same {c : Cmd} {barrier : Bool} {i : BitVec 14} {force : Bool} {s : State} :
    s.Same (destroyObj c barrier i force s).state := by
  unfold destroyObj
  extract_lets s₁
  have hs₁ : s.Same s₁ := endWaiters_same
  split
  · exact .refl
  · split
    · exact .refl
    · split
      · exact .refl
      · exact alike.now (hs₁.trans (.only rfl))

theorem execSyncDestroy_same {c : Cmd} {index : BitVec 14} {force : Bool} {s : State} :
    Leads State.Same s (execSyncDestroy c index force s) :=
  alike.runVerb (fun _ => alike.withParams (fun _ => destroyObj_same))

theorem execBarrierDestroy_same {c : Cmd} {index : BitVec 14} {force : Bool} {s : State} :
    Leads State.Same s (execBarrierDestroy c index force s) :=
  alike.runVerb (fun _ => alike.withParams (fun _ => destroyObj_same))

theorem execSyncSignal_same {c : Cmd} {s : State} : Leads State.Same s (execSyncSignal c s) :=
  alike.runVerb (fun _ => alike.withParams (fun s₂ => by
    split
    · exact .refl
    · exact alike.now signalOrDrop_same))

theorem execSyncWait_same {c : Cmd} {s : State} : Leads State.Same s (execSyncWait c s) :=
  alike.runVerb (fun _ => alike.withParams (fun s₂ => by
    split
    · exact .refl
    · exact .refl))

theorem execSignal_same {m : Msg} {index : BitVec 14} {value : BitVec 64} {tag : BitVec 32} {rsv : Bool} {s : State} :
    Leads State.Same s (execSignal m index value tag rsv s) := by
  unfold execSignal
  extract_lets
  exact alike.onMsg (fun s₁ => by
    split
    · exact rejectMsg_same
    · split
      · exact alike.ite dropSignal_same (alike.ite countRefusal_same (sendReply_same.after countRefusal_same))
      · exact settle_same.after (alike.ite applySignal_same (sendReply_same.after applySignal_same)))

theorem execBarrierCreate_same {c : Cmd} {p : BarrierBlk} {s : State} : Leads State.Same s (execBarrierCreate c p s) :=
  alike.runVerb (fun _ => alike.withParams (fun _ => createObj_same))

theorem sendTree_same {release : Bool} {k : TreeLink} {i : BitVec 14} {phase : BitVec 48} {s : State} :
    s.Same (sendTree release k i phase s) :=
  sendOn_same.after emit_same

theorem completePhase_same {i : BitVec 14} {o : SyncObj} {s : State} : s.Same (completePhase i o s) := by
  unfold completePhase
  extract_lets _ _ _ _ s₄
  have hs₄ : s.Same s₄ := bump_same.after ((alike.foldl (fun _ _ => sendTree_same)).after (releaseWaiters_same.after updObj_same))
  exact alike.ite (raise_same.after hs₄) hs₄

theorem actBarrier_same {fuel : Nat} {i : BitVec 14} {s : State} : s.Same (actBarrier fuel i s) := by
  induction fuel generalizing i s with
  | zero => exact .refl
  | succ k ih =>
    unfold actBarrier
    split
    · exact .refl
    · exact alike.ite .refl (alike.ite (ih.after completePhase_same) (sendTree_same.after updObj_same))

theorem countArrival_same {i : BitVec 14} {who : BitVec 64} {s : State} : s.Same (countArrival i who s) := updObj_same

theorem execBarrierArrive_same {c : Cmd} {index : BitVec 14} {sense : Bool} {nowait : Bool} {timeoutUs : BitVec 32} {s : State} :
    Leads State.Same s (execBarrierArrive c index sense nowait timeoutUs s) := by
  unfold execBarrierArrive
  extract_lets
  exact alike.runVerb (fun _ => alike.withParams (fun s₂ => by
    split
    · exact .refl
    · split
      · exact .refl
      · split
        · exact .refl
        · split
          · exact alike.now bump_same
          · extract_lets
            split
            · exact alike.now (actBarrier_same.after countArrival_same)
            · split
              · exact alike.now bump_same
              · exact alike.later (settle_same.after (actBarrier_same.after (countArrival_same.after addWaiter_same)))))

theorem rejectTree_same {m : Msg} {i : BitVec 14} {s : State} : s.Same (rejectTree m i s) := logFrom_same.after bump_same

theorem execTreeArrive_same {m : Msg} {index : BitVec 14} {fromIndex : BitVec 14} {phase : BitVec 48} {rsv : Bool} {s : State} :
    Leads State.Same s (execTreeArrive m index fromIndex phase rsv s) :=
  alike.onMsg (fun s₁ => by
    split
    · exact rejectTree_same
    · split
      · exact dropSignal_same
      · exact alike.ite rejectTree_same (settle_same.after (actBarrier_same.after countArrival_same)))

theorem execTreeRelease_same {m : Msg} {index : BitVec 14} {fromIndex : BitVec 14} {phase : BitVec 48} {rsv : Bool} {s : State} :
    Leads State.Same s (execTreeRelease m index fromIndex phase rsv s) :=
  alike.onMsg (fun s₁ => by
    split
    · exact rejectTree_same
    · split
      · exact dropSignal_same
      · exact alike.ite rejectTree_same (settle_same.after (actBarrier_same.after completePhase_same)))

theorem execWaitTimeout_same {waiter : Nat} {s : State} : Leads State.Same s (execWaitTimeout waiter s) :=
  alike.onNode (fun s₁ => by
    extract_lets
    split
    · exact .refl
    · exact settle_same.after (endWaiter_same.after (logFrom_same.after (bump_same.after dropWaiter_same))))

theorem execSyncRead_same {c : Cmd} {first : BitVec 14} {count : BitVec 15} {s : State} :
    Leads State.Same s (execSyncRead c first count s) := by
  unfold execSyncRead
  extract_lets
  exact alike.runVerb (fun _ => alike.withParams (fun s₂ => by
    split
    · exact .refl
    · exact .refl))

theorem execSyncDump_same {c : Cmd} {freeze : Bool} {freezeNs : BitVec 32} {s : State} :
    Leads State.Same s (execSyncDump c freeze freezeNs s) :=
  alike.runVerb (fun _ => alike.withParams (fun s₂ => by
    extract_lets _ _ _ s₃
    have hs₃ : s₂.Same s₃ := .only rfl
    split
    · exact .refl
    · exact alike.now (alike.ite (logFrom_same.after (bump_same.after hs₃)) .refl)))

theorem setObj_same {i : BitVec 14} {value : Nat} {s : State} : s.Same (setObj i value s) := releaseWaiters_same.after updObj_same

theorem performSet_same {i : BitVec 14} {action : Nat} {value : Nat} {o : SyncObj} {s : State} :
    s.Same (performSet i action value o s) := by
  unfold performSet
  extract_lets _ s₂
  have hs₂ : s.Same s₂ := logFrom_same.after bump_same
  split
  · exact setObj_same.after hs₂
  · exact alike.ite (updObj_same.after hs₂) (endWaiters_same.after hs₂)

theorem execSyncSet_same {c : Cmd} {index : BitVec 14} {action : BitVec 2} {value : BitVec 64} {s : State} :
    Leads State.Same s (execSyncSet c index action value s) :=
  alike.runVerb (fun _ => alike.withParams (fun s₂ => by
    split
    · exact alike.now bump_same
    · split
      · exact .refl
      · exact alike.now performSet_same))

theorem setCtrl_same {i : BitVec 14} {action : Nat} {reserved : Bool} {s : State} : s.Same (setCtrl i action reserved s) := by
  unfold setCtrl
  extract_lets
  split
  · exact bump_same.after (.only rfl)
  · split
    · exact .refl
    · exact settle_same.after performSet_same

theorem execSetValue_same {index : BitVec 14} {s : State} : Leads State.Same s (execSetValue index s) :=
  alike.onNode (fun _ => setCtrl_same)

theorem execClearOverruns_same {index : BitVec 14} {s : State} : Leads State.Same s (execClearOverruns index s) :=
  alike.onNode (fun _ => setCtrl_same)

theorem execAbortWaiters_same {index : BitVec 14} {reservedAction : Bool} {s : State} :
    Leads State.Same s (execAbortWaiters index reservedAction s) :=
  alike.onNode (fun _ => setCtrl_same)

theorem execSyncSel_same {index : BitVec 14} {s : State} : Leads State.Same s (execSyncSel index s) := alike.onNode (fun _ => .only rfl)

theorem execSyncSetStatus_same {s : State} : Leads State.Same s (execSyncSetStatus s) :=
  alike.onNode (fun _ => emit_same.after (.only rfl))

/-! ## Machine/Pair.lean -/

theorem execTwinStatus_same {c : Cmd} {s : State} : Leads State.Same s (execTwinStatus c s) :=
  alike.runVerb (fun _ => alike.withParams (fun _ => .refl))

/-! ## Machine/Own.lean -/

theorem execOwnStatus_same {c : Cmd} {s : State} : Leads State.Same s (execOwnStatus c s) :=
  alike.runVerb (fun _ => alike.withParams (fun _ => .refl))

/-! ## Machine/Cfg.lean -/

theorem execCfgRead_same {c : Cmd} {s : State} : Leads State.Same s (execCfgRead c s) :=
  alike.runVerb (fun _ => alike.withParams (fun _ => alike.now takeFree_same))

end Sys2Proof.Machine

/-! # What leaves every byte and record

The operations and rows after which memory, the frame states, the records, the queue and the invariant are as before (`State.Spares`), in the order of
the model. -/

namespace Sys2Proof.Machine

/-! ## Machine/Flags.lean -/

theorem setAlert_spares {bit : Nat} {s : State} : s.Spares (setAlert bit s) := spared.ite .refl (emit_same.spares.after (.only rfl))

/-! ## Machine/Ops.lean -/

theorem takeEstimate_spares {s : State} : s.Spares (takeEstimate s).2 := .only rfl

theorem bumpBy_spares {c : Counter} {n : Nat} {s : State} : s.Spares (bumpBy c n s) := bumpAt_same.spares

theorem updVn_spares {v : VId} {f : VNode → VNode} {s : State} : s.Spares (updVn v f s) := .only rfl

theorem setJob_spares {id : Nat} {j : Job} {s : State} : s.Spares (setJob id j s) := .only rfl

theorem deferAt_spares {order : Option Nat} {why : DeferWhy} {i : Instr} {k : Knobs} {s : State} : s.Spares (deferAt order why i k s) :=
  .only rfl

theorem defer_spares {why : DeferWhy} {i : Instr} {k : Knobs} {s : State} : s.Spares (defer why i k s) := deferAt_spares

/-! ## Machine/Transport.lean -/

theorem sendTo_spares {v : VId} {n : NodeId} {viaTwin : Bool} {h : MsgHead} {payload : List Byte} {o : Output} {s : State} :
    s.Spares (sendTo v n viaTwin h payload o s) := by
  unfold sendTo
  split
  · exact sendOn_same.spares.after emit_same.spares
  · exact .refl

theorem takePeer_spares {n : NodeId} {s : State} : s.Spares (takePeer n s) := .only rfl

/-! ## Machine/Cmd.lean -/

theorem ringError_spares {r : BitVec 9} {cause : Nat} {s : State} : s.Spares (ringError r cause s) :=
  setDevError_same.spares.after (logFrom_same.spares.after (bump_same.spares.after updRing_same.spares))

/-! ## Machine/Dir.lean -/

theorem updBank_spares {b : Nat} {f : DirBank → DirBank} {s : State} : s.Spares (updBank b f s) := .only rfl

theorem logPairFull_spares {v : VId} {p : Nat × Nat} {s : State} : s.Spares (logPairFull v p s) := logFrom_same.spares

theorem invalidate_spares {b : Nat} {e : DirEntry} {s : State} : s.Spares (invalidate b e s) := by
  unfold invalidate
  extract_lets
  split
  · exact updBank_spares
  · split
    · exact updBank_spares
    · exact .refl

theorem retireAddr_spares {b a : Nat} {s t : State} (h : retireAddr b a s = some t) : s.Spares t := by
  simp only [retireAddr] at h
  split at h
  · cases h; exact updBank_spares
  · split at h
    · obtain ⟨_, -, rfl⟩ := Option.map_eq_some_iff.mp h
      exact updBank_spares.after takeFree_same.spares
    · split at h
      · obtain ⟨_, -, rfl⟩ := Option.map_eq_some_iff.mp h
        exact updBank_spares.after (updBank_spares.after takeFree_same.spares)
      · cases h

theorem retireWaiting_spares {s : State} : s.Spares (retireWaiting s) :=
  (spared.foldl (fun s₁ _ => by
    split
    · next s' e =>
        exact (retireAddr_spares e).trans (.only rfl)
    · exact .refl))

theorem beginUpdate_spares {b : Nat} {s : State} : s.Spares (beginUpdate b s) := by
  unfold beginUpdate
  extract_lets
  split
  · extract_lets
    split
    · exact retireWaiting_spares.after (invalidate_spares.after updBank_spares)
    · exact updBank_spares
  · exact .refl

theorem queueUpdate_spares {b : Nat} {u : DirUpd} {s : State} : s.Spares (queueUpdate b u s) := beginUpdate_spares.after updBank_spares

theorem deleteEntry_spares {e : DirEntry} {s : State} : s.Spares (deleteEntry e s) :=
  spared.ite queueUpdate_spares (spared.ite queueUpdate_spares .refl)

theorem markRebuilding_spares {b : Nat} {s : State} : s.Spares (markRebuilding b s) := updBank_spares

theorem noteFalseHit_spares {v : VId} {b : Nat} {a : Nat} {s : State} : s.Spares (noteFalseHit v b a s) :=
  logFrom_same.spares.after (bump_same.spares.after updBank_spares)

theorem searchFrom_spares {fuel : Nat} {v : VId} {h : Handle} {key : BitVec 96} {last : Option (Nat × Nat)} {moved : Bool} {s : State} :
    s.Spares (searchFrom fuel v h key last moved s).2 := by
  induction fuel generalizing v h key last moved s with
  | zero => exact .refl
  | succ k ih =>
    unfold searchFrom
    split
    · exact .refl
    · exact logFrom_same.spares.after (bump_same.spares.after markRebuilding_spares)
    · extract_lets s₁
      have hs₁ : s.Spares s₁ := noteFalseHit_spares
      split
      · exact markRebuilding_spares.after hs₁
      · split
        · split
          · next s' e =>
              exact ih.after ((retireAddr_spares e).after hs₁)
          · exact spared.ite hs₁ (logPairFull_spares.after (hs₁.trans (.only rfl)))
        · exact ih.after hs₁

theorem search_spares {v : VId} {h : Handle} {span : Nat} {cls : Nat} {s : State} : s.Spares (search v h span cls s).2 := by
  unfold search
  extract_lets
  split
  · exact bump_same.spares.after searchFrom_spares
  · exact searchFrom_spares

theorem applyDirUpsets_spares {u : Upsets} {s : State} : s.Spares (applyDirUpsets u s) :=
  (spared.foldl (fun _ _ => updBank_spares)).after ((spared.foldl (fun _ _ => updBank_spares)))

theorem execDirProbe_spares {c : Cmd} {handle : Handle} {span : SpanIx} {kind : BitVec 8} {u : Upsets} {s : State} :
    Leads State.Spares s (execDirProbe c handle span kind u s) :=
  spared.runVerb (fun _ => spared.withParams (fun s₂ => by
    extract_lets r
    have hr : s₂.Spares r.2 := search_spares.after applyDirUpsets_spares
    split
    · exact spared.now hr
    · exact spared.now hr
    · exact spared.now hr))

theorem noteBadShadows_spares {s : State} : s.Spares (noteBadShadows s) :=
  (spared.foldl (fun _ _ => (spared.foldl (fun _ _ => logFrom_same.spares.after (bump_same.spares.after markRebuilding_spares)))))

theorem execDirScrub_spares {u : Upsets} {s : State} : Leads State.Spares s (execDirScrub u s) := by
  unfold execDirScrub
  extract_lets
  exact spared.onNode (fun s₁ => by
    extract_lets s₂
    have hs₂ : s₁.Spares s₂ := noteBadShadows_spares.after applyDirUpsets_spares
    exact bumpBy_spares.after (hs₂.trans (.only rfl)))

theorem execDirHoleRestore_spares {bank : BitVec 4} {src : BitVec 12} {dst : BitVec 12} {s : State} :
    Leads State.Spares s (execDirHoleRestore bank src dst s) :=
  spared.onNode (fun _ => spared.ite (updBank_spares.after updBank_spares) updBank_spares)

theorem execTombstoneExpiry_spares {bank : BitVec 4} {addr : BitVec 12} {s : State} :
    Leads State.Spares s (execTombstoneExpiry bank addr s) :=
  spared.onNode (fun _ => spared.ite deleteEntry_spares .refl)

/-! ## Machine/Rec.lean -/

theorem handPeer_spares {m : PeerMsg} {s : State} : s.Spares (handPeer m s) := sendTo_spares

theorem sendPeer_spares {v : VId} {dest : NodeId} {twinLink : Bool} {h : Handle} {span : Nat} {body : PeerBody} {job : Option Nat}
    {s : State} : s.Spares (sendPeer v dest twinLink h span body job s) := by
  unfold sendPeer
  extract_lets _ _ s₁
  have hs₁ : s.Spares s₁ := .only rfl
  exact spared.ite hs₁ (handPeer_spares.after hs₁)

theorem ackPeer_spares {h : PeerHdr} {st : Status} {fill : Nat} {s : State} : s.Spares (ackPeer h st fill s) := handPeer_spares

theorem leavePeer_spares {h : PeerHdr} {cls : PeerClass} {at_ : Option (BitVec 12 × BitVec 24)} {s : State} :
    s.Spares (leavePeer h cls at_ s) :=
  spared.ite rejectMsg_same.spares (spared.ite .refl bump_same.spares)

theorem Loose.onPeer {R : State → State → Prop} (L : Loose R) {h : PeerHdr} {cls : PeerClass} {f : State → State} {s : State}
    (k : ∀ t, R t (f t)) : Leads R s (onPeer h cls f s) :=
  L.onNode (fun _ => L.trans (L.spares takePeer_spares) (L.ite (L.ite (L.spares ackPeer_spares) (k _)) (L.spares leavePeer_spares)))

theorem Loose.onPeerAck {R : State → State → Prop} (L : Loose R) {h : PeerHdr} {f : State → State} {s : State}
    (k : ∀ t, R t (f t)) : Leads R s (onPeerAck h f s) :=
  L.onNode (fun _ => L.trans (L.spares takePeer_spares) (L.ite (L.ite L.refl (k _)) (L.spares leavePeer_spares)))

theorem settleSlot_spares {n : Nat} {s : State} : s.Spares (settleSlot n s) := by
  unfold settleSlot
  extract_lets _ _ _ _ s₁
  have hs₁ : s.Spares s₁ := .only rfl
  exact spared.ite .refl (spared.ite hs₁ (logFrom_same.spares.after hs₁))

theorem settleSlots_spares {s : State} : s.Spares (settleSlots s) := (spared.foldl (fun _ _ => settleSlot_spares))

theorem stopMoved_spares {v : VId} {n : NodeId} {s : State} : s.Spares (stopMoved v n s).2 := bumpV_same.spares

theorem findSpanFor_spares {late : Bool} {v : VId} {h : Handle} {span : Nat} {s : State} :
    s.Spares (findSpanFor late v h span s).2 := by
  unfold findSpanFor
  extract_lets _ gate _ s₁
  have hs₁ : s.Spares s₁ := search_spares
  have hgate : ∀ r, gate = some r → s.Spares r.2 := by
    intro r hr
    simp only [gate] at hr
    split at hr
    · cases hr
    · split at hr
      · cases hr; exact .refl
      · split at hr
        · cases hr
        · cases hr; exact takeEstimate_spares
      · cases hr
      · cases hr; exact .refl
  clear_value gate s₁
  split
  · next r => exact hgate r rfl
  · split
    · exact .refl
    · split
      · exact hs₁
      · exact hs₁
      · split
        · exact stopMoved_spares.after hs₁
        · split
          · exact hs₁
          · split
            · exact hs₁
            · split
              · exact hs₁
              · split
                · exact takeEstimate_spares.after hs₁
                · repeat' split
                  all_goals exact hs₁

theorem findSpan_spares {v : VId} {h : Handle} {span : Nat} {s : State} : s.Spares (findSpan v h span s).2 := findSpanFor_spares

theorem holdForBank_spares {i : Instr} {c : Cmd} {h : Handle} {s : State} : s.Spares (holdForBank i c h s).state := by
  unfold holdForBank
  extract_lets
  split
  · exact spared.later defer_spares
  · exact .refl

theorem awaitRecord_spares {v : VId} {h : Handle} {old : NodeId} {s : State} : s.Spares (awaitRecord v h old s) := updVn_spares

theorem findHome_spares {c : Cmd} {h : Handle} {s : State} : s.Spares (findHome c h s).2 := by
  unfold findHome
  extract_lets
  split
  · exact countRefusal_same.spares
  · split
    · exact search_spares
    · split
      · exact awaitRecord_spares.after search_spares
      · exact search_spares
    · split
      · exact bumpV_same.spares.after search_spares
      · split
        · exact search_spares
        · split
          · exact takeEstimate_spares.after search_spares
          · exact search_spares

/-! ## Machine/Service.lean -/

theorem sendRecord_spares {m : Msg} {addr : BitVec 64} {moved : Option NodeId} {bs : List Byte} {s : State} :
    s.Spares (sendRecord m addr moved bs s) :=
  spared.ite sendReply_same.spares (sendReply_same.spares.after sendReply_same.spares)

theorem deliver_spares {id : Nat} {ix : Nat} {bs : List Byte} {s : State} : s.Spares (deliver id ix bs s) := by
  unfold deliver
  extract_lets
  split
  · exact .refl
  · extract_lets
    split
    · exact settle_same.spares.after (sendRecord_spares.after (.only rfl))
    · exact spared.ite (complete_same.spares.after (.only rfl)) (.only rfl)

theorem logCheckFail_spares {v : VId} {d : QDesc} {f : CheckFail} {core : Nat} {page : Nat} {frame : Nat} {s : State} :
    s.Spares (logCheckFail v d f core page frame s) :=
  logFrom_same.spares

theorem putFan_spares {id : Nat} {f : Fanout} {s : State} : s.Spares (putFan id f s) := .only rfl

theorem fanFail_spares {id : Nat} {f : Fanout} {first : Nat} {count : Nat} {st : Status} {node : NodeId} {hint : Nat} {s : State} :
    s.Spares (fanFail id f first count st node hint s) := by
  unfold fanFail
  extract_lets _ s₁
  have hs₁ : s.Spares s₁ := .only rfl
  exact deliver_spares.after (logFrom_same.spares.after (bump_same.spares.after hs₁))

theorem fanFinish_spares {id : Nat} {s : State} : s.Spares (fanFinish id s) := by
  unfold fanFinish
  extract_lets s₁
  have hs₁ : s.Spares s₁ := bump_same.spares
  split
  · exact .refl
  · extract_lets
    split
    · exact .refl
    · split
      · exact fanFail_spares
      · split
        · exact .refl
        · extract_lets
          split
          · exact fanFail_spares.after (logCheckFail_spares.after hs₁)
          · exact deliver_spares.after (hs₁.trans (.only rfl))

theorem setSub_spares {id : Nat} {sub : Nat} {a : FanAns} {s : State} : s.Spares (setSub id sub a s) := by
  unfold setSub
  split
  · exact .refl
  · exact putFan_spares

/-! ## Machine/Flash.lean -/

theorem updBlock_spares {b : Nat × Nat × Nat} {f : FlashBlock → FlashBlock} {s : State} : s.Spares (updBlock b f s) := .only rfl

theorem writeMeta_spares {v : VId} {s : State} : s.Spares (writeMeta v s) := .only rfl

theorem moveFlash_spares {n : Nat} {s : State} : s.Spares (moveFlash n s) := by
  unfold moveFlash
  split
  · exact .refl
  · split
    · exact .refl
    · extract_lets s₁
      have hs₁ : s.Spares s₁ := updBlock_spares
      exact spared.ite .refl (hs₁.trans (.only rfl))

theorem emptyBlock_spares {b : Nat × Nat × Nat} {s : State} : s.Spares (emptyBlock b s) := by
  unfold emptyBlock
  extract_lets _ s₁ _ s₃
  have hs₁ : s.Spares s₁ := .only rfl
  have hs₃ : s.Spares s₃ := (spared.foldl (fun _ _ => moveFlash_spares)).after (updBlock_spares.after hs₁)
  exact spared.ite hs₃ (updBlock_spares.after hs₃)

/-! ## Machine/Span.lean -/

theorem execSpanCloseTimeout_spares {job : Nat} {s : State} : Leads State.Spares s (execSpanCloseTimeout job s) :=
  spared.onNode (fun s₁ => by
    split
    · exact complete_same.spares.after setJob_spares
    · exact .refl)

/-! ## Machine/Append.lean -/

theorem takeStripe_spares {v : VId} {page : Option PageRef} {t0 : BitVec 32} {t1 : BitVec 32} {s : State} :
    s.Spares (takeStripe v page t0 t1 s) :=
  spared.ite (logFrom_same.spares.after updVn_spares) updVn_spares

theorem holdLayer_spares {v : VId} {h : Handle} {l : Nat} {hd : Nat} {s : State} : s.Spares (holdLayer v h l hd s).2 := .only rfl

theorem freeLayer_spares {v : VId} {h : Handle} {l : Nat} {hd : Nat} {s : State} : s.Spares (freeLayer v h l hd s) := .only rfl

theorem execSmoothHold_spares {h : PeerHdr} {layer : BitVec 16} {head : BitVec 8} {s : State} :
    Leads State.Spares s (execSmoothHold h layer head s) :=
  spared.onPeer (fun _ => ackPeer_spares.after (holdLayer_spares.after freeLayer_spares))

/-! ## Machine/Runner.lean -/

theorem updRunner_spares {stack : Nat} {pc : Nat} {f : Runner → Runner} {s : State} : s.Spares (updRunner stack pc f s) := .only rfl

theorem updStack_spares {n : Nat} {f : Stack → Stack} {s : State} : s.Spares (updStack n f s) := .only rfl

theorem updRnStatus_spares {stack : Nat} {pc : Nat} {tag : BitVec 8} {f : RnStatus → RnStatus} {s : State} :
    s.Spares (updRnStatus stack pc tag f s) :=
  updRunner_spares

theorem issueOwed_spares {stack : Nat} {pc : Nat} {s : State} : s.Spares (issueOwed stack pc s) := spared.ite .refl updStack_spares

theorem setSeq_spares {stack : Nat} {pc : Nat} {tag : BitVec 8} {q : RnSeq} {s : State} : s.Spares (setSeq stack pc tag q s) :=
  updRunner_spares

theorem Loose.onRunner {R : State → State → Prop} (L : Loose R) {op : Nat} {stack : BitVec 3} {k : RnCmd} {i : Instr}
    {f : State → State}
    {s : State} (h : ∀ t, R t (f t)) : Leads R s (onRunner op stack k i f s) := by
  unfold Machine.onRunner
  split
  · exact .fault
  · exact L.onNode (fun _ => L.ite (L.spares defer_spares) (h _))

theorem execRnAbort_spares {stack : BitVec 3} {k : RnCmd} {s : State} : Leads State.Spares s (execRnAbort stack k s) := by
  unfold execRnAbort
  extract_lets
  exact spared.onRunner (fun s₁ => by
    split
    · exact spared.ite updRunner_spares (issueOwed_spares.after (setSeq_spares.after (updRnStatus_spares.after updRunner_spares)))
    · exact updRunner_spares)

theorem endWrites_spares {stack : Nat} {pc : Nat} {tag : BitVec 8} {s : State} : s.Spares (endWrites stack pc tag s) := by
  unfold endWrites
  split
  · exact spared.ite (issueOwed_spares.after updRunner_spares) .refl
  · exact .refl

theorem execRnStatus_spares {stack : BitVec 3} {k : RnCmd} {s : State} : Leads State.Spares s (execRnStatus stack k s) :=
  spared.onRunner (fun _ => endWrites_spares.after emit_same.spares)

theorem execRefreshDue_spares {stack : BitVec 3} {pc : BitVec 5} {s : State} : Leads State.Spares s (execRefreshDue stack pc s) :=
  spared.onNode (fun _ => spared.ite issueOwed_spares (spared.ite (bumpAt_same.spares.after updStack_spares) bumpAt_same.spares))

/-! ## Machine/Query.lean -/

theorem findSpans_spares {snap : Option Snapshot} {v : VId} {h : Handle} {spans : List Nat} {s : State} :
    s.Spares (findSpans snap v h spans s).2 := by
  induction spans generalizing s with
  | nil => exact .refl
  | cons x r ih =>
    unfold findSpans
    extract_lets
    split
    · split
      · exact findSpanFor_spares
      · exact ih.after findSpanFor_spares
    · exact findSpanFor_spares

/-! ## Machine/Port.lean -/

theorem updPort_spares {p : BitVec 5} {f : Port → Port} {s : State} : s.Spares (updPort p f s) := .only rfl

theorem execPortLinkUp_spares {port : BitVec 5} {s : State} : Leads State.Spares s (execPortLinkUp port s) :=
  spared.onNode (fun _ => spared.ite (updPort_spares.after (.only rfl)) .refl)

theorem execPortLinkDown_spares {port : BitVec 5} {s : State} : Leads State.Spares s (execPortLinkDown port s) :=
  spared.onNode (fun _ => spared.ite updPort_spares .refl)

theorem execHelloSend_spares {port : BitVec 5} {s : State} : Leads State.Spares s (execHelloSend port s) :=
  spared.onNode (fun _ => spared.ite (emit_same.spares.after updPort_spares) .refl)

theorem execHello_spares {port : BitVec 5} {p : HelloPayload} {s : State} : Leads State.Spares s (execHello port p s) :=
  spared.onNode (fun s₁ => by
    extract_lets _ _ _ s₃
    have hs₃ : s₁.Spares s₃ := updVn_spares.after updPort_spares
    exact spared.ite .refl (spared.ite hs₃ (logFrom_same.spares.after hs₃)))

theorem execNeighbourExpiry_spares {port : BitVec 5} {s : State} : Leads State.Spares s (execNeighbourExpiry port s) :=
  spared.onNode (fun _ => spared.ite (logFrom_same.spares.after updVn_spares) .refl)

theorem Loose.takeMacsec {R : State → State → Prop} (L : Loose R) {v : VId} {twin : Bool} {sender : NodeId} {an : BitVec 2} {low : Nat}
    {icvOk : Bool} {k : State → State} {s : State} (h : ∀ t, R t (k t)) : R s (takeMacsec v twin sender an low icvOk k s) := by
  unfold Machine.takeMacsec
  split
  · exact L.same bumpV_same
  · exact L.ite (L.same bumpV_same) (L.ite (L.same bumpV_same) (L.trans (L.same updAssoc_same) (h _)))

theorem forwardFrame_spares {v : VId} {dst : NodeId} {udpSrc : BitVec 16} {frame : List Byte} {s : State} :
    s.Spares (forwardFrame v dst udpSrc frame s) := by
  unfold forwardFrame
  extract_lets
  split
  · exact bumpV_same.spares
  · split
    · exact emit_same.spares.after bumpV_same.spares
    · exact bumpV_same.spares

theorem takeFrame_spares {v : VId} {port : BitVec 5} {f : RxFrame} {s : State} : s.Spares (takeFrame v port f s) := by
  unfold takeFrame
  extract_lets
  split
  · exact .refl
  · exact .refl
  · exact spared.ite .refl bumpV_same.spares
  · exact bumpV_same.spares
  · split
    · exact bumpV_same.spares
    · split
      · exact spared.takeMacsec (fun _ => spared.ite .refl bumpV_same.spares)
      · exact spared.ite forwardFrame_spares bumpV_same.spares

theorem execFrameReceive_spares {v : VId} {port : BitVec 5} {f : RxFrame} {fecCorrected : Nat} {fecUncorrected : Nat} {s : State} :
    Leads State.Spares s (execFrameReceive v port f fecCorrected fecUncorrected s) :=
  spared.onNode (fun _ => spared.ite .refl (takeFrame_spares.after (bumpAt_same.spares.after bumpAt_same.spares)))

/-! ## Machine/Keys.lean -/

theorem installKey_spares {slot : Nat} {s : State} : s.Spares (installKey slot s) := .only rfl

theorem dropKey_spares {slot : Nat} {s : State} : s.Spares (dropKey slot s) := .only rfl

theorem agreeFail_spares {v : VId} {n : NodeId} {twin : Bool} {step : Nat} {s : State} : s.Spares (agreeFail v n twin step s) :=
  logFrom_same.spares.after (.only rfl)

theorem sendAgree_spares {v : VId} {n : NodeId} {twin : Bool} {an : BitVec 2} {step : Nat} {body : List Byte} {s : State} :
    s.Spares (sendAgree v n twin an step body s) :=
  (spared.foldl (fun _ _ => onPort_same.spares))

theorem sendConfirm_spares {v : VId} {n : NodeId} {twin : Bool} {s : State} : s.Spares (sendConfirm v n twin s) := by
  unfold sendConfirm
  extract_lets
  split
  · exact .refl
  · exact updAssoc_same.spares.after onPort_same.spares

theorem startAgreement_spares {v : VId} {n : NodeId} {twin : Bool} {s : State} : s.Spares (startAgreement v n twin s) :=
  spared.ite .refl (sendAgree_spares.after (.only rfl))

theorem agreeWith_spares {v : VId} {n : NodeId} {s : State} : s.Spares (agreeWith v n s) := by
  unfold agreeWith
  extract_lets _ _ s₁
  have hs₁ : s.Spares s₁ := spared.ite .refl (spared.ite .refl startAgreement_spares)
  exact spared.ite (spared.ite hs₁ (startAgreement_spares.after hs₁)) hs₁

theorem agreeWithAll_spares {v : VId} {s : State} : s.Spares (agreeWithAll v s) := (spared.foldl (fun _ _ => agreeWith_spares))

theorem installRx_spares {v : VId} {n : NodeId} {twin : Bool} {a : Agreement} {keys : List Byte} {s : State} :
    s.Spares (installRx v n twin a keys s) :=
  installKey_spares.after (.only rfl)

theorem judgePeer_spares {v : VId} {n : NodeId} {twin : Bool} {step : Nat} {c : Credential} {covered : List Byte} {s t : State}
    (h : judgePeer v n twin step c covered s = some t) : s.Spares t := by
  simp only [judgePeer] at h
  split at h
  · cases h; exact agreeFail_spares
  · split at h
    · cases h; exact agreeFail_spares.after bump_same.spares
    · cases h

theorem execKeyAgree1_spares {v : VId} {peer : NodeId} {twinLink : Bool} {an : BitVec 2} {ek : List Byte} {nonce : List Byte}
    {cred : Credential} {s : State} : Leads State.Spares s (execKeyAgree1 v peer twinLink an ek nonce cred s) := by
  unfold execKeyAgree1
  extract_lets
  exact spared.onNode (fun s₁ => by
    extract_lets _ _ _ _ _ _ s₂
    have hs₂ : s₁.Spares s₂ := .only rfl
    split
    · exact .refl
    · split
      · exact spared.ite .refl (sendConfirm_spares.after sendAgree_spares)
      · exact .refl
      · split
        · next s₄ e =>
            exact judgePeer_spares e
        · exact sendConfirm_spares.after (installRx_spares.after (sendAgree_spares.after hs₂)))

theorem execKeyAgree2_spares {v : VId} {peer : NodeId} {twinLink : Bool} {ct : List Byte} {nonce : List Byte} {cred : Credential}
    {s : State} : Leads State.Spares s (execKeyAgree2 v peer twinLink ct nonce cred s) :=
  spared.onNode (fun s₁ => by
    extract_lets
    split
    · exact .refl
    · extract_lets _ s₂
      have hs₂ : s₁.Spares s₂ := .only rfl
      split
      · exact .refl
      · split
        · next s₃ e =>
            exact judgePeer_spares e
        · exact sendConfirm_spares.after (installRx_spares.after hs₂))

theorem stopPorts_spares {ps : List (BitVec 5)} {stop : Bool} {s : State} : s.Spares (stopPorts ps stop s) :=
  (spared.foldl (fun _ _ => updPort_spares))

theorem pumpPeer_spares {v : VId} {n : NodeId} {s : State} : s.Spares (pumpPeer v n s) :=
  (spared.foldl (fun _ _ => spared.ite pumpAll_same.spares .refl))

theorem execKeyAgree3_spares {v : VId} {peer : NodeId} {twinLink : Bool} {an : BitVec 2} {tagOk : Bool} {s : State} :
    Leads State.Spares s (execKeyAgree3 v peer twinLink an tagOk s) :=
  spared.onNode (fun s₁ => by
    extract_lets _ s₂
    have hs₂ : s₁.Spares s₂ := .only rfl
    split
    · exact .refl
    · exact spared.ite .refl (spared.ite agreeFail_spares (pumpPeer_spares.after (bumpV_same.spares.after (stopPorts_spares.after
      (updAssoc_same.spares.after hs₂))))))

theorem execKeyAgreeResend_spares {v : VId} {peer : NodeId} {twinLink : Bool} {s : State} :
    Leads State.Spares s (execKeyAgreeResend v peer twinLink s) :=
  spared.onNode (fun s₁ => by
    extract_lets
    split
    · exact .refl
    · extract_lets s₂
      have hs₂ : s₁.Spares s₂ := .only rfl
      split
      · exact agreeFail_spares
      · split
        · exact sendAgree_spares.after hs₂
        · exact spared.ite (sendConfirm_spares.after hs₂) (sendConfirm_spares.after (sendAgree_spares.after hs₂)))

theorem execRxSaRetire_spares {v : VId} {peer : NodeId} {twinLink : Bool} {s : State} :
    Leads State.Spares s (execRxSaRetire v peer twinLink s) :=
  spared.onNode (fun _ => updAssoc_same.spares)

theorem execRekeyDue_spares {v : VId} {peer : NodeId} {twinLink : Bool} {s : State} :
    Leads State.Spares s (execRekeyDue v peer twinLink s) :=
  spared.onNode (fun s₁ => by
    extract_lets
    split
    · exact .refl
    · exact spared.ite .refl (startAgreement_spares.after (logFrom_same.spares.after updAssoc_same.spares)))

theorem execPnExhausted_spares {v : VId} {peer : NodeId} {twinLink : Bool} {s : State} :
    Leads State.Spares s (execPnExhausted v peer twinLink s) :=
  spared.onNode (fun s₁ => by
    split
    · exact .refl
    · exact spared.ite .refl (stopPorts_spares.after updAssoc_same.spares))

theorem dropAssoc_spares {k : VId × NodeId × Bool} {s : State} : s.Spares (dropAssoc k s) :=
  spared.ite (dropKey_spares.after (.only rfl)) .refl

/-! ## Machine/HostIf.lean -/

theorem updMb_spares {m : BitVec 4} {f : Mailbox → Mailbox} {s : State} : s.Spares (updMb m f s) := .only rfl

theorem wakeCore_spares {i : Nat} {s : State} : s.Spares (wakeCore i s) := .only rfl

theorem notify_spares {m : BitVec 4} {kind : Nat} {s : State} : s.Spares (notify m kind s) :=
  emit_same.spares.after (spared.ite wakeCore_spares .refl)

theorem postMail_spares {m : BitVec 4} {w : BitVec 64} {s : State} : s.Spares (postMail m w s) := by
  unfold postMail
  extract_lets
  split
  · exact bump_same.spares.after updMb_spares
  · exact spared.ite (notify_spares.after updMb_spares) (spared.ite (raise_same.spares.after updMb_spares) updMb_spares)

theorem takeMail_spares {m : BitVec 4} {s : State} : s.Spares (takeMail m s) := by
  unfold takeMail
  extract_lets
  split
  · exact .refl
  · exact spared.ite (spared.ite (raise_same.spares.after updMb_spares) updMb_spares) (notify_spares.after updMb_spares)

theorem resetMail_spares {m : BitVec 4} {s : State} : s.Spares (resetMail m s) := by
  unfold resetMail
  extract_lets _ _ s₂ s₃
  have hs₂ : s.Spares s₂ := bump_same.spares.after updMb_spares
  have hs₃ : s.Spares s₃ := notify_spares.after hs₂
  split
  · split
    · exact spared.ite (raise_same.spares.after hs₂) hs₂
    · exact spared.ite (raise_same.spares.after hs₃) hs₃
  · exact updMb_spares

theorem execMbData_spares {m : BitVec 4} {w : BitVec 64} {s : State} : Leads State.Spares s (execMbData m w s) :=
  spared.onNode (fun _ => spared.ite postMail_spares .refl)

theorem execMbTake_spares {m : BitVec 4} {s : State} : Leads State.Spares s (execMbTake m s) :=
  spared.onNode (fun _ => spared.ite emit_same.spares (takeMail_spares.after emit_same.spares))

theorem execMbReset_spares {m : BitVec 4} {s : State} : Leads State.Spares s (execMbReset m s) :=
  spared.onNode (fun _ => spared.ite .refl resetMail_spares)

theorem flrMail_spares {m : Nat} {s : State} : s.Spares (flrMail s m) := by
  unfold flrMail
  extract_lets _ _ _ _ s₂
  have hs₂ : s.Spares s₂ := spared.ite (bump_same.spares.after updMb_spares) updMb_spares
  exact spared.ite (notify_spares.after hs₂) hs₂

theorem flrState_spares {s : State} : s.Spares (flrState s) := by
  unfold flrState
  extract_lets s₁ _ s₂
  have hs₁ : s.Spares s₁ := spared.foldl (fun _ _ => flrMail_spares)
  clear_value s₁
  have hs₂ : s.Spares s₂ := hs₁.trans (.only rfl)
  exact hs₂.trans (.only rfl)

theorem execFlr_spares {s : State} : Leads State.Spares s (execFlr s) := spared.onNode (fun _ => flrState_spares)

theorem execAdminEnable_spares {value : BitVec 64} {s : State} : Leads State.Spares s (execAdminEnable value s) :=
  spared.onNode (fun u => by
    split
    · exact .refl
    · extract_lets one
      have hone : ∀ (ring : BitVec 1) (t : State), t.Spares (one ring t) := fun ring t => by
        simp only [one]
        split
        · exact spared.ite createRing_same.spares .refl
        · exact .refl
      exact (hone 0 _).after (hone 1 u))

theorem dmaError_spares {ring : BitVec 9} {tag : BitVec 32} {addr : BitVec 64} {s : State} : s.Spares (dmaError ring tag addr s) :=
  setDevError_same.spares.after (logFrom_same.spares.after bump_same.spares)

theorem fetchPackets_spares {ring : BitVec 9} {ps : List Fetched} {s : State} : s.Spares (fetchPackets ring ps s) := by
  induction ps generalizing ring s with
  | nil => exact .refl
  | cons x r ih =>
        unfold fetchPackets
        exact spared.ite ringError_spares (spared.ite .refl (ih.after updRing_same.spares))

theorem execRingDoorbell_spares {ring : BitVec 9} {value : BitVec 32} {f : SlotFetch} {s : State} :
    Leads State.Spares s (execRingDoorbell ring value f s) :=
  spared.onNode (fun s₁ => by
    extract_lets _ _ s₃
    have hs₃ : s₁.Spares s₃ := updRing_same.spares.after notify_spares
    split
    · exact bump_same.spares
    · split
      · exact notify_spares
      · split
        · exact spared.ite (ringError_spares.after notify_spares) notify_spares
        · split
          · exact updRing_same.spares.after hs₃
          · split
            · exact hs₃
            · exact spared.ite (ringError_spares.after (dmaError_spares.after hs₃)) (emit_same.spares.after
              (fetchPackets_spares.after hs₃)))

theorem popFetched_spares {ring : BitVec 9} {s : State} : s.Spares (popFetched ring s) := updRing_same.spares

theorem admitFetched_spares {ring : BitVec 9} {c : Cmd} {fetchFails : Option (BitVec 64)} {s : State} :
    s.Spares (admitFetched ring c fetchFails s) := by
  unfold admitFetched
  extract_lets
  split
  · exact settle_same.spares.after (refuseNew_same.spares.after (dmaError_spares.after popFetched_spares))
  · exact takeIn_same.spares.after popFetched_spares

theorem execCommandAdmit_spares {ring : BitVec 9} {paramFetchFails : Option (BitVec 64)} {s : State} :
    Leads State.Spares s (execCommandAdmit ring paramFetchFails s) :=
  spared.onNode (fun s₁ => by
    extract_lets
    split
    · exact .refl
    · extract_lets
      split
      · exact .refl
      · split
        · exact admitFetched_spares
        · split
          · exact settle_same.spares.after (refuseNew_same.spares.after popFetched_spares)
          · split
            · exact settle_same.spares.after (refuseNew_same.spares.after (countRefusal_same.spares.after (popFetched_spares.after
              (spared.ite noteHostDenied_same.spares .refl))))
            · split
              · exact admitFetched_spares.after (spared.ite passWait_same.spares .refl)
              · split
                · exact settle_same.spares.after (refuseNew_same.spares.after (bump_same.spares.after popFetched_spares))
                · exact addWaiter_same.spares.after updRing_same.spares)

theorem execCommand_spares {m : Msg} {p : Fetched} {s : State} : Leads State.Spares s (execCommand m p s) := by
  unfold execCommand
  extract_lets
  exact spared.onMsg (fun s₁ => by
    extract_lets _ _ s'
    have hs' : s₁.Spares s' := .only rfl
    split
    · exact rejectMsg_same.spares
    · split
      · split
        · exact settle_same.spares.after (refuseNew_same.spares.after bumpV_same.spares)
        · exact settle_same.spares.after refuseNew_same.spares
      · exact spared.ite (settle_same.spares.after (admitHeld_same.spares.after hs')) hs')

theorem execCoalesceExpiry_spares {ring : BitVec 9} {s : State} : Leads State.Spares s (execCoalesceExpiry ring s) :=
  spared.onNode (fun _ => spared.ite (raise_same.spares.after updRing_same.spares) .refl)

theorem execPeekTag_spares {ring : BitVec 9} {tag : BitVec 32} {s : State} : Leads State.Spares s (execPeekTag ring tag s) :=
  spared.onNode (fun _ => spared.ite .refl (emit_same.spares.after updRing_same.spares))

theorem writeMbStatus_spares {m : BitVec 4} {value : BitVec 64} {s : State} : s.Spares (writeMbStatus m value s) := updMb_spares

theorem setMsix_spares {v : Nat} {on : Bool} {s : State} : s.Spares (setMsix v on s) := by
  unfold setMsix
  extract_lets _ s₁
  have hs₁ : s.Spares s₁ := .only rfl
  exact spared.ite (spared.ite (emit_same.spares.after (hs₁.trans (.only rfl))) hs₁) (.only rfl)

theorem execRegisterWrite_spares {r : Reg} {value : BitVec 64} {s : State} : Leads State.Spares s (execRegisterWrite r value s) := by
  unfold execRegisterWrite
  extract_lets
  split
  · exact .next (spared.ite (.only rfl) .refl)
  · exact spared.onNode (fun _ => .only rfl)
  · exact spared.onNode (fun _ => .only rfl)
  · exact spared.onNode (fun _ => .only rfl)
  · exact spared.onNode (fun _ => writeMbStatus_spares)
  · exact spared.onNode (fun _ => setMsix_spares)
  · exact spared.onNode (fun _ => .only rfl)
  · exact .next .refl
  · exact .next .refl

theorem execOrderFenceTimeout_spares {job : Nat} {s : State} : Leads State.Spares s (execOrderFenceTimeout job s) :=
  spared.onNode (fun s₁ => by
    split
    · exact spared.ite (complete_same.spares.after endJob_same.spares) .refl
    · exact .refl)

/-! ## Machine/Merge.lean -/

theorem execAttnMerge_spares {c : Cmd} {payload : List Byte} {s : State} : Leads State.Spares s (execAttnMerge c payload s) :=
  spared.runVerb (fun s₁ => by
    extract_lets
    split
    · exact .refl
    · split
      · exact .refl
      · exact spared.now (bumpBy_spares.after (bump_same.spares.after (bumpBy_spares.after (.only rfl)))))

theorem execFanoutTimeout_spares {fanout : Nat} {sub : Nat} {s : State} : Leads State.Spares s (execFanoutTimeout fanout sub s) :=
  spared.onNode (fun s₁ => by
    extract_lets s₂
    have hs₂ : s₁.Spares s₂ := .only rfl
    split
    · exact .refl
    · split
      · exact .refl
      · split
        · exact fanFinish_spares.after (setSub_spares.after hs₂)
        · exact .refl)

/-! ## Machine/Check.lean -/

theorem dropLeft_spares {s : State} : s.Spares (dropLeft s) := .only rfl

theorem startVerify_spares {s : State} : s.Spares (startVerify s) := by
  unfold startVerify
  extract_lets s₁
  have hs₁ : s.Spares s₁ := dropLeft_spares
  exact spared.ite (hs₁.trans (.only rfl)) hs₁

theorem execSpanCoverage_spares {c : Cmd} {t : Target} {s : State} : Leads State.Spares s (execSpanCoverage c t s) := by
  unfold execSpanCoverage
  extract_lets
  exact spared.runVerb (fun _ => spared.withParams (fun s₂ => by
    extract_lets
    split
    · exact spared.now bumpV_same.spares
    · split
      · exact holdForBank_spares.after findSpan_spares
      · exact spared.now findSpan_spares
      · split
        · exact spared.now findSpan_spares
        · extract_lets
          split
          · exact spared.now findSpan_spares
          · split
            · exact spared.now findSpan_spares
            · split
              · exact spared.now findSpan_spares
              · split
                · exact spared.now findSpan_spares
                · split
                  · exact spared.now findSpan_spares
                  · exact spared.now findSpan_spares))

/-! ## Machine/Scrub.lean -/

theorem updPass_spares {n : Nat} {f : ScrubPass → ScrubPass} {s : State} : s.Spares (updPass n f s) := .only rfl

theorem startPass_spares {n : Nat} {s : State} : s.Spares (startPass n s) := updPass_spares

theorem endScrubJobs_spares {n : Nat} {js : List (Nat × Job)} {s : State} : s.Spares (endScrubJobs n js s) := by
  induction js generalizing s with
  | nil => exact .refl
  | cons p r ih =>
    unfold endScrubJobs
    split
    · exact .refl
    · next heq =>
      obtain ⟨-, rfl⟩ := List.cons.inj heq
      exact ih.after (spared.ite (complete_same.spares.after endJob_same.spares) setJob_spares)
    · next heq =>
      obtain ⟨-, rfl⟩ := List.cons.inj heq
      exact ih

theorem execScrubPassDone_spares {stack : BitVec 3} {s : State} : Leads State.Spares s (execScrubPassDone stack s) := by
  unfold execScrubPassDone
  extract_lets
  exact spared.onNode (fun s₁ => by
    extract_lets _ _ _ s₄
    have hs₄ : s₁.Spares s₄ := endScrubJobs_spares.after (updPass_spares.after logFrom_same.spares)
    exact spared.ite .refl (spared.ite (startVerify_spares.after (startPass_spares.after hs₄)) hs₄))

theorem execScrubIntervalEnd_spares {s : State} : Leads State.Spares s (execScrubIntervalEnd s) :=
  spared.onNode (fun u => by
    extract_lets s₁ s₂
    have hs₁ : u.Spares s₁ :=
      spared.foldl (fun _ _ => spared.ite (logFrom_same.spares.after updPass_spares) startPass_spares)
    clear_value s₁
    have hs₂ : u.Spares s₂ := dropLeft_spares.after hs₁
    exact spared.ite (startVerify_spares.after hs₂) (logFrom_same.spares.after (hs₂.trans (.only rfl))))

theorem execScrubPass_spares {c : Cmd} {s : State} : Leads State.Spares s (execScrubPass c s) :=
  spared.runVerb (fun _ => spared.withParams (fun s₂ => by
    extract_lets
    split
    · exact spared.later (addJob_same.spares.after (startVerify_spares.after (spared.foldl (fun _ _ => startPass_spares))))
    · exact spared.later addJob_same.spares))

/-! ## Machine/Tier.lean -/

theorem noteHeld_spares {s : State} : s.Spares (noteHeld s) := bump_same.spares.after (.only rfl)

theorem targetRecords_spares {v : VId} {t : Target} {s : State} : s.Spares (targetRecords v t s).2 := findSpans_spares

theorem Loose.onPages {R : State → State → Prop} (L : Loose R) {c : Cmd} {t : Target} {i : Instr}
    {f : List (PageRef × Page) → State → Done} {s : State} (h : ∀ ps t, R t (f ps t).state) : R s (onPages c t i f s).state := by
  have found : s.Spares (targetRecords (vnodeOf s c) t s).2 := targetRecords_spares
  unfold Machine.onPages
  extract_lets
  split
  · exact L.spares found
  · exact L.spares (holdForBank_spares.after found)
  · split
    · exact L.spares found
    · exact L.trans (L.spares found) (h _ _)

theorem execTierStatus_spares {c : Cmd} {t : Target} {s : State} : Leads State.Spares s (execTierStatus c t s) :=
  spared.runVerb (fun _ => spared.withParams (fun s₂ => by
    extract_lets
    split
    · exact .refl
    · exact spared.onPages (fun _ _ => .refl)))

theorem logHoldup_spares {k : Nat × Nat} {t : FlashTarget} {s : State} : s.Spares (logHoldup k t s) := logFrom_same.spares

theorem execFlashProbe_spares {channel : BitVec 4} {target : BitVec 3} {p : ParamPage} {s : State} :
    Leads State.Spares s (execFlashProbe channel target p s) := by
  unfold execFlashProbe
  extract_lets
  exact spared.onNode (fun s₁ => by
    extract_lets _ s₂
    have hs₂ : s₁.Spares s₂ := .only rfl
    split
    · exact .refl
    · exact spared.ite (logFrom_same.spares.after hs₂) (spared.ite (logHoldup_spares.after hs₂) hs₂))

theorem Loose.flashOp {R : State → State → Prop} (L : Loose R) {i : Instr} {f : State → State} {s : State} (h : ∀ t, R t (f t)) :
    R s (flashOp i f s) := L.ite (L.spares (noteHeld_spares.after defer_spares)) (h s)

theorem execFlashRelocate_spares {b : BlockRef} {soft : Bool} {old : Bool} {s : State} :
    Leads State.Spares s (execFlashRelocate b soft old s) :=
  spared.onNode (fun _ => spared.ite (spared.flashOp (fun _ => bump_same.spares.after emptyBlock_spares)) .refl)

theorem execFtlReclaim_spares {b : BlockRef} {s : State} : Leads State.Spares s (execFtlReclaim b s) :=
  spared.onNode (fun _ => spared.ite (spared.flashOp (fun _ => emptyBlock_spares)) .refl)

theorem execWearLevel_spares {b : BlockRef} {s : State} : Leads State.Spares s (execWearLevel b s) :=
  spared.onNode (fun _ => spared.ite (spared.flashOp (fun _ => emptyBlock_spares)) .refl)

theorem execFlashEraseBackground_spares {b : BlockRef} {s : State} : Leads State.Spares s (execFlashEraseBackground b s) :=
  spared.onNode (fun _ => spared.ite (spared.flashOp (fun _ => writeMeta_spares.after updBlock_spares)) .refl)

/-! ## Machine/Power.lean -/

theorem driveWp_spares {high : Bool} {s : State} : s.Spares (driveWp high s) := spared.ite .refl (emit_same.spares.after (.only rfl))

theorem execFlashWpAssert_spares {s : State} : Leads State.Spares s (execFlashWpAssert s) := .next (spared.ite .refl driveWp_spares)

/-- A measurement below MEAS_6 is extended by 32 bytes, which keeps the registers in form (R542). -/
theorem extendMeas_spares {i : Nat} {d : List Byte} {s : State} (hi : i < 6) : s.Spares (extendMeas i d s) :=
  ⟨⟨rfl, fun ⟨hmem, hlog, hctr, hmeas⟩ => ⟨hmem, hlog, hctr, measOk_set hi (sha256_length _) hmeas⟩⟩, rfl, rfl, rfl, rfl, rfl⟩

theorem deriveIdentity_spares {puf : List Byte} {s : State} : s.Spares (deriveIdentity puf s) := by
  unfold deriveIdentity
  extract_lets
  split
  · exact installKey_spares.after (.only rfl)
  · exact setAlert_spares.after logFrom_same.spares

theorem interimKeys_spares {s : State} : s.Spares (interimKeys s) := .only rfl

theorem bootSessionKeys_spares {s : State} : s.Spares (bootSessionKeys s) := .only rfl

theorem releaseReset_spares {mgmtMode : BitVec 2} {testMode : Bool} {s : State} : s.Spares (releaseReset mgmtMode testMode s) := by
  unfold releaseReset
  extract_lets _ t _ t₁
  have ht : s.Spares t := .only rfl
  have ht₁ : s.Spares t₁ := ht.trans (.only rfl)
  exact spared.ite (emit_same.spares.after ht₁) ht₁

theorem execPowerUp_spares {mgmtMode : BitVec 2} {testMode : Bool} {puf : List Byte} {s : State} :
    Leads State.Spares s (execPowerUp mgmtMode testMode puf s) := by
  unfold execPowerUp
  extract_lets
  refine .next ?_
  split
  · exact .refl
  · split
    · exact releaseReset_spares
    · exact deriveIdentity_spares.after (interimKeys_spares.after (bootSessionKeys_spares.after (logFrom_same.spares.after
      ((extendMeas_spares (by decide)).after releaseReset_spares))))

theorem execRefclk156Loss_spares {s : State} : Leads State.Spares s (execRefclk156Loss s) := spared.onNode (fun _ => .only rfl)

theorem resetHost_spares {s : State} : s.Spares (resetHost s) := spared.ite flrState_spares .refl

theorem execPerstN_spares {high : Bool} {s : State} : Leads State.Spares s (execPerstN high s) :=
  .next (spared.ite (.only rfl) (resetHost_spares.after (.only rfl)))

theorem execPcieRefclkLoss_spares {s : State} : Leads State.Spares s (execPcieRefclkLoss s) :=
  .next (resetHost_spares.after (.only rfl))

theorem execPcieRefclkReturn_spares {s : State} : Leads State.Spares s (execPcieRefclkReturn s) := .next (.only rfl)

theorem execPowerGate_spares {engines : Bool} {i : BitVec 4} {s : State} : Leads State.Spares s (execPowerGate engines i s) :=
  spared.onNode (fun _ => spared.ite (spared.ite (.only rfl) .refl) (spared.ite .refl (.only rfl)))

theorem updRail_spares {r : Nat} {f : Rail → Rail} {s : State} : s.Spares (updRail r f s) := .only rfl

theorem execBrakeEnter_spares {rail : BitVec 3} {mv : Nat} {s : State} : Leads State.Spares s (execBrakeEnter rail mv s) :=
  spared.onNode (fun s₁ => by
    extract_lets s₂
    have hs₂ : s₁.Spares s₂ := updRail_spares
    exact spared.ite hs₂ (bump_same.spares.after (logFrom_same.spares.after (setAlert_spares.after (hs₂.trans (.only rfl))))))

theorem setStackLimit_spares {w : Nat} {s : State} : s.Spares (setStackLimit w s) := .only rfl

theorem overCap_spares {p : Nat} {s : State} : s.Spares (overCap p s) := by
  unfold overCap
  extract_lets _ _ s₁ _ s₂
  have hs₁ : s.Spares s₁ := .only rfl
  have hs₂ : s.Spares s₂ := bump_same.spares.after hs₁
  split
  · exact bump_same.spares.after (hs₁.trans (.only rfl))
  · split
    · exact bump_same.spares.after (setStackLimit_spares.after hs₁)
    · exact spared.ite hs₂ (logFrom_same.spares.after (hs₂.trans (.only rfl)))

theorem underCap_spares {s : State} : s.Spares (underCap s) := by
  unfold underCap
  extract_lets _ s₁
  have hs₁ : s.Spares s₁ := .only rfl
  exact spared.ite (.only rfl) (spared.ite (setStackLimit_spares.after hs₁) (hs₁.trans (.only rfl)))

theorem judgeInterval_spares {p : Nat} {s : State} : s.Spares (judgeInterval p s) :=
  spared.ite overCap_spares (spared.ite underCap_spares (.only rfl))

theorem execPowerInterval_spares {p : Nat} {s : State} : Leads State.Spares s (execPowerInterval p s) :=
  spared.onNode (fun s₁ => by
    extract_lets _ s₂
    have hs₂ : s₁.Spares s₂ := judgeInterval_spares.after (.only rfl)
    exact hs₂.trans (.only rfl))

/-! ## Machine/Telemetry.lean -/

theorem noteMargin_spares {kind : Nat} {ix : Nat} {place : Nat} {value : Nat} {limit : Nat} {s : State} :
    s.Spares (noteMargin kind ix place value limit s) := by
  unfold noteMargin
  extract_lets
  split
  · exact spared.ite .refl (bump_same.spares.after (logFrom_same.spares.after (.only rfl)))
  · exact spared.ite (.only rfl) .refl

theorem execEyeScan_spares {lane : BitVec 5} {width : Nat} {height : Nat} {s : State} :
    Leads State.Spares s (execEyeScan lane width height s) :=
  spared.onNode (fun s₁ => by
    extract_lets _ s₂
    have hs₂ : s₁.Spares s₂ := .only rfl
    exact spared.ite .refl (noteMargin_spares.after (noteMargin_spares.after hs₂)))

theorem execHbmMarginScan_spares {stack : BitVec 3} {pc : BitVec 5} {setup : Nat} {hold : Nat} {s : State} :
    Leads State.Spares s (execHbmMarginScan stack pc setup hold s) := by
  unfold execHbmMarginScan
  extract_lets
  exact spared.onNode (fun s₁ => by
    extract_lets _ s₂
    have hs₂ : s₁.Spares s₂ := .only rfl
    exact noteMargin_spares.after (noteMargin_spares.after hs₂))

theorem execDroopWindow_spares {rail : BitVec 3} {lowestMv : Nat} {s : State} :
    Leads State.Spares s (execDroopWindow rail lowestMv s) :=
  spared.onNode (fun _ => updRail_spares)

theorem execOpticsPoll_spares {port : BitVec 5} {isPresent : Bool} {rx : List Nat} {tx : List Nat} {temp : Int} {rxLowWarning : Nat}
    {s : State} : Leads State.Spares s (execOpticsPoll port isPresent rx tx temp rxLowWarning s) := by
  unfold execOpticsPoll
  extract_lets
  exact spared.onNode (fun s₁ => by
    extract_lets _ s₂
    have hs₂ : s₁.Spares s₂ := .only rfl
    exact spared.ite .refl ((spared.foldl (fun _ _ => noteMargin_spares)).after hs₂))

theorem clearDroop_spares {s : State} : s.Spares (clearDroop s) := .only rfl

/-! ## Machine/Loader.lean -/

theorem bootAnswer_spares {m : Nat} {op : Nat} {res : Nat} {step : Nat} {arg : Nat} {s : State} :
    s.Spares (bootAnswer m op res step arg s) :=
  postMail_spares

theorem Loose.onBoot {R : State → State → Prop} (L : Loose R) {f : State → State} {s : State} (h : ∀ t, R t (f t)) :
    Leads R s (onBoot f s) := L.onNode (fun _ => L.trans (L.spares takeMail_spares) (h _))

theorem Loose.onWord {R : State → State → Prop} (L : Loose R) {op : Nat} {arg : State → Nat} {f : State → State} {s : State}
    (h : ∀ t, R t (f t)) : Leads R s (onWord op arg f s) := by
  unfold Machine.onWord
  split
  · exact L.onBoot (fun _ => L.spares bootAnswer_spares)
  · exact L.onBoot h

theorem setLoad_spares {fw : Nat} {l : Option Loader} {s : State} : s.Spares (setLoad fw l s) := .only rfl

theorem execBegin_spares {len : BitVec 32} {s : State} : Leads State.Spares s (execBegin len s) :=
  spared.onWord (fun _ => spared.ite bootAnswer_spares (spared.ite bootAnswer_spares (bootAnswer_spares.after setLoad_spares)))

theorem loadFails_spares {op : Nat} {step : Nat} {component : Nat} {s : State} : s.Spares (loadFails op step component s) :=
  bootAnswer_spares.after (setAlert_spares.after (logFrom_same.spares.after setLoad_spares))

theorem execChunk_spares {len : BitVec 21} {offset : BitVec 32} {manifest : Option Manifest} {s : State} :
    Leads State.Spares s (execChunk len offset manifest s) :=
  spared.onWord (fun s₁ => by
    split
    · exact bootAnswer_spares
    · split
      · exact bootAnswer_spares
      · extract_lets
        split
        · exact bootAnswer_spares
        · split
          · exact bootAnswer_spares
          · split
            · exact loadFails_spares
            · split
              · exact loadFails_spares
              · exact bootAnswer_spares.after setLoad_spares)

theorem execAbort_spares {s : State} : Leads State.Spares s (execAbort s) :=
  spared.onWord (fun _ => spared.ite (bootAnswer_spares.after setLoad_spares) bootAnswer_spares)

theorem execPing_spares {mailbox : BitVec 3} {value : BitVec 32} {s : State} : Leads State.Spares s (execPing mailbox value s) :=
  spared.onNode (fun _ => spared.ite .refl (bootAnswer_spares.after takeMail_spares))

theorem execLoaderIdleTimeout_spares {s : State} : Leads State.Spares s (execLoaderIdleTimeout s) :=
  spared.onNode (fun _ => spared.ite (bootAnswer_spares.after setLoad_spares) .refl)

theorem execFirmwareLoadWindow_spares {offset : BitVec 20} {bytes : List Byte} {s : State} :
    Leads State.Spares s (execFirmwareLoadWindow offset bytes s) :=
  spared.onNode (fun _ => spared.ite .refl (.only rfl))

/-! ## Machine/Codec.lean -/

theorem updSlot_spares {n : Nat} {f : CodecSlot → CodecSlot} {s : State} : s.Spares (updSlot n f s) := .only rfl

theorem putTable_spares {img : TableImage} {n : Nat} {g : BitVec 32} {s : State} : s.Spares (putTable img n g s) :=
  updSlot_spares.after (.only rfl)

theorem execCodecLoad_spares {c : Cmd} {img : TableImage} {s : State} : Leads State.Spares s (execCodecLoad c img s) := by
  unfold execCodecLoad
  extract_lets
  exact spared.runVerb (fun _ => spared.withParams (fun s₂ => by
    split
    · exact .refl
    · split
      · exact .refl
      · exact spared.now putTable_spares))

theorem execCodecSelect_spares {c : Cmd} {gen : BitVec 32} {slot : BitVec 3} {format : BitVec 4} {s : State} :
    Leads State.Spares s (execCodecSelect c gen slot format s) :=
  spared.runVerb (fun _ => spared.withParams (fun s₂ => by
    extract_lets _ _ s₃
    have hs₃ : s₂.Spares s₃ := .only rfl
    split
    · exact .refl
    · split
      · exact .refl
      · exact spared.now hs₃))

theorem execCodecRetire_spares {c : Cmd} {gen : BitVec 32} {slot : BitVec 3} {force : Bool} {s : State} :
    Leads State.Spares s (execCodecRetire c gen slot force s) := by
  unfold execCodecRetire
  extract_lets
  exact spared.runVerb (fun _ => spared.withParams (fun s₂ => by
    extract_lets _ s₃
    have hs₃ : s₂.Spares s₃ := updSlot_spares
    split
    · exact .refl
    · split
      · exact .refl
      · exact spared.now (settleSlots_spares.after (spared.ite (hs₃.trans (.only rfl)) (hs₃.trans (.only rfl))))))

theorem execCodecSample_spares {c : Cmd} {format : BitVec 4} {s : State} : Leads State.Spares s (execCodecSample c format s) := by
  unfold execCodecSample
  extract_lets
  exact spared.runVerb (fun _ => spared.withParams (fun s₂ => by
    extract_lets _ _ s'
    have hs' : s₂.Spares s' := .only rfl
    exact spared.now hs'))

/-! ## Machine/SyncUnit.lean -/

theorem failBarrier_spares {i : BitVec 14} {s : State} : s.Spares (failBarrier i s) :=
  logFrom_same.spares.after (bump_same.spares.after (endWaiters_same.spares.after updObj_same.spares))

theorem failBarriersOf_spares {q : BitVec 12} {s : State} : s.Spares (failBarriersOf q s) :=
  (spared.foldl (fun _ _ => failBarrier_spares))

/-! ## Machine/Qp.lean -/

theorem qpError_spares {q : BitVec 12} {cause : Nat} {s : State} : s.Spares (qpError q cause s) := by
  unfold qpError
  extract_lets
  split
  · exact .refl
  · exact spared.ite .refl (failBarriersOf_spares.after (logFrom_same.spares.after (bumpV_same.spares.after updQp_same.spares)))

theorem dropPeerQps_spares {v : VId} {n : NodeId} {s : State} : s.Spares (dropPeerQps v n s) :=
  (spared.foldl (fun _ _ => spared.ite qpError_spares .refl))

theorem execNodeQpCreate_spares {c : Cmd} {p : QpCreateBlk} {s : State} : Leads State.Spares s (execNodeQpCreate c p s) :=
  spared.runVerb (fun _ => spared.withParams (fun s₂ => by
    extract_lets
    split
    · extract_lets
      split
      · exact .refl
      · exact .refl
    · split
      · exact .refl
      · exact spared.now (.only rfl)))

theorem execNodeQpDestroy_spares {c : Cmd} {qpn : BitVec 12} {s : State} : Leads State.Spares s (execNodeQpDestroy c qpn s) :=
  spared.runVerb (fun _ => spared.withParams (fun s₂ => by
    extract_lets
    split
    · exact .refl
    · split
      · exact .refl
      · exact spared.now updQp_same.spares))

theorem execQpHoldExpiry_spares {qpn : BitVec 12} {s : State} : Leads State.Spares s (execQpHoldExpiry qpn s) :=
  spared.onNode (fun _ => spared.ite (.only rfl) .refl)

theorem execQpRetryExhausted_spares {qpn : BitVec 12} {s : State} : Leads State.Spares s (execQpRetryExhausted qpn s) :=
  spared.onNode (fun s₁ => by
    refine settle_same.spares.after ?_
    split
    · exact spared.ite qpError_spares .refl
    · exact .refl)

theorem sendAck_spares {q : BitVec 12} {syndrome : Nat} {rnrUs : Nat} {s : State} : s.Spares (sendAck q syndrome rnrUs s) := by
  unfold sendAck
  extract_lets
  split
  · exact .refl
  · exact sendPacketTo_same.spares.after updQp_same.spares

theorem ackInvalid_spares {b : Bth} {s : State} : s.Spares (ackInvalid b s) := sendPacketTo_same.spares.after takeFree_same.spares

theorem execAckTimer_spares {qpn : BitVec 12} {s : State} : Leads State.Spares s (execAckTimer qpn s) :=
  spared.onNode (fun s₁ => by
    split
    · exact spared.ite sendAck_spares .refl
    · exact .refl)

theorem placePkt_spares {v : VId} {p : DataPkt} {s : State} : s.Spares (placePkt v p s) := by
  unfold placePkt
  extract_lets
  split
  · exact .refl
  · extract_lets _ _ r _ s₁
    have hs₁ : s.Spares s₁ := updQp_same.spares
    clear_value s₁ r
    split
    · exact rejectMsg_same.spares.after hs₁
    · exact hs₁

theorem ackDup_spares {q : BitVec 12} {s : State} : s.Spares (ackDup q s) := by
  unfold ackDup
  split
  · exact .refl
  · exact spared.ite .refl (sendAck_spares.after updQp_same.spares)

theorem takeData_spares {v : VId} {x : Qp} {p : DataPkt} {s : State} : s.Spares (takeData v x p s) := by
  unfold takeData
  extract_lets _ _ s₁
  have hs₁ : s.Spares s₁ := bumpV_same.spares.after updQp_same.spares
  split
  · exact spared.ite (sendAck_spares.after hs₁) (ackDup_spares.after hs₁)
  · split
    · exact bumpV_same.spares
    · split
      · exact sendAck_spares.after (bumpV_same.spares.after takeEstimate_spares)
      · exact spared.ite (sendAck_spares.after placePkt_spares) placePkt_spares

theorem execData_spares {p : DataPkt} {s : State} : Leads State.Spares s (execData p s) := by
  unfold execData
  extract_lets
  exact spared.onNode (fun s₁ => by
    split
    · exact bumpV_same.spares
    · split
      · exact bumpV_same.spares
      · split
        · exact bumpV_same.spares
        · split
          · exact ackInvalid_spares
          · exact spared.ite ackInvalid_spares takeData_spares)

theorem resendWhere_spares {q : BitVec 12} {p : TxPkt → Bool} {mark : TxPkt → TxPkt} {s : State} :
    s.Spares (resendWhere q p mark s) := by
  unfold resendWhere
  extract_lets
  split
  · exact .refl
  · exact (spared.foldl (fun _ _ => sendData_same.spares.after bumpV_same.spares)).after updQp_same.spares

theorem cutRate_spares {q : BitVec 12} {s : State} : s.Spares (cutRate q s) := updQp_same.spares

theorem takeAck_spares {a : AckPkt} {s : State} : s.Spares (takeAck a s) := by
  unfold takeAck
  extract_lets
  split
  · exact .refl
  · exact pumpAll_same.spares.after (resendWhere_spares.after (spared.ite (cutRate_spares.after updQp_same.spares) updQp_same.spares))

theorem execAck_spares {p : AckPkt} {s : State} : Leads State.Spares s (execAck p s) :=
  spared.onNode (fun s₁ => by
    split
    · exact bumpV_same.spares
    · split
      · exact bumpV_same.spares
      · split
        · exact bumpV_same.spares
        · split
          · exact .refl
          · split
            · exact .refl
            · exact spared.ite .refl takeAck_spares)

theorem countExpiries_spares {q : BitVec 12} {s : State} : s.Spares (countExpiries q s) := by
  unfold countExpiries
  split
  · exact .refl
  · exact bumpAt_same.spares.after updQp_same.spares

theorem execRetxTimerExpiry_spares {qpn : BitVec 12} {s : State} : Leads State.Spares s (execRetxTimerExpiry qpn s) :=
  spared.onNode (fun s₁ => by
    extract_lets
    split
    · exact .refl
    · split
      · exact .refl
      · exact spared.ite (settle_same.spares.after qpError_spares) (resendWhere_spares.after
        (updQp_same.spares.after countExpiries_spares)))

theorem execRnrWaitExpiry_spares {qpn : BitVec 12} {s : State} : Leads State.Spares s (execRnrWaitExpiry qpn s) :=
  spared.onNode (fun s₁ => by
    split
    · exact spared.ite resendWhere_spares .refl
    · exact .refl)

theorem execEntropySuspendEnd_spares {qpn : BitVec 12} {entropy : BitVec 6} {s : State} :
    Leads State.Spares s (execEntropySuspendEnd qpn entropy s) :=
  spared.onNode (fun _ => updQp_same.spares)

theorem execRateIncrease_spares {qpn : BitVec 12} {s : State} : Leads State.Spares s (execRateIncrease qpn s) :=
  spared.onNode (fun s₁ => by
    split
    · exact spared.ite updQp_same.spares .refl
    · exact .refl)

theorem enterRace_spares {q : BitVec 12} {msn : BitVec 24} {h : MsgHead} {m : RxMsg} {s : State} : s.Spares (enterRace q msn h m s) :=
  spared.ite bump_same.spares (.only rfl)

theorem execHeadraceAdmit_spares {qpn : BitVec 12} {s : State} : Leads State.Spares s (execHeadraceAdmit qpn s) :=
  spared.onNode (fun s₁ => by
    split
    · exact .refl
    · extract_lets _ _ s₃
      have hs₃ : s₁.Spares s₃ := updQp_same.spares.after updQp_same.spares
      split
      · exact .refl
      · split
        · exact updQp_same.spares
        · exact spared.ite updQp_same.spares (enterRace_spares.after (hs₃.trans (.only rfl))))

/-! ## Machine/Net.lean -/

theorem execReadResp_spares {m : Msg} {payload : List Byte} {s : State} : Leads State.Spares s (execReadResp m payload s) :=
  spared.onMsg (fun s₁ => by
    split
    · exact rejectMsg_same.spares
    · split
      · exact .only rfl
      · exact bumpV_same.spares)

theorem learnFenced_spares {v : VId} {source : Nat} {s : State} : s.Spares (learnFenced v source s) :=
  spared.ite .refl (logFrom_same.spares.after updVn_spares)

theorem execDrainWindowEnd_spares {v : VId} {s : State} : Leads State.Spares s (execDrainWindowEnd v s) :=
  spared.onNode (fun _ => spared.ite .refl ((spared.foldl (fun _ _ => logFrom_same.spares)).after updVn_spares))

/-! ## Machine/Pair.lean -/

theorem updPair_spares {v : VId} {f : VNode → VNode} {s : State} : s.Spares (updPair v f s) :=
  spared.ite updVn_spares (logFrom_same.spares.after updVn_spares)

theorem sendProposed_spares {v : VId} {dest : NodeId} {epoch : BitVec 32} {body : PeerBody} {s : State} :
    s.Spares (sendProposed v dest epoch body s) := by
  unfold sendProposed
  extract_lets _ s₁
  have hs₁ : s.Spares s₁ := .only rfl
  exact spared.ite hs₁ (handPeer_spares.after hs₁)

theorem dropSent_spares {p : PeerSent → Bool} {s : State} : s.Spares (dropSent p s) := .only rfl

theorem execTwinPair_spares {c : Cmd} {p : PairBlk} {s : State} : Leads State.Spares s (execTwinPair c p s) :=
  spared.runVerb (fun _ => spared.withParams (fun s₂ => by
    extract_lets
    split
    · exact .refl
    · split
      · exact spared.now takeEstimate_spares
      · exact spared.later (spared.ite (sendProposed_spares.after updVn_spares) updVn_spares)))

theorem execTwinPairTimeout_spares {v : VId} {s : State} : Leads State.Spares s (execTwinPairTimeout v s) :=
  spared.onNode (fun s₁ => by
    split
    · exact .refl
    · exact complete_same.spares.after (dropSent_spares.after updVn_spares))

theorem sendHeartbeat_spares {v : VId} {twin : Bool} {p : HeartbeatPayload} {s : State} : s.Spares (sendHeartbeat v twin p s) :=
  sendPacketTo_same.spares

theorem execHeartbeatSend_spares {v : VId} {s : State} : Leads State.Spares s (execHeartbeatSend v s) :=
  spared.onNode (fun _ => spared.ite .refl (sendHeartbeat_spares.after (sendHeartbeat_spares.after updVn_spares)))

theorem execHeartbeat_spares {v : VId} {sender : NodeId} {twinLink : Bool} {p : HeartbeatPayload} {s : State} :
    Leads State.Spares s (execHeartbeat v sender twinLink p s) :=
  spared.onNode (fun s₁ => by
    extract_lets
    split
    · exact bumpV_same.spares
    · split
      · exact bumpV_same.spares
      · split
        · exact bumpV_same.spares
        · exact spared.ite .refl (spared.ite bump_same.spares (spared.ite (learnFenced_spares.after updPair_spares) updPair_spares)))

theorem execHeartbeatMiss_spares {v : VId} {twinLink : Bool} {s : State} : Leads State.Spares s (execHeartbeatMiss v twinLink s) :=
  spared.onNode (fun _ => updPair_spares)

theorem execNodeFence_spares {c : Cmd} {p : FenceBlk} {s : State} : Leads State.Spares s (execNodeFence c p s) :=
  spared.runVerb (fun _ => spared.withParams (fun s₂ => by
    extract_lets
    split
    · exact .refl
    · exact spared.now (spared.ite (learnFenced_spares.after updVn_spares) updVn_spares)))

theorem execNodeLostList_spares {c : Cmd} {fromSeq : BitVec 32} {maxEntries : BitVec 13} {s : State} :
    Leads State.Spares s (execNodeLostList c fromSeq maxEntries s) :=
  spared.runVerb (fun _ => spared.withParams (fun _ => spared.now updVn_spares))

/-! ## Machine/Code.lean -/

theorem execCodeStripeTimeout_spares {v : VId} {s : State} : Leads State.Spares s (execCodeStripeTimeout v s) :=
  spared.onNode (fun s₁ => by
    extract_lets
    split
    · exact spared.ite .refl (takeStripe_spares.after (sendPeer_spares.after sendPeer_spares))
    · exact .refl)

/-! ## Machine/Own.lean -/

theorem sendCommand_spares {v : VId} {dest : NodeId} {opcode : BitVec 16} {params : List Byte} {j : Job} {s : State} :
    s.Spares (sendCommand v dest opcode params j s) := by
  unfold sendCommand
  extract_lets _ s₁ _ s₂
  have hs₁ : s.Spares s₁ := addJob_same.spares
  have hs₂ : s.Spares s₂ := hs₁.trans (.only rfl)
  exact spared.ite hs₂ (sendTo_spares.after hs₂)

theorem updHandoff_spares {v : VId} {id : BitVec 32} {f : Handoff → Handoff} {s : State} : s.Spares (updHandoff v id f s) :=
  updVn_spares

theorem enterState_spares {v : VId} {id : BitVec 32} {st : HandoffState} {s : State} : s.Spares (enterState v id st s) :=
  updHandoff_spares

theorem offerOut_spares {v : VId} {p : OfferBlk} {cmd : Option Cmd} {left : List NodeId} {s : State} :
    s.Spares (offerOut v p cmd left s) :=
  sendCommand_spares.after updVn_spares

theorem offerIn_spares {v : VId} {source : NodeId} {p : OfferBlk} {s : State} : s.Spares (offerIn v source p s).state := by
  unfold offerIn
  split
  · exact .refl
  · split
    · exact .refl
    · split
      · exact .refl
      · exact spared.now updVn_spares

theorem execOwnOffer_spares {c : Cmd} {p : OfferBlk} {s : State} : Leads State.Spares s (execOwnOffer c p s) :=
  spared.runVerb (fun _ => spared.withParams (fun s₂ => by
    extract_lets
    split
    · split
      · exact offerIn_spares
      · split
        · exact .refl
        · exact spared.later offerOut_spares
    · split
      · exact .refl
      · exact spared.later offerOut_spares))

theorem tryAccept_spares {v : VId} {x : Handoff} {s : State} : s.Spares (tryAccept v x s) :=
  spared.ite (sendCommand_spares.after (spared.ite .refl updHandoff_spares)) .refl

theorem sendCommit_spares {v : VId} {x : Handoff} {s : State} : s.Spares (sendCommit v x s) := sendCommand_spares

theorem execOwnAccept_spares {c : Cmd} {handoffId : BitVec 32} {fills : List FillPoint} {s : State} :
    Leads State.Spares s (execOwnAccept c handoffId fills s) :=
  spared.runVerb (fun s₁ => by
    extract_lets
    split
    · exact .refl
    · exact .refl
    · split
      · exact .refl
      · split
        · exact .refl
        · split
          · split
            · exact spared.now (sendCommit_spares.after enterState_spares)
            · exact .refl
          · exact .refl
          · exact .refl)

theorem execOwnResend_spares {v : VId} {handoffId : BitVec 32} {s : State} : Leads State.Spares s (execOwnResend v handoffId s) :=
  spared.onNode (fun s₁ => by
    split
    · split
      · exact .refl
      · split
        · exact tryAccept_spares
        · exact sendCommit_spares
        · exact .refl
    · exact .refl)

theorem moveTo_spares {c : Cmd} {v : VId} {holder : NodeId} {h : Handle} {span : Nat} {dest : NodeId} {left : List NodeId} {s : State} :
    s.Spares (moveTo c v holder h span dest left s) := by
  unfold moveTo
  extract_lets _ s₁
  have hs₁ : s.Spares s₁ := .only rfl
  exact spared.ite (offerOut_spares.after hs₁) (sendCommand_spares.after hs₁)

theorem execSpanMove_spares {c : Cmd} {t : Target} {prefer : List NodeId} {s : State} :
    Leads State.Spares s (execSpanMove c t prefer s) :=
  spared.runVerb (fun _ => spared.withParams (fun s₂ => by
    extract_lets
    split
    · exact holdForBank_spares.after findHome_spares
    · exact spared.now findHome_spares
    · split
      · exact spared.now findHome_spares
      · split
        · exact spared.now findHome_spares
        · split
          · exact spared.now findHome_spares
          · split
            · exact spared.later (defer_spares.after findHome_spares)
            · split
              · exact spared.now findHome_spares
              · split
                · exact spared.now findHome_spares
                · exact spared.later (moveTo_spares.after findHome_spares)))

/-! ## Machine/Resume.lean -/

theorem execAsyncMirrorSend_spares {v : VId} {s : State} : Leads State.Spares s (execAsyncMirrorSend v s) :=
  spared.onNode (fun s₁ => by
    split
    · exact .refl
    · exact spared.ite (sendPeer_spares.after updVn_spares) .refl)

/-! ## Machine/Tenancy.lean -/

theorem setDebugLock_spares {open_ : Bool} {s : State} : s.Spares (setDebugLock open_ s) :=
  spared.ite .refl (logFrom_same.spares.after (.only rfl))

theorem setAnchors_spares {as_ : List AnchorEntry} {s : State} : s.Spares (setAnchors as_ s) := by
  unfold setAnchors
  extract_lets _ s₁
  have hs₁ : s.Spares s₁ := .only rfl
  exact (spared.foldl (fun _ _ => dropAssoc_spares)).after hs₁

/-! ## Machine/Mgmt.lean -/

theorem execSetdasa_spares {staticAddr : BitVec 7} {dynamicAddr : BitVec 7} {s : State} :
    Leads State.Spares s (execSetdasa staticAddr dynamicAddr s) :=
  .next (spared.ite (.only rfl) .refl)

theorem execOperatorAnchor_spares {offset : BitVec 5} {bytes : List Byte} {s : State} :
    Leads State.Spares s (execOperatorAnchor offset bytes s) :=
  .next (spared.ite (.only rfl) .refl)

theorem execAnchorLock_spares {value : BitVec 8} {s : State} : Leads State.Spares s (execAnchorLock value s) :=
  .next (spared.ite (.only rfl) .refl)

theorem endSession_spares {i : BitVec 2} {s : State} : s.Spares (endSession i s) :=
  spared.ite (emit_same.spares.after (dropKey_spares.after (.only rfl))) .refl

theorem refuseSession_spares {s : State} : s.Spares (refuseSession s) :=
  emit_same.spares.after (logFrom_same.spares.after bump_same.spares)

theorem openSession_spares {i : Nat} {role : Nat} {ek : List Byte} {nonce : List Byte} {cred : Credential} {s : State} :
    s.Spares (openSession i role ek nonce cred s) := by
  unfold openSession
  extract_lets _ _ _ _ _ _ _ s₁
  have hs₁ : s.Spares s₁ := .only rfl
  exact emit_same.spares.after (logFrom_same.spares.after (installKey_spares.after (bump_same.spares.after hs₁)))

theorem execSessionInit_spares {ek : List Byte} {nonce : List Byte} {cred : Credential} {s : State} :
    Leads State.Spares s (execSessionInit ek nonce cred s) :=
  spared.onNode (fun s₁ => by
    split
    · exact .refl
    · split
      · exact emit_same.spares
      · split
        · exact refuseSession_spares
        · split
          · exact refuseSession_spares
          · split
            · exact refuseSession_spares
            · exact openSession_spares)

theorem execSessionClose_spares {session : BitVec 2} {how : SessionEnd} {s : State} :
    Leads State.Spares s (execSessionClose session how s) :=
  spared.onNode (fun _ => endSession_spares)

theorem execSessionIdleTimeout_spares {session : BitVec 2} {s : State} : Leads State.Spares s (execSessionIdleTimeout session s) :=
  spared.onNode (fun _ => endSession_spares)

theorem countRecord_spares {i : BitVec 2} {sent : Bool} {s : State} : s.Spares (countRecord i sent s) := by
  unfold countRecord
  extract_lets
  split
  · exact .refl
  · extract_lets _ s₁
    have hs₁ : s.Spares s₁ := .only rfl
    exact spared.ite (endSession_spares.after hs₁) hs₁

theorem mgmtAnswer_spares {r : MgmtReq} {st : Status} {body : List Byte} {s : State} : s.Spares (mgmtAnswer r st body s) :=
  countRecord_spares.after emit_same.spares

theorem Loose.onMgmt {R : State → State → Prop} (L : Loose R) {r : MgmtReq} {roles : List Nat} {f : State → State} {s : State}
    (k : ∀ t, R t (f t)) : Leads R s (onMgmt r roles f s) := by
  refine L.onNode (fun t => ?_)
  split
  · exact L.refl
  · exact L.trans (L.spares countRecord_spares) (L.ite (k _) (L.spares mgmtAnswer_spares))

theorem execGetStatus_spares {r : MgmtReq} {s : State} : Leads State.Spares s (execGetStatus r s) :=
  spared.onMgmt (fun _ => mgmtAnswer_spares)

theorem execGetTelemetry_spares {r : MgmtReq} {clear : Bool} {rsv : Bool} {s : State} :
    Leads State.Spares s (execGetTelemetry r clear rsv s) :=
  spared.onMgmt (fun s₁ => by
    extract_lets _ s₂
    have hs₂ : s₁.Spares s₂ := .only rfl
    split
    · exact mgmtAnswer_spares
    · exact mgmtAnswer_spares.after (spared.ite (clearDroop_spares.after hs₂) hs₂))

theorem execGetAttestation_spares {r : MgmtReq} {nonce : List Byte} {s : State} : Leads State.Spares s (execGetAttestation r nonce s) :=
  spared.onMgmt (fun _ => spared.ite mgmtAnswer_spares (mgmtAnswer_spares.after bump_same.spares))

theorem execGetCerts_spares {r : MgmtReq} {s : State} : Leads State.Spares s (execGetCerts r s) :=
  spared.onMgmt (fun _ => mgmtAnswer_spares)

theorem execSetTime_spares {r : MgmtReq} {utc : BitVec 64} {s : State} : Leads State.Spares s (execSetTime r utc s) :=
  spared.onMgmt (fun _ => mgmtAnswer_spares.after (.only rfl))

theorem execSetFabricIdentity_spares {r : MgmtReq} {v : VId} {nodeId : NodeId} {pfx : BitVec 64} {forwarding : Bool} {s : State} :
    Leads State.Spares s (execSetFabricIdentity r v nodeId pfx forwarding s) :=
  spared.onMgmt (fun s₁ => by
    extract_lets
    split
    · exact mgmtAnswer_spares
    · exact spared.ite mgmtAnswer_spares (mgmtAnswer_spares.after (agreeWithAll_spares.after updVn_spares)))

theorem execSetPeerEntry_spares {r : MgmtReq} {v : VId} {peer : NodeId} {e : PeerEntry} {rsv : Bool} {s : State} :
    Leads State.Spares s (execSetPeerEntry r v peer e rsv s) :=
  spared.onMgmt (fun s₁ => by
    split
    · exact mgmtAnswer_spares
    · split
      · exact mgmtAnswer_spares.after (agreeWith_spares.after updVn_spares)
      · exact mgmtAnswer_spares.after (settle_same.spares.after (dropPeerQps_spares.after updVn_spares)))

theorem execReadNeighbours_spares {r : MgmtReq} {v : VId} {s : State} : Leads State.Spares s (execReadNeighbours r v s) :=
  spared.onMgmt (fun _ => spared.ite mgmtAnswer_spares mgmtAnswer_spares)

theorem execSetTenantAnchor_spares {r : MgmtReq} {digest : List Byte} {s : State} :
    Leads State.Spares s (execSetTenantAnchor r digest s) :=
  spared.onMgmt (fun _ => spared.ite mgmtAnswer_spares (spared.ite mgmtAnswer_spares (mgmtAnswer_spares.after (.only rfl))))

theorem execSetFabricAnchors_spares {r : MgmtReq} {anchors : List AnchorEntry} {s : State} :
    Leads State.Spares s (execSetFabricAnchors r anchors s) :=
  spared.onMgmt (fun _ => spared.ite mgmtAnswer_spares (spared.ite mgmtAnswer_spares (mgmtAnswer_spares.after setAnchors_spares)))

theorem execDebugLock_spares {r : MgmtReq} {open_ : Bool} {s : State} : Leads State.Spares s (execDebugLock r open_ s) :=
  spared.onMgmt (fun _ => spared.ite mgmtAnswer_spares (mgmtAnswer_spares.after setDebugLock_spares))

theorem execSpdmRequest_spares {firstBlock : BitVec 8} {lastBlock : BitVec 8} {nonce : List Byte} {s : State} :
    Leads State.Spares s (execSpdmRequest firstBlock lastBlock nonce s) :=
  spared.onNode (fun _ => spared.ite emit_same.spares emit_same.spares)

theorem execIdeKm_spares {stream : BitVec 4} {secure : Bool} {s : State} : Leads State.Spares s (execIdeKm stream secure s) :=
  spared.onNode (fun s₁ => by
    extract_lets s₂
    have hs₂ : s₁.Spares s₂ := installKey_spares
    exact spared.ite .refl (spared.ite (hs₂.trans (.only rfl)) hs₂))

theorem execIdeState_spares {stream : BitVec 4} {s : State} : Leads State.Spares s (execIdeState stream s) :=
  spared.onNode (fun _ => spared.ite .refl (spared.ite (logFrom_same.spares.after (.only rfl)) (.only rfl)))

/-! ## Machine/Cfg.lean -/

theorem noteConfig_spares {params : List Byte} {s : State} : s.Spares (noteConfig params s) :=
  (extendMeas_spares (by decide)).after (.only rfl)

theorem loadTables_spares {ts : List TableImage} {s : State} : s.Spares (loadTables ts s) :=
  (spared.foldl (fun s₁ _ => by
    extract_lets
    split
    · exact .refl
    · exact updSlot_spares.after putTable_spares))

theorem rejudgeTargets_spares {before : Knobs} {s : State} : s.Spares (rejudgeTargets before s) :=
  (spared.foldl (fun _ _ => spared.ite logHoldup_spares .refl))

theorem acceptImage_spares {img : ConfigImage} {s : State} : s.Spares (acceptImage img s) := by
  unfold acceptImage
  extract_lets _ _ s₁
  have hs₁ : s.Spares s₁ := rejudgeTargets_spares.after (.only rfl)
  exact (spared.foldl (fun _ _ => agreeWithAll_spares)).after (logFrom_same.spares.after (noteConfig_spares.after
    (loadTables_spares.after (hs₁.trans (.only rfl)))))

theorem execCfgImage_spares {c : Cmd} {img : ConfigImage} {s : State} : Leads State.Spares s (execCfgImage c img s) :=
  spared.runVerb (fun s₁ => by
    split
    · exact .refl
    · exact spared.now acceptImage_spares)

theorem putKnobs_spares {k : Knobs} {s : State} : s.Spares (putKnobs k s) := .only rfl

theorem execCfgProfile_spares {c : Cmd} {p : ProfileBlock} {s : State} : Leads State.Spares s (execCfgProfile c p s) := by
  unfold execCfgProfile
  extract_lets header
  clear_value header
  refine spared.runVerb (fun u => ?_)
  extract_lets k s₁
  have hs₁ : u.Spares s₁ := putKnobs_spares.after (.only rfl)
  clear_value s₁
  split
  · exact .refl
  · split
    · exact .refl
    · split
      · exact .refl
      · split
        · exact .refl
        · split
          · exact .refl
          · exact spared.now (noteConfig_spares.after hs₁)

end Sys2Proof.Machine

/-! # What keeps the queue and the invariant

The remaining operations and rows: each keeps the queue, and the invariant where it holds (`State.Keeps`), in the order of the model. -/

namespace Sys2Proof.Machine

/-! ## Machine/Ops.lean -/

theorem whenFills_keeps {f : State → State} {s : State} (h : ∀ t : State, t.Keeps (f t)) : s.Keeps (whenFills f s) :=
  kept.ite .refl (h s)

/-! ## Machine/Dir.lean -/

theorem settleInsert_keeps {b : Nat} {e : DirEntry} {s : State} : s.Keeps (settleInsert b e s) := by
  unfold settleInsert
  extract_lets
  split
  · exact updBank_spares.keeps.after takeFree_keeps
  · split
    · exact updBank_spares.keeps.after takeFree_keeps
    · exact logPairFull_spares.keeps.after takeFree_keeps

theorem noteRefused_keeps {e : DirEntry} {st : Status} {s : State} : s.Keeps (noteRefused e st s) :=
  kept.ite logPairFull_spares.keeps .refl

theorem acceptInsert_keeps {e : DirEntry} {s : State} : s.Keeps (acceptInsert e s) := queueUpdate_spares.keeps

theorem deleteWhere_keeps {v : VId} {h : Handle} {p : DirEntry → Bool} {s : State} : s.Keeps (deleteWhere v h p s) :=
  (kept.foldl (fun _ _ => deleteEntry_spares.keeps))

theorem replaceEntry_keeps {new : DirEntry} {old : DirEntry} {s : State} : s.Keeps (replaceEntry new old s) := by
  unfold replaceEntry
  extract_lets
  split
  · exact queueUpdate_spares.keeps.after (logPairFull_spares.keeps.after deleteWhere_keeps)
  · exact queueUpdate_spares.keeps.after deleteWhere_keeps

theorem buryWhere_keeps {v : VId} {h : Handle} {p : DirEntry → Bool} {kind : Nat} {dest : NodeId} {s : State} :
    s.Keeps (buryWhere v h p kind dest s) :=
  (kept.foldl (fun _ _ => replaceEntry_keeps))

theorem endUpdate_keeps {b : Nat} {s : State} : s.Keeps (endUpdate b s) := by
  unfold endUpdate
  extract_lets
  split
  · exact .refl
  · extract_lets s₂
    have hs₂ : s.Keeps s₂ := by
      unfold s₂
      split
      · split
        · split
          · exact settleInsert_keeps.after (invalidate_spares.keeps.after updBank_spares.keeps)
          · exact deleteEntry_spares.keeps.after (settleInsert_keeps.after updBank_spares.keeps)
        · exact settleInsert_keeps.after updBank_spares.keeps
      · exact updBank_spares.keeps
    exact beginUpdate_spares.keeps.after (retireWaiting_spares.keeps.after hs₂)

theorem clearDir_keeps {v : VId} {s : State} : s.Keeps (clearDir v s) := by
  unfold clearDir
  extract_lets _ _ s₁
  have hs₁ : s.Keeps s₁ := .only rfl
  exact (kept.foldl (fun _ _ => beginUpdate_spares.keeps)).after (retireWaiting_spares.keeps.after hs₁)

/-! ## Machine/Operands.lean -/

theorem writeSlot_keeps {g : Geometry} {f : FrameId} {t : Nat} {r : StoredRow} {s : State} : s.Keeps (writeSlot g f t r s) :=
  hbmWrite_keeps.after (hbmWrite_keeps.after (hbmWrite_keeps.after (hbmWrite_keeps.after (hbmWrite_keeps.after (hbmWrite_keeps.after
    (hbmWrite_keeps.after hbmWrite_keeps))))))

theorem setTokenCount_keeps {f : FrameId} {n : Nat} {s : State} : s.Keeps (setTokenCount f n s) := hbmWrite_keeps

theorem writeHeader_keeps {f : FrameId} {h : Header} {s : State} : s.Keeps (writeHeader f h s) := hbmWrite_keeps

theorem rebuildKeySum_keeps {g : Geometry} {f : FrameId} {n : Nat} {s : State} : s.Keeps (rebuildKeySum g f n s) := hbmWrite_keeps

theorem clearSlots_keeps {g : Geometry} {f : FrameId} {n : Nat} {s : State} : s.Keeps (clearSlots g f n s) :=
  rebuildKeySum_keeps.after (hbmWrite_keeps.after (hbmWrite_keeps.after (hbmWrite_keeps.after (hbmWrite_keeps.after
    (hbmWrite_keeps.after (hbmWrite_keeps.after hbmWrite_keeps))))))

/-! ## Machine/Rec.lean -/

theorem resent_keeps {a : Nat} {s : State} : s.Keeps (resent a s) := bumpAt_keeps

theorem linkBroken_keeps {a : Nat} {s : State} : s.Keeps (linkBroken a s) := logFrom_keeps.after resent_keeps

theorem Done.state_map (f : State → State) (d : Done) : (d.map f).state = f d.state := by
  cases d <;> rfl

theorem linkDone_keeps {c : Cmd} {body : State → Done} {s : State} (h : ∀ t : State, t.Keeps (body t).state) :
    s.Keeps (linkDone c body s).state := by
  unfold linkDone
  extract_lets d
  have hd : s.Keeps d.state := h s
  split
  · exact hd
  · split
    · rw [Done.state_map]
      exact resent_keeps.after hd
    · exact linkBroken_keeps

theorem linkPeer_keeps {h : PeerHdr} {f : State → State} {s : State} (k : ∀ t : State, t.Keeps (f t)) : s.Keeps (linkPeer h f s) := by
  unfold linkPeer
  extract_lets t
  have ht : s.Keeps t := k s
  split
  · exact ht
  · exact kept.ite (resent_keeps.after ht) (ackPeer_spares.keeps.after linkBroken_keeps)

theorem updSpan_keeps {f : FrameId} {g : SpanRec → SpanRec} {s : State} : s.Keeps (updSpan f g s) := by
  unfold updSpan
  split
  · exact .only rfl
  · exact .refl

theorem updSeq_keeps {f : FrameId} {g : SeqRec → SeqRec} {s : State} : s.Keeps (updSeq f g s) := by
  unfold updSeq
  split
  · exact .only rfl
  · exact .refl

theorem newMapFrame_keeps {v : VId} {use : FrameUse} {f : FrameId} {s t : State} (h : newMapFrame v use s = some (f, t)) : s.Keeps t :=
  allocAny_keeps h

theorem toTwin_keeps {v : VId} {h : Handle} {span : Nat} {body : PeerBody} {s : State} : s.Keeps (toTwin v h span body s) :=
  kept.ite sendPeer_spares.keeps .refl

theorem mirrorSpan_keeps {f : FrameId} {s : State} : s.Keeps (mirrorSpan f s) := by
  unfold mirrorSpan
  split
  · exact kept.ite .refl toTwin_keeps
  · exact .refl

theorem mirrorSeq_keeps {f : FrameId} {s : State} : s.Keeps (mirrorSeq f s) := by
  unfold mirrorSeq
  split
  · exact kept.ite .refl toTwin_keeps
  · exact .refl

theorem removeImage_keeps {n : Nat} {s : State} : s.Keeps (removeImage n s) := by
  unfold removeImage
  extract_lets _ s₁
  have hs₁ : s.Keeps s₁ := .only rfl
  split
  · exact .refl
  · exact settleSlots_spares.keeps.after ((kept.foldl (fun _ _ => kept.ite releaseFrame_keeps .refl)).after hs₁)

theorem dropImage_keeps {n : Nat} {s : State} : s.Keeps (dropImage n s) := by
  unfold dropImage
  extract_lets
  split
  · exact .refl
  · exact kept.ite .refl (kept.ite removeImage_keeps (.only rfl))

theorem sweepImages_keeps {s : State} : s.Keeps (sweepImages s) := (kept.foldl (fun _ _ => removeImage_keeps))

theorem releaseLoc_keeps {loc : PageLoc} {s : State} : s.Keeps (releaseLoc loc s) := by
  unfold releaseLoc
  split
  · exact releaseFrame_keeps
  · exact kept.ite dropImage_keeps .refl
  · exact kept.ite dropImage_keeps .refl
  · exact .refl

theorem updPage_keeps {p : PageRef} {g : Page → Page} {s : State} : s.Keeps (updPage p g s) := updSpan_keeps

theorem updShared_keeps {p : PageRef} {g : Page → Page} {s : State} : s.Keeps (updShared p g s) :=
  (kept.foldl (fun _ _ => updPage_keeps))

theorem releaseSpare_keeps {f : FrameId} {s : State} : s.Keeps (releaseSpare f s) := by
  unfold releaseSpare
  split
  · exact releaseFrame_keeps.after updSpan_keeps
  · exact updSpan_keeps

theorem freeMaskSlot_keeps {f : FrameId} {slot : Nat} {s : State} : s.Keeps (freeMaskSlot f slot s) :=
  kept.ite (releaseFrame_keeps.after (.only rfl)) (.only rfl)

theorem retireMaskSlot_keeps {entry : Nat} {s : State} : s.Keeps (retireMaskSlot entry s) :=
  kept.ite .refl (kept.ite freeMaskSlot_keeps (.only rfl))

theorem dropMaskRecord_keeps {f : FrameId} {s : State} : s.Keeps (dropMaskRecord f s) := by
  unfold dropMaskRecord
  split
  · exact .refl
  · extract_lets _ s₁
    have hs₁ : s.Keeps s₁ := (kept.foldl (fun _ _ => retireMaskSlot_keeps))
    exact releaseFrame_keeps.after (hs₁.trans (.only rfl))

theorem dropMask_keeps {f : FrameId} {s : State} : s.Keeps (dropMask f s) := by
  unfold dropMask
  split
  · exact .refl
  · exact dropMaskRecord_keeps.after deleteWhere_keeps

theorem addLost_keeps {v : VId} {h : Handle} {span : Nat} {k : LostKind} {token : Nat} {s : State} :
    s.Keeps (addLost v h span k token s) :=
  kept.ite updVn_keeps (logFrom_keeps.after (bump_keeps.after updVn_keeps))

theorem dropLost_keeps {v : VId} {h : Handle} {span : Nat} {s : State} : s.Keeps (dropLost v h span s) := updVn_keeps

theorem rebuildBank_keeps {b : Nat} {s : State} : s.Keeps (rebuildBank b s) :=
  retireWaiting_spares.keeps.after ((kept.foldl (fun _ _ => kept.ite settleInsert_keeps .refl)).after updBank_spares.keeps)

theorem sweepLeaving_keeps {s : State} : s.Keeps (sweepLeaving s) := by
  have left (d : FrameId) {t u : State} (h : t.core5 = u.core5) : u.Keeps (releaseFrame d t) := releaseFrame_keeps.after (.only h)
  unfold sweepLeaving
  extract_lets s₁
  have hs₁ : s.Keeps s₁ := kept.foldl (fun _ _ => left _ rfl)
  clear_value s₁
  exact State.Keeps.after (kept.foldl (fun _ _ => left _ rfl)) hs₁

theorem findMask_keeps {v : VId} {h : Handle} {span : Nat} {s : State} : s.Keeps (findMask v h span s).2 := by
  unfold findMask
  extract_lets
  split
  · exact search_spares.keeps
  · exact search_spares.keeps
  · split
    · exact stopMoved_spares.keeps.after search_spares.keeps
    · exact search_spares.keeps

/-! ## Machine/Mask.lean -/

theorem kvMaskSetRow_keeps {c : Cmd} {handle : Handle} {span : SpanIx} {maskRows : BitVec 14} {initialKind : BitVec 2} {s : State} :
    Leads State.Keeps s (kvMaskSetRow c handle span maskRows initialKind s) := by
  unfold kvMaskSetRow
  obtain ⟨refusal, hr⟩ : ∃ f, f = insertRefusal := ⟨_, rfl⟩
  rw [← hr]
  have noted {t : State} {m : Tbl FrameId MaskRec} : t.Keeps { t with masks := m } := .only rfl
  extract_lets
  refine kept.runVerb (fun _ => linkDone_keeps (fun _ => kept.withParams (fun u => ?_)))
  extract_lets v r s
  have hs : u.Keeps s := findSpan_spares.keeps
  clear_value s
  split
  · exact holdForBank_spares.keeps.after hs
  · exact kept.now hs
  · split
    · exact kept.now hs
    · split
      · exact kept.now hs
      · split
        · exact kept.now hs
        · split
          · exact kept.now hs
          · next e =>
            have hs₁ := (newMapFrame_keeps e).after hs
            extract_lets _ _ _ s₂ s₃ s₄
            have hs₄ : u.Keeps s₄ := hbmWrite_keeps.after (hbmWrite_keeps.after (deleteWhere_keeps.after hs₁))
            clear_value s₄
            split
            · exact kept.now (noteRefused_keeps.after hs)
            · exact kept.now (mirrorSpan_keeps.after (acceptInsert_keeps.after (noted.after hs₄)))

theorem takeMaskSlot_keeps {v : VId} {f : FrameId} {i : Nat} {s t : State} (h : takeMaskSlot v s = some (f, i, t)) : s.Keeps t := by
  unfold takeMaskSlot at h
  split at h
  · cases h
    exact .refl
  · obtain ⟨p, e, he⟩ := Option.map_eq_some_iff.mp h
    cases he
    exact newMapFrame_keeps e

theorem kvMaskTileRow_keeps {c : Cmd} {handle : Handle} {span : SpanIx} {tileRow : BitVec 6} {tileCol : BitVec 13} {tile : List Byte}
    {s : State} : Leads State.Keeps s (kvMaskTileRow c handle span tileRow tileCol tile s) := by
  unfold kvMaskTileRow
  extract_lets
  exact kept.runVerb (fun _ => linkDone_keeps (fun _ => kept.withParams (fun s₃ => by
    extract_lets _ _ q
    have hq : s₃.Keeps q.2 := findMask_keeps.after findSpan_spares.keeps
    split
    · exact holdForBank_spares.keeps.after findSpan_spares.keeps
    · exact kept.now findSpan_spares.keeps
    · split
      · exact holdForBank_spares.keeps.after hq
      · exact kept.now hq
      · split
        · exact kept.now hq
        · extract_lets
          split
          · exact kept.now hq
          · split
            · exact kept.now hq
            · split
              · exact kept.now (retireMaskSlot_keeps.after (hbmWrite_keeps.after hq))
              · split
                · exact kept.now (retireMaskSlot_keeps.after (hbmWrite_keeps.after hq))
                · split
                  · exact kept.now hq
                  · next p i s₅ e =>
                      exact kept.now (retireMaskSlot_keeps.after (hbmWrite_keeps.after (hbmWrite_keeps.after
                        (((takeMaskSlot_keeps e).after hq).trans (.only rfl))))))))

theorem execKvMaskDrop_keeps {c : Cmd} {t : Target} {s : State} : Leads State.Keeps s (execKvMaskDrop c t s) := by
  unfold execKvMaskDrop
  extract_lets
  exact kept.runVerb (fun _ => kept.withParams (fun s₂ => by
    extract_lets _ _ q
    have hq : s₂.Keeps q.2 := findMask_keeps.after findSpan_spares.keeps
    split
    · exact holdForBank_spares.keeps.after findSpan_spares.keeps
    · exact kept.now findSpan_spares.keeps
    · split
      · exact holdForBank_spares.keeps.after hq
      · exact kept.now hq
      · exact kept.now (mirrorSpan_keeps.after (updSpan_keeps.after (dropMask_keeps.after hq)))))

theorem execMaskSlotFree_keeps {frame : BitVec 24} {slot : BitVec 4} {s : State} :
    Leads State.Keeps s (execMaskSlotFree frame slot s) :=
  kept.onNode (fun s₁ => by
    split
    · exact kept.ite freeMaskSlot_keeps .refl
    · exact .refl)

/-! ## Machine/Service.lean -/

theorem fanAnswer_keeps {id : Nat} {sub : Nat} {fp16 : Bool} {h : RecHdr} {rows : List RowPart} {s : State} :
    s.Keeps (fanAnswer id sub fp16 h rows s) := by
  unfold fanAnswer
  extract_lets s₁
  have hs₁ : s.Keeps s₁ := bump_keeps
  split
  · exact .refl
  · extract_lets
    split
    · exact .refl
    · split
      · exact fanFinish_spares.keeps.after setSub_spares.keeps
      · split
        · exact fanFinish_spares.keeps.after (setSub_spares.keeps.after (logCheckFail_spares.keeps.after hs₁))
        · exact fanFinish_spares.keeps.after (setSub_spares.keeps.after (putFan_spares.keeps.after (bumpBy_keeps.after
          (hs₁.trans (.only rfl)))))

theorem dropReq_keeps {id : Nat} {s : State} : s.Keeps (dropReq id s) := sweepImages_keeps.after (.only rfl)

theorem endReq_keeps {id : Nat} {h : RecHdr} {rows : List RowPart} {s : State} : s.Keeps (endReq id h rows s) := by
  unfold endReq
  extract_lets
  split
  · exact .refl
  · split
    · exact deliver_spares.keeps.after dropReq_keeps
    · exact fanAnswer_keeps.after dropReq_keeps

theorem failReq_keeps {id : Nat} {st : Status} {hint : Nat} {s : State} : s.Keeps (failReq id st hint s) := by
  unfold failReq
  split
  · exact .refl
  · exact endReq_keeps

theorem failReqs_keeps {ids : List Nat} {st : Status} {s : State} : s.Keeps (failReqs ids st s) :=
  (kept.foldl (fun _ _ => failReq_keeps))

/-! ## Machine/Flash.lean -/

theorem storeFlash_keeps {v : VId} {gen : BitVec 32} {bytes : List Byte} {n : Nat} {s t : State}
    (h : storeFlash v gen bytes s = some (n, t)) : s.Keeps t := by
  have stored {u : State} {x : Tier} : u.Keeps { u with tier := x } := .only rfl
  unfold storeFlash at h
  split at h
  · cases h
  · cases h
    exact stored.after updBlock_spares.keeps

theorem roomForPack_keeps {v : VId} {need : Nat} {but : Option FrameId} {es : List Extent} {s t : State}
    (h : roomForPack v need but s = some (es, t)) : s.Keeps t := by
  unfold roomForPack at h
  split at h
  · cases h
    exact .refl
  · split at h
    · next e =>
      obtain ⟨_, -, he⟩ := Option.map_eq_some_iff.mp h
      cases he
      exact allocAny_keeps e
    · cases h

theorem writeExtents_keeps {es : List Extent} {bs : List Byte} {s : State} : s.Keeps (writeExtents es bs s) := by
  induction es generalizing bs s with
  | nil => exact .refl
  | cons x r ih => exact ih.after hbmWrite_keeps

theorem storePack_keeps {v : VId} {gen : BitVec 32} {bytes : List Byte} {n : Nat} {s t : State}
    (h : storePack v gen bytes s = some (n, t)) : s.Keeps t := by
  unfold storePack at h
  split at h
  · cases h
  · next e =>
    cases h
    exact (writeExtents_keeps.after (roomForPack_keeps e)).trans (.only rfl)

theorem stopTiers_keeps {v : VId} {s : State} : s.Keeps (stopTiers v s) := .only rfl

theorem countFlashRead_keeps {n : Nat} {s : State} : s.Keeps (countFlashRead n s) := by
  unfold countFlashRead
  split
  · exact updBlock_spares.keeps
  · exact .refl

/-! ## Machine/Image.lean -/

theorem releaseCoded_keeps {r : SpanRec} {stripe : Nat} {slot : Nat} {loc : PageLoc} {frag : List Byte} {s : State} :
    s.Keeps (releaseCoded r stripe slot loc frag s) := by
  unfold releaseCoded
  extract_lets
  split
  · exact updVn_keeps.after (sendPeer_spares.keeps.after sendPeer_spares.keeps)
  · exact releaseLoc_keeps

theorem releasePage_keeps {r : SpanRec} {p : PageRef} {x : Page} {s : State} : s.Keeps (releasePage r p x s) := by
  unfold releasePage
  split
  · exact releaseCoded_keeps
  · exact releaseLoc_keeps

theorem releasePages_keeps {f : FrameId} {s : State} : s.Keeps (releasePages f s) := by
  unfold releasePages
  split
  · exact .refl
  · exact kept.foldl (fun _ _ => releasePage_keeps.after updSpan_keeps)

/-! ## Machine/Span.lean -/

theorem takeSpare_keeps {f : FrameId} {s : State} : s.Keeps (takeSpare f s) := by
  unfold takeSpare
  split
  · exact .refl
  · split
    · exact .refl
    · next x t e =>
        have ht : s.Keeps _ := (allocFree_keeps e)
        split
        · exact kept.ite .refl (updSpan_keeps.after (.only rfl))
        · exact updSpan_keeps.after (writeHeader_keeps.after ht)

theorem oweSpare_keeps {f : FrameId} {s : State} : s.Keeps (oweSpare f s) := updSpan_keeps.after (.only rfl)

theorem dropLowerSpare_keeps {rec : FrameId} {s : State} : s.Keeps (dropLowerSpare rec s) := by
  unfold dropLowerSpare
  split
  · exact .refl
  · exact kept.ite releaseSpare_keeps .refl

theorem dropSparesBelow_keeps {v : VId} {h : Handle} {span : Nat} {s : State} : s.Keeps (dropSparesBelow v h span s) :=
  (kept.foldl (fun _ _ => dropLowerSpare_keeps))

theorem createSpan_keeps {v : VId} {h : Handle} {span : Nat} {g : Geometry} {smooth : List (Nat × Nat × List (BitVec 32))}
    {highest : Bool} {s : State} : s.Keeps (createSpan v h span g smooth highest s).2 := by
  unfold createSpan
  obtain ⟨refusal, hr⟩ : ∃ f, f = insertRefusal := ⟨_, rfl⟩
  rw [← hr]
  split
  · exact .refl
  · split
    · exact .refl
    · next e =>
      have hs₁ := newMapFrame_keeps e
      split
      · exact noteRefused_keeps
      · extract_lets s₂ s₃ s₄
        have hs₂ : s.Keeps s₂ := hs₁.trans (.only rfl)
        clear_value s₂
        have hs₄ : s.Keeps s₄ := deleteWhere_keeps.after (kept.ite (takeSpare_keeps.after hs₂) hs₂)
        clear_value s₄
        exact dropSparesBelow_keeps.after (mirrorSpan_keeps.after (acceptInsert_keeps.after hs₄))

theorem dropSeq_keeps {v : VId} {h : Handle} {f : FrameId} {s : State} : s.Keeps (dropSeq v h f s) := by
  unfold dropSeq
  extract_lets s₁
  have hs₁ : s.Keeps s₁ := deleteWhere_keeps
  exact releaseFrame_keeps.after (hs₁.trans (.only rfl))

theorem logPlaceFail_keeps {v : VId} {h : Handle} {span : Nat} {considered : Nat} {s : State} :
    s.Keeps (logPlaceFail v h span considered s) := by
  unfold logPlaceFail
  extract_lets _ s₁
  have hs₁ : s.Keeps s₁ := logFrom_keeps
  exact kept.ite .refl (hs₁.trans (.only rfl))

theorem assignFailed_keeps {v : VId} {h : Handle} {span : Nat} {considered : Nat} {purpose : AssignFor} {s : State} :
    s.Keeps (assignFailed v h span considered purpose s) := by
  unfold assignFailed
  extract_lets s₁ s₂ s₃
  have hs₁ : s.Keeps s₁ := logPlaceFail_keeps.after bump_keeps
  have hs₂ : s.Keeps s₂ := by
    unfold s₂
    split
    · exact updSeq_keeps.after hs₁
    · exact hs₁
  have hs₃ : s.Keeps s₃ := by
    unfold s₃
    split
    · exact dropSeq_keeps.after hs₂
    · exact hs₂
  split
  · exact complete_keeps.after (bump_keeps.after hs₃)
  · exact complete_keeps.after hs₂
  · exact ackPeer_spares.keeps.after hs₂
  · exact hs₂

theorem setPlace_keeps {v : VId} {h : Handle} {span : Nat} {n : NodeId} {s : State} : s.Keeps (setPlace v h span n s) := by
  unfold setPlace
  split
  · exact dropSparesBelow_keeps.after (mirrorSeq_keeps.after updSeq_keeps)
  · exact .refl

theorem assignDone_keeps {v : VId} {h : Handle} {purpose : AssignFor} {s : State} : s.Keeps (assignDone v h purpose s) := by
  unfold assignDone
  split
  · exact complete_keeps
  · exact .refl
  · exact ackPeer_spares.keeps
  · split
    · exact complete_keeps
    · exact complete_keeps

theorem assignLoop_keeps {fuel : Nat} {v : VId} {h : Handle} {span : Nat} {g : Geometry} {left : List NodeId} {considered : Nat}
    {purpose : AssignFor} {s : State} : s.Keeps (assignLoop fuel v h span g left considered purpose s) := by
  induction fuel generalizing v h span g left considered purpose s with
  | zero =>
        unfold assignLoop
        exact assignFailed_keeps
  | succ k ih =>
    unfold assignLoop
    extract_lets
    split
    · exact assignFailed_keeps
    · extract_lets s₁
      have hs₁ : s.Keeps s₁ := setPlace_keeps.after createSpan_keeps
      split
      · exact ih
      · split
        · split
          · exact ih.after createSpan_keeps
          · split
            · exact ih.after hs₁
            · exact assignDone_keeps.after hs₁
        · exact sendPeer_spares.keeps.after addJob_keeps

theorem assignNext_keeps {v : VId} {h : Handle} {f : FrameId} {prefer : List NodeId} {purpose : AssignFor} {s : State} :
    s.Keeps (assignNext v h f prefer purpose s) := by
  unfold assignNext
  extract_lets
  split
  · exact assignLoop_keeps
  · exact .refl

theorem assignAnswer_keeps {id : Nat} {ok : Bool} {s : State} : s.Keeps (assignAnswer id ok s) := by
  unfold assignAnswer
  extract_lets
  split
  · extract_lets s₂
    have hs₂ : s.Keeps s₂ := setPlace_keeps.after endJob_keeps
    split
    · exact assignLoop_keeps.after endJob_keeps
    · split
      · exact assignLoop_keeps.after hs₂
      · exact assignDone_keeps.after hs₂
  · exact .refl

theorem spanOpenRow_keeps {c : Cmd} {p : SpanOpenBlk} {prefer : List NodeId} {s : State} :
    Leads State.Keeps s (spanOpenRow c p prefer s) := by
  have noted {t : State} {m : Tbl FrameId SeqRec} : t.Keeps { t with seqs := m } := .only rfl
  unfold spanOpenRow
  obtain ⟨refusal, hf⟩ : ∃ f, f = insertRefusal := ⟨_, rfl⟩
  rw [← hf]
  refine kept.runVerb (fun _ => kept.withParams (fun u => ?_))
  extract_lets v r
  have hr : u.Keeps r.2 := findHome_spares.keeps
  split
  · exact holdForBank_spares.keeps.after hr
  · exact kept.now hr
  · split
    · exact kept.now hr
    · split
      · exact kept.now (bump_keeps.after hr)
      · next e =>
        have hs₁ := (newMapFrame_keeps e).after hr
        extract_lets
        split
        · exact kept.now (noteRefused_keeps.after hr)
        · exact kept.later (assignNext_keeps.after (acceptInsert_keeps.after (noted.after hs₁)))

theorem execSpanCreateRequest_keeps {h : PeerHdr} {geo : Geometry} {smooth : List (Nat × Nat × List (BitVec 32))} {highest : Bool}
    {unwilling : Bool} {s : State} : Leads State.Keeps s (execSpanCreateRequest h geo smooth highest unwilling s) :=
  kept.onPeer (fun _ => whenFills_keeps (fun _ => kept.ite ackPeer_spares.keeps (kept.ite ackPeer_spares.keeps
    (ackPeer_spares.keeps.after createSpan_keeps))))

theorem fillReportRow_keeps {h : PeerHdr} {prefer : List NodeId} {s : State} : Leads State.Keeps s (fillReportRow h prefer s) := by
  unfold fillReportRow
  extract_lets
  exact kept.onPeer (fun _ => whenFills_keeps (fun s₂ => by
    split
    · exact ackPeer_spares.keeps
    · split
      · exact ackPeer_spares.keeps
      · exact kept.ite ackPeer_spares.keeps (kept.ite ackPeer_spares.keeps assignNext_keeps)))

theorem spanLocateRow_keeps {c : Cmd} {t : Target} {prefer : List NodeId} {s : State} :
    Leads State.Keeps s (spanLocateRow c t prefer s) := by
  unfold spanLocateRow
  extract_lets
  exact kept.runVerb (fun _ => kept.withParams (fun s₂ => by
    extract_lets
    split
    · exact .refl
    · split
      · exact holdForBank_spares.keeps.after findHome_spares.keeps
      · exact kept.now findHome_spares.keeps
      · split
        · exact kept.now findHome_spares.keeps
        · split
          · exact kept.now findHome_spares.keeps
          · split
            · exact kept.later (defer_keeps.after findHome_spares.keeps)
            · split
              · exact kept.later (assignNext_keeps.after findHome_spares.keeps)
              · exact kept.now findHome_spares.keeps))

theorem stopSpans_keeps {v : VId} {h : Handle} {s : State} : s.Keeps (stopSpans v h s) := (kept.foldl (fun _ _ => updSpan_keeps))

theorem closeLocal_keeps {v : VId} {h : Handle} {s : State} : s.Keeps (closeLocal v h s) := by
  unfold closeLocal
  extract_lets
  exact ((kept.foldl (fun s₂ _ => by
    extract_lets s₃ _ _ s₆
    have hs₃ : s₂.Keeps s₃ := by
      unfold s₃
      split
      · exact dropMask_keeps
      · exact .refl
    have hs₆ : s₂.Keeps s₆ := toTwin_keeps.after (releaseSpare_keeps.after (releasePages_keeps.after (dropLost_keeps.after hs₃)))
    exact releaseFrame_keeps.after (hs₆.trans (.only rfl))))).after deleteWhere_keeps

theorem finishClose_keeps {v : VId} {h : Handle} {cmds : List Cmd} {s : State} : s.Keeps (finishClose v h cmds s) := by
  unfold finishClose
  extract_lets s₁
  have hs₁ : s.Keeps s₁ := by
    unfold s₁
    split
    · extract_lets s₂
      have hs₂ : s.Keeps s₂ := by
        unfold s₂
        split
        · exact toTwin_keeps
        · exact .refl
      exact dropSeq_keeps.after hs₂
    · exact .refl
  exact (kept.foldl (fun _ _ => complete_keeps)).after hs₁

theorem closeAck_keeps {id : Nat} {n : NodeId} {s : State} : s.Keeps (closeAck id n s) := by
  unfold closeAck
  split
  · exact kept.ite (finishClose_keeps.after endJob_keeps) setJob_keeps
  · exact .refl

theorem beginClose_keeps {v : VId} {h : Handle} {ack : Option PeerHdr} {s : State} : s.Keeps (beginClose v h ack s).2 := by
  unfold beginClose
  extract_lets
  split
  · exact addJob_keeps.after stopSpans_keeps
  · exact closeLocal_keeps.after stopSpans_keeps

theorem settleCloses_keeps {s : State} : s.Keeps (settleCloses s) :=
  (kept.foldl (fun s₁ _ => by
    split
    · extract_lets s₂
      have hs₂ : s₁.Keeps s₂ := closeLocal_keeps.after endJob_keeps
      split
      · exact .refl
      · split
        · exact ackPeer_spares.keeps.after hs₂
        · exact closeAck_keeps.after hs₂
        · exact hs₂
    · exact .refl))

theorem closeDenied_keeps {id : Nat} {s : State} : s.Keeps (closeDenied id s) := by
  unfold closeDenied
  extract_lets s₁
  have hs₁ : s.Keeps s₁ := endJob_keeps.after (.only rfl)
  split
  · extract_lets s₂
    have hs₂ : s.Keeps s₂ := by
      unfold s₂
      split
      · exact mirrorSeq_keeps.after (updSeq_keeps.after hs₁)
      · exact hs₁
    exact (kept.foldl (fun _ _ => complete_keeps)).after hs₂
  · exact .refl

theorem spanCloseRow_keeps {c : Cmd} {t : Target} {s : State} : Leads State.Keeps s (spanCloseRow c t s) :=
  kept.runVerb (fun _ => kept.withParams (fun s₂ => by
    extract_lets
    split
    · exact holdForBank_spares.keeps.after findHome_spares.keeps
    · exact kept.now findHome_spares.keeps
    · extract_lets _ b
      have hb : s₂.Keeps b.2 := beginClose_keeps.after (mirrorSeq_keeps.after (updSeq_keeps.after findHome_spares.keeps))
      split
      · exact kept.now findHome_spares.keeps
      · extract_lets
        split
        · exact kept.now findHome_spares.keeps
        · split
          · exact kept.later (defer_keeps.after findHome_spares.keeps)
          · split
            · exact kept.later (setJob_keeps.after findHome_spares.keeps)
            · split
              · exact kept.later (finishClose_keeps.after hb)
              · exact kept.later ((kept.foldl (fun _ _ => sendPeer_spares.keeps)).after (addJob_keeps.after hb))))

theorem seqCloseRow_keeps {h : PeerHdr} {s : State} : Leads State.Keeps s (seqCloseRow h s) :=
  kept.onPeer (fun _ => kept.ite ackPeer_spares.keeps (kept.ite .refl (kept.ite
    (ackPeer_spares.keeps.after beginClose_keeps) beginClose_keeps)))

theorem moveRecord_keeps {v : VId} {handle : Handle} {s : State} : s.Keeps (moveRecord v handle s) := by
  unfold moveRecord
  extract_lets
  split
  · split
    · exact kept.ite .refl (sendPeer_spares.keeps.after (addJob_keeps.after updSeq_keeps))
    · exact .refl
  · exact .refl

theorem execSequenceRecordMove_keeps {v : VId} {handle : Handle} {s : State} :
    Leads State.Keeps s (execSequenceRecordMove v handle s) :=
  kept.onNode (fun _ => moveRecord_keeps)

theorem seqMoved_keeps {id : Nat} {s : State} : s.Keeps (seqMoved id s) := by
  unfold seqMoved
  extract_lets
  split
  · split
    · exact endJob_keeps
    · split
      · exact endJob_keeps
      · extract_lets s₂ s₃
        have hs₂ : s.Keeps s₂ := buryWhere_keeps.after endJob_keeps
        have hs₃ : s.Keeps s₃ := by
          unfold s₃
          split
          · exact toTwin_keeps.after hs₂
          · exact hs₂
        exact sweepLeaving_keeps.after (updSeq_keeps.after hs₃)
  · exact .refl

theorem execSequenceRecordArrival_keeps {h : PeerHdr} {rec : SeqImage} {s : State} :
    Leads State.Keeps s (execSequenceRecordArrival h rec s) := by
  unfold execSequenceRecordArrival
  obtain ⟨refusal, hr⟩ : ∃ f, f = insertRefusal := ⟨_, rfl⟩
  rw [← hr]
  refine kept.onPeer (fun _ => whenFills_keeps (fun u => ?_))
  extract_lets v done
  have hdone {t : State} : t.Keeps (done t) := updVn_keeps
  clear_value done
  split
  · exact ackPeer_spares.keeps.after hdone
  · split
    · exact ackPeer_spares.keeps
    · next e =>
      have hs₁ := newMapFrame_keeps e
      extract_lets _ s₂
      have hs₂ : u.Keeps s₂ := deleteWhere_keeps.after (acceptInsert_keeps.after hs₁)
      clear_value s₂
      split
      · exact ackPeer_spares.keeps.after noteRefused_keeps
      · exact ackPeer_spares.keeps.after (mirrorSeq_keeps.after (hdone.after (hs₂.trans (.only rfl))))

theorem execQuarantineEnd_keeps {frame : BitVec 24} {s : State} : Leads State.Keeps s (execQuarantineEnd frame s) :=
  kept.onNode (fun _ => kept.ite .refl (kept.ite (stopTiers_keeps.after updFrame_keeps) updFrame_keeps))

/-! ## Machine/Hbm.lean -/

theorem applyHbmUpsets_keeps {u : Upsets} {s : State} : s.Keeps (applyHbmUpsets u s) := (kept.foldl (fun _ _ => .only rfl))

theorem applyUpsets_keeps {u : Upsets} {s : State} : s.Keeps (applyUpsets u s) := applyHbmUpsets_keeps.after applyDirUpsets_spares.keeps

theorem notAwaiting_keeps {p : PageRef} {s : State} : s.Keeps (notAwaiting p s) := .only rfl

theorem awaitPage_keeps {p : PageRef} {h : Option (List Byte)} {s : State} : s.Keeps (awaitPage p h s) := .only rfl

theorem switchAll_keeps {old : PageLoc} {loc : PageLoc} {s : State} : s.Keeps (switchAll old loc s) := by
  unfold switchAll
  extract_lets _ s₁ s₂
  have hs₁ : s.Keeps s₁ := (kept.foldl (fun _ _ => updPage_keeps))
  have hs₂ : s.Keeps s₂ := by
    unfold s₂
    split
    · exact updFrame_keeps.after hs₁
    · exact hs₁
  exact (kept.foldl (fun _ _ => releaseLoc_keeps)).after hs₂

theorem poisonPage_keeps {p : PageRef} {c : Poison} {s : State} : s.Keeps (poisonPage p c s) := by
  unfold poisonPage
  extract_lets s₁
  have hs₁ : s.Keeps s₁ := updShared_keeps.after notAwaiting_keeps
  split
  · extract_lets s₂ s₃ s₄
    have hs₂ : s.Keeps s₂ := by
      unfold s₂
      split
      · exact setFrameState_keeps.after hs₁
      · exact hs₁
    have hs₃ : s.Keeps s₃ := bump_keeps.after hs₂
    have hs₄ : s.Keeps s₄ := by
      unfold s₄
      split
      · exact logFrom_keeps.after hs₃
      · exact bump_keeps.after hs₃
    exact failReqs_keeps.after hs₄
  · exact .refl

theorem losePage_keeps {p : PageRef} {s : State} : s.Keeps (losePage p s) := by
  unfold losePage
  extract_lets
  split
  · exact failReqs_keeps.after (addLost_keeps.after (logFrom_keeps.after (bump_keeps.after (releaseLoc_keeps.after
    (updPage_keeps.after notAwaiting_keeps)))))
  · exact .refl

theorem readFragment_keeps {p : PageRef} {v : VId} {stripe : Nat} {n : NodeId × Nat} {s : State} :
    s.Keeps (readFragment p v stripe n s) :=
  kept.ite .refl (sendTo_keeps.after (.only rfl))

theorem askOther_keeps {p : PageRef} {hash : List Byte} {s : State} : s.Keeps (askOther p hash s) := by
  unfold askOther
  split
  · split
    · exact sendPeer_spares.keeps
    · split
      · exact kept.foldl (fun _ _ => readFragment_keeps)
      · exact .refl
  · exact .refl

theorem pageUnreadable_keeps {p : PageRef} {s : State} : s.Keeps (pageUnreadable p s) := by
  unfold pageUnreadable
  split
  · split
    · exact .refl
    · split
      · exact kept.ite (askOther_keeps.after awaitPage_keeps) poisonPage_keeps
      · exact kept.ite (askOther_keeps.after awaitPage_keeps) losePage_keeps
  · exact .refl

theorem loseMap_keeps {f : FrameId} {s : State} : s.Keeps (loseMap f s) := by
  unfold loseMap
  split
  · exact addLost_keeps.after updSpan_keeps
  · split
    · exact dropSeq_keeps
    · exact .refl

theorem rebuildMap_keeps {f : FrameId} {s : State} : s.Keeps (rebuildMap f s) := by
  unfold rebuildMap
  extract_lets
  split
  · exact clearErrs_keeps
  · exact .only rfl
  · exact loseMap_keeps

theorem settleMaps_keeps {s : State} : s.Keeps (settleMaps s) := by
  refine kept.foldl (fun u f => ?_)
  extract_lets left
  have leaves {t : State} : t.Keeps (left t) := .only rfl
  split
  · exact leaves
  · exact kept.ite (leaves.after clearErrs_keeps) .refl
  · exact leaves.after loseMap_keeps

theorem loseMask_keeps {m : FrameId} {s : State} : s.Keeps (loseMask m s) := by
  unfold loseMask
  extract_lets
  split
  · exact .refl
  · extract_lets s₂
    have hs₂ : s.Keeps s₂ := by
      unfold s₂
      split
      · exact updSpan_keeps.after dropMask_keeps
      · exact dropMask_keeps
    exact logFrom_keeps.after hs₂

theorem repairReserved_keeps {a : Nat} {s : State} : s.Keeps (repairReserved a s) :=
  kept.ite .refl (kept.ite (.only rfl) (clearErrs_keeps.after (.only rfl)))

theorem handleUe_keeps {a : Nat} {s : State} : s.Keeps (handleUe a s) := by
  unfold handleUe
  split
  · exact repairReserved_keeps
  · extract_lets
    split
    · exact setFrameState_keeps.after updFrame_keeps
    · split
      · split
        · exact (kept.foldl (fun _ _ => releaseFrame_keeps.after oweSpare_keeps)).after updFrame_keeps
        · exact (kept.foldl (fun _ _ => pageUnreadable_keeps)).after updFrame_keeps
      · exact ((kept.foldl (fun _ _ => (kept.foldl (fun _ _ => pageUnreadable_keeps))))).after updFrame_keeps
      · exact rebuildMap_keeps.after updFrame_keeps
      · exact (kept.foldl (fun _ _ => loseMask_keeps)).after updFrame_keeps
      · exact updFrame_keeps

theorem noteBad_keeps {w : Reader} {o : Nat × RsOut} {s : State} : s.Keeps (noteBad w o s) := by
  unfold noteBad
  extract_lets _ _ s₂
  have hs₂ : s.Keeps s₂ := bumpAt_keeps.after (kept.ite bumpAt_keeps .refl)
  split
  · exact logFrom_keeps.after hs₂
  · exact logFrom_keeps.after hs₂
  · exact hs₂

theorem readCodewords_keeps {w : Reader} {a : Nat} {n : Nat} {s : State} : s.Keeps (readCodewords w a n s).2 :=
  (kept.foldl (fun _ _ => noteBad_keeps)).after ((kept.foldl (fun _ _ => bumpAt_keeps)))

theorem handleAll_keeps {bad : List Nat} {s : State} : s.Keeps (handleAll bad s) := (kept.foldl (fun _ _ => handleUe_keeps))

theorem settleUe_keeps {s : State} : s.Keeps (settleUe s) := handleAll_keeps.after (.only rfl)

theorem readRange_keeps {w : Reader} {a : Nat} {n : Nat} {s : State} : s.Keeps (readRange w a n s).2 :=
  handleAll_keeps.after readCodewords_keeps

theorem meetLink_keeps {u : Upsets} {a : Nat} {s : State} : s.Keeps (meetLink u a s).2 := by
  unfold meetLink
  extract_lets s₁
  have hs₁ : s.Keeps s₁ := (kept.foldl (fun _ _ => bumpAt_keeps))
  split
  · exact logFrom_keeps.after (bumpAt_keeps.after hs₁)
  · exact hs₁

theorem readFrameNormal_keeps {f : FrameId} {s : State} : s.Keeps (readFrameNormal f s).2 := readRange_keeps

theorem readExtents_keeps {es : List Extent} {s : State} : s.Keeps (readExtents es s).2 :=
  kept.foldl_snd (p := (_, s)) (fun _ _ _ => readCodewords_keeps)

theorem readStored_keeps {x : Page} {s : State} : s.Keeps (readStored x s).2 := by
  unfold readStored
  split
  · exact readFrameNormal_keeps
  · split
    · exact handleAll_keeps.after readExtents_keeps
    · exact .refl
  · exact countFlashRead_keeps
  · exact .refl

/-! ## Machine/CodecQueue.lean -/

theorem queueItems_keeps {cls : Nat} {n : Nat} {p : PageRef} {g : BitVec 32} {slot : Nat} {s : State} :
    s.Keeps (queueItems cls n p g slot s) :=
  .only rfl

theorem queueBlocks_keeps {cls : Nat} {p : PageRef} {im : List Byte} {s : State} : s.Keeps (queueBlocks cls p im s) := by
  unfold queueBlocks
  split
  · exact .refl
  · exact queueItems_keeps

theorem queueCoding_keeps {cls : Nat} {p : PageRef} {fmt : Nat} {s : State} : s.Keeps (queueCoding cls p fmt s) := by
  unfold queueCoding
  split
  · exact .refl
  · exact queueItems_keeps

theorem endDemotion_keeps {p : PageRef} {s : State} : s.Keeps (endDemotion p s) := .only rfl

theorem endPromotion_keeps {n : Nat} {s : State} : s.Keeps (endPromotion n s) := .only rfl

theorem dropFromTiers_keeps {down : Bool} {st : Status} {p : PageRef} {s : State} : s.Keeps (dropFromTiers down st p s) :=
  (kept.foldl (fun s₁ _ => by
    split
    · exact kept.ite .refl (kept.ite (complete_keeps.after endJob_keeps) setJob_keeps)
    · exact .refl))

theorem staleBlock_keeps {i : CodecItem} {s : State} : s.Keeps (staleBlock i s) := by
  unfold staleBlock
  split
  · exact pageUnreadable_keeps.after failReqs_keeps
  · split
    · split
      · exact .refl
      · exact pageUnreadable_keeps.after (dropFromTiers_keeps.after (failReqs_keeps.after endPromotion_keeps))
    · split
      · exact .refl
      · exact pageUnreadable_keeps.after (dropFromTiers_keeps.after (removeImage_keeps.after endDemotion_keeps))

theorem serveBlock_keeps {k : Nat} {i : CodecItem} {s : State} : s.Keeps (serveBlock k i s) := by
  unfold serveBlock
  extract_lets _ s₁
  have hs₁ : s.Keeps s₁ := .only rfl
  exact settleSlots_spares.keeps.after (kept.ite hs₁ (staleBlock_keeps.after (bump_keeps.after hs₁)))

theorem serveQueue_keeps {cls n : Nat} {s : State} : s.Keeps (serveQueue cls n s) := by
  induction n generalizing s with
  | zero => exact .refl
  | succ n ih =>
    unfold serveQueue
    split
    · exact .refl
    · split
      · exact .refl
      · exact kept.ite (ih.after serveBlock_keeps) .refl

theorem drainCodec_keeps {cls : Nat} {s : State} : s.Keeps (drainCodec cls s) := serveQueue_keeps

theorem readCopy_keeps {cls : Nat} {fmt : Nat} {x : Page} {s : State} : s.Keeps (readCopy cls fmt x s).2 := by
  unfold readCopy
  extract_lets _ r
  have hr : s.Keeps r.2 := readStored_keeps.after (kept.ite .refl drainCodec_keeps)
  split
  · exact hr
  · split
    · exact hr
    · exact bumpBy_keeps.after hr
    · exact hr

theorem readHeld_keeps {p : PageRef} {s : State} : s.Keeps (readHeld p s) := by
  unfold readHeld
  split
  · extract_lets
    split
    · exact .refl
    · split
      · exact readCopy_keeps
      · exact pageUnreadable_keeps.after readCopy_keeps
  · exact .refl

/-! ## Machine/Append.lean -/

theorem answerAppend_keeps {src : AppendSrc} {d : AppendDesc} {o : AppendOut} {s : State} : s.Keeps (answerAppend src d o s) := by
  unfold answerAppend
  extract_lets
  split
  · exact settle_keeps.after sendReply_keeps
  · exact complete_keeps

theorem readRepeat_keeps {r : SpanRec} {layer : Nat} {head : Nat} {token : Nat} {s : State} :
    s.Keeps (readRepeat r layer head token s) := by
  unfold readRepeat
  split
  · exact kept.ite (kept.foldl (fun _ _ => readRange_keeps)) .refl
  · exact .refl

theorem readRepeats_keeps {r : SpanRec} {d : AppendDesc} {s : State} : s.Keeps (readRepeats r d s) :=
  (kept.foldl (fun _ _ => (kept.foldl (fun _ _ => kept.ite readRepeat_keeps .refl))))

theorem pagePc_keeps {v : VId} {used : List Nat} {s : State} : s.Keeps (pagePc v used s).2 := by
  unfold pagePc
  extract_lets
  split
  · exact takeFree_keeps
  · split
    · exact takeFree_keeps
    · exact takeFree_keeps

theorem openPage_keeps {rec : FrameId} {layer head page : Nat} {f : FrameId} {b : Bool} {s t : State}
    (h : openPage rec layer head page s = some (f, b, t)) : s.Keeps t := by
  unfold openPage at h
  split at h
  · cases h
  · extract_lets enter q at h
    have hq : s.Keeps q.2 := by
      unfold q
      split
      · exact .refl
      · exact pagePc_keeps
    have enters (g : FrameId) {u : State} : u.Keeps (enter g u) :=
      updSpan_keeps.after (setFrameState_keeps.after writeHeader_keeps)
    split at h
    · cases h
      exact (enters _).after (updSpan_keeps.after (allocIn_keeps.after hq))
    · split at h
      · cases h
        exact (enters _).after (bump_keeps.after (oweSpare_keeps.after hq))
      · cases h

theorem freeAppend_keeps {job : Nat} {s : State} : s.Keeps (freeAppend job s) := .only rfl

theorem writeRow_keeps {rec : FrameId} {layer head : Nat} {x : StoredRow} {s : State} : s.Keeps (writeRow rec layer head x s).1 := by
  have queued {t : State} {q : List SealItem} : t.Keeps { t with sealQueue := q } := .only rfl
  unfold writeRow
  split
  · exact .refl
  · next r _ =>
    extract_lets t page slot opened
    have found {f : FrameId} {b : Bool} {u : State} (e : opened = some (f, b, u)) : s.Keeps u := by
      unfold opened at e
      split at e
      · exact openPage_keeps e
      · split at e
        · split at e
          · cases e
            exact .refl
          · cases e
        · cases e
    clear_value opened
    split
    · exact .refl
    · next f b u e =>
      have hu := found rfl
      extract_lets s₁ s₂ full
      have hs₂ : s.Keeps s₂ := updSpan_keeps.after (setTokenCount_keeps.after (writeSlot_keeps.after hu))
      clear_value s₂
      exact kept.ite (queued.after hs₂) hs₂

theorem writeRows_keeps {rec : FrameId} {layer : Nat} {head : Nat} {xs : List StoredRow} {s : State} :
    s.Keeps (writeRows rec layer head xs s).1 := by
  induction xs generalizing rec layer head s with
  | nil => exact .refl
  | cons x r ih =>
        unfold writeRows
        exact ih.after writeRow_keeps

theorem writeHeads_keeps {rec : FrameId} {d : AppendDesc} {r : SpanRec} {xs : List (Nat × List StoredRow)} {s : State} :
    s.Keeps (writeHeads rec d r xs s).1 := by
  induction xs generalizing rec d r s with
  | nil => exact .refl
  | cons x r ih =>
        unfold writeHeads
        exact ih.after writeRows_keeps

theorem copyPage_keeps {r : SpanRec} {key : Nat × Nat × Nat} {bs : List Byte} {handle : Handle} {shared : Bool} {st : FrameState}
    {f : FrameId} {s t : State} (h : copyPage r key bs handle shared st s = some (f, t)) : s.Keeps t := by
  unfold copyPage at h
  split at h
  · cases h
  · next e =>
    cases h
    exact writeHeader_keeps.after (hbmWrite_keeps.after (allocAny_keeps e))

theorem copyOpen_keeps {r : SpanRec} {handle : Handle} {shared : Bool} {xs : List ((Nat × Nat × Nat) × Page)} {s : State} :
    s.Keeps (copyOpen r handle shared xs s).2 := by
  induction xs generalizing r handle shared s with
  | nil => exact .refl
  | cons x r ih =>
    unfold copyOpen
    split
    · split
      · next f s₁ e =>
          exact ih.after (copyPage_keeps e)
      · exact ih
    · exact ih

/-- A sealed page shared by the copy of a record is held once more. -/
theorem holdShared_keeps {ps : List ((Nat × Nat × Nat) × Page)} {s : State} :
    s.Keeps (ps.foldl (fun s p => match p.2.loc with
      | .frame g _ => updFrame g (fun x => { x with refs := x.refs + 1 }) s
      | _ => s) s) := by
  refine kept.foldl (fun _ _ => ?_)
  split
  · exact updFrame_keeps
  · exact .refl

theorem copyOnWrite_keeps {r : SpanRec} {handle : Handle} {f : FrameId} {s t : State} (h : copyOnWrite r handle s = some (f, t)) :
    s.Keeps t := by
  have entered {u : State} {x : Tbl FrameId SpanRec} : u.Keeps { u with spans := x } := .only rfl
  unfold copyOnWrite at h
  split at h
  · cases h
  · next a e =>
    cases h
    exact bump_keeps.after (acceptInsert_keeps.after (deleteWhere_keeps.after ((kept.foldl (fun _ _ => addLost_keeps)).after
      (entered.after (copyOpen_keeps.after (holdShared_keeps.after (newMapFrame_keeps e)))))))

theorem readPages_keeps {p : Page → Bool} {f : FrameId} {s : State} : s.Keeps (readPages p f s) := by
  unfold readPages
  split
  · exact .refl
  · exact kept.foldl (fun _ _ => readHeld_keeps)

theorem mirrorWhole_keeps {f : FrameId} {s : State} : s.Keeps (mirrorWhole f s) := by
  unfold mirrorWhole
  extract_lets s₁
  have hs₁ : s.Keeps s₁ := by
    unfold s₁
    split
    · exact kept.ite readPages_keeps .refl
    · exact .refl
  split
  · exact hs₁
  · exact (kept.foldl (fun _ _ => toTwin_keeps)).after hs₁

theorem contribute_keeps {p : PageRef} {s : State} : s.Keeps (contribute p s) := by
  unfold contribute
  extract_lets _ s₁
  have hs₁ : s.Keeps s₁ := kept.ite readHeld_keeps .refl
  split
  · extract_lets
    split
    · exact kept.ite hs₁ (takeStripe_spares.keeps.after (sendPeer_spares.keeps.after (sendPeer_spares.keeps.after hs₁)))
    · exact hs₁
  · exact hs₁

theorem contributeAll_keeps {f : FrameId} {s : State} : s.Keeps (contributeAll f s) := by
  unfold contributeAll
  split
  · exact .refl
  · exact kept.foldl (fun _ _ => contribute_keeps)

theorem afterRows_keeps {rec : FrameId} {d : AppendDesc} {s : State} : s.Keeps (afterRows rec d s) := by
  unfold afterRows
  extract_lets
  split
  · exact .refl
  · extract_lets s₂
    have hs₂ : s.Keeps s₂ := by
      unfold s₂
      split
      · split
        · split
          · exact sendPeer_spares.keeps.after updSpan_keeps
          · exact updSpan_keeps
        · exact updSpan_keeps
      · exact .refl
    exact dropLowerSpare_keeps.after hs₂

theorem applyRows_keeps {src : AppendSrc} {d : AppendDesc} {rec : FrameId} {r : SpanRec} {shared : Bool} {rows : List (List StoredRow)}
    {cmp : List (Nat × Nat × Compared)} {s : State} : s.Keeps (applyRows src d rec r shared rows cmp s) := by
  unfold applyRows
  extract_lets cow target
  have found {f : FrameId} {u : State} (e : target = some (f, u)) : s.Keeps u := by
    unfold target at e
    split at e
    · exact copyOnWrite_keeps e
    · cases e
      exact .refl
  clear_value target
  split
  · exact answerAppend_keeps.after bump_keeps
  · next f u e =>
    have hu := found rfl
    extract_lets _ _ s₁ _ _ s₂ s₃ s₄ s₅ s₆ s₇ s₈ _ s₉
    have hs₂ : s.Keeps s₂ := bumpBy_keeps.after (writeHeads_keeps.after hu)
    have hs₃ : s.Keeps s₃ := kept.ite hs₂ (bumpBy_keeps.after hs₂)
    have hs₄ : s.Keeps s₄ := kept.ite hs₃ (bumpBy_keeps.after hs₃)
    have hs₅ : s.Keeps s₅ := kept.ite (bump_keeps.after hs₄) hs₄
    have hs₆ : s.Keeps s₆ := kept.ite (contributeAll_keeps.after hs₅) hs₅
    have hs₇ : s.Keeps s₇ := kept.ite (mirrorSpan_keeps.after hs₆) hs₆
    have hs₈ : s.Keeps s₈ := afterRows_keeps.after hs₇
    exact answerAppend_keeps.after (kept.ite (logFrom_keeps.after (bump_keeps.after hs₈)) hs₈)

theorem linkFailed_keeps {f : FrameId} {s : State} : s.Keeps (linkFailed f s) := logFrom_keeps

theorem applyLinked_keeps {src : AppendSrc} {d : AppendDesc} {rec : FrameId} {r : SpanRec} {shared : Bool}
    {rows : List (List StoredRow)} {cmp : List (Nat × Nat × Compared)} {links : Nat} {s : State} :
    s.Keeps (applyLinked src d rec r shared rows cmp links s) := by
  unfold applyLinked
  extract_lets
  split
  · exact kept.ite (answerAppend_keeps.after (linkFailed_keeps.after bumpAt_keeps)) (applyRows_keeps.after bumpAt_keeps)
  · exact applyRows_keeps

theorem sendSync_keeps {src : AppendSrc} {bs : List Byte} {d : AppendDesc} {rec : FrameId} {r : SpanRec} {k : Knobs} {links : Nat}
    {msgs : List (NodeId × Bool × PeerBody)} {s : State} : s.Keeps (sendSync src bs d rec r k links msgs s) := by
  unfold sendSync
  extract_lets _ x
  have hx : s.Keeps x := addJob_keeps
  exact (kept.foldl (fun _ _ => sendPeer_spares.keeps)).after (hx.trans (.only rfl))

theorem waitForLag_keeps {src : AppendSrc} {bs : List Byte} {d : AppendDesc} {rec : FrameId} {k : Knobs} {links : Nat} {s : State} :
    s.Keeps (waitForLag src bs d rec k links s) := by
  unfold waitForLag
  extract_lets _ x
  have hx : s.Keeps x := addJob_keeps
  exact hx.trans (.only rfl)

theorem readNeeded_keeps {rec : FrameId} {r : SpanRec} {d : AppendDesc} {cow : Bool} {s : State} : s.Keeps (readNeeded rec r d cow s) :=
  kept.ite readRepeats_keeps (readPages_keeps.after readRepeats_keeps)

theorem appendChecked.appendMirror_keeps {src : AppendSrc} {bs : List Byte} {d : AppendDesc} {rec : FrameId} {r : SpanRec}
    {shared : Bool} {k : Knobs} {mirrored : Bool} {rows : List (List StoredRow)} {cmp : List (Nat × Nat × Compared)} {links : Nat}
    {s : State} : s.Keeps (appendChecked.appendMirror src bs d rec r shared k mirrored rows cmp links s) := by
  unfold appendChecked.appendMirror
  extract_lets _ _ _ s₁
  have hs₁ : s.Keeps s₁ := (kept.foldl (fun s₂ _ => by
    split
    · exact sendPeer_spares.keeps
    · exact kept.ite updVn_keeps sendPeer_spares.keeps))
  split
  · exact applyLinked_keeps
  · exact kept.ite sendSync_keeps (kept.ite waitForLag_keeps (applyLinked_keeps.after hs₁))

theorem appendChecked_keeps {src : AppendSrc} {bs : List Byte} {d : AppendDesc} {rec : FrameId} {r : SpanRec} {shared : Bool}
    {k : Knobs} {mirrored : Bool} {u : Upsets} {s : State} : s.Keeps (appendChecked src bs d rec r shared k mirrored u s) := by
  unfold appendChecked
  extract_lets _ _ _ _ s₁ _ e₁
  have hs₁ : s.Keeps s₁ := kept.ite .refl readNeeded_keeps
  have he₁ : s.Keeps e₁.2 := takeEstimate_keeps.after hs₁
  split
  · exact answerAppend_keeps
  · split
    · exact answerAppend_keeps
    · split
      · exact answerAppend_keeps
      · split
        · exact answerAppend_keeps.after takeEstimate_keeps
        · split
          · exact answerAppend_keeps
          · split
            · exact answerAppend_keeps.after bump_keeps
            · extract_lets
              split
              · exact answerAppend_keeps.after he₁
              · split
                · exact answerAppend_keeps.after (logFrom_keeps.after (bump_keeps.after hs₁))
                · split
                  · exact answerAppend_keeps.after hs₁
                  · split
                    · exact kept.ite (answerAppend_keeps.after he₁) (answerAppend_keeps.after (bump_keeps.after hs₁))
                    · split
                      · exact answerAppend_keeps.after (noteRefused_keeps.after hs₁)
                      · exact appendChecked.appendMirror_keeps.after hs₁

theorem appendFrom_keeps {src : AppendSrc} {i : Instr} {bs : List Byte} {k : Knobs} {mirrored : Bool} {order : Option Nat} {u : Upsets}
    {s : State} : s.Keeps (appendFrom src i bs k mirrored order u s) := by
  unfold appendFrom
  extract_lets
  split
  · exact deferAt_spares.keeps
  · split
    · exact kept.ite (deferAt_spares.keeps.after findSpanFor_spares.keeps) (answerAppend_keeps.after findSpanFor_spares.keeps)
    · exact answerAppend_keeps.after findSpanFor_spares.keeps
    · split
      · exact answerAppend_keeps.after findSpanFor_spares.keeps
      · split
        · exact answerAppend_keeps.after findSpanFor_spares.keeps
        · split
          · exact deferAt_spares.keeps.after findSpanFor_spares.keeps
          · exact kept.ite (deferAt_spares.keeps.after findSpanFor_spares.keeps) (appendChecked_keeps.after findSpanFor_spares.keeps)

theorem appendMsgRow_keeps {m : Msg} {payload : List Byte} {u : Upsets} {s : State} :
    Leads State.Keeps s (appendMsgRow m payload u s) := by
  unfold appendMsgRow
  extract_lets
  exact kept.onMsg (fun s₁ => by
    split
    · exact rejectMsg_keeps
    · split
      · exact answerAppend_keeps.after bumpV_keeps
      · split
        · exact answerAppend_keeps
        · exact kept.ite (answerAppend_keeps.after bumpV_keeps) (appendFrom_keeps.after applyDirUpsets_spares.keeps))

theorem kvAppendRow_keeps {c : Cmd} {payload : List Byte} {u : Upsets} {s : State} : Leads State.Keeps s (kvAppendRow c payload u s) :=
  kept.runVerb (fun s₁ => by
    split
    · exact kept.later answerAppend_keeps
    · split
      · exact .refl
      · exact kept.later (appendFrom_keeps.after applyDirUpsets_spares.keeps))

theorem execSpareReplenish_keeps {s : State} : Leads State.Keeps s (execSpareReplenish s) :=
  kept.onNode (fun s₁ => by
    split
    · exact takeSpare_keeps
    · exact .refl)

theorem samplePage_keeps {fmt : Nat} {payload : List Byte} {s : State} : s.Keeps (samplePage fmt payload s) :=
  kept.ite .refl (.only rfl)

theorem sealPage_keeps {p : PageRef} {s : State} : s.Keeps (sealPage p s) := by
  unfold sealPage
  split
  · split
    · extract_lets _ x _ _ _ _ _ _ _ s₄
      have hx : s.Keeps x := readFrameNormal_keeps
      have hs₄ : s.Keeps s₄ := samplePage_keeps.after (bump_keeps.after (updPage_keeps.after (setFrameState_keeps.after
        (writeHeader_keeps.after hx))))
      exact kept.ite .refl (kept.ite (kept.ite (hx.trans (.only rfl)) readFrameNormal_keeps) (contribute_keeps.after
        (kept.ite hs₄ (toTwin_keeps.after (kept.ite (mirrorSpan_keeps.after hs₄) hs₄)))))
    · exact .refl
  · exact .refl

theorem pageSealRow_keeps {s : State} : Leads State.Keeps s (pageSealRow s) :=
  kept.onNode (fun s₁ => by
    split
    · exact .refl
    · exact settle_keeps.after (sealPage_keeps.after (.only rfl)))

theorem installSigma_keeps {v : VId} {h : Handle} {l : Nat} {hd : Nat} {sigma : List (BitVec 32)} {s : State} :
    s.Keeps (installSigma v h l hd sigma s) :=
  (kept.foldl (fun _ _ => sendPeer_spares.keeps)).after ((kept.foldl (fun _ _ => mirrorSpan_keeps.after updSpan_keeps)))

theorem smoothEnd_keeps {v : VId} {h : Handle} {l : Nat} {hd : Nat} {asked : List NodeId} {sigma : Option (List (BitVec 32))}
    {s : State} : s.Keeps (smoothEnd v h l hd asked sigma s) := by
  unfold smoothEnd
  extract_lets s₁
  have hs₁ : s.Keeps s₁ := by
    unfold s₁
    split
    · extract_lets
      split
      · exact mirrorSeq_keeps.after (updSeq_keeps.after installSigma_keeps)
      · exact installSigma_keeps
    · exact .refl
  exact (kept.foldl (fun _ _ => sendPeer_spares.keeps)).after (freeLayer_spares.keeps.after hs₁)

theorem execKvSmooth_keeps {c : Cmd} {handle : Handle} {layer : BitVec 16} {head : BitVec 8} {sigma : List (BitVec 32)} {s : State} :
    Leads State.Keeps s (execKvSmooth c handle layer head sigma s) := by
  refine kept.runVerb (fun u => ?_)
  extract_lets bad v r s₁ me hl
  have hs₁ : u.Keeps s₁ := findHome_spares.keeps
  have hhl : u.Keeps hl.2 := holdLayer_spares.keeps.after hs₁
  clear_value bad hl
  split
  · exact kept.now .refl
  · split
    · exact holdForBank_spares.keeps.after hs₁
    · exact kept.now hs₁
    · split
      · exact kept.now hs₁
      · split
        · exact kept.later (defer_keeps.after hs₁)
        · split
          · exact kept.now hs₁
          · split
            · exact kept.now hs₁
            · extract_lets
              split
              · exact kept.now (smoothEnd_keeps.after hhl)
              · exact kept.later ((kept.foldl (fun _ _ => sendPeer_spares.keeps)).after (addJob_keeps.after hhl))

theorem smoothReport_keeps {id : Nat} {n : NodeId} {fill : Nat} {s : State} : s.Keeps (smoothReport id n fill s) := by
  unfold smoothReport
  split
  · exact kept.ite (complete_keeps.after (smoothEnd_keeps.after endJob_keeps)) setJob_keeps
  · exact .refl

theorem copyShared_keeps {r : SpanRec} {handle : Handle} {xs : List ((Nat × Nat × Nat) × Page)} {s : State} :
    s.Keeps (copyShared r handle xs s).2 := by
  induction xs generalizing r handle s with
  | nil => exact .refl
  | cons x r ih =>
    unfold copyShared
    split
    · extract_lets
      split
      · exact ih
      · next f s₁ e =>
          have ht : s.Keeps _ := (copyPage_keeps e)
          exact ih.after (kept.ite (writeHeader_keeps.after ht) ht)
    · exact ih

theorem whenEntered_keeps {c : Cmd} {e : DirEntry} {s : State} : s.Keeps (whenEntered c e s) := addJob_keeps.after acceptInsert_keeps

theorem spanAliasRow_keeps {c : Cmd} {p : AliasBlk} {s : State} : Leads State.Keeps s (spanAliasRow c p s) :=
  kept.runVerb (fun _ => linkDone_keeps (fun _ => kept.withParams (fun s₃ => by
    extract_lets
    split
    · exact holdForBank_spares.keeps.after findSpan_spares.keeps
    · exact kept.now findSpan_spares.keeps
    · extract_lets s₅
      have hs₅ : s₃.Keeps s₅ := kept.ite findSpan_spares.keeps (readPages_keeps.after findSpan_spares.keeps)
      split
      · exact kept.now findSpan_spares.keeps
      · extract_lets
        split
        · exact kept.now hs₅
        · split
          · exact kept.now hs₅
          · split
            · exact kept.now hs₅
            · split
              · exact kept.now (takeEstimate_keeps.after hs₅)
              · split
                · exact kept.now (noteRefused_keeps.after hs₅)
                · split
                  · exact kept.now (bump_keeps.after hs₅)
                  · split
                    · exact kept.now (bump_keeps.after hs₅)
                    · next f s₆ e₁ =>
                        have hs₆ : s₃.Keeps _ := (newMapFrame_keeps e₁).after hs₅
                        extract_lets _ _ x
                        have hx : s₃.Keeps x := (copyShared_keeps.after hs₆)
                        exact kept.later (whenEntered_keeps.after (hx.trans (.only rfl))))))

/-! ## Machine/Runner.lean -/

theorem failSeq_keeps {stack : Nat} {pc : Nat} {tag : BitVec 8} {mark : RnStatus → RnStatus} {s : State} :
    s.Keeps (failSeq stack pc tag mark s) := by
  unfold failSeq
  extract_lets
  split
  · exact updRnStatus_spares.keeps
  · extract_lets s₂
    have hs₂ : s.Keeps s₂ := setSeq_spares.keeps.after updRnStatus_spares.keeps
    refine issueOwed_spares.keeps.after ?_
    split
    · exact failReq_keeps.after hs₂
    · exact hs₂

theorem meetReg_keeps {e : RegUpset} {s : State} : s.Keeps (meetReg e s) :=
  kept.ite ((kept.foldl (fun _ _ => failSeq_keeps)).after bumpAt_keeps) bumpAt_keeps

theorem meetRegs_keeps {stack : Nat} {k : RnCmd} {u : Upsets} {s : State} : s.Keeps (meetRegs stack k u s).2 :=
  kept.foldl (fun _ _ => meetReg_keeps)

theorem stepDone_keeps {stack : Nat} {k : RnCmd} {s : State} : s.Keeps (stepDone stack k s) :=
  updRnStatus_spares.keeps.after bumpAt_keeps

theorem readSweep_keeps {w : Reader} {stack : Nat} {k : RnCmd} {s : State} : s.Keeps (readSweep w stack k s).2 := by
  unfold readSweep
  extract_lets _ _ _ s₁
  have hs₁ : s.Keeps s₁ := updRnStatus_spares.keeps.after readCodewords_keeps
  split
  · exact hs₁
  · exact handleAll_keeps.after (failSeq_keeps.after hs₁)

theorem rnReadStep_keeps {stack : Nat} {k : RnCmd} {u : Upsets} {f : List Byte → State → State} {s : State}
    (h : ∀ bs (t : State), t.Keeps (f bs t)) : s.Keeps (rnReadStep stack k u f s) := by
  unfold rnReadStep
  extract_lets g r
  have hg : s.Keeps g.2 := meetRegs_keeps.after applyHbmUpsets_keeps
  have hr : s.Keeps r.2 := readSweep_keeps.after hg
  exact kept.ite hg (stepDone_keeps.after (kept.ite ((h _ _).after hr) hr))

theorem execRnNop_keeps {stack : BitVec 3} {k : RnCmd} {s : State} : Leads State.Keeps s (execRnNop stack k s) :=
  kept.onRunner (fun _ => .refl)

theorem execRnQload_keeps {stack : BitVec 3} {k : RnCmd} {rows : List (List (BitVec 32))} {s : State} :
    Leads State.Keeps s (execRnQload stack k rows s) :=
  kept.onRunner (fun _ => kept.ite .refl (meetRegs_keeps.after (setSeq_spares.keeps.after updRunner_spares.keeps)))

theorem execRnScale_keeps {stack : BitVec 3} {k : RnCmd} {u : Upsets} {s : State} : Leads State.Keeps s (execRnScale stack k u s) :=
  kept.onRunner (fun _ => rnReadStep_keeps (fun _ _ => updRunner_spares.keeps))

theorem execRnScore_keeps {stack : BitVec 3} {k : RnCmd} {u : Upsets} {s : State} : Leads State.Keeps s (execRnScore stack k u s) :=
  kept.onRunner (fun _ => rnReadStep_keeps (fun _ _ => updRunner_spares.keeps.after (.only rfl)))

theorem execRnWload_keeps {stack : BitVec 3} {k : RnCmd} {s : State} : Leads State.Keeps s (execRnWload stack k s) :=
  kept.onRunner (fun _ => kept.ite (updRunner_spares.keeps.after meetRegs_keeps) meetRegs_keeps)

theorem execRnWeigh_keeps {stack : BitVec 3} {k : RnCmd} {u : Upsets} {s : State} : Leads State.Keeps s (execRnWeigh stack k u s) :=
  kept.onRunner (fun _ => rnReadStep_keeps (fun _ _ => updRunner_spares.keeps.after (.only rfl)))

theorem endContext_keeps {stack : Nat} {pc : Nat} {c : Nat} {tag : BitVec 8} {s : State} : s.Keeps (endContext stack pc c tag s) := by
  unfold endContext
  split
  · exact issueOwed_spares.keeps
  · exact kept.ite setSeq_spares.keeps (issueOwed_spares.keeps.after updRunner_spares.keeps)

theorem takeDrain_keeps {stack : Nat} {k : RnCmd} {rows : List (List (BitVec 32))} {s : State} :
    s.Keeps (takeDrain stack k rows s) := by
  unfold takeDrain
  extract_lets
  split
  · exact .refl
  · split
    · exact .refl
    · exact kept.ite .refl (.only rfl)

theorem execRnDrain_keeps {stack : BitVec 3} {k : RnCmd} {s : State} : Leads State.Keeps s (execRnDrain stack k s) :=
  kept.onRunner (fun _ => kept.ite meetRegs_keeps (endContext_keeps.after (updRunner_spares.keeps.after (emit_keeps.after
    (takeDrain_keeps.after meetRegs_keeps)))))

theorem startWrite_keeps {stack : Nat} {k : RnCmd} {s : State} : s.Keeps (startWrite stack k s) :=
  kept.ite .refl (setSeq_spares.keeps.after updRnStatus_spares.keeps)

theorem writeSweep_keeps {stack : Nat} {k : RnCmd} {a : Nat} {bs : List Byte} {u : Upsets} {s : State} :
    s.Keeps (writeSweep stack k a bs u s) := by
  unfold writeSweep
  extract_lets s₁
  have hs₁ : s.Keeps s₁ := kept.ite bumpAt_keeps .refl
  exact kept.ite (hbmWrite_keeps.after (failSeq_keeps.after (logFrom_keeps.after hs₁))) (hbmWrite_keeps.after hs₁)

theorem rnWriteStep_keeps {stack : Nat} {k : RnCmd} {u : Upsets} {f : State → State} {s : State} (h : ∀ t : State, t.Keeps (f t)) :
    s.Keeps (rnWriteStep stack k u f s) := by
  unfold rnWriteStep
  extract_lets g
  have hg : s.Keeps g.2 := meetRegs_keeps.after (startWrite_keeps.after applyHbmUpsets_keeps)
  exact kept.ite (stepDone_keeps.after ((h _).after hg)) hg

theorem execRnFill_keeps {stack : BitVec 3} {k : RnCmd} {u : Upsets} {s : State} : Leads State.Keeps s (execRnFill stack k u s) :=
  kept.onRunner (fun _ => rnWriteStep_keeps (fun _ => writeSweep_keeps))

theorem execRnCopy_keeps {stack : BitVec 3} {k : RnCmd} {u : Upsets} {s : State} : Leads State.Keeps s (execRnCopy stack k u s) :=
  kept.onRunner (fun _ => rnWriteStep_keeps (fun _ => kept.ite readSweep_keeps (writeSweep_keeps.after readSweep_keeps)))

theorem noteScrub_keeps {a : Nat} {n : Nat} {s : State} : s.Keeps (noteScrub a n s) := by
  unfold noteScrub
  extract_lets s₁
  have hs₁ : s.Keeps s₁ := (kept.foldl (fun _ _ => bumpAt_keeps))
  split
  · exact logFrom_keeps.after (bumpAt_keeps.after hs₁)
  · exact hs₁

theorem scrubRange_keeps {a : Nat} {n : Nat} {s : State} : s.Keeps (scrubRange a n s).2 :=
  (kept.foldl (fun _ _ => writeBack_keeps)).after (readRange_keeps.after noteScrub_keeps)

theorem execRnScrub_keeps {stack : BitVec 3} {k : RnCmd} {u : Upsets} {s : State} : Leads State.Keeps s (execRnScrub stack k u s) := by
  unfold execRnScrub
  extract_lets
  exact kept.onRunner (fun _ => rnWriteStep_keeps (fun s₂ => by
    extract_lets _ _ r
    have hr : s₂.Keeps r.2 := scrubRange_keeps.after updRnStatus_spares.keeps
    exact kept.ite hr (failSeq_keeps.after hr)))

theorem countLevel_keeps {n : Nat} {s : State} : s.Keeps (countLevel n s) := by
  unfold countLevel
  extract_lets
  split
  · exact bumpAt_keeps
  · exact .refl

theorem meetLevel_keeps {n : Nat} {level : Nat} {s : State} : s.Keeps (meetLevel n level s) := .only rfl

theorem setLevel_keeps {n : Nat} {level : Nat} {s : State} : s.Keeps (setLevel n level s) :=
  kept.ite .refl (logFrom_keeps.after (meetLevel_keeps.after (updStack_spares.keeps.after countLevel_keeps)))

theorem runHeldStep_keeps {i : Instr} {s : State} : s.Keeps (runHeldStep i s) := by
  unfold runHeldStep
  extract_lets go
  have went {r : Res} (h : Leads State.Keeps s r) : s.Keeps (go r) := by
    unfold go
    split
    · exact h _ rfl
    · exact .refl
  split
  · exact went execRnNop_keeps
  · exact went execRnQload_keeps
  · exact went execRnScale_keeps
  · exact went execRnScore_keeps
  · exact went execRnWload_keeps
  · exact went execRnWeigh_keeps
  · exact went execRnDrain_keeps
  · exact went execRnFill_keeps
  · exact went execRnCopy_keeps
  · exact went execRnScrub_keeps
  · exact went execRnAbort_spares.keeps
  · exact went execRnStatus_spares.keeps
  · exact .refl

theorem resumeSteps_keeps {n : Nat} {s : State} : s.Keeps (resumeSteps n s) := by
  unfold resumeSteps
  extract_lets _ s₁
  have hs₁ : s.Keeps s₁ := .only rfl
  exact (kept.foldl (fun _ _ => runHeldStep_keeps)).after hs₁

theorem sensorRow_keeps {stack : BitVec 3} {temp : Int} {power : Nat} {quietMs : Bool} {s : State} :
    Leads State.Keeps s (sensorRow stack temp power quietMs s) := by
  unfold sensorRow
  extract_lets
  exact kept.onNode (fun s₁ => by
    extract_lets _ s₂ _ _ s₃
    have hs₂ : s₁.Keeps s₂ := alertTemp_keeps.after updStack_spares.keeps
    have hs₃ : s₁.Keeps s₃ := setLevel_keeps.after hs₂
    split
    · exact setLevel_keeps.after hs₂
    · exact kept.ite (kept.ite (resumeSteps_keeps.after hs₃) hs₃) hs₂)

/-! ## Machine/Query.lean -/

theorem findMasks_keeps {snap : Option Snapshot} {v : VId} {h : Handle} {spans : List Nat} {s : State} :
    s.Keeps (findMasks snap v h spans s).2 := by
  induction spans generalizing s with
  | nil => exact .refl
  | cons x r ih =>
    unfold findMasks
    extract_lets q
    have hq : s.Keeps q.2 := by
      unfold q
      split
      · exact .refl
      · exact findMask_keeps
    split
    · exact ih.after hq
    · exact hq

theorem startRebuilds_keeps {ps : List (ReqPage × Page)} {s : State} : s.Keeps (startRebuilds ps s) :=
  (kept.foldl (fun _ _ => kept.ite (askOther_keeps.after awaitPage_keeps) .refl))

theorem checkPages_keeps {dest : ReqDest} {v : VId} {d : QDesc} {rows : List (List F32)} {k : Knobs} {ep : BitVec 16} {stall : Nat}
    {snap : Option Snapshot} {spans : List (Nat × FrameId)} {masks : List (Nat × FrameId × Nat)} {s : State} :
    s.Keeps (checkPages dest v d rows k ep stall snap spans masks s).2 := by
  unfold checkPages
  extract_lets
  split
  · exact .refl
  · extract_lets
    split
    · exact .refl
    · split
      · exact .refl
      · split
        · exact .refl
        · split
          · exact takeEstimate_keeps.after startRebuilds_keeps
          · exact (kept.foldl (fun _ _ => updPage_keeps))

theorem checkDesc_keeps {dest : ReqDest} {v : VId} {d : QDesc} {rows : List (List F32)} {k : Knobs} {ep : BitVec 16} {stall : Nat}
    {snap : Option Snapshot} {s : State} : s.Keeps (checkDesc dest v d rows k ep stall snap s).2 := by
  unfold checkDesc
  extract_lets _ _ m
  have hm : s.Keeps m.2 := findMasks_keeps.after findSpans_spares.keeps
  split
  · exact findSpans_spares.keeps
  · extract_lets
    split
    · exact findSpans_spares.keeps
    · split
      · exact checkPages_keeps.after findSpans_spares.keeps
      · split
        · exact hm
        · exact checkPages_keeps.after hm

theorem enterPromotion_keeps {p : PageRef} {n : Nat} {fmt : Nat} {digest : List Byte} {ids : List Nat} {bypass : Bool} {s : State} :
    s.Keeps (enterPromotion p n fmt digest ids bypass s) :=
  queueBlocks_keeps.after (.only rfl)

theorem startPromotion_keeps {id : Nat} {fmt : Nat} {v : VId} {p : ReqPage} {n : Nat} {s : State} :
    s.Keeps (startPromotion id fmt v p n s) := by
  unfold startPromotion
  extract_lets
  split
  · extract_lets s₂
    have hs₂ : s.Keeps s₂ := kept.ite bump_keeps .refl
    exact hs₂.trans (.only rfl)
  · exact enterPromotion_keeps.after (kept.ite bump_keeps .refl)

theorem dispatchPage_keeps {id : Nat} {die : Bool} {fmt : Nat} {v : VId} {p : ReqPage} {s : State} :
    s.Keeps (dispatchPage id die fmt v p s).2 := by
  unfold dispatchPage
  extract_lets
  split
  · split
    · exact startPromotion_keeps
    · exact .refl
  · exact .refl

theorem dispatchPages_keeps {id : Nat} {die : Bool} {fmt : Nat} {v : VId} {ps : List ReqPage} {s : State} :
    s.Keeps (dispatchPages id die fmt v ps s).2 := by
  induction ps generalizing s with
  | nil => exact .refl
  | cons x r ih => exact ih.after dispatchPage_keeps

theorem fetchPage_keeps {fmt : Nat} {p : ReqPage} {s : State} : s.Keeps (fetchPage fmt p s).2.2 := by
  unfold fetchPage
  split
  · exact .refl
  · split
    · exact .refl
    · extract_lets
      split
      · exact readExtents_keeps
      · split
        · exact queueBlocks_keeps.after readExtents_keeps
        · exact bumpBy_keeps.after readExtents_keeps
        · exact readExtents_keeps

theorem fetchPages_keeps {fmt : Nat} {xs : List ReqPage} {s : State} : s.Keeps (fetchPages fmt xs s).2 := by
  induction xs generalizing fmt s with
  | nil => exact .refl
  | cons x r ih =>
    unfold fetchPages
    extract_lets
    split
    · exact ih.after fetchPage_keeps
    · exact fetchPage_keeps

theorem pushHistory_keeps {d : QDesc} {a : F32} {s : State} : s.Keeps (pushHistory d a s) := .only rfl

theorem putReq_keeps {id : Nat} {q : AttnReq} {s : State} : s.Keeps (putReq id q s) := .only rfl

theorem wakeEngines_keeps {q : AttnReq} {s : State} : s.Keeps (wakeEngines q s) := .only rfl

theorem imageFailed_keeps {p : ReqPage} {s : State} : s.Keeps (imageFailed p s) := by
  unfold imageFailed
  split
  · exact kept.ite pageUnreadable_keeps .refl
  · exact kept.ite pageUnreadable_keeps .refl
  · exact .refl

theorem failFetch_keeps {id : Nat} {p : ReqPage} {e : Fetch} {bad : List Nat} {s : State} : s.Keeps (failFetch id p e bad s) := by
  unfold failFetch
  extract_lets
  split
  · exact handleAll_keeps.after failReq_keeps
  · exact kept.ite (imageFailed_keeps.after failReq_keeps) (failReq_keeps.after (takeEstimate_keeps.after imageFailed_keeps))

theorem beginReq_keeps {id : Nat} {q : AttnReq} {s : State} : s.Keeps (beginReq id q s) := by
  unfold beginReq
  extract_lets _ s₂ s₃ _ r
  have hs₂ : s.Keeps s₂ := bump_keeps.after wakeEngines_keeps
  have hs₃ : s.Keeps s₃ := kept.ite hs₂ (bumpBy_keeps.after hs₂)
  have hr : s.Keeps r.2 := fetchPages_keeps.after (kept.ite (bump_keeps.after hs₃) hs₃)
  split
  · exact failFetch_keeps.after hr
  · exact putReq_keeps.after hr

theorem tryReserve_keeps {id : Nat} {s : State} : s.Keeps (tryReserve id s) := by
  unfold tryReserve
  split
  · exact kept.ite beginReq_keeps .refl
  · exact .refl

theorem reserveTo_keeps {id : Nat} {s : State} : s.Keeps (reserveTo id s) := by
  unfold reserveTo
  split
  · exact .refl
  · exact kept.foldl (fun _ _ => tryReserve_keeps)

theorem dispatchReq_keeps {id : Nat} {s : State} : s.Keeps (dispatchReq id s) := by
  unfold dispatchReq
  split
  · exact .refl
  · extract_lets _ _ _ s₁ s₂
    have hs₁ : s.Keeps s₁ := bump_keeps.after (dispatchPages_keeps.after (.only rfl))
    have hs₂ : s.Keeps s₂ := putReq_keeps.after (kept.ite (bump_keeps.after hs₁) hs₁)
    split
    · exact .refl
    · exact kept.ite (failReq_keeps.after (bump_keeps.after (takeEstimate_keeps.after hs₂))) (reserveTo_keeps.after hs₂)

theorem refuseDesc_keeps {dest : ReqDest} {v : VId} {d : QDesc} {st : Status} {node : Option NodeId} {hint : Nat} {s : State} :
    s.Keeps (refuseDesc dest v d st node hint s) := by
  unfold refuseDesc
  extract_lets
  split
  · exact deliver_spares.keeps
  · exact fanAnswer_keeps

theorem holdDesc_keeps {id : Nat} {dest : ReqDest} {v : VId} {d : QDesc} {rows : List (List F32)} {k : Knobs} {ep : BitVec 16}
    {stall : Nat} {snap : Snapshot} {s : State} : s.Keeps (holdDesc id dest v d rows k ep stall snap s) :=
  .only rfl

theorem admitDesc_keeps {id : Nat} {dest : ReqDest} {v : VId} {d : QDesc} {rows : List (List F32)} {k : Knobs} {ep : BitVec 16}
    {stall : Nat} {snap : Option Snapshot} {s : State} : s.Keeps (admitDesc id dest v d rows k ep stall snap s) := by
  unfold admitDesc
  extract_lets
  split
  · exact refuseDesc_keeps.after checkDesc_keeps
  · exact holdDesc_keeps.after checkDesc_keeps
  · exact putReq_keeps.after checkDesc_keeps

theorem takeId_keeps {s : State} : s.Keeps (takeId s).2 := .only rfl

theorem dispatchBatch_keeps {b : Nat} {s : State} : s.Keeps (dispatchBatch b s) :=
  kept.ite .refl ((kept.foldl (fun _ _ => dispatchReq_keeps)))

theorem serveDescs_keeps {batch : Nat} {v : VId} {k : Knobs} {ep : BitVec 16} {epOk : Bool} {stall : Nat}
    {ds : List (QDesc × List Byte)} {s : State} : s.Keeps (serveDescs batch v k ep epOk stall ds s) := by
  unfold serveDescs
  extract_lets s₁
  have hs₁ : s.Keeps s₁ := (kept.foldl (fun s₂ _ => by
    extract_lets
    split
    · exact refuseDesc_keeps
    · exact kept.ite (refuseDesc_keeps.after bumpV_keeps) (admitDesc_keeps.after takeId_keeps)))
  exact dispatchBatch_keeps.after hs₁

theorem openBatch_keeps {src : QuerySrc} {v : VId} {count : Nat} {s : State} : s.Keeps (openBatch src v count s).2 := .only rfl

theorem execAttnQuery_keeps {c : Cmd} {payload : List Byte} {u : Upsets} {s : State} :
    Leads State.Keeps s (execAttnQuery c payload u s) :=
  kept.runVerb (fun s₁ => by
    extract_lets
    split
    · exact .refl
    · extract_lets
      split
      · exact .refl
      · split
        · exact .refl
        · exact kept.later (serveDescs_keeps.after (openBatch_keeps.after applyUpsets_keeps)))

theorem refuseQuery_keeps {m : Msg} {payload : List Byte} {st : Status} {s : State} : s.Keeps (refuseQuery m payload st s) :=
  settle_keeps.after sendRecord_spares.keeps

theorem fenceDescs_keeps {m : Msg} {stride : Nat} {ds : List (QDesc × List Byte)} {s : State} : s.Keeps (fenceDescs m stride ds s) :=
  (kept.foldl (fun _ _ => refuseDesc_keeps.after bumpV_keeps)).after openBatch_keeps

theorem execQuery_keeps {m : Msg} {payload : List Byte} {u : Upsets} {s : State} : Leads State.Keeps s (execQuery m payload u s) := by
  unfold execQuery
  extract_lets
  exact kept.onMsg (fun s₁ => by
    extract_lets
    split
    · exact rejectMsg_keeps
    · split
      · exact refuseQuery_keeps.after (kept.ite bumpV_keeps .refl)
      · extract_lets
        split
        · exact refuseQuery_keeps.after (kept.ite bumpV_keeps .refl)
        · exact kept.ite fenceDescs_keeps (serveDescs_keeps.after (openBatch_keeps.after applyUpsets_keeps)))

theorem execAttnReserve_keeps {req : Nat} {s : State} : Leads State.Keeps s (execAttnReserve req s) :=
  kept.onNode (fun _ => reserveTo_keeps)

theorem execAttnAdmitTimeout_keeps {req : Nat} {s : State} : Leads State.Keeps s (execAttnAdmitTimeout req s) :=
  kept.onNode (fun s₁ => by
    extract_lets
    split
    · exact kept.ite (failReq_keeps.after (bump_keeps.after takeEstimate_keeps)) .refl
    · exact .refl)

theorem execPromoteStallExpiry_keeps {req : Nat} {s : State} : Leads State.Keeps s (execPromoteStallExpiry req s) :=
  kept.onNode (fun s₁ => by
    extract_lets
    split
    · exact kept.ite (failReq_keeps.after (bump_keeps.after takeEstimate_keeps)) .refl
    · exact .refl)

/-! ## Machine/Attend.lean -/

theorem noteSeqs_keeps {id : Nat} {stack : Nat} {pc : Nat} {n : Nat} {ue : Bool} {s : State} : s.Keeps (noteSeqs id stack pc n ue s) :=
  (kept.foldl (fun _ _ => kept.ite (issueOwed_spares.keeps.after
    (setSeq_spares.keeps.after updRnStatus_spares.keeps)) updRnStatus_spares.keeps))

theorem readAll_keeps {id : Nat} {rs : List PassRead} {s : State} : s.Keeps (readAll id rs s).2 := by
  induction rs generalizing s with
  | nil => exact .refl
  | cons x r ih =>
    unfold readAll
    extract_lets _ _ s₁
    have hs₁ : s.Keeps s₁ := by
      unfold s₁
      split
      · exact noteSeqs_keeps.after readCodewords_keeps
      · exact readCodewords_keeps
    split
    · exact ih.after hs₁
    · exact hs₁

theorem meetPass_keeps {id : Nat} {q : AttnReq} {value : Bool} {ps : List ReqPage} {u : Upsets} {s : State} :
    s.Keeps (meetPass id q value ps u s).2.2 :=
  (readAll_keeps.after ((kept.foldl (fun _ _ => meetReg_keeps)).after (meetLink_keeps.after applyUpsets_keeps)))

theorem failPass_keeps {id : Nat} {bad : List Nat} {s : State} : s.Keeps (failPass id bad s) := handleAll_keeps.after failReq_keeps

theorem overflowReq_keeps {id : Nat} {q : AttnReq} {s : State} : s.Keeps (overflowReq id q s) :=
  failReq_keeps.after (logFrom_keeps.after bump_keeps)

theorem chooseExponent_keeps {q : AttnReq} {a : F32} {sc : List (List (List (Nat × F32)))} {s : State} :
    s.Keeps (chooseExponent q a sc s).2 := by
  unfold chooseExponent
  extract_lets
  split
  · exact .refl
  · split
    · exact .refl
    · split
      · exact bump_keeps
      · split
        · exact kept.ite .refl bump_keeps
        · split
          · exact bump_keeps
          · exact .refl

theorem putWeights_keeps {id : Nat} {v : PageView} {ws : List (List F32)} {s : State} : s.Keeps (putWeights id v ws s) := by
  unfold putWeights
  extract_lets
  split
  · exact kept.foldl (fun _ _ => updRunner_spares.keeps)
  · exact .refl

theorem endKeyPass_keeps {id : Nat} {q : AttnReq} {s : State} : s.Keeps (endKeyPass id q s) := by
  unfold endKeyPass
  extract_lets _ _ _ s₁ _ _ c
  have hs₁ : s.Keeps s₁ := bumpBy_keeps.after (.only rfl)
  have hc : s.Keeps c.2 := chooseExponent_keeps.after hs₁
  split
  · exact overflowReq_keeps.after hs₁
  · exact kept.ite (overflowReq_keeps.after hc) (putReq_keeps.after ((kept.foldl (fun _ _ => putWeights_keeps)).after
    (bumpBy_keeps.after (kept.ite (pushHistory_keeps.after hc) hc))))

theorem expandFirst_keeps {req : Nat} {s : State} : s.Keeps (expandFirst req s) := kept.ite drainCodec_keeps .refl

theorem execKeyPassComplete_keeps {req : Nat} {u : Upsets} {s : State} : Leads State.Keeps s (execKeyPassComplete req u s) :=
  kept.onNode (fun s₁ => by
    extract_lets
    split
    · extract_lets r
      have hr : s₁.Keeps r.2.2 := meetPass_keeps.after expandFirst_keeps
      exact kept.ite (kept.ite (endKeyPass_keeps.after hr) (failPass_keeps.after hr)) expandFirst_keeps
    · exact expandFirst_keeps)

theorem endReaders_keeps {p : PageRef} {x : Page} {hash : List Byte} {s : State} : s.Keeps (endReaders p x hash s) :=
  (kept.foldl (fun s₁ _ => by
    split
    · exact failReq_keeps.after logCheckFail_spares.keeps
    · exact .refl)).after bump_keeps

theorem digestMismatch_keeps {p : PageRef} {hash : List Byte} {s : State} : s.Keeps (digestMismatch p hash s) := by
  unfold digestMismatch
  split
  · extract_lets
    split
    · exact endReaders_keeps
    · exact kept.ite (askOther_keeps.after (awaitPage_keeps.after endReaders_keeps)) (poisonPage_keeps.after endReaders_keeps)
  · exact .refl

theorem produce_keeps {id : Nat} {q : AttnReq} {rows : List RowPart} {s : State} : s.Keeps (produce id q rows s) := by
  unfold produce
  extract_lets _ _ _ ident _ first s₁ _ s₂
  have hs₁ : s.Keeps s₁ := bump_keeps
  have hs₂ : s.Keeps s₂ := hs₁.trans (.only rfl)
  clear_value ident first
  split
  · exact endReq_keeps.after hs₂
  · extract_lets s₃ s₄
    have hs₄ : s.Keeps s₄ := endReq_keeps.after (logCheckFail_spares.keeps.after (bump_keeps.after hs₂))
    split
    · split
      · exact digestMismatch_keeps.after hs₄
      · exact hs₄
    · exact hs₄

theorem execValuePassComplete_keeps {req : Nat} {u : Upsets} {s : State} : Leads State.Keeps s (execValuePassComplete req u s) :=
  kept.onNode (fun s₁ => by
    extract_lets
    split
    · extract_lets _ m s₃ _ _ _ _ s₄
      have hm : s₁.Keeps m.2.2 := meetPass_keeps.after expandFirst_keeps
      have hs₃ : s₁.Keeps s₃ := hm
      have hs₄ : s₁.Keeps s₄ := bumpBy_keeps.after (hs₃.trans (.only rfl))
      split
      · exact expandFirst_keeps
      · split
        · exact failPass_keeps.after hm
        · split
          · exact overflowReq_keeps.after hs₄
          · exact kept.ite (produce_keeps.after hs₄) (putReq_keeps.after hs₄)
    · exact expandFirst_keeps)

theorem execSegmentComplete_keeps {req : Nat} {u : Upsets} {s : State} : Leads State.Keeps s (execSegmentComplete req u s) :=
  kept.onNode (fun s₁ => by
    extract_lets s₂
    have hs₂ : s₁.Keeps s₂ := applyUpsets_keeps
    split
    · extract_lets _ _ s₃
      have hs₃ : s₁.Keeps s₃ := bumpBy_keeps.after (hs₂.trans (.only rfl))
      split
      · exact .refl
      · split
        · exact overflowReq_keeps.after hs₃
        · exact kept.ite (produce_keeps.after hs₃) (putReq_keeps.after hs₃)
    · exact .refl)

theorem finishDie_keeps {id : Nat} {q : AttnReq} {s : State} : s.Keeps (finishDie id q s) := by
  unfold finishDie
  extract_lets _ _ _ _ _ s₁
  have hs₁ : s.Keeps s₁ := bumpBy_keeps.after (.only rfl)
  exact kept.ite (overflowReq_keeps.after hs₁) (produce_keeps.after hs₁)

theorem execDieBlockDone_keeps {req : Nat} {page : Nat} {u : Upsets} {s : State} :
    Leads State.Keeps s (execDieBlockDone req page u s) :=
  kept.onNode (fun s₁ => by
    extract_lets
    split
    · extract_lets
      split
      · exact expandFirst_keeps
      · split
        · exact kept.ite (finishDie_keeps.after expandFirst_keeps) expandFirst_keeps
        · extract_lets a b s₃ _ _ _ s₄ _ _ s₅
          have ha : s₁.Keeps a.2.2 := meetPass_keeps.after expandFirst_keeps
          have hb : s₁.Keeps b.2 := by
            unfold b
            split
            · exact readAll_keeps.after ha
            · exact ha
          have hs₃ : s₁.Keeps s₃ := hb
          have hs₄ : s₁.Keeps s₄ := hs₃.trans (.only rfl)
          have hs₅ : s₁.Keeps s₅ := bumpBy_keeps.after (bumpBy_keeps.after (hs₄.trans (.only rfl)))
          split
          · exact expandFirst_keeps
          · split
            · exact failPass_keeps.after hb
            · split
              · exact overflowReq_keeps.after hs₄
              · exact kept.ite (finishDie_keeps.after (putReq_keeps.after hs₅)) (putReq_keeps.after hs₅)
    · exact expandFirst_keeps)

/-! ## Machine/Log.lean -/

theorem denyAperture_keeps {offset : BitVec 28} {s : State} : s.Keeps (denyAperture offset s) := by
  unfold denyAperture
  extract_lets _ _ s₂
  have hs₂ : s.Keeps s₂ := logFrom_keeps.after bump_keeps
  exact kept.ite bump_keeps (hs₂.trans (.only rfl))

theorem execApertureRead_keeps {offset : BitVec 28} {len : BitVec 13} {u : Upsets} {s : State} :
    Leads State.Keeps s (execApertureRead offset len u s) := by
  unfold execApertureRead
  extract_lets
  exact kept.onNode (fun s₁ => by
    extract_lets _ _ r x
    have hr : s₁.Keeps r.2 := readRange_keeps.after (meetLink_keeps.after applyUpsets_keeps)
    have hx : s₁.Keeps x := hr
    split
    · exact emit_keeps.after denyAperture_keeps
    · exact kept.ite (emit_keeps.after (hx.trans (.only rfl))) (emit_keeps.after hr))

theorem normalWrite_keeps {a : Nat} {bs : List Byte} {u : Upsets} {s : State} : s.Keeps (normalWrite a bs u s) := by
  unfold normalWrite
  extract_lets _ _ s₂
  have hs₂ : s.Keeps s₂ := kept.ite (bumpAt_keeps.after applyUpsets_keeps) applyUpsets_keeps
  exact kept.ite (hbmWrite_keeps.after (logFrom_keeps.after hs₂)) (hbmWrite_keeps.after hs₂)

theorem apertureWriteRow_keeps {offset : BitVec 28} {bytes : List Byte} {u : Upsets} {s : State} :
    Leads State.Keeps s (apertureWriteRow offset bytes u s) :=
  kept.onNode (fun _ => kept.ite denyAperture_keeps (kept.ite denyAperture_keeps normalWrite_keeps))

/-! ## Machine/Merge.lean -/

theorem sendSub_keeps {id : Nat} {sub : Nat} {v : VId} {x : FanSub} {d : QDesc} {raw : List Byte} {s : State} :
    s.Keeps (sendSub id sub v x d raw s) := by
  unfold sendSub
  extract_lets _ _ s₁
  have hs₁ : s.Keeps s₁ := .only rfl
  exact kept.ite hs₁ (sendTo_keeps.after hs₁)

theorem startSubs_keeps {id : Nat} {v : VId} {d : QDesc} {raw : List Byte} {k : Knobs} {stall : Nat} {xs : List (Nat × FanSub)}
    {s : State} : s.Keeps (startSubs id v d raw k stall xs s) := by
  induction xs generalizing id v d raw k stall s with
  | nil => exact .refl
  | cons x r ih =>
        unfold startSubs
        exact ih.after (kept.ite (admitDesc_keeps.after (takeId_keeps.after bump_keeps)) (sendSub_keeps.after bump_keeps))

theorem holdFan_keeps {id : Nat} {b : Nat} {ix : Nat} {v : VId} {d : QDesc} {raw : List Byte} {k : Knobs} {ep : BitVec 16}
    {stall : Nat} {s : State} : s.Keeps (holdFan id b ix v d raw k ep stall s) :=
  .only rfl

theorem refuseFan_keeps {b : Nat} {ix : Nat} {v : VId} {d : QDesc} {st : Status} {node : Option NodeId} {hint : Nat} {s : State} :
    s.Keeps (refuseFan b ix v d st node hint s) :=
  refuseDesc_keeps.after bump_keeps

theorem splitFan_keeps {b : Nat} {ix : Nat} {v : VId} {d : QDesc} {raw : List Byte} {k : Knobs} {stall : Nat} {q : SeqRec} {s : State} :
    s.Keeps (splitFan b ix v d raw k stall q s) := by
  unfold splitFan
  extract_lets s₁
  have hs₁ : s.Keeps s₁ := bump_keeps
  split
  · exact refuseFan_keeps.after hs₁
  · exact startSubs_keeps.after (putFan_spares.keeps.after (hs₁.trans (.only rfl)))

theorem fanDesc_keeps {id : Nat} {c : Cmd} {b : Nat} {ix : Nat} {v : VId} {d : QDesc} {raw : List Byte} {k : Knobs} {stall : Nat}
    {s : State} : s.Keeps (fanDesc id c b ix v d raw k stall s) := by
  unfold fanDesc
  extract_lets
  split
  · exact holdFan_keeps.after findHome_spares.keeps
  · exact refuseFan_keeps.after findHome_spares.keeps
  · split
    · exact refuseFan_keeps.after findHome_spares.keeps
    · exact kept.ite (refuseFan_keeps.after findHome_spares.keeps) (splitFan_keeps.after findHome_spares.keeps)

theorem execAttnQueryFanout_keeps {c : Cmd} {payload : List Byte} {s : State} : Leads State.Keeps s (execAttnQueryFanout c payload s) :=
  kept.runVerb (fun s₁ => by
    extract_lets
    split
    · exact .refl
    · extract_lets
      split
      · exact .refl
      · split
        · exact .refl
        · exact kept.later (dispatchBatch_keeps.after
          (((kept.foldl (fun _ _ => kept.ite refuseFan_keeps (kept.ite (refuseFan_keeps.after bumpV_keeps)
          (fanDesc_keeps.after takeId_keeps))))).after openBatch_keeps)))

theorem fanWrite_keeps {id : Nat} {sub : Nat} {key : BitVec 32} {off : Nat} {bs : List Byte} {s : State} :
    s.Keeps (fanWrite id sub key off bs s) := by
  unfold fanWrite
  split
  · exact .refl
  · extract_lets
    split
    · extract_lets
      split
      · exact fanFinish_spares.keeps.after (setSub_spares.keeps.after (.only rfl))
      · exact kept.ite (fanAnswer_keeps.after (.only rfl)) setSub_spares.keeps
    · exact .refl

/-! ## Machine/Check.lean -/

theorem divergent_keeps {p : PageRef} {d0 : List Byte} {d1 : List Byte} {h0 : List Byte} {h1 : List Byte} {s : State} :
    s.Keeps (divergent p d0 d1 h0 h1 s) := by
  unfold divergent
  extract_lets
  split
  · exact logFrom_keeps.after poisonPage_keeps
  · exact .refl

theorem rewritePage_done_keeps {p : PageRef} {content : List Byte} {s t : State} (h : rewritePage p content s = .done t) :
    s.Keeps t := by
  unfold rewritePage at h
  split at h
  · split at h
    · cases h
    · split at h
      · cases h
      · next e =>
        split at h
        · cases h
        · extract_lets _ s₁ _ s₂ s₃ s₄ at h
          have hs₂ : s.Keeps s₂ := writeHeader_keeps.after (hbmWrite_keeps.after (allocAny_keeps e))
          have hs₄ : s.Keeps s₄ := notAwaiting_keeps.after (setFrameState_keeps.after hs₂)
          clear_value s₁ s₂ s₄
          split at h
          · cases h
          · cases h
            split
            · exact switchAll_keeps.after hs₄
            · exact updPage_keeps.after hs₄
  · cases h

theorem rewritePage_differs_keeps {p : PageRef} {content : List Byte} {s t : State} (h : rewritePage p content s = .differs t) :
    s.Keeps t := by
  unfold rewritePage at h
  split at h
  · split at h
    · cases h
    · split at h
      · cases h
      · next e =>
        split at h
        · cases h
        · extract_lets _ s₁ _ s₂ s₃ s₄ at h
          have hs₂ : s.Keeps s₂ := writeHeader_keeps.after (hbmWrite_keeps.after (allocAny_keeps e))
          clear_value s₁ s₂ s₄
          split at h
          · cases h
            exact releaseFrame_keeps.after hs₂
          · cases h
  · cases h

theorem rewriteFrom_keeps {p : PageRef} {content : List Byte} {counts : Bool} {s : State} :
    s.Keeps (rewriteFrom p content counts s) := by
  unfold rewriteFrom
  split
  · next e => exact contribute_keeps.after (kept.ite (bump_keeps.after (rewritePage_done_keeps e)) (rewritePage_done_keeps e))
  · next e => exact rewritePage_differs_keeps e
  · exact .refl

theorem noGoodCopy_keeps {p : PageRef} {s : State} : s.Keeps (noGoodCopy p s) := by
  unfold noGoodCopy
  split
  · exact kept.ite notAwaiting_keeps (kept.ite poisonPage_keeps losePage_keeps)
  · exact .refl

theorem rebuiltDiffers_keeps {p : PageRef} {content : List Byte} {s : State} : s.Keeps (rebuiltDiffers p content s) := by
  unfold rebuiltDiffers
  split
  · exact kept.ite divergent_keeps notAwaiting_keeps
  · exact noGoodCopy_keeps

theorem compareCopies_keeps {p : PageRef} {digest : List Byte} {other : Option (List Byte × List Byte)} {s : State} :
    s.Keeps (compareCopies p digest other s) := by
  unfold compareCopies
  split
  · exact .refl
  · extract_lets own
    clear_value own
    split
    · exact kept.ite noGoodCopy_keeps .refl
    · split
      · exact kept.ite .refl (kept.ite divergent_keeps (kept.ite rewriteFrom_keeps notAwaiting_keeps))
      · exact kept.ite noGoodCopy_keeps rewriteFrom_keeps
      · exact kept.ite rewriteFrom_keeps .refl

theorem verifyPage_keeps {p : PageRef} {s : State} : s.Keeps (verifyPage p s) := by
  unfold verifyPage
  extract_lets
  split
  · extract_lets c
    have hc : s.Keeps c.2 := readCopy_keeps.after bump_keeps
    split
    · exact .refl
    · split
      · exact kept.ite (askOther_keeps.after bump_keeps) bump_keeps
      · split
        · exact kept.ite hc (digestMismatch_keeps.after hc)
        · exact pageUnreadable_keeps.after hc
  · exact .refl

theorem execReadVerify_keeps {p : PageRef} {u : Upsets} {s : State} : Leads State.Keeps s (execReadVerify p u s) :=
  kept.onNode (fun s₁ => by
    extract_lets s₂ _ s₃
    have hs₂ : s₁.Keeps s₂ := dropLeft_spares.keeps
    have hs₃ : s₁.Keeps s₃ := by
      unfold s₃
      split
      · exact dropLeft_spares.keeps.after (verifyPage_keeps.after (applyUpsets_keeps.after (hs₂.trans (.only rfl))))
      · exact hs₂
    exact kept.ite (startVerify_spares.keeps.after hs₃) hs₃)

theorem verifySpans_keeps {v : VId} {h : Handle} {spans : List Nat} {s : State} : s.Keeps (verifySpans v h spans s).2 := by
  induction spans generalizing s with
  | nil => exact .refl
  | cons x r ih =>
    unfold verifySpans
    extract_lets _ hit
    clear_value hit
    split
    · exact ih.after findSpan_spares.keeps
    · exact findSpan_spares.keeps

theorem execScrubVerify_keeps {c : Cmd} {t : Target} {s : State} : Leads State.Keeps s (execScrubVerify c t s) := by
  unfold execScrubVerify
  extract_lets
  exact kept.runVerb (fun _ => kept.withParams (fun s₂ => by
    extract_lets
    split
    · exact kept.now (kept.foldl (fun _ _ => verifyPage_keeps))
    · split
      · exact kept.now ((kept.foldl (fun _ _ => verifyPage_keeps)).after verifySpans_keeps)
      · exact kept.now verifySpans_keeps
      · exact holdForBank_spares.keeps.after verifySpans_keeps))

theorem resolvePage_keeps {p : PageRef} {s : State} : s.Keeps (resolvePage p s) := by
  unfold resolvePage
  split
  · extract_lets
    split
    · exact .refl
    · split
      · exact kept.ite (digestMismatch_keeps.after readCopy_keeps) (askOther_keeps.after (awaitPage_keeps.after readCopy_keeps))
      · exact pageUnreadable_keeps.after readCopy_keeps
  · exact .refl

theorem execVerifyReq_keeps {h : PeerHdr} {layer : Nat} {head : Nat} {page : Nat} {digest : List Byte} {hash : List Byte} {u : Upsets}
    {s : State} : Leads State.Keeps s (execVerifyReq h layer head page digest hash u s) :=
  kept.onPeer (fun s₁ => by
    split
    · exact ackPeer_spares.keeps
    · extract_lets
      split
      · extract_lets _ c
        have hc : s₁.Keeps c.2 := readCopy_keeps.after applyUpsets_keeps
        split
        · exact resolvePage_keeps.after (ackPeer_spares.keeps.after applyUpsets_keeps)
        · split
          · extract_lets _ s₂ s₃
            have hs₂ : s₁.Keeps s₂ := sendPeer_spares.keeps.after (ackPeer_spares.keeps.after hc)
            have hs₃ : s₁.Keeps s₃ := kept.ite (endReaders_keeps.after hs₂) hs₂
            split
            · exact hs₂
            · split
              · exact divergent_keeps.after hs₃
              · exact kept.ite (awaitPage_keeps.after hs₃) (notAwaiting_keeps.after hs₃)
          · split
            · exact pageUnreadable_keeps.after (sendPeer_spares.keeps.after (ackPeer_spares.keeps.after hc))
            · exact sendPeer_spares.keeps.after (ackPeer_spares.keeps.after hc)
      · exact ackPeer_spares.keeps)

theorem resetSpan_keeps {f : FrameId} {s : State} : s.Keeps (resetSpan f s) := by
  unfold resetSpan
  extract_lets s₁
  have hs₁ : s.Keeps s₁ := .only rfl
  split
  · exact .refl
  · exact mirrorSpan_keeps.after (toTwin_keeps.after (updVn_keeps.after (updSpan_keeps.after (releasePages_keeps.after
    (hs₁.trans (.only rfl))))))

theorem spanResetRow_keeps {c : Cmd} {t : Target} {s : State} : Leads State.Keeps s (spanResetRow c t s) := by
  unfold spanResetRow
  extract_lets
  exact kept.runVerb (fun _ => kept.withParams (fun s₂ => by
    extract_lets
    split
    · exact .refl
    · split
      · exact holdForBank_spares.keeps.after search_spares.keeps
      · exact kept.now search_spares.keeps
      · split
        · exact kept.now (bumpV_keeps.after search_spares.keeps)
        · split
          · exact kept.now search_spares.keeps
          · split
            · exact kept.now search_spares.keeps
            · split
              · exact kept.now search_spares.keeps
              · exact kept.now (resetSpan_keeps.after search_spares.keeps)))

/-! ## Machine/Scrub.lean -/

theorem repairFrame_keeps {f : FrameId} {s : State} : s.Keeps (repairFrame f s).2 := by
  unfold repairFrame
  extract_lets
  split
  · exact updFrame_keeps.after (.only rfl)
  · exact kept.ite .refl (bumpAt_keeps.after (clearErrs_keeps.after (keeps_of_mem rfl (Memory.clearFrame_wf _))))

theorem endDrain_keeps {f : FrameId} {s : State} : s.Keeps (endDrain f s) := by
  unfold endDrain
  extract_lets
  split
  · exact repairFrame_keeps
  · split
    · exact bump_keeps.after (updFrame_keeps.after repairFrame_keeps)
    · exact stopTiers_keeps.after (updFrame_keeps.after repairFrame_keeps)

theorem execFrameDrainEnd_keeps {frame : BitVec 24} {s : State} : Leads State.Keeps s (execFrameDrainEnd frame s) :=
  kept.onNode (fun _ => kept.ite endDrain_keeps .refl)

theorem execPatrolScrubStep_keeps {stack : BitVec 3} {pc : BitVec 5} {u : Upsets} {s : State} :
    Leads State.Keeps s (execPatrolScrubStep stack pc u s) :=
  kept.onNode (fun _ => kept.ite applyUpsets_keeps (scrubRange_keeps.after (bumpAt_keeps.after
    (updPass_spares.keeps.after applyUpsets_keeps))))

/-! ## Machine/Tier.lean -/

theorem placePlain_keeps {p : PageRef} {x : Page} {v : VId} {bs : List Byte} {s t : State} (h : placePlain p x v bs s = some t) :
    s.Keeps t := by
  unfold placePlain at h
  split at h
  · cases h
  · obtain ⟨⟨f, a⟩, e, rfl⟩ := Option.map_eq_some_iff.mp h
    exact updShared_keeps.after (switchAll_keeps.after (setFrameState_keeps.after (writeHeader_keeps.after
      (hbmWrite_keeps.after (allocAny_keeps e)))))

theorem execPackPage_keeps {p : PageRef} {s : State} : Leads State.Keeps s (execPackPage p s) := by
  refine kept.onNode (fun _ => whenFills_keeps (fun u => ?_))
  split
  · extract_lets v _ s₁ c
    have hs₁ : u.Keeps s₁ := .only rfl
    clear_value s₁
    refine kept.ite stopTiers_keeps (kept.ite hs₁ ?_)
    split
    · exact hs₁
    · next im _ =>
      have hc : u.Keeps c.2 := readStored_keeps.after (drainCodec_keeps.after (queueCoding_keeps.after hs₁))
      have packed {g : BitVec 32} {n : Nat} {t : State} (e : (if c.1 then storePack v g im c.2 else none) = some
        (n, t)) : u.Keeps t := by
        split at e
        · exact (storePack_keeps e).after hc
        · cases e
      clear_value c
      split
      · exact hc
      · next e =>
        have ht := packed e
        split
        · exact kept.ite (bump_keeps.after (switchAll_keeps.after ht)) (removeImage_keeps.after ht)
        · exact removeImage_keeps.after ht
  · exact .refl

theorem movePack_keeps {f : FrameId} {n : Nat} {s : State} : s.Keeps (movePack f n s) := by
  unfold movePack
  split
  · exact .refl
  · extract_lets
    split
    · exact handleAll_keeps.after readExtents_keeps
    · split
      · exact readExtents_keeps
      · next es s₁ e =>
          have hs₁ : s.Keeps _ := (roomForPack_keeps e).after readExtents_keeps
          extract_lets s₂
          have hs₂ : s.Keeps s₂ := writeExtents_keeps.after hs₁
          exact (kept.foldl (fun _ _ => kept.ite releaseFrame_keeps .refl)).after (hs₂.trans (.only rfl))

theorem movePacked_keeps {f : FrameId} {s : State} : s.Keeps (movePacked f s) := (kept.foldl (fun _ _ => movePack_keeps))

theorem execPackCompact_keeps {frame : BitVec 24} {s : State} : Leads State.Keeps s (execPackCompact frame s) :=
  kept.onNode (fun _ => whenFills_keeps (fun _ => kept.ite (kept.ite
    (releaseFrame_keeps.after movePacked_keeps) movePacked_keeps) .refl))

theorem recodeIfRetiring_keeps {n : Nat} {s : State} : s.Keeps (recodeIfRetiring n s) := by
  unfold recodeIfRetiring
  extract_lets
  split
  · exact .refl
  · exact kept.ite (.only rfl) .refl

theorem programDemotion_keeps {p : PageRef} {attempt : Nat} {s t : State} (h : programDemotion p attempt s = some t) : s.Keeps t := by
  unfold programDemotion at h
  split at h
  · split at h
    · cases h
    · split at h
      · cases h
      · extract_lets c s₁ at h
        have hs₁ : s.Keeps s₁ := readStored_keeps
        split at h
        · exact Option.some.inj h ▸ hs₁
        · obtain ⟨⟨n, a⟩, e, rfl⟩ := Option.map_eq_some_iff.mp h
          have ha : s.Keeps a := (storeFlash_keeps e).after hs₁
          exact recodeIfRetiring_keeps.after ((kept.ite (queueCoding_keeps.after ha) ha).trans (.only rfl))
  · cases h

theorem holdDemotion_keeps {p : PageRef} {attempt : Nat} {s : State} : s.Keeps (holdDemotion p attempt s) :=
  noteHeld_spares.keeps.after (.only rfl)

theorem execDemotePage_keeps {p : PageRef} {s : State} : Leads State.Keeps s (execDemotePage p s) := by
  refine kept.onNode (fun u => ?_)
  split
  · extract_lets v _ s₁
    have hs₁ : u.Keeps s₁ := .only rfl
    clear_value s₁
    exact kept.ite stopTiers_keeps (kept.ite hs₁ (kept.getD (fun _ e => (programDemotion_keeps e).after hs₁) hs₁))
  · exact .refl

theorem cancelDemotion_keeps {p : PageRef} {s : State} : s.Keeps (cancelDemotion p s) := by
  unfold cancelDemotion
  split
  · exact removeImage_keeps.after endDemotion_keeps
  · exact .refl

theorem feedRequests_keeps {ids : List Nat} {n : Nat} {f : AttnReq → ReqPage → ReqPage} {s : State} :
    s.Keeps (feedRequests ids n f s) :=
  (kept.foldl (fun s₁ _ => by
    split
    · exact putReq_keeps
    · exact .refl))

theorem failWaiting_keeps {ids : List Nat} {st : Status} {s : State} : s.Keeps (failWaiting ids st s) :=
  (kept.foldl (fun _ _ => failReq_keeps.after takeEstimate_keeps))

theorem stepDown_keeps {p : PageRef} {s : State} : s.Keeps (stepDown p s).2.2 := by
  unfold stepDown
  split
  · split
    · exact .refl
    · split
      · split
        · exact .refl
        · split
          · exact .refl
          · split
            · exact .refl
            · split
              · exact holdDemotion_keeps
              · split
                · next s₁ e =>
                    exact programDemotion_keeps e
                · exact .refl
      · split
        · exact .refl
        · split
          · exact .refl
          · split
            · exact .refl
            · split
              · exact holdDemotion_keeps
              · split
                · next s₁ e =>
                    exact programDemotion_keeps e
                · exact .refl
      · exact .refl
  · exact .refl

theorem expandPacked_done_keeps {p : PageRef} {x : Page} {r : SpanRec} {s t : State} (h : expandPacked p x r s = .done t) :
    s.Keeps t := by
  unfold expandPacked at h
  extract_lets c at h
  split at h
  · cases h
  · cases h
  · split at h
    · cases h
    · split at h
      · next e =>
        split at h
        · cases h
        · cases h
          exact (placePlain_keeps e).after readCopy_keeps
      · cases h

theorem expandPacked_fails_keeps {p : PageRef} {x : Page} {r : SpanRec} {s t : State} {st : Option Status}
    (h : expandPacked p x r s = .fails st t) : s.Keeps t := by
  unfold expandPacked at h
  extract_lets c at h
  split at h
  · cases h
    exact pageUnreadable_keeps.after readCopy_keeps
  · cases h
    exact pageUnreadable_keeps.after readCopy_keeps
  · split at h
    · cases h
      exact digestMismatch_keeps.after readCopy_keeps
    · split at h
      · split at h <;> cases h
      · cases h

theorem stepUp_keeps {p : PageRef} {s : State} : s.Keeps (stepUp p s).2.2 := by
  unfold stepUp
  split
  · split
    · exact .refl
    · refine kept.snd_ite .refl (kept.snd_ite .refl ?_)
      extract_lets
      split
      · refine kept.snd_ite (kept.snd_ite .refl .refl) ?_
        split
        · next e => exact expandPacked_done_keeps e
        · exact .refl
        · next e => exact expandPacked_fails_keeps e
        · next e => exact expandPacked_fails_keeps e
      · exact kept.snd_ite .refl enterPromotion_keeps
      · exact .refl
      · exact .refl
  · exact .refl

theorem stepTier_keeps {down : Bool} {xs : List PageRef} {n : Status} {s : State} : s.Keeps (stepTier down xs n s).2.2 := by
  induction xs generalizing down n s with
  | nil => exact .refl
  | cons x r ih =>
    unfold stepTier
    extract_lets q
    have hq : s.Keeps q.2.2 := by
      unfold q
      split
      · exact stepDown_keeps
      · exact stepUp_keeps
    exact ih.after hq

theorem advanceTier_keeps {id : Nat} {c : Cmd} {down : Bool} {left : List PageRef} {st : Status} {s : State} :
    s.Keeps (advanceTier id c down left st s) :=
  kept.ite (complete_keeps.after (endJob_keeps.after stepTier_keeps)) (setJob_keeps.after stepTier_keeps)

theorem advanceTiers_keeps {js : List (Nat × Job)} {s : State} : s.Keeps (advanceTiers js s) := by
  induction js generalizing s with
  | nil => exact .refl
  | cons x r ih =>
    unfold advanceTiers
    split
    · exact .refl
    · next e =>
      cases e
      exact ih.after (kept.ite advanceTier_keeps .refl)
    · next e =>
      cases e
      exact ih

theorem afterForm_keeps {s : State} : s.Keeps (afterForm s) := advanceTiers_keeps

theorem retryDemotion_keeps {d : Demotion} {x : Page} {r : SpanRec} {s : State} : s.Keeps (retryDemotion d x r s) := by
  unfold retryDemotion
  extract_lets p c s₁ retry
  have hs₁ : s.Keeps s₁ := readCopy_keeps.after removeImage_keeps
  have again {t : State} (e : retry = some t) : s.Keeps t := by
    unfold retry at e
    split at e
    · cases e
    · split at e
      · cases e
        exact holdDemotion_keeps.after hs₁
      · exact (programDemotion_keeps e).after hs₁
  clear_value retry s₁
  split
  · exact afterForm_keeps.after (pageUnreadable_keeps.after (dropFromTiers_keeps.after hs₁))
  · exact afterForm_keeps.after (pageUnreadable_keeps.after hs₁)
  · split
    · exact afterForm_keeps.after (digestMismatch_keeps.after hs₁)
    · split
      · exact again rfl
      · exact afterForm_keeps.after (dropFromTiers_keeps.after (logFrom_keeps.after (bump_keeps.after hs₁)))

theorem execDemoteComplete_keeps {p : PageRef} {readBack : List Byte} {s : State} :
    Leads State.Keeps s (execDemoteComplete p readBack s) :=
  kept.onNode (fun s₁ => by
    extract_lets
    split
    · extract_lets s₃
      have hs₃ : s₁.Keeps s₃ := countFlashRead_keeps.after (endDemotion_keeps.after drainCodec_keeps)
      split
      · exact drainCodec_keeps
      · split
        · exact afterForm_keeps.after (bump_keeps.after (switchAll_keeps.after (hs₃.trans (.only rfl))))
        · exact afterForm_keeps.after (pageUnreadable_keeps.after (dropFromTiers_keeps.after (removeImage_keeps.after
          (bumpBy_keeps.after hs₃))))
        · exact retryDemotion_keeps.after hs₃
    · exact afterForm_keeps.after drainCodec_keeps)

theorem promoteContent_keeps {m : Promotion} {bs : List Byte} {s : State} : s.Keeps (promoteContent m bs s) := by
  unfold promoteContent
  extract_lets p serve
  have served {t : State} : t.Keeps (serve t) := afterForm_keeps.after (feedRequests_keeps.after endPromotion_keeps)
  split
  · split
    · exact served
    · split
      · next e =>
        have hs₁ := placePlain_keeps e
        extract_lets loc s₂
        clear_value loc
        have hs₂ : s.Keeps s₂ := by
          unfold s₂
          split
          · exact feedRequests_keeps.after (endPromotion_keeps.after hs₁)
          · exact endPromotion_keeps.after hs₁
        exact afterForm_keeps.after (bump_keeps.after hs₂)
      · split
        · exact .refl
        · exact served.after bumpBy_keeps
  · exact served

theorem failPromotion_keeps {m : Promotion} {bs : Option (List Byte)} {s : State} : s.Keeps (failPromotion m bs s) := by
  unfold failPromotion
  extract_lets _ s₂
  have hs₂ : s.Keeps s₂ := by
    unfold s₂
    split
    · exact endPromotion_keeps
    · split
      · exact digestMismatch_keeps.after endPromotion_keeps
      · exact pageUnreadable_keeps.after endPromotion_keeps
  exact afterForm_keeps.after (failWaiting_keeps.after hs₂)

theorem execPromoteComplete_keeps {p : PageRef} {read : Option (List Byte)} {s : State} :
    Leads State.Keeps s (execPromoteComplete p read s) :=
  kept.onNode (fun _ => whenFills_keeps (fun s₂ => by
    extract_lets
    split
    · exact afterForm_keeps.after drainCodec_keeps
    · extract_lets s₄
      have hs₄ : s₂.Keeps s₄ := countFlashRead_keeps.after drainCodec_keeps
      split
      · exact failPromotion_keeps.after hs₄
      · exact kept.ite (promoteContent_keeps.after hs₄) (failPromotion_keeps.after hs₄)))

theorem startTier_keeps {c : Cmd} {down : Bool} {ps : List PageRef} {s : State} : s.Keeps (startTier c down ps s).state := by
  unfold startTier
  extract_lets
  split
  · exact kept.now stepTier_keeps
  · exact kept.later (addJob_keeps.after stepTier_keeps)

theorem execTierPromote_keeps {c : Cmd} {t : Target} {s : State} : Leads State.Keeps s (execTierPromote c t s) :=
  kept.runVerb (fun _ => kept.withParams (fun _ => kept.onPages (fun _ _ => startTier_keeps)))

theorem execTierDemote_keeps {c : Cmd} {t : Target} {s : State} : Leads State.Keeps s (execTierDemote c t s) :=
  kept.runVerb (fun _ => kept.withParams (fun _ => kept.onPages (fun _ s₃ => by
    extract_lets
    split
    · exact .refl
    · split
      · exact .refl
      · exact startTier_keeps)))

theorem execTierPin_keeps {c : Cmd} {t : Target} {s : State} : Leads State.Keeps s (execTierPin c t s) :=
  kept.runVerb (fun _ => kept.withParams (fun _ => kept.onPages (fun _ s₃ => by
    extract_lets
    split
    · exact .refl
    · exact startTier_keeps.after (kept.foldl (fun _ _ => cancelDemotion_keeps.after updShared_keeps)))))

theorem execTierUnpin_keeps {c : Cmd} {t : Target} {s : State} : Leads State.Keeps s (execTierUnpin c t s) :=
  kept.runVerb (fun _ => kept.withParams (fun _ => kept.onPages (fun _ _ => kept.now (kept.foldl (fun _ _ => updShared_keeps)))))

theorem rewriteLast_keeps {b : Nat × Nat × Nat} {s : State} : s.Keeps (rewriteLast b s) := by
  unfold rewriteLast
  split
  · exact .refl
  · exact kept.ite moveFlash_spares.keeps .refl

theorem rewriteStaged_keeps {b : BlockRef} {s : State} : s.Keeps (rewriteStaged b s) := by
  unfold rewriteStaged
  extract_lets _ _ s₁
  have hs₁ : s.Keeps s₁ := (kept.foldl (fun _ _ => holdDemotion_keeps.after (removeImage_keeps.after endDemotion_keeps)))
  split
  · exact kept.ite (noteHeld_spares.keeps.after (defer_keeps.after hs₁)) hs₁
  · exact rewriteLast_keeps.after ((kept.foldl (fun _ _ => moveFlash_spares.keeps)))

theorem execFlashProgramFail_keeps {b : BlockRef} {s : State} : Leads State.Keeps s (execFlashProgramFail b s) := by
  unfold execFlashProgramFail
  extract_lets
  exact kept.onNode (fun s₁ => by
    extract_lets s₂
    have hs₂ : s₁.Keeps s₂ := bump_keeps.after updBlock_spares.keeps
    exact kept.ite .refl (rewriteStaged_keeps.after (writeMeta_spares.keeps.after (hs₂.trans (.only rfl)))))

theorem releaseBrake_keeps {s : State} : s.Keeps (releaseBrake s) := by
  unfold releaseBrake
  extract_lets held _ s₁ s₂ ops s₃ go
  have hs₁ : s.Keeps s₁ := .only rfl
  have hs₂ : s.Keeps s₂ :=
    State.Keeps.after (kept.foldl (fun _ _ => kept.getD (fun _ e => programDemotion_keeps e) .refl)) hs₁
  clear_value s₂
  have hs₃ : s.Keeps s₃ := hs₂.trans (.only rfl)
  have went {r : Res} {t : State} (h : Leads State.Keeps t r) : t.Keeps (go r t) := by
    unfold go
    split
    · exact h _ rfl
    · exact .refl
  clear_value s₃ go
  refine afterForm_keeps.after (State.Keeps.after (kept.foldl (fun _ _ => ?_)) hs₃)
  split
  · exact went execFlashRelocate_spares.keeps
  · exact went execFtlReclaim_spares.keeps
  · exact went execWearLevel_spares.keeps
  · exact went execFlashEraseBackground_spares.keeps
  · exact rewriteStaged_keeps
  · exact .refl

/-! ## Machine/Power.lean -/

theorem deviceReset_keeps {cause : Nat} {s : State} : s.Keeps (deviceReset cause s) := ⟨rfl, fun _ => reset_inv⟩

theorem execPowerOn_keeps {s : State} : Leads State.Keeps s (execPowerOn s) := .next (deviceReset_keeps.after (.only rfl))

theorem execDevResetN_keeps {lowNs : Nat} {s : State} : Leads State.Keeps s (execDevResetN lowNs s) :=
  .next (kept.ite deviceReset_keeps .refl)

theorem execSupplyReset_keeps {rail : BitVec 3} {s : State} : Leads State.Keeps s (execSupplyReset rail s) := .next deviceReset_keeps

theorem execClockLoss_keeps {s : State} : Leads State.Keeps s (execClockLoss s) := .next deviceReset_keeps

theorem thermalTrip_keeps {s : State} : s.Keeps (thermalTrip s) := by
  unfold thermalTrip
  extract_lets _ t _ _ t₁
  have ht : s.Keeps t := deviceReset_keeps.after setAlert_keeps
  have ht₁ : s.Keeps t₁ := ht.trans (.only rfl)
  exact kept.ite ht₁ (emit_keeps.after ht₁)

theorem execBrakeExit_keeps {durationUs : Nat} {s : State} : Leads State.Keeps s (execBrakeExit durationUs s) :=
  kept.onNode (fun s₁ => by
    extract_lets _ _ s₂
    have hs₂ : s₁.Keeps s₂ := .only rfl
    exact kept.ite .refl (releaseBrake_keeps.after (bumpBy_keeps.after (logFrom_keeps.after hs₂))))

theorem thermalDown_keeps {step : Nat} {t : Int} {s : State} : s.Keeps (thermalDown step t s) := by
  unfold thermalDown
  extract_lets _ s₁
  have hs₁ : s.Keeps s₁ := bumpBy_keeps.after (.only rfl)
  exact kept.ite .refl (kept.ite hs₁ (logFrom_keeps.after (hs₁.trans (.only rfl))))

theorem execNodeTempRead_keeps {temps : List Int} {coolMs : Bool} {s : State} :
    Leads State.Keeps s (execNodeTempRead temps coolMs s) := by
  unfold execNodeTempRead
  extract_lets
  exact kept.onNode (fun s₁ => by
    extract_lets _ s₂
    have hs₂ : s₁.Keeps s₂ := alertTemp_keeps.after (.only rfl)
    split
    · exact thermalTrip_keeps.after hs₂
    · split
      · exact thermalDown_keeps.after hs₂
      · split
        · exact kept.ite hs₂ (thermalDown_keeps.after hs₂)
        · exact kept.ite (hs₂.trans (.only rfl)) hs₂)

/-! ## Machine/Loader.lean -/

theorem measureType_keeps {m : Manifest} {ctype : Nat} {s : State} (h : ctype < 6) : s.Keeps (measureType m ctype s) :=
  kept.foldl (fun _ _ => (extendMeas_spares h).keeps)

theorem startFirmware_keeps {m : Manifest} {s : State} : s.Keeps (startFirmware m s) := by
  unfold startFirmware
  extract_lets s₁
  have hs₁ : s.Keeps s₁ :=
    (measureType_keeps (by decide)).after ((measureType_keeps (by decide)).after
      ((measureType_keeps (by decide)).after setLoad_spares.keeps))
  exact logFrom_keeps.after (driveWp_spares.keeps.after (hs₁.trans (.only rfl)))

theorem execEnd_keeps {s : State} : Leads State.Keeps s (execEnd s) :=
  kept.onWord (fun s₁ => by
    split
    · exact bootAnswer_spares.keeps
    · split
      · exact bootAnswer_spares.keeps
      · split
        · exact bootAnswer_spares.keeps
        · split
          · exact loadFails_spares.keeps
          · split
            · exact loadFails_spares.keeps
            · exact bootAnswer_spares.keeps.after startFirmware_keeps)

/-! ## Machine/Repair.lean -/

theorem execVerifyResp_keeps {h : PeerHdr} {layer head page : Nat} {digest : List Byte} {hash : Option (List Byte)}
    {content : List Byte}
    {s : State} : Leads State.Keeps s (execVerifyResp h layer head page digest hash content s) := by
  refine kept.onPeer (fun _ => linkPeer_keeps (fun u => afterForm_keeps.after ?_))
  extract_lets s₁ f
  have hs₁ : u.Keeps s₁ := ackPeer_spares.keeps
  clear_value f
  split
  · exact compareCopies_keeps.after hs₁
  · exact hs₁

theorem execTwinVerifyTimeout_keeps {p : PageRef} {s : State} : Leads State.Keeps s (execTwinVerifyTimeout p s) :=
  kept.onNode (fun _ => afterForm_keeps.after (kept.ite noGoodCopy_keeps .refl))

theorem execReplicaRewrite_keeps {p : PageRef} {content : List Byte} {s : State} :
    Leads State.Keeps s (execReplicaRewrite p content s) :=
  kept.onNode (fun s₁ => by
    refine afterForm_keeps.after ?_
    split
    · exact kept.ite rewriteFrom_keeps .refl
    · exact .refl)

theorem execPageRepair_keeps {p : PageRef} {content : Option (List Byte)} {s : State} :
    Leads State.Keeps s (execPageRepair p content s) := by
  refine kept.onNode (fun u => afterForm_keeps.after ?_)
  split
  · refine kept.ite .refl ?_
    split
    · exact noGoodCopy_keeps
    · extract_lets
      split
      · next e => exact contribute_keeps.after (kept.ite (bump_keeps.after (rewritePage_done_keeps e)) (rewritePage_done_keeps e))
      · next e => exact rebuiltDiffers_keeps.after (rewritePage_differs_keeps e)
      · exact .refl
  · exact .refl

theorem execPageRebuild_keeps {p : PageRef} {fragments : List (Nat × List Byte)} {s : State} :
    Leads State.Keeps s (execPageRebuild p fragments s) := by
  refine kept.onNode (fun u => afterForm_keeps.after ?_)
  split
  · extract_lets due
    clear_value due
    split
    · split
      · exact noGoodCopy_keeps
      · split
        · next e => exact bump_keeps.after (kept.ite (bump_keeps.after (rewritePage_done_keeps e)) (rewritePage_done_keeps e))
        · next e => exact rebuiltDiffers_keeps.after (rewritePage_differs_keeps e)
        · exact .refl
    · exact .refl
  · exact .refl

/-! ## Machine/Codec.lean -/

theorem recoded_keeps {n : Nat} {s : State} : s.Keeps (recoded n s) := .only rfl

theorem recodeTo_keeps {n : Nat} {i : Image} {fmt : Nat} {p : PageRef} {x : Page} {bs : List Byte} {s : State} :
    s.Keeps (recodeTo n i fmt p x bs s) := by
  unfold recodeTo
  extract_lets
  split
  · split
    · next e => exact recoded_keeps.after (switchAll_keeps.after (storeFlash_keeps e))
    · exact .refl
  · split
    · split
      · next e => exact recoded_keeps.after (switchAll_keeps.after (storePack_keeps e))
      · exact .refl
    · exact kept.getD (fun _ e => placePlain_keeps e) .refl

theorem execRecodeImage_keeps {image : Nat} {s : State} : Leads State.Keeps s (execRecodeImage image s) :=
  kept.onNode (fun _ => whenFills_keeps (fun s₂ => by
    extract_lets
    split
    · split
      · extract_lets c
        have hc : s₂.Keeps c.2 := readCopy_keeps.after drainCodec_keeps
        split
        · exact afterForm_keeps.after drainCodec_keeps
        · split
          · split
            · exact afterForm_keeps.after (settleSlots_spares.keeps.after (recodeTo_keeps.after hc))
            · exact afterForm_keeps.after (digestMismatch_keeps.after (recoded_keeps.after hc))
          · exact afterForm_keeps.after (settleSlots_spares.keeps.after (pageUnreadable_keeps.after (recoded_keeps.after hc)))
      · exact drainCodec_keeps
    · exact kept.ite (afterForm_keeps.after drainCodec_keeps) (afterForm_keeps.after (recoded_keeps.after drainCodec_keeps))))

theorem execCodecBlock_keeps {engine : BitVec 2} {s : State} : Leads State.Keeps s (execCodecBlock engine s) :=
  kept.onNode (fun s₁ => by
    split
    · exact .refl
    · split
      · exact .refl
      · exact afterForm_keeps.after serveBlock_keeps)

/-! ## Machine/SyncUnit.lean -/

theorem failObject_keeps {i : BitVec 14} {s : State} : s.Keeps (failObject i s) :=
  kept.ite .refl (logFrom_keeps.after (bump_keeps.after (endWaiters_same.keeps.after updObj_keeps)))

/-! ## Machine/Net.lean -/

theorem servedFragment_keeps {v : VId} {stripe : Nat} {slot : Nat} {s : State} : s.Keeps (servedFragment v stripe slot s).2 := by
  unfold servedFragment
  split
  · extract_lets
    split
    · split
      · exact readHeld_keeps
      · exact readHeld_keeps
    · exact readHeld_keeps
  · split
    · exact .refl
    · split
      · exact readFrameNormal_keeps
      · exact .refl

theorem readAnswer_keeps {v : VId} {addr : Nat} {len : Nat} {s : State} : s.Keeps (readAnswer v addr len s).2 := by
  unfold readAnswer
  extract_lets
  split
  · exact servedFragment_keeps
  · split
    · exact .refl
    · exact readRange_keeps

theorem execReadReq_keeps {m : Msg} {addr : BitVec 64} {len : BitVec 32} {key : BitVec 32} {u : Upsets} {s : State} :
    Leads State.Keeps s (execReadReq m addr len key u s) := by
  unfold execReadReq
  extract_lets
  exact kept.onMsg (fun s₁ => by
    extract_lets _ r
    have hr : s₁.Keeps r.2 := readAnswer_keeps.after (meetLink_keeps.after applyUpsets_keeps)
    split
    · exact rejectMsg_keeps
    · split
      · exact .refl
      · split
        · exact .refl
        · split
          · exact sendOn_keeps.after (emit_keeps.after hr)
          · exact hr)

theorem closeFenced_keeps {v : VId} {s : State} : s.Keeps (closeFenced v s) :=
  (kept.foldl (fun s₁ _ => by
    split
    · exact kept.ite (kept.foldl (fun _ _ => closeAck_keeps)) .refl
    · exact .refl))

theorem retryAssign_keeps {v : VId} {prefer : List NodeId} {s : State} : s.Keeps (retryAssign v prefer s) :=
  (kept.foldl (fun _ _ => kept.ite (whenFills_keeps (fun _ => assignNext_keeps)) .refl))

theorem mapInstalled_keeps {v : VId} {prefer : List NodeId} {s : State} : s.Keeps (mapInstalled v prefer s) :=
  retryAssign_keeps.after (closeFenced_keeps.after (kept.ite learnFenced_spares.keeps .refl))

theorem nodeMapRow_keeps {c : Cmd} {p : MapBlk} {prefer : List NodeId} {s : State} : Leads State.Keeps s (nodeMapRow c p prefer s) := by
  unfold nodeMapRow
  extract_lets
  exact kept.runVerb (fun _ => kept.withParams (fun s₂ => by
    extract_lets
    split
    · exact kept.now (mapInstalled_keeps.after updVn_keeps)
    · extract_lets
      split
      · split
        · exact .refl
        · exact .refl
      · split
        · exact kept.now (mapInstalled_keeps.after updVn_keeps)
        · exact .refl))

/-! ## Machine/Copy.lean -/

theorem newCopy_keeps {v : VId} {h : Handle} {span : Nat} {r : SpanRec} {s : State} : s.Keeps (newCopy v h span r s).2 := by
  unfold newCopy
  obtain ⟨refusal, hr⟩ : ∃ f, f = insertRefusal := ⟨_, rfl⟩
  rw [← hr]
  split
  · exact .refl
  · next e =>
    have hs₁ := newMapFrame_keeps e
    extract_lets
    split
    · exact noteRefused_keeps
    · exact acceptInsert_keeps.after (hs₁.trans (.only rfl))

theorem dropCopy_keeps {f : FrameId} {s : State} : s.Keeps (dropCopy f s) := by
  unfold dropCopy
  split
  · exact .refl
  · extract_lets _ s₂
    have hs₂ : s.Keeps s₂ := (kept.foldl (fun _ _ => releaseLoc_keeps.after updSpan_keeps)).after deleteWhere_keeps
    exact releaseFrame_keeps.after (hs₂.trans (.only rfl))

theorem reopenPage_keeps {p : PageRef} {slots : Nat} {s t : State} (h : reopenPage p slots s = some t) : s.Keeps t := by
  unfold reopenPage at h
  split at h
  · split at h
    · split at h
      · cases h
      · next e =>
        cases h
        exact releaseLoc_keeps.after (updPage_keeps.after (clearSlots_keeps.after (writeHeader_keeps.after
          (hbmWrite_keeps.after (allocAny_keeps e)))))
    · cases h
      exact .refl
  · cases h
    exact .refl

theorem discardRows_keeps {f : FrameId} {l hd n : Nat} {s t : State} (h : discardRows f l hd n s = some t) : s.Keeps t := by
  unfold discardRows at h
  split at h
  · cases h
    exact .refl
  · extract_lets _ s₁ s₂ s₃ at h
    have hs₁ : s.Keeps s₁ := kept.foldl (fun _ _ => releaseLoc_keeps.after updSpan_keeps)
    have hs₂ : s.Keeps s₂ := updSpan_keeps.after hs₁
    have hs₃ : s.Keeps s₃ := hs₂.trans (.only rfl)
    split at h
    · exact Option.some.inj h ▸ hs₃
    · split at h
      · exact Option.some.inj h ▸ hs₃
      · split at h
        · split at h
          · cases h
            exact setTokenCount_keeps.after (clearSlots_keeps.after hs₃)
          · exact (reopenPage_keeps h).after hs₃
        · exact (reopenPage_keeps h).after hs₃
        · exact (reopenPage_keeps h).after hs₃
        · exact Option.some.inj h ▸ hs₃

theorem writeCopyRow_keeps {f : FrameId} {l : Nat} {h : Nat} {x : StoredRow} {s : State} : s.Keeps (writeCopyRow f l h x s) := by
  unfold writeCopyRow
  split
  · exact .refl
  · exact kept.ite .refl (kept.ite writeRow_keeps updSpan_keeps)

theorem applyRowsImage_keeps {f : FrameId} {im : RowsImage} {s : State} : s.Keeps (applyRowsImage f im s).2 := by
  unfold applyRowsImage
  split
  · exact .refl
  · extract_lets
    split
    · exact .refl
    · split
      · exact .refl
      · next t e =>
          have ht : s.Keeps _ := (discardRows_keeps e)
          split
          · exact .refl
          · exact (kept.foldl (fun _ _ => writeCopyRow_keeps)).after ht

theorem applyRowsImages_keeps {f : FrameId} {xs : List RowsImage} {s : State} : s.Keeps (applyRowsImages f xs s).2 := by
  induction xs generalizing f s with
  | nil => exact .refl
  | cons x r ih =>
    unfold applyRowsImages
    extract_lets
    split
    · exact ih.after applyRowsImage_keeps
    · exact applyRowsImage_keeps

theorem takeRows_keeps {h : PeerHdr} {rows : List RowsImage} {s : State} : s.Keeps (takeRows h rows s) := by
  unfold takeRows
  split
  · exact ackPeer_spares.keeps
  · exact ackPeer_spares.keeps.after applyRowsImages_keeps

theorem execMirrorRows_keeps {h : PeerHdr} {rows : List RowsImage} {s : State} : Leads State.Keeps s (execMirrorRows h rows s) :=
  kept.onPeer (fun _ => linkPeer_keeps (fun _ => whenFills_keeps (fun _ => takeRows_keeps)))

theorem execCopyRows_keeps {h : PeerHdr} {rows : List RowsImage} {s : State} : Leads State.Keeps s (execCopyRows h rows s) :=
  kept.onPeer (fun _ => linkPeer_keeps (fun _ => whenFills_keeps (fun _ => kept.ite
    (toTwin_keeps.after takeRows_keeps) takeRows_keeps)))

theorem takeSeqImage_keeps {v : VId} {h : Handle} {im : SeqImage} {s : State} : s.Keeps (takeSeqImage v h im s).2 := by
  unfold takeSeqImage
  split
  · split
    · exact releaseFrame_keeps.after (.only rfl)
    · exact updSeq_keeps
  · split
    · exact .refl
    · split
      · exact .refl
      · next f s₁ e =>
          exact (newMapFrame_keeps e).trans (.only rfl)

theorem execMirrorRecord_keeps {h : PeerHdr} {rec : RecordImage ⊕ SeqImage} {s : State} :
    Leads State.Keeps s (execMirrorRecord h rec s) :=
  kept.onPeer (fun _ => whenFills_keeps (fun s₂ => by
    extract_lets r
    have hr : s₂.Keeps r.2 := by
      unfold r
      split
      · exact takeSeqImage_keeps
      · split
        · exact updSpan_keeps
        · exact newCopy_keeps
    exact ackPeer_spares.keeps.after hr))

theorem execMirrorSeal_keeps {h : PeerHdr} {layer : Nat} {head : Nat} {page : Nat} {digest : List Byte} {s : State} :
    Leads State.Keeps s (execMirrorSeal h layer head page digest s) :=
  kept.onPeer (fun _ => linkPeer_keeps (fun s₂ => by
    split
    · exact ackPeer_spares.keeps
    · extract_lets _ _ s₃
      have hs₃ : s₂.Keeps s₃ := kept.ite (sealPage_keeps.after (.only rfl)) .refl
      split
      · exact ackPeer_spares.keeps.after hs₃
      · split
        · exact ackPeer_spares.keeps.after (updPage_keeps.after hs₃)
        · exact kept.ite (ackPeer_spares.keeps.after hs₃) (ackPeer_spares.keeps.after hs₃)))

theorem dropPages_keeps {f : FrameId} {ps : List (Nat × Nat × Nat)} {s : State} : s.Keeps (dropPages f ps s) :=
  (kept.foldl (fun s₁ _ => by
    split
    · exact .refl
    · exact releaseLoc_keeps.after updSpan_keeps))

theorem execMirrorRelease_keeps {h : PeerHdr} {pages : Option (List (Nat × Nat × Nat))} {s : State} :
    Leads State.Keeps s (execMirrorRelease h pages s) :=
  kept.onPeer (fun s₁ => by
    extract_lets s₂
    have hs₂ : s₁.Keeps s₂ := by
      unfold s₂
      split
      · exact dropCopy_keeps
      · exact dropPages_keeps
      · exact .refl
    exact ackPeer_spares.keeps.after hs₂)

theorem enterManifest_keeps {v : VId} {xs : List (Handle × SpanIx)} {s : State} : s.Keeps (enterManifest v xs s).2 := by
  induction xs generalizing v s with
  | nil => exact .refl
  | cons x r ih =>
    unfold enterManifest
    split
    · exact ih
    · extract_lets
      split
      · exact ih.after newCopy_keeps
      · exact newCopy_keeps

theorem execCopyRecord_keeps {h : PeerHdr} {rec : RecordImage} {s : State} : Leads State.Keeps s (execCopyRecord h rec s) :=
  kept.onPeer (fun s₁ => by
    split
    · exact ackPeer_spares.keeps
    · exact ackPeer_spares.keeps.after updSpan_keeps)

theorem execCopyPage_keeps {h : PeerHdr} {layer head page : Nat} {isSealed : Bool} {content : List Byte} {s : State} :
    Leads State.Keeps s (execCopyPage h layer head page isSealed content s) := by
  refine kept.onPeer (fun _ => linkPeer_keeps (fun u => ?_))
  split
  · exact ackPeer_spares.keeps
  · extract_lets p
    split
    · exact ackPeer_spares.keeps
    · refine kept.ite ackPeer_spares.keeps (kept.ite ackPeer_spares.keeps ?_)
      split
      · next e => exact ackPeer_spares.keeps.after (kept.ite (bump_keeps.after (rewritePage_done_keeps e)) (rewritePage_done_keeps e))
      · next e => exact ackPeer_spares.keeps.after (rewritePage_differs_keeps e)
      · exact ackPeer_spares.keeps

theorem allAcked_keeps {f : FrameId} {s : State} : s.Keeps (allAcked f s) := updSpan_keeps

/-! ## Machine/Pair.lean -/

theorem sendPages_keeps {k : CopyTo} {job : Nat} {isSealed : Bool} {f : FrameId} {s : State} :
    s.Keeps (sendPages k job isSealed f s) := by
  unfold sendPages
  split
  · exact .refl
  · exact kept.foldl (fun s₁ _ => by
      split
      · exact .refl
      · split
        · exact sendPeer_spares.keeps
        · exact .refl)

theorem markSent_keeps {f : FrameId} {s : State} : s.Keeps (markSent f s) := updSpan_keeps

theorem openCopy_keeps {v : VId} {k : CopyTo} {f : FrameId} {s : State} : s.Keeps (openCopy v k f s).2 := by
  unfold openCopy
  split
  · exact .refl
  · exact sendPeer_spares.keeps.after addJob_keeps

theorem startCopy_keeps {v : VId} {k : CopyTo} {fs : List FrameId} {s : State} : s.Keeps (startCopy v k fs s) := by
  unfold startCopy
  extract_lets _ s₁ o
  have ho : s.Keeps o.2 := (kept.foldl_snd (fun _ _ _ => openCopy_keeps)).after sendPeer_spares.keeps
  exact (kept.foldl (fun _ _ => kept.ite (markSent_keeps.after sendPages_keeps) sendPages_keeps)).after
    ((kept.foldl (fun _ _ => sendPages_keeps)).after ho)

theorem copyComplete_keeps {v : VId} {s : State} : s.Keeps (copyComplete v s) :=
  (kept.foldl (fun _ _ => allAcked_keeps.after mirrorWhole_keeps)).after updVn_keeps

theorem manifestStep_keeps {v : VId} {h : Handle} {span : Nat} {s : State} : s.Keeps (manifestStep v h span s) :=
  kept.ite (copyComplete_keeps.after updVn_keeps) updVn_keeps

theorem formPair_keeps {v : VId} {s : State} : s.Keeps (formPair v s) := by
  unfold formPair
  split
  · exact .refl
  · extract_lets _ _ _ _ s₂ s₃
    have hs₂ : s.Keeps s₂ := updPair_spares.keeps.after (kept.ite (kept.foldl (fun _ _ => dropCopy_keeps)) .refl)
    have hs₃ : s.Keeps s₃ := startCopy_keeps.after hs₂
    exact complete_keeps.after (kept.ite (kept.ite (copyComplete_keeps.after hs₃) hs₃) hs₂)

theorem execPairPropose_keeps {h : PeerHdr} {role : BitVec 2} {names : NodeId} {s : State} :
    Leads State.Keeps s (execPairPropose h role names s) :=
  kept.onPeer (fun s₁ => by
    extract_lets
    split
    · exact sendProposed_spares.keeps.after ackPeer_spares.keeps
    · exact kept.ite ackPeer_spares.keeps (formPair_keeps.after (sendProposed_spares.keeps.after ackPeer_spares.keeps)))

theorem execPairConfirm_keeps {h : PeerHdr} {role : BitVec 2} {names : NodeId} {s : State} :
    Leads State.Keeps s (execPairConfirm h role names s) :=
  kept.onPeer (fun s₁ => by
    extract_lets
    split
    · exact ackPeer_spares.keeps
    · exact kept.ite ackPeer_spares.keeps (formPair_keeps.after ackPeer_spares.keeps))

theorem resumeAppend_keeps {id : Nat} {mirrored : Bool} {s : State} : s.Keeps (resumeAppend id mirrored s) := by
  unfold resumeAppend
  split
  · exact whenFills_keeps (fun _ => appendFrom_keeps.after (endJob_keeps.after freeAppend_keeps))
  · split
    · exact .refl
    · exact whenFills_keeps (fun _ => appendFrom_keeps.after (endJob_keeps.after freeAppend_keeps))
  · exact .refl

theorem resumeFilled_keeps {s : State} : s.Keeps (resumeFilled s) :=
  (kept.foldl (fun s₁ _ => by
    split
    · exact kept.ite .refl resumeAppend_keeps
    · exact resumeAppend_keeps
    · exact .refl))

theorem homeUpdate_keeps {v : VId} {h : Handle} {span : Nat} {s : State} : s.Keeps (homeUpdate v h span s) := by
  unfold homeUpdate
  split
  · exact kept.ite setPlace_keeps sendPeer_spares.keeps
  · exact .refl

theorem takeOrOwe_keeps {f : FrameId} {s : State} : s.Keeps (takeOrOwe f s) := by
  unfold takeOrOwe
  split
  · exact .refl
  · exact kept.ite .refl (kept.ite oweSpare_keeps takeSpare_keeps)

theorem adoptSpan_keeps {f : FrameId} {s : State} : s.Keeps (adoptSpan f s) := by
  unfold adoptSpan
  split
  · exact .refl
  · extract_lets _ _ s₃ s₄
    have hs₃ : s.Keeps s₃ := takeOrOwe_keeps.after (updSpan_keeps.after (replaceEntry_keeps.after deleteWhere_keeps))
    have hs₄ : s.Keeps s₄ := by
      unfold s₄
      split
      · exact ((kept.foldl (fun _ _ => kept.ite losePage_keeps (kept.ite addLost_keeps .refl)))).after hs₃
      · exact addLost_keeps.after (updSpan_keeps.after hs₃)
    exact contributeAll_keeps.after (homeUpdate_keeps.after hs₄)

theorem takeOver_keeps {f : FrameId} {s : State} : s.Keeps (takeOver f s) := by
  unfold takeOver
  extract_lets
  split
  · exact .refl
  · extract_lets s₂
    have hs₂ : s.Keeps s₂ := kept.ite (addLost_keeps.after adoptSpan_keeps) adoptSpan_keeps
    exact bump_keeps.after (kept.ite (addLost_keeps.after hs₂) hs₂)

theorem takeOverSeq_keeps {f : FrameId} {s : State} : s.Keeps (takeOverSeq f s) := by
  unfold takeOverSeq
  extract_lets
  split
  · exact .refl
  · extract_lets _ s₂
    have hs₂ : s.Keeps s₂ := by
      unfold s₂
      split
      · exact noteRefused_keeps.after updSeq_keeps
      · exact deleteWhere_keeps.after (acceptInsert_keeps.after updSeq_keeps)
    exact moveRecord_keeps.after hs₂

theorem goSolo_keeps {v : VId} {s : State} : s.Keeps (goSolo v s) := by
  unfold goSolo
  extract_lets _ s₁ _ s₃
  have hs₁ : s.Keeps s₁ := dropSent_spares.keeps
  have hs₃ : s.Keeps s₃ := updPair_spares.keeps.after (hs₁.trans (.only rfl))
  exact (kept.foldl (fun _ _ => resumeAppend_keeps)).after (kept.ite hs₃ ((kept.foldl (fun _ _ => updSpan_keeps)).after hs₃))

theorem twinSoloRow_keeps {c : Cmd} {takeover : Bool} {s : State} : Leads State.Keeps s (twinSoloRow c takeover s) :=
  kept.runVerb (fun _ => kept.withParams (fun s₂ => by
    extract_lets _ _ _ _ _ _ s₅
    have hs₅ : s₂.Keeps s₅ := (kept.foldl (fun _ _ => takeOverSeq_keeps)).after
      ((kept.foldl (fun _ _ => takeOver_keeps)).after goSolo_keeps)
    split
    · exact .refl
    · split
      · exact kept.now goSolo_keeps
      · split
        · exact kept.now hs₅
        · exact kept.later (addJob_keeps.after hs₅)))

theorem execHomeUpdate_keeps {h : PeerHdr} {s : State} : Leads State.Keeps s (execHomeUpdate h s) :=
  kept.onPeer (fun s₁ => by
    split
    · exact ackPeer_spares.keeps.after setPlace_keeps
    · exact ackPeer_spares.keeps)

/-! ## Machine/Code.lean -/

theorem replaceFragment_keeps {v : VId} {slot : Nat} {stripe : Nat × List (Nat × List Byte)} {s : State} :
    s.Keeps (replaceFragment v slot stripe s) := by
  unfold replaceFragment
  extract_lets
  split
  · split
    · exact .refl
    · split
      · exact .refl
      · next f s₁ e =>
          exact updVn_keeps.after (hbmWrite_keeps.after (newMapFrame_keeps e))
  · exact .refl

theorem execTwinCodeset_keeps {c : Cmd} {p : CodesetBlk} {stripes : List (Nat × List (Nat × List Byte))} {s : State} :
    Leads State.Keeps s (execTwinCodeset c p stripes s) := by
  unfold execTwinCodeset
  extract_lets
  exact kept.runVerb (fun _ => linkDone_keeps (fun _ => kept.withParams (fun s₃ => by
    extract_lets
    split
    · exact .refl
    · extract_lets
      split
      · exact .refl
      · exact kept.now ((kept.foldl (fun _ _ => contribute_keeps)).after
        (kept.ite ((kept.foldl (fun _ _ => replaceFragment_keeps)).after updVn_keeps) updVn_keeps)))))

theorem contributed_keeps {v : VId} {k : Contribution} {s : State} : s.Keeps (contributed v k s) := by
  unfold contributed
  extract_lets
  split
  · exact releaseLoc_keeps.after updVn_keeps
  · split
    · extract_lets _ s₃
      have hs₃ : s.Keeps s₃ := mirrorSpan_keeps.after (bump_keeps.after (updPage_keeps.after updVn_keeps))
      split
      · exact updVn_keeps
      · split
        · exact kept.ite hs₃ (toTwin_keeps.after hs₃)
        · exact hs₃
    · exact updVn_keeps

theorem contribAck_keeps {v : VId} {tag : BitVec 32} {ok : Bool} {s : State} : s.Keeps (contribAck v tag ok s) := by
  unfold contribAck
  split
  · exact .refl
  · exact kept.ite contributed_keeps updVn_keeps

theorem updStripe_keeps {v : VId} {k : Nat} {f : Stripe → Stripe} {s : State} : s.Keeps (updStripe v k f s) := updVn_keeps

theorem stripeStep_keeps {v : VId} {k : Nat} {s : State} : s.Keeps (stripeStep v k s) := by
  unfold stripeStep
  extract_lets _ s₁
  have hs₁ : s.Keeps s₁ := by
    unfold s₁
    split
    · exact releaseFrame_keeps.after updStripe_keeps
    · exact .refl
  split
  · exact (kept.foldl (fun _ _ => ackPeer_spares.keeps)).after (updStripe_keeps.after hs₁)
  · exact hs₁

theorem onStripe_keeps {h : PeerHdr} {stripe slot : Nat} {f : State → State} {s : State} (k : ∀ t : State, t.Keeps (f t)) :
    s.Keeps (onStripe h stripe slot f s) :=
  kept.ite ackPeer_spares.keeps (kept.ite (kept.ite .refl ackPeer_spares.keeps) (k s))

theorem enterSlot_keeps {h : PeerHdr} {stripe : Nat} {slot : Nat} {isNull : Bool} {s : State} :
    s.Keeps (enterSlot h stripe slot isNull s) :=
  stripeStep_keeps.after updStripe_keeps

theorem execCodeContrib_keeps {h : PeerHdr} {stripe slot : Nat} {fragment : List Byte} {s : State} :
    Leads State.Keeps s (execCodeContrib h stripe slot fragment s) := by
  refine kept.onPeer (fun _ => linkPeer_keeps (fun _ => whenFills_keeps (fun _ => onStripe_keeps (fun u => ?_))))
  extract_lets v x got
  have found {f : FrameId} {t : State} (e : got = some (f, t)) : u.Keeps t := by
    unfold got at e
    split at e
    · cases e
      exact .refl
    · exact newMapFrame_keeps e
  clear_value got
  split
  · exact ackPeer_spares.keeps
  · exact enterSlot_keeps.after (updStripe_keeps.after (hbmWrite_keeps.after (found rfl)))

theorem execCodeNull_keeps {h : PeerHdr} {stripe : Nat} {slot : Nat} {s : State} : Leads State.Keeps s (execCodeNull h stripe slot s) :=
  kept.onPeer (fun _ => onStripe_keeps (fun _ => enterSlot_keeps))

/-! ## Machine/Own.lean -/

theorem dropHandoff_keeps {v : VId} {id : BitVec 32} {s : State} : s.Keeps (dropHandoff v id s) := by
  unfold dropHandoff
  extract_lets _ _ s₁
  have hs₁ : s.Keeps s₁ := dropSent_spares.keeps
  exact updVn_keeps.after (hs₁.trans (.only rfl))

theorem abandon_keeps {v : VId} {x : Handoff} {s : State} : s.Keeps (abandon v x s) := by
  unfold abandon
  extract_lets
  exact dropHandoff_keeps.after ((kept.foldl (fun s₁ _ => by
    split
    · exact dropCopy_keeps.after (kept.ite toTwin_keeps .refl)
    · exact .refl)))

theorem inDoubt_keeps {v : VId} {x : Handoff} {s : State} : s.Keeps (inDoubt v x s) :=
  logFrom_keeps.after (bump_keeps.after enterState_spares.keeps)

theorem releaseMoved_keeps {v : VId} {h : Handle} {dest : NodeId} {span : Nat} {s : State} :
    s.Keeps (releaseMoved v h dest span s) := by
  unfold releaseMoved
  split
  · exact .refl
  · extract_lets s₁ s₂ s₃ s₄ s₅ s₆
    have hs₂ : s.Keeps s₂ := buryWhere_keeps.after buryWhere_keeps
    clear_value s₂
    have hs₃ : s.Keeps s₃ := by
      unfold s₃
      split
      · exact dropMaskRecord_keeps.after hs₂
      · exact hs₂
    clear_value s₃
    have hs₆ : s.Keeps s₆ := updSpan_keeps.after (releaseSpare_keeps.after (releasePages_keeps.after (toTwin_keeps.after hs₃)))
    clear_value s₆
    exact sweepLeaving_keeps.after (hs₆.trans (.only rfl))

theorem sourceReleases_keeps {v : VId} {x : Handoff} {s : State} : s.Keeps (sourceReleases v x s) := by
  unfold sourceReleases
  extract_lets _ s₂
  have hs₂ : s.Keeps s₂ := bump_keeps.after (dropHandoff_keeps.after (kept.foldl (fun _ _ => releaseMoved_keeps)))
  split
  · exact complete_keeps.after hs₂
  · exact hs₂

theorem destinationWins_keeps {v : VId} {x : Handoff} {s : State} : s.Keeps (destinationWins v x s) :=
  bump_keeps.after ((kept.foldl (fun _ _ => allAcked_keeps.after adoptSpan_keeps)).after (updVn_keeps.after dropHandoff_keeps))

theorem execOwnCommit_keeps {c : Cmd} {handoffId : BitVec 32} {s : State} : Leads State.Keeps s (execOwnCommit c handoffId s) :=
  kept.runVerb (fun s₁ => by
    extract_lets
    split
    · exact .refl
    · exact .refl
    · split
      · exact .refl
      · split
        · exact .refl
        · split
          · exact kept.now destinationWins_keeps
          · exact .refl
          · exact kept.now takeEstimate_keeps)

theorem ownWaitRow_keeps {v : VId} {handoffId : BitVec 32} {s : State} : Leads State.Keeps s (ownWaitRow v handoffId s) :=
  kept.onNode (fun s₁ => by
    extract_lets
    split
    · exact .refl
    · split
      · split
        · exact complete_keeps.after dropHandoff_keeps
        · exact dropHandoff_keeps
      · exact inDoubt_keeps
      · exact kept.ite inDoubt_keeps abandon_keeps
      · exact inDoubt_keeps
      · exact .refl)

theorem ownResolveRow_keeps {c : Cmd} {handoffId : BitVec 32} {winner : BitVec 1} {s : State} :
    Leads State.Keeps s (ownResolveRow c handoffId winner s) :=
  kept.runVerb (fun _ => kept.withParams (fun s₂ => by
    extract_lets
    split
    · exact .refl
    · split
      · exact .refl
      · split
        · split
          · exact kept.now sourceReleases_keeps
          · refine kept.now ?_
            split
            · exact complete_keeps.after dropHandoff_keeps
            · exact dropHandoff_keeps
        · split
          · split
            · exact kept.now destinationWins_keeps
            · exact .refl
          · exact kept.now abandon_keeps))

theorem moveRefused_keeps {c : Cmd} {v : VId} {holder : NodeId} {h : Handle} {span : Nat} {left : List NodeId} {st : Status}
    {s : State} : s.Keeps (moveRefused c v holder h span left st s) := by
  unfold moveRefused
  split
  · exact kept.ite moveTo_spares.keeps complete_keeps
  · exact complete_keeps

theorem ownAnswer_keeps {id : Nat} {st : Status} {s : State} : s.Keeps (ownAnswer id st s) := by
  unfold ownAnswer
  extract_lets
  split
  · exact moveRefused_keeps.after (kept.ite (learnFenced_spares.keeps.after endJob_keeps) endJob_keeps)
  · extract_lets s₂ s₃
    have hs₂ : s.Keeps s₂ := kept.ite (learnFenced_spares.keeps.after endJob_keeps) endJob_keeps
    have hs₃ : s.Keeps s₃ := dropHandoff_keeps.after hs₂
    split
    · exact hs₂
    · split
      · split
        · exact moveRefused_keeps.after hs₃
        · exact hs₃
      · split
        · exact hs₂
        · split
          · exact startCopy_keeps.after (updHandoff_spares.keeps.after hs₂)
          · exact kept.ite (enterState_spares.keeps.after hs₂) (kept.ite (abandon_keeps.after hs₂) hs₂)
          · exact kept.ite (sourceReleases_keeps.after hs₂) hs₂
          · exact hs₂
  · exact .refl

theorem writeMsgRow_keeps {m : Msg} {payload : List Byte} {s : State} : Leads State.Keeps s (writeMsgRow m payload s) :=
  kept.onMsg (fun s₁ => by
    split
    · exact ownAnswer_keeps.after (.only rfl)
    · exact fanWrite_keeps
    · exact bumpV_keeps)

theorem execCopyManifest_keeps {h : PeerHdr} {spans : List (Handle × SpanIx)} {s : State} :
    Leads State.Keeps s (execCopyManifest h spans s) :=
  kept.onPeer (fun _ => whenFills_keeps (fun s₂ => by
    extract_lets _ _ s₃ s₄
    have hs₃ : s₂.Keeps s₃ := ackPeer_spares.keeps.after enterManifest_keeps
    have hs₄ : s₂.Keeps s₄ := updVn_keeps.after hs₃
    exact kept.ite (kept.ite (copyComplete_keeps.after hs₄) hs₄) hs₃))

theorem execCopyDone_keeps {h : PeerHdr} {s : State} : Leads State.Keeps s (execCopyDone h s) := by
  unfold execCopyDone
  extract_lets
  exact kept.onPeer (fun s₁ => by
    extract_lets
    split
    · exact manifestStep_keeps.after ackPeer_spares.keeps
    · extract_lets _ s₃
      have hs₃ : s₁.Keeps s₃ := updHandoff_spares.keeps.after ackPeer_spares.keeps
      split
      · exact ackPeer_spares.keeps
      · split
        · exact tryAccept_spares.keeps.after ((kept.foldl (fun _ _ => mirrorWhole_keeps)).after hs₃)
        · exact hs₃)

/-! ## Machine/Resume.lean -/

/-- The state after a row that goes on, and the one before where it ends in a fault. -/
theorem after_keeps {r : Res} {s : State} (h : Leads State.Keeps s r) : s.Keeps (after r s) := by
  unfold after
  split
  · exact h _ rfl
  · exact .refl

theorem rerun_keeps {d : Deferred} {s : State} : s.Keeps (rerun d s) := by
  unfold rerun
  split
  · exact appendFrom_keeps
  · exact appendFrom_keeps
  · exact after_keeps spanOpenRow_keeps
  · exact after_keeps spanLocateRow_keeps
  · exact after_keeps spanCloseRow_keeps
  · exact after_keeps execSpanMove_spares.keeps
  · exact after_keeps spanAliasRow_keeps
  · exact after_keeps execSpanCoverage_spares.keeps
  · exact after_keeps spanResetRow_keeps
  · exact after_keeps execKvSmooth_keeps
  · exact after_keeps kvMaskSetRow_keeps
  · exact after_keeps kvMaskTileRow_keeps
  · exact after_keeps execKvMaskDrop_keeps
  · exact after_keeps execScrubVerify_keeps
  · exact after_keeps execTierPromote_keeps
  · exact after_keeps execTierDemote_keeps
  · exact after_keeps execTierPin_keeps
  · exact after_keeps execTierUnpin_keeps
  · exact after_keeps execTierStatus_spares.keeps
  · exact .refl

theorem undefer_keeps {id : Nat} {s : State} : s.Keeps (undefer id s) := .only rfl

theorem goOn_keeps {d : Deferred} {s : State} : s.Keeps (goOn d s) := kept.ite (.only rfl) (rerun_keeps.after undefer_keeps)

theorem runHeld_keeps {p : State → Deferred → Bool} {ds : List Deferred} {s : State} : s.Keeps (runHeld p ds s) :=
  (kept.foldl (fun _ _ => kept.ite goOn_keeps .refl))

theorem wake_keeps {s : State} : s.Keeps (wake s) :=
  sweepImages_keeps.after (settle_keeps.after (settleCloses_keeps.after (settleUe_keeps.after
    (resumeFilled_keeps.after runHeld_keeps))))

theorem idle_keeps {s : State} : s.Keeps (idle s) := countTime_keeps.after (kept.ite (settleMaps_keeps.after settleUe_keeps) .refl)

theorem waking_keeps {f : State → Res} {s : State} (h : ∀ t, Leads State.Keeps t (f t)) : Leads State.Keeps s (waking f s) := by
  unfold waking
  split
  · split
    · next e => exact .next (wake_keeps.after (h _ _ e))
    · next e => exact fun t ht => absurd ht (e t)
  · exact .next .refl

theorem filling_keeps {hold f : State → Res} {s : State} (h : ∀ t, Leads State.Keeps t (hold t)) (k : ∀ t, Leads State.Keeps t (f t)) :
    Leads State.Keeps s (filling hold f s) := by
  unfold filling
  split
  · split
    · next e =>
      split
      · exact h s
      · exact .next (settleUe_keeps.after (k _ _ e))
    · next e => exact fun t ht => absurd ht (e t)
  · exact .next .refl

theorem holdCmd_keeps {c : Cmd} {i : Instr} {s : State} : Leads State.Keeps s (holdCmd c i s) := kept.runVerb (fun _ => defer_keeps)

theorem dispatchHeld_keeps {q : HeldQuery} {s : State} : s.Keeps (dispatchHeld q s) := by
  unfold dispatchHeld
  split
  · exact dispatchBatch_keeps
  · exact .refl

theorem resumeQuery_keeps {id : Nat} {q : HeldQuery} {s : State} : s.Keeps (resumeQuery id q s) := by
  unfold resumeQuery
  extract_lets _ s₁
  have hs₁ : s.Keeps s₁ := .only rfl
  refine dispatchHeld_keeps.after ?_
  split
  · split
    · exact fanDesc_keeps.after hs₁
    · exact hs₁
  · exact admitDesc_keeps.after hs₁

theorem wakeBank_keeps {b : Nat} {s : State} : s.Keeps (wakeBank b s) :=
  wake_keeps.after ((kept.foldl (fun _ _ => resumeQuery_keeps)).after runHeld_keeps)

theorem settleEntries_keeps {s : State} : s.Keeps (settleEntries s) :=
  (kept.foldl (fun s₁ _ => by
    split
    · exact kept.ite (complete_keeps.after endJob_keeps) (kept.ite .refl (complete_keeps.after endJob_keeps))
    · exact kept.ite (complete_keeps.after endJob_keeps) setJob_keeps
    · exact .refl))

theorem bankChanged_keeps {b : Nat} {s : State} : s.Keeps (bankChanged b s) :=
  wakeBank_keeps.after (settle_keeps.after (settleEntries_keeps.after sweepLeaving_keeps))

theorem execDirUpdateEnd_keeps {bank : BitVec 4} {s : State} : Leads State.Keeps s (execDirUpdateEnd bank s) :=
  kept.onNode (fun _ => kept.ite .refl (bankChanged_keeps.after endUpdate_keeps))

theorem execDirBankRebuildEnd_keeps {bank : BitVec 4} {s : State} : Leads State.Keeps s (execDirBankRebuildEnd bank s) :=
  kept.onNode (fun _ => kept.ite .refl (bankChanged_keeps.after rebuildBank_keeps))

theorem endHeld_keeps {d : Deferred} {st : Status} {s : State} : s.Keeps (endHeld d st s) := by
  unfold endHeld
  extract_lets
  split
  · exact answerAppend_keeps
  · exact answerAppend_keeps
  · exact complete_keeps
  · exact complete_keeps
  · exact complete_keeps
  · exact complete_keeps
  · exact complete_keeps
  · exact complete_keeps
  · exact complete_keeps
  · exact complete_keeps
  · exact complete_keeps
  · exact complete_keeps
  · exact complete_keeps
  · exact complete_keeps
  · exact complete_keeps
  · exact complete_keeps
  · exact complete_keeps
  · exact complete_keeps
  · exact complete_keeps
  · exact .refl

theorem endQuery_keeps {id : Nat} {q : HeldQuery} {st : Status} {s : State} : s.Keeps (endQuery id q st s) := by
  unfold endQuery
  extract_lets _ s₁
  have hs₁ : s.Keeps s₁ := .only rfl
  exact settle_keeps.after (dispatchHeld_keeps.after (refuseDesc_keeps.after (kept.ite (bump_keeps.after hs₁) hs₁)))

theorem execDirWaitExpiry_keeps {job : Nat} {s : State} : Leads State.Keeps s (execDirWaitExpiry job s) :=
  kept.onNode (fun s₁ => by
    split
    · split
      · exact wake_keeps.after (kept.ite (endHeld_keeps.after undefer_keeps) goOn_keeps)
      · exact .refl
    · exact wake_keeps.after (kept.ite endQuery_keeps resumeQuery_keeps)
    · exact .refl)

theorem dirCleared_keeps {v : VId} {s : State} : s.Keeps (dirCleared v s) :=
  (kept.foldl (fun _ _ => bankChanged_keeps)).after clearDir_keeps

theorem execDirClear_keeps {c : Cmd} {s : State} : Leads State.Keeps s (execDirClear c s) :=
  kept.runVerb (fun _ => kept.withParams (fun _ => kept.now dirCleared_keeps))

theorem execSpanCreateTimeout_keeps {tag : BitVec 32} {s : State} : Leads State.Keeps s (execSpanCreateTimeout tag s) :=
  kept.onNode (fun s₁ => by
    split
    · split
      · exact wake_keeps.after (assignAnswer_keeps.after (.only rfl))
      · exact .refl
    · exact .refl)

theorem execKvSmoothTimeout_keeps {job : Nat} {s : State} : Leads State.Keeps s (execKvSmoothTimeout job s) :=
  kept.onNode (fun s₁ => by
    split
    · exact wake_keeps.after (complete_keeps.after (smoothEnd_keeps.after (dropSent_spares.keeps.after endJob_keeps)))
    · exact .refl)

theorem execSmoothInstall_keeps {h : PeerHdr} {layer : BitVec 16} {head : BitVec 8} {sigma : Option (List (BitVec 32))} {s : State} :
    Leads State.Keeps s (execSmoothInstall h layer head sigma s) :=
  kept.onPeer (fun s₁ => by
    extract_lets s₂
    have hs₂ : s₁.Keeps s₂ := by
      unfold s₂
      split
      · exact installSigma_keeps
      · exact .refl
    exact wake_keeps.after (ackPeer_spares.keeps.after (freeLayer_spares.keeps.after hs₂)))

theorem dropAppend_keeps {id : Nat} {src : AppendSrc} {d : AppendDesc} {f : FrameId} {s t : State}
    (h : dropAppend id s = some (src, d, f, t)) : s.Keeps t := by
  unfold dropAppend at h
  split at h
  · cases h
    exact dropSent_spares.keeps.after (endJob_keeps.after freeAppend_keeps)
  · cases h
    exact endJob_keeps.after freeAppend_keeps
  · cases h

theorem execMirrorAckTimeout_keeps {job : Nat} {s : State} : Leads State.Keeps s (execMirrorAckTimeout job s) :=
  kept.onNode (fun s₁ => by
    split
    · exact .refl
    · next src d rec s₂ e =>
        exact wake_keeps.after (answerAppend_keeps.after (bump_keeps.after (takeEstimate_keeps.after (dropAppend_keeps e)))))

theorem execDataRequestTimeout_keeps {req : Nat} {s : State} : Leads State.Keeps s (execDataRequestTimeout req s) :=
  kept.onNode (fun s₁ => by
    split
    · exact settle_keeps.after failReq_keeps
    · split
      · exact wake_keeps.after endQuery_keeps
      · split
        · next src d rec s₂ e =>
            exact wake_keeps.after (answerAppend_keeps.after (dropAppend_keeps e))
        · split
          · split
            · exact wake_keeps.after (answerAppend_keeps.after undefer_keeps)
            · exact wake_keeps.after (answerAppend_keeps.after undefer_keeps)
            · exact .refl
          · split
            · exact complete_keeps.after endJob_keeps
            · exact .refl)

theorem execAppend_keeps {m : Msg} {payload : List Byte} {u : Upsets} {s : State} : Leads State.Keeps s (execAppend m payload u s) :=
  filling_keeps (fun _ => kept.onMsg (fun _ => defer_keeps.after applyDirUpsets_spares.keeps)) (fun _ => appendMsgRow_keeps)

theorem execKvAppend_keeps {c : Cmd} {payload : List Byte} {u : Upsets} {s : State} :
    Leads State.Keeps s (execKvAppend c payload u s) :=
  filling_keeps (fun _ => kept.leads holdCmd_keeps applyDirUpsets_spares.keeps) (fun _ => kvAppendRow_keeps)

theorem execSpanOpen_keeps {c : Cmd} {p : SpanOpenBlk} {prefer : List NodeId} {s : State} :
    Leads State.Keeps s (execSpanOpen c p prefer s) :=
  filling_keeps (fun _ => holdCmd_keeps) (fun _ => spanOpenRow_keeps)

theorem execSpanLocate_keeps {c : Cmd} {t : Target} {prefer : List NodeId} {s : State} :
    Leads State.Keeps s (execSpanLocate c t prefer s) :=
  filling_keeps (fun _ => holdCmd_keeps) (fun _ => spanLocateRow_keeps)

theorem execSpanAlias_keeps {c : Cmd} {p : AliasBlk} {s : State} : Leads State.Keeps s (execSpanAlias c p s) :=
  filling_keeps (fun _ => holdCmd_keeps) (fun _ => spanAliasRow_keeps)

theorem execKvMaskSet_keeps {c : Cmd} {handle : Handle} {span : SpanIx} {maskRows : BitVec 14} {initialKind : BitVec 2} {s : State} :
    Leads State.Keeps s (execKvMaskSet c handle span maskRows initialKind s) :=
  filling_keeps (fun _ => holdCmd_keeps) (fun _ => kvMaskSetRow_keeps)

theorem execKvMaskTile_keeps {c : Cmd} {handle : Handle} {span : SpanIx} {tileRow : BitVec 6} {tileCol : BitVec 13} {tile : List Byte}
    {s : State} : Leads State.Keeps s (execKvMaskTile c handle span tileRow tileCol tile s) :=
  filling_keeps (fun _ => holdCmd_keeps) (fun _ => kvMaskTileRow_keeps)

theorem execStackSensorRead_keeps {stack : BitVec 3} {temp : Int} {power : Nat} {quietMs : Bool} {s : State} :
    Leads State.Keeps s (execStackSensorRead stack temp power quietMs s) :=
  waking_keeps (fun _ => sensorRow_keeps)

theorem execPageSeal_keeps {s : State} : Leads State.Keeps s (execPageSeal s) := waking_keeps (fun _ => pageSealRow_keeps)

theorem execApertureWrite_keeps {offset : BitVec 28} {bytes : List Byte} {u : Upsets} {s : State} :
    Leads State.Keeps s (execApertureWrite offset bytes u s) :=
  waking_keeps (fun _ => apertureWriteRow_keeps)

theorem execSpanClose_keeps {c : Cmd} {t : Target} {s : State} : Leads State.Keeps s (execSpanClose c t s) :=
  waking_keeps (fun _ => spanCloseRow_keeps)

theorem execSeqClose_keeps {h : PeerHdr} {s : State} : Leads State.Keeps s (execSeqClose h s) :=
  waking_keeps (fun _ => seqCloseRow_keeps)

theorem execSpanFillReport_keeps {h : PeerHdr} {prefer : List NodeId} {s : State} :
    Leads State.Keeps s (execSpanFillReport h prefer s) :=
  waking_keeps (fun _ => fillReportRow_keeps)

theorem execSpanReset_keeps {c : Cmd} {t : Target} {s : State} : Leads State.Keeps s (execSpanReset c t s) :=
  waking_keeps (fun _ => spanResetRow_keeps)

theorem execNodeMap_keeps {c : Cmd} {p : MapBlk} {prefer : List NodeId} {s : State} : Leads State.Keeps s (execNodeMap c p prefer s) :=
  waking_keeps (fun _ => nodeMapRow_keeps)

theorem execTwinSolo_keeps {c : Cmd} {takeover : Bool} {s : State} : Leads State.Keeps s (execTwinSolo c takeover s) :=
  waking_keeps (fun _ => twinSoloRow_keeps)

theorem execWrite_keeps {m : Msg} {payload : List Byte} {s : State} : Leads State.Keeps s (execWrite m payload s) :=
  waking_keeps (fun _ => writeMsgRow_keeps)

theorem execOwnResolve_keeps {c : Cmd} {handoffId : BitVec 32} {winner : BitVec 1} {s : State} :
    Leads State.Keeps s (execOwnResolve c handoffId winner s) :=
  waking_keeps (fun _ => ownResolveRow_keeps)

theorem execOwnWaitExpiry_keeps {v : VId} {handoffId : BitVec 32} {s : State} : Leads State.Keeps s (execOwnWaitExpiry v handoffId s) :=
  waking_keeps (fun _ => ownWaitRow_keeps)

theorem forget_keeps {tag : BitVec 32} {s : State} : s.Keeps (forget tag s) := .only rfl

theorem noteAcked_keeps {twinLink : Bool} {v : VId} {h : Handle} {span : Nat} {ims : List RowsImage} {s : State} :
    s.Keeps (noteAcked twinLink v h span ims s) := by
  unfold noteAcked
  split
  · exact .refl
  · exact updSpan_keeps

theorem appendsAcked_keeps {v : VId} {job : Option Nat} {s : State} : s.Keeps (appendsAcked v job s) := by
  unfold appendsAcked
  extract_lets s₁
  have hs₁ : s.Keeps s₁ := by
    unfold s₁
    split
    · exact kept.ite .refl resumeAppend_keeps
    · exact .refl
  exact (kept.foldl (fun _ _ => resumeAppend_keeps)).after hs₁

theorem copyStep_keeps {m : PeerMsg} {job : Option Nat} {s : State} : s.Keeps (copyStep m job s) := by
  unfold copyStep
  split
  · exact .refl
  · split
    · exact .refl
    · split
      · exact sendPeer_spares.keeps.after setJob_keeps
      · exact manifestStep_keeps.after endJob_keeps
      · exact updHandoff_spares.keeps.after endJob_keeps
      · exact .refl

theorem sendCopy_keeps {tag : BitVec 32} {x : PeerSent} {layer : Nat} {head : Nat} {page : Nat} {s : State} :
    s.Keeps (sendCopy tag x layer head page s) := by
  unfold sendCopy
  extract_lets
  split
  · exact handPeer_spares.keeps.after (.only rfl)
  · exact .only rfl
  · exact copyStep_keeps.after forget_keeps

theorem copyFailed_keeps {tag : BitVec 32} {x : PeerSent} {layer : Nat} {head : Nat} {page : Nat} {s : State} :
    s.Keeps (copyFailed tag x layer head page s) := by
  unfold copyFailed
  extract_lets _ s₁
  have hs₁ : s.Keeps s₁ := by
    unfold s₁
    split
    · exact verifyPage_keeps
    · exact .refl
  exact kept.ite (copyStep_keeps.after forget_keeps) (sendCopy_keeps.after hs₁)

theorem sealDiffers_keeps {m : PeerMsg} {layer : Nat} {head : Nat} {page : Nat} {s : State} :
    s.Keeps (sealDiffers m layer head page s) := by
  unfold sealDiffers
  split
  · exact .refl
  · extract_lets
    split
    · split
      · exact .refl
      · split
        · exact askOther_keeps.after awaitPage_keeps
        · exact .refl
    · exact .refl

theorem sealTaken_keeps {m : PeerMsg} {layer : Nat} {head : Nat} {page : Nat} {s : State} :
    s.Keeps (sealTaken m layer head page s) := by
  unfold sealTaken
  split
  · exact updPage_keeps
  · exact .refl

theorem noCopy_keeps {m : PeerMsg} {layer head page : Nat} {s : State} : s.Keeps (noCopy m layer head page s) := by
  unfold noCopy
  extract_lets f
  clear_value f
  split
  · exact kept.ite noGoodCopy_keeps .refl
  · exact .refl

theorem reportTaken_keeps {m : PeerMsg} {ok : Bool} {s : State} : s.Keeps (reportTaken m ok s) := by
  unfold reportTaken
  split
  · exact kept.ite (dropLowerSpare_keeps.after (mirrorSpan_keeps.after updSpan_keeps)) .refl
  · exact .refl

theorem ackOf_keeps {tag : BitVec 32} {x : PeerSent} {st : Status} {fill : Nat} {s : State} : s.Keeps (ackOf tag x st fill s) := by
  unfold ackOf
  extract_lets
  split
  · exact kept.ite (appendsAcked_keeps.after (noteAcked_keeps.after forget_keeps)) .refl
  · exact kept.ite (appendsAcked_keeps.after (noteAcked_keeps.after forget_keeps)) .refl
  · split
    · exact sealDiffers_keeps.after forget_keeps
    · exact kept.ite (sealTaken_keeps.after forget_keeps) (kept.ite forget_keeps .refl)
  · split
    · split
      · exact seqMoved_keeps.after forget_keeps
      · exact forget_keeps
    · exact .refl
  · exact kept.ite (noCopy_keeps.after forget_keeps) forget_keeps
  · exact contribAck_keeps.after forget_keeps
  · exact contribAck_keeps.after forget_keeps
  · exact kept.ite forget_keeps .refl
  · exact kept.ite (copyStep_keeps.after forget_keeps) .refl
  · exact kept.ite (copyStep_keeps.after forget_keeps) .refl
  · exact kept.ite (copyStep_keeps.after forget_keeps) (kept.ite copyFailed_keeps .refl)
  · exact kept.ite forget_keeps .refl
  · split
    · exact kept.ite (closeDenied_keeps.after forget_keeps) (closeAck_keeps.after forget_keeps)
    · exact forget_keeps
  · exact kept.ite .refl (reportTaken_keeps.after forget_keeps)
  · split
    · exact assignAnswer_keeps.after forget_keeps
    · exact forget_keeps
  · split
    · exact smoothReport_keeps.after forget_keeps
    · exact forget_keeps
  · exact forget_keeps

theorem acceptsDue_keeps {v : VId} {s : State} : s.Keeps (acceptsDue v s) :=
  (kept.foldl (fun _ _ => kept.ite tryAccept_spares.keeps .refl))

theorem execPeerAck_keeps {h : PeerHdr} {status : Status} {fill : Nat} {s : State} :
    Leads State.Keeps s (execPeerAck h status fill s) :=
  kept.onPeerAck (fun _ => whenFills_keeps (fun s₂ => by
    extract_lets
    split
    · exact .refl
    · exact kept.ite .refl (wake_keeps.after (acceptsDue_keeps.after (ackOf_keeps.after (kept.ite learnFenced_spares.keeps .refl))))))

theorem execPeerResend_keeps {tag : BitVec 32} {s : State} : Leads State.Keeps s (execPeerResend tag s) :=
  kept.onNode (fun s₁ => by
    split
    · exact .refl
    · extract_lets
      split
      · exact .refl
      · split
        · exact sendCopy_keeps
        · exact handPeer_spares.keeps.after (.only rfl))

/-! ## Machine/Tenancy.lean -/

theorem abortQueries_keeps {s : State} : s.Keeps (abortQueries s) :=
  (kept.foldl (fun _ _ => fanFail_spares.keeps)).after ((kept.foldl (fun _ _ => endQuery_keeps)).after failReqs_keeps)

theorem abortAppends_keeps {s : State} : s.Keeps (abortAppends s) := by
  unfold abortAppends
  extract_lets s₁
  have hs₁ : s.Keeps s₁ := (kept.foldl (fun s₂ _ => by
    split
    · exact endHeld_keeps
    · exact .refl))
  exact (kept.foldl (fun s₂ _ => by
    split
    · exact answerAppend_keeps
    · exact answerAppend_keeps
    · exact .refl)).after hs₁

theorem abortCommands_keeps {s : State} : s.Keeps (abortCommands s) := (kept.foldl (fun _ _ => kept.ite completeOnly_keeps .refl))

theorem abortEntered_keeps {e : Entered} {s : State} : s.Keeps (abortEntered s e) := by
  unfold abortEntered
  extract_lets
  split
  · exact answerAppend_keeps
  · split
    · split
      · exact refuseQuery_keeps
      · exact kept.foldl (fun _ _ => sendRecord_spares.keeps)
    · exact kept.ite sendReply_keeps .refl

theorem refuseHeld_keeps {s : State} : s.Keeps (refuseHeld s) := (kept.foldl (fun _ _ => (kept.foldl (fun _ _ => refuseNew_keeps))))

theorem freeObjects_keeps {s : State} : s.Keeps (freeObjects s) := by
  unfold freeObjects
  extract_lets _ s₂
  have hs₂ : s.Keeps s₂ := refuseHeld_keeps.after
    ((kept.foldl (fun _ _ => kept.ite (endWaiter_keeps.after dropWaiter_same.keeps) .refl)))
  exact hs₂.trans (.only rfl)

theorem dropWork_keeps {s : State} : s.Keeps (dropWork s) := .only rfl

theorem endRequests_keeps {s : State} : s.Keeps (endRequests s) :=
  dropWork_keeps.after (freeObjects_keeps.after (abortCommands_keeps.after (abortAppends_keeps.after (abortQueries_keeps.after
    (kept.foldl (fun _ _ => abortEntered_keeps))))))

theorem cutFabric_keeps {s : State} : s.Keeps (cutFabric s) := by
  unfold cutFabric
  extract_lets s₁ _ s₃
  have hs₁ : s.Keeps s₁ := .only rfl
  have hs₃ : s.Keeps s₃ := (kept.foldl (fun _ _ => dropAssoc_spares.keeps)).after
    ((kept.foldl (fun _ _ => qpError_spares.keeps)).after hs₁)
  exact hs₃.trans (.only rfl)

theorem changeKeys_keeps {tk : Option (List Byte)} {s : State} : s.Keeps (changeKeys tk s) := by
  have rekeyed {u : State} {x : Option (List Byte)} : u.Keeps { u with mem := u.mem.rekeyFrames, mgmt := { u.mgmt with tk := x } } :=
    keeps_of_mem rfl Memory.rekeyFrames_wf
  have keyed {u : State} {a b : List Byte} : u.Keeps { u with mgmt := { u.mgmt with hbmKeys := a, flashKeys := b } } := .only rfl
  have dropped : s.Keeps (dropKey 3 (dropKey 2 (dropKey 1 s))) := dropKey_spares.keeps.after
    (dropKey_spares.keeps.after dropKey_spares.keeps)
  unfold changeKeys
  extract_lets s₁ _ s₂
  have hs₂ : s.Keeps s₂ := rekeyed.after dropped
  split
  · exact installKey_spares.keeps.after (installKey_spares.keeps.after (installKey_spares.keeps.after (keyed.after hs₂)))
  · exact interimKeys_spares.keeps.after hs₂

theorem repairFrames_keeps {s : State} : s.Keeps (repairFrames s) := (kept.foldl (fun _ _ => repairFrame_keeps))

theorem forgetPages_keeps {s : State} : s.Keeps (forgetPages s) := by
  unfold forgetPages
  extract_lets s₁
  have hs₁ : s.Keeps s₁ := repairFrames_keeps
  exact (kept.foldl (fun _ _ => clearDir_keeps)).after (hs₁.trans (.only rfl))

theorem forgetLog_keeps {s : State} : s.Keeps (forgetLog s) :=
  ⟨rfl, fun ⟨hm, _, _, hq⟩ => ⟨hm, Nat.zero_le _, rfl, hq⟩⟩

theorem enterTenancy_keeps {new : Nat} {tk : Option (List Byte)} {s : State} : s.Keeps (enterTenancy new tk s) := by
  unfold enterTenancy
  extract_lets _ _ _ s₁
  have hs₁ : s.Keeps s₁ := .only rfl
  exact logFrom_keeps.after (((extendMeas_spares (by decide)).keeps).after hs₁)

theorem tenantChange_keeps {new : Nat} {tk : Option (List Byte)} {s : State} : s.Keeps (tenantChange new tk s) :=
  settle_keeps.after (enterTenancy_keeps.after (forgetLog_keeps.after (forgetPages_keeps.after (changeKeys_keeps.after
    (cutFabric_keeps.after endRequests_keeps)))))

/-! ## Machine/Mgmt.lean -/

theorem endTenantSessions_keeps {s : State} : s.Keeps (endTenantSessions s) := (kept.foldl (fun _ _ => endSession_spares.keeps))

theorem changeFor_keeps {r : MgmtReq} {new : Nat} {tk : Option (List Byte)} {s : State} : s.Keeps (changeFor r new tk s) :=
  endTenantSessions_keeps.after (mgmtAnswer_spares.keeps.after tenantChange_keeps)

theorem execTenancySeal_keeps {r : MgmtReq} {tk : List Byte} {hostData : BitVec 8} {anchors : List AnchorEntry} {s : State} :
    Leads State.Keeps s (execTenancySeal r tk hostData anchors s) :=
  kept.onMgmt (fun s₁ => by
    extract_lets s₂
    have hs₂ : s₁.Keeps s₂ := setAnchors_spares.keeps.after setDebugLock_spares.keeps
    exact kept.ite mgmtAnswer_spares.keeps (kept.ite mgmtAnswer_spares.keeps (changeFor_keeps.after (hs₂.trans (.only rfl)))))

theorem execTenancyOpen_keeps {r : MgmtReq} {tk : List Byte} {s : State} : Leads State.Keeps s (execTenancyOpen r tk s) :=
  kept.onMgmt (fun s₁ => by
    extract_lets
    split
    · exact mgmtAnswer_spares.keeps
    · exact kept.ite mgmtAnswer_spares.keeps (changeFor_keeps.after (.only rfl)))

theorem execTenancyRelease_keeps {r : MgmtReq} {s : State} : Leads State.Keeps s (execTenancyRelease r s) :=
  kept.onMgmt (fun _ => kept.ite mgmtAnswer_spares.keeps (changeFor_keeps.after (.only rfl)))

/-! ## Machine/Sram.lean -/

theorem dropJob_keeps {id : Nat} {j : Job} {s : State} : s.Keeps (dropJob id j s) := by
  unfold dropJob
  extract_lets
  split
  · exact smoothEnd_keeps.after endJob_keeps
  · exact endJob_keeps

theorem abortHeld_keeps {c : Cmd} {s : State} : s.Keeps (abortHeld c s) := by
  unfold abortHeld
  extract_lets s₁ s₂
  have hs₁ : s.Keeps s₁ := .only rfl
  have hs₂ : s.Keeps s₂ := (kept.foldl (fun s₃ _ => by
    split
    · exact setJob_keeps
    · exact kept.ite dropJob_keeps .refl)).after hs₁
  exact kept.ite .refl (completeOnly_keeps.after hs₂)

theorem restartCore_keeps {m : Nat} {s : State} : s.Keeps (restartCore m s) := by
  unfold restartCore
  extract_lets s₁
  have hs₁ : s.Keeps s₁ := kept.ite (resetMail_spares.keeps.after resetMail_spares.keeps) .refl
  exact settle_keeps.after ((kept.foldl (fun _ _ => abortHeld_keeps)).after (hs₁.trans (.only rfl)))

theorem loseMessage_keeps {q : BitVec 12} {n : BitVec 24} {s : State} : s.Keeps (loseMessage q n s) := by
  unfold loseMessage
  split
  · exact .refl
  · split
    · exact .refl
    · exact kept.ite .refl (rejectMsg_keeps.after updQp_keeps)

theorem sramEffect_keeps {e : SramErr} {s : State} : s.Keeps (sramEffect e s) := by
  unfold sramEffect
  extract_lets
  split
  · exact failReq_keeps
  · exact failReq_keeps
  · exact logFrom_keeps.after (bump_keeps.after markRebuilding_spares.keeps)
  · exact .only rfl
  · exact settle_keeps.after qpError_spares.keeps
  · exact settle_keeps.after (kept.ite ringError_keeps .refl)
  · exact settle_keeps.after failObject_keeps
  · exact restartCore_keeps
  · exact loseMessage_keeps
  · exact .refl

theorem sramError_keeps {e : SramErr} {s : State} : s.Keeps (sramError s e) :=
  kept.ite bump_keeps (sramEffect_keeps.after (logFrom_keeps.after bump_keeps))

theorem execSramScrub_keeps {errs : List SramErr} {s : State} : Leads State.Keeps s (execSramScrub errs s) :=
  kept.onNode (fun _ => (kept.foldl (fun _ _ => sramError_keeps)))

end Sys2Proof.Machine


/-! # Every row keeps the queue and the invariant: O47, O48 -/

namespace Sys2Proof.Machine

/-- Every row keeps the queue, and the invariant where it holds. -/
theorem exec_keeps {i : Instr} {s : State} : Leads State.Keeps s (exec i s) := by
  cases i with
  | cfgImage => exact execCfgImage_spares.keeps
  | cfgProfile => exact execCfgProfile_spares.keeps
  | cfgRead => exact execCfgRead_same.spares.keeps
  | spanOpen => exact execSpanOpen_keeps
  | spanCreateRequest => exact execSpanCreateRequest_keeps
  | spanCreateTimeout => exact execSpanCreateTimeout_keeps
  | spanFillReport => exact execSpanFillReport_keeps
  | spanLocate => exact execSpanLocate_keeps
  | sequenceRecordMove => exact execSequenceRecordMove_keeps
  | spanClose => exact execSpanClose_keeps
  | spanCloseTimeout => exact execSpanCloseTimeout_spares.keeps
  | seqClose => exact execSeqClose_keeps
  | spanAlias => exact execSpanAlias_keeps
  | spanMove => exact execSpanMove_spares.keeps
  | spanCoverage => exact execSpanCoverage_spares.keeps
  | spanReset => exact execSpanReset_keeps
  | frameDrainEnd => exact execFrameDrainEnd_keeps
  | quarantineEnd => exact execQuarantineEnd_keeps
  | dataRequestTimeout => exact execDataRequestTimeout_keeps
  | dirBankRebuildEnd => exact execDirBankRebuildEnd_keeps
  | dirScrub => exact execDirScrub_spares.keeps
  | dirUpdateEnd => exact execDirUpdateEnd_keeps
  | dirWaitExpiry => exact execDirWaitExpiry_keeps
  | dirHoleRestore => exact execDirHoleRestore_spares.keeps
  | tombstoneExpiry => exact execTombstoneExpiry_spares.keeps
  | dirClear => exact execDirClear_keeps
  | dirRead => exact execDirRead_same.spares.keeps
  | dirProbe => exact execDirProbe_spares.keeps
  | append => exact execAppend_keeps
  | kvAppend => exact execKvAppend_keeps
  | spareReplenish => exact execSpareReplenish_keeps
  | pageSeal => exact execPageSeal_keeps
  | kvSmooth => exact execKvSmooth_keeps
  | smoothHold => exact execSmoothHold_spares.keeps
  | smoothInstall => exact execSmoothInstall_keeps
  | kvSmoothTimeout => exact execKvSmoothTimeout_keeps
  | kvMaskSet => exact execKvMaskSet_keeps
  | kvMaskTile => exact execKvMaskTile_keeps
  | kvMaskDrop => exact execKvMaskDrop_keeps
  | maskSlotFree => exact execMaskSlotFree_keeps
  | rnNop => exact execRnNop_keeps
  | rnQload => exact execRnQload_keeps
  | rnScale => exact execRnScale_keeps
  | rnScore => exact execRnScore_keeps
  | rnWload => exact execRnWload_keeps
  | rnWeigh => exact execRnWeigh_keeps
  | rnDrain => exact execRnDrain_keeps
  | rnFill => exact execRnFill_keeps
  | rnCopy => exact execRnCopy_keeps
  | rnScrub => exact execRnScrub_keeps
  | rnAbort => exact execRnAbort_spares.keeps
  | rnStatus => exact execRnStatus_spares.keeps
  | refreshDue => exact execRefreshDue_spares.keeps
  | stackSensorRead => exact execStackSensorRead_keeps
  | attnQuery => exact execAttnQuery_keeps
  | query => exact execQuery_keeps
  | attnReserve => exact execAttnReserve_keeps
  | attnAdmitTimeout => exact execAttnAdmitTimeout_keeps
  | keyPassComplete => exact execKeyPassComplete_keeps
  | dieBlockDone => exact execDieBlockDone_keeps
  | segmentComplete => exact execSegmentComplete_keeps
  | valuePassComplete => exact execValuePassComplete_keeps
  | attnMerge => exact execAttnMerge_spares.keeps
  | attnQueryFanout => exact execAttnQueryFanout_keeps
  | fanoutTimeout => exact execFanoutTimeout_spares.keeps
  | readVerify => exact execReadVerify_keeps
  | scrubVerify => exact execScrubVerify_keeps
  | twinVerifyTimeout => exact execTwinVerifyTimeout_keeps
  | replicaRewrite => exact execReplicaRewrite_keeps
  | pageRepair => exact execPageRepair_keeps
  | sramScrub => exact execSramScrub_keeps
  | patrolScrubStep => exact execPatrolScrubStep_keeps
  | scrubPassDone => exact execScrubPassDone_spares.keeps
  | scrubIntervalEnd => exact execScrubIntervalEnd_spares.keeps
  | scrubPass => exact execScrubPass_spares.keeps
  | packPage => exact execPackPage_keeps
  | packCompact => exact execPackCompact_keeps
  | demotePage => exact execDemotePage_keeps
  | demoteComplete => exact execDemoteComplete_keeps
  | promoteComplete => exact execPromoteComplete_keeps
  | promoteStallExpiry => exact execPromoteStallExpiry_keeps
  | tierPromote => exact execTierPromote_keeps
  | tierDemote => exact execTierDemote_keeps
  | tierPin => exact execTierPin_keeps
  | tierUnpin => exact execTierUnpin_keeps
  | tierStatus => exact execTierStatus_spares.keeps
  | flashProbe => exact execFlashProbe_spares.keeps
  | flashRelocate => exact execFlashRelocate_spares.keeps
  | ftlReclaim => exact execFtlReclaim_spares.keeps
  | wearLevel => exact execWearLevel_spares.keeps
  | flashProgramFail => exact execFlashProgramFail_keeps
  | flashEraseBackground => exact execFlashEraseBackground_spares.keeps
  | codecLoad => exact execCodecLoad_spares.keeps
  | codecSelect => exact execCodecSelect_spares.keeps
  | codecRetire => exact execCodecRetire_spares.keeps
  | codecStatus => exact execCodecStatus_same.spares.keeps
  | codecSample => exact execCodecSample_spares.keeps
  | recodeImage => exact execRecodeImage_keeps
  | codecBlock => exact execCodecBlock_keeps (engine := 0)
  | portLinkUp => exact execPortLinkUp_spares.keeps
  | portLinkDown => exact execPortLinkDown_spares.keeps
  | frameReceive => exact execFrameReceive_spares.keeps
  | data => exact execData_spares.keeps
  | ack => exact execAck_spares.keeps
  | ackTimer => exact execAckTimer_spares.keeps
  | retxTimerExpiry => exact execRetxTimerExpiry_spares.keeps
  | rnrWaitExpiry => exact execRnrWaitExpiry_spares.keeps
  | qpRetryExhausted => exact execQpRetryExhausted_spares.keeps
  | qpHoldExpiry => exact execQpHoldExpiry_spares.keeps
  | entropySuspendEnd => exact execEntropySuspendEnd_spares.keeps
  | rateIncrease => exact execRateIncrease_spares.keeps
  | headraceAdmit => exact execHeadraceAdmit_spares.keeps
  | command => exact execCommand_spares.keeps
  | write => exact execWrite_keeps
  | readReq => exact execReadReq_keeps
  | readResp => exact execReadResp_spares.keeps
  | hello => exact execHello_spares.keeps
  | helloSend => exact execHelloSend_spares.keeps
  | neighbourExpiry => exact execNeighbourExpiry_spares.keeps
  | keyAgree1 => exact execKeyAgree1_spares.keeps
  | keyAgree2 => exact execKeyAgree2_spares.keeps
  | keyAgree3 => exact execKeyAgree3_spares.keeps
  | keyAgreeResend => exact execKeyAgreeResend_spares.keeps
  | rxSaRetire => exact execRxSaRetire_spares.keeps
  | rekeyDue => exact execRekeyDue_spares.keeps
  | pnExhausted => exact execPnExhausted_spares.keeps
  | nodeMap => exact execNodeMap_keeps
  | drainWindowEnd => exact execDrainWindowEnd_spares.keeps
  | nodeQpCreate => exact execNodeQpCreate_spares.keeps
  | nodeQpDestroy => exact execNodeQpDestroy_spares.keeps
  | twinPair => exact execTwinPair_spares.keeps
  | twinPairTimeout => exact execTwinPairTimeout_spares.keeps
  | pairPropose => exact execPairPropose_keeps
  | pairConfirm => exact execPairConfirm_keeps
  | twinSolo => exact execTwinSolo_keeps
  | twinCodeset => exact execTwinCodeset_keeps
  | twinStatus => exact execTwinStatus_same.spares.keeps
  | mirrorRecord => exact execMirrorRecord_keeps
  | mirrorRows => exact execMirrorRows_keeps
  | mirrorSeal => exact execMirrorSeal_keeps
  | mirrorRelease => exact execMirrorRelease_keeps
  | mirrorAckTimeout => exact execMirrorAckTimeout_keeps
  | asyncMirrorSend => exact execAsyncMirrorSend_spares.keeps
  | verifyReq => exact execVerifyReq_keeps
  | verifyResp => exact execVerifyResp_keeps
  | codeContrib => exact execCodeContrib_keeps
  | codeNull => exact execCodeNull_keeps
  | codeStripeTimeout => exact execCodeStripeTimeout_spares.keeps
  | pageRebuild => exact execPageRebuild_keeps
  | copyManifest => exact execCopyManifest_keeps
  | copyRecord => exact execCopyRecord_keeps
  | copyPage => exact execCopyPage_keeps
  | copyRows => exact execCopyRows_keeps
  | copyDone => exact execCopyDone_keeps
  | homeUpdate => exact execHomeUpdate_keeps
  | peerAck => exact execPeerAck_keeps
  | peerResend => exact execPeerResend_keeps
  | heartbeat => exact execHeartbeat_spares.keeps
  | heartbeatSend => exact execHeartbeatSend_spares.keeps
  | heartbeatMiss => exact execHeartbeatMiss_spares.keeps
  | nodeFence => exact execNodeFence_spares.keeps
  | nodeLostList => exact execNodeLostList_spares.keeps
  | ownOffer => exact execOwnOffer_spares.keeps
  | ownAccept => exact execOwnAccept_spares.keeps
  | ownCommit => exact execOwnCommit_keeps
  | ownResend => exact execOwnResend_spares.keeps
  | ownWaitExpiry => exact execOwnWaitExpiry_keeps
  | ownResolve => exact execOwnResolve_keeps
  | ownStatus => exact execOwnStatus_same.spares.keeps
  | flr => exact execFlr_spares.keeps
  | perstN => exact execPerstN_spares.keeps
  | adminEnable => exact execAdminEnable_spares.keeps
  | nodeRingCreate => exact execNodeRingCreate_same.spares.keeps
  | nodeRingDestroy => exact execNodeRingDestroy_same.spares.keeps
  | ringDoorbell => exact execRingDoorbell_spares.keeps
  | commandAdmit => exact execCommandAdmit_spares.keeps
  | coalesceExpiry => exact execCoalesceExpiry_spares.keeps
  | peekTag => exact execPeekTag_spares.keeps
  | apertureRead => exact execApertureRead_keeps
  | apertureWrite => exact execApertureWrite_keeps
  | mbData => exact execMbData_spares.keeps
  | mbTake => exact execMbTake_spares.keeps
  | mbReset => exact execMbReset_spares.keeps
  | registerWrite => exact execRegisterWrite_spares.keeps
  | orderFence => exact execOrderFence_same.spares.keeps
  | orderFenceTimeout => exact execOrderFenceTimeout_spares.keeps
  | logRead => exact execLogRead_same.spares.keeps
  | logCounters => exact execLogCounters_same.spares.keeps
  | syncCreate => exact execSyncCreate_same.spares.keeps
  | syncDestroy => exact execSyncDestroy_same.spares.keeps
  | syncSignal => exact execSyncSignal_same.spares.keeps
  | syncWait => exact execSyncWait_same.spares.keeps
  | syncRead => exact execSyncRead_same.spares.keeps
  | syncDump => exact execSyncDump_same.spares.keeps
  | syncSet => exact execSyncSet_same.spares.keeps
  | syncSel => exact execSyncSel_same.spares.keeps
  | setValue => exact execSetValue_same.spares.keeps
  | clearOverruns => exact execClearOverruns_same.spares.keeps
  | abortWaiters => exact execAbortWaiters_same.spares.keeps
  | waitTimeout => exact execWaitTimeout_same.spares.keeps
  | barrierCreate => exact execBarrierCreate_same.spares.keeps
  | barrierArrive => exact execBarrierArrive_same.spares.keeps
  | barrierDestroy => exact execBarrierDestroy_same.spares.keeps
  | signal => exact execSignal_same.spares.keeps
  | treeArrive => exact execTreeArrive_same.spares.keeps
  | treeRelease => exact execTreeRelease_same.spares.keeps
  | setdasa => exact execSetdasa_spares.keeps
  | operatorAnchor => exact execOperatorAnchor_spares.keeps
  | anchorLock => exact execAnchorLock_spares.keeps
  | sessionInit => exact execSessionInit_spares.keeps
  | sessionClose => exact (execSessionClose_spares (how := .tcpClose)).keeps
  | sessionIdleTimeout => exact execSessionIdleTimeout_spares.keeps
  | getStatus => exact execGetStatus_spares.keeps
  | getTelemetry => exact execGetTelemetry_spares.keeps
  | getAttestation => exact execGetAttestation_spares.keeps
  | getCerts => exact execGetCerts_spares.keeps
  | setTime => exact execSetTime_spares.keeps
  | setFabricIdentity => exact execSetFabricIdentity_spares.keeps
  | setPeerEntry => exact execSetPeerEntry_spares.keeps
  | readNeighbours => exact execReadNeighbours_spares.keeps
  | setTenantAnchor => exact execSetTenantAnchor_spares.keeps
  | setFabricAnchors => exact execSetFabricAnchors_spares.keeps
  | tenancySeal => exact execTenancySeal_keeps
  | tenancyOpen => exact execTenancyOpen_keeps
  | tenancyRelease => exact execTenancyRelease_keeps
  | debugLock => exact execDebugLock_spares.keeps
  | spdmRequest => exact execSpdmRequest_spares.keeps
  | ideKm => exact execIdeKm_spares.keeps
  | ideState => exact execIdeState_spares.keeps
  | powerOn => exact execPowerOn_keeps
  | devResetN => exact execDevResetN_keeps
  | flashWpAssert => exact execFlashWpAssert_spares.keeps
  | powerUp => exact execPowerUp_spares.keeps
  | clockLoss => exact execClockLoss_keeps
  | refclk156Loss => exact execRefclk156Loss_spares.keeps
  | pcieRefclkLoss => exact execPcieRefclkLoss_spares.keeps
  | brakeEnter => exact execBrakeEnter_spares.keeps
  | brakeExit => exact execBrakeExit_keeps
  | supplyReset => exact execSupplyReset_keeps (rail := 0)
  | powerInterval => exact execPowerInterval_spares.keeps
  | nodeTempRead => exact execNodeTempRead_keeps
  | begin_ => exact execBegin_spares.keeps
  | chunk => exact execChunk_spares.keeps
  | end_ => exact execEnd_keeps
  | abort => exact execAbort_spares.keeps
  | ping => exact execPing_spares.keeps
  | loaderIdleTimeout => exact execLoaderIdleTimeout_spares.keeps
  | firmwareLoadWindow => exact execFirmwareLoadWindow_spares.keeps
  | eyeScan => exact execEyeScan_spares.keeps
  | hbmMarginScan => exact execHbmMarginScan_spares.keeps
  | droopWindow => exact execDroopWindow_spares.keeps
  | opticsPoll => exact execOpticsPoll_spares.keeps
  | sequenceRecordArrival => exact execSequenceRecordArrival_keeps
  | pcieRefclkReturn => exact execPcieRefclkReturn_spares.keeps
  | powerGate => exact execPowerGate_spares.keeps
  | syncSetStatus => exact execSyncSetStatus_same.spares.keeps

/-- Settles O48: the queue is among what every row keeps. -/
theorem execKeepsTheQueue : Obligations.ExecKeepsTheQueue := fun _ _ t e => (exec_keeps t e).1

/-- Settles O47: a step on an empty queue is `idle`, and one on a queue is the row at its head, each of which keeps the invariant. -/
theorem stepKeepsTheInvariant : Obligations.StepKeepsTheInvariant := by
  intro s t hs e
  unfold step at e
  split at e
  · obtain rfl := Host.Outcome.next.inj e
    exact idle_keeps.2 hs
  · next c rest _ =>
    have popped : State.Inv { s with pending := rest } := hs
    exact (exec_keeps t e).2 popped

end Sys2Proof.Machine

/-! # What the rows of synchronisation and reporting leave, and what the rows that store nothing leave: O59, O60 -/

namespace Sys2Proof.Machine

/-! ## Synchronisation and reporting rows -/

/-- A row of the synchronisation unit leaves all content. -/
theorem exec_same_of_syncRow {i : Instr} {s : State} (h : i.syncRow = true) : Leads State.Same s (exec i s) := by
  cases i with
  | syncCreate => exact execSyncCreate_same
  | syncDestroy => exact execSyncDestroy_same
  | syncSignal => exact execSyncSignal_same
  | syncWait => exact execSyncWait_same
  | syncRead => exact execSyncRead_same
  | syncDump => exact execSyncDump_same
  | syncSet => exact execSyncSet_same
  | syncSel => exact execSyncSel_same
  | setValue => exact execSetValue_same
  | clearOverruns => exact execClearOverruns_same
  | abortWaiters => exact execAbortWaiters_same
  | waitTimeout => exact execWaitTimeout_same
  | barrierCreate => exact execBarrierCreate_same
  | barrierArrive => exact execBarrierArrive_same
  | barrierDestroy => exact execBarrierDestroy_same
  | signal => exact execSignal_same
  | treeArrive => exact execTreeArrive_same
  | treeRelease => exact execTreeRelease_same
  | syncSetStatus => exact execSyncSetStatus_same
  | _ => exact absurd h Bool.false_ne_true

/-- A row that only reports leaves all content. -/
theorem exec_same_of_reports {i : Instr} {s : State} (h : i.reports = true) : Leads State.Same s (exec i s) := by
  cases i with
  | cfgRead => exact execCfgRead_same
  | dirRead => exact execDirRead_same
  | codecStatus => exact execCodecStatus_same
  | twinStatus => exact execTwinStatus_same
  | ownStatus => exact execOwnStatus_same
  | nodeRingCreate => exact execNodeRingCreate_same
  | nodeRingDestroy => exact execNodeRingDestroy_same
  | orderFence => exact execOrderFence_same
  | logRead => exact execLogRead_same
  | logCounters => exact execLogCounters_same
  | _ => exact absurd h Bool.false_ne_true

/-- Settles O59: each row of either family leaves all content. -/
theorem syncAndReportingRowsFrame : Obligations.SyncAndReportingRowsFrame := by
  intro i s t h e
  rcases h with h | h
  · exact (exec_same_of_syncRow h t e).2
  · exact (exec_same_of_reports h t e).2

/-! ## Rows that store nothing -/

theorem execRnNop_spares {stack : BitVec 3} {k : RnCmd} {s : State} : Leads State.Spares s (execRnNop stack k s) :=
  spared.onRunner (fun _ => .refl)

/-- A row that stores nothing leaves memory, the frame states and the records. -/
theorem exec_spares_of_storesNothing {i : Instr} {s : State} (h : i.storesNothing = true) : Leads State.Spares s (exec i s) := by
  cases i with
  | cfgImage => exact execCfgImage_spares
  | cfgProfile => exact execCfgProfile_spares
  | cfgRead => exact execCfgRead_same.spares
  | spanCloseTimeout => exact execSpanCloseTimeout_spares
  | spanMove => exact execSpanMove_spares
  | spanCoverage => exact execSpanCoverage_spares
  | dirScrub => exact execDirScrub_spares
  | dirHoleRestore => exact execDirHoleRestore_spares
  | tombstoneExpiry => exact execTombstoneExpiry_spares
  | dirRead => exact execDirRead_same.spares
  | dirProbe => exact execDirProbe_spares
  | smoothHold => exact execSmoothHold_spares
  | rnNop => exact execRnNop_spares
  | rnAbort => exact execRnAbort_spares
  | rnStatus => exact execRnStatus_spares
  | refreshDue => exact execRefreshDue_spares
  | attnMerge => exact execAttnMerge_spares
  | fanoutTimeout => exact execFanoutTimeout_spares
  | scrubPassDone => exact execScrubPassDone_spares
  | scrubIntervalEnd => exact execScrubIntervalEnd_spares
  | scrubPass => exact execScrubPass_spares
  | tierStatus => exact execTierStatus_spares
  | flashProbe => exact execFlashProbe_spares
  | flashRelocate => exact execFlashRelocate_spares
  | ftlReclaim => exact execFtlReclaim_spares
  | wearLevel => exact execWearLevel_spares
  | flashEraseBackground => exact execFlashEraseBackground_spares
  | codecLoad => exact execCodecLoad_spares
  | codecSelect => exact execCodecSelect_spares
  | codecRetire => exact execCodecRetire_spares
  | codecStatus => exact execCodecStatus_same.spares
  | codecSample => exact execCodecSample_spares
  | portLinkUp => exact execPortLinkUp_spares
  | portLinkDown => exact execPortLinkDown_spares
  | frameReceive => exact execFrameReceive_spares
  | data => exact execData_spares
  | ack => exact execAck_spares
  | ackTimer => exact execAckTimer_spares
  | retxTimerExpiry => exact execRetxTimerExpiry_spares
  | rnrWaitExpiry => exact execRnrWaitExpiry_spares
  | qpRetryExhausted => exact execQpRetryExhausted_spares
  | qpHoldExpiry => exact execQpHoldExpiry_spares
  | entropySuspendEnd => exact execEntropySuspendEnd_spares
  | rateIncrease => exact execRateIncrease_spares
  | headraceAdmit => exact execHeadraceAdmit_spares
  | command => exact execCommand_spares
  | readResp => exact execReadResp_spares
  | hello => exact execHello_spares
  | helloSend => exact execHelloSend_spares
  | neighbourExpiry => exact execNeighbourExpiry_spares
  | keyAgree1 => exact execKeyAgree1_spares
  | keyAgree2 => exact execKeyAgree2_spares
  | keyAgree3 => exact execKeyAgree3_spares
  | keyAgreeResend => exact execKeyAgreeResend_spares
  | rxSaRetire => exact execRxSaRetire_spares
  | rekeyDue => exact execRekeyDue_spares
  | pnExhausted => exact execPnExhausted_spares
  | drainWindowEnd => exact execDrainWindowEnd_spares
  | nodeQpCreate => exact execNodeQpCreate_spares
  | nodeQpDestroy => exact execNodeQpDestroy_spares
  | twinPair => exact execTwinPair_spares
  | twinPairTimeout => exact execTwinPairTimeout_spares
  | twinStatus => exact execTwinStatus_same.spares
  | asyncMirrorSend => exact execAsyncMirrorSend_spares
  | codeStripeTimeout => exact execCodeStripeTimeout_spares
  | heartbeat => exact execHeartbeat_spares
  | heartbeatSend => exact execHeartbeatSend_spares
  | heartbeatMiss => exact execHeartbeatMiss_spares
  | nodeFence => exact execNodeFence_spares
  | nodeLostList => exact execNodeLostList_spares
  | ownOffer => exact execOwnOffer_spares
  | ownAccept => exact execOwnAccept_spares
  | ownResend => exact execOwnResend_spares
  | ownStatus => exact execOwnStatus_same.spares
  | flr => exact execFlr_spares
  | perstN => exact execPerstN_spares
  | adminEnable => exact execAdminEnable_spares
  | nodeRingCreate => exact execNodeRingCreate_same.spares
  | nodeRingDestroy => exact execNodeRingDestroy_same.spares
  | ringDoorbell => exact execRingDoorbell_spares
  | commandAdmit => exact execCommandAdmit_spares
  | coalesceExpiry => exact execCoalesceExpiry_spares
  | peekTag => exact execPeekTag_spares
  | mbData => exact execMbData_spares
  | mbTake => exact execMbTake_spares
  | mbReset => exact execMbReset_spares
  | registerWrite => exact execRegisterWrite_spares
  | orderFence => exact execOrderFence_same.spares
  | orderFenceTimeout => exact execOrderFenceTimeout_spares
  | logRead => exact execLogRead_same.spares
  | logCounters => exact execLogCounters_same.spares
  | syncCreate => exact execSyncCreate_same.spares
  | syncDestroy => exact execSyncDestroy_same.spares
  | syncSignal => exact execSyncSignal_same.spares
  | syncWait => exact execSyncWait_same.spares
  | syncRead => exact execSyncRead_same.spares
  | syncDump => exact execSyncDump_same.spares
  | syncSet => exact execSyncSet_same.spares
  | syncSel => exact execSyncSel_same.spares
  | setValue => exact execSetValue_same.spares
  | clearOverruns => exact execClearOverruns_same.spares
  | abortWaiters => exact execAbortWaiters_same.spares
  | waitTimeout => exact execWaitTimeout_same.spares
  | barrierCreate => exact execBarrierCreate_same.spares
  | barrierArrive => exact execBarrierArrive_same.spares
  | barrierDestroy => exact execBarrierDestroy_same.spares
  | signal => exact execSignal_same.spares
  | treeArrive => exact execTreeArrive_same.spares
  | treeRelease => exact execTreeRelease_same.spares
  | setdasa => exact execSetdasa_spares
  | operatorAnchor => exact execOperatorAnchor_spares
  | anchorLock => exact execAnchorLock_spares
  | sessionInit => exact execSessionInit_spares
  | sessionClose => exact (execSessionClose_spares (how := .tcpClose))
  | sessionIdleTimeout => exact execSessionIdleTimeout_spares
  | getStatus => exact execGetStatus_spares
  | getTelemetry => exact execGetTelemetry_spares
  | getAttestation => exact execGetAttestation_spares
  | getCerts => exact execGetCerts_spares
  | setTime => exact execSetTime_spares
  | setFabricIdentity => exact execSetFabricIdentity_spares
  | setPeerEntry => exact execSetPeerEntry_spares
  | readNeighbours => exact execReadNeighbours_spares
  | setTenantAnchor => exact execSetTenantAnchor_spares
  | setFabricAnchors => exact execSetFabricAnchors_spares
  | debugLock => exact execDebugLock_spares
  | spdmRequest => exact execSpdmRequest_spares
  | ideKm => exact execIdeKm_spares
  | ideState => exact execIdeState_spares
  | flashWpAssert => exact execFlashWpAssert_spares
  | powerUp => exact execPowerUp_spares
  | refclk156Loss => exact execRefclk156Loss_spares
  | pcieRefclkLoss => exact execPcieRefclkLoss_spares
  | brakeEnter => exact execBrakeEnter_spares
  | powerInterval => exact execPowerInterval_spares
  | begin_ => exact execBegin_spares
  | chunk => exact execChunk_spares
  | abort => exact execAbort_spares
  | ping => exact execPing_spares
  | loaderIdleTimeout => exact execLoaderIdleTimeout_spares
  | firmwareLoadWindow => exact execFirmwareLoadWindow_spares
  | eyeScan => exact execEyeScan_spares
  | hbmMarginScan => exact execHbmMarginScan_spares
  | droopWindow => exact execDroopWindow_spares
  | opticsPoll => exact execOpticsPoll_spares
  | pcieRefclkReturn => exact execPcieRefclkReturn_spares
  | powerGate => exact execPowerGate_spares
  | syncSetStatus => exact execSyncSetStatus_same.spares
  | _ => exact absurd h Bool.false_ne_true

theorem toHome_body {s : State} {m : PeerMsg} : (toHome s m).body = m.body := by
  unfold toHome
  split
  · rfl
  · rfl

/-- A message sent again carries what it carried. -/
theorem refreshed_body {s : State} {m : PeerMsg} : (refreshed s m).body = m.body := by
  unfold refreshed
  split
  · exact toHome_body
  · exact toHome_body
  · rfl

/-- A PEER message sent again, no copied page, leaves memory, the frame states and the records. -/
theorem execPeerResend_spares {tag : BitVec 32} {s : State}
    (h : ∀ x l k p a b, s.peerSent.at? tag = some x → x.msg.body ≠ .copyPage l k p a b) : Leads State.Spares s (execPeerResend tag s) := by
  refine .next (spared.ite ?_ .refl)
  beta_reduce
  split
  · exact .refl
  · next x hx =>
    extract_lets m n
    refine spared.ite .refl ?_
    have hm : m.body = x.msg.body := refreshed_body
    split
    · next l k p a b hb => exact absurd (hm.symm.trans hb) (h x l k p a b hx)
    · exact handPeer_spares.after (.only rfl)

/-! ## What a request that ends leaves -/

/-- What `State.Spares` leaves, and the tiers. -/
def State.Calm (s t : State) : Prop := s.Spares t ∧ t.tier = s.tier

section
variable {s t u : State}

theorem State.Calm.refl : s.Calm s := ⟨.refl, rfl⟩

theorem State.Calm.trans (h : s.Calm t) (k : t.Calm u) : s.Calm u := ⟨h.1.trans k.1, k.2.trans h.2⟩

theorem State.Calm.after (k : t.Calm u) (h : s.Calm t) : s.Calm u := h.trans k

theorem State.Calm.only (h : (t.stored, t.tier) = (s.stored, s.tier)) : s.Calm t := by
  obtain ⟨hs, ht⟩ := Prod.mk.inj h
  exact ⟨.only hs, ht⟩

theorem State.Same.calm (h : s.Same t) : s.Calm t := by
  obtain ⟨-, -, -, -, -, -, -, htier, -⟩ := id h
  exact ⟨h.spares, htier⟩

end

theorem calm : Lax State.Calm := ⟨.refl, .trans, State.Same.calm⟩

section
variable {s : State}

theorem sendRecord_calm {m : Msg} {addr : BitVec 64} {moved : Option NodeId} {bs : List Byte} : s.Calm (sendRecord m addr moved bs s) :=
  calm.ite sendReply_same.calm (sendReply_same.calm.after sendReply_same.calm)

theorem deliver_calm {id ix : Nat} {bs : List Byte} : s.Calm (deliver id ix bs s) := by
  unfold deliver
  split
  · exact .refl
  · extract_lets b' full keep
    have kept {u : State} : u.Calm (keep u) := .only rfl
    split
    · exact settle_same.calm.after (sendRecord_calm.after kept)
    · exact calm.ite (complete_same.calm.after kept) kept

theorem fanFail_calm {id : Nat} {f : Fanout} {first count : Nat} {st : Status} {node : NodeId} {hint : Nat} :
    s.Calm (fanFail id f first count st node hint s) :=
  deliver_calm.after (logFrom_same.calm.after (bump_same.calm.after (.only rfl)))

theorem logCheckFail_calm {v : VId} {d : QDesc} {e : CheckFail} {core page : Nat} {f : FrameId} :
    s.Calm (logCheckFail v d e core page f s) := logFrom_same.calm

theorem fanFinish_calm {id : Nat} : s.Calm (fanFinish id s) := by
  unfold fanFinish
  split
  · exact .refl
  · extract_lets _ _ s₁
    have hs₁ : s.Calm s₁ := bump_same.calm
    split
    · exact .refl
    · split
      · exact fanFail_calm
      · split
        · exact .refl
        · split
          · exact fanFail_calm.after (logCheckFail_calm.after hs₁)
          · exact deliver_calm.after (hs₁.trans (.only rfl))

theorem putFan_calm {id : Nat} {f : Fanout} : s.Calm (putFan id f s) := .only rfl

theorem setSub_calm {id sub : Nat} {a : FanAns} : s.Calm (setSub id sub a s) := by
  unfold setSub
  split
  · exact .refl
  · exact putFan_calm

theorem fanAnswer_calm {id sub : Nat} {fp16 : Bool} {h : RecHdr} {rows : List RowPart} : s.Calm (fanAnswer id sub fp16 h rows s) := by
  unfold fanAnswer
  split
  · exact .refl
  · extract_lets _ _ s₁
    have hs₁ : s.Calm s₁ := bump_same.calm
    split
    · exact .refl
    · split
      · exact fanFinish_calm.after setSub_calm
      · split
        · exact fanFinish_calm.after (setSub_calm.after (logCheckFail_calm.after hs₁))
        · exact fanFinish_calm.after (setSub_calm.after (putFan_calm.after (bumpAt_same.calm.after (hs₁.trans (.only rfl)))))

theorem updRunner_calm {stack pc : Nat} {f : Runner → Runner} : s.Calm (updRunner stack pc f s) := .only rfl

theorem issueOwed_calm {stack pc : Nat} : s.Calm (issueOwed stack pc s) := calm.ite .refl (.only rfl)

theorem endContext_calm {stack pc c : Nat} {tag : BitVec 8} : s.Calm (endContext stack pc c tag s) := by
  unfold endContext
  split
  · exact issueOwed_calm
  · exact calm.ite updRunner_calm (issueOwed_calm.after updRunner_calm)

theorem takeDrain_calm {stack : Nat} {k : RnCmd} {rows : List (List (BitVec 32))} : s.Calm (takeDrain stack k rows s) := by
  unfold takeDrain
  extract_lets r
  split
  · exact .refl
  · split
    · exact .refl
    · exact calm.ite .refl (.only rfl)

end

/-! ### A frame given back -/

/-- What changes at most one frame: its state and its bytes. -/
structure State.Alters (f : FrameId) (s t : State) : Prop where
  tier : t.tier = s.tier
  frames : ∀ g, g ≠ f → frameOf t g = frameOf s g
  bytes : ∀ a, ¬(frameBase f ≤ a ∧ a < frameBase f + frameBytes) → t.mem.byte a = s.mem.byte a
  records : (t.spans, t.seqs, t.masks) = (s.spans, s.seqs, s.masks)

section
variable {s t u : State} {f : FrameId}

theorem State.Alters.refl : s.Alters f s := ⟨rfl, fun _ _ => rfl, fun _ _ => rfl, rfl⟩

theorem State.Alters.trans (h : s.Alters f t) (k : t.Alters f u) : s.Alters f u :=
  ⟨k.tier.trans h.tier, fun g hg => (k.frames g hg).trans (h.frames g hg), fun a ha => (k.bytes a ha).trans (h.bytes a ha),
    k.records.trans h.records⟩

theorem State.Calm.alters (h : s.Calm t) : s.Alters f t := by
  obtain ⟨⟨-, hm, hf, hs, hq, hx⟩, htier⟩ := h
  exact ⟨htier, fun g _ => by rw [frameOf, frameOf, hf], fun a _ => by rw [hm], by rw [hs, hq, hx]⟩

theorem updFrame_alters {g : Frame → Frame} : s.Alters f (updFrame f g s) :=
  ⟨rfl, fun _ hg => Tbl.atD_upd_ne _ _ _ _ (Ne.symm hg), fun _ _ => rfl, rfl⟩

theorem hbmRead_length {a n : Nat} : (hbmRead s a n).length ≤ n := by
  simp [hbmRead]

theorem writeBack_alters {cw : Nat} (h₁ : frameBase f ≤ 32 * cw) (h₂ : 32 * cw + 32 ≤ frameBase f + frameBytes) :
    s.Alters f (writeBack cw s) := by
  unfold writeBack
  split
  · exact .refl
  · refine ⟨rfl, fun _ _ => rfl, fun a ha => ?_, rfl⟩
    have hlen : (hbmRead s (32 * cw) 32).length ≤ 32 := hbmRead_length
    have hout : ¬(32 * cw ≤ a ∧ a < 32 * cw + (hbmRead s (32 * cw) 32).length) := by omega
    dsimp only
    split
    · rfl
    · rw [Memory.byte_write, if_neg hout]

/-- An uncorrectable codeword, noted. -/
theorem noteUe_calm {x : List Nat} : s.Calm { s with hbm := { s.hbm with ueDue := x } } := .only rfl

theorem mergeCw_alters {cw : Nat} (h₁ : frameBase f ≤ 32 * cw) (h₂ : 32 * cw + 32 ≤ frameBase f + frameBytes) :
    s.Alters f (mergeCw cw s) := by
  unfold mergeCw
  split
  · exact .refl
  · extract_lets st
    split
    · exact writeBack_alters h₁ h₂
    · exact bumpAt_same.calm.alters.trans (writeBack_alters h₁ h₂)
    · extract_lets s₁ s₂
      have hs₁ : s.Calm s₁ := bumpAt_same.calm.after (calm.ite bumpAt_same.calm .refl)
      have hs₂ : s.Calm s₂ := logFrom_same.calm.after hs₁
      exact hs₂.alters.trans noteUe_calm.alters

/-- A frame lies at a multiple of a codeword. -/
theorem frameBase_mod_codeword : frameBase f % 32 = 0 := by
  simp only [frameBase, pcBytes, frameBytes]
  omega

/-- Bytes written within a frame. -/
theorem write_alters {a : Nat} {bs : List Byte} (h₁ : frameBase f ≤ a) (h₂ : a + bs.length ≤ frameBase f + frameBytes) :
    s.Alters f { s with mem := s.mem.write a bs } := by
  refine ⟨rfl, fun _ _ => rfl, fun x hx => ?_, rfl⟩
  have hout : ¬(a ≤ x ∧ x < a + bs.length) := by omega
  exact (Memory.byte_write s.mem a x bs).trans (if_neg hout)

theorem clearErrs_calm {a n : Nat} : s.Calm (clearErrs a n s) := .only rfl

/-- A byte written at the start of a codeword of a frame, which merges no codeword but that one. -/
theorem hbmWrite_byte_alters {a : Nat} {b : Byte} (hmod : a % 32 = 0) (h₁ : frameBase f ≤ a) (h₂ : a + 32 ≤ frameBase f + frameBytes) :
    s.Alters f (hbmWrite a [b] s) := by
  have merged : s.Alters f (mergeEnds a 1 s) := by
    unfold mergeEnds
    rw [if_neg Nat.one_ne_zero, if_neg (show ¬a % 32 ≠ 0 by omega)]
    split
    · exact mergeCw_alters (by omega) (by omega)
    · exact .refl
  exact (merged.trans (write_alters h₁ (Nat.le_trans (Nat.add_le_add_left (show 1 ≤ 32 by decide) a) h₂))).trans
    clearErrs_calm.alters

/-- The state nibble of a frame's header, written. -/
theorem hbmWrite_header_alters {b : Byte} : s.Alters f (hbmWrite (frameBase f + 32768) [b] s) := by
  have hmod : frameBase f % 32 = 0 := frameBase_mod_codeword
  have hframe : frameBytes = 36864 := rfl
  exact hbmWrite_byte_alters (by omega) (by omega) (by omega)

theorem setFrameState_alters {st : FrameState} : s.Alters f (setFrameState f st s) := by
  unfold setFrameState
  extract_lets code isData s₁
  have hs₁ : s.Alters f s₁ := updFrame_alters
  clear_value s₁
  split
  · exact hs₁.trans hbmWrite_header_alters
  · exact hs₁

theorem releaseFrame_alters : s.Alters f (releaseFrame f s) := by
  unfold releaseFrame
  extract_lets x
  split
  · exact .refl
  · split
    · exact updFrame_alters
    · exact updFrame_alters.trans setFrameState_alters

end

/-! ### The frames of the images that go -/

/-- A frame that holds a part of a stored image. -/
def State.imageFrame (s : State) (f : FrameId) : Prop := ∃ n x, s.tier.images.at? n = some x ∧ f ∈ x.frames

/-- What frees no more than images and their frames: no image is new, each frame and each byte is as before or was an image's, and the records
stay. -/
structure State.Frees (s t : State) : Prop where
  images : ∀ {n x}, t.tier.images.at? n = some x → s.tier.images.at? n = some x
  frames : ∀ f, frameOf t f = frameOf s f ∨ s.imageFrame f
  bytes : ∀ a, t.mem.byte a = s.mem.byte a ∨ ∃ f, s.imageFrame f ∧ frameBase f ≤ a ∧ a < frameBase f + frameBytes
  records : (t.spans, t.seqs, t.masks) = (s.spans, s.seqs, s.masks)

section
variable {s t u : State} {f : FrameId}

theorem State.Frees.refl : s.Frees s := ⟨id, fun _ => .inl rfl, fun _ => .inl rfl, rfl⟩

/-- A frame of an image that is left was a frame of an image before. -/
theorem State.Frees.imageFrame (h : s.Frees t) (k : t.imageFrame f) : s.imageFrame f := by
  obtain ⟨n, x, hx, hf⟩ := k
  exact ⟨n, x, h.images hx, hf⟩

theorem State.Frees.trans (h : s.Frees t) (k : t.Frees u) : s.Frees u := by
  refine ⟨fun e => h.images (k.images e), fun f => ?_, fun a => ?_, k.records.trans h.records⟩
  · rcases k.frames f with hk | hk
    · exact hk ▸ h.frames f
    · exact .inr (h.imageFrame hk)
  · rcases k.bytes a with hk | ⟨f, hf, ha⟩
    · exact hk ▸ h.bytes a
    · exact .inr ⟨f, h.imageFrame hf, ha⟩

theorem State.Frees.after (k : t.Frees u) (h : s.Frees t) : s.Frees u := h.trans k

theorem State.Calm.frees (h : s.Calm t) : s.Frees t := by
  obtain ⟨⟨-, hm, hf, hs, hq, hx⟩, htier⟩ := h
  exact ⟨fun e => htier ▸ e, fun g => .inl (by rw [frameOf, frameOf, hf]), fun a => .inl (by rw [hm]), by rw [hs, hq, hx]⟩

theorem freeing : Lax State.Frees := ⟨.refl, .trans, fun h => h.calm.frees⟩

/-- A change to one frame that was an image's. -/
theorem State.Frees.alters (h : s.Frees t) (hf : s.imageFrame f) (k : t.Alters f u) : s.Frees u := by
  refine ⟨fun e => h.images (k.tier ▸ e), fun g => ?_, fun a => ?_, k.records.trans h.records⟩
  · by_cases hg : g = f
    · exact .inr (hg ▸ hf)
    · exact k.frames g hg ▸ h.frames g
  · by_cases ha : frameBase f ≤ a ∧ a < frameBase f + frameBytes
    · exact .inr ⟨f, hf, ha⟩
    · exact k.bytes a ha ▸ h.bytes a

/-- A change of the tiers that adds no image. -/
theorem State.Frees.of_tier {x : Tier} (h : ∀ {n i}, x.images.at? n = some i → s.tier.images.at? n = some i) :
    s.Frees { s with tier := x } :=
  ⟨h, fun _ => .inl rfl, fun _ => .inl rfl, rfl⟩

theorem settleSlot_frees {n : Nat} : s.Frees (settleSlot n s) := by
  unfold settleSlot
  extract_lets x named queued
  split
  · exact .refl
  · exact freeing.ite (.of_tier id) (logFrom_same.calm.frees.after (.of_tier id))

theorem settleSlots_frees : s.Frees (settleSlots s) := freeing.foldl (fun _ _ => settleSlot_frees)

/-- The frames of an image are given back where they hold nothing else. -/
theorem releaseImage_frees {fs : List FrameId} (h : s.Frees t) (hf : ∀ f ∈ fs, s.imageFrame f) :
    s.Frees (fs.foldl (fun s f => if packUse s f = 0 then releaseFrame f s else s) t) := by
  induction fs generalizing t with
  | nil => exact h
  | cons f r ih =>
    have hr : ∀ g ∈ r, s.imageFrame g := fun g hg => hf g (List.mem_cons_of_mem f hg)
    refine ih ?_ hr
    beta_reduce
    split
    · exact h.alters (hf f List.mem_cons_self) releaseFrame_alters
    · exact h

theorem removeImage_frees {n : Nat} : s.Frees (removeImage n s) := by
  unfold removeImage
  split
  · exact .refl
  · next i hi =>
    extract_lets _ s₁
    have hs₁ : s.Frees s₁ := .of_tier (fun {m x} e => by
      by_cases hm : n = m
      · subst hm
        rw [Tbl.at?_del_self] at e
        cases e
      · rwa [Tbl.at?_del_ne _ hm] at e)
    exact settleSlots_frees.after (releaseImage_frees hs₁ (fun f hf => ⟨n, i, hi, hf⟩))

theorem sweepImages_frees : s.Frees (sweepImages s) := freeing.foldl (fun _ _ => removeImage_frees)

theorem dropReq_frees {id : Nat} : s.Frees (dropReq id s) := by
  unfold dropReq
  refine sweepImages_frees.after ?_
  exact ⟨fun e => e, fun _ => .inl rfl, fun _ => .inl rfl, rfl⟩

theorem endReq_frees {id : Nat} {h : RecHdr} {rows : List RowPart} : s.Frees (endReq id h rows s) := by
  unfold endReq
  split
  · exact .refl
  · extract_lets s₁
    have hs₁ : s.Frees s₁ := dropReq_frees
    split
    · exact deliver_calm.frees.after hs₁
    · exact fanAnswer_calm.frees.after hs₁

theorem failReq_frees {id : Nat} {st : Status} {hint : Nat} : s.Frees (failReq id st hint s) := by
  unfold failReq
  split
  · exact .refl
  · exact endReq_frees

theorem failSeq_frees {stack pc : Nat} {tag : BitVec 8} {mark : RnStatus → RnStatus} : s.Frees (failSeq stack pc tag mark s) := by
  unfold failSeq
  extract_lets s₁
  have hs₁ : s.Frees s₁ := updRunner_calm.frees
  split
  · exact hs₁
  · extract_lets s₂
    have hs₂ : s.Frees s₂ := updRunner_calm.frees.after hs₁
    refine issueOwed_calm.frees.after ?_
    split
    · exact failReq_frees.after hs₂
    · exact hs₂

theorem meetReg_frees {e : RegUpset} : s.Frees (meetReg e s) := by
  unfold meetReg
  extract_lets s₁
  have hs₁ : s.Frees s₁ := bumpAt_same.calm.frees
  exact freeing.ite (State.Frees.after (freeing.foldl (fun _ _ => failSeq_frees)) hs₁) hs₁

theorem meetRegs_frees {stack : Nat} {k : RnCmd} {u : Upsets} : s.Frees (meetRegs stack k u s).2 :=
  freeing.foldl (fun _ _ => meetReg_frees)

/-! ### The rows that may end a request -/

theorem onRunner_frees {op : Nat} {stack : BitVec 3} {k : RnCmd} {i : Instr} {f : State → State} (h : ∀ t : State, t.Frees (f t)) :
    Leads State.Frees s (onRunner op stack k i f s) := by
  unfold onRunner
  split
  · exact .fault
  · exact freeing.onNode (fun _ => freeing.ite (State.Calm.frees (.only rfl)) (h _))

theorem execRnQload_frees {stack : BitVec 3} {k : RnCmd} {rows : List (List (BitVec 32))} :
    Leads State.Frees s (execRnQload stack k rows s) :=
  onRunner_frees (fun _ => freeing.ite .refl (meetRegs_frees.after (updRunner_calm.frees.after updRunner_calm.frees)))

theorem execRnWload_frees {stack : BitVec 3} {k : RnCmd} : Leads State.Frees s (execRnWload stack k s) :=
  onRunner_frees (fun _ => freeing.ite (updRunner_calm.frees.after meetRegs_frees) meetRegs_frees)

theorem execRnDrain_frees {stack : BitVec 3} {k : RnCmd} : Leads State.Frees s (execRnDrain stack k s) :=
  onRunner_frees (fun _ => freeing.ite meetRegs_frees (endContext_calm.frees.after (updRunner_calm.frees.after
    (emit_same.calm.frees.after (takeDrain_calm.frees.after meetRegs_frees)))))

/-- The time a request is told to wait is taken from the clock. -/
theorem takeEstimate_calm : s.Calm (takeEstimate s).2 := .only rfl

theorem execAttnAdmitTimeout_frees {req : Nat} : Leads State.Frees s (execAttnAdmitTimeout req s) := by
  refine freeing.onNode (fun u => ?_)
  split
  · exact freeing.ite (failReq_frees.after (bump_same.calm.frees.after takeEstimate_calm.frees)) .refl
  · exact .refl

theorem execPromoteStallExpiry_frees {req : Nat} : Leads State.Frees s (execPromoteStallExpiry req s) := by
  refine freeing.onNode (fun u => ?_)
  split
  · exact freeing.ite (failReq_frees.after (bump_same.calm.frees.after takeEstimate_calm.frees)) .refl
  · exact .refl

/-- A row that may end a request frees no more than images and their frames. -/
theorem exec_frees_of_endsRequests {i : Instr} (h : i.endsRequests = true) : Leads State.Frees s (exec i s) := by
  cases i with
  | rnQload => exact execRnQload_frees
  | rnWload => exact execRnWload_frees
  | rnDrain => exact execRnDrain_frees
  | attnAdmitTimeout => exact execAttnAdmitTimeout_frees
  | promoteStallExpiry => exact execPromoteStallExpiry_frees
  | _ => exact absurd h Bool.false_ne_true

end

/-- What is stored, spelled as O60 does. -/
theorem State.Spares.stored_eq {s t : State} (h : s.Spares t) :
    (∀ a, t.mem.byte a = s.mem.byte a) ∧ (∀ f, frameOf t f = frameOf s f) ∧ t.spans = s.spans ∧ t.seqs = s.seqs ∧ t.masks = s.masks := by
  obtain ⟨-, hm, hf, hs, hq, hx⟩ := h
  exact ⟨fun a => by rw [hm], fun f => by rw [frameOf, frameOf, hf], hs, hq, hx⟩

/-- Settles O60: the rows that store nothing spare what is stored; a request that ends frees no more than images and their frames. -/
theorem rowsThatStoreNothingKeepMemory : Obligations.RowsThatStoreNothingKeepMemory := by
  refine ⟨fun i s t h e => (exec_spares_of_storesNothing h t e).stored_eq, fun tag s t h e => (execPeerResend_spares h t e).stored_eq,
    fun i s t h e => ?_⟩
  have hfrees : s.Frees t := exec_frees_of_endsRequests h t e
  have hrec := hfrees.records
  simp only [Prod.mk.injEq] at hrec
  exact ⟨hfrees.frames, hfrees.bytes, hrec⟩

end Sys2Proof.Machine

/-! # What a node that is down leaves undone, and the checks that come before the work: O49, O54, O50, O51 -/

namespace Sys2Proof.Machine

section
variable {s : State}

/-! ## A node that is not live -/

theorem waking_dead {f : State → Res} (h : live s = false) : waking f s = .next s := by
  simp [waking, h]

theorem filling_dead {hold f : State → Res} (h : live s = false) : filling hold f s = .next s := by
  simp [filling, h]

theorem onWord_dead {op : Nat} {arg : State → Nat} {f : State → State} (h : live s = false) : onWord op arg f s = .next s := by
  unfold onWord
  split
  · exact onNode_dead h
  · exact onNode_dead h

theorem onPeer_dead {p : PeerHdr} {cls : PeerClass} {f : State → State} (h : live s = false) : onPeer p cls f s = .next s :=
  onNode_dead h

theorem onPeerAck_dead {p : PeerHdr} {f : State → State} (h : live s = false) : onPeerAck p f s = .next s := onNode_dead h

theorem onMgmt_dead {r : MgmtReq} {roles : List Nat} {f : State → State} (h : live s = false) : onMgmt r roles f s = .next s :=
  onNode_dead h

theorem onMsg_dead {m : Msg} {op : Nat} {reads : List Byte → Bool} {f : State → State} (h : live s = false) :
    onMsg m op reads f s = .next s :=
  onNode_dead h

theorem runVerb_dead {c : Cmd} {body : State → Done} (h : live s = false) : runVerb c body s = .next s := onNode_dead h

/-- A runner command that a dead node meets has no effect, and an encoding that is never issued stops by name all the same (R149). -/
theorem onRunner_dead {op : Nat} {stack : BitVec 3} {k : RnCmd} {i : Instr} {f : State → State} (h : live s = false) :
    onRunner op stack k i f s = .next s ∨ ∃ n, onRunner op stack k i f s = .fault (.runnerEncoding n) := by
  cases he : rnNeverIssued op k with
  | true => exact .inr ⟨op, by rw [onRunner, if_pos he]⟩
  | false => exact .inl (by rw [onRunner, if_neg (he ▸ Bool.false_ne_true)]; exact onNode_dead h)

/-- The registers of the host have no effect on a dead node; those of the I3C target are of the always-on domain. -/
theorem execRegisterWrite_dead {r : Reg} {value : BitVec 64} (h : live s = false)
    (ha : (Instr.registerWrite r value).alwaysOn = false) : execRegisterWrite r value s = .next s := by
  unfold execRegisterWrite
  cases r with
  | i3cAlert => exact absurd ha (Bool.noConfusion : true ≠ false)
  | readOnly => rfl
  | unmapped => rfl
  | _ => exact onNode_dead h

/-- A row outside the always-on domain has no effect on a dead node, or stops by name. -/
theorem exec_dead {i : Instr} (h : live s = false) (ha : i.alwaysOn = false) :
    exec i s = .next s ∨ ∃ op, exec i s = .fault (.runnerEncoding op) := by
  cases i with
  | rnNop | rnQload | rnScale | rnScore | rnWload | rnWeigh | rnDrain | rnFill | rnCopy | rnScrub | rnAbort | rnStatus =>
    exact onRunner_dead h
  | powerOn | devResetN | supplyReset | clockLoss | powerUp | flashWpAssert | perstN | pcieRefclkLoss | pcieRefclkReturn | setdasa
  | operatorAnchor | anchorLock =>
    exact absurd ha (Bool.noConfusion : true ≠ false)
  | registerWrite => exact .inl (execRegisterWrite_dead h ha)
  | spanFillReport | spanClose | seqClose | spanReset | pageSeal | stackSensorRead | write | nodeMap | twinSolo | ownWaitExpiry |
  ownResolve | apertureWrite =>
    rw [exec]
    exact .inl (waking_dead h)
  | spanOpen | spanLocate | spanAlias | append | kvAppend | kvMaskSet | kvMaskTile =>
    rw [exec]
    exact .inl (filling_dead h)
  | begin_ | chunk | end_ | abort =>
    rw [exec]
    exact .inl (onWord_dead h)
  | spanCreateRequest | smoothHold | smoothInstall | pairPropose | pairConfirm | mirrorRecord | mirrorRows | mirrorSeal |
  mirrorRelease | verifyReq | verifyResp | codeContrib | codeNull | copyManifest | copyRecord | copyPage | copyRows | copyDone |
  homeUpdate | sequenceRecordArrival =>
    rw [exec]
    exact .inl (onPeer_dead h)
  | peerAck =>
    rw [exec]
    exact .inl (onPeerAck_dead h)
  | getStatus | getTelemetry | getAttestation | getCerts | setTime | setFabricIdentity | setPeerEntry | readNeighbours |
  setTenantAnchor | setFabricAnchors | tenancySeal | tenancyOpen | tenancyRelease | debugLock =>
    rw [exec]
    exact .inl (onMgmt_dead h)
  | readReq | readResp | signal | treeArrive | treeRelease =>
    rw [exec]
    exact .inl (onMsg_dead h)
  | cfgImage | cfgProfile | cfgRead | spanMove | spanCoverage | dirClear | dirRead | dirProbe | kvSmooth | kvMaskDrop | attnQuery
  | attnMerge | attnQueryFanout | scrubVerify | scrubPass | tierPromote | tierDemote | tierPin | tierUnpin | tierStatus |
  codecLoad | codecSelect | codecRetire | codecStatus | codecSample | nodeQpCreate | nodeQpDestroy | twinPair | twinCodeset |
  twinStatus | nodeFence | nodeLostList | ownOffer | ownAccept | ownCommit | ownStatus | nodeRingCreate | nodeRingDestroy |
  orderFence | logRead | logCounters | syncCreate | syncDestroy | syncSignal | syncWait | syncRead | syncDump | syncSet |
  barrierCreate | barrierArrive | barrierDestroy =>
    rw [exec]
    exact .inl (runVerb_dead h)
  | _ =>
    rw [exec]
    exact .inl (onNode_dead h)

/-! ## FATAL -/

theorem live_of_fatal (h : s.pw.fatal = true) : live s = false := by
  simp [live, h]

/-- The relation of the states that agree on FATAL. -/
def State.AgreesOnFatal (s t : State) : Prop := t.pw.fatal = s.pw.fatal

theorem agreesOnFatal : Lax State.AgreesOnFatal where
  refl := rfl
  trans := fun h k => k.trans h
  same := fun h => by
    obtain ⟨-, -, -, -, -, -, -, -, -, -, -, -, -, -, -, -, -, -, -, -, -, hpw⟩ := h
    exact congrArg Power.fatal hpw

theorem resetHost_fatal (h : live s = false) : resetHost s = s := by
  simp [resetHost, h]

/-- A stop outlives the rows of the always-on domain that are neither a reset nor its release. -/
theorem exec_fatal_of_alwaysOn {i : Instr} {t : State} (hf : s.pw.fatal = true) (ha : i.alwaysOn = true) (hr : i.resets = false)
    (hp : ∀ mode test puf, i ≠ .powerUp mode test puf) (e : exec i s = .next t) : t.pw.fatal = true := by
  have stays {u : State} (h : s.AgreesOnFatal u) : u.pw.fatal = true := h.trans hf
  have down {u : State} (h : u.pw.fatal = true) : (resetHost u).pw.fatal = true := by
    rw [resetHost_fatal (live_of_fatal h), h]
  cases i with
  | powerOn | devResetN | supplyReset | clockLoss => exact absurd hr (Bool.noConfusion : true ≠ false)
  | powerUp mode test puf => exact absurd rfl (hp mode test puf)
  | flashWpAssert =>
    obtain rfl := Host.Outcome.next.inj e
    exact stays (agreesOnFatal.ite rfl (agreesOnFatal.ite rfl rfl))
  | perstN high =>
    obtain rfl := Host.Outcome.next.inj e
    split
    · exact hf
    · exact down hf
  | pcieRefclkLoss =>
    obtain rfl := Host.Outcome.next.inj e
    exact down hf
  | pcieRefclkReturn =>
    obtain rfl := Host.Outcome.next.inj e
    exact hf
  | setdasa | operatorAnchor | anchorLock =>
    obtain rfl := Host.Outcome.next.inj e
    exact stays (agreesOnFatal.ite rfl rfl)
  | registerWrite r value =>
    cases r with
    | i3cAlert =>
      obtain rfl := Host.Outcome.next.inj e
      exact stays (agreesOnFatal.ite rfl rfl)
    | _ => exact absurd ha Bool.false_ne_true
  | _ => exact absurd ha Bool.false_ne_true

/-- A stop outlives every row but a device reset and its release. -/
theorem exec_fatal {i : Instr} {t : State} (hf : s.pw.fatal = true) (hr : i.resets = false)
    (hp : ∀ mode test puf, i ≠ .powerUp mode test puf) (e : exec i s = .next t) : t.pw.fatal = true := by
  cases ha : i.alwaysOn with
  | true => exact exec_fatal_of_alwaysOn hf ha hr hp e
  | false =>
    rcases exec_dead (live_of_fatal hf) ha with h | ⟨op, h⟩
    · obtain rfl := Host.Outcome.next.inj (h.symm.trans e)
      exact hf
    · cases h.symm.trans e

/-- Settles O49: a row outside the always-on domain is one of the shared operations, which leave a dead node as it is; and a node that has
stopped is dead. -/
theorem deadNodeIgnoresCommands : Obligations.DeadNodeIgnoresCommands :=
  ⟨fun _ _ h ha => exec_dead h ha, fun _ _ _ hf hr hp e => exec_fatal hf hr hp e⟩

/-! ## DEV_STATUS -/

/-- A bit by division. -/
theorem testBit_of_div {x i : Nat} {b : Bool} (h : x / 2 ^ i % 2 = b2n b) : x.testBit i = b := by
  rw [Nat.testBit_eq_decide_div_mod_eq, h]
  cases b <;> rfl

theorem b2n_le_one (b : Bool) : b2n b ≤ 1 := by
  cases b <;> decide

/-- DEV_STATUS as a sum of its fields. -/
theorem devStatus_eq : devStatus s = b2n s.pw.fatal * 2 ^ 15 + b2n s.pw.brake * 2 ^ 14 + b2n (anyFenced s) * 2 ^ 13
    + b2n s.mgmt.debugLockOpen * 2 ^ 12 + b2n (decide (s.mgmt.tenancy = 2)) * 2 ^ 11 + b2n s.configured * 2 ^ 10 + s.pw.fwState := by
  simp [devStatus, word]

/-- The fields of DEV_STATUS (R436). -/
theorem devStatus_fields (hfw : s.pw.fwState < 16) :
    devStatus s < 2 ^ 16 ∧ devStatus s % 16 = s.pw.fwState ∧ devStatus s / 16 % 64 = 0
    ∧ (devStatus s).testBit 10 = s.configured ∧ (devStatus s).testBit 11 = decide (s.mgmt.tenancy = 2)
    ∧ (devStatus s).testBit 12 = s.mgmt.debugLockOpen ∧ (devStatus s).testBit 13 = anyFenced s
    ∧ (devStatus s).testBit 14 = s.pw.brake ∧ (devStatus s).testBit 15 = s.pw.fatal := by
  have h15 := b2n_le_one s.pw.fatal
  have h14 := b2n_le_one s.pw.brake
  have h13 := b2n_le_one (anyFenced s)
  have h12 := b2n_le_one s.mgmt.debugLockOpen
  have h11 := b2n_le_one (decide (s.mgmt.tenancy = 2))
  have h10 := b2n_le_one s.configured
  rw [devStatus_eq]
  generalize hb15 : b2n s.pw.fatal = b15 at *
  generalize hb14 : b2n s.pw.brake = b14 at *
  generalize hb13 : b2n (anyFenced s) = b13 at *
  generalize hb12 : b2n s.mgmt.debugLockOpen = b12 at *
  generalize hb11 : b2n (decide (s.mgmt.tenancy = 2)) = b11 at *
  generalize hb10 : b2n s.configured = b10 at *
  refine ⟨by omega, by omega, by omega, testBit_of_div ?_, testBit_of_div ?_, testBit_of_div ?_, testBit_of_div ?_, testBit_of_div ?_,
    testBit_of_div ?_⟩
  · omega
  · omega
  · omega
  · omega
  · omega
  · omega

/-- Settles O54: the fields by division, and what leaves FATAL by O49's lemma. -/
theorem devStatusFields : Obligations.DevStatusFields := by
  refine ⟨fun s hfw => devStatus_fields hfw, rfl, fun i s t hf e ht => ?_⟩
  by_cases hp : ∃ mode test puf, i = .powerUp mode test puf
  · exact .inr hp
  · cases hr : i.resets with
    | true => exact .inl rfl
    | false =>
      have stays := exec_fatal hf hr (fun mode test puf hi => hp ⟨mode, test, puf, hi⟩) e
      rw [ht] at stays
      cases stays

/-! ## The header's checks -/

/-- A refusal of the host's data is of a command from a ring, which names its virtual node. -/
theorem vnodeOf_noteHostDenied {c : Cmd} {r : Reply} :
    vnodeOf (if hostDataRefusal s c r then noteHostDenied c s else s) c = vnodeOf s c := by
  split
  · next h =>
    unfold vnodeOf
    cases ho : c.origin with
    | host => rfl
    | fabric => simp [hostDataRefusal, ringOf, ho] at h
  · rfl

/-- A command whose header is refused completes with the refusal, counted. -/
theorem runVerb_refused {c : Cmd} {body : State → Done} {r : Reply} (hl : live s = true) (ha : admission s c = none)
    (hc : headerCheck s c = some r) :
    runVerb c body s = .next (complete c r (countRefusal (vnodeOf s c) r (if hostDataRefusal s c r then noteHostDenied c s else s))) := by
  unfold runVerb
  rw [onNode_live hl]
  simp only [runCmd, ha, hc, vnodeOf_noteHostDenied]

/-- A command whose wait does not hold waits. -/
theorem runVerb_waits {c : Cmd} {body : State → Done} (hl : live s = true) (ha : admission s c = none) (hc : headerCheck s c = none)
    (hw : headerWaitHolds s c.hdr = false) (hroom : s.sync.waiters.length < waiterRoom) :
    runVerb c body s
      = .next (addWaiter c.hdr.waitObj (whoOf s c) c.hdr.waitValue.toNat c.hdr.waitTimeout.toNat (.cmd c) s) := by
  unfold runVerb
  rw [onNode_live hl]
  simp only [runCmd, ha, hc, hw, Nat.not_le.mpr hroom, if_false, Bool.false_eq_true]

/-- A command whose wait does not hold and finds the waiter table full is answered. -/
theorem runVerb_waiterFull {c : Cmd} {body : State → Done} (hl : live s = true) (ha : admission s c = none)
    (hc : headerCheck s c = none) (hw : headerWaitHolds s c.hdr = false) (hroom : waiterRoom ≤ s.sync.waiters.length) :
    runVerb c body s = .next (complete c Reply.waiterFull (bump .waiterTableFull s)) := by
  unfold runVerb
  rw [onNode_live hl]
  simp only [runCmd, ha, hc, hw, hroom, if_true, if_false, Bool.false_eq_true]

theorem after_plain {i : Instr} (hf : i.fills = false) (hw : i.wakes = false) : i.after s = s := by
  simp [Instr.after, hf, hw]

theorem after_fills {i : Instr} (hf : i.fills = true) : i.after s = settleUe s := by
  simp [Instr.after, hf]

theorem after_wakes {i : Instr} (hf : i.fills = false) (hw : i.wakes = true) : i.after s = wake s := by
  simp [Instr.after, hf, hw]

/-- A verb row is the command's work, and what follows it. -/
theorem exec_verb {i : Instr} {c : Cmd} (h : i.verb? = some c) (hl : live s = true) (hfill : i.fills = true → AllFill s)
    {t : State} (e : ∀ body, runVerb c body s = .next t) :
    exec i s = .next (i.after t) := by
  cases i with
  | spanOpen | spanLocate | spanAlias | kvAppend | kvMaskSet | kvMaskTile =>
    obtain rfl := Option.some.inj h
    rw [exec, after_fills rfl]
    exact filling_of hl (hfill rfl) (e _)
  | spanClose | spanReset | nodeMap | twinSolo | ownResolve =>
    obtain rfl := Option.some.inj h
    rw [exec, after_wakes rfl rfl]
    exact waking_of hl (e _)
  | cfgImage | cfgProfile | cfgRead | spanMove | spanCoverage | dirClear | dirRead | dirProbe | kvSmooth | kvMaskDrop | attnQuery
  | attnMerge | attnQueryFanout | scrubVerify | scrubPass | tierPromote | tierDemote | tierPin | tierUnpin | tierStatus |
  codecLoad | codecSelect | codecRetire | codecStatus | codecSample | nodeQpCreate | nodeQpDestroy | twinPair | twinCodeset |
  twinStatus | nodeFence | nodeLostList | ownOffer | ownAccept | ownCommit | ownStatus | nodeRingCreate | nodeRingDestroy |
  orderFence | logRead | logCounters | syncCreate | syncDestroy | syncSignal | syncWait | syncRead | syncDump | syncSet |
  barrierCreate | barrierArrive | barrierDestroy =>
    obtain rfl := Option.some.inj h
    rw [exec, after_plain rfl rfl]
    exact e _
  | _ => cases h

theorem headerChecksOfCommands : Parts.HeaderChecksOfCommands := by
  intro i c s hi hl ha hfill
  exact ⟨fun r hc => exec_verb hi hl hfill (fun _ => runVerb_refused hl ha hc),
    fun hc hw hroom => exec_verb hi hl hfill (fun _ => runVerb_waits hl ha hc hw hroom),
    fun hc hw hroom => exec_verb hi hl hfill (fun _ => runVerb_waiterFull hl ha hc hw hroom)⟩

/-! ## Reserved fields (R10) -/

/-- A PEER row takes its message up, and what may follow it does. -/
theorem exec_peer_reserved {i : Instr} {h : PeerHdr} {cls : PeerClass} (hi : i.peer? = some (h, cls)) (hl : live s = true)
    (hp : peerTaken (takePeer h.sender s) h cls = true) (hr : h.rsv = true) :
    exec i s = .next (i.after (ackPeer h stBadParam 0 (takePeer h.sender s))) := by
  cases i with
  | spanFillReport | seqClose =>
    obtain ⟨rfl, rfl⟩ := Prod.mk.inj (Option.some.inj hi)
    rw [exec, after_wakes rfl rfl]
    exact waking_of hl (onPeer_reserved hl hp hr)
  | pairPropose | pairConfirm | mirrorRecord | mirrorRows | mirrorSeal | mirrorRelease | verifyReq | verifyResp | codeContrib |
  codeNull | copyManifest | copyRecord | copyPage | copyRows | copyDone | spanCreateRequest | smoothHold | smoothInstall |
  homeUpdate | sequenceRecordArrival =>
    obtain ⟨rfl, rfl⟩ := Prod.mk.inj (Option.some.inj hi)
    rw [exec, after_plain rfl rfl]
    exact onPeer_reserved hl hp hr
  | _ => cases hi

theorem onPeerAck_reserved {h : PeerHdr} {f : State → State} (hl : live s = true)
    (hp : peerTaken (takePeer h.sender s) h .other = true) (hr : h.rsv = true) : onPeerAck h f s = .next (takePeer h.sender s) := by
  unfold onPeerAck
  rw [onNode_live hl]
  simp only [hp, hr, if_true]

theorem execAck_reserved {p : AckPkt} (hl : live s = true) (hm : p.bth.malformed = false) (ht : talks s p.bth.vnode = true)
    (ha : associated s p.bth.vnode p.bth.srcNode = true) (hr : p.rsv = true) : execAck p s = .next s := by
  simp [execAck, onNode_live hl, hm, ht, ha, hr]

theorem execHello_reserved {port : BitVec 5} {p : HelloPayload} (hl : live s = true) (hr : p.rsv = true) :
    execHello port p s = .next s := by
  simp [execHello, onNode_live hl, hr]

theorem execHeartbeat_reserved {v : VId} {sender : NodeId} {twinLink : Bool} {p : HeartbeatPayload} (hl : live s = true)
    (hm : p.malformed = false) (ht : talks s v = true) (ha : (assocAt s v sender twinLink).isSome = true) (hr : p.rsv = true) :
    execHeartbeat v sender twinLink p s = .next s := by
  have hassoc : ¬(assocAt s v sender twinLink).isNone = true := by rw [← Option.not_isSome, ha]; exact Bool.false_ne_true
  unfold execHeartbeat
  rw [onNode_live hl]
  simp only [hm, ht, if_neg hassoc, hr, Bool.not_true, Bool.false_eq_true, if_false, if_true]

theorem execGetTelemetry_reserved {r : MgmtReq} {clear : Bool} (m : Managed r [roleOperator] s) :
    execGetTelemetry r clear true s = .next (mgmtAnswer r stBadParam [] (countRecord r.session false s)) := onMgmt_managed m

theorem execSetPeerEntry_reserved {r : MgmtReq} {v : VId} {peer : NodeId} {e : PeerEntry} (m : Managed r [roleOperator] s) :
    execSetPeerEntry r v peer e true s = .next (mgmtAnswer r stBadParam [] (countRecord r.session false s)) := by
  unfold execSetPeerEntry
  rw [onMgmt_managed m, if_pos (Or.inl rfl)]

/-- A boot word with a reserved bit is answered BAD_OP. -/
theorem onWord_reserved {op : Nat} {arg : State → Nat} {f : State → State} (hl : live s = true) (hw : wordReserved s 0 = true) :
    onWord op arg f s = .next (bootAnswer 0 op resBadOp 0 (arg (takeMail 0 s)) (takeMail 0 s)) := by
  rw [onWord, if_pos hw]
  exact onNode_live hl

theorem execPing_reserved {value : BitVec 32} (hl : live s = true) (hw : wordReserved s 0 = true) :
    execPing 0 value s = .next (bootAnswer 0 bootPing resBadOp 0 value.toNat (takeMail 0 s)) := by
  have hword : wordReserved s (BitVec.ofNat 4 (BitVec.toNat (0 : BitVec 3))) = true := hw
  unfold execPing
  rw [onNode_live hl, if_neg (fun h => h.1 rfl)]
  simp only [hword, if_true]
  rfl

theorem reservedFieldsAreRefused : Parts.ReservedFieldsAreRefused := by
  refine ⟨?peer, ?peerAck, ?ack, ?hello, ?heartbeat, ?telemetry, ?entry, ?boot⟩
  case peer => exact fun _ _ _ _ hi hl hp hr => exec_peer_reserved hi hl hp hr
  case peerAck => exact fun _ _ _ _ hl hp hr => onPeerAck_reserved hl hp hr
  case ack => exact fun _ _ hl hm ht ha hr => execAck_reserved hl hm ht ha hr
  case hello => exact fun _ _ _ hl hr => execHello_reserved hl hr
  case heartbeat => exact fun _ _ _ _ _ hl hm ht ha hr => execHeartbeat_reserved hl hm ht ha hr
  case telemetry => exact fun _ _ _ m => execGetTelemetry_reserved m
  case entry => exact fun _ _ _ _ _ m => execSetPeerEntry_reserved m
  case boot =>
    exact fun _ hl hw => ⟨fun _ => onWord_reserved hl hw, fun _ _ _ => onWord_reserved hl hw, onWord_reserved hl hw,
      onWord_reserved hl hw, fun _ => execPing_reserved hl hw⟩

/-- Settles O50: the checks of a header, and the reserved fields. -/
theorem headerChecksComeFirst : Obligations.HeaderChecksComeFirst := ⟨headerChecksOfCommands, reservedFieldsAreRefused⟩

/-! ## The roles of management requests -/

theorem onMgmt_denied {r : MgmtReq} {roles : List Nat} {f : State → State} {x : Session} (hl : live s = true)
    (hx : s.mgmt.sessions.at? r.session = some x) (hr : x.role ∉ roles) :
    onMgmt r roles f s = .next (mgmtAnswer r stDenied [] (countRecord r.session false s)) := by
  unfold onMgmt
  rw [onNode_live hl]
  simp only [hx, hr, if_false]

theorem onMgmt_noSession {r : MgmtReq} {roles : List Nat} {f : State → State} (hl : live s = true)
    (hx : s.mgmt.sessions.at? r.session = none) : onMgmt r roles f s = .next s := by
  unfold onMgmt
  rw [onNode_live hl]
  simp only [hx]

/-- A management row is its operation under the roles that may issue it. -/
theorem exec_request {i : Instr} {r : MgmtReq} {roles : List Nat} (h : i.request? = some (r, roles)) {t : Res}
    (e : ∀ f, onMgmt r roles f s = t) : exec i s = t := by
  cases i with
  | getStatus | getAttestation | getCerts | setFabricAnchors | tenancyRelease | getTelemetry | setTime | setFabricIdentity |
  setPeerEntry | readNeighbours | setTenantAnchor | tenancyOpen | debugLock | tenancySeal =>
    obtain ⟨rfl, rfl⟩ := Prod.mk.inj (Option.some.inj h)
    rw [exec]
    exact e _
  | _ => cases h

end

/-- Settles O51: every management row is one operation under its roles. -/
theorem managementRolesAreChecked : Obligations.ManagementRolesAreChecked := by
  intro i r roles s hi hl
  exact ⟨fun x hx hr => exec_request hi (fun _ => onMgmt_denied hl hx hr), fun hx => exec_request hi (fun _ => onMgmt_noSession hl hx)⟩

end Sys2Proof.Machine

/-! # Signals, waits, the log and the words of replies: O53, O55, O56 -/

namespace Sys2Proof.Machine

/-! ## What answers and admissions leave of the synchronisation unit -/

/-- The objects and the waiters stay. -/
def State.KeepsSync (s t : State) : Prop := t.sync.objs = s.sync.objs ∧ t.sync.waiters = s.sync.waiters

section
variable {s t u : State} {i : BitVec 14} {c : Cmd}

theorem State.KeepsSync.only (h : t.sync = s.sync) : s.KeepsSync t := by rw [State.KeepsSync, h]; exact ⟨rfl, rfl⟩

theorem State.KeepsSync.refl : s.KeepsSync s := .only rfl

theorem State.KeepsSync.after (k : t.KeepsSync u) (h : s.KeepsSync t) : s.KeepsSync u := ⟨k.1.trans h.1, k.2.trans h.2⟩

theorem State.KeepsSync.objAt (h : s.KeepsSync t) : objAt t i = objAt s i := by unfold Machine.objAt; rw [h.1]

theorem raise_sync {v : Nat} : (raise v s).sync = s.sync := by
  unfold raise
  split
  · rfl
  · split
    · rfl
    · rfl

theorem updQp_sync {q : BitVec 12} {f : Qp → Qp} : (updQp q f s).sync = s.sync := by
  unfold updQp
  split
  · rfl
  · rfl

theorem updAssoc_sync {v : VId} {n : NodeId} {twin : Bool} {f : Assoc → Assoc} : (updAssoc v n twin f s).sync = s.sync := by
  unfold updAssoc
  split
  · rfl
  · rfl

theorem onPort_sync {v : VId} {n : NodeId} {twin : Bool} {o : BitVec 5 → Output} : (onPort v n twin o s).sync = s.sync := by
  unfold onPort
  dsimp only
  split
  · rfl
  · rfl

theorem sendData_sync {q : BitVec 12} {x : Qp} {d : TxData} {psn : BitVec 32} {e : Nat} {again : Bool} :
    (sendData q x d psn e again s).sync = s.sync := by
  unfold sendData sendPacketTo
  dsimp only
  split
  · rfl
  · split
    · rfl
    · exact updAssoc_sync.trans onPort_sync

theorem pumpTx_sync {n : Nat} {q : BitVec 12} : (pumpTx n q s).sync = s.sync := by
  induction n generalizing s with
  | zero => rfl
  | succ n ih =>
    unfold pumpTx
    split
    · rfl
    · split
      · rfl
      · dsimp only
        split
        · rfl
        · exact ih.trans (sendData_sync.trans updQp_sync)

theorem sendOn_sync {q : BitVec 12} {twin : Bool} {h : MsgHead} {bs : List Byte} : (sendOn q twin h bs s).sync = s.sync := by
  unfold sendOn
  split
  · split
    · exact pumpTx_sync.trans updQp_sync
    · rfl
  · rfl

theorem sendReply_sync {v : VId} {q : BitVec 12} {n : NodeId} {a : BitVec 64} {k : BitVec 32} {m : Option NodeId} {bs : List Byte} :
    (sendReply v q n a k m bs s).sync = s.sync := by
  unfold sendReply
  split
  · rfl
  · exact sendOn_sync

theorem sendResult_sync {fuel : Nat} {v : VId} {q : BitVec 12} {n : NodeId} {a : BitVec 64} {k : BitVec 32} {bs : List Byte} :
    (sendResult fuel v q n a k bs s).sync = s.sync := by
  induction fuel generalizing a bs s with
  | zero => rfl
  | succ n ih =>
    unfold sendResult
    split
    · rfl
    · exact ih.trans sendReply_sync

theorem coalesce_sync {r : BitVec 9} {now : Bool} : (coalesce r now s).sync = s.sync := by
  unfold coalesce
  dsimp only
  split
  · exact raise_sync
  · rfl

theorem writeRecord_sync {r : BitVec 9} {a b : List Byte} : (writeRecord r c a b s).sync = s.sync := by
  unfold writeRecord
  extract_lets rr x gone phase t u
  split
  · rfl
  · exact coalesce_sync

theorem answer_sync {r : Reply} : (answer c r s).sync = s.sync := by
  unfold answer
  extract_lets v bs moved
  split
  · exact writeRecord_sync
  · exact sendReply_sync.trans sendResult_sync

/-- A completion owes its signal and changes nothing else of the unit. -/
theorem completeOnly_keepsSync {r : Reply} : s.KeepsSync (completeOnly c r s) := by
  have h : s.KeepsSync (retire c (answer c r s)) := .only answer_sync
  unfold completeOnly oweSignal
  split
  · exact h
  · exact h

theorem takeIn_sync {b : Bool} : (takeIn c b s).sync = s.sync := by
  unfold takeIn takeInWith
  extract_lets a t u
  split
  · split
    · rfl
    · rfl
  · rfl

theorem releaseWaiter_keepsSync {w : Waiter} : s.KeepsSync (releaseWaiter w s) := by
  unfold releaseWaiter
  split
  · exact .only rfl
  · exact .only rfl
  · split
    · exact completeOnly_keepsSync.after (.only takeIn_sync)
    · exact .only takeIn_sync
  · exact completeOnly_keepsSync

/-! ## Objects and their waiters -/

variable {o x : SyncObj} {f : SyncObj → SyncObj} {ws : List Waiter}

theorem objAt_updObj (h : objAt s i = some o) : objAt (updObj i f s) i = some (f o) := by
  unfold updObj
  rw [h]
  exact Tbl.at?_put_self ..

theorem updObj_waiters : (updObj i f s).sync.waiters = s.sync.waiters := by
  unfold updObj
  split
  · rfl
  · rfl

theorem waitersOf_of_waiters (h : t.sync.waiters = s.sync.waiters) : waitersOf t i = waitersOf s i := by
  unfold waitersOf
  rw [h]

/-- Where no waiter's condition holds, none is released. -/
theorem releaseList_holding (h : objAt s i = some x) (hn : ∀ w ∈ ws, waitHolds x w.value = false) : releaseList i ws s = s := by
  induction ws with
  | nil => rfl
  | cons w r ih =>
    obtain ⟨hw, hr⟩ := List.forall_mem_cons.mp hn
    rw [releaseList, h]
    dsimp only
    rw [if_neg (by simp [hw])]
    exact ih hr

/-- What is released before the others of the list. -/
theorem dropWaiter_released {w : Waiter} (h : objAt s i = some x) :
    objAt (releaseWaiter w (bump .syncReleases (dropWaiter w.id s))) i = some x
      ∧ (releaseWaiter w (bump .syncReleases (dropWaiter w.id s))).sync.waiters = s.sync.waiters.filter (fun y => y.id ≠ w.id) :=
  ⟨releaseWaiter_keepsSync.objAt.trans h, releaseWaiter_keepsSync.2⟩

/-- A signal to an object that no wait empties drops those waiters whose condition holds, and keeps the object. -/
theorem releaseList_drops (h : objAt s i = some x) (hk : x.kind ≠ .event) : objAt (releaseList i ws s) i = some x
    ∧ ∀ w ∈ (releaseList i ws s).sync.waiters, w ∈ s.sync.waiters ∧ ∀ y ∈ ws, waitHolds x y.value = true → w.id ≠ y.id := by
  induction ws generalizing s with
  | nil => exact ⟨h, fun w hw => ⟨hw, fun y hy => absurd hy List.not_mem_nil⟩⟩
  | cons y r ih =>
    rw [releaseList, h]
    dsimp only
    rw [if_neg hk]
    split
    · obtain ⟨ho, hd⟩ := dropWaiter_released (w := y) h
      obtain ⟨ho', hw'⟩ := ih ho
      refine ⟨ho', fun w hw => ?_⟩
      obtain ⟨hm, hr⟩ := hw' w hw
      rw [hd, List.mem_filter, decide_eq_true_eq] at hm
      exact ⟨hm.1, List.forall_mem_cons.mpr ⟨fun _ => hm.2, hr⟩⟩
    · next hy =>
      obtain ⟨ho', hw'⟩ := ih h
      exact ⟨ho', fun w hw => ⟨(hw' w hw).1, List.forall_mem_cons.mpr ⟨fun e => absurd e hy, (hw' w hw).2⟩⟩⟩

theorem releaseWaiters_drops (h : objAt s i = some x) (hk : x.kind ≠ .event) : objAt (releaseWaiters i s) i = some x
    ∧ ∀ w ∈ (releaseWaiters i s).sync.waiters, w.index = i → waitHolds x w.value = false := by
  obtain ⟨ho, hw⟩ := releaseList_drops (ws := waitersOf s i) h hk
  refine ⟨ho, fun w hm hi => ?_⟩
  obtain ⟨hs, hd⟩ := hw w hm
  exact Bool.eq_false_iff.mpr fun e => hd w (List.mem_filter.mpr ⟨hs, decide_eq_true hi⟩) e rfl

/-- A set event releases its first waiter and is consumed. -/
theorem releaseWaiters_event {w : Waiter} {r : List Waiter} (h : objAt s i = some x) (hk : x.kind = .event) (hv : x.value = 1)
    (hw : waitersOf s i = w :: r) : objAt (releaseWaiters i s) i = some { x with value := 0 }
      ∧ (releaseWaiters i s).sync.waiters = s.sync.waiters.filter (fun y => y.id ≠ w.id) := by
  obtain ⟨ho, hd⟩ := dropWaiter_released (w := w) (objAt_updObj (f := fun o => { o with value := 0 }) h)
  have hn : ∀ y ∈ r, waitHolds { x with value := 0 } y.value = false := fun y _ => by simp [waitHolds, hk]
  have hh : waitHolds x w.value = true := by simp [waitHolds, hk, hv]
  unfold releaseWaiters
  rw [hw, releaseList, h]
  dsimp only
  rw [if_pos hh, if_pos hk, releaseList_holding ho hn]
  exact ⟨ho, hd.trans (by rw [updObj_waiters])⟩

/-- The interrupt that a signal may raise. -/
theorem raised_keepsSync {p : Prop} [Decidable p] {v : Nat} : s.KeepsSync (if p then raise v s else s) := by
  split
  · exact .only raise_sync
  · exact .refl

/-! ## Signals -/

variable {n : Nat} {who : BitVec 64}

/-- An object that a signal has changed, before its waiters are looked at. -/
theorem signalled_obj {v : Nat} {k : Counter} (h : objAt s i = some o) :
    objAt (if v ≠ 0 then raise v (bump k (updObj i f s)) else bump k (updObj i f s)) i = some (f o) :=
  raised_keepsSync.objAt.trans (objAt_updObj h)

theorem signalled_waiters {v : Nat} {k : Counter} :
    (if v ≠ 0 then raise v (bump k (updObj i f s)) else bump k (updObj i f s)).sync.waiters = s.sync.waiters :=
  raised_keepsSync.2.trans updObj_waiters

theorem applySignal_counter (h : objAt s i = some o) (hk : o.kind = .counter) :
    ∃ x, objAt (applySignal i n who s) i = some x ∧ x.kind = .counter ∧ x.value = (o.value + n) % 2 ^ 64
      ∧ ∀ w ∈ (applySignal i n who s).sync.waiters, w.index = i → waitHolds x w.value = false := by
  unfold applySignal
  rw [h]
  dsimp only
  rw [hk]
  dsimp only
  obtain ⟨ho, hw⟩ := releaseWaiters_drops (signalled_obj (k := .syncSignals) (v := o.msix) (f := fun o => { o with
      value := (o.value + n) % 2 ^ 64, lastSignaller := who, lastSignalNs := s.pw.uptime }) h)
    (fun e => by rw [hk] at e; exact ObjKind.noConfusion e)
  exact ⟨_, ho, hk, rfl, hw⟩

theorem applySignal_unset (h : objAt s i = some o) (hk : o.kind = .event) (hv : o.value = 0) :
    (waitersOf s i = [] → ∃ x, objAt (applySignal i n who s) i = some x ∧ x.value = 1 ∧ x.overruns = o.overruns)
    ∧ (∀ w r, waitersOf s i = w :: r → ∃ x, objAt (applySignal i n who s) i = some x ∧ x.value = 0 ∧ x.overruns = o.overruns
      ∧ (applySignal i n who s).sync.waiters = s.sync.waiters.filter (fun y => y.id ≠ w.id)) := by
  unfold applySignal
  rw [h]
  dsimp only
  rw [hk]
  dsimp only
  rw [if_pos hv]
  constructor
  · intro hw
    unfold releaseWaiters
    rw [waitersOf_of_waiters signalled_waiters, hw]
    exact ⟨_, signalled_obj h, rfl, rfl⟩
  · intro w r hw
    obtain ⟨ho, hd⟩ := releaseWaiters_event (signalled_obj (f := fun o => { o with
      value := 1, lastSignaller := who, lastSignalNs := s.pw.uptime }) h) hk rfl
      ((waitersOf_of_waiters signalled_waiters).trans hw)
    exact ⟨_, ho, rfl, rfl, hd.trans (by rw [signalled_waiters])⟩

theorem counterAt_bump_self {k : Counter} : counterAt (bump k s) k 0 = min (2 ^ 64 - 1) (counterAt s k 0 + 1) := by
  simp only [counterAt, bump, bumpAt, Tbl.atD_upd_self]

theorem counterAt_bump_other {k l : Counter} {j : Nat} (h : l ≠ k) : counterAt (bump k s) l j = counterAt s l j := by
  have hn : (k, 0) ≠ (l, j) := fun e => h (congrArg Prod.fst e).symm
  simp only [counterAt, bump, bumpAt, Tbl.atD_upd_ne _ _ _ _ hn]

theorem updObj_ctr : (updObj i f s).ctr = s.ctr := by
  unfold updObj
  split
  · rfl
  · rfl

theorem applySignal_set (h : objAt s i = some o) (hk : o.kind = .event) (hv : o.value = 1) :
    ∃ x, objAt (applySignal i n who s) i = some x ∧ x.value = 1 ∧ x.overruns = min 0xFFFF (o.overruns + 1)
      ∧ counterAt (applySignal i n who s) .eventOverruns 0 = min (2 ^ 64 - 1) (counterAt s .eventOverruns 0 + 1)
      ∧ (applySignal i n who s).sync.waiters = s.sync.waiters := by
  unfold applySignal
  rw [h]
  dsimp only
  rw [hk]
  dsimp only
  rw [if_neg (by simp [hv])]
  refine ⟨_, objAt_updObj h, hv, rfl, ?_, updObj_waiters⟩
  rw [counterAt_bump_self, counterAt_bump_other (by decide)]
  unfold counterAt
  rw [updObj_ctr]

/-! ## Wait conditions -/

/-- The model's difference of two numbers of `m` is the difference modulo `m`. -/
theorem sub_mod_toNat {v w m : Nat} (hw : w < m) : (((v : Int) - (w : Int)) % (m : Int)).toNat = (v + m - w % m) % m := by
  rw [Nat.mod_eq_of_lt hw]
  have h : ((v : Int) - w) % m = (((v + m - w : Nat) % m : Nat) : Int) := by
    rw [Int.natCast_mod, Nat.cast_sub (by omega), Nat.cast_add, show (v : Int) + m - w = (v - w) + m by omega, Int.add_emod_right]
  rw [h, Int.toNat_natCast]

theorem waitHolds_counter {w : Nat} (hk : o.kind = .counter) (hw : w < 2 ^ 64) :
    waitHolds o w = true ↔ (((o.value : Int) - (w : Int)) % 2 ^ 64).toNat < 2 ^ 63 := by
  have h := sub_mod_toNat (v := o.value) hw
  rw [show (2 : Int) ^ 64 = ((2 ^ 64 : Nat) : Int) by norm_num, h]
  simp only [waitHolds, hk, decide_eq_true_eq]

theorem waitHolds_barrier {w : Nat} (hk : o.kind = .barrier) (hw : w < 2 ^ 48) :
    waitHolds o w = true ↔ (((o.value : Int) - (w : Int)) % 2 ^ 48).toNat < 2 ^ 47 := by
  have h := sub_mod_toNat (v := o.value) hw
  rw [show (2 : Int) ^ 48 = ((2 ^ 48 : Nat) : Int) by norm_num, h]
  simp only [waitHolds, hk, decide_eq_true_eq]

theorem waitHolds_event {w : Nat} (hk : o.kind = .event) : waitHolds o w = true ↔ o.value = 1 := by
  simp only [waitHolds, hk, decide_eq_true_eq]

/-! ## The synchronisation fields of a header -/

theorem syncFieldsBad_barrier {h : CmdHeader} (hs : h.signalValid = true) (ho : objAt s h.signalObj = some o) (hk : o.kind = .barrier)
    (hw : h.waitValid = true → (objAt s h.waitObj).isSome = true) : syncFieldsBad s h = some (Reply.bad 20) := by
  have hn : ¬ (h.waitValid = true ∧ (objAt s h.waitObj).isNone = true) := fun ⟨a, b⟩ => by
    rw [← Option.not_isSome, hw a] at b
    exact Bool.noConfusion b
  unfold syncFieldsBad
  dsimp only
  rw [if_neg hn, if_pos (by simp [hs, ho, hk])]

theorem syncFieldsBad_wait {h : CmdHeader} (hw : h.waitValid = true) (hs : h.signalValid = false) (h1 : 1 ≤ h.waitTimeout.toNat)
    (h2 : h.waitTimeout.toNat ≤ 60000000) (ho : objAt s h.waitObj = some o) (hf : o.failed = false) :
    syncFieldsBad s h = none
      ↔ o.kind = .counter ∨ (o.kind = .event ∧ h.waitValue = 0) ∨ (o.kind = .barrier ∧ h.waitValue.toNat < 2 ^ 48) := by
  have ht : h.waitTimeout.toNat ≠ 0 := by omega
  have hu : ¬ 60000000 < h.waitTimeout.toNat := by omega
  unfold syncFieldsBad
  cases hk : o.kind with
  | counter => simp [hw, hs, ho, hf, hk, ht, hu]
  | event => simp [hw, hs, ho, hf, hk, ht, hu]
  | barrier => simp [hw, hs, ho, hf, hk, ht, hu]

/-! ## The wait that holds when it is first evaluated -/

theorem asWork_sync : (asWork c s).sync = s.sync := by
  unfold asWork
  split
  · rfl
  · rfl

theorem toWork_waitHolds (ha : admission s c = none) (hc : headerCheck s c = none) (hv : c.hdr.waitValid = true)
    (ho : objAt s c.hdr.waitObj = some o) (hh : waitHolds o c.hdr.waitValue.toNat = true) :
    ∃ b w x, toWork c s = some (b, w) ∧ w.sync.waiters = s.sync.waiters ∧ objAt w c.hdr.waitObj = some x
      ∧ x.value = if o.kind = .event then 0 else o.value := by
  have hw : headerWaitHolds s c.hdr = true := by simp [headerWaitHolds, hv, ho, hh]
  have k : (passWait c.hdr.waitObj s).KeepsSync (asWork c (takeIn c true (passWait c.hdr.waitObj s))) :=
    .only (asWork_sync.trans takeIn_sync)
  refine ⟨takeIn c true (passWait c.hdr.waitObj s), _, _, ?_, k.2.trans updObj_waiters, k.objAt.trans (objAt_updObj ho), ?_⟩
  · unfold toWork
    rw [ha, hc]
    simp [hw, hv]
  · split
    · rfl
    · rfl

end

/-- Settles O53, by kind of object: what is left of a list of waiters once each whose condition holds is released. -/
theorem signalsAndWaitConditions : Obligations.SignalsAndWaitConditions := by
  unfold Obligations.SignalsAndWaitConditions
  refine ⟨?counter, ?unset, ?set, ?barrier, ?holdsCounter, ?holdsEvent, ?holdsBarrier, ?fields, ?first⟩
  case counter => exact fun i o n who s h hk => applySignal_counter h hk
  case unset => exact fun i o n who s h hk hv => applySignal_unset h hk hv
  case set => exact fun i o n who s h hk hv => applySignal_set h hk hv
  case barrier => exact fun h s o hs ho hk hw => syncFieldsBad_barrier hs ho hk hw
  case holdsCounter => exact fun o w hk hw => waitHolds_counter hk hw
  case holdsEvent => exact fun o w hk => waitHolds_event hk
  case holdsBarrier => exact fun o w hk hw => waitHolds_barrier hk hw
  case fields => exact fun h s o hw hs h1 h2 ho hf => syncFieldsBad_wait hw hs h1 h2 ho hf
  case first => exact fun c s o ha hc hv ho hh => toWork_waitHolds ha hc hv ho hh

section
variable {s : State}

/-! ## The log -/

theorem raise_log {v : Nat} : (raise v s).log = s.log := by
  unfold raise
  split
  · rfl
  · split
    · rfl
    · rfl

theorem raise_ctr {v : Nat} : (raise v s).ctr = s.ctr := by
  unfold raise
  split
  · rfl
  · split
    · rfl
    · rfl

theorem raise_pw {v : Nat} : (raise v s).pw = s.pw := by
  unfold raise
  split
  · rfl
  · split
    · rfl
    · rfl

theorem raise_devError {v : Nat} : (raise v s).host.devError = s.host.devError := by
  unfold raise
  split
  · rfl
  · split
    · rfl
    · rfl

theorem setDevError_log {b : Nat} : (setDevError b s).log = s.log := by
  unfold setDevError
  split
  · rfl
  · exact raise_log

theorem setDevError_ctr {b : Nat} : (setDevError b s).ctr = s.ctr := by
  unfold setDevError
  split
  · rfl
  · exact raise_ctr

theorem setDevError_pw {b : Nat} : (setDevError b s).pw = s.pw := by
  unfold setDevError
  split
  · rfl
  · exact raise_pw

/-- The bit that is set for a lost event. -/
theorem setDevError_lost : (setDevError 2 s).host.devError.getLsbD 2 = true := by
  unfold setDevError
  split
  · assumption
  · rw [raise_devError, BitVec.getLsbD_or]
    exact Bool.or_true _

/-- The record that `logFrom` makes, with the count of records discarded before it. -/
def newEvent (v : VId) (code source : Nat) (payload : List (Nat × Nat)) (dropped : Nat) (s : State) : Event :=
  ⟨s.log.nextSeq, code, source, severityOf code, (vn s v).nodeId, s.pw.uptime, min (2 ^ 32 - 1) dropped, hideDigests s payload⟩

/-- The record is stored behind those that are held, and raises the vector of errors where it is severe enough. -/
def store (e : Event) (held : List Event) (s : State) : State :=
  let t := { s with log := { s.log with events := held ++ [e], nextSeq := s.log.nextSeq + 1, dropped := 0 } }
  if 2 ≤ e.severity then raise 0 t else t

theorem store_log {e : Event} {held : List Event} :
    (store e held s).log = { s.log with events := held ++ [e], nextSeq := s.log.nextSeq + 1, dropped := 0 } := by
  unfold store
  dsimp only
  split
  · exact raise_log
  · rfl

theorem store_ctr {e : Event} {held : List Event} : (store e held s).ctr = s.ctr := by
  unfold store
  dsimp only
  split
  · exact raise_ctr
  · rfl

theorem store_devError {e : Event} {held : List Event} : (store e held s).host.devError = s.host.devError := by
  unfold store
  dsimp only
  split
  · exact raise_devError
  · rfl

variable {v : VId} {code source : Nat} {payload : List (Nat × Nat)}

theorem logFrom_room (h : s.log.events.length < logRoom) :
    logFrom v code source payload s = store (newEvent v code source payload s.log.dropped s) s.log.events s := by
  have hf : decide (logRoom ≤ s.log.events.length) = false := decide_eq_false (Nat.not_le.mpr h)
  unfold logFrom
  rw [hf]
  rfl

/-- The count of the record that a full log discards, and its error bit. -/
def lostOne (s : State) : State := setDevError 2 (bump .eventsDropped s)

theorem logFrom_full (h : logRoom ≤ s.log.events.length) : logFrom v code source payload s
    = store (newEvent v code source payload (s.log.dropped + 1) (lostOne s)) (s.log.events.drop 1) (lostOne s) := by
  have hf : decide (logRoom ≤ s.log.events.length) = true := decide_eq_true h
  have hl : (lostOne s).log = s.log := setDevError_log
  unfold logFrom
  rw [hf]
  dsimp only
  rw [if_pos rfl, if_pos rfl]
  change store ⟨_, _, _, _, _, _, min (2 ^ 32 - 1) ((lostOne s).log.dropped + 1), _⟩ ((lostOne s).log.events.drop 1) (lostOne s) = _
  rw [hl]
  rfl

theorem logFrom_stores : ∃ e, e.code = code ∧ e.source = source ∧ e.seq = s.log.nextSeq ∧ e.timeNs = s.pw.uptime
    ∧ (logFrom v code source payload s).log.nextSeq = s.log.nextSeq + 1 ∧ (logFrom v code source payload s).log.dropped = 0
    ∧ (s.log.events.length < logRoom → (logFrom v code source payload s).log.events = s.log.events ++ [e]
      ∧ e.droppedBefore = min (2 ^ 32 - 1) s.log.dropped
      ∧ counterAt (logFrom v code source payload s) .eventsDropped 0 = counterAt s .eventsDropped 0)
    ∧ (logRoom ≤ s.log.events.length → (logFrom v code source payload s).log.events = s.log.events.drop 1 ++ [e]
      ∧ e.droppedBefore = min (2 ^ 32 - 1) (s.log.dropped + 1)
      ∧ counterAt (logFrom v code source payload s) .eventsDropped 0 = min (2 ^ 64 - 1) (counterAt s .eventsDropped 0 + 1)
      ∧ (logFrom v code source payload s).host.devError.getLsbD 2 = true) := by
  rcases Nat.lt_or_ge s.log.events.length logRoom with h | h
  · refine ⟨newEvent v code source payload s.log.dropped s, rfl, rfl, rfl, rfl, ?_, ?_, fun _ => ⟨?_, rfl, ?_⟩, fun k => by omega⟩
    · rw [logFrom_room h, store_log]
    · rw [logFrom_room h, store_log]
    · rw [logFrom_room h, store_log]
    · rw [logFrom_room h, counterAt, store_ctr, counterAt]
  · have hl : (lostOne s).log = s.log := setDevError_log
    have hp : (lostOne s).pw = s.pw := setDevError_pw
    have hc : (lostOne s).ctr = (bump .eventsDropped s).ctr := setDevError_ctr
    refine ⟨newEvent v code source payload (s.log.dropped + 1) (lostOne s), rfl, rfl, congrArg Log.nextSeq hl, congrArg (·.uptime) hp,
      ?_, ?_, fun k => by omega, fun _ => ⟨?_, rfl, ?_, ?_⟩⟩
    · rw [logFrom_full h, store_log, hl]
    · rw [logFrom_full h, store_log]
    · rw [logFrom_full h, store_log]
    · rw [logFrom_full h, counterAt, store_ctr, hc, ← counterAt, counterAt_bump_self]
    · rw [logFrom_full h, store_devError]
      exact setDevError_lost

theorem logFrom_empty (h : s.log.events = []) : ∃ e, (logFrom v code source payload s).log.events = [e]
    ∧ e.seq = s.log.nextSeq ∧ e.droppedBefore = min (2 ^ 32 - 1) s.log.dropped := by
  have hr : s.log.events.length < logRoom := by rw [h]; decide
  exact ⟨_, by rw [logFrom_room hr, store_log, h]; rfl, rfl, rfl⟩

/-- A tenant change opens an empty log, with its own record. -/
theorem enterTenancy_log {new : Nat} {tk : Option (List Byte)} : ∃ e, (enterTenancy new tk (forgetLog s)).log.events = [e]
    ∧ e.seq = s.log.nextSeq ∧ e.droppedBefore = min (2 ^ 32 - 1) (s.log.dropped + s.log.events.length) :=
  logFrom_empty rfl

end

/-- Settles O55, from what a log with room and a full log store. -/
theorem fullLogDropsItsOldest : Obligations.FullLogDropsItsOldest := by
  unfold Obligations.FullLogDropsItsOldest
  exact ⟨fun v code source payload s => logFrom_stores, fun new tk s => enterTenancy_log⟩

/-! ## Frames -/

/-- A frame head whose two IPv6 addresses are empty: no clause of the model gives them their 16 bytes. -/
def addresslessHead : FrameHead :=
  { dstMac := 0, srcMac := 0, tag := none, srcIp := [], dstIp := [], dscp := 0, entropy := 0, srcQpn := 0, udpPort := 0 }

/-- `etherContent` skips the 32 bytes of two addresses, so that it loses the content behind a head that has none. -/
theorem etherContent_addressless :
    (etherContent (etherFrame addresslessHead (secTag 0 0 0 0) 1 ([0] ++ zeros 16))).length = 0 := by decide

/-- Refutes O56: its clause on the content of a frame asks nothing of the lengths of the head's source and destination addresses; with empty
addresses the content of one byte is not read back. -/
theorem not_statusReplyWords : ¬ Obligations.StatusReplyWords := by
  unfold Obligations.StatusReplyWords Parts.PacketsReadAsWritten
  rintro ⟨-, ⟨-, -, -, -, -, -, -, hframe, -⟩, -⟩
  have h := hframe addresslessHead 0 0 0 0 1 [0] (zeros 16) rfl
  have hl := etherContent_addressless
  rw [h] at hl
  exact Nat.one_ne_zero hl

end Sys2Proof.Machine

/-! # The directory's commands and events: the statement O1 -/

namespace Sys2Proof.Machine

section
variable {s b w t u : State} {c : Cmd}

/-! ## DIR.READ, DIR.PROBE and DIR.CLEAR (R91, R457, R458) -/

theorem dirImage_length {e : DirEntry} : (dirImage e).length = 32 := leBytes_length 32 _

/-- Images of the directory take 32 bytes each. -/
theorem dirImages_length {n : Nat} {f : Nat → DirEntry} : ((List.range n).flatMap (fun i => dirImage (f i))).length = 32 * n := by
  simp only [List.length_flatMap, dirImage_length, List.map_const', List.length_range, List.sum_replicate, smul_eq_mul]
  omega

theorem execDirRead_serves {bank : BitVec 4} {first : BitVec 12} {count : BitVec 13} (hs : Serves c 8 s b w) (h1 : 1 ≤ count.toNat)
    (h2 : first.toNat + count.toNat ≤ 4096) (hr : 32 * count.toNat ≤ resultRoom b c) : execDirRead c bank first count s
      = .next (complete c (Reply.ofResult count.toNat ((List.range count.toNat).flatMap (fun i =>
        dirImage (shownEntry w (vnodeOf w c) ((bankAt w bank.toNat).cell (first.toNat + i)))))) w) := by
  have hf : fieldsPass [(decide (count.toNat < 1) || decide (4096 < count.toNat), 64 + 4),
      (decide (4096 < first.toNat + count.toNat), noField)] = true := by
    simp [fieldsPass, h2]
    omega
  rw [execDirRead, runVerb_pass hs hf]
  exact congrArg _ (finish_now (dirImages_length.trans_le hr))

/-- The answer of DIR.PROBE. -/
def probeDone (r : Found) (t : State) : Done :=
  match r with
  | .hit k a e => .now (Reply.ofResult 1 (dirImage e ++ words64 [word [(60, k), (48, a)], 0, 0, 0])) t
  | .miss => .refuse stMiss t
  | .transient => .refuse stMissTransient t

section
variable {handle : Handle} {span : SpanIx} {kind : BitVec 8} {x : Upsets} {r : Found}
  (hs : Serves c 16 s b w) (hh : badHandle handle = false) (h1 : kind.toNat % 16 = 0) (h2 : kind.toNat < 64)
include hs hh h1 h2

/-- DIR.PROBE answers what the search finds. -/
theorem execDirProbe_serves (hfound : search (vnodeOf w c) handle span.toNat (kind.toNat / 16) (applyDirUpsets x w) = (r, t)) :
    execDirProbe c handle span kind x s = .next (finish c b (probeDone r t)) := by
  have hf : fieldsPass [(badHandle handle, 64), (decide (kind.toNat % 16 ≠ 0) || decide (3 < kind.toNat / 16), 76)] = true := by
    simp [fieldsPass, hh, h1]
    omega
  rw [execDirProbe, runVerb_pass hs hf]
  dsimp only
  rw [hfound]
  rfl

theorem execDirProbe_hit {k a : Nat} {e : DirEntry} (hr : 64 ≤ resultRoom b c)
    (hfound : search (vnodeOf w c) handle span.toNat (kind.toNat / 16) (applyDirUpsets x w) = (.hit k a e, t)) :
    execDirProbe c handle span kind x s
      = .next (complete c (Reply.ofResult 1 (dirImage e ++ words64 [word [(60, k), (48, a)], 0, 0, 0])) t) := by
  have hfits : Fits c b (Reply.ofResult 1 (dirImage e ++ words64 [word [(60, k), (48, a)], 0, 0, 0])) := by
    have hl : (dirImage e ++ words64 [word [(60, k), (48, a)], 0, 0, 0]).length = 64 := by
      rw [List.length_append, dirImage_length, words64_length]
      rfl
    exact hl.trans_le hr
  rw [execDirProbe_serves hs hh h1 h2 hfound]
  exact congrArg _ (finish_now hfits)

end

theorem execDirClear_serves (hs : Serves c 0 s b w) :
    execDirClear c s = .next (complete c (Reply.st stOk) (dirCleared (vnodeOf w c) w)) := by
  rw [execDirClear, runVerb_pass hs rfl, finish_st]

/-! ## The scrub of the directory (R80) -/

/-- The counter of a kind that no part of writing an event record counts. -/
theorem counterAt_logFrom {v : VId} {code source j : Nat} {p : List (Nat × Nat)} {k : Counter} (h : k ≠ .eventsDropped) :
    counterAt (logFrom v code source p s) k j = counterAt s k j := by
  rcases Nat.lt_or_ge s.log.events.length logRoom with hr | hr
  · rw [logFrom_room hr, counterAt, store_ctr, counterAt]
  · have hc : (lostOne s).ctr = (bump .eventsDropped s).ctr := setDevError_ctr
    rw [logFrom_full hr, counterAt, store_ctr, hc, ← counterAt, counterAt_bump_other h]

theorem counterAt_bumpAt_self {k : Counter} {j n : Nat} : counterAt (bumpAt k j n s) k j = min (2 ^ 64 - 1) (counterAt s k j + n) := by
  simp only [counterAt, bumpAt, Tbl.atD_upd_self]

/-- The cells of all banks. -/
def allCells (s : State) : List (Nat × DirCell) := s.dir.banks.flatMap (fun b => b.2.cells)

theorem flatMap_put {f : DirBank → DirBank} {x : Nat} {bs : Tbl Nat DirBank} (hf : ∀ k, (f k).cells = k.cells) :
    (bs.upd x DirBank.empty f).flatMap (fun b => b.2.cells) = bs.flatMap (fun b => b.2.cells) := by
  unfold Tbl.upd
  induction bs with
  | nil => exact congrArg (· ++ []) (hf DirBank.empty)
  | cons y r ih =>
    obtain ⟨x', k⟩ := y
    unfold Tbl.put Tbl.atD
    split
    · exact congrArg (· ++ _) (hf k)
    · exact congrArg (k.cells ++ ·) ih

theorem allCells_markRebuilding {x : Nat} : allCells (markRebuilding x s) = allCells s :=
  flatMap_put (f := fun k => { k with rebuilding := true }) fun _ => rfl

/-- What noting the unreadable shadows leaves for the scrub. -/
def State.ScrubsAs (s t : State) : Prop := allCells t = allCells s ∧ counterAt t .dirScrubFixes 0 = counterAt s .dirScrubFixes 0

theorem State.ScrubsAs.trans (h : s.ScrubsAs t) (k : t.ScrubsAs u) : s.ScrubsAs u := ⟨k.1.trans h.1, k.2.trans h.2⟩

/-- A fold of steps that each leave it. -/
theorem State.ScrubsAs.foldl {α : Type} {f : State → α → State} {xs : List α} (h : ∀ (u : State) x, u.ScrubsAs (f u x)) :
    s.ScrubsAs (xs.foldl f s) := by
  induction xs generalizing s with
  | nil => exact ⟨rfl, rfl⟩
  | cons x r ih => exact (h s x).trans ih

theorem logFrom_dir {v : VId} {code source : Nat} {p : List (Nat × Nat)} : (logFrom v code source p s).dir = s.dir := by
  obtain ⟨-, -, -, -, -, -, hdir, -⟩ := logFrom_same (v := v) (code := code) (src := source) (p := p) (s := s)
  exact hdir

theorem noteBadShadows_scrubsAs : s.ScrubsAs (noteBadShadows s) := by
  refine .foldl fun u b => .foldl fun u _ => ⟨?_, ?_⟩
  · unfold allCells
    rw [logFrom_dir]
    exact allCells_markRebuilding
  · rw [counterAt_logFrom (by decide), counterAt_bump_other (by decide)]
    rfl

theorem foldl_ctr {α : Type} {f : State → α → State} {xs : List α} (h : ∀ u y, (f u y).ctr = u.ctr) : (xs.foldl f s).ctr = s.ctr := by
  induction xs generalizing s with
  | nil => rfl
  | cons y r ih => exact (ih (s := f s y)).trans (h s y)

theorem applyDirUpsets_ctr {x : Upsets} : (applyDirUpsets x s).ctr = s.ctr := by
  unfold applyDirUpsets
  exact (foldl_ctr fun _ _ => by rfl).trans (foldl_ctr fun _ _ => by rfl)

/-- Whether the scrub rewrites a cell. -/
def scrubs (c : Nat × DirCell) : Bool := decide (c.2.cam ≠ c.2.shadow) && !c.2.shadowBad

/-- What the scrub leaves in a cell. -/
def scrubbed (c : Nat × DirCell) : Nat × DirCell := if scrubs c then (c.1, c.2.write c.2.shadow) else c

/-- A cell that is neither stuck nor of an unreadable shadow holds its shadow once it is scrubbed. -/
theorem scrubbed_cam {c : Nat × DirCell} (hs : (scrubbed c).2.stuck = none) (hb : (scrubbed c).2.shadowBad = false) :
    (scrubbed c).2.cam = (scrubbed c).2.shadow := by
  unfold scrubbed at hs hb ⊢
  split at hs
  · next hc =>
    rw [if_pos hc]
    have hk : c.2.stuck = none := hs
    simp [DirCell.write, hk]
  · next hc =>
    rw [if_neg hc] at hb ⊢
    by_contra hne
    exact hc (by simp [scrubs, hne, hb])

/-- The state that the scrub leaves, from one whose upsets are noted. -/
def scrubCells (s : State) : State :=
  { s with dir := { s.dir with banks := s.dir.banks.map (fun b => (b.1, { b.2 with cells := b.2.cells.map scrubbed })) } }

theorem scrubCells_cam {p : Nat × DirBank} {c : Nat × DirCell} (hp : p ∈ (scrubCells s).dir.banks) (hc : c ∈ p.2.cells)
    (hs : c.2.stuck = none) (hb : c.2.shadowBad = false) : c.2.cam = c.2.shadow := by
  obtain ⟨q, -, rfl⟩ := List.mem_map.mp hp
  obtain ⟨d, -, rfl⟩ := List.mem_map.mp hc
  exact scrubbed_cam hs hb

/-- How many cells the scrub rewrites. -/
theorem scrubs_count : (s.dir.banks.flatMap (fun b => b.2.cells.filter scrubs)).length = ((allCells s).filter scrubs).length := by
  rw [allCells, List.filter_flatMap]

theorem execDirScrub_live {x : Upsets} (hl : live s = true) : execDirScrub x s
    = .next (bumpBy .dirScrubFixes ((allCells (noteBadShadows (applyDirUpsets x s))).filter scrubs).length
      (scrubCells (noteBadShadows (applyDirUpsets x s)))) := by
  rw [execDirScrub, onNode_live hl, ← scrubs_count]
  rfl

theorem execDirScrub_scrubs {x : Upsets} (hl : live s = true) : ∃ t, execDirScrub x s = .next t
    ∧ (∀ b ∈ t.dir.banks, ∀ c ∈ b.2.cells, c.2.stuck = none → c.2.shadowBad = false → c.2.cam = c.2.shadow)
    ∧ t.mem = s.mem ∧ t.spans = s.spans ∧ t.frames = s.frames
    ∧ counterAt t .dirScrubFixes 0 = min (2 ^ 64 - 1) (counterAt s .dirScrubFixes 0
        + ((applyDirUpsets x s).dir.banks.flatMap (fun b => b.2.cells.filter scrubs)).length) := by
  obtain ⟨hcells, hcount⟩ : (applyDirUpsets x s).ScrubsAs (noteBadShadows (applyDirUpsets x s)) := noteBadShadows_scrubsAs
  obtain ⟨-, hmem, hframes, hspans, -⟩ : s.Spares (noteBadShadows (applyDirUpsets x s)) :=
    noteBadShadows_spares.after applyDirUpsets_spares
  refine ⟨_, execDirScrub_live hl, fun p hp c hc => scrubCells_cam hp hc, hmem, hspans, hframes, ?_⟩
  have hn : counterAt (scrubCells (noteBadShadows (applyDirUpsets x s))) .dirScrubFixes 0 = counterAt s .dirScrubFixes 0 :=
    hcount.trans (by unfold counterAt; rw [applyDirUpsets_ctr])
  rw [bumpBy, counterAt_bumpAt_self, hn, hcells, scrubs_count]

/-! ## Updates, rebuilds, holes, tombstones and waits (R79, R82–R86, R89) -/

variable {bank : BitVec 4}

theorem execDirUpdateEnd_updating (hl : live s = true) (hu : (bankAt s bank.toNat).current.isSome = true) :
    execDirUpdateEnd bank s = .next (bankChanged bank.toNat (endUpdate bank.toNat s)) := by
  have hn : (bankAt s bank.toNat).current.isNone = false := by rw [← Option.not_isSome, hu]; rfl
  rw [execDirUpdateEnd, onNode_live hl, hn]
  rfl

theorem execDirBankRebuildEnd_rebuilding (hl : live s = true) (hr : (bankAt s bank.toNat).rebuilding = true) :
    execDirBankRebuildEnd bank s = .next (bankChanged bank.toNat (rebuildBank bank.toNat s)) := by
  rw [execDirBankRebuildEnd, onNode_live hl, hr]
  rfl

section
variable {src dst : BitVec 12} (hl : live s = true) (hc : (bankAt s bank.toNat).current = none)
  (ha : src.toNat + 1 = dst.toNat ∨ dst.toNat + 1 = src.toNat) (hv : ((bankAt s bank.toNat).cell src.toNat).shadow.valid = true)
  (hh : (bankAt s bank.toNat).hole dst.toNat = true)

include hl hc ha hv hh in
theorem execDirHoleRestore_restores (hr : (bankAt s bank.toNat).restores s.knobs.holeInterval = true) :
    execDirHoleRestore bank src dst s = .next (updBank bank.toNat (fun k =>
        (k.put dst.toNat ((bankAt s bank.toNat).cell src.toNat).shadow).put src.toNat DirEntry.empty)
          (updBank bank.toNat (fun k => { k with restoring := true }) s)) := by
  have hd : (decide (src.toNat + 1 = dst.toNat) || decide (dst.toNat + 1 = src.toNat)) = true := by simpa using ha
  rw [execDirHoleRestore, onNode_live hl]
  simp only [hc, hv, hh, hr, hd, Option.isNone_none, Bool.and_self, if_true]

include hl in
theorem execDirHoleRestore_stays (hr : (bankAt s bank.toNat).restores s.knobs.holeInterval = false) :
    execDirHoleRestore bank src dst s = .next (updBank bank.toNat (fun k => { k with restoring := false }) s) := by
  rw [execDirHoleRestore, onNode_live hl]
  simp only [hr, Bool.and_false, Bool.false_eq_true, if_false]

end

theorem execTombstoneExpiry_tombstone {addr : BitVec 12} (hl : live s = true)
    (hv : ((bankAt s bank.toNat).cell addr.toNat).shadow.valid = true) (hf : ((bankAt s bank.toNat).cell addr.toNat).shadow.form = 3) :
    execTombstoneExpiry bank addr s = .next (deleteEntry ((bankAt s bank.toNat).cell addr.toNat).shadow s) := by
  rw [execTombstoneExpiry, onNode_live hl]
  exact congrArg _ (if_pos ⟨hv, hf⟩)

theorem execDirWaitExpiry_command {job : Nat} {d : Deferred} {x y : Nat} (hl : live s = true)
    (hd : s.deferred.find? (fun d => decide (d.id = job)) = some d) (hw : d.why = .bank x y) : execDirWaitExpiry job s
      = .next (wake (if pairBusy s (x, y) then endHeld d stMissTransient (undefer job s) else goOn d s)) := by
  rw [execDirWaitExpiry, onNode_live hl]
  simp only [hd, hw]

theorem execDirWaitExpiry_query {job : Nat} {q : HeldQuery} (hl : live s = true)
    (hd : s.deferred.find? (fun d => decide (d.id = job)) = none) (hq : s.attn.held.at? job = some q) : execDirWaitExpiry job s
      = .next (wake (if pairBusy s (q.b0, q.b1) then endQuery job q stMissTransient s else resumeQuery job q s)) := by
  rw [execDirWaitExpiry, onNode_live hl]
  simp only [hd, hq]

end

theorem dirCommandsComplete : Parts.DirCommandsComplete := by
  refine ⟨?read, ?hit, ?miss, ?clear⟩
  case read => exact fun c bank first count s b w hs h1 h2 hr => execDirRead_serves hs h1 h2 hr
  case hit => exact fun c handle span kind u s b w t k a e hs hh h1 h2 hr hfound => execDirProbe_hit hs hh h1 h2 hr hfound
  case miss =>
    exact fun c handle span kind u s b w t hs hh h1 h2 =>
      ⟨fun hfound => (execDirProbe_serves hs hh h1 h2 hfound).trans (congrArg _ finish_st),
        fun hfound => (execDirProbe_serves hs hh h1 h2 hfound).trans (congrArg _ finish_st)⟩
  case clear => exact fun c s b w hs => execDirClear_serves hs

theorem dirEventsComplete : Parts.DirEventsComplete := by
  refine ⟨?update, ?rebuild, ?scrub, ?hole, ?tombstone, ?command, ?query⟩
  case update => exact fun bank s hl hu => execDirUpdateEnd_updating hl hu
  case rebuild => exact fun bank s hl hr => execDirBankRebuildEnd_rebuilding hl hr
  case scrub => exact fun u s hl => execDirScrub_scrubs hl
  case hole =>
    exact fun bank src dst s hl hc ha hv hh =>
      ⟨fun hr => execDirHoleRestore_restores hl hc ha hv hh hr, fun hr => execDirHoleRestore_stays hl hr⟩
  case tombstone => exact fun bank addr s hl hv hf => execTombstoneExpiry_tombstone hl hv hf
  case command =>
    exact fun job s d x y hl hd hw =>
      ⟨fun hb => (execDirWaitExpiry_command hl hd hw).trans (by rw [if_pos hb]),
        fun hb => (execDirWaitExpiry_command hl hd hw).trans (by rw [hb]; rfl)⟩
  case query =>
    exact fun job s q hl hd hq =>
      ⟨fun hb => (execDirWaitExpiry_query hl hd hq).trans (by rw [if_pos hb]),
        fun hb => (execDirWaitExpiry_query hl hd hq).trans (by rw [hb]; rfl)⟩

/-- Settles O1, each row by its equation above; the scrub by what it leaves in a cell. -/
theorem directoryRowsComplete : Obligations.DirectoryRowsComplete := ⟨dirCommandsComplete, dirEventsComplete⟩

end Sys2Proof.Machine

/-! # The host interface: rings, admission, the aperture, fences and the log: O31, O32, O33 -/

namespace Sys2Proof.Machine

section
variable {s b w t : State} {c : Cmd} {ring : BitVec 9} {value : BitVec 32}

/-! ## Rings (R467–R473) -/

/-- Both admin rings are created, that of results first. -/
theorem execAdminEnable_both {value : BitVec 64} {p0 p1 : RingBlk} (hl : live s = true) (hf : s.pw.fwState = 2)
    (hv : value.getLsbD 0 = true) (h1 : s.host.adminBlocks.at? 1 = some p1) (ok1 : adminOk s 1 = true) (res1 : resultRingOk s p1 = true)
    (h0 : s.host.adminBlocks.at? 0 = some p0) (ok0 : adminOk (createRing p1 s) 0 = true) (res0 : resultRingOk (createRing p1 s) p0 = true) :
    execAdminEnable value s = .next (createRing p0 (createRing p1 s)) := by
  have h0' : (createRing p1 s).host.adminBlocks.at? 0 = some p0 := h0
  rw [execAdminEnable, onNode_live hl]
  simp only [hf, hv, h1, ok1, res1, h0', ok0, res0, ne_eq, not_true_eq_false, Bool.not_true, Bool.false_eq_true, or_self, if_false,
    and_self, if_true]

theorem execNodeRingCreate_serves {p : RingBlk} (hs : Serves c 64 s b w) (hf : fieldsPass (ringBlkFails p) = true)
    (hi : 2 ≤ p.ringId.toNat) (hd : (ringAt w p.ringId).state = .disabled) (hr : resultRingOk w p = true) :
    execNodeRingCreate c p s = .next (complete c (Reply.st stOk) (createRing p w)) := by
  have hf' : fieldsPass ((ringBlkFails p).map (fun f => (f.1, 64 + f.2))) = true := by
    rw [fieldsPass, List.all_map]
    exact hf
  rw [execNodeRingCreate, runVerb_pass hs hf']
  simp only [Nat.not_lt.mpr hi, hd, hr, ne_eq, not_true_eq_false, Bool.not_true, Bool.false_eq_true, or_self, if_false, finish_st]

theorem execNodeRingDestroy_submit (hs : Serves c 8 s b w) (hi : 2 ≤ ring.toNat) (hd : (ringAt w ring).state ≠ .disabled)
    (hr : (ringAt w ring).isResult = false) : execNodeRingDestroy c ring s = .next (settle (updRing ring (fun x =>
      { x with fetched := [], headWaiting := false, destroying := some c }) w)) := by
  rw [execNodeRingDestroy, runVerb_pass hs rfl]
  simp only [Nat.not_lt.mpr hi, hd, hr, Bool.false_eq_true, false_and, if_false, finish_later]

/-! ## Doorbells (R471–R473) -/

section
variable {f : SlotFetch} (hl : live s = true) (ha : (ringAt s ring).state = .active) (hv : value ≠ (ringAt s ring).host)
  (hn : (value - (ringAt s ring).host).toNat ≤ (ringAt s ring).size)
include hl ha hv hn

/-- The doorbell of a ring of commands fetches the packets. -/
theorem execRingDoorbell_submit (hr : (ringAt s ring).isResult = false) (hd : (ringAt s ring).destroying = none) (hf : f.failed = false) :
    execRingDoorbell ring value f s = .next (
      let t := fetchPackets ring f.packets (updRing ring (fun x => { x with host := value }) (notify (BitVec.ofNat 4 (ring.toNat % 8)) 0 s))
      emit (.shadow ring (ringAt s ring).shadow (ringAt t ring).node) t) := by
  have hactive : ¬ (RingState.active = .disabled) := fun e => RingState.noConfusion e
  rw [execRingDoorbell, onNode_live hl]
  simp only [ha, hv, hr, hd, hf, hactive, Nat.not_lt.mpr hn, if_false, Bool.false_eq_true, ne_eq, not_true_eq_false, Option.isSome_none,
    or_self]

/-- The doorbell of a ring of results releases the records consumed. -/
theorem execRingDoorbell_result (hr : (ringAt s ring).isResult = true) :
    execRingDoorbell ring value f s = .next (updRing ring (fun x => { x with records := x.records.filter (fun r => !(consumed r.index value)) })
      (updRing ring (fun x => { x with host := value }) (notify (BitVec.ofNat 4 (ring.toNat % 8)) 0 s))) := by
  have hactive : ¬ (RingState.active = .disabled) := fun e => RingState.noConfusion e
  rw [execRingDoorbell, onNode_live hl]
  simp only [ha, hv, hr, hactive, Nat.not_lt.mpr hn, if_false, if_true]

end

/-! ## Coalesced records and tags (R476, R478) -/

theorem execCoalesceExpiry_owed (hl : live s = true) (hr : (ringAt s ring).isResult = true) (hu : 0 < (ringAt s ring).unsignalled) :
    execCoalesceExpiry ring s = .next (raise (ringAt s ring).msix (updRing ring (fun x => { x with unsignalled := 0 }) s)) := by
  rw [execCoalesceExpiry, onNode_live hl]
  exact congrArg _ (if_pos ⟨hr, hu⟩)

theorem execPeekTag_submit {tag : BitVec 32} (hl : live s = true) (hr : (ringAt s ring).isResult = false) :
    execPeekTag ring tag s = .next (
      let t := updRing ring (fun x => { x with peekTag := tag }) s
      emit (.peekReply ring (peekReplyOf t ring tag)) t) := by
  rw [execPeekTag, onNode_live hl]
  simp only [hr, Bool.false_eq_true, if_false]

end

/-- Settles O31, each row by its equation above. -/
theorem ringCommandsComplete : Obligations.RingCommandsComplete := by
  refine ⟨?admin, ?create, ?destroy, ?submit, ?result, ?coalesce, ?peek⟩
  case admin => exact fun _ _ _ _ hl hf hv h1 ok1 res1 h0 ok0 res0 => execAdminEnable_both hl hf hv h1 ok1 res1 h0 ok0 res0
  case create => exact fun _ _ _ _ _ hs hf hi hd hr => execNodeRingCreate_serves hs hf hi hd hr
  case destroy => exact fun _ _ _ _ _ hs hi hd hr => execNodeRingDestroy_submit hs hi hd hr
  case submit => exact fun _ _ _ _ hl ha hr hd hv hn hf => execRingDoorbell_submit hl ha hv hn hr hd hf
  case result => exact fun _ _ _ _ hl ha hr hv hn => execRingDoorbell_result hl ha hv hn hr
  case coalesce => exact fun _ _ hl hr hu => execCoalesceExpiry_owed hl hr hu
  case peek => exact fun _ _ _ hl hr => execPeekTag_submit hl hr

section
variable {s : State} {ring : BitVec 9} {h : CmdHeader} {rest : List CmdHeader} {pf : Option (BitVec 64)}

/-! ## Admission from a ring (R442, R473, R474, R505) -/

section
variable (hl : live s = true) (hh : (ringAt s ring).fetched = h :: rest) (hr : (ringAt s ring).isResult = false)
  (hw : (ringAt s ring).headWaiting = false) (hf : fenceOpen s ring = false)
  (hu : unreserved (ringAt s (ringAt s ring).resultRing) ≠ 0) (hn : (ringAt s ring).headReady = false) (ht : tagBusy s ring h.tag = false)
include hl hh hr hw hf hu hn ht

theorem execCommandAdmit_passes (hc : headerCheck s ⟨.host ring, h, 0⟩ = none) (hv : headerWaitHolds s h = true) :
    execCommandAdmit ring pf s = .next (admitFetched ring ⟨.host ring, h, 0⟩ (if h.paramRef then pf else none)
      (if h.waitValid then passWait h.waitObj s else s)) := by
  rw [execCommandAdmit, onNode_live hl]
  simp only [hh, hr, hw, hf, hu, hn, ht, hc, hv, Bool.false_eq_true, or_self, if_false, if_true]

theorem execCommandAdmit_refused {r : Reply} (hc : headerCheck s ⟨.host ring, h, 0⟩ = some r)
    (hd : hostDataRefusal s ⟨.host ring, h, 0⟩ r = false) : execCommandAdmit ring pf s = .next (settle (refuseNew ⟨.host ring, h, 0⟩ r
      (countRefusal (vnodeOf s ⟨.host ring, h, 0⟩) r (popFetched ring s)))) := by
  rw [execCommandAdmit, onNode_live hl]
  simp only [hh, hr, hw, hf, hu, hn, ht, hc, hd, Bool.false_eq_true, or_self, if_false]

end

/-! ## Admission from a message (R342, R375, R440, R443–R445) -/

section
variable {m : Msg} {p : Fetched} (hl : live s = true) (ha : admits s m opCommand (fun b => decide (b.take 64 = p.bytes)) = true)
  (hp : hasPeer (takeMsg m s) m.vnode m.sender = true)
include hl ha hp

section
variable (he : (readCmd p).mapEpoch = m.mapEpoch)
include he

/-- The only command of its queue pair is met at once. -/
theorem execCommand_first (hq : (takeMsg m s).host.qpHeld.atD m.qpn [] = []) :
    execCommand m p s = .next (settle (admitHeld m.qpn 1 false (msgKnobs s m)
      (let t := takeMsg m s
       { t with host := { t.host with qpHeld := t.host.qpHeld.put m.qpn [(m, readCmd p)] } }))) := by
  rw [execCommand, onMsg_admits hl ha]
  simp only [hp, he, hq, Bool.not_true, Bool.false_eq_true, if_false, ne_eq, not_true_eq_false, List.isEmpty_nil, if_true, List.nil_append]

/-- One behind others waits for them. -/
theorem execCommand_behind {x : Msg × CmdHeader} {xs : List (Msg × CmdHeader)} (hq : (takeMsg m s).host.qpHeld.atD m.qpn [] = x :: xs) :
    execCommand m p s = .next (
      let t := takeMsg m s
      { t with host := { t.host with qpHeld := t.host.qpHeld.put m.qpn (x :: xs ++ [(m, readCmd p)]) } }) := by
  rw [execCommand, onMsg_admits hl ha]
  simp only [hp, he, hq, Bool.not_true, Bool.false_eq_true, if_false, ne_eq, not_true_eq_false, List.isEmpty_cons]

end

/-- One whose map epoch is not its message's is refused. -/
theorem execCommand_epoch (he : (readCmd p).mapEpoch ≠ m.mapEpoch) : execCommand m p s = .next (settle (
      if fenceRefusal (takeMsg m s) ⟨.fabric m.qpn m.sender m.addr m.key, readCmd p, 0⟩
      then refuseNew ⟨.fabric m.qpn m.sender m.addr m.key, readCmd p, 0⟩ (Reply.st stFenced) (bumpV .fencedAnswers m.vnode (takeMsg m s))
      else refuseNew ⟨.fabric m.qpn m.sender m.addr m.key, readCmd p, 0⟩ (Reply.bad 10) (takeMsg m s))) := by
  rw [execCommand, onMsg_admits hl ha]
  simp only [hp, he, Bool.not_true, Bool.false_eq_true, if_false, ne_eq, not_false_eq_true, if_true]
  rw [apply_ite settle]

end

end

/-- Settles O32, each row by its equation above. -/
theorem admissionCompletes : Obligations.AdmissionCompletes := by
  refine ⟨?passes, ?refused, ?message, ?flr⟩
  case passes => exact fun _ _ _ _ _ hl hh hr hw hf hu hn ht hc hv => execCommandAdmit_passes hl hh hr hw hf hu hn ht hc hv
  case refused => exact fun _ _ _ _ _ _ hl hh hr hw hf hu hn ht hc hd => execCommandAdmit_refused hl hh hr hw hf hu hn ht hc hd
  case message =>
    exact fun _ _ _ hl ha hp => ⟨fun he hq => execCommand_first hl ha hp he hq, fun _ _ he hq => execCommand_behind hl ha hp he hq,
      fun he => execCommand_epoch hl ha hp he⟩
  case flr => exact fun _ hl => onNode_live hl

section
variable {s b w : State} {c : Cmd}

/-! ## The aperture (R68, R295, R437, R438) -/

section
variable {offset : BitVec 28} {u : Upsets} (hl : live s = true)
include hl

/-- A read through the aperture, outside a sealed tenancy, by what the link and the codewords give. -/
theorem execApertureRead_unsealed {len : BitVec 13} (ht : s.mgmt.tenancy ≠ 2) : execApertureRead offset len u s = .next (
    let a := apertureAddr s offset
    let n := windowLen offset len.toNat
    let k := meetLink u a (applyUpsets u s)
    let r := readRange .normal a n k.2
    if k.1 && r.1 then emit (.aperture (.data (apertureBytes r.2 a n))) { r.2 with tick := r.2.tick + 1 }
    else emit (.aperture .completerAbort) r.2) := by
  rw [execApertureRead, onNode_live hl]
  exact congrArg _ (if_neg ht)

variable {bytes : List Byte}

theorem execApertureWrite_allowed (ht : s.mgmt.tenancy ≠ 2) (hd : s.mgmt.debugLockOpen = true)
    (hb : isReadOnly s (apertureAddr s offset) (bytes.take (windowLen offset bytes.length)).length = false
      ∨ hbmRead s (apertureAddr s offset) (bytes.take (windowLen offset bytes.length)).length = bytes.take (windowLen offset bytes.length)) :
    execApertureWrite offset bytes u s
      = .next (wake (normalWrite (apertureAddr s offset) (bytes.take (windowLen offset bytes.length)) u s)) := by
  refine waking_of hl ?_
  rw [apertureWriteRow, onNode_live hl]
  rcases hb with hb | hb
  · simp [ht, hd, hb, -List.length_take]
  · simp [ht, hd, hb, -List.length_take]

theorem execApertureWrite_denied (h : s.mgmt.tenancy = 2 ∨ s.mgmt.debugLockOpen = false
      ∨ (isReadOnly s (apertureAddr s offset) (bytes.take (windowLen offset bytes.length)).length = true
        ∧ hbmRead s (apertureAddr s offset) (bytes.take (windowLen offset bytes.length)).length ≠ bytes.take (windowLen offset bytes.length))) :
    execApertureWrite offset bytes u s = .next (wake (denyAperture offset s)) := by
  refine waking_of hl ?_
  rw [apertureWriteRow, onNode_live hl]
  rcases h with h | h | ⟨h, k⟩
  · simp [h]
  · simp [h]
  · simp [h, k, -List.length_take]

end

/-! ## ORDER.FENCE (R482, R483) -/

theorem execOrderFence_serves {scopeNode mirror logMark : Bool} (hs : Serves c 8 s b w) : execOrderFence c scopeNode mirror logMark s
    = .next (settle (addJob (.fence c w.work.serial scopeNode mirror logMark) w).2) := by
  rw [execOrderFence, runVerb_pass hs rfl, finish_later]

/-- A fence that awaits its twin alone ends at its time limit. -/
theorem execOrderFenceTimeout_twin {job serial : Nat} {sc lm : Bool} (hl : live s = true)
    (hj : s.jobs.at? job = some (.fence c serial sc true lm)) (h1 : fenceReady s c serial sc false = true)
    (h2 : fenceReady s c serial sc true = false) :
    execOrderFenceTimeout job s = .next (complete c (Reply.st stTimeout) (endJob job s)) := by
  rw [execOrderFenceTimeout, onNode_live hl]
  simp only [hj, h1, h2, Bool.not_false, and_self, if_true]

/-! ## LOG.READ and LOG.COUNTERS (R489, R490) -/

theorem execLogRead_serves {fromSeq : BitVec 64} {n : BitVec 13} (hs : Serves c 16 s b w) (h1 : 1 ≤ n.toNat) (h2 : n.toNat ≤ 4096) :
    execLogRead c fromSeq n s = .next (finish c b (
      let rs := takeFitting (resultRoom w c) (((w.log.events.filter (fun e => decide (fromSeq.toNat ≤ e.seq))).take n.toNat).map eventBytes)
      .now (Reply.ofResult rs.length rs.flatten) w)) := by
  have hf : fieldsPass [(decide (n.toNat < 1) || decide (4096 < n.toNat), 72)] = true := by
    simp [fieldsPass, h2]
    omega
  rw [execLogRead, runVerb_pass hs hf]

/-- The counters that LOG.COUNTERS asks for. -/
def countersAsked (s : State) (group first count : BitVec 8) : List Shown := ((groupTable s group.toNat).drop first.toNat).take count.toNat

theorem execLogCounters_serves {group index first count : BitVec 8} (hs : Serves c 8 s b w) (hg : groupTable w group.toNat ≠ [])
    (h1 : 1 ≤ count.toNat) (h2 : count.toNat ≤ 64) (h3 : first.toNat + count.toNat ≤ (groupTable w group.toNat).length)
    (hi : ∀ p ∈ countersAsked w group first count, p.indexOk w index.toNat = true) (hr : 8 * count.toNat ≤ resultRoom b c) :
    execLogCounters c group index first count s = .next (complete c (Reply.ofResult count.toNat
      (words64 ((countersAsked w group first count).map (fun p => p.value w index.toNat)))) w) := by
  have ⟨_, _, hrsv, hlen⟩ := hs
  have hbad : (countersAsked w group first count).any (fun p => !(p.indexOk w index.toNat)) = false := by
    simp only [List.any_eq_false, Bool.not_eq_true', Bool.not_eq_false]
    exact hi
  have hempty : (groupTable w group.toNat).isEmpty = false := List.isEmpty_eq_false_iff.mpr hg
  have hf : fieldsPass [((groupTable w group.toNat).isEmpty, 71), ((countersAsked w group first count).any (fun p => !(p.indexOk w index.toNat)), 70),
      (!(groupTable w group.toNat).isEmpty && decide ((groupTable w group.toNat).length ≤ first.toNat), 69),
      (decide (count.toNat < 1) || decide (64 < count.toNat), 68),
      (decide (first.toNat < (groupTable w group.toNat).length)
        && decide ((groupTable w group.toNat).length < first.toNat + count.toNat), noField)] = true := by
    simp [fieldsPass, hempty, hbad, h2, h3]
    omega
  have hcount : (words64 ((countersAsked w group first count).map (fun p => p.value w index.toNat))).length = 8 * count.toNat := by
    rw [words64_length, List.length_map, countersAsked, List.length_take, List.length_drop]
    omega
  rw [execLogCounters, runVerb_serves hs]
  refine congrArg _ ((congrArg _ (withParams_pass hrsv hlen hf)).trans (finish_now (hcount.trans_le hr)))

end

/-- Settles O33, each row by its equation above. -/
theorem apertureFenceAndLogComplete : Obligations.ApertureFenceAndLogComplete := by
  refine ⟨?read, ?write, ?fence, ?timeout, ?log, ?counters⟩
  case read =>
    intro offset len u s hl ht
    refine ⟨fun hk hr => (execApertureRead_unsealed hl ht).trans ?_, fun h => (execApertureRead_unsealed hl ht).trans ?_⟩
    · dsimp only
      rw [hk, hr]
      rfl
    · dsimp only
      rcases h with h | h
      · rw [h]
        rfl
      · rw [h, Bool.and_false]
        rfl
  case write =>
    exact fun offset bytes u s hl => ⟨fun ht hd hb => execApertureWrite_allowed hl ht hd hb, fun h => execApertureWrite_denied hl h⟩
  case fence => exact fun c scopeNode mirror logMark s b w hs => execOrderFence_serves hs
  case timeout => exact fun job s c serial sc lm hl hj h1 h2 => execOrderFenceTimeout_twin hl hj h1 h2
  case log => exact fun c fromSeq n s b w hs h1 h2 => execLogRead_serves hs h1 h2
  case counters =>
    exact fun c group index first count s b w hs hg h1 h2 h3 hi hr => execLogCounters_serves hs hg h1 h2 h3 hi hr

end Sys2Proof.Machine

/-! # The synchronisation unit's commands, registers, barriers and signals: O34, O35 -/

namespace Sys2Proof.Machine

section
variable {s b w : State} {c : Cmd} {index : BitVec 14}

/-! ## Commands on objects (R496, R497, R502, R521–R523, R526) -/

theorem execSyncCreate_serves {p : SyncCreateBlk} (hs : Serves c 32 s b w) (hm : badVector p.msix = false) (hk : p.kind.toNat ≤ 1)
    (hi : p.kind = 1 → p.initial.toNat ≤ 1) : execSyncCreate c p s = .next (finish c b (createObj c p.index
      (freshObj (if p.kind = 0 then .counter else .event) p.msix.toNat p.initial.toNat none) w)) := by
  have hf : fieldsPass [(badVector p.msix, 64 + 4), (decide (2 ≤ p.kind.toNat), 64 + 6),
      (decide (p.kind = 1) && decide (2 ≤ p.initial.toNat), 72)] = true := by
    have hevent : ¬ (p.kind = 1 ∧ 2 ≤ p.initial.toNat) := fun ⟨h, k⟩ => by have := hi h; omega
    have hkind : ¬ 2 ≤ p.kind.toNat := by omega
    simp only [fieldsPass, List.all_cons, List.all_nil, hm, hkind, ← Bool.decide_and, hevent]
    rfl
  rw [execSyncCreate, runVerb_pass hs hf]

theorem execSyncDestroy_serves {force : Bool} (hs : Serves c 8 s b w) :
    execSyncDestroy c index force s = .next (finish c b (destroyObj c false index force w)) := runVerb_pass hs rfl

theorem execBarrierDestroy_serves {force : Bool} (hs : Serves c 8 s b w) :
    execBarrierDestroy c index force s = .next (finish c b (destroyObj c true index force w)) := runVerb_pass hs rfl

theorem execSyncSignal_serves (hs : Serves c 0 s b w) (hv : c.hdr.signalValid = true) : execSyncSignal c s
    = .next (complete c (Reply.st stOk) (signalOrDrop c.hdr.signalObj c.hdr.signalValue.toNat (whoOf w c) w)) := by
  rw [execSyncSignal, runVerb_pass hs rfl]
  simp only [hv, Bool.not_true, Bool.false_eq_true, if_false, finish_st]

/-- The wait of SYNC.WAIT is its header's, so that the command completes at its admission. -/
theorem execSyncWait_serves (hs : Serves c 0 s b w) (hv : c.hdr.waitValid = true) :
    execSyncWait c s = .next (complete c (Reply.st stOk) w) := by
  rw [execSyncWait, runVerb_pass hs rfl]
  simp only [hv, Bool.not_true, Bool.false_eq_true, if_false, finish_st]

/-- The objects that SYNC.READ asks for. -/
def objectsAsked (first : BitVec 14) (count : BitVec 15) : List (BitVec 14) :=
  (List.range count.toNat).map (fun k => BitVec.ofNat 14 (first.toNat + k))

theorem execSyncRead_serves {first : BitVec 14} {count : BitVec 15} (hs : Serves c 8 s b w) (h1 : 1 ≤ count.toNat)
    (h2 : first.toNat + count.toNat ≤ 16384) : execSyncRead c first count s = .next (finish c b (
      if (objectsAsked first count).any (foreignObj w c) then .refuse stDenied w
      else .now (Reply.ofResult count.toNat ((objectsAsked first count).flatMap (objRecord w))) w)) := by
  have hf : fieldsPass [(decide (count.toNat < 1) || decide (16384 < count.toNat), 64 + 4),
      (decide (16384 < first.toNat + count.toNat), noField)] = true := by
    simp [fieldsPass, h2]
    omega
  rw [execSyncRead, runVerb_pass hs hf]
  rfl

/-- What SYNC.DUMP answers. -/
def dumpReply (s : State) : Reply := Reply.ofResult (16384 + s.sync.waiters.length)
  ((List.range 16384).flatMap (fun k => objRecord s (BitVec.ofNat 14 k)) ++ (waitersByIndex s).flatMap waiterRecord)

/-- What FREEZE does: every deadline moves, which is counted and logged. -/
def frozen (ns : Nat) (s : State) : State :=
  logFrom 0 0x0B07 srcSync [(64, ns / 1000)] (bump .syncFreezes { s with sync := { s.sync with
    waiters := s.sync.waiters.map (fun x => { x with deadline := x.deadline + ns }) } })

section
variable {freezeNs : BitVec 32} (hs : Serves c 8 s b w)
include hs

theorem execSyncDump_serves {freeze : Bool} (hd : freeze = true → debugOpenOf w c = true) : execSyncDump c freeze freezeNs s
    = .next (finish c b (.now (dumpReply w) (if freeze then frozen (min 300000 freezeNs.toNat) w else w))) := by
  have hn : ¬ (freeze = true ∧ (!debugOpenOf w c) = true) := fun ⟨h, k⟩ => by
    rw [hd h] at k
    exact Bool.noConfusion k
  rw [execSyncDump, runVerb_pass hs rfl, if_neg hn]
  rfl

theorem execSyncDump_denied (hd : debugOpenOf w c = false) :
    execSyncDump c true freezeNs s = .next (complete c (Reply.st stDenied) w) := by
  rw [execSyncDump, runVerb_pass hs rfl, if_pos ⟨rfl, by rw [hd]; rfl⟩]
  exact congrArg _ finish_st

end

theorem actionFields_pass {action : BitVec 2} (ha : action ≠ 3) : fieldsPass [(decide (action = 3), 64 + 6)] = true := by
  rw [decide_eq_false ha]
  rfl

section
variable {action : BitVec 2} {value : BitVec 64} (hs : Serves c 16 s b w) (ha : action ≠ 3)
include hs ha

theorem execSyncSet_open {o : SyncObj} (hd : debugOpenOf w c = true) (ho : objAt w index = some o) :
    execSyncSet c index action value s = .next (complete c (Reply.st stOk) (performSet index action.toNat value.toNat o w)) := by
  rw [execSyncSet, runVerb_pass hs (actionFields_pass ha)]
  simp only [hd, ho, Bool.not_true, Bool.false_eq_true, if_false, finish_st]

theorem execSyncSet_closed (hd : debugOpenOf w c = false) :
    execSyncSet c index action value s = .next (complete c (Reply.st stDenied) (bump .syncSetRefused w)) := by
  rw [execSyncSet, runVerb_pass hs (actionFields_pass ha)]
  simp only [hd, Bool.not_false, if_true, Done.refuse, finish_st]

end

/-! ## Debug registers (R524) -/

theorem execSyncSel_live (hl : live s = true) :
    execSyncSel index s = .next { s with sync := { s.sync with sel := index, snapshot := objRecord s index } } := onNode_live hl

/-- The read of SYNC_SET_STATUS returns REFUSED and clears it. -/
theorem execSyncSetStatus_live (hl : live s = true) : execSyncSetStatus s
    = .next (emit (.regRead (if s.sync.refused then 1 else 0)) { s with sync := { s.sync with refused := false } }) := onNode_live hl

/-! ## Barriers (R507, R510–R514) -/

theorem execBarrierCreate_serves {p : BarrierBlk} (hs : Serves c (32 + 8 * p.childCount.toNat) s b w) (hm : badVector p.msix = false)
    (hn : p.childCount.toNat ≤ 16) (hp : 0 < p.parties.toNat + p.childCount.toNat) (hr : p.root = true → noParent p = true)
    (hb : badNode p.parent.node = false) (hc : p.children.any (fun k => badNode k.node) = false) (he : anyEqual p.children = false) :
    execBarrierCreate c p s = .next (finish c b (createObj c p.index (freshObj .barrier p.msix.toNat 0
      (some ⟨p.parties.toNat, p.root, p.parent, p.children⟩)) w)) := by
  have hroot : (p.root && !noParent p) = false := by
    cases h : p.root with
    | false => rfl
    | true => rw [hr h]; rfl
  have hf : fieldsPass [(badVector p.msix, 64 + 2), (decide (16 < p.childCount.toNat), 64 + 3),
       (decide (p.parties.toNat + p.childCount.toNat = 0), 64 + 4), (p.root && !(noParent p), 72), (badNode p.parent.node, 78),
       (p.children.any (fun k => badNode k.node), 102 + 8 * (p.children.takeWhile (fun k => !(badNode k.node))).length),
       (anyEqual p.children, 96 + 8 * firstEqual [] p.children)] = true := by
    simp only [fieldsPass, List.all_cons, List.all_nil, hm, hroot, hb, hc, he, decide_eq_false (Nat.not_lt.mpr hn),
      decide_eq_false (Nat.ne_of_gt hp)]
    rfl
  rw [execBarrierCreate, runVerb_pass hs hf]

section
variable {sense : Bool} {o : SyncObj} {g : Nat} (hs : Serves c 8 s b w) (ho : objAt w index = some o)
  (hv : foreignObj w c index = false) (hk : o.kind = .barrier) (hf : o.failed = false) (hp : arrivalPhase o (b2n sense) = some g)
include hs ho hv hk hf hp

theorem execBarrierArrive_nowait :
    execBarrierArrive c index sense true 0 s = .next (complete c ⟨stOk, 0, none, 0, BitVec.ofNat 64 g, 0, []⟩
      (actBarrier 2 index (countArrival index (whoOf w c) w))) := by
  have hfields : fieldsPass [(if true then decide ((0 : BitVec 32).toNat ≠ 0)
      else decide ((0 : BitVec 32).toNat < 1) || decide (60000000 < (0 : BitVec 32).toNat), 64)] = true := rfl
  rw [execBarrierArrive, runVerb_pass hs hfields]
  simp only [ho, hv, hk, hf, hp, Bool.false_eq_true, ne_eq, not_true_eq_false, or_self, if_false, if_true]
  exact congrArg _ (finish_now (Nat.zero_le _))

theorem execBarrierArrive_waits {t : BitVec 32} (h1 : 1 ≤ t.toNat) (h2 : t.toNat ≤ 60000000) (hroom : w.sync.waiters.length < waiterRoom) :
    execBarrierArrive c index sense false t s = .next (
      let z := addWaiter index (whoOf w c) g t.toNat (.arrival c) w
      settle (actBarrier 2 index (countArrival index (whoOf z c) z))) := by
  have hfields : fieldsPass [(if false then decide (t.toNat ≠ 0) else decide (t.toNat < 1) || decide (60000000 < t.toNat), 64)] = true := by
    simp [fieldsPass, h2]
    omega
  rw [execBarrierArrive, runVerb_pass hs hfields]
  simp only [ho, hv, hk, hf, hp, Nat.not_le.mpr hroom, Bool.false_eq_true, ne_eq, not_true_eq_false, or_self, if_false, finish_later]

end

/-! ## The messages of a tree, and SIGNAL (R513–R517) -/

section
variable {m : Msg} {fromIndex : BitVec 14} {phase : BitVec 48} {o : SyncObj} (hl : live s = true)

section
variable (ho : objAt (takeMsg m s) index = some o) (hf : o.failed = false) (hv : o.vnode = m.vnode)
  (hn : isFenced (takeMsg m s) m.vnode m.sender = false) (hb : o.barrier.isSome = true)
include hl ho hf hv hn hb

theorem execTreeArrive_counts (ha : admits s m opSync (syncReads 2 index fromIndex phase.toNat 0 false) = true)
    (hc : (links o).children.any (overLink m fromIndex) = true) (hp : (arrivalPhase o (phase.toNat % 2)).isSome = true) :
    execTreeArrive m index fromIndex phase false s = .next (settle (actBarrier 2 index
      (countArrival index (identity 3 m.qpn.toNat m.sender.toNat fromIndex.toNat) (takeMsg m s)))) := by
  have hb' : o.barrier.isNone = false := by rw [← Option.not_isSome, hb]; rfl
  have hp' : (arrivalPhase o (phase.toNat % 2)).isNone = false := by rw [← Option.not_isSome, hp]; rfl
  rw [execTreeArrive, onMsg_admits hl ha]
  simp only [ho, hf, hv, hn, hb', hc, hp', Bool.false_eq_true, Bool.not_true, ne_eq, not_true_eq_false, or_self, if_false]
  rfl

theorem execTreeRelease_completes (ha : admits s m opSync (syncReads 3 index fromIndex phase.toNat 0 false) = true)
    (hr : (links o).root = false) (hc : overLink m fromIndex (links o).parent = true) (hp : o.pending = true) (he : phase.toNat = o.value) :
    execTreeRelease m index fromIndex phase false s = .next (settle (actBarrier 2 index (completePhase index o (takeMsg m s)))) := by
  have hb' : o.barrier.isNone = false := by rw [← Option.not_isSome, hb]; rfl
  rw [execTreeRelease, onMsg_admits hl ha]
  simp only [ho, hf, hv, hn, hb', hr, hc, hp, he, Bool.false_eq_true, Bool.not_true, ne_eq, not_true_eq_false, or_self, if_false]

end

theorem execSignal_acts {value : BitVec 64} {tag : BitVec 32} {rsv : Bool} (hl : live s = true)
    (ha : admits s m opSync (syncReads 1 index 0 value.toNat tag rsv) = true) (hp : hasPeer (takeMsg m s) m.vnode m.sender = true)
    (hn : signalMsgStatus (takeMsg m s) m index rsv = none) : execSignal m index value tag rsv s = .next (settle (
      let t := applySignal index value.toNat (identity 2 m.qpn.toNat m.sender.toNat tag.toNat) (takeMsg m s)
      if m.addr = 0 then t else sendReply m.vnode m.qpn m.sender m.addr m.key none (replyBytes t m.vnode tag opSyncSignal (Reply.st stOk)) t)) := by
  rw [execSignal, onMsg_admits hl ha]
  simp only [hp, hn, Bool.not_true, Bool.false_eq_true, if_false]

/-- What the record of a wait that expires says of its object. -/
def expiredValue (w : Waiter) (o : SyncObj) : List (Nat × Nat) :=
  match w.wf with
  | .arrival _ => [(64, o.value), (16, o.arrived), (16, o.nextArrived)]
  | _ => [(64, objValue o)]

theorem execWaitTimeout_expires {waiter : Nat} {x : Waiter} (hl : live s = true)
    (hx : s.sync.waiters.find? (fun w => w.id = waiter) = some x) (ho : objAt s x.index = some o) : execWaitTimeout waiter s
      = .next (settle (endWaiter x stTimeout (logFrom 0 0x0B01 srcSync
        ([(16, x.index.toNat), (8, o.kind.code), (64, x.who.toNat), (64, x.value)] ++ expiredValue x o)
        (bump .syncTimeouts (dropWaiter waiter s))))) := by
  rw [execWaitTimeout, onNode_live hl]
  simp only [hx, ho, Option.getD_some]
  rfl

end

end

theorem syncCommandsComplete : Parts.SyncCommandsComplete := by
  refine ⟨?create, ?destroy, ?signal, ?wait, ?read, ?dump, ?set⟩
  case create => exact fun c p s b w hs hm hk hi => execSyncCreate_serves hs hm hk hi
  case destroy => exact fun c index force s b w hs => ⟨execSyncDestroy_serves hs, execBarrierDestroy_serves hs⟩
  case signal => exact fun c s b w hs hv => execSyncSignal_serves hs hv
  case wait => exact fun c s b w hs hv => execSyncWait_serves hs hv
  case read => exact fun c first count s b w hs h1 h2 => execSyncRead_serves hs h1 h2
  case dump =>
    exact fun c freezeNs s b w hs => ⟨execSyncDump_serves hs (fun h => absurd h Bool.false_ne_true), fun hd => execSyncDump_denied hs hd,
      fun hd => execSyncDump_serves hs (fun _ => hd)⟩
  case set =>
    exact fun c index action value s b w hs ha => ⟨fun o hd ho => execSyncSet_open hs ha hd ho, fun hd => execSyncSet_closed hs ha hd⟩

theorem syncRegistersComplete : Parts.SyncRegistersComplete :=
  fun _ hl => ⟨fun _ => execSyncSel_live hl, fun _ => ⟨onNode_live hl, onNode_live hl, fun _ => onNode_live hl⟩, execSyncSetStatus_live hl⟩

/-- Settles O34, each row by its equation above. -/
theorem syncRowsComplete : Obligations.SyncRowsComplete := ⟨syncCommandsComplete, syncRegistersComplete⟩

/-- Settles O35, each row by its equation above. -/
theorem barriersComplete : Obligations.BarriersComplete := by
  refine ⟨?create, ?arrive, ?treeArrive, ?treeRelease, ?signal, ?timeout⟩
  case create => exact fun c p s b w hs hm hn hp hr hb hc he => execBarrierCreate_serves hs hm hn hp hr hb hc he
  case arrive =>
    exact fun c index sense s b w o g hs ho hv hk hf hp =>
      ⟨execBarrierArrive_nowait hs ho hv hk hf hp, fun t h1 h2 hroom => execBarrierArrive_waits hs ho hv hk hf hp h1 h2 hroom⟩
  case treeArrive =>
    exact fun m index fromIndex phase s o hl ha ho hf hv hn hb hc hp => execTreeArrive_counts hl ho hf hv hn hb ha hc hp
  case treeRelease =>
    exact fun m index fromIndex phase s o hl ha ho hf hv hn hb hr hc hp he => execTreeRelease_completes hl ho hf hv hn hb ha hr hc hp he
  case signal => exact fun m index value tag rsv s hl ha hp hn => execSignal_acts hl ha hp hn
  case timeout => exact fun waiter s w o hl hx ho => ⟨_, execWaitTimeout_expires hl hx ho, rfl⟩

end Sys2Proof.Machine

/-! # Management: the I3C target, sessions, operations, settings, tenancies, SPDM and IDE: O38, O39, O40, O41 -/

namespace Sys2Proof.Machine

section
variable {s : State}

/-! ## The I3C target (R531) -/

theorem execSetdasa_other {a dyn : BitVec 7} (hn : a ≠ 0x3A) : execSetdasa a dyn s = .next s := by
  rw [execSetdasa, if_neg (fun h => hn h.2)]

theorem execOperatorAnchor_locked {offset : BitVec 5} {bytes : List Byte} (hk : s.mgmt.anchorLock = true) :
    execOperatorAnchor offset bytes s = .next s := by
  rw [execOperatorAnchor, if_neg (fun h => by rw [hk] at h; exact Bool.noConfusion h.2)]

section
variable (ha : i3cAnswers s = true)
include ha

theorem execSetdasa_own {dyn : BitVec 7} : execSetdasa 0x3A dyn s = .next { s with mgmt := { s.mgmt with dynAddr := some dyn } } := by
  rw [execSetdasa, if_pos ⟨ha, rfl⟩]

theorem execOperatorAnchor_open {offset : BitVec 5} {bytes : List Byte} (hk : s.mgmt.anchorLock = false) : execOperatorAnchor offset bytes s
    = .next { s with mgmt := { s.mgmt with operatorAnchor := (putBytes s.mgmt.operatorAnchor offset.toNat bytes).take 32 } } := by
  rw [execOperatorAnchor, if_pos ⟨ha, by rw [hk]; rfl⟩]

theorem execAnchorLock_answers {value : BitVec 8} : execAnchorLock value s
    = .next (if value.getLsbD 0 then { s with mgmt := { s.mgmt with anchorLock := true } } else s) := by
  simp only [execAnchorLock, ha, true_and]

end

/-! ## Sessions (R533–R535) -/

section
variable {ek nonce : List Byte} {cred : Credential} {i : Nat} (hl : live s = true) (hm : s.pw.mgmtMode.toNat < 2)
  (hf : s.pw.fwState = fwRunning) (hk : s.mgmt.anchorLock = true) (hi : s.mgmt.identityOk = true) (hn : freeSession s = some i)
  (he : ek.length = 1184) (hc : nonce.length = 32)
include hl hm hf hk hi hn he hc

/-- A credential that is not good opens no session. -/
theorem execSessionInit_badCredential (hg : credOk s cred (ek ++ nonce) = false) :
    execSessionInit ek nonce cred s = .next (refuseSession s) := by
  rw [execSessionInit, onNode_live hl]
  simp only [Nat.not_le.mpr hm, hf, hk, hi, hn, he, hc, hg, ne_eq, not_true_eq_false, Bool.not_true, Bool.not_false, Bool.false_eq_true,
    or_self, or_true, if_false, if_true]

/-- A good one opens a session of the role that its root gives, where it gives one. -/
theorem execSessionInit_goodCredential (hg : credOk s cred (ek ++ nonce) = true) : execSessionInit ek nonce cred s
    = .next ((roleOf s cred).elim (refuseSession s) (fun role => openSession i role ek nonce cred s)) := by
  rw [execSessionInit, onNode_live hl]
  simp only [Nat.not_le.mpr hm, hf, hk, hi, hn, he, hc, hg, ne_eq, not_true_eq_false, Bool.not_true, Bool.false_eq_true,
    or_self, if_false]
  cases roleOf s cred with
  | none => rfl
  | some role => rfl

end

/-! ## Operations that read (R536, R543, R590) -/

variable {r : MgmtReq}

section
variable (hm : Managed r anyRole s)
include hm

theorem execGetStatus_managed : execGetStatus r s = .next (
    let t := countRecord r.session false s
    mgmtAnswer r stOk (words64 (modeWord t :: (List.range 17).map (slotWord t))) t) := onMgmt_managed hm

theorem execGetCerts_managed : execGetCerts r s
    = .next (mgmtAnswer r stOk (Config.deviceChain ++ padTo 128 Config.provenance) (countRecord r.session false s)) := onMgmt_managed hm

theorem execGetAttestation_managed {nonce : List Byte} (hn : nonce.length = 32) : execGetAttestation r nonce s = .next (
    let t := countRecord r.session false s
    mgmtAnswer r stOk (reportBody t nonce ++ identitySign t (ascii "Walgon attestation".toList) (reportBody t nonce))
      (bump .attestReports t)) := by
  rw [execGetAttestation, onMgmt_managed hm, if_neg (not_not_intro hn)]

/-- The anchors of the fabric are the tenant's to set in a sealed tenancy, and the operator's otherwise. -/
theorem execSetFabricAnchors_managed {anchors : List AnchorEntry}
    (hr : roleIn (countRecord r.session false s) r
      = (if (countRecord r.session false s).mgmt.tenancy = tenSealed then roleTenant else roleOperator)) (ha : anchorsOk anchors = true) :
    execSetFabricAnchors r anchors s = .next (mgmtAnswer r stOk [] (setAnchors anchors (countRecord r.session false s))) := by
  rw [execSetFabricAnchors, onMgmt_managed hm, if_neg (not_not_intro hr), ha]
  rfl

theorem execTenancyRelease_managed (hr : roleIn (countRecord r.session false s) r = roleOperator
      ∨ (countRecord r.session false s).mgmt.tenancy = tenSealed) : execTenancyRelease r s = .next (
    let t := countRecord r.session false s
    changeFor r tenNone none { t with mgmt := { t.mgmt with hostDataAllow := false } }) := by
  have hn : ¬ (roleIn (countRecord r.session false s) r = roleTenant ∧ (countRecord r.session false s).mgmt.tenancy ≠ tenSealed) := by
    rintro ⟨htenant, hopen⟩
    rcases hr with hoperator | hsealed
    · rw [hoperator] at htenant
      exact absurd htenant (by decide)
    · exact hopen hsealed
  rw [execTenancyRelease, onMgmt_managed hm, if_neg hn]

end

/-! ## The operator's operations and settings (R536, R547, R549) -/

section
variable (hm : Managed r [roleOperator] s)
include hm

theorem execGetTelemetry_managed {clear : Bool} : execGetTelemetry r clear false s = .next (
    let t := countRecord r.session false s
    mgmtAnswer r stOk (telemetry t) (if clear then clearDroop { t with tick := t.tick + 1 } else { t with tick := t.tick + 1 })) := by
  rw [execGetTelemetry, onMgmt_managed hm]
  rfl

theorem execSetTime_managed {utc : BitVec 64} : execSetTime r utc s = .next (
    let t := countRecord r.session false s
    mgmtAnswer r stOk [] { t with mgmt := { t.mgmt with time := some (utc.toNat, t.pw.uptime) } }) := onMgmt_managed hm

section
variable {v : VId} (hv : v.toNat < vnodeCount (countRecord r.session false s))
include hv

theorem execReadNeighbours_managed : execReadNeighbours r v s = .next (
    let t := countRecord r.session false s
    mgmtAnswer r stOk ((vn t v).neighbours.flatMap neighbourBytes) t) := by
  rw [execReadNeighbours, onMgmt_managed hm, if_neg (Nat.not_le.mpr hv)]

theorem execSetFabricIdentity_managed {nodeId : NodeId} {pfx : BitVec 64} {fwd : Bool} (hb : badNode nodeId = false)
    (hq : nodeId = (vn (countRecord r.session false s) v).nodeId ∨ (countRecord r.session false s).fab.qps.any
      (fun q => decide (vnodeOfQpn (countRecord r.session false s) q.1 = v) && decide (q.2.state = .ready)) = false) :
    execSetFabricIdentity r v nodeId pfx fwd s = .next (
      let t := countRecord r.session false s
      mgmtAnswer r stOk [] (agreeWithAll v (updVn v (fun n => { n with nodeId := nodeId, pfx := pfx, forwarding := fwd }) t))) := by
  have hbad : ¬ (vnodeCount (countRecord r.session false s) ≤ v.toNat ∨ badNode nodeId = true) := by
    rw [hb]
    rintro (h | h)
    · exact absurd hv (Nat.not_lt.mpr h)
    · exact Bool.noConfusion h
  have hused : ¬ (nodeId ≠ (vn (countRecord r.session false s) v).nodeId ∧ (countRecord r.session false s).fab.qps.any
      (fun q => decide (vnodeOfQpn (countRecord r.session false s) q.1 = v) && decide (q.2.state = .ready)) = true) := by
    rintro ⟨hne, hany⟩
    rcases hq with heq | hnone
    · exact hne heq
    · exact Bool.false_ne_true (hnone.symm.trans hany)
  rw [execSetFabricIdentity, onMgmt_managed hm, if_neg hbad, if_neg hused]

theorem execSetPeerEntry_managed {peer : NodeId} {e : PeerEntry} (hp : peer.toNat < 0x1000) : execSetPeerEntry r v peer e false s = .next (
    let t := countRecord r.session false s
    mgmtAnswer r stOk [] (
      if e.valid then agreeWith v peer (updVn v (fun n => { n with peers := n.peers.put peer e }) t)
      else settle (dropPeerQps v peer (updVn v (fun n => { n with peers := n.peers.del peer }) t)))) := by
  rw [execSetPeerEntry, onMgmt_managed hm]
  simp only [Nat.not_le.mpr hv, Nat.not_le.mpr hp, Bool.false_eq_true, or_self, if_false]
  split
  · rfl
  · rfl

end

section
variable (ht : (countRecord r.session false s).mgmt.tenancy ≠ tenSealed)
include ht

theorem execSetTenantAnchor_managed {digest : List Byte} (hd : digest.length = 32) : execSetTenantAnchor r digest s = .next (
    let t := countRecord r.session false s
    mgmtAnswer r stOk [] { t with mgmt := { t.mgmt with tenantAnchor := digest } }) := by
  rw [execSetTenantAnchor, onMgmt_managed hm, if_neg (not_not_intro hd), if_neg ht]

theorem execDebugLock_managed {o : Bool} : execDebugLock r o s
    = .next (mgmtAnswer r stOk [] (setDebugLock o (countRecord r.session false s))) := by
  rw [execDebugLock, onMgmt_managed hm, if_neg ht]

/-! ## Tenancies (R536, R545) -/

theorem execTenancyOpen_managed {tk : List Byte} (hk : tk.length = 32) : execTenancyOpen r tk s = .next (
    let t := countRecord r.session false s
    changeFor r tenOpen (some tk) { t with mgmt := { t.mgmt with hostDataAllow := false } }) := by
  rw [execTenancyOpen, onMgmt_managed hm, if_neg (not_not_intro hk), if_neg ht]

end

end

theorem execTenancySeal_managed {tk : List Byte} {hd : BitVec 8} {anchors : List AnchorEntry} (hm : Managed r [roleTenant] s)
    (hk : tk.length = 32) (hh : hd.toNat ≤ 1) (ha : anchorsOk anchors = true)
    (ht : (countRecord r.session false s).mgmt.tenancy ≠ tenSealed) (hi : (countRecord r.session false s).mgmt.identityOk = true)
    (hz : allZero (countRecord r.session false s).mgmt.tenantAnchor = false) : execTenancySeal r tk hd anchors s
      = .next (changeFor r tenSealed (some tk) (
        let u := setAnchors anchors (setDebugLock false (countRecord r.session false s))
        { u with mgmt := { u.mgmt with hostDataAllow := decide (hd = 1) } })) := by
  rw [execTenancySeal, onMgmt_managed hm]
  simp only [hk, Nat.not_lt.mpr hh, ha, ht, hi, hz, ne_eq, not_true_eq_false, Bool.not_true, Bool.false_eq_true, or_self, if_false]

/-! ## SPDM and IDE (R542, R544, R548) -/

/-- The measurement blocks that an SPDM request asks for. -/
def spdmBlocks (first last : BitVec 8) (s : State) : List Byte :=
  ((List.range 9).filter (fun b => decide (first.toNat ≤ b) && decide (b ≤ last.toNat))).flatMap (fun b =>
    BitVec.ofNat 8 b :: s.mgmt.meas.getD (b - 1) (zeros 32))

theorem execSpdmRequest_answers {first last : BitVec 8} {nonce : List Byte} (hl : live s = true) (hi : s.mgmt.identityOk = true)
    (h1 : 1 ≤ first.toNat) (h2 : last.toNat ≤ 8) : execSpdmRequest first last nonce s
      = .next (emit (.spdm (spdmBlocks first last s ++ identitySign s [] (nonce ++ spdmBlocks first last s))) s) := by
  rw [execSpdmRequest, onNode_live hl]
  simp only [hi, Nat.not_lt.mpr h1, Nat.not_lt.mpr h2, Bool.not_true, Bool.false_eq_true, or_self, if_false]
  rfl

variable {stream : BitVec 4}

theorem execIdeKm_known {secure : Bool} (hl : live s = true) (hn : stream.toNat ≤ 8) : execIdeKm stream secure s = .next (
    let t := installKey (4 + stream.toNat) s
    if secure then { t with mgmt := { t.mgmt with ide := (t.mgmt.ide ++ [stream]).eraseDups, ideSecure := true } } else t) := by
  rw [execIdeKm, onNode_live hl, if_neg (Nat.not_lt.mpr hn)]

/-- What a stream that leaves Secure state does, by whether a tenancy is sealed. -/
theorem execIdeState_leaves (hl : live s = true) (hm : stream ∈ s.mgmt.ide) : execIdeState stream s = .next (
    if s.mgmt.tenancy = tenSealed then logFrom 0 0x0C08 srcMgmt []
      { s with mgmt := { s.mgmt with ide := s.mgmt.ide.filter (fun x => x ≠ stream), ideSecure := false } }
    else { s with mgmt := { s.mgmt with
      ide := s.mgmt.ide.filter (fun x => x ≠ stream), ideSecure := !(s.mgmt.ide.filter (fun x => x ≠ stream)).isEmpty } }) := by
  rw [execIdeState, onNode_live hl, if_neg (not_not_intro hm)]

end

theorem i3cTargetCompletes : Parts.I3cTargetCompletes :=
  fun _ ha => ⟨fun _ => execSetdasa_own ha, fun _ _ hn => execSetdasa_other hn, fun _ _ hk => execOperatorAnchor_open ha hk,
    fun _ _ hk => execOperatorAnchor_locked hk, fun _ => execAnchorLock_answers ha⟩

theorem sessionsComplete : Parts.SessionsComplete := by
  refine ⟨?init, fun session how s hl => ⟨onNode_live hl, onNode_live hl⟩⟩
  intro ek nonce cred s i hl hm hf hk hi hn he hc
  cases hg : credOk s cred (ek ++ nonce) with
  | false => exact execSessionInit_badCredential hl hm hf hk hi hn he hc hg
  | true =>
    refine (execSessionInit_goodCredential hl hm hf hk hi hn he hc hg).trans (congrArg _ ?_)
    cases roleOf s cred with
    | none => rfl
    | some role => rfl

/-- Settles O38: the I3C target by the lock and the address, and sessions by the credential. -/
theorem managementLinkCompletes : Obligations.ManagementLinkCompletes := ⟨i3cTargetCompletes, sessionsComplete⟩

theorem managementReadsComplete : Parts.ManagementReadsComplete := by
  refine ⟨fun r s hm => ⟨?status, ?certs, ?attestation⟩, fun r s hm => ⟨?telemetry, ?neighbours, ?time⟩⟩
  case status => exact execGetStatus_managed hm
  case certs => exact execGetCerts_managed hm
  case attestation => exact fun nonce hn => execGetAttestation_managed hm hn
  case telemetry => exact fun clear => execGetTelemetry_managed hm
  case neighbours => exact fun v hv => execReadNeighbours_managed hm hv
  case time => exact fun utc => execSetTime_managed hm

theorem managementSettingsComplete : Parts.ManagementSettingsComplete := by
  refine ⟨fun r s hm => ⟨?identity, ?peer, ?anchor, ?debug⟩, ?anchors⟩
  case identity => exact fun v nodeId pfx fwd hv hb hq => execSetFabricIdentity_managed hm hv hb hq
  case peer => exact fun v peer e hv hp => execSetPeerEntry_managed hm hv hp
  case anchor => exact fun digest hd ht => execSetTenantAnchor_managed hm ht hd
  case debug => exact fun o ht => execDebugLock_managed hm ht
  case anchors => exact fun r s anchors hm hr ha => execSetFabricAnchors_managed hm hr ha

/-- Settles O39: each operation runs off its session's count. -/
theorem managementOperationsComplete : Obligations.ManagementOperationsComplete := ⟨managementReadsComplete, managementSettingsComplete⟩

/-- Settles O40, each row by its equation above. -/
theorem tenancyChangesComplete : Obligations.TenancyChangesComplete :=
  ⟨fun _ _ _ _ _ hm hk hh ha ht hi hz => execTenancySeal_managed hm hk hh ha ht hi hz,
    fun _ _ _ hm hk ht => execTenancyOpen_managed hm ht hk, fun _ _ hm hr => execTenancyRelease_managed hm hr⟩

/-- Settles O41, each row by its equation above. -/
theorem spdmAndIdeComplete : Obligations.SpdmAndIdeComplete := by
  refine ⟨?spdm, ?km, ?leaves⟩
  case spdm => exact fun first last nonce s hl hi h1 h2 => execSpdmRequest_answers hl hi h1 h2
  case km => exact fun stream s hl hn => ⟨execIdeKm_known hl hn, execIdeKm_known hl hn⟩
  case leaves =>
    exact fun stream s hl hm => ⟨fun ht => (execIdeState_leaves hl hm).trans (congrArg _ (if_pos ht)),
      fun ht => (execIdeState_leaves hl hm).trans (congrArg _ (if_neg ht))⟩

end Sys2Proof.Machine

/-! # The upkeep of flash, configuration and the loader: O16, O36, O37 -/

namespace Sys2Proof.Machine

section
variable {s : State} {b : BlockRef}

/-! ## Flash (R314, R316, R317, R319, R589) -/

/-- Outside a power brake an operation of flash starts at once (R592). -/
theorem flashOp_unbraked {i : Instr} {f : State → State} (hb : s.pw.brake = false) : flashOp i f s = f s := by
  rw [flashOp, hb]
  rfl

/-- The target's parameters, taken. -/
def targetTaken (k : Nat × Nat) (p : ParamPage) (s : State) : State :=
  { s with tier := { s.tier with targets := s.tier.targets.put k ⟨p.ok, p.blocks, p.pagesPerBlock, p.maxBusyUs⟩ } }

theorem execFlashProbe_ok {channel : BitVec 4} {target : BitVec 3} {p : ParamPage} (hl : live s = true) (hf : s.pw.fwState = 2)
    (hp : p.ok = true) : ∃ t, execFlashProbe channel target p s = .next t
      ∧ (targetTaken (channel.toNat, target.toNat) p s).Same t := by
  rw [execFlashProbe, onNode_live hl, if_neg (not_not_intro hf)]
  refine ⟨_, rfl, ?_⟩
  dsimp only
  rw [if_neg (by simp [hp])]
  split
  · exact logFrom_same
  · exact .refl

theorem execFlashProbe_takes {channel : BitVec 4} {target : BitVec 3} {p : ParamPage} (hl : live s = true) (hf : s.pw.fwState = 2)
    (hp : p.ok = true) : ∃ t, execFlashProbe channel target p s = .next t
      ∧ t.tier.targets.at? (channel.toNat, target.toNat) = some ⟨true, p.blocks, p.pagesPerBlock, p.maxBusyUs⟩
      ∧ t.tier.images = s.tier.images ∧ t.tier.blocks = s.tier.blocks ∧ t.mem = s.mem ∧ t.spans = s.spans := by
  obtain ⟨t, ht, -, hmem, -, -, hspans, -, -, htier, -⟩ := execFlashProbe_ok (channel := channel) (target := target) hl hf hp
  refine ⟨t, ht, ?_, by rw [htier]; rfl, by rw [htier]; rfl, hmem, hspans⟩
  rw [htier, ← hp]
  exact Tbl.at?_put_self ..

theorem execFlashRelocate_due {soft old : Bool} (hl : live s = true) (hb : s.pw.brake = false)
    (hd : soft = true ∨ old = true ∨ s.knobs.readDisturbLimit ≤ (blockAt s (blockKey b)).reads) :
    execFlashRelocate b soft old s = .next (bump .flashRelocations (emptyBlock (blockKey b) s)) := by
  rw [execFlashRelocate, onNode_live hl, if_pos hd, flashOp_unbraked hb]

theorem execFtlReclaim_due (hl : live s = true) (hb : s.pw.brake = false)
    (hn : freeBlocks s (channelVnode s b.channel) * 100 < 3 * usableBlocks s (channelVnode s b.channel))
    (hu : blockKey b ∈ (usedBlocks s (channelVnode s b.channel)).map Prod.fst)
    (hg : ∀ x ∈ usedBlocks s (channelVnode s b.channel), liveSectors s (blockKey b) ≤ liveSectors s x.1) :
    execFtlReclaim b s = .next (emptyBlock (blockKey b) s) := by
  have hg' : (usedBlocks s (channelVnode s b.channel)).all (fun x => decide (liveSectors s (blockKey b) ≤ liveSectors s x.1)) = true :=
    List.all_eq_true.mpr fun x hx => decide_eq_true (hg x hx)
  rw [execFtlReclaim, onNode_live hl, if_pos ⟨hn, hu, hg'⟩, flashOp_unbraked hb]

theorem execWearLevel_due (hl : live s = true) (hb : s.pw.brake = false)
    (hn : s.knobs.wearSpread < (eraseSpread s (channelVnode s b.channel)).2 - (eraseSpread s (channelVnode s b.channel)).1)
    (hu : blockKey b ∈ (usedBlocks s (channelVnode s b.channel)).map Prod.fst)
    (hg : ∀ x ∈ usedBlocks s (channelVnode s b.channel), (blockAt s (blockKey b)).erases ≤ x.2.erases) :
    execWearLevel b s = .next (emptyBlock (blockKey b) s) := by
  have hg' : (usedBlocks s (channelVnode s b.channel)).all (fun x => decide ((blockAt s (blockKey b)).erases ≤ x.2.erases)) = true :=
    List.all_eq_true.mpr fun x hx => decide_eq_true (hg x hx)
  rw [execWearLevel, onNode_live hl, if_pos ⟨hn, hu, hg'⟩, flashOp_unbraked hb]

/-- A block whose programming has failed: bad, counted, and no longer programmed. -/
def blockFailed (k : Nat × Nat × Nat) (s : State) : State :=
  let t := bump .flashBadBlocks (updBlock k (fun x => { x with bad := true }) s)
  { t with tier := { t.tier with active := t.tier.active.filter (fun a => a.2 ≠ k) } }

theorem execFlashProgramFail_good (hl : live s = true) (hg : (blockAt s (blockKey b)).bad = false) :
    execFlashProgramFail b s = .next (rewriteStaged b (writeMeta (channelVnode s b.channel) (blockFailed (blockKey b) s))) := by
  rw [execFlashProgramFail, onNode_live hl]
  dsimp only
  rw [hg, if_neg Bool.false_ne_true]
  rfl

theorem blockFailed_bad {k : Nat × Nat × Nat} : (blockAt (blockFailed k s) k).bad = true := by
  have h : blockAt (blockFailed k s) k = { blockAt s k with bad := true } :=
    Tbl.atD_upd_self s.tier.blocks k FlashBlock.reset (fun x => { x with bad := true })
  rw [h]

theorem blockFailed_counts {k : Nat × Nat × Nat} :
    counterAt (blockFailed k s) .flashBadBlocks 0 = min (2 ^ 64 - 1) (counterAt s .flashBadBlocks 0 + 1) :=
  counterAt_bump_self

theorem execFlashEraseBackground_stale (hl : live s = true) (hb : s.pw.brake = false) (hs : (blockAt s (blockKey b)).stale = true)
    (hg : (blockAt s (blockKey b)).bad = false) : execFlashEraseBackground b s = .next (writeMeta (channelVnode s b.channel)
      (updBlock (blockKey b) (fun x =>
        { x with erases := min (2 ^ 32 - 1) (x.erases + 1), written := 0, reads := 0, stale := false, last := none }) s)) := by
  rw [execFlashEraseBackground, onNode_live hl]
  dsimp only
  rw [hs, hg, if_pos ⟨rfl, rfl⟩, flashOp_unbraked hb]

end

/-- Settles O16, each event by its equation above. -/
theorem flashEventsComplete : Obligations.FlashEventsComplete := by
  refine ⟨?probe, ?relocate, ?reclaim, ?level, ?fail, ?erase⟩
  case probe => exact fun channel target p s hl hf hp => execFlashProbe_takes hl hf hp
  case relocate => exact fun b soft old s hl hb hd => execFlashRelocate_due hl hb hd
  case reclaim => exact fun b s hl hb hn hu hg => execFtlReclaim_due hl hb hn hu hg
  case level => exact fun b s hl hb hn hu hg => execWearLevel_due hl hb hn hu hg
  case fail =>
    exact fun b s hl hg => ⟨_, execFlashProgramFail_good hl hg, blockFailed_bad, rfl, rfl, rfl, blockFailed_counts⟩
  case erase => exact fun b s hl hb hs hg => execFlashEraseBackground_stale hl hb hs hg

section
variable {s b w : State} {c : Cmd}

/-! ## Configuration (R23–R35, R574–R580) -/

theorem execCfgImage_faultless {img : ConfigImage} (hl : live s = true) (hw : toWork c s = some (b, w)) (hi : imageFault c img = none) :
    execCfgImage c img s = .next (complete c (Reply.st stOk) (acceptImage img w)) := by
  rw [execCfgImage, runVerb, onNode_live hl, runCmd_work hw, hi, finish_st]

theorem execCfgProfile_faultless {p : ProfileBlock} (hs : Serves c (8 + 8 * p.itemCount.toNat) s b w)
    (hn : p.items.length = p.itemCount.toNat) (hp : p.profile.toNat ≤ 4) (hi : itemsFault 72 [] p.items = none)
    (hg : ∀ i ∈ p.items, i.knobId.toNat / 256 ≠ 2) (hd : (profileKnobsOf w p).demoteOk = true)
    (hc : (profileKnobsOf w p).hbmCodeMode = w.knobs.hbmCodeMode ∨ w.everAllocated = false) :
    execCfgProfile c p s = .next (complete c (Reply.st stOk)
      (noteConfig (profileWord p.profile.toNat p.itemCount.toNat ++ p.items.flatMap itemBytes)
        (putKnobs (profileKnobsOf w p) { w with profile := if p.profile = 0 then w.profile else p.profile.toNat }))) := by
  have ⟨_, _, hrsv, hlen⟩ := hs
  have hheader : firstBad c [(decide (c.hdr.paramLen.toNat ≠ 8 + 8 * p.itemCount.toNat)
      || decide (p.items.length ≠ p.itemCount.toNat), 12), (decide (4 < p.profile.toNat), 71)] = none :=
    firstBad_none hrsv (by simp [fieldsPass, hlen, hn, hp])
  have hgeo : p.items.any (fun i => decide (i.knobId.toNat / 256 = 2)) = false :=
    List.any_eq_false.mpr fun i hmem => by simp [hg i hmem]
  have hcode : ¬ ((profileKnobsOf w p).hbmCodeMode ≠ w.knobs.hbmCodeMode ∧ w.everAllocated = true) := by
    rintro ⟨hne, hany⟩
    rcases hc with heq | hnone
    · exact hne heq
    · exact Bool.false_ne_true (hnone.symm.trans hany)
  rw [execCfgProfile, runVerb_serves hs, hheader]
  simp only [hi, hgeo, hd, if_neg hcode, Bool.not_true, Bool.false_eq_true, if_false, finish_st]

theorem execCfgRead_serves (hs : Serves c 0 s b w) : execCfgRead c s = .next (finish c b (.now (Reply.ofResult allKnobs.length
    (profileWord (if w.profile = 0 then 2 else w.profile) allKnobs.length
      ++ (allKnobs.map (fun k => leBytes 8 (word [(48, k.id), (0, (k.get w.knobs).getD ((takeFree w).1 % 2 ^ 32))]))).flatten))
    (takeFree w).2)) := runVerb_pass hs rfl

end

/-- Settles O36, each command by its equation above. -/
theorem configurationCompletes : Obligations.ConfigurationCompletes := by
  refine ⟨?image, ?profile, ?read⟩
  case image => exact fun c img s b w hl hw hi => execCfgImage_faultless hl hw hi
  case profile => exact fun c p s b w hs hn hp hi hg hd hc => execCfgProfile_faultless hs hn hp hi hg hd hc
  case read => exact fun c s b w hs => execCfgRead_serves hs

section
variable {s : State}

/-! ## The loader of the mask boot ROM (R566–R573) -/

/-- Taking up a word leaves the loader's own state. -/
theorem takeMail_pw {m : BitVec 4} : (takeMail m s).pw = s.pw := by
  unfold takeMail
  dsimp only
  split
  · rfl
  · split
    · split
      · exact raise_pw
      · rfl
    · rfl

/-- A word without reserved bits is taken up and met. -/
theorem onWord_met {op : Nat} {arg : State → Nat} {f : State → State} (hl : live s = true) (hw : wordReserved s 0 = false) :
    onWord op arg f s = .next (f (takeMail 0 s)) := by
  rw [onWord, hw, if_neg Bool.false_ne_true]
  exact onNode_live hl

section
variable (hl : live s = true) (hw : wordReserved s 0 = false)
include hl hw

theorem execBegin_fits {len : BitVec 32} (hf : s.pw.fwState ≠ fwRunning) (h1 : 1 ≤ len.toNat) (h2 : len.toNat ≤ imageMax) :
    execBegin len s = .next (bootAnswer 0 bootBegin resOk 0 0 (setLoad fwLoading (some ⟨len.toNat, 0, [], none⟩) (takeMail 0 s))) := by
  rw [execBegin, onWord_met hl hw, takeMail_pw, if_neg hf, if_neg (by omega)]

/-- A chunk in sequence of an image whose manifest is still to come takes the window's bytes. -/
theorem execChunk_inSequence {len : BitVec 21} {offset : BitVec 32} {l : Loader} (hf : s.pw.fwState ≠ fwRunning)
    (hld : s.pw.loader = some l) (ho : offset.toNat = l.next) (hn : l.next + len.toNat ≤ l.len) (hc : len.toNat ≤ loadWindow)
    (hm : l.manifest = none) : execChunk len offset none s
      = .next (bootAnswer 0 bootChunk resOk 0 (l.next + len.toNat) (setLoad fwLoading
        (some ⟨l.len, l.next + len.toNat, l.image ++ padTo len.toNat s.pw.window, none⟩) (takeMail 0 s))) := by
  have hfits : ¬ (l.len < l.next + len.toNat ∨ loadWindow < len.toNat) := by omega
  rw [execChunk, onWord_met hl hw, takeMail_pw, if_neg hf]
  simp only [hld, ho, hm, if_neg hfits, ne_eq, not_true_eq_false, if_false, Option.isNone_none, Option.isSome_none, if_true,
    Option.filter_none, Option.bind_none, Bool.false_eq_true]

theorem execEnd_verified {l : Loader} {m : Manifest} (hf : s.pw.fwState ≠ fwRunning) (hld : s.pw.loader = some l) (hn : l.next = l.len)
    (hm : l.manifest = some m) (hc : componentFail m l.image true = none) :
    execEnd s = .next (bootAnswer 0 bootEnd resOk 0 0 (startFirmware m (takeMail 0 s))) := by
  rw [execEnd, onWord_met hl hw, takeMail_pw, if_neg hf]
  simp only [hld, hn, hm, hc, ne_eq, not_true_eq_false, if_false]

theorem execAbort_loading (hf : s.pw.fwState = fwLoading) :
    execAbort s = .next (bootAnswer 0 bootAbort resAborted 0 0 (setLoad fwNone none (takeMail 0 s))) := by
  rw [execAbort, onWord_met hl hw, takeMail_pw, if_pos hf]

end

section
variable (hl : live s = true)
include hl

theorem execLoaderIdleTimeout_loading (hf : s.pw.fwState = fwLoading) :
    execLoaderIdleTimeout s = .next (bootAnswer 0 bootNotice resAborted 0 0 (setLoad fwNone none s)) := by
  rw [execLoaderIdleTimeout, onNode_live hl, if_pos hf]

theorem execPing_answers {mb : BitVec 3} {value : BitVec 32} (hm : mb = 0 ∨ s.pw.fwState = fwRunning)
    (hw : wordReserved s (BitVec.ofNat 4 mb.toNat) = false) : execPing mb value s
      = .next (bootAnswer mb.toNat bootPing resOk 0 value.toNat (takeMail (BitVec.ofNat 4 mb.toNat) s)) := by
  have hserved : ¬ (mb.toNat ≠ 0 ∧ s.pw.fwState ≠ fwRunning) := by
    rintro ⟨hne, hnot⟩
    rcases hm with hzero | hrun
    · exact hne (congrArg BitVec.toNat hzero)
    · exact hnot hrun
  rw [execPing, onNode_live hl, if_neg hserved]
  simp only [hw, Bool.false_eq_true, if_false]

theorem execFirmwareLoadWindow_loading {offset : BitVec 20} {bytes : List Byte} (hf : s.pw.fwState ≠ fwRunning) :
    execFirmwareLoadWindow offset bytes s
      = .next { s with pw := { s.pw with window := (putBytes s.pw.window offset.toNat bytes).take loadWindow } } := by
  rw [execFirmwareLoadWindow, onNode_live hl, if_neg hf]

end

end

/-- Settles O37, each word of the loader by its equation above. -/
theorem loaderCompletes : Obligations.LoaderCompletes := by
  refine ⟨?begin, ?chunk, ?done, ?stop, ?ping, ?window⟩
  case begin => exact fun len s hl hw hf h1 h2 => execBegin_fits hl hw hf h1 h2
  case chunk => exact fun len offset s l hl hw hf hld ho hn hc hm => execChunk_inSequence hl hw hf hld ho hn hc hm
  case done => exact fun s l m hl hw hf hld hn hm hc => execEnd_verified hl hw hf hld hn hm hc
  case stop => exact fun s hl hf => ⟨fun hw => execAbort_loading hl hw hf, execLoaderIdleTimeout_loading hl hf⟩
  case ping => exact fun mb value s hl hm hw => execPing_answers hl hm hw
  case window => exact fun offset bytes s hl hf => execFirmwareLoadWindow_loading hl hf

end Sys2Proof.Machine

/-! # Power, clocks, resets and telemetry: O42, O43, O44 -/

namespace Sys2Proof.Machine

section
variable {s : State}

/-! ## Resets and power-up (R557–R565, R611) -/

theorem execFlashWpAssert_noFirmware (hf : s.pw.fwState ≠ 2) : execFlashWpAssert s = .next (driveWp false s) := by
  rw [execFlashWpAssert, if_neg hf]

/-- Power-up releases reset, and outside the test mode logs its cause and derives the identity. -/
theorem execPowerUp_releases {mode : BitVec 2} {test : Bool} {puf : List Byte} (hr : released s = false)
    (ht : s.pw.thermTrip = false ∨ s.pw.tripClears = true) : execPowerUp mode test puf s = .next (
      if test then releaseReset mode test s
      else deriveIdentity puf (interimKeys (bootSessionKeys (logFrom 0 0x0D01 srcMgmt
        ((32, (releaseReset mode test s).pw.cause) :: (if mode = 3 then [(8, 3)] else []))
        (extendMeas 0 Config.romDigest (releaseReset mode test s)))))) := by
  have hn : ¬ (released s = true ∨ (s.pw.thermTrip = true ∧ (!s.pw.tripClears) = true)) := by
    rw [hr]
    rintro (h | ⟨htrip, hclears⟩)
    · exact Bool.noConfusion h
    · rcases ht with h | h
      · exact Bool.false_ne_true (h.symm.trans htrip)
      · rw [h] at hclears
        exact Bool.noConfusion hclears
  rw [execPowerUp, if_neg hn]

theorem releaseReset_cause {mode : BitVec 2} {test : Bool} : (releaseReset mode test s).pw.cause = s.pw.cause := by
  unfold releaseReset
  dsimp only
  split
  · rfl
  · rfl

/-! ## Clocks, the link of the host, and gates (R558, R560, R564) -/

/-- A live node's host interface is reset as by a function-level reset. -/
theorem resetHost_live (hl : live s = true) : resetHost s = flrState s := by
  rw [resetHost, if_pos hl]

section
variable (hl : live s = true)
include hl

theorem execRefclk156Loss_live : execRefclk156Loss s = .next { s with
    pw := { s.pw with refclk156 := false }
    fab := { s.fab with ports := s.fab.ports.map (fun p => (p.1, { p.2 with up := false })) } } := onNode_live hl

theorem execPerstN_falls : execPerstN false s = .next (flrState { s with pw := { s.pw with perstHigh := false } }) := by
  have hl' : live { s with pw := { s.pw with perstHigh := false } } = true := hl
  rw [execPerstN, if_neg Bool.false_ne_true, resetHost_live hl']

theorem execPcieRefclkLoss_live : execPcieRefclkLoss s = .next (flrState { s with pw := { s.pw with pcieClock := false } }) := by
  have hl' : live { s with pw := { s.pw with pcieClock := false } } = true := hl
  rw [execPcieRefclkLoss, resetHost_live hl']

variable {core : BitVec 4}

theorem execPowerGate_engine (hc : core.toNat < 8)
    (hi : s.attn.reqs.any (fun r => r.2.pages.any (fun p => decide (p.core = core.toNat))) = false) :
    execPowerGate true core s
      = .next { s with pw := { s.pw with gatedEngines := (core.toNat :: s.pw.gatedEngines).eraseDups } } := by
  rw [execPowerGate, onNode_live hl]
  simp only [hc, hi, if_true, Bool.not_false, and_self]

theorem execPowerGate_core (hc : core ≠ 0) (hi : 8 ≤ core.toNat ∨ (mbAt s core).full = false) :
    execPowerGate false core s = .next { s with pw := { s.pw with gatedCores := (core.toNat :: s.pw.gatedCores).eraseDups } } := by
  have hn : ¬ (core.toNat = 0 ∨ (core.toNat < 8 ∧ (mbAt s core).full = true)) := by
    rintro (hzero | ⟨hlow, hfull⟩)
    · exact hc (BitVec.eq_of_toNat_eq hzero)
    · rcases hi with hhigh | hempty
      · exact absurd hlow (Nat.not_lt.mpr hhigh)
      · exact Bool.false_ne_true (hempty.symm.trans hfull)
  rw [execPowerGate, onNode_live hl]
  simp only [if_neg hn, Bool.false_eq_true, if_false]

/-! ## Brake and power cap (R34, R583, R584, R586) -/

section
variable {rail : BitVec 3} {mv : Nat}

theorem execBrakeEnter_starts (hb : s.pw.brake = false) (hv : 100 * mv < 94 * railNominal.getD rail.toNat 0) :
    execBrakeEnter rail mv s = .next (
      let t := updRail rail.toNat (noteReading mv) s
      bump .brakeEntries (logFrom 0 0x0D04 srcPower [(8, rail.toNat), (16, mv)]
        (setAlert 1 { t with pw := { t.pw with brake := true, brakeHeld := 0 } }))) := by
  have hat : brakesAt rail mv = true := decide_eq_true hv
  have hn : ¬ ((updRail rail.toNat (noteReading mv) s).pw.brake = true ∨ (!brakesAt rail mv) = true) := by
    rw [hat]
    rintro (h | h)
    · exact Bool.false_ne_true (hb.symm.trans h)
    · exact Bool.noConfusion h
  rw [execBrakeEnter, onNode_live hl]
  exact congrArg _ (if_neg hn)

theorem execBrakeEnter_noted (h : s.pw.brake = true ∨ 94 * railNominal.getD rail.toNat 0 ≤ 100 * mv) :
    execBrakeEnter rail mv s = .next (updRail rail.toNat (noteReading mv) s) := by
  have hat : (updRail rail.toNat (noteReading mv) s).pw.brake = true ∨ (!brakesAt rail mv) = true := by
    rcases h with hbrake | hhigh
    · exact .inl hbrake
    · refine .inr ?_
      have hnot : brakesAt rail mv = false := decide_eq_false (Nat.not_lt.mpr hhigh)
      rw [hnot]
      rfl
  rw [execBrakeEnter, onNode_live hl]
  exact congrArg _ (if_pos hat)

end

theorem execBrakeExit_braked {durationUs : Nat} (hb : s.pw.brake = true) : execBrakeExit durationUs s = .next (
    let t := { s with pw := { s.pw with brake := false, brakeHeld := 0 } }
    releaseBrake (bumpBy .brakeUs durationUs (logFrom 0 0x0D05 srcPower [(64, durationUs), (64, s.pw.brakeHeld)] t))) := by
  rw [execBrakeExit, onNode_live hl]
  simp only [hb, Bool.not_true, Bool.false_eq_true, if_false]

/-- The state in which an interval's mean is kept. -/
def intervalKept (p : Nat) (s : State) : State :=
  { s with pw := { s.pw with means := (p :: s.pw.means).take meansKept, thermalActed := false } }

theorem execPowerInterval_live {p : Nat} : execPowerInterval p s = .next (
    let t := judgeInterval p (intervalKept p s)
    { t with pw := { t.pw with capW := t.knobs.powerCapW } }) := onNode_live hl

end

section
variable {p : Nat}

theorem judgeInterval_over (h : s.pw.capW < p) : judgeInterval p s = overCap p s := by
  rw [judgeInterval, if_pos h]

theorem judgeInterval_under (h : p ≤ s.pw.capW) (hu : 100 * p < 95 * s.pw.capW) : judgeInterval p s = underCap s := by
  rw [judgeInterval, if_neg (Nat.not_lt.mpr h), if_pos hu]

theorem judgeInterval_between (h : p ≤ s.pw.capW) (hu : 95 * s.pw.capW ≤ 100 * p) :
    judgeInterval p s = { s with pw := { s.pw with lowIntervals := 0 } } := by
  rw [judgeInterval, if_neg (Nat.not_lt.mpr h), if_neg (Nat.not_lt.mpr hu)]

end

/-! ## Temperature (R587, R588) -/

/-- What a reading of the node's sensors, already noted, does. -/
def judgeTemp (t : Int) (coolMs : Bool) (s : State) : State :=
  if 110 ≤ t ∨ s.hbmStacks.any (fun x => decide (105 ≤ x.2.temp)) then thermalTrip s
  else if 105 ≤ t then thermalDown slowest t s
  else if 95 ≤ t then (if s.pw.thermalActed then s else thermalDown (min slowest (s.pw.thermalStep + 1)) t s)
  else if t < 90 ∧ coolMs then { s with pw := { s.pw with thermalStep := s.pw.thermalStep - 1 } }
  else s

theorem execNodeTempRead_live {temps : List Int} {coolMs : Bool} (hl : live s = true) : execNodeTempRead temps coolMs s
    = .next (judgeTemp (hottest temps) coolMs (alertTemp { s with pw := { s.pw with temps := temps } })) := onNode_live hl

section
variable {t : Int} {coolMs : Bool}

theorem judgeTemp_trips (h : 110 ≤ t ∨ s.hbmStacks.any (fun x => decide (105 ≤ x.2.temp)) = true) :
    judgeTemp t coolMs s = thermalTrip s := by
  rw [judgeTemp, if_pos h]

section
variable (hc : s.hbmStacks.any (fun x => decide (105 ≤ x.2.temp)) = false)
include hc

theorem notTripping (ht : t < 110) : ¬ (110 ≤ t ∨ s.hbmStacks.any (fun x => decide (105 ≤ x.2.temp)) = true) := by
  rw [hc]
  rintro (h | h)
  · omega
  · exact Bool.noConfusion h

theorem judgeTemp_slowest (h1 : 105 ≤ t) (h2 : t < 110) : judgeTemp t coolMs s = thermalDown slowest t s := by
  rw [judgeTemp, if_neg (notTripping hc h2), if_pos h1]

theorem judgeTemp_down (h1 : 95 ≤ t) (h2 : t < 105) (ha : s.pw.thermalActed = false) :
    judgeTemp t coolMs s = thermalDown (min slowest (s.pw.thermalStep + 1)) t s := by
  rw [judgeTemp, if_neg (notTripping hc (by omega)), if_neg (by omega), if_pos h1, ha, if_neg Bool.false_ne_true]

theorem judgeTemp_up (h : t < 90) : judgeTemp t true s = { s with pw := { s.pw with thermalStep := s.pw.thermalStep - 1 } } := by
  rw [judgeTemp, if_neg (notTripping hc (by omega)), if_neg (by omega), if_neg (by omega), if_pos ⟨h, rfl⟩]

end

end

/-! ## Telemetry (R592, R593) -/

section
variable (hl : live s = true)
include hl

theorem execEyeScan_lane {lane : BitVec 5} {width height : Nat} (hn : lane.toNat < 20) : execEyeScan lane width height s
    = .next (noteMargin kindLane lane.toNat 1 height 15 (noteMargin kindLane lane.toNat 0 width 16
      { s with pw := { s.pw with eyes := s.pw.eyes.put lane.toNat ⟨width, height, s.pw.uptime⟩ } })) := by
  rw [execEyeScan, onNode_live hl, if_neg (Nat.not_le.mpr hn)]

theorem execHbmMarginScan_live {stack : BitVec 3} {pc : BitVec 5} {setup hold : Nat} : execHbmMarginScan stack pc setup hold s
    = .next (noteMargin kindHbm stack.toNat (2 * pc.toNat + 1) hold 8
      (noteMargin kindHbm stack.toNat (2 * pc.toNat) setup 8 { s with pw := { s.pw with
        hbmMargins := s.pw.hbmMargins.put (stack.toNat, pc.toNat) (setup, hold)
        marginAt := s.pw.marginAt.put stack.toNat s.pw.uptime } })) := onNode_live hl

theorem execDroopWindow_live {rail : BitVec 3} {lowestMv : Nat} : execDroopWindow rail lowestMv s = .next (updRail rail.toNat (fun x =>
    { noteReading lowestMv x with
      bins := x.bins.upd (droopBin (railNominal.getD rail.toNat 0) lowestMv) 0 (fun n => min (2 ^ 32 - 1) (n + 1)) }) s) :=
  onNode_live hl

theorem execOpticsPoll_port {port : BitVec 5} {isPresent : Bool} {rx tx : List Nat} {temp : Int} {low : Nat} (hf : s.pw.fwState = 2)
    (hp : portOk s port = true) : execOpticsPoll port isPresent rx tx temp low s = .next (
      let o : Optics := if isPresent then ⟨true, rx.take 8, tx.take 8, temp⟩ else ⟨false, [], [], 0⟩
      (o.rx.zip (List.range 8)).foldl (fun s x => noteMargin kindOptics port.toNat x.2 x.1 low s)
        { s with pw := { s.pw with optics := s.pw.optics.put port.toNat o } }) := by
  have hn : ¬ (s.pw.fwState ≠ 2 ∨ (!portOk s port) = true) := by
    rw [hf, hp]
    decide
  rw [execOpticsPoll, onNode_live hl, if_neg hn]

end

end

theorem resetsComplete : Parts.ResetsComplete := by
  refine ⟨fun _ => rfl, fun _ _ => rfl, fun _ _ => rfl, fun _ => rfl, fun s hf => execFlashWpAssert_noFirmware hf, ?_⟩
  intro mode puf s hr ht
  refine ⟨execPowerUp_releases hr ht, (execPowerUp_releases hr ht).trans ?_⟩
  rw [if_neg Bool.false_ne_true, releaseReset_cause]

theorem clockEventsComplete : Parts.ClockEventsComplete := by
  refine ⟨?loss, fun _ => rfl, ?falls, fun _ => rfl, ?gate⟩
  case loss => exact fun s hl => execRefclk156Loss_live hl
  case falls => exact fun s hl => ⟨execPerstN_falls hl, execPcieRefclkLoss_live hl⟩
  case gate => exact fun core s hl => ⟨fun hc hi => execPowerGate_engine hl hc hi, fun hc hi => execPowerGate_core hl hc hi⟩

/-- Settles O42, each event by its equation above. -/
theorem clockAndResetEventsComplete : Obligations.ClockAndResetEventsComplete := ⟨resetsComplete, clockEventsComplete⟩

/-- Settles O43: an interval by where it lies to the cap, a temperature by the limits that it passes. -/
theorem powerEventsComplete : Obligations.PowerEventsComplete := by
  refine ⟨?brake, ?done, ?interval, ?temp⟩
  case brake => exact fun rail mv s hl => ⟨fun hb hv => execBrakeEnter_starts hl hb hv, fun h => execBrakeEnter_noted hl h⟩
  case done => exact fun durationUs s hl hb => execBrakeExit_braked hl hb
  case interval =>
    intro p s hl
    have hcap : (intervalKept p s).pw.capW = s.pw.capW := rfl
    refine ⟨fun h => (execPowerInterval_live hl).trans ?_, fun h hu => (execPowerInterval_live hl).trans ?_,
      fun h hu => (execPowerInterval_live hl).trans ?_⟩
    · rw [judgeInterval_over (hcap ▸ h)]
      rfl
    · rw [judgeInterval_under (hcap ▸ h) (hcap ▸ hu)]
      rfl
    · rw [judgeInterval_between (hcap ▸ h) (hcap ▸ hu)]
      rfl
  case temp =>
    intro temps coolMs s hl
    refine ⟨fun h => ?hot, fun h => ?stack, fun hc h1 h2 => ?slowest, fun hc h1 h2 ha => ?down, fun hc h => ?up⟩
    case hot => exact (execNodeTempRead_live hl).trans (congrArg _ (judgeTemp_trips (.inl h)))
    case stack => exact (execNodeTempRead_live hl).trans (congrArg _ (judgeTemp_trips (.inr h)))
    case slowest => exact (execNodeTempRead_live hl).trans (congrArg _ (judgeTemp_slowest hc h1 h2))
    case down => exact (execNodeTempRead_live hl).trans (congrArg _ (judgeTemp_down hc h1 h2 ha))
    case up => exact (execNodeTempRead_live hl).trans (congrArg _ (judgeTemp_up hc h))

/-- Settles O44, each event by its equation above. -/
theorem telemetryEventsComplete : Obligations.TelemetryEventsComplete := by
  refine ⟨?eye, ?margin, ?droop, ?optics⟩
  case eye => exact fun lane width height s hl hn => execEyeScan_lane hl hn
  case margin => exact fun stack pc setup hold s hl => execHbmMarginScan_live hl
  case droop => exact fun rail lowestMv s hl => execDroopWindow_live hl
  case optics => exact fun port isPresent rx tx temp low s hl hf hp => execOpticsPoll_port hl hf hp

end Sys2Proof.Machine

/-! # What changes the knobs, the mode bits and the measurement registers; the statement O52

Every operation of the state leaves the modes, by a lemma of its own named `…_modes`; the operations and rows that own a mode come last,
with what they change. An equation that holds by computation is proved `by rfl` and not by the term `rfl`: only so does `simp` use it below
the binder of a fold. -/

namespace Sys2Proof.Machine

/-- Knobs, mode bits and measurement registers: the parts of the state that O52 gives to their owners (R26, R542). -/
structure Modes where
  knobs : Knobs
  configured : Bool
  fwState : Nat
  fatal : Bool
  tenancy : Nat
  debugLockOpen : Bool
  tenantAnchor : List Byte
  operatorAnchor : List Byte
  anchorLock : Bool
  meas : List (List Byte)

/-- The modes of a state. -/
def State.modes (s : State) : Modes where
  knobs := s.knobs
  configured := s.configured
  fwState := s.pw.fwState
  fatal := s.pw.fatal
  tenancy := s.mgmt.tenancy
  debugLockOpen := s.mgmt.debugLockOpen
  tenantAnchor := s.mgmt.tenantAnchor
  operatorAnchor := s.mgmt.operatorAnchor
  anchorLock := s.mgmt.anchorLock
  meas := s.mgmt.meas

/-- The modes agree: what every row keeps that owns none of them. -/
def State.Agree (s t : State) : Prop := t.modes = s.modes

section
variable {α β : Type} {s t : State}

/-- A state written out by its fields, with the knobs and CONFIGURED of `s`. -/
@[simp] theorem modes_mk {pw : Power} {mgmt : Mgmt} {pending tick egress profile configDigest everAllocated ctr log mem
      frames withheld spans seqs dir vnodes hbmStacks runners host sync sealQueue jobs peerSent nextTag nextId deferred holds work
      regions fab attn tier hbm masks maskPages : _}
    (hw : pw.fwState = s.pw.fwState) (hf : pw.fatal = s.pw.fatal) (ht : mgmt.tenancy = s.mgmt.tenancy)
    (hd : mgmt.debugLockOpen = s.mgmt.debugLockOpen) (ha : mgmt.tenantAnchor = s.mgmt.tenantAnchor)
    (ho : mgmt.operatorAnchor = s.mgmt.operatorAnchor) (hl : mgmt.anchorLock = s.mgmt.anchorLock) (hq : mgmt.meas = s.mgmt.meas) :
    (State.mk pending tick egress pw s.knobs profile s.configured configDigest everAllocated ctr log mem frames withheld spans
      seqs dir vnodes hbmStacks runners host sync sealQueue jobs peerSent nextTag nextId deferred holds work regions fab attn tier hbm
      masks maskPages mgmt).modes = s.modes := by
  simp only [State.modes, hw, hf, ht, hd, ha, ho, hl, hq]

@[simp] theorem modes_ite {p : Prop} [Decidable p] : (if p then s else t).modes = if p then s.modes else t.modes := by
  split <;> rfl

@[simp] theorem snd_ite_modes {p : Prop} [Decidable p] {x y : β × State} :
    (if p then x else y).2.modes = if p then x.2.modes else y.2.modes := by
  split <;> rfl

@[simp] theorem state_ite_modes {p : Prop} [Decidable p] {x y : Done} :
    (if p then x else y).state.modes = if p then x.state.modes else y.state.modes := by
  split <;> rfl

@[simp] theorem foldl_modes {f : State → α → State} {xs : List α} (h : ∀ u x, (f u x).modes = u.modes) :
    (xs.foldl f s).modes = s.modes := by
  induction xs generalizing s with
  | nil => rfl
  | cons x r ih => rw [List.foldl_cons, ih, h]

@[simp] theorem foldl_modes_snd {f : β × State → α → β × State} {xs : List α} {y : β × State}
    (h : ∀ u x, (f u x).2.modes = u.2.modes) : (xs.foldl f y).2.modes = y.2.modes := by
  induction xs generalizing y with
  | nil => rfl
  | cons x r ih => rw [List.foldl_cons, ih, h]

@[simp] theorem now_modes {r : Reply} : (Done.now r s).state.modes = s.modes := by rfl

@[simp] theorem later_modes : (Done.later s).state.modes = s.modes := by rfl

@[simp] theorem refuse_modes {st : Status} : (Done.refuse st s).state.modes = s.modes := by rfl

@[simp] theorem map_modes {f : State → State} {d : Done} (h : ∀ t, (f t).modes = t.modes) :
    (d.map f).state.modes = d.state.modes := by
  cases d <;> exact h _

@[simp] theorem getD_modes {u : State} {o : Option State} (h : ∀ t, o = some t → t.modes = s.modes) (k : u.modes = s.modes) :
    (o.getD u).modes = s.modes := by
  cases o with
  | none => exact k
  | some t => exact h t rfl

@[simp] theorem leads_next : Leads State.Agree s (.next t) ↔ t.modes = s.modes := ⟨fun h => h t rfl, fun h => .next h⟩

@[simp] theorem leads_fault {f : Fault} : Leads State.Agree s (.fault f) := .fault

end

/-! ## Machine/Flags.lean -/

@[simp] theorem emit_modes {o : Output} {s : State} : (emit o s).modes = s.modes := by rfl

@[simp] theorem raise_modes {v : Nat} {s : State} : (raise v s).modes = s.modes := by
  simp [raise]

@[simp] theorem setDevError_modes {bit : Nat} {s : State} : (setDevError bit s).modes = s.modes := by
  simp [setDevError]

@[simp] theorem setAlert_modes {bit : Nat} {s : State} : (setAlert bit s).modes = s.modes := by
  simp [setAlert]

/-! ## Machine/Ops.lean -/

@[simp] theorem takeFree_modes {s : State} : (takeFree s).2.modes = s.modes := by rfl

@[simp] theorem takeEstimate_modes {s : State} : (takeEstimate s).2.modes = s.modes := by rfl

@[simp] theorem bumpAt_modes {c : Counter} {ix n : Nat} {s : State} : (bumpAt c ix n s).modes = s.modes := by rfl

@[simp] theorem bump_modes {c : Counter} {s : State} : (bump c s).modes = s.modes := by rfl

@[simp] theorem bumpV_modes {c : Counter} {v : VId} {s : State} : (bumpV c v s).modes = s.modes := by rfl

@[simp] theorem bumpBy_modes {c : Counter} {n : Nat} {s : State} : (bumpBy c n s).modes = s.modes := by rfl

@[simp] theorem updVn_modes {v : VId} {f : VNode → VNode} {s : State} : (updVn v f s).modes = s.modes := by rfl

@[simp] theorem logFrom_modes {v : VId} {code source : Nat} {payload : List (Nat × Nat)} {s : State} :
    (logFrom v code source payload s).modes = s.modes := by
  simp [logFrom]

@[simp] theorem alertTemp_modes {s : State} : (alertTemp s).modes = s.modes := by
  simp [alertTemp]

@[simp] theorem addJob_modes {j : Job} {s : State} : (addJob j s).2.modes = s.modes := by rfl

@[simp] theorem setJob_modes {id : Nat} {j : Job} {s : State} : (setJob id j s).modes = s.modes := by rfl

@[simp] theorem endJob_modes {id : Nat} {s : State} : (endJob id s).modes = s.modes := by rfl

@[simp] theorem deferAt_modes {order : Option Nat} {why : DeferWhy} {i : Instr} {k : Knobs} {s : State} :
    (deferAt order why i k s).modes = s.modes := by rfl

@[simp] theorem defer_modes {why : DeferWhy} {i : Instr} {k : Knobs} {s : State} : (defer why i k s).modes = s.modes := by rfl

@[simp] theorem clearErrs_modes {a n : Nat} {s : State} : (clearErrs a n s).modes = s.modes := by rfl

@[simp] theorem writeBack_modes {cw : Nat} {s : State} : (writeBack cw s).modes = s.modes := by
  unfold writeBack
  split <;> rfl

@[simp] theorem mergeCw_modes {cw : Nat} {s : State} : (mergeCw cw s).modes = s.modes := by
  unfold mergeCw
  (repeat' split) <;> simp

@[simp] theorem mergeEnds_modes {a n : Nat} {s : State} : (mergeEnds a n s).modes = s.modes := by
  simp [mergeEnds]

@[simp] theorem hbmWrite_modes {a : Nat} {bs : List Byte} {s : State} : (hbmWrite a bs s).modes = s.modes := by
  simp [hbmWrite]

@[simp] theorem updFrame_modes {f : FrameId} {g : Frame → Frame} {s : State} : (updFrame f g s).modes = s.modes := by rfl

@[simp] theorem allocIn_modes {pc : Nat} {v : VId} {st : FrameState} {use : FrameUse} {s : State} :
    (allocIn pc v st use s).2.modes = s.modes := by rfl

theorem allocFree_modes {v : VId} {st : FrameState} {use : FrameUse} {s : State} {r : FrameId × State}
    (h : allocFree v st use s = some r) : r.2.modes = s.modes := by
  simp only [allocFree] at h
  split at h
  · simp [← Option.some.inj h]
  · cases h

@[simp] theorem whenFills_modes {f : State → State} {s : State} (h : ∀ t, (f t).modes = t.modes) :
    (whenFills f s).modes = s.modes := by
  unfold whenFills
  simp [*]

theorem allocAny_modes {v : VId} {st : FrameState} {use : FrameUse} {s : State} {r : FrameId × State}
    (h : allocAny v st use s = some r) : r.2.modes = s.modes := by
  simp only [allocAny] at h
  split at h
  · cases h
  · exact allocFree_modes h

@[simp] theorem setFrameState_modes {f : FrameId} {st : FrameState} {s : State} : (setFrameState f st s).modes = s.modes := by
  simp [setFrameState]

@[simp] theorem releaseFrame_modes {f : FrameId} {s : State} : (releaseFrame f s).modes = s.modes := by
  simp [releaseFrame]

/-! ## Machine/Transport.lean -/

@[simp] theorem updQp_modes {q : BitVec 12} {f : Qp → Qp} {s : State} : (updQp q f s).modes = s.modes := by
  unfold updQp
  split <;> rfl

@[simp] theorem updAssoc_modes {v : VId} {n : NodeId} {twin : Bool} {f : Assoc → Assoc} {s : State} :
    (updAssoc v n twin f s).modes = s.modes := by
  unfold updAssoc
  split <;> rfl

@[simp] theorem usePn_modes {v : VId} {n : NodeId} {twin : Bool} {s : State} : (usePn v n twin s).modes = s.modes := by
  simp [usePn]

@[simp] theorem onPort_modes {v : VId} {n : NodeId} {twin : Bool} {o : BitVec 5 → Output} {s : State} :
    (onPort v n twin o s).modes = s.modes := by
  simp [onPort]

@[simp] theorem sendPacketTo_modes {v : VId} {n : NodeId} {twin : Bool} {dscp : BitVec 6} {entropy : Nat} {qpn : BitVec 12}
    {content : List Byte} {o : BitVec 5 → List Byte → Output} {s : State} :
    (sendPacketTo v n twin dscp entropy qpn content o s).modes = s.modes := by
  unfold sendPacketTo
  split <;> simp

@[simp] theorem sendData_modes {q : BitVec 12} {x : Qp} {d : TxData} {psn : BitVec 32} {entropy : Nat} {again : Bool} {s : State} :
    (sendData q x d psn entropy again s).modes = s.modes := by
  simp [sendData]

@[simp] theorem pumpTx_modes {fuel : Nat} {q : BitVec 12} {s : State} : (pumpTx fuel q s).modes = s.modes := by
  fun_induction pumpTx <;> simp_all +zetaDelta

@[simp] theorem pumpAll_modes {q : BitVec 12} {s : State} : (pumpAll q s).modes = s.modes := by
  simp [pumpAll]

@[simp] theorem sendOn_modes {q : BitVec 12} {viaTwin : Bool} {h : MsgHead} {payload : List Byte} {s : State} :
    (sendOn q viaTwin h payload s).modes = s.modes := by
  unfold sendOn
  split <;> simp

@[simp] theorem sendTo_modes {v : VId} {n : NodeId} {viaTwin : Bool} {h : MsgHead} {payload : List Byte} {o : Output} {s : State} :
    (sendTo v n viaTwin h payload o s).modes = s.modes := by
  unfold sendTo
  split <;> simp

@[simp] theorem takeMsg_modes {m : Msg} {s : State} : (takeMsg m s).modes = s.modes := by rfl

@[simp] theorem takePeer_modes {n : NodeId} {s : State} : (takePeer n s).modes = s.modes := by rfl

@[simp] theorem rejectMsg_modes {v : VId} {sender : NodeId} {q : BitVec 12} {msn : BitVec 24} {st : Status} {s : State} :
    (rejectMsg v sender q msn st s).modes = s.modes := by
  simp [rejectMsg]

/-! ## Machine/Cmd.lean -/

@[simp] theorem updObj_modes {i : BitVec 14} {f : SyncObj → SyncObj} {s : State} : (updObj i f s).modes = s.modes := by
  unfold updObj
  split <;> rfl

@[simp] theorem updRing_modes {r : BitVec 9} {f : Ring → Ring} {s : State} : (updRing r f s).modes = s.modes := by rfl

@[simp] theorem ringError_modes {r : BitVec 9} {cause : Nat} {s : State} : (ringError r cause s).modes = s.modes := by
  simp [ringError]

@[simp] theorem coalesce_modes {r : BitVec 9} {irqNow : Bool} {s : State} : (coalesce r irqNow s).modes = s.modes := by
  simp [coalesce]

@[simp] theorem writeRecord_modes {ring : BitVec 9} {c : Cmd} {reply result : List Byte} {s : State} :
    (writeRecord ring c reply result s).modes = s.modes := by
  simp [writeRecord]

@[simp] theorem sendReply_modes {v : VId} {qpn : BitVec 12} {dest : NodeId} {addr : BitVec 64} {key : BitVec 32}
    {moved : Option NodeId} {bs : List Byte} {s : State} : (sendReply v qpn dest addr key moved bs s).modes = s.modes := by
  simp [sendReply]

@[simp] theorem takeInWith_modes {k : Knobs} {c : Cmd} {reserve : Bool} {s : State} :
    (takeInWith k c reserve s).modes = s.modes := by
  unfold takeInWith
  (repeat' split) <;> rfl

@[simp] theorem takeIn_modes {c : Cmd} {reserve : Bool} {s : State} : (takeIn c reserve s).modes = s.modes := by
  simp [takeIn]

@[simp] theorem retire_modes {c : Cmd} {s : State} : (retire c s).modes = s.modes := by rfl

@[simp] theorem sendResult_modes {fuel : Nat} {v : VId} {q : BitVec 12} {n : NodeId} {addr : BitVec 64} {key : BitVec 32}
    {bs : List Byte} {s : State} : (sendResult fuel v q n addr key bs s).modes = s.modes := by
  induction fuel generalizing addr bs s with
  | zero => rfl
  | succ k ih => simp [sendResult, ih]

@[simp] theorem answer_modes {c : Cmd} {r : Reply} {s : State} : (answer c r s).modes = s.modes := by
  unfold answer
  split <;> simp

@[simp] theorem oweSignal_modes {c : Cmd} {st : Status} {s : State} : (oweSignal c st s).modes = s.modes := by
  simp [oweSignal]

@[simp] theorem completeOnly_modes {c : Cmd} {r : Reply} {s : State} : (completeOnly c r s).modes = s.modes := by
  simp [completeOnly]

@[simp] theorem refuseNew_modes {c : Cmd} {r : Reply} {s : State} : (refuseNew c r s).modes = s.modes := by
  simp [refuseNew]

@[simp] theorem releaseWaiter_modes {w : Waiter} {s : State} : (releaseWaiter w s).modes = s.modes := by
  unfold releaseWaiter
  split <;> simp

@[simp] theorem endWaiter_modes {w : Waiter} {st : Status} {s : State} : (endWaiter w st s).modes = s.modes := by
  unfold endWaiter
  (repeat' split) <;> simp

@[simp] theorem dropWaiter_modes {id : Nat} {s : State} : (dropWaiter id s).modes = s.modes := by rfl

@[simp] theorem releaseList_modes {i : BitVec 14} {ws : List Waiter} {s : State} : (releaseList i ws s).modes = s.modes := by
  induction ws generalizing s with
  | nil => rfl
  | cons w r ih =>
    unfold releaseList
    split <;> simp [ih]

@[simp] theorem releaseWaiters_modes {i : BitVec 14} {s : State} : (releaseWaiters i s).modes = s.modes := by
  simp [releaseWaiters]

@[simp] theorem applySignal_modes {i : BitVec 14} {value : Nat} {who : BitVec 64} {s : State} :
    (applySignal i value who s).modes = s.modes := by
  unfold applySignal
  (repeat' split) <;> simp

@[simp] theorem dropSignal_modes {i : BitVec 14} {who : BitVec 64} {s : State} : (dropSignal i who s).modes = s.modes := by
  simp [dropSignal]

@[simp] theorem signalOrDrop_modes {i : BitVec 14} {value : Nat} {who : BitVec 64} {s : State} :
    (signalOrDrop i value who s).modes = s.modes := by
  simp [signalOrDrop]

@[simp] theorem drainSignals_modes {fuel : Nat} {s : State} : (drainSignals fuel s).modes = s.modes := by
  fun_induction drainSignals <;> simp [*]

@[simp] theorem applyDue_modes {s : State} : (applyDue s).modes = s.modes := by
  simp [applyDue]

@[simp] theorem settleFences_modes {js : List (Nat × Job)} {s : State} : (settleFences js s).modes = s.modes := by
  induction js generalizing s with
  | nil => rfl
  | cons j r ih =>
    unfold settleFences
    split <;> simp_all

@[simp] theorem settleRings_modes {rs : List (BitVec 9 × Ring)} {s : State} : (settleRings rs s).modes = s.modes := by
  fun_induction settleRings <;> simp [*]

@[simp] theorem countRefusal_modes {v : VId} {r : Reply} {s : State} : (countRefusal v r s).modes = s.modes := by
  simp [countRefusal]

@[simp] theorem noteHostDenied_modes {c : Cmd} {s : State} : (noteHostDenied c s).modes = s.modes := by
  simp [noteHostDenied]

@[simp] theorem addWaiter_modes {i : BitVec 14} {who : BitVec 64} {value timeoutUs : Nat} {wf : WaitFor} {s : State} :
    (addWaiter i who value timeoutUs wf s).modes = s.modes := by rfl

@[simp] theorem passWait_modes {i : BitVec 14} {s : State} : (passWait i s).modes = s.modes := by
  simp [passWait]

@[simp] theorem admitHeld_modes {q : BitVec 12} {fuel : Nat} {ready : Bool} {kn : Knobs} {s : State} :
    (admitHeld q fuel ready kn s).modes = s.modes := by
  fun_induction admitHeld <;> simp_all +zetaDelta

@[simp] theorem settleQps_modes {qs : List (BitVec 12)} {s : State} : (settleQps qs s).modes = s.modes := by
  induction qs generalizing s with
  | nil => rfl
  | cons q r ih => simp [settleQps, ih]

@[simp] theorem settle_modes {s : State} : (settle s).modes = s.modes := by
  simp [settle]

@[simp] theorem complete_modes {c : Cmd} {r : Reply} {s : State} : (complete c r s).modes = s.modes := by
  simp [complete]

@[simp] theorem finish_modes {c : Cmd} {b : State} {d : Done} (h : d.state.modes = b.modes) : (finish c b d).modes = b.modes := by
  cases d with
  | now r t => simpa [finish] using fun _ => h
  | later t => exact h

@[simp] theorem asWork_modes {c : Cmd} {s : State} : (asWork c s).modes = s.modes := by
  unfold asWork
  split <;> rfl

@[simp] theorem runCmd_modes {c : Cmd} {body : State → Done} {s : State} (h : ∀ t, (body t).state.modes = t.modes) :
    (runCmd c body s).modes = s.modes := by
  fun_cases runCmd <;> simp +zetaDelta [*]

@[simp] theorem withParams_modes {c : Cmd} {len : Nat} {fails : List (Bool × Nat)} {body : State → Done} {s : State}
    (h : ∀ t, (body t).state.modes = t.modes) : (withParams c len fails body s).state.modes = s.modes := by
  unfold withParams
  split
  · rfl
  · exact h s

@[simp] theorem onNode_modes {f : State → State} {s : State} (h : ∀ t, (f t).modes = t.modes) :
    Leads State.Agree s (onNode f s) := by
  simp [onNode, h]

@[simp] theorem onMsg_modes {m : Msg} {op : Nat} {reads : List Byte → Bool} {f : State → State} {s : State}
    (h : ∀ t, (f t).modes = t.modes) : Leads State.Agree s (onMsg m op reads f s) :=
  onNode_modes fun _ => by simp [h]

@[simp] theorem runVerb_modes {c : Cmd} {body : State → Done} {s : State} (h : ∀ t, (body t).state.modes = t.modes) :
    Leads State.Agree s (runVerb c body s) :=
  onNode_modes fun _ => runCmd_modes h

/-! ## Machine/Dir.lean -/

@[simp] theorem updBank_modes {b : Nat} {f : DirBank → DirBank} {s : State} : (updBank b f s).modes = s.modes := by rfl

@[simp] theorem logPairFull_modes {v : VId} {p : Nat × Nat} {s : State} : (logPairFull v p s).modes = s.modes := by
  simp [logPairFull]

@[simp] theorem settleInsert_modes {b : Nat} {e : DirEntry} {s : State} : (settleInsert b e s).modes = s.modes := by
  fun_cases settleInsert <;> simp +zetaDelta

@[simp] theorem invalidate_modes {b : Nat} {e : DirEntry} {s : State} : (invalidate b e s).modes = s.modes := by
  fun_cases invalidate <;> simp

theorem retireAddr_modes {b a : Nat} {s t : State} (h : retireAddr b a s = some t) : t.modes = s.modes := by
  simp only [retireAddr] at h
  split at h
  · simp [← Option.some.inj h]
  · split at h
    · obtain ⟨_, _, rfl⟩ := Option.map_eq_some_iff.mp h
      simp
    · split at h
      · obtain ⟨_, _, rfl⟩ := Option.map_eq_some_iff.mp h
        simp
      · cases h

@[simp] theorem retireWaiting_modes {s : State} : (retireWaiting s).modes = s.modes := by
  refine foldl_modes fun u x => ?_
  split
  · next h => simp [retireAddr_modes h]
  · rfl

@[simp] theorem beginUpdate_modes {b : Nat} {s : State} : (beginUpdate b s).modes = s.modes := by
  fun_cases beginUpdate <;> simp +zetaDelta

@[simp] theorem queueUpdate_modes {b : Nat} {u : DirUpd} {s : State} : (queueUpdate b u s).modes = s.modes := by
  simp [queueUpdate]

@[simp] theorem noteRefused_modes {e : DirEntry} {st : Status} {s : State} : (noteRefused e st s).modes = s.modes := by
  simp [noteRefused]

@[simp] theorem acceptInsert_modes {e : DirEntry} {s : State} : (acceptInsert e s).modes = s.modes := by
  simp [acceptInsert]

@[simp] theorem deleteEntry_modes {e : DirEntry} {s : State} : (deleteEntry e s).modes = s.modes := by
  simp [deleteEntry]

@[simp] theorem deleteWhere_modes {v : VId} {h : Handle} {p : DirEntry → Bool} {s : State} :
    (deleteWhere v h p s).modes = s.modes := by
  simp [deleteWhere]

@[simp] theorem replaceEntry_modes {new old : DirEntry} {s : State} : (replaceEntry new old s).modes = s.modes := by
  fun_cases replaceEntry <;> simp +zetaDelta

@[simp] theorem buryWhere_modes {v : VId} {h : Handle} {p : DirEntry → Bool} {kind : Nat} {dest : NodeId} {s : State} :
    (buryWhere v h p kind dest s).modes = s.modes := by
  simp [buryWhere]

@[simp] theorem endUpdate_modes {b : Nat} {s : State} : (endUpdate b s).modes = s.modes := by
  unfold endUpdate
  (repeat' split) <;> simp

@[simp] theorem markRebuilding_modes {b : Nat} {s : State} : (markRebuilding b s).modes = s.modes := by rfl

@[simp] theorem noteFalseHit_modes {v : VId} {b a : Nat} {s : State} : (noteFalseHit v b a s).modes = s.modes := by
  simp [noteFalseHit]

@[simp] theorem searchFrom_modes {fuel : Nat} {v : VId} {h : Handle} {key : BitVec 96} {last : Option (Nat × Nat)} {moved : Bool}
    {s : State} : (searchFrom fuel v h key last moved s).2.modes = s.modes := by
  induction fuel generalizing last moved s with
  | zero => rfl
  | succ k ih =>
    unfold searchFrom
    split
    · rfl
    · simp
    · dsimp only
      split
      · simp
      · split
        · split
          · next h => simp [ih, retireAddr_modes h]
          · simp
        · simp [ih]

@[simp] theorem search_modes {v : VId} {h : Handle} {span cls : Nat} {s : State} : (search v h span cls s).2.modes = s.modes := by
  fun_cases search <;> simp +zetaDelta

@[simp] theorem applyDirUpsets_modes {u : Upsets} {s : State} : (applyDirUpsets u s).modes = s.modes := by
  simp [applyDirUpsets]

@[simp] theorem execDirRead_modes {c : Cmd} {bank : BitVec 4} {first : BitVec 12} {count : BitVec 13} {s : State} :
    Leads State.Agree s (execDirRead c bank first count s) := by
  refine runVerb_modes fun t => withParams_modes fun u => ?_
  rfl

@[simp] theorem execDirProbe_modes {c : Cmd} {handle : Handle} {span : SpanIx} {kind : BitVec 8} {u : Upsets} {s : State} :
    Leads State.Agree s (execDirProbe c handle span kind u s) := by
  refine runVerb_modes fun t => withParams_modes fun u => ?_
  dsimp only
  split <;> simp

@[simp] theorem clearDir_modes {v : VId} {s : State} : (clearDir v s).modes = s.modes := by
  simp [clearDir]

@[simp] theorem noteBadShadows_modes {s : State} : (noteBadShadows s).modes = s.modes := by
  simp [noteBadShadows]

@[simp] theorem execDirScrub_modes {u : Upsets} {s : State} : Leads State.Agree s (execDirScrub u s) := by
  simp [execDirScrub]

@[simp] theorem execDirHoleRestore_modes {bank : BitVec 4} {src dst : BitVec 12} {s : State} :
    Leads State.Agree s (execDirHoleRestore bank src dst s) := by
  simp [execDirHoleRestore]

@[simp] theorem execTombstoneExpiry_modes {bank : BitVec 4} {addr : BitVec 12} {s : State} :
    Leads State.Agree s (execTombstoneExpiry bank addr s) := by
  simp [execTombstoneExpiry]

/-! ## Machine/Operands.lean -/

@[simp] theorem writeSlot_modes {g : Geometry} {f : FrameId} {t : Nat} {r : StoredRow} {s : State} :
    (writeSlot g f t r s).modes = s.modes := by
  simp [writeSlot]

@[simp] theorem setTokenCount_modes {f : FrameId} {n : Nat} {s : State} : (setTokenCount f n s).modes = s.modes := by
  simp [setTokenCount]

@[simp] theorem writeHeader_modes {f : FrameId} {h : Header} {s : State} : (writeHeader f h s).modes = s.modes := by
  simp [writeHeader]

@[simp] theorem rebuildKeySum_modes {g : Geometry} {f : FrameId} {n : Nat} {s : State} :
    (rebuildKeySum g f n s).modes = s.modes := by
  simp [rebuildKeySum]

@[simp] theorem clearSlots_modes {g : Geometry} {f : FrameId} {n : Nat} {s : State} : (clearSlots g f n s).modes = s.modes := by
  simp [clearSlots]

/-! ## Machine/Rec.lean -/

@[simp] theorem handPeer_modes {m : PeerMsg} {s : State} : (handPeer m s).modes = s.modes := by
  simp [handPeer]

@[simp] theorem sendPeer_modes {v : VId} {dest : NodeId} {twinLink : Bool} {h : Handle} {span : Nat} {body : PeerBody}
    {job : Option Nat} {s : State} : (sendPeer v dest twinLink h span body job s).modes = s.modes := by
  simp [sendPeer]

@[simp] theorem ackPeer_modes {h : PeerHdr} {st : Status} {fill : Nat} {s : State} : (ackPeer h st fill s).modes = s.modes := by
  simp [ackPeer]

@[simp] theorem leavePeer_modes {h : PeerHdr} {cls : PeerClass} {at_ : Option (BitVec 12 × BitVec 24)} {s : State} :
    (leavePeer h cls at_ s).modes = s.modes := by
  simp [leavePeer]

@[simp] theorem onPeer_modes {p : PeerHdr} {cls : PeerClass} {f : State → State} {s : State} (h : ∀ t, (f t).modes = t.modes) :
    Leads State.Agree s (onPeer p cls f s) :=
  onNode_modes fun _ => by simp [h]

@[simp] theorem onPeerAck_modes {p : PeerHdr} {f : State → State} {s : State} (h : ∀ t, (f t).modes = t.modes) :
    Leads State.Agree s (onPeerAck p f s) :=
  onNode_modes fun _ => by simp [h]

@[simp] theorem resent_modes {a : Nat} {s : State} : (resent a s).modes = s.modes := by rfl

@[simp] theorem linkBroken_modes {a : Nat} {s : State} : (linkBroken a s).modes = s.modes := by
  simp [linkBroken]

@[simp] theorem linkDone_modes {c : Cmd} {body : State → Done} {s : State} (h : ∀ t, (body t).state.modes = t.modes) :
    (linkDone c body s).state.modes = s.modes := by
  fun_cases linkDone <;> simp +zetaDelta [*]

@[simp] theorem linkPeer_modes {h : PeerHdr} {f : State → State} {s : State} (hf : ∀ t, (f t).modes = t.modes) :
    (linkPeer h f s).modes = s.modes := by
  fun_cases linkPeer <;> simp +zetaDelta [*]

@[simp] theorem updSpan_modes {f : FrameId} {g : SpanRec → SpanRec} {s : State} : (updSpan f g s).modes = s.modes := by
  unfold updSpan
  split <;> rfl

@[simp] theorem updSeq_modes {f : FrameId} {g : SeqRec → SeqRec} {s : State} : (updSeq f g s).modes = s.modes := by
  unfold updSeq
  split <;> rfl

theorem newMapFrame_modes {v : VId} {use : FrameUse} {s : State} {r : FrameId × State} (h : newMapFrame v use s = some r) :
    r.2.modes = s.modes := allocAny_modes h

@[simp] theorem toTwin_modes {v : VId} {h : Handle} {span : Nat} {body : PeerBody} {s : State} :
    (toTwin v h span body s).modes = s.modes := by
  simp [toTwin]

@[simp] theorem mirrorSpan_modes {f : FrameId} {s : State} : (mirrorSpan f s).modes = s.modes := by
  unfold mirrorSpan
  split <;> simp

@[simp] theorem mirrorSeq_modes {f : FrameId} {s : State} : (mirrorSeq f s).modes = s.modes := by
  unfold mirrorSeq
  split <;> simp

@[simp] theorem settleSlot_modes {n : Nat} {s : State} : (settleSlot n s).modes = s.modes := by
  simp [settleSlot]

@[simp] theorem settleSlots_modes {s : State} : (settleSlots s).modes = s.modes := by
  simp [settleSlots]

@[simp] theorem removeImage_modes {n : Nat} {s : State} : (removeImage n s).modes = s.modes := by
  unfold removeImage
  split <;> simp

@[simp] theorem dropImage_modes {n : Nat} {s : State} : (dropImage n s).modes = s.modes := by
  unfold dropImage
  split <;> simp

@[simp] theorem sweepImages_modes {s : State} : (sweepImages s).modes = s.modes := by
  simp [sweepImages]

@[simp] theorem releaseLoc_modes {loc : PageLoc} {s : State} : (releaseLoc loc s).modes = s.modes := by
  unfold releaseLoc
  split <;> simp

@[simp] theorem updPage_modes {p : PageRef} {g : Page → Page} {s : State} : (updPage p g s).modes = s.modes := by
  simp [updPage]

@[simp] theorem updShared_modes {p : PageRef} {g : Page → Page} {s : State} : (updShared p g s).modes = s.modes := by
  simp [updShared]

@[simp] theorem releaseSpare_modes {f : FrameId} {s : State} : (releaseSpare f s).modes = s.modes := by
  unfold releaseSpare
  split <;> simp

@[simp] theorem freeMaskSlot_modes {f : FrameId} {slot : Nat} {s : State} : (freeMaskSlot f slot s).modes = s.modes := by
  simp [freeMaskSlot]

@[simp] theorem retireMaskSlot_modes {entry : Nat} {s : State} : (retireMaskSlot entry s).modes = s.modes := by
  simp [retireMaskSlot]

@[simp] theorem dropMaskRecord_modes {f : FrameId} {s : State} : (dropMaskRecord f s).modes = s.modes := by
  unfold dropMaskRecord
  split <;> simp

@[simp] theorem dropMask_modes {f : FrameId} {s : State} : (dropMask f s).modes = s.modes := by
  unfold dropMask
  split <;> simp

@[simp] theorem addLost_modes {v : VId} {h : Handle} {span : Nat} {k : LostKind} {token : Nat} {s : State} :
    (addLost v h span k token s).modes = s.modes := by
  simp [addLost]

@[simp] theorem dropLost_modes {v : VId} {h : Handle} {span : Nat} {s : State} : (dropLost v h span s).modes = s.modes := by rfl

@[simp] theorem rebuildBank_modes {b : Nat} {s : State} : (rebuildBank b s).modes = s.modes := by
  simp [rebuildBank]

@[simp] theorem sweepLeaving_modes {s : State} : (sweepLeaving s).modes = s.modes := by
  simp [sweepLeaving]

@[simp] theorem stopMoved_modes {v : VId} {n : NodeId} {s : State} : (stopMoved v n s).2.modes = s.modes := by rfl

@[simp] theorem findSpanFor_modes {late : Bool} {v : VId} {h : Handle} {span : Nat} {s : State} :
    (findSpanFor late v h span s).2.modes = s.modes := by
  unfold findSpanFor
  extract_lets _ gate r
  have hgate (x : SpanHit × State) (e : gate = some x) : x.2.modes = s.modes := by
    unfold gate at e
    (repeat' split at e) <;> cases e <;> simp +zetaDelta
  have hr : r.2.modes = s.modes := search_modes
  clear_value gate r
  split
  · exact hgate _ rfl
  · (repeat' split) <;> simp +zetaDelta [hr]

@[simp] theorem findSpan_modes {v : VId} {h : Handle} {span : Nat} {s : State} : (findSpan v h span s).2.modes = s.modes := by
  simp [findSpan]

@[simp] theorem findMask_modes {v : VId} {h : Handle} {span : Nat} {s : State} : (findMask v h span s).2.modes = s.modes := by
  fun_cases findMask <;> simp +zetaDelta

@[simp] theorem holdForBank_modes {i : Instr} {c : Cmd} {h : Handle} {s : State} : (holdForBank i c h s).state.modes = s.modes := by
  simp [holdForBank]

@[simp] theorem awaitRecord_modes {v : VId} {h : Handle} {old : NodeId} {s : State} :
    (awaitRecord v h old s).modes = s.modes := by rfl

@[simp] theorem findHome_modes {c : Cmd} {h : Handle} {s : State} : (findHome c h s).2.modes = s.modes := by
  fun_cases findHome <;> simp +zetaDelta

/-! ## Machine/Mask.lean -/

@[simp] theorem kvMaskSetRow_modes {c : Cmd} {handle : Handle} {span : SpanIx} {maskRows : BitVec 14} {initialKind : BitVec 2}
    {s : State} : Leads State.Agree s (kvMaskSetRow c handle span maskRows initialKind s) := by
  unfold kvMaskSetRow
  obtain ⟨refusal, hr⟩ : ∃ f, f = insertRefusal := ⟨_, rfl⟩
  rw [← hr]
  have noted {t : State} {m : Tbl FrameId MaskRec} : ({ t with masks := m } : State).modes = t.modes := rfl
  extract_lets
  refine runVerb_modes (fun _ => linkDone_modes (fun _ => withParams_modes (fun u => ?_)))
  extract_lets v r s
  have hs : s.modes = u.modes := findSpan_modes
  clear_value s
  split
  · exact holdForBank_modes.trans hs
  · exact hs
  · split
    · exact hs
    · split
      · exact hs
      · split
        · exact hs
        · split
          · exact hs
          · next e =>
            have hs₁ := (newMapFrame_modes e).trans hs
            extract_lets _ _ _ s₂ s₃ s₄
            have hs₄ : s₄.modes = u.modes := hbmWrite_modes.trans (hbmWrite_modes.trans (deleteWhere_modes.trans hs₁))
            clear_value s₄
            split
            · exact noteRefused_modes.trans hs
            · exact now_modes.trans <| mirrorSpan_modes.trans (acceptInsert_modes.trans (noted.trans hs₄))

theorem takeMaskSlot_modes {v : VId} {s : State} {x : FrameId × Nat × State} (h : takeMaskSlot v s = some x) :
    x.2.2.modes = s.modes := by
  unfold takeMaskSlot at h
  split at h
  · cases h; rfl
  · obtain ⟨p, hp, rfl⟩ := Option.map_eq_some_iff.mp h
    exact (newMapFrame_modes hp :)

@[simp] theorem kvMaskTileRow_modes {c : Cmd} {handle : Handle} {span : SpanIx} {tileRow : BitVec 6} {tileCol : BitVec 13}
    {tile : List Byte} {s : State} : Leads State.Agree s (kvMaskTileRow c handle span tileRow tileCol tile s) := by
  refine runVerb_modes fun t => linkDone_modes fun u => withParams_modes fun w => ?_
  dsimp only
  split
  · simp
  · simp
  · split
    · simp
    · simp
    · split
      · simp
      · split
        · simp
        · split
          · simp
          · split
            · simp
            · split
              · simp
              · split
                · simp
                · next e => simp [takeMaskSlot_modes e]

@[simp] theorem execKvMaskDrop_modes {c : Cmd} {t : Target} {s : State} : Leads State.Agree s (execKvMaskDrop c t s) := by
  refine runVerb_modes fun t => withParams_modes fun u => ?_
  dsimp only
  (repeat' split) <;> simp

@[simp] theorem execMaskSlotFree_modes {frame : BitVec 24} {slot : BitVec 4} {s : State} :
    Leads State.Agree s (execMaskSlotFree frame slot s) := by
  refine onNode_modes fun t => ?_
  split <;> simp

/-! ## Machine/Service.lean -/

@[simp] theorem sendRecord_modes {m : Msg} {addr : BitVec 64} {moved : Option NodeId} {bs : List Byte} {s : State} :
    (sendRecord m addr moved bs s).modes = s.modes := by
  simp [sendRecord]

@[simp] theorem deliver_modes {id ix : Nat} {bs : List Byte} {s : State} : (deliver id ix bs s).modes = s.modes := by
  unfold deliver
  (repeat' split) <;> simp

@[simp] theorem logCheckFail_modes {v : VId} {d : QDesc} {f : CheckFail} {core page frame : Nat} {s : State} :
    (logCheckFail v d f core page frame s).modes = s.modes := by
  simp [logCheckFail]

@[simp] theorem putFan_modes {id : Nat} {f : Fanout} {s : State} : (putFan id f s).modes = s.modes := by rfl

@[simp] theorem fanFail_modes {id : Nat} {f : Fanout} {first count : Nat} {st : Status} {node : NodeId} {hint : Nat} {s : State} :
    (fanFail id f first count st node hint s).modes = s.modes := by
  simp [fanFail]

@[simp] theorem fanFinish_modes {id : Nat} {s : State} : (fanFinish id s).modes = s.modes := by
  unfold fanFinish
  (repeat' split) <;> simp

@[simp] theorem setSub_modes {id sub : Nat} {a : FanAns} {s : State} : (setSub id sub a s).modes = s.modes := by
  unfold setSub
  split <;> rfl

@[simp] theorem fanAnswer_modes {id sub : Nat} {fp16 : Bool} {h : RecHdr} {rows : List RowPart} {s : State} :
    (fanAnswer id sub fp16 h rows s).modes = s.modes := by
  unfold fanAnswer
  (repeat' split) <;> simp

@[simp] theorem dropReq_modes {id : Nat} {s : State} : (dropReq id s).modes = s.modes := by
  simp [dropReq]

@[simp] theorem endReq_modes {id : Nat} {h : RecHdr} {rows : List RowPart} {s : State} : (endReq id h rows s).modes = s.modes := by
  unfold endReq
  (repeat' split) <;> simp

@[simp] theorem failReq_modes {id : Nat} {st : Status} {hint : Nat} {s : State} : (failReq id st hint s).modes = s.modes := by
  unfold failReq
  split <;> simp

@[simp] theorem failReqs_modes {ids : List Nat} {st : Status} {s : State} : (failReqs ids st s).modes = s.modes := by
  simp [failReqs]

/-! ## Machine/Flash.lean -/

@[simp] theorem updBlock_modes {b : Nat × Nat × Nat} {f : FlashBlock → FlashBlock} {s : State} :
    (updBlock b f s).modes = s.modes := by rfl

@[simp] theorem writeMeta_modes {v : VId} {s : State} : (writeMeta v s).modes = s.modes := by rfl

theorem storeFlash_modes {v : VId} {gen : BitVec 32} {bytes : List Byte} {s : State} {x : Nat × State}
    (h : storeFlash v gen bytes s = some x) : x.2.modes = s.modes := by
  simp only [storeFlash] at h
  split at h
  · cases h
  · simp [← Option.some.inj h]

@[simp] theorem moveFlash_modes {n : Nat} {s : State} : (moveFlash n s).modes = s.modes := by
  unfold moveFlash
  (repeat' split) <;> rfl

@[simp] theorem emptyBlock_modes {b : Nat × Nat × Nat} {s : State} : (emptyBlock b s).modes = s.modes := by
  simp [emptyBlock]

theorem roomForPack_modes {v : VId} {need : Nat} {but : Option FrameId} {s : State} {x : List Extent × State}
    (h : roomForPack v need but s = some x) : x.2.modes = s.modes := by
  unfold roomForPack at h
  split at h
  · cases h; rfl
  · split at h
    · next e =>
      obtain ⟨es, _, rfl⟩ := Option.map_eq_some_iff.mp h
      exact (allocAny_modes e :)
    · cases h

@[simp] theorem writeExtents_modes {a0 : List Extent} {a1 : List Byte} {a2 : State} : (writeExtents a0 a1 a2).modes = a2.modes := by
  fun_induction writeExtents <;> simp [*]

theorem storePack_modes {v : VId} {gen : BitVec 32} {bytes : List Byte} {s : State} {x : Nat × State}
    (h : storePack v gen bytes s = some x) : x.2.modes = s.modes := by
  simp only [storePack] at h
  split at h
  · cases h
  · next e => simp [← Option.some.inj h, roomForPack_modes e]

@[simp] theorem stopTiers_modes {v : VId} {s : State} : (stopTiers v s).modes = s.modes := by rfl

@[simp] theorem countFlashRead_modes {n : Nat} {s : State} : (countFlashRead n s).modes = s.modes := by
  unfold countFlashRead
  split <;> rfl

/-! ## Machine/Image.lean -/

@[simp] theorem releaseCoded_modes {r : SpanRec} {stripe slot : Nat} {loc : PageLoc} {frag : List Byte} {s : State} :
    (releaseCoded r stripe slot loc frag s).modes = s.modes := by
  unfold releaseCoded
  split <;> simp

@[simp] theorem releasePage_modes {r : SpanRec} {p : PageRef} {x : Page} {s : State} : (releasePage r p x s).modes = s.modes := by
  unfold releasePage
  split <;> simp

@[simp] theorem releasePages_modes {f : FrameId} {s : State} : (releasePages f s).modes = s.modes := by
  unfold releasePages
  split <;> simp

/-! ## Machine/Span.lean -/

@[simp] theorem takeSpare_modes {f : FrameId} {s : State} : (takeSpare f s).modes = s.modes := by
  unfold takeSpare
  split
  · rfl
  · split
    · rfl
    · next h => simp [allocFree_modes h]

@[simp] theorem oweSpare_modes {f : FrameId} {s : State} : (oweSpare f s).modes = s.modes := by
  simp [oweSpare]

@[simp] theorem dropLowerSpare_modes {rec : FrameId} {s : State} : (dropLowerSpare rec s).modes = s.modes := by
  unfold dropLowerSpare
  split <;> simp

@[simp] theorem dropSparesBelow_modes {v : VId} {h : Handle} {span : Nat} {s : State} :
    (dropSparesBelow v h span s).modes = s.modes := by
  simp [dropSparesBelow]

@[simp] theorem createSpan_modes {v : VId} {h : Handle} {span : Nat} {g : Geometry} {smooth : List (Nat × Nat × List (BitVec 32))}
    {highest : Bool} {s : State} : (createSpan v h span g smooth highest s).2.modes = s.modes := by
  unfold createSpan
  obtain ⟨refusal, hr⟩ : ∃ f, f = insertRefusal := ⟨_, rfl⟩
  rw [← hr]
  split
  · rfl
  · split
    · rfl
    · next h =>
      split
      · exact noteRefused_modes
      · simp [newMapFrame_modes h]

@[simp] theorem dropSeq_modes {v : VId} {h : Handle} {f : FrameId} {s : State} : (dropSeq v h f s).modes = s.modes := by
  simp [dropSeq]

@[simp] theorem logPlaceFail_modes {v : VId} {h : Handle} {span considered : Nat} {s : State} :
    (logPlaceFail v h span considered s).modes = s.modes := by
  simp [logPlaceFail]

@[simp] theorem assignFailed_modes {v : VId} {h : Handle} {span considered : Nat} {purpose : AssignFor} {s : State} :
    (assignFailed v h span considered purpose s).modes = s.modes := by
  unfold assignFailed
  extract_lets _ s₂ s₃
  have hs₂ : s₂.modes = s.modes := by
    unfold s₂
    split <;> simp +zetaDelta
  have hs₃ : s₃.modes = s.modes := by
    unfold s₃
    split <;> simp [hs₂]
  split <;> simp [hs₂, hs₃]

@[simp] theorem setPlace_modes {v : VId} {h : Handle} {span : Nat} {n : NodeId} {s : State} :
    (setPlace v h span n s).modes = s.modes := by
  unfold setPlace
  split <;> simp

@[simp] theorem assignDone_modes {v : VId} {h : Handle} {purpose : AssignFor} {s : State} :
    (assignDone v h purpose s).modes = s.modes := by
  unfold assignDone
  (repeat' split) <;> simp

@[simp] theorem assignLoop_modes {fuel : Nat} {v : VId} {h : Handle} {span : Nat} {g : Geometry} {left : List NodeId}
    {considered : Nat} {purpose : AssignFor} {s : State} :
    (assignLoop fuel v h span g left considered purpose s).modes = s.modes := by
  induction fuel generalizing span left considered s with
  | zero => exact assignFailed_modes
  | succ k ih =>
    unfold assignLoop
    (repeat' split) <;> simp [ih]

@[simp] theorem assignNext_modes {v : VId} {h : Handle} {f : FrameId} {prefer : List NodeId} {purpose : AssignFor} {s : State} :
    (assignNext v h f prefer purpose s).modes = s.modes := by
  unfold assignNext
  split <;> simp

@[simp] theorem assignAnswer_modes {id : Nat} {ok : Bool} {s : State} : (assignAnswer id ok s).modes = s.modes := by
  unfold assignAnswer
  (repeat' split) <;> simp

@[simp] theorem spanOpenRow_modes {c : Cmd} {p : SpanOpenBlk} {prefer : List NodeId} {s : State} :
    Leads State.Agree s (spanOpenRow c p prefer s) := by
  obtain ⟨refusal, hr⟩ : ∃ f, f = insertRefusal := ⟨_, rfl⟩
  unfold spanOpenRow
  rw [← hr]
  refine runVerb_modes fun t => withParams_modes fun u => ?_
  dsimp only
  split
  · simp
  · simp
  · split
    · simp
    · split
      · simp
      · next e => split <;> simp [newMapFrame_modes e]

@[simp] theorem execSpanCreateRequest_modes {h : PeerHdr} {geo : Geometry} {smooth : List (Nat × Nat × List (BitVec 32))}
    {highest unwilling : Bool} {s : State} : Leads State.Agree s (execSpanCreateRequest h geo smooth highest unwilling s) := by
  simp [execSpanCreateRequest]

@[simp] theorem fillReportRow_modes {h : PeerHdr} {prefer : List NodeId} {s : State} :
    Leads State.Agree s (fillReportRow h prefer s) := by
  refine onPeer_modes fun t => whenFills_modes (fun w => ?_)
  dsimp only
  split <;> simp

@[simp] theorem spanLocateRow_modes {c : Cmd} {t : Target} {prefer : List NodeId} {s : State} :
    Leads State.Agree s (spanLocateRow c t prefer s) := by
  refine runVerb_modes fun t => withParams_modes fun u => ?_
  dsimp only
  (repeat' split) <;> simp

@[simp] theorem stopSpans_modes {v : VId} {h : Handle} {s : State} : (stopSpans v h s).modes = s.modes := by
  simp [stopSpans]

@[simp] theorem closeLocal_modes {v : VId} {h : Handle} {s : State} : (closeLocal v h s).modes = s.modes := by
  refine (foldl_modes fun u x => ?_).trans deleteWhere_modes
  extract_lets s₁
  have hs₁ : s₁.modes = u.modes := by
    unfold s₁
    split <;> simp
  clear_value s₁
  simp +zetaDelta [hs₁]

@[simp] theorem finishClose_modes {v : VId} {h : Handle} {cmds : List Cmd} {s : State} :
    (finishClose v h cmds s).modes = s.modes := by
  unfold finishClose
  (repeat' split) <;> simp

@[simp] theorem closeAck_modes {id : Nat} {n : NodeId} {s : State} : (closeAck id n s).modes = s.modes := by
  unfold closeAck
  split <;> simp

@[simp] theorem beginClose_modes {v : VId} {h : Handle} {ack : Option PeerHdr} {s : State} :
    (beginClose v h ack s).2.modes = s.modes := by
  simp [beginClose]

@[simp] theorem settleCloses_modes {s : State} : (settleCloses s).modes = s.modes := by
  refine foldl_modes fun u x => ?_
  split
  · split
    · rfl
    · dsimp only
      split <;> simp
  · rfl

@[simp] theorem closeDenied_modes {id : Nat} {s : State} : (closeDenied id s).modes = s.modes := by
  unfold closeDenied
  split
  · refine (foldl_modes fun u c => complete_modes).trans ?_
    split <;> simp
  · rfl

@[simp] theorem spanCloseRow_modes {c : Cmd} {t : Target} {s : State} : Leads State.Agree s (spanCloseRow c t s) := by
  refine runVerb_modes fun t => withParams_modes fun u => ?_
  dsimp only
  (repeat' split) <;> simp

@[simp] theorem execSpanCloseTimeout_modes {job : Nat} {s : State} : Leads State.Agree s (execSpanCloseTimeout job s) := by
  refine onNode_modes fun t => ?_
  split <;> simp

@[simp] theorem seqCloseRow_modes {h : PeerHdr} {s : State} : Leads State.Agree s (seqCloseRow h s) := by
  simp [seqCloseRow]

@[simp] theorem moveRecord_modes {v : VId} {handle : Handle} {s : State} : (moveRecord v handle s).modes = s.modes := by
  fun_cases moveRecord <;> simp +zetaDelta

@[simp] theorem execSequenceRecordMove_modes {v : VId} {handle : Handle} {s : State} :
    Leads State.Agree s (execSequenceRecordMove v handle s) := by
  simp [execSequenceRecordMove]

@[simp] theorem seqMoved_modes {id : Nat} {s : State} : (seqMoved id s).modes = s.modes := by
  unfold seqMoved
  split
  · dsimp only
    split
    · simp
    · split
      · simp
      · refine sweepLeaving_modes.trans (updSeq_modes.trans ?_)
        split <;> simp
  · rfl

@[simp] theorem execSequenceRecordArrival_modes {h : PeerHdr} {rec : SeqImage} {s : State} :
    Leads State.Agree s (execSequenceRecordArrival h rec s) := by
  obtain ⟨refusal, hr⟩ : ∃ f, f = insertRefusal := ⟨_, rfl⟩
  unfold execSequenceRecordArrival
  rw [← hr]
  refine onPeer_modes fun t => whenFills_modes fun u => ?_
  dsimp only
  split
  · simp
  · split
    · simp
    · next e => split <;> simp [newMapFrame_modes e]

@[simp] theorem execQuarantineEnd_modes {frame : BitVec 24} {s : State} : Leads State.Agree s (execQuarantineEnd frame s) := by
  simp [execQuarantineEnd]

/-! ## Machine/Hbm.lean -/

@[simp] theorem applyHbmUpsets_modes {u : Upsets} {s : State} : (applyHbmUpsets u s).modes = s.modes := by
  simp [applyHbmUpsets]

@[simp] theorem applyUpsets_modes {u : Upsets} {s : State} : (applyUpsets u s).modes = s.modes := by
  simp [applyUpsets]

@[simp] theorem notAwaiting_modes {p : PageRef} {s : State} : (notAwaiting p s).modes = s.modes := by rfl

@[simp] theorem awaitPage_modes {p : PageRef} {h : Option (List Byte)} {s : State} : (awaitPage p h s).modes = s.modes := by rfl

@[simp] theorem switchAll_modes {old loc : PageLoc} {s : State} : (switchAll old loc s).modes = s.modes := by
  unfold switchAll
  split <;> simp

@[simp] theorem poisonPage_modes {p : PageRef} {c : Poison} {s : State} : (poisonPage p c s).modes = s.modes := by
  unfold poisonPage
  (repeat' split) <;> simp

@[simp] theorem losePage_modes {p : PageRef} {s : State} : (losePage p s).modes = s.modes := by
  unfold losePage
  split <;> simp

theorem rewritePage_done_modes {p : PageRef} {content : List Byte} {s t : State} (h : rewritePage p content s = .done t) :
    t.modes = s.modes := by
  unfold rewritePage at h
  split at h
  · split at h
    · cases h
    · split at h
      · cases h
      · next e =>
        split at h
        · cases h
        · extract_lets _ s₁ _ s₂ s₃ s₄ at h
          have hs₂ : s₂.modes = s.modes := writeHeader_modes.trans (hbmWrite_modes.trans (allocAny_modes e))
          have hs₄ : s₄.modes = s.modes := notAwaiting_modes.trans (setFrameState_modes.trans hs₂)
          clear_value s₁ s₂ s₄
          split at h
          · cases h
          · cases h
            split
            · exact switchAll_modes.trans hs₄
            · exact updPage_modes.trans hs₄
  · cases h

theorem rewritePage_differs_modes {p : PageRef} {content : List Byte} {s t : State} (h : rewritePage p content s = .differs t) :
    t.modes = s.modes := by
  unfold rewritePage at h
  split at h
  · split at h
    · cases h
    · split at h
      · cases h
      · next e =>
        split at h
        · cases h
        · extract_lets _ s₁ _ s₂ s₃ s₄ at h
          have hs₂ : s₂.modes = s.modes := writeHeader_modes.trans (hbmWrite_modes.trans (allocAny_modes e))
          clear_value s₁ s₂ s₄
          split at h
          · cases h
            exact releaseFrame_modes.trans hs₂
          · cases h
  · cases h

@[simp] theorem readFragment_modes {p : PageRef} {v : VId} {stripe : Nat} {n : NodeId × Nat} {s : State} :
    (readFragment p v stripe n s).modes = s.modes := by
  simp [readFragment]

@[simp] theorem askOther_modes {p : PageRef} {hash : List Byte} {s : State} : (askOther p hash s).modes = s.modes := by
  unfold askOther
  (repeat' split) <;> simp

@[simp] theorem pageUnreadable_modes {p : PageRef} {s : State} : (pageUnreadable p s).modes = s.modes := by
  unfold pageUnreadable
  split <;> simp

@[simp] theorem loseMap_modes {f : FrameId} {s : State} : (loseMap f s).modes = s.modes := by
  unfold loseMap
  (repeat' split) <;> simp

@[simp] theorem rebuildMap_modes {f : FrameId} {s : State} : (rebuildMap f s).modes = s.modes := by
  unfold rebuildMap
  split <;> simp

@[simp] theorem loseMask_modes {m : FrameId} {s : State} : (loseMask m s).modes = s.modes := by
  unfold loseMask
  split
  · rfl
  · refine logFrom_modes.trans ?_
    split <;> simp

@[simp] theorem repairReserved_modes {a : Nat} {s : State} : (repairReserved a s).modes = s.modes := by
  simp [repairReserved]

@[simp] theorem handleUe_modes {a : Nat} {s : State} : (handleUe a s).modes = s.modes := by
  fun_cases handleUe <;> simp +zetaDelta

@[simp] theorem noteBad_modes {w : Reader} {o : Nat × RsOut} {s : State} : (noteBad w o s).modes = s.modes := by
  unfold noteBad
  (repeat' split) <;> simp

@[simp] theorem readCodewords_modes {w : Reader} {a n : Nat} {s : State} : (readCodewords w a n s).2.modes = s.modes := by
  simp [readCodewords]

@[simp] theorem handleAll_modes {bad : List Nat} {s : State} : (handleAll bad s).modes = s.modes := by
  simp [handleAll]

@[simp] theorem settleUe_modes {s : State} : (settleUe s).modes = s.modes := by
  simp [settleUe]

@[simp] theorem readRange_modes {w : Reader} {a n : Nat} {s : State} : (readRange w a n s).2.modes = s.modes := by
  simp [readRange]

@[simp] theorem meetLink_modes {u : Upsets} {a : Nat} {s : State} : (meetLink u a s).2.modes = s.modes := by
  simp [meetLink]

@[simp] theorem readFrameNormal_modes {f : FrameId} {s : State} : (readFrameNormal f s).2.modes = s.modes := by
  simp [readFrameNormal]

@[simp] theorem readExtents_modes {es : List Extent} {s : State} : (readExtents es s).2.modes = s.modes := by
  simp [readExtents]

@[simp] theorem readStored_modes {x : Page} {s : State} : (readStored x s).2.modes = s.modes := by
  unfold readStored
  (repeat' split) <;> simp

/-! ## Machine/CodecQueue.lean -/

@[simp] theorem queueItems_modes {cls n : Nat} {p : PageRef} {g : BitVec 32} {slot : Nat} {s : State} :
    (queueItems cls n p g slot s).modes = s.modes := by rfl

@[simp] theorem queueBlocks_modes {cls : Nat} {p : PageRef} {im : List Byte} {s : State} :
    (queueBlocks cls p im s).modes = s.modes := by
  unfold queueBlocks
  split <;> rfl

@[simp] theorem queueCoding_modes {cls : Nat} {p : PageRef} {fmt : Nat} {s : State} :
    (queueCoding cls p fmt s).modes = s.modes := by
  unfold queueCoding
  split <;> rfl

@[simp] theorem endDemotion_modes {p : PageRef} {s : State} : (endDemotion p s).modes = s.modes := by rfl

@[simp] theorem endPromotion_modes {n : Nat} {s : State} : (endPromotion n s).modes = s.modes := by rfl

@[simp] theorem dropFromTiers_modes {down : Bool} {st : Status} {p : PageRef} {s : State} :
    (dropFromTiers down st p s).modes = s.modes := by
  refine foldl_modes fun u x => ?_
  split <;> simp

@[simp] theorem staleBlock_modes {i : CodecItem} {s : State} : (staleBlock i s).modes = s.modes := by
  unfold staleBlock
  (repeat' split) <;> simp

@[simp] theorem serveBlock_modes {k : Nat} {i : CodecItem} {s : State} : (serveBlock k i s).modes = s.modes := by
  simp [serveBlock]

@[simp] theorem serveQueue_modes {cls a0 : Nat} {a1 : State} : (serveQueue cls a0 a1).modes = a1.modes := by
  fun_induction serveQueue <;> simp [*]

@[simp] theorem drainCodec_modes {cls : Nat} {s : State} : (drainCodec cls s).modes = s.modes := by
  simp [drainCodec]

@[simp] theorem readCopy_modes {cls fmt : Nat} {x : Page} {s : State} : (readCopy cls fmt x s).2.modes = s.modes := by
  fun_cases readCopy <;> simp +zetaDelta

@[simp] theorem readHeld_modes {p : PageRef} {s : State} : (readHeld p s).modes = s.modes := by
  fun_cases readHeld <;> simp +zetaDelta

/-! ## Machine/Append.lean -/

@[simp] theorem answerAppend_modes {src : AppendSrc} {d : AppendDesc} {o : AppendOut} {s : State} :
    (answerAppend src d o s).modes = s.modes := by
  unfold answerAppend
  split <;> simp

@[simp] theorem readRepeat_modes {r : SpanRec} {layer head token : Nat} {s : State} :
    (readRepeat r layer head token s).modes = s.modes := by
  unfold readRepeat
  split <;> simp

@[simp] theorem readRepeats_modes {r : SpanRec} {d : AppendDesc} {s : State} : (readRepeats r d s).modes = s.modes := by
  simp [readRepeats]

@[simp] theorem pagePc_modes {v : VId} {used : List Nat} {s : State} : (pagePc v used s).2.modes = s.modes := by
  fun_cases pagePc <;> simp +zetaDelta

theorem openPage_modes {rec : FrameId} {layer head page : Nat} {s : State} {x : FrameId × Bool × State}
    (h : openPage rec layer head page s = some x) : x.2.2.modes = s.modes := by
  simp only [openPage] at h
  split at h
  · cases h
  · split at h
    · simp only [← Option.some.inj h, setFrameState_modes, updSpan_modes, writeHeader_modes, allocIn_modes]
      split <;> simp
    · split at h
      · simp only [← Option.some.inj h]
        split <;> simp
      · cases h

@[simp] theorem freeAppend_modes {job : Nat} {s : State} : (freeAppend job s).modes = s.modes := by rfl

@[simp] theorem writeRow_modes {rec : FrameId} {layer head : Nat} {x : StoredRow} {s : State} :
    (writeRow rec layer head x s).1.modes = s.modes := by
  unfold writeRow
  split
  · rfl
  · extract_lets t page slot opened
    have hopened (y : FrameId × Bool × State) (e : opened = some y) : y.2.2.modes = s.modes := by
      unfold opened at e
      split at e
      · exact openPage_modes e
      · (repeat' split at e) <;> cases e; rfl
    clear_value opened
    split
    · rfl
    · simp [hopened _ rfl]

@[simp] theorem writeRows_modes {rec : FrameId} {layer head : Nat} {xs : List StoredRow} {s : State} :
    (writeRows rec layer head xs s).1.modes = s.modes := by
  induction xs generalizing s with
  | nil => rfl
  | cons x xs ih => simp [writeRows, ih]

@[simp] theorem writeHeads_modes {rec : FrameId} {d : AppendDesc} {r : SpanRec} {hs : List (Nat × List StoredRow)} {s : State} :
    (writeHeads rec d r hs s).1.modes = s.modes := by
  induction hs generalizing s with
  | nil => rfl
  | cons x hs ih => simp [writeHeads, ih]

theorem copyPage_modes {r : SpanRec} {key : Nat × Nat × Nat} {bs : List Byte} {handle : Handle} {shared : Bool} {st : FrameState}
    {s : State} {x : FrameId × State} (h : copyPage r key bs handle shared st s = some x) : x.2.modes = s.modes := by
  simp only [copyPage] at h
  split at h
  · cases h
  · next e => simp [← Option.some.inj h, allocAny_modes e]

@[simp] theorem copyOpen_modes {r : SpanRec} {handle : Handle} {shared : Bool} {ps : List ((Nat × Nat × Nat) × Page)} {s : State} :
    (copyOpen r handle shared ps s).2.modes = s.modes := by
  induction ps generalizing s with
  | nil => rfl
  | cons p ps ih =>
    unfold copyOpen
    split
    · split
      · next h => simp [ih, copyPage_modes h]
      · exact ih
    · exact ih

theorem copyOnWrite_modes {r : SpanRec} {handle : Handle} {s : State} {x : FrameId × State} (h : copyOnWrite r handle s = some x) :
    x.2.modes = s.modes := by
  simp only [copyOnWrite] at h
  split at h
  · cases h
  · next f t e =>
    rw [← Option.some.inj h]
    simp
    refine (foldl_modes fun u x => ?_).trans (newMapFrame_modes e)
    split <;> simp

@[simp] theorem readPages_modes {p : Page → Bool} {f : FrameId} {s : State} : (readPages p f s).modes = s.modes := by
  unfold readPages
  split <;> simp

@[simp] theorem mirrorWhole_modes {f : FrameId} {s : State} : (mirrorWhole f s).modes = s.modes := by
  unfold mirrorWhole
  extract_lets s₁
  have hs₁ : s₁.modes = s.modes := by
    unfold s₁
    split <;> simp
  split <;> simp [hs₁]

@[simp] theorem takeStripe_modes {v : VId} {page : Option PageRef} {t0 t1 : BitVec 32} {s : State} :
    (takeStripe v page t0 t1 s).modes = s.modes := by
  simp [takeStripe]

@[simp] theorem contribute_modes {p : PageRef} {s : State} : (contribute p s).modes = s.modes := by
  fun_cases contribute <;> simp +zetaDelta

@[simp] theorem contributeAll_modes {f : FrameId} {s : State} : (contributeAll f s).modes = s.modes := by
  unfold contributeAll
  split <;> simp

@[simp] theorem afterRows_modes {rec : FrameId} {d : AppendDesc} {s : State} : (afterRows rec d s).modes = s.modes := by
  unfold afterRows
  split
  · rfl
  · refine dropLowerSpare_modes.trans ?_
    split
    · dsimp only
      (repeat' split) <;> simp
    · rfl

@[simp] theorem applyRows_modes {src : AppendSrc} {d : AppendDesc} {rec : FrameId} {r : SpanRec} {shared : Bool}
    {rows : List (List StoredRow)} {cmp : List (Nat × Nat × Compared)} {s : State} :
    (applyRows src d rec r shared rows cmp s).modes = s.modes := by
  unfold applyRows
  extract_lets cow target
  have htarget (x : FrameId × State) (e : target = some x) : x.2.modes = s.modes := by
    unfold target at e
    split at e
    · exact copyOnWrite_modes e
    · cases e; rfl
  clear_value target
  split
  · simp
  · simp [htarget _ rfl]

@[simp] theorem linkFailed_modes {f : FrameId} {s : State} : (linkFailed f s).modes = s.modes := by
  simp [linkFailed]

@[simp] theorem applyLinked_modes {src : AppendSrc} {d : AppendDesc} {rec : FrameId} {r : SpanRec} {shared : Bool}
    {rows : List (List StoredRow)} {cmp : List (Nat × Nat × Compared)} {links : Nat} {s : State} :
    (applyLinked src d rec r shared rows cmp links s).modes = s.modes := by
  simp [applyLinked]

@[simp] theorem sendSync_modes {src : AppendSrc} {bs : List Byte} {d : AppendDesc} {rec : FrameId} {r : SpanRec} {k : Knobs}
    {links : Nat} {msgs : List (NodeId × Bool × PeerBody)} {s : State} :
    (sendSync src bs d rec r k links msgs s).modes = s.modes := by
  simp [sendSync]

@[simp] theorem waitForLag_modes {src : AppendSrc} {bs : List Byte} {d : AppendDesc} {rec : FrameId} {k : Knobs} {links : Nat}
    {s : State} : (waitForLag src bs d rec k links s).modes = s.modes := by rfl

@[simp] theorem readNeeded_modes {rec : FrameId} {r : SpanRec} {d : AppendDesc} {cow : Bool} {s : State} :
    (readNeeded rec r d cow s).modes = s.modes := by
  simp [readNeeded]

@[simp] theorem appendChecked.appendMirror_modes {src : AppendSrc} {bs : List Byte} {d : AppendDesc} {rec : FrameId} {r : SpanRec}
    {shared : Bool} {k : Knobs} {mirrored : Bool} {rows cmp n} {s : State} :
    (appendChecked.appendMirror src bs d rec r shared k mirrored rows cmp n s).modes = s.modes := by
  unfold appendChecked.appendMirror
  extract_lets
  split
  · simp
  · split
    · simp
    · split
      · simp
      · simp
        refine foldl_modes fun u x => ?_
        split <;> simp

@[simp] theorem appendChecked_modes {src : AppendSrc} {bs : List Byte} {d : AppendDesc} {rec : FrameId} {r : SpanRec}
    {shared : Bool} {k : Knobs} {mirrored : Bool} {u : Upsets} {s : State} :
    (appendChecked src bs d rec r shared k mirrored u s).modes = s.modes := by
  fun_cases appendChecked <;> simp +zetaDelta

@[simp] theorem appendFrom_modes {src : AppendSrc} {i : Instr} {bs : List Byte} {k : Knobs} {mirrored : Bool} {order : Option Nat}
    {u : Upsets} {s : State} : (appendFrom src i bs k mirrored order u s).modes = s.modes := by
  fun_cases appendFrom <;> simp +zetaDelta

@[simp] theorem appendMsgRow_modes {m : Msg} {payload : List Byte} {u : Upsets} {s : State} :
    Leads State.Agree s (appendMsgRow m payload u s) := by
  unfold appendMsgRow
  split <;> simp

@[simp] theorem kvAppendRow_modes {c : Cmd} {payload : List Byte} {u : Upsets} {s : State} :
    Leads State.Agree s (kvAppendRow c payload u s) := by
  refine runVerb_modes fun t => ?_
  split <;> simp

@[simp] theorem execSpareReplenish_modes {s : State} : Leads State.Agree s (execSpareReplenish s) := by
  refine onNode_modes fun t => ?_
  split <;> simp

@[simp] theorem samplePage_modes {fmt : Nat} {payload : List Byte} {s : State} : (samplePage fmt payload s).modes = s.modes := by
  simp [samplePage]

@[simp] theorem sealPage_modes {p : PageRef} {s : State} : (sealPage p s).modes = s.modes := by
  unfold sealPage
  (repeat' split) <;> simp

@[simp] theorem pageSealRow_modes {s : State} : Leads State.Agree s (pageSealRow s) := by
  refine onNode_modes fun t => ?_
  split <;> simp

@[simp] theorem holdLayer_modes {v : VId} {h : Handle} {l hd : Nat} {s : State} : (holdLayer v h l hd s).2.modes = s.modes := by rfl

@[simp] theorem freeLayer_modes {v : VId} {h : Handle} {l hd : Nat} {s : State} : (freeLayer v h l hd s).modes = s.modes := by rfl

@[simp] theorem installSigma_modes {v : VId} {h : Handle} {l hd : Nat} {sigma : List (BitVec 32)} {s : State} :
    (installSigma v h l hd sigma s).modes = s.modes := by
  simp [installSigma]

@[simp] theorem smoothEnd_modes {v : VId} {h : Handle} {l hd : Nat} {asked : List NodeId} {sigma : Option (List (BitVec 32))}
    {s : State} : (smoothEnd v h l hd asked sigma s).modes = s.modes := by
  refine (foldl_modes fun u n => sendPeer_modes).trans (freeLayer_modes.trans ?_)
  split
  · dsimp only
    split <;> simp
  · rfl

@[simp] theorem execKvSmooth_modes {c : Cmd} {handle : Handle} {layer : BitVec 16} {head : BitVec 8} {sigma : List (BitVec 32)}
    {s : State} : Leads State.Agree s (execKvSmooth c handle layer head sigma s) := by
  refine runVerb_modes fun t => ?_
  dsimp only
  (repeat' split) <;> simp

@[simp] theorem smoothReport_modes {id : Nat} {n : NodeId} {fill : Nat} {s : State} :
    (smoothReport id n fill s).modes = s.modes := by
  unfold smoothReport
  split <;> simp

@[simp] theorem execSmoothHold_modes {h : PeerHdr} {layer : BitVec 16} {head : BitVec 8} {s : State} :
    Leads State.Agree s (execSmoothHold h layer head s) := by
  simp [execSmoothHold]

@[simp] theorem copyShared_modes {r : SpanRec} {handle : Handle} {ps : List ((Nat × Nat × Nat) × Page)} {s : State} :
    (copyShared r handle ps s).2.modes = s.modes := by
  induction ps generalizing s with
  | nil => rfl
  | cons p ps ih =>
    unfold copyShared
    split
    · extract_lets
      split
      · exact ih
      · next h => simp [ih, copyPage_modes h]
    · exact ih

@[simp] theorem whenEntered_modes {c : Cmd} {e : DirEntry} {s : State} : (whenEntered c e s).modes = s.modes := by
  simp [whenEntered]

@[simp] theorem spanAliasRow_modes {c : Cmd} {p : AliasBlk} {s : State} : Leads State.Agree s (spanAliasRow c p s) := by
  obtain ⟨refusal, hr⟩ : ∃ f, f = insertRefusal := ⟨_, rfl⟩
  unfold spanAliasRow
  rw [← hr]
  refine runVerb_modes fun t => linkDone_modes fun u => withParams_modes fun w => ?_
  extract_lets
  split
  · simp +zetaDelta
  · exact findSpan_modes
  · extract_lets s₁
    have hs₁ : s₁.modes = w.modes := by simp +zetaDelta
    split
    · exact findSpan_modes
    · extract_lets
      clear_value s₁
      split
      · exact hs₁
      · split
        · exact hs₁
        · split
          · exact hs₁
          · split
            · simp +zetaDelta [hs₁]
            · split
              · simp [hs₁]
              · split
                · simp [hs₁]
                · split
                  · simp [hs₁]
                  · next e => simp [newMapFrame_modes e, hs₁]

/-! ## Machine/Runner.lean -/

@[simp] theorem updRunner_modes {stack pc : Nat} {f : Runner → Runner} {s : State} :
    (updRunner stack pc f s).modes = s.modes := by rfl

@[simp] theorem updStack_modes {n : Nat} {f : Stack → Stack} {s : State} : (updStack n f s).modes = s.modes := by rfl

@[simp] theorem updRnStatus_modes {stack pc : Nat} {tag : BitVec 8} {f : RnStatus → RnStatus} {s : State} :
    (updRnStatus stack pc tag f s).modes = s.modes := by rfl

@[simp] theorem issueOwed_modes {stack pc : Nat} {s : State} : (issueOwed stack pc s).modes = s.modes := by
  simp [issueOwed]

@[simp] theorem setSeq_modes {stack pc : Nat} {tag : BitVec 8} {q : RnSeq} {s : State} :
    (setSeq stack pc tag q s).modes = s.modes := by rfl

@[simp] theorem failSeq_modes {stack pc : Nat} {tag : BitVec 8} {mark : RnStatus → RnStatus} {s : State} :
    (failSeq stack pc tag mark s).modes = s.modes := by
  unfold failSeq
  dsimp only
  split
  · simp
  · refine issueOwed_modes.trans ?_
    split <;> simp

@[simp] theorem meetReg_modes {e : RegUpset} {s : State} : (meetReg e s).modes = s.modes := by
  simp [meetReg]

@[simp] theorem meetRegs_modes {stack : Nat} {k : RnCmd} {u : Upsets} {s : State} : (meetRegs stack k u s).2.modes = s.modes := by
  simp [meetRegs]

@[simp] theorem onRunner_modes {op : Nat} {stack : BitVec 3} {k : RnCmd} {i : Instr} {f : State → State} {s : State}
    (h : ∀ t, (f t).modes = t.modes) : Leads State.Agree s (onRunner op stack k i f s) := by
  unfold onRunner
  split
  · exact .fault
  · exact onNode_modes fun _ => by simp [h]

@[simp] theorem stepDone_modes {stack : Nat} {k : RnCmd} {s : State} : (stepDone stack k s).modes = s.modes := by rfl

@[simp] theorem readSweep_modes {w : Reader} {stack : Nat} {k : RnCmd} {s : State} : (readSweep w stack k s).2.modes = s.modes := by
  simp [readSweep]

@[simp] theorem rnReadStep_modes {stack : Nat} {k : RnCmd} {u : Upsets} {f : List Byte → State → State} {s : State}
    (h : ∀ p t, (f p t).modes = t.modes) : (rnReadStep stack k u f s).modes = s.modes := by
  unfold rnReadStep
  simp [*]

@[simp] theorem execRnNop_modes {stack : BitVec 3} {k : RnCmd} {s : State} : Leads State.Agree s (execRnNop stack k s) := by
  simp [execRnNop]

@[simp] theorem execRnQload_modes {stack : BitVec 3} {k : RnCmd} {rows : List (List (BitVec 32))} {s : State} :
    Leads State.Agree s (execRnQload stack k rows s) := by
  simp [execRnQload]

@[simp] theorem execRnScale_modes {stack : BitVec 3} {k : RnCmd} {u : Upsets} {s : State} :
    Leads State.Agree s (execRnScale stack k u s) := by
  simp [execRnScale]

@[simp] theorem execRnScore_modes {stack : BitVec 3} {k : RnCmd} {u : Upsets} {s : State} :
    Leads State.Agree s (execRnScore stack k u s) := by
  refine onRunner_modes fun t => ?_
  simp

@[simp] theorem execRnWload_modes {stack : BitVec 3} {k : RnCmd} {s : State} : Leads State.Agree s (execRnWload stack k s) := by
  simp [execRnWload]

@[simp] theorem execRnWeigh_modes {stack : BitVec 3} {k : RnCmd} {u : Upsets} {s : State} :
    Leads State.Agree s (execRnWeigh stack k u s) := by
  refine onRunner_modes fun t => ?_
  simp

@[simp] theorem endContext_modes {stack pc c : Nat} {tag : BitVec 8} {s : State} :
    (endContext stack pc c tag s).modes = s.modes := by
  unfold endContext
  split <;> simp

@[simp] theorem takeDrain_modes {stack : Nat} {k : RnCmd} {rows : List (List (BitVec 32))} {s : State} :
    (takeDrain stack k rows s).modes = s.modes := by
  fun_cases takeDrain <;> simp

@[simp] theorem execRnDrain_modes {stack : BitVec 3} {k : RnCmd} {s : State} : Leads State.Agree s (execRnDrain stack k s) := by
  simp [execRnDrain]

@[simp] theorem startWrite_modes {stack : Nat} {k : RnCmd} {s : State} : (startWrite stack k s).modes = s.modes := by
  simp [startWrite]

@[simp] theorem writeSweep_modes {stack : Nat} {k : RnCmd} {a : Nat} {bs : List Byte} {u : Upsets} {s : State} :
    (writeSweep stack k a bs u s).modes = s.modes := by
  simp [writeSweep]

@[simp] theorem rnWriteStep_modes {stack : Nat} {k : RnCmd} {u : Upsets} {f : State → State} {s : State}
    (h : ∀ t, (f t).modes = t.modes) : (rnWriteStep stack k u f s).modes = s.modes := by
  unfold rnWriteStep
  simp [*]

@[simp] theorem execRnFill_modes {stack : BitVec 3} {k : RnCmd} {u : Upsets} {s : State} :
    Leads State.Agree s (execRnFill stack k u s) := by
  simp [execRnFill]

@[simp] theorem execRnCopy_modes {stack : BitVec 3} {k : RnCmd} {u : Upsets} {s : State} :
    Leads State.Agree s (execRnCopy stack k u s) := by
  simp [execRnCopy]

@[simp] theorem noteScrub_modes {a n : Nat} {s : State} : (noteScrub a n s).modes = s.modes := by
  fun_cases noteScrub <;> simp +zetaDelta

@[simp] theorem scrubRange_modes {a n : Nat} {s : State} : (scrubRange a n s).2.modes = s.modes := by
  simp [scrubRange]

@[simp] theorem execRnScrub_modes {stack : BitVec 3} {k : RnCmd} {u : Upsets} {s : State} :
    Leads State.Agree s (execRnScrub stack k u s) := by
  simp [execRnScrub]

@[simp] theorem execRnAbort_modes {stack : BitVec 3} {k : RnCmd} {s : State} : Leads State.Agree s (execRnAbort stack k s) := by
  refine onRunner_modes fun t => ?_
  dsimp only
  split <;> simp

@[simp] theorem endWrites_modes {stack pc : Nat} {tag : BitVec 8} {s : State} : (endWrites stack pc tag s).modes = s.modes := by
  unfold endWrites
  split <;> simp

@[simp] theorem execRnStatus_modes {stack : BitVec 3} {k : RnCmd} {s : State} : Leads State.Agree s (execRnStatus stack k s) := by
  simp [execRnStatus]

@[simp] theorem execRefreshDue_modes {stack : BitVec 3} {pc : BitVec 5} {s : State} :
    Leads State.Agree s (execRefreshDue stack pc s) := by
  simp [execRefreshDue]

@[simp] theorem countLevel_modes {n : Nat} {s : State} : (countLevel n s).modes = s.modes := by
  fun_cases countLevel <;> simp

@[simp] theorem meetLevel_modes {n level : Nat} {s : State} : (meetLevel n level s).modes = s.modes := by rfl

@[simp] theorem setLevel_modes {n level : Nat} {s : State} : (setLevel n level s).modes = s.modes := by
  simp [setLevel]

@[simp] theorem runHeldStep_modes {i : Instr} {s : State} : (runHeldStep i s).modes = s.modes := by
  unfold runHeldStep
  extract_lets go
  have went {r : Res} (h : Leads State.Agree s r) : (go r).modes = s.modes := by
    unfold go
    split
    · exact h _ rfl
    · rfl
  split <;> simp [went]

@[simp] theorem resumeSteps_modes {n : Nat} {s : State} : (resumeSteps n s).modes = s.modes := by
  simp [resumeSteps]

@[simp] theorem sensorRow_modes {stack : BitVec 3} {temp : ℤ} {power : Nat} {quietMs : Bool} {s : State} :
    Leads State.Agree s (sensorRow stack temp power quietMs s) := by
  simp [sensorRow]

/-! ## Machine/Query.lean -/

@[simp] theorem findSpans_modes {snap : Option Snapshot} {v : VId} {h : Handle} {ns : List Nat} {s : State} :
    (findSpans snap v h ns s).2.modes = s.modes := by
  fun_induction findSpans <;> simp_all +zetaDelta

@[simp] theorem findMasks_modes {snap : Option Snapshot} {v : VId} {h : Handle} {ns : List Nat} {s : State} :
    (findMasks snap v h ns s).2.modes = s.modes := by
  induction ns generalizing s with
  | nil => rfl
  | cons n r ih =>
    unfold findMasks
    extract_lets q
    have hq : q.2.modes = s.modes := by
      unfold q
      split <;> simp
    split
    · exact ih.trans hq
    · exact hq

@[simp] theorem startRebuilds_modes {ps : List (ReqPage × Page)} {s : State} : (startRebuilds ps s).modes = s.modes := by
  simp [startRebuilds]

@[simp] theorem checkPages_modes {dest : ReqDest} {v : VId} {d : QDesc} {rows : List (List F32)} {k : Knobs} {ep : BitVec 16}
    {stall : Nat} {snap : Option Snapshot} {spans : List (Nat × FrameId)} {masks : List (Nat × FrameId × Nat)} {s : State} :
    (checkPages dest v d rows k ep stall snap spans masks s).2.modes = s.modes := by
  fun_cases checkPages <;> simp +zetaDelta

@[simp] theorem checkDesc_modes {dest : ReqDest} {v : VId} {d : QDesc} {rows : List (List F32)} {k : Knobs} {ep : BitVec 16}
    {stall : Nat} {snap : Option Snapshot} {s : State} : (checkDesc dest v d rows k ep stall snap s).2.modes = s.modes := by
  fun_cases checkDesc <;> simp +zetaDelta

@[simp] theorem enterPromotion_modes {p : PageRef} {n fmt : Nat} {digest : List Byte} {ids : List Nat} {bypass : Bool} {s : State} :
    (enterPromotion p n fmt digest ids bypass s).modes = s.modes := by
  simp [enterPromotion]

@[simp] theorem startPromotion_modes {id fmt : Nat} {v : VId} {p : ReqPage} {n : Nat} {s : State} :
    (startPromotion id fmt v p n s).modes = s.modes := by
  unfold startPromotion
  split <;> simp

@[simp] theorem dispatchPage_modes {id : Nat} {die : Bool} {fmt : Nat} {v : VId} {p : ReqPage} {s : State} :
    (dispatchPage id die fmt v p s).2.modes = s.modes := by
  unfold dispatchPage
  split <;> simp

@[simp] theorem dispatchPages_modes {id : Nat} {die : Bool} {fmt : Nat} {v : VId} {ps : List ReqPage} {s : State} :
    (dispatchPages id die fmt v ps s).2.modes = s.modes := by
  induction ps generalizing s with
  | nil => rfl
  | cons p r ih => simp [dispatchPages, ih]

@[simp] theorem fetchPage_modes {fmt : Nat} {p : ReqPage} {s : State} : (fetchPage fmt p s).2.2.modes = s.modes := by
  fun_cases fetchPage <;> simp +zetaDelta

@[simp] theorem fetchPages_modes {fmt : Nat} {ps : List ReqPage} {s : State} : (fetchPages fmt ps s).2.modes = s.modes := by
  fun_induction fetchPages <;> simp_all +zetaDelta

@[simp] theorem pushHistory_modes {d : QDesc} {a : F32} {s : State} : (pushHistory d a s).modes = s.modes := by rfl

@[simp] theorem putReq_modes {id : Nat} {q : AttnReq} {s : State} : (putReq id q s).modes = s.modes := by rfl

@[simp] theorem wakeEngines_modes {q : AttnReq} {s : State} : (wakeEngines q s).modes = s.modes := by rfl

@[simp] theorem imageFailed_modes {p : ReqPage} {s : State} : (imageFailed p s).modes = s.modes := by
  unfold imageFailed
  split <;> simp

@[simp] theorem failFetch_modes {id : Nat} {p : ReqPage} {e : Fetch} {bad : List Nat} {s : State} :
    (failFetch id p e bad s).modes = s.modes := by
  simp [failFetch]

@[simp] theorem beginReq_modes {id : Nat} {q : AttnReq} {s : State} : (beginReq id q s).modes = s.modes := by
  fun_cases beginReq <;> simp +zetaDelta

@[simp] theorem tryReserve_modes {id : Nat} {s : State} : (tryReserve id s).modes = s.modes := by
  unfold tryReserve
  split <;> simp

@[simp] theorem reserveTo_modes {id : Nat} {s : State} : (reserveTo id s).modes = s.modes := by
  unfold reserveTo
  split <;> simp

@[simp] theorem dispatchReq_modes {id : Nat} {s : State} : (dispatchReq id s).modes = s.modes := by
  unfold dispatchReq
  split <;> simp

@[simp] theorem refuseDesc_modes {dest : ReqDest} {v : VId} {d : QDesc} {st : Status} {node : Option NodeId} {hint : Nat}
    {s : State} : (refuseDesc dest v d st node hint s).modes = s.modes := by
  unfold refuseDesc
  split <;> simp

@[simp] theorem holdDesc_modes {id : Nat} {dest : ReqDest} {v : VId} {d : QDesc} {rows : List (List F32)} {k : Knobs}
    {ep : BitVec 16} {stall : Nat} {snap : Snapshot} {s : State} :
    (holdDesc id dest v d rows k ep stall snap s).modes = s.modes := by rfl

@[simp] theorem admitDesc_modes {id : Nat} {dest : ReqDest} {v : VId} {d : QDesc} {rows : List (List F32)} {k : Knobs}
    {ep : BitVec 16} {stall : Nat} {snap : Option Snapshot} {s : State} :
    (admitDesc id dest v d rows k ep stall snap s).modes = s.modes := by
  fun_cases admitDesc <;> simp +zetaDelta

@[simp] theorem takeId_modes {s : State} : (takeId s).2.modes = s.modes := by rfl

@[simp] theorem dispatchBatch_modes {b : Nat} {s : State} : (dispatchBatch b s).modes = s.modes := by
  simp [dispatchBatch]

@[simp] theorem serveDescs_modes {batch : Nat} {v : VId} {k : Knobs} {ep : BitVec 16} {epOk : Bool} {stall : Nat}
    {ds : List (QDesc × List Byte)} {s : State} : (serveDescs batch v k ep epOk stall ds s).modes = s.modes := by
  simp [serveDescs]

@[simp] theorem openBatch_modes {src : QuerySrc} {v : VId} {count : Nat} {s : State} :
    (openBatch src v count s).2.modes = s.modes := by rfl

@[simp] theorem execAttnQuery_modes {c : Cmd} {payload : List Byte} {u : Upsets} {s : State} :
    Leads State.Agree s (execAttnQuery c payload u s) := by
  refine runVerb_modes fun t => ?_
  split <;> simp

@[simp] theorem refuseQuery_modes {m : Msg} {payload : List Byte} {st : Status} {s : State} :
    (refuseQuery m payload st s).modes = s.modes := by
  unfold refuseQuery
  simp

@[simp] theorem fenceDescs_modes {m : Msg} {stride : Nat} {ds : List (QDesc × List Byte)} {s : State} :
    (fenceDescs m stride ds s).modes = s.modes := by
  simp [fenceDescs]

@[simp] theorem execQuery_modes {m : Msg} {payload : List Byte} {u : Upsets} {s : State} :
    Leads State.Agree s (execQuery m payload u s) := by
  unfold execQuery
  split <;> simp

@[simp] theorem execAttnReserve_modes {req : Nat} {s : State} : Leads State.Agree s (execAttnReserve req s) := by
  simp [execAttnReserve]

@[simp] theorem execAttnAdmitTimeout_modes {req : Nat} {s : State} : Leads State.Agree s (execAttnAdmitTimeout req s) := by
  refine onNode_modes fun t => ?_
  split <;> simp

@[simp] theorem execPromoteStallExpiry_modes {req : Nat} {s : State} : Leads State.Agree s (execPromoteStallExpiry req s) := by
  refine onNode_modes fun t => ?_
  split <;> simp

/-! ## Machine/Attend.lean -/

@[simp] theorem noteSeqs_modes {id stack pc n : Nat} {ue : Bool} {s : State} : (noteSeqs id stack pc n ue s).modes = s.modes := by
  simp [noteSeqs]

@[simp] theorem readAll_modes {id : Nat} {rs : List PassRead} {s : State} : (readAll id rs s).2.modes = s.modes := by
  induction rs generalizing s with
  | nil => rfl
  | cons x r ih =>
    obtain ⟨w, a, n⟩ := x
    unfold readAll
    cases w <;> simp [ih]

@[simp] theorem meetPass_modes {id : Nat} {q : AttnReq} {value : Bool} {ps : List ReqPage} {u : Upsets} {s : State} :
    (meetPass id q value ps u s).2.2.modes = s.modes := by
  simp [meetPass]

@[simp] theorem failPass_modes {id : Nat} {bad : List Nat} {s : State} : (failPass id bad s).modes = s.modes := by
  simp [failPass]

@[simp] theorem overflowReq_modes {id : Nat} {q : AttnReq} {s : State} : (overflowReq id q s).modes = s.modes := by
  simp [overflowReq]

@[simp] theorem chooseExponent_modes {q : AttnReq} {a : F32} {sc : List (List (List (Nat × F32)))} {s : State} :
    (chooseExponent q a sc s).2.modes = s.modes := by
  simp [chooseExponent]

@[simp] theorem putWeights_modes {id : Nat} {v : PageView} {ws : List (List F32)} {s : State} :
    (putWeights id v ws s).modes = s.modes := by
  unfold putWeights
  split <;> simp

@[simp] theorem endKeyPass_modes {id : Nat} {q : AttnReq} {s : State} : (endKeyPass id q s).modes = s.modes := by
  simp [endKeyPass]

@[simp] theorem expandFirst_modes {req : Nat} {s : State} : (expandFirst req s).modes = s.modes := by
  simp [expandFirst]

@[simp] theorem execKeyPassComplete_modes {req : Nat} {u : Upsets} {s : State} :
    Leads State.Agree s (execKeyPassComplete req u s) := by
  refine onNode_modes fun t => ?_
  dsimp only
  split <;> simp

@[simp] theorem endReaders_modes {p : PageRef} {x : Page} {hash : List Byte} {s : State} :
    (endReaders p x hash s).modes = s.modes := by
  refine (foldl_modes fun u x => ?_).trans bump_modes
  split <;> simp

@[simp] theorem digestMismatch_modes {p : PageRef} {hash : List Byte} {s : State} : (digestMismatch p hash s).modes = s.modes := by
  unfold digestMismatch
  split <;> simp

@[simp] theorem produce_modes {id : Nat} {q : AttnReq} {rows : List RowPart} {s : State} :
    (produce id q rows s).modes = s.modes := by
  fun_cases produce <;> simp +zetaDelta

@[simp] theorem execValuePassComplete_modes {req : Nat} {u : Upsets} {s : State} :
    Leads State.Agree s (execValuePassComplete req u s) := by
  refine onNode_modes fun t => ?_
  dsimp only
  split <;> simp

@[simp] theorem execSegmentComplete_modes {req : Nat} {u : Upsets} {s : State} :
    Leads State.Agree s (execSegmentComplete req u s) := by
  refine onNode_modes fun t => ?_
  split <;> simp

@[simp] theorem finishDie_modes {id : Nat} {q : AttnReq} {s : State} : (finishDie id q s).modes = s.modes := by
  simp [finishDie]

@[simp] theorem execDieBlockDone_modes {req page : Nat} {u : Upsets} {s : State} :
    Leads State.Agree s (execDieBlockDone req page u s) := by
  refine onNode_modes fun t => ?_
  dsimp only
  (repeat' split) <;> simp

/-! ## Machine/Port.lean -/

@[simp] theorem updPort_modes {p : BitVec 5} {f : Port → Port} {s : State} : (updPort p f s).modes = s.modes := by rfl

@[simp] theorem execPortLinkUp_modes {port : BitVec 5} {s : State} : Leads State.Agree s (execPortLinkUp port s) := by
  simp [execPortLinkUp]

@[simp] theorem execPortLinkDown_modes {port : BitVec 5} {s : State} : Leads State.Agree s (execPortLinkDown port s) := by
  simp [execPortLinkDown]

@[simp] theorem execHelloSend_modes {port : BitVec 5} {s : State} : Leads State.Agree s (execHelloSend port s) := by
  simp [execHelloSend]

@[simp] theorem execHello_modes {port : BitVec 5} {p : HelloPayload} {s : State} : Leads State.Agree s (execHello port p s) := by
  simp [execHello]

@[simp] theorem execNeighbourExpiry_modes {port : BitVec 5} {s : State} : Leads State.Agree s (execNeighbourExpiry port s) := by
  simp [execNeighbourExpiry]

@[simp] theorem takeMacsec_modes {v : VId} {twin : Bool} {sender : NodeId} {an : BitVec 2} {low : Nat} {icvOk : Bool}
    {k : State → State} {s : State} (h : ∀ t, (k t).modes = t.modes) :
    (takeMacsec v twin sender an low icvOk k s).modes = s.modes := by
  unfold takeMacsec
  split <;> simp [*]

@[simp] theorem forwardFrame_modes {v : VId} {dst : NodeId} {udpSrc : BitVec 16} {frame : List Byte} {s : State} :
    (forwardFrame v dst udpSrc frame s).modes = s.modes := by
  fun_cases forwardFrame <;> simp

@[simp] theorem takeFrame_modes {v : VId} {port : BitVec 5} {f : RxFrame} {s : State} : (takeFrame v port f s).modes = s.modes := by
  unfold takeFrame
  split <;> simp

@[simp] theorem execFrameReceive_modes {v : VId} {port : BitVec 5} {f : RxFrame} {fecCorrected fecUncorrected : Nat} {s : State} :
    Leads State.Agree s (execFrameReceive v port f fecCorrected fecUncorrected s) := by
  simp [execFrameReceive]

/-! ## Machine/Keys.lean -/

@[simp] theorem installKey_modes {slot : Nat} {s : State} : (installKey slot s).modes = s.modes := by rfl

@[simp] theorem dropKey_modes {slot : Nat} {s : State} : (dropKey slot s).modes = s.modes := by rfl

@[simp] theorem agreeFail_modes {v : VId} {n : NodeId} {twin : Bool} {step : Nat} {s : State} :
    (agreeFail v n twin step s).modes = s.modes := by
  simp [agreeFail]

@[simp] theorem sendAgree_modes {v : VId} {n : NodeId} {twin : Bool} {an : BitVec 2} {step : Nat} {body : List Byte} {s : State} :
    (sendAgree v n twin an step body s).modes = s.modes := by
  simp [sendAgree]

@[simp] theorem sendConfirm_modes {v : VId} {n : NodeId} {twin : Bool} {s : State} : (sendConfirm v n twin s).modes = s.modes := by
  unfold sendConfirm
  split <;> simp

@[simp] theorem startAgreement_modes {v : VId} {n : NodeId} {twin : Bool} {s : State} :
    (startAgreement v n twin s).modes = s.modes := by
  simp [startAgreement]

@[simp] theorem agreeWith_modes {v : VId} {n : NodeId} {s : State} : (agreeWith v n s).modes = s.modes := by
  simp [agreeWith]

@[simp] theorem agreeWithAll_modes {v : VId} {s : State} : (agreeWithAll v s).modes = s.modes := by
  simp [agreeWithAll]

@[simp] theorem installRx_modes {v : VId} {n : NodeId} {twin : Bool} {a : Agreement} {keys : List Byte} {s : State} :
    (installRx v n twin a keys s).modes = s.modes := by rfl

theorem judgePeer_modes {v : VId} {n : NodeId} {twin : Bool} {step : Nat} {c : Credential} {covered : List Byte} {s t : State}
    (h : judgePeer v n twin step c covered s = some t) : t.modes = s.modes := by
  simp only [judgePeer] at h
  (repeat' split at h) <;> cases h <;> simp

@[simp] theorem execKeyAgree1_modes {v : VId} {peer : NodeId} {twinLink : Bool} {an : BitVec 2} {ek nonce : List Byte}
    {cred : Credential} {s : State} : Leads State.Agree s (execKeyAgree1 v peer twinLink an ek nonce cred s) := by
  refine onNode_modes fun t => ?_
  dsimp only
  split
  · rfl
  · split
    · simp
    · rfl
    · split
      · next e => exact judgePeer_modes e
      · simp

@[simp] theorem execKeyAgree2_modes {v : VId} {peer : NodeId} {twinLink : Bool} {ct nonce : List Byte} {cred : Credential}
    {s : State} : Leads State.Agree s (execKeyAgree2 v peer twinLink ct nonce cred s) := by
  refine onNode_modes fun t => ?_
  split
  · rfl
  · split
    · rfl
    · split
      · next e => exact judgePeer_modes e
      · simp

@[simp] theorem stopPorts_modes {ps : List (BitVec 5)} {stop : Bool} {s : State} : (stopPorts ps stop s).modes = s.modes := by
  simp [stopPorts]

@[simp] theorem pumpPeer_modes {v : VId} {n : NodeId} {s : State} : (pumpPeer v n s).modes = s.modes := by
  simp [pumpPeer]

@[simp] theorem execKeyAgree3_modes {v : VId} {peer : NodeId} {twinLink : Bool} {an : BitVec 2} {tagOk : Bool} {s : State} :
    Leads State.Agree s (execKeyAgree3 v peer twinLink an tagOk s) := by
  refine onNode_modes fun t => ?_
  split <;> simp

@[simp] theorem execKeyAgreeResend_modes {v : VId} {peer : NodeId} {twinLink : Bool} {s : State} :
    Leads State.Agree s (execKeyAgreeResend v peer twinLink s) := by
  refine onNode_modes fun t => ?_
  split <;> simp

@[simp] theorem execRxSaRetire_modes {v : VId} {peer : NodeId} {twinLink : Bool} {s : State} :
    Leads State.Agree s (execRxSaRetire v peer twinLink s) := by
  simp [execRxSaRetire]

@[simp] theorem execRekeyDue_modes {v : VId} {peer : NodeId} {twinLink : Bool} {s : State} :
    Leads State.Agree s (execRekeyDue v peer twinLink s) := by
  refine onNode_modes fun t => ?_
  split <;> simp

@[simp] theorem execPnExhausted_modes {v : VId} {peer : NodeId} {twinLink : Bool} {s : State} :
    Leads State.Agree s (execPnExhausted v peer twinLink s) := by
  refine onNode_modes fun t => ?_
  split <;> simp

@[simp] theorem dropAssoc_modes {k : VId × NodeId × Bool} {s : State} : (dropAssoc k s).modes = s.modes := by
  simp [dropAssoc]

/-! ## Machine/HostIf.lean -/

@[simp] theorem updMb_modes {m : BitVec 4} {f : Mailbox → Mailbox} {s : State} : (updMb m f s).modes = s.modes := by rfl

@[simp] theorem wakeCore_modes {i : Nat} {s : State} : (wakeCore i s).modes = s.modes := by rfl

@[simp] theorem notify_modes {m : BitVec 4} {kind : Nat} {s : State} : (notify m kind s).modes = s.modes := by
  simp [notify]

@[simp] theorem postMail_modes {m : BitVec 4} {w : BitVec 64} {s : State} : (postMail m w s).modes = s.modes := by
  simp [postMail]

@[simp] theorem takeMail_modes {m : BitVec 4} {s : State} : (takeMail m s).modes = s.modes := by
  simp [takeMail]

@[simp] theorem resetMail_modes {m : BitVec 4} {s : State} : (resetMail m s).modes = s.modes := by
  simp [resetMail]

@[simp] theorem execMbData_modes {m : BitVec 4} {w : BitVec 64} {s : State} : Leads State.Agree s (execMbData m w s) := by
  simp [execMbData]

@[simp] theorem execMbTake_modes {m : BitVec 4} {s : State} : Leads State.Agree s (execMbTake m s) := by
  simp [execMbTake]

@[simp] theorem execMbReset_modes {m : BitVec 4} {s : State} : Leads State.Agree s (execMbReset m s) := by
  simp [execMbReset]

@[simp] theorem flrMail_modes {s : State} {m : Nat} : (flrMail s m).modes = s.modes := by
  simp [flrMail]

@[simp] theorem flrState_modes {s : State} : (flrState s).modes = s.modes := by
  unfold flrState
  simp +zetaDelta

@[simp] theorem execFlr_modes {s : State} : Leads State.Agree s (execFlr s) := by
  simp [execFlr]

@[simp] theorem createRing_modes {p : RingBlk} {s : State} : (createRing p s).modes = s.modes := by rfl

@[simp] theorem execNodeRingCreate_modes {c : Cmd} {p : RingBlk} {s : State} : Leads State.Agree s (execNodeRingCreate c p s) := by
  simp [execNodeRingCreate]

@[simp] theorem execAdminEnable_modes {value : BitVec 64} {s : State} : Leads State.Agree s (execAdminEnable value s) := by
  refine onNode_modes fun t => ?_
  dsimp only
  (repeat' split) <;> rfl

@[simp] theorem execNodeRingDestroy_modes {c : Cmd} {ring : BitVec 9} {s : State} :
    Leads State.Agree s (execNodeRingDestroy c ring s) := by
  simp [execNodeRingDestroy]

@[simp] theorem dmaError_modes {ring : BitVec 9} {tag : BitVec 32} {addr : BitVec 64} {s : State} :
    (dmaError ring tag addr s).modes = s.modes := by
  simp [dmaError]

@[simp] theorem fetchPackets_modes {ring : BitVec 9} {ps : List Fetched} {s : State} :
    (fetchPackets ring ps s).modes = s.modes := by
  fun_induction fetchPackets <;> simp [*]

@[simp] theorem execRingDoorbell_modes {ring : BitVec 9} {value : BitVec 32} {f : SlotFetch} {s : State} :
    Leads State.Agree s (execRingDoorbell ring value f s) := by
  simp [execRingDoorbell]

@[simp] theorem popFetched_modes {ring : BitVec 9} {s : State} : (popFetched ring s).modes = s.modes := by rfl

@[simp] theorem admitFetched_modes {ring : BitVec 9} {c : Cmd} {fetchFails : Option (BitVec 64)} {s : State} :
    (admitFetched ring c fetchFails s).modes = s.modes := by
  unfold admitFetched
  split <;> simp

@[simp] theorem execCommandAdmit_modes {ring : BitVec 9} {paramFetchFails : Option (BitVec 64)} {s : State} :
    Leads State.Agree s (execCommandAdmit ring paramFetchFails s) := by
  refine onNode_modes fun t => ?_
  dsimp only
  (repeat' split) <;> simp

@[simp] theorem execCommand_modes {m : Msg} {p : Fetched} {s : State} : Leads State.Agree s (execCommand m p s) := by
  simp [execCommand]

@[simp] theorem execCoalesceExpiry_modes {ring : BitVec 9} {s : State} : Leads State.Agree s (execCoalesceExpiry ring s) := by
  simp [execCoalesceExpiry]

@[simp] theorem execPeekTag_modes {ring : BitVec 9} {tag : BitVec 32} {s : State} :
    Leads State.Agree s (execPeekTag ring tag s) := by
  simp [execPeekTag]

@[simp] theorem writeMbStatus_modes {m : BitVec 4} {value : BitVec 64} {s : State} :
    (writeMbStatus m value s).modes = s.modes := by rfl

@[simp] theorem setMsix_modes {v : Nat} {on : Bool} {s : State} : (setMsix v on s).modes = s.modes := by
  simp [setMsix]

@[simp] theorem execRegisterWrite_modes {r : Reg} {value : BitVec 64} {s : State} :
    Leads State.Agree s (execRegisterWrite r value s) := by
  unfold execRegisterWrite
  split <;> simp

@[simp] theorem execOrderFence_modes {c : Cmd} {scopeNode mirror logMark : Bool} {s : State} :
    Leads State.Agree s (execOrderFence c scopeNode mirror logMark s) := by
  simp [execOrderFence]

@[simp] theorem execOrderFenceTimeout_modes {job : Nat} {s : State} : Leads State.Agree s (execOrderFenceTimeout job s) := by
  refine onNode_modes fun t => ?_
  split <;> simp

/-! ## Machine/Log.lean -/

@[simp] theorem denyAperture_modes {offset : BitVec 28} {s : State} : (denyAperture offset s).modes = s.modes := by
  simp [denyAperture]

@[simp] theorem execApertureRead_modes {offset : BitVec 28} {len : BitVec 13} {u : Upsets} {s : State} :
    Leads State.Agree s (execApertureRead offset len u s) := by
  simp [execApertureRead]

@[simp] theorem normalWrite_modes {a : Nat} {bs : List Byte} {u : Upsets} {s : State} : (normalWrite a bs u s).modes = s.modes := by
  simp [normalWrite]

@[simp] theorem apertureWriteRow_modes {offset : BitVec 28} {bytes : List Byte} {u : Upsets} {s : State} :
    Leads State.Agree s (apertureWriteRow offset bytes u s) := by
  simp [apertureWriteRow]

@[simp] theorem execLogRead_modes {c : Cmd} {fromSeq : BitVec 64} {maxRecords : BitVec 13} {s : State} :
    Leads State.Agree s (execLogRead c fromSeq maxRecords s) := by
  refine runVerb_modes fun t => withParams_modes fun u => ?_
  rfl

@[simp] theorem execLogCounters_modes {c : Cmd} {group index first count : BitVec 8} {s : State} :
    Leads State.Agree s (execLogCounters c group index first count s) := by
  refine runVerb_modes fun t => withParams_modes fun u => ?_
  rfl

/-! ## Machine/Merge.lean -/

@[simp] theorem execAttnMerge_modes {c : Cmd} {payload : List Byte} {s : State} :
    Leads State.Agree s (execAttnMerge c payload s) := by
  refine runVerb_modes fun t => ?_
  (repeat' split) <;> rfl

@[simp] theorem sendSub_modes {id sub : Nat} {v : VId} {x : FanSub} {d : QDesc} {raw : List Byte} {s : State} :
    (sendSub id sub v x d raw s).modes = s.modes := by
  simp [sendSub]

@[simp] theorem startSubs_modes {id : Nat} {v : VId} {d : QDesc} {raw : List Byte} {k : Knobs} {stall : Nat}
    {xs : List (Nat × FanSub)} {s : State} : (startSubs id v d raw k stall xs s).modes = s.modes := by
  induction xs generalizing s with
  | nil => rfl
  | cons x r ih => simp [startSubs, ih]

@[simp] theorem holdFan_modes {id b ix : Nat} {v : VId} {d : QDesc} {raw : List Byte} {k : Knobs} {ep : BitVec 16} {stall : Nat}
    {s : State} : (holdFan id b ix v d raw k ep stall s).modes = s.modes := by rfl

@[simp] theorem refuseFan_modes {b ix : Nat} {v : VId} {d : QDesc} {st : Status} {node : Option NodeId} {hint : Nat} {s : State} :
    (refuseFan b ix v d st node hint s).modes = s.modes := by
  simp [refuseFan]

@[simp] theorem splitFan_modes {b ix : Nat} {v : VId} {d : QDesc} {raw : List Byte} {k : Knobs} {stall : Nat} {q : SeqRec}
    {s : State} : (splitFan b ix v d raw k stall q s).modes = s.modes := by
  fun_cases splitFan <;> simp +zetaDelta

@[simp] theorem fanDesc_modes {id : Nat} {c : Cmd} {b ix : Nat} {v : VId} {d : QDesc} {raw : List Byte} {k : Knobs} {stall : Nat}
    {s : State} : (fanDesc id c b ix v d raw k stall s).modes = s.modes := by
  fun_cases fanDesc <;> simp +zetaDelta

@[simp] theorem execAttnQueryFanout_modes {c : Cmd} {payload : List Byte} {s : State} :
    Leads State.Agree s (execAttnQueryFanout c payload s) := by
  refine runVerb_modes fun t => ?_
  split <;> simp

@[simp] theorem execFanoutTimeout_modes {fanout sub : Nat} {s : State} : Leads State.Agree s (execFanoutTimeout fanout sub s) := by
  refine onNode_modes fun t => ?_
  (repeat' split) <;> simp

@[simp] theorem fanWrite_modes {id sub : Nat} {key : BitVec 32} {off : Nat} {bs : List Byte} {s : State} :
    (fanWrite id sub key off bs s).modes = s.modes := by
  unfold fanWrite
  (repeat' split) <;> simp

/-! ## Machine/Check.lean -/

@[simp] theorem divergent_modes {p : PageRef} {d0 d1 h0 h1 : List Byte} {s : State} :
    (divergent p d0 d1 h0 h1 s).modes = s.modes := by
  unfold divergent
  split <;> simp

@[simp] theorem rewriteFrom_modes {p : PageRef} {content : List Byte} {counts : Bool} {s : State} :
    (rewriteFrom p content counts s).modes = s.modes := by
  unfold rewriteFrom
  split
  · next h => simp [rewritePage_done_modes h]
  · next h => exact rewritePage_differs_modes h
  · rfl

@[simp] theorem noGoodCopy_modes {p : PageRef} {s : State} : (noGoodCopy p s).modes = s.modes := by
  unfold noGoodCopy
  split <;> simp

@[simp] theorem rebuiltDiffers_modes {p : PageRef} {content : List Byte} {s : State} :
    (rebuiltDiffers p content s).modes = s.modes := by
  unfold rebuiltDiffers
  split <;> simp

@[simp] theorem compareCopies_modes {p : PageRef} {digest : List Byte} {other : Option (List Byte × List Byte)} {s : State} :
    (compareCopies p digest other s).modes = s.modes := by
  fun_cases compareCopies <;> simp

@[simp] theorem verifyPage_modes {p : PageRef} {s : State} : (verifyPage p s).modes = s.modes := by
  fun_cases verifyPage <;> simp +zetaDelta

@[simp] theorem dropLeft_modes {s : State} : (dropLeft s).modes = s.modes := by rfl

@[simp] theorem startVerify_modes {s : State} : (startVerify s).modes = s.modes := by
  simp [startVerify]

@[simp] theorem execReadVerify_modes {p : PageRef} {u : Upsets} {s : State} : Leads State.Agree s (execReadVerify p u s) := by
  simp [execReadVerify]

@[simp] theorem verifySpans_modes {v : VId} {h : Handle} {ns : List Nat} {s : State} :
    (verifySpans v h ns s).2.modes = s.modes := by
  fun_induction verifySpans <;> simp_all +zetaDelta

@[simp] theorem execScrubVerify_modes {c : Cmd} {t : Target} {s : State} : Leads State.Agree s (execScrubVerify c t s) := by
  refine runVerb_modes fun t => withParams_modes fun u => ?_
  dsimp only
  (repeat' split) <;> simp

@[simp] theorem resolvePage_modes {p : PageRef} {s : State} : (resolvePage p s).modes = s.modes := by
  fun_cases resolvePage <;> simp +zetaDelta

@[simp] theorem execVerifyReq_modes {h : PeerHdr} {layer head page : Nat} {digest hash : List Byte} {u : Upsets} {s : State} :
    Leads State.Agree s (execVerifyReq h layer head page digest hash u s) := by
  refine onPeer_modes fun t => ?_
  dsimp only
  (repeat' split) <;> simp

@[simp] theorem execSpanCoverage_modes {c : Cmd} {t : Target} {s : State} : Leads State.Agree s (execSpanCoverage c t s) := by
  refine runVerb_modes fun t => withParams_modes fun u => ?_
  dsimp only
  (repeat' split) <;> simp

@[simp] theorem resetSpan_modes {f : FrameId} {s : State} : (resetSpan f s).modes = s.modes := by
  unfold resetSpan
  split <;> simp

@[simp] theorem spanResetRow_modes {c : Cmd} {t : Target} {s : State} : Leads State.Agree s (spanResetRow c t s) := by
  refine runVerb_modes fun t => withParams_modes fun u => ?_
  dsimp only
  (repeat' split) <;> simp

/-! ## Machine/Scrub.lean -/

@[simp] theorem repairFrame_modes {f : FrameId} {s : State} : (repairFrame f s).2.modes = s.modes := by
  fun_cases repairFrame <;> simp

@[simp] theorem endDrain_modes {f : FrameId} {s : State} : (endDrain f s).modes = s.modes := by
  simp [endDrain]

@[simp] theorem execFrameDrainEnd_modes {frame : BitVec 24} {s : State} : Leads State.Agree s (execFrameDrainEnd frame s) := by
  simp [execFrameDrainEnd]

@[simp] theorem updPass_modes {n : Nat} {f : ScrubPass → ScrubPass} {s : State} : (updPass n f s).modes = s.modes := by rfl

@[simp] theorem startPass_modes {n : Nat} {s : State} : (startPass n s).modes = s.modes := by rfl

@[simp] theorem execPatrolScrubStep_modes {stack : BitVec 3} {pc : BitVec 5} {u : Upsets} {s : State} :
    Leads State.Agree s (execPatrolScrubStep stack pc u s) := by
  simp [execPatrolScrubStep]

@[simp] theorem endScrubJobs_modes {n : Nat} {js : List (Nat × Job)} {s : State} : (endScrubJobs n js s).modes = s.modes := by
  induction js generalizing s with
  | nil => rfl
  | cons j r ih =>
    unfold endScrubJobs
    split <;> simp_all

@[simp] theorem execScrubPassDone_modes {stack : BitVec 3} {s : State} : Leads State.Agree s (execScrubPassDone stack s) := by
  simp [execScrubPassDone]

@[simp] theorem execScrubIntervalEnd_modes {s : State} : Leads State.Agree s (execScrubIntervalEnd s) := by
  simp [execScrubIntervalEnd]

@[simp] theorem execScrubPass_modes {c : Cmd} {s : State} : Leads State.Agree s (execScrubPass c s) := by
  refine runVerb_modes fun t => ?_
  simp

/-! ## Machine/Tier.lean -/

theorem placePlain_modes {p : PageRef} {x : Page} {v : VId} {bs : List Byte} {s t : State} (h : placePlain p x v bs s = some t) :
    t.modes = s.modes := by
  simp only [placePlain] at h
  split at h
  · cases h
  · obtain ⟨r, hr, rfl⟩ := Option.map_eq_some_iff.mp h
    simp [allocAny_modes hr]

@[simp] theorem execPackPage_modes {p : PageRef} {s : State} : Leads State.Agree s (execPackPage p s) := by
  refine onNode_modes fun t => whenFills_modes fun u => ?_
  split
  · dsimp only
    split
    · simp
    · split
      · simp
      · split
        · simp
        · split
          · simp
          · next e =>
            have hp := storePack_modes (Option.ite_none_right_eq_some.mp e).2
            split
            · split <;> simp [hp]
            · simp [hp]
  · rfl

@[simp] theorem movePack_modes {f : FrameId} {n : Nat} {s : State} : (movePack f n s).modes = s.modes := by
  unfold movePack
  split
  · rfl
  · dsimp only
    split
    · simp
    · split
      · simp
      · next h => simp [roomForPack_modes h]

@[simp] theorem movePacked_modes {f : FrameId} {s : State} : (movePacked f s).modes = s.modes := by
  simp [movePacked]

@[simp] theorem execPackCompact_modes {frame : BitVec 24} {s : State} : Leads State.Agree s (execPackCompact frame s) := by
  simp [execPackCompact]

@[simp] theorem recodeIfRetiring_modes {n : Nat} {s : State} : (recodeIfRetiring n s).modes = s.modes := by
  unfold recodeIfRetiring
  split <;> simp

theorem programDemotion_modes {p : PageRef} {attempt : Nat} {s t : State} (h : programDemotion p attempt s = some t) :
    t.modes = s.modes := by
  simp only [programDemotion] at h
  split at h
  · split at h
    · cases h
    · split at h
      · cases h
      · split at h
        · simp [← Option.some.inj h]
        · obtain ⟨q, hq, rfl⟩ := Option.map_eq_some_iff.mp h
          simp [storeFlash_modes hq]
  · cases h

@[simp] theorem noteHeld_modes {s : State} : (noteHeld s).modes = s.modes := by rfl

@[simp] theorem holdDemotion_modes {p : PageRef} {attempt : Nat} {s : State} : (holdDemotion p attempt s).modes = s.modes := by rfl

@[simp] theorem execDemotePage_modes {p : PageRef} {s : State} : Leads State.Agree s (execDemotePage p s) := by
  refine onNode_modes fun t => ?_
  split
  · dsimp only
    split
    · simp
    · split
      · simp
      · exact getD_modes (fun _ e => by simp [programDemotion_modes e]) (by simp)
  · rfl

@[simp] theorem cancelDemotion_modes {p : PageRef} {s : State} : (cancelDemotion p s).modes = s.modes := by
  unfold cancelDemotion
  split <;> simp

@[simp] theorem feedRequests_modes {ids : List Nat} {n : Nat} {f : AttnReq → ReqPage → ReqPage} {s : State} :
    (feedRequests ids n f s).modes = s.modes := by
  refine foldl_modes fun u x => ?_
  split <;> simp

@[simp] theorem failWaiting_modes {ids : List Nat} {st : Status} {s : State} : (failWaiting ids st s).modes = s.modes := by
  simp [failWaiting]

theorem expandPacked_modes {p : PageRef} {x : Page} {r : SpanRec} {s t : State}
    (h : expandPacked p x r s = .done t ∨ ∃ st, expandPacked p x r s = .fails st t) : t.modes = s.modes := by
  revert h
  unfold expandPacked
  dsimp only
  split
  · rintro (⟨⟨⟩⟩ | ⟨_, ⟨⟩⟩)
    simp
  · rintro (⟨⟨⟩⟩ | ⟨_, ⟨⟩⟩)
    simp
  · split
    · rintro (⟨⟨⟩⟩ | ⟨_, ⟨⟩⟩)
      simp
    · split
      · next e =>
        split
        · simp
        · rintro (⟨⟨⟩⟩ | ⟨_, ⟨⟩⟩)
          simp [placePlain_modes e]
      · simp

@[simp] theorem stepDown_modes {p : PageRef} {s : State} : (stepDown p s).2.2.modes = s.modes := by
  unfold stepDown
  split
  · split
    · rfl
    · split
      · (repeat' split)
        · rfl
        · rfl
        · rfl
        · simp
        · next h => exact programDemotion_modes h
        · rfl
      · (repeat' split)
        · rfl
        · rfl
        · rfl
        · simp
        · next h => exact programDemotion_modes h
        · rfl
      · rfl
  · rfl

@[simp] theorem stepUp_modes {p : PageRef} {s : State} : (stepUp p s).2.2.modes = s.modes := by
  unfold stepUp
  split
  · split
    · rfl
    · split
      · rfl
      · split
        · rfl
        · dsimp only
          split
          · split
            · split <;> simp
            · split
              · next h => exact expandPacked_modes (.inl h)
              · rfl
              · next h => exact expandPacked_modes (.inr ⟨_, h⟩)
              · next h => exact expandPacked_modes (.inr ⟨_, h⟩)
          · split
            · rfl
            · simp
          · rfl
          · rfl
  · rfl

@[simp] theorem stepTier_modes {down : Bool} {ps : List PageRef} {st : Status} {s : State} :
    (stepTier down ps st s).2.2.modes = s.modes := by
  induction ps generalizing st s with
  | nil => rfl
  | cons p r ih =>
    unfold stepTier
    cases down <;> simp [ih]

@[simp] theorem advanceTier_modes {id : Nat} {c : Cmd} {down : Bool} {left : List PageRef} {st : Status} {s : State} :
    (advanceTier id c down left st s).modes = s.modes := by
  simp [advanceTier]

@[simp] theorem advanceTiers_modes {js : List (Nat × Job)} {s : State} : (advanceTiers js s).modes = s.modes := by
  fun_induction advanceTiers <;> simp [*]

@[simp] theorem afterForm_modes {s : State} : (afterForm s).modes = s.modes := by
  simp [afterForm]

@[simp] theorem retryDemotion_modes {d : Demotion} {x : Page} {r : SpanRec} {s : State} :
    (retryDemotion d x r s).modes = s.modes := by
  unfold retryDemotion
  extract_lets p c s₁ retry
  have hs₁ : s₁.modes = s.modes := by simp [s₁, c]
  split
  · simp [hs₁]
  · simp [hs₁]
  · split
    · simp [hs₁]
    · have hretry (t : State) (e : retry = some t) : t.modes = s₁.modes := by
        unfold retry at e
        split at e
        · cases e
        · split at e
          · cases e; simp
          · exact programDemotion_modes e
      clear_value retry
      split
      · simp [hretry _ rfl, hs₁]
      · simp [hs₁]

@[simp] theorem execDemoteComplete_modes {p : PageRef} {readBack : List Byte} {s : State} :
    Leads State.Agree s (execDemoteComplete p readBack s) := by
  refine onNode_modes fun t => ?_
  dsimp only
  (repeat' split) <;> simp

@[simp] theorem promoteContent_modes {m : Promotion} {bs : List Byte} {s : State} : (promoteContent m bs s).modes = s.modes := by
  unfold promoteContent
  dsimp only
  split
  · split
    · simp
    · split
      · next h =>
        refine afterForm_modes.trans (bump_modes.trans ?_)
        split <;> simp [placePlain_modes h]
      · split <;> simp
  · simp

@[simp] theorem failPromotion_modes {m : Promotion} {bs : Option (List Byte)} {s : State} :
    (failPromotion m bs s).modes = s.modes := by
  refine afterForm_modes.trans (failWaiting_modes.trans ?_)
  (repeat' split) <;> simp

@[simp] theorem execPromoteComplete_modes {p : PageRef} {read : Option (List Byte)} {s : State} :
    Leads State.Agree s (execPromoteComplete p read s) := by
  refine onNode_modes fun t => whenFills_modes (fun w => ?_)
  dsimp only
  (repeat' split) <;> simp

@[simp] theorem targetRecords_modes {v : VId} {t : Target} {s : State} : (targetRecords v t s).2.modes = s.modes := by
  simp [targetRecords]

@[simp] theorem onPages_modes {c : Cmd} {t : Target} {i : Instr} {f : List (PageRef × Page) → State → Done} {s : State}
    (h : ∀ p t, (f p t).state.modes = t.modes) : (onPages c t i f s).state.modes = s.modes := by
  fun_cases onPages <;> simp +zetaDelta [*]

@[simp] theorem startTier_modes {c : Cmd} {down : Bool} {ps : List PageRef} {s : State} :
    (startTier c down ps s).state.modes = s.modes := by
  simp [startTier]

@[simp] theorem execTierPromote_modes {c : Cmd} {t : Target} {s : State} : Leads State.Agree s (execTierPromote c t s) := by
  refine runVerb_modes fun t => ?_
  simp

@[simp] theorem execTierDemote_modes {c : Cmd} {t : Target} {s : State} : Leads State.Agree s (execTierDemote c t s) := by
  refine runVerb_modes fun t => ?_
  simp

@[simp] theorem execTierPin_modes {c : Cmd} {t : Target} {s : State} : Leads State.Agree s (execTierPin c t s) := by
  refine runVerb_modes fun t => withParams_modes fun u => ?_
  simp

@[simp] theorem execTierUnpin_modes {c : Cmd} {t : Target} {s : State} : Leads State.Agree s (execTierUnpin c t s) := by
  refine runVerb_modes fun t => withParams_modes fun u => ?_
  simp

@[simp] theorem execTierStatus_modes {c : Cmd} {t : Target} {s : State} : Leads State.Agree s (execTierStatus c t s) := by
  refine runVerb_modes fun u => withParams_modes fun w => ?_
  split
  · simp
  · exact onPages_modes fun _ _ => by simp

@[simp] theorem logHoldup_modes {k : Nat × Nat} {t : FlashTarget} {s : State} : (logHoldup k t s).modes = s.modes := by
  simp [logHoldup]

@[simp] theorem execFlashProbe_modes {channel : BitVec 4} {target : BitVec 3} {p : ParamPage} {s : State} :
    Leads State.Agree s (execFlashProbe channel target p s) := by
  simp [execFlashProbe]

@[simp] theorem flashOp_modes {i : Instr} {f : State → State} {s : State} (h : ∀ t, (f t).modes = t.modes) :
    (flashOp i f s).modes = s.modes := by
  unfold flashOp
  split <;> simp [*]

@[simp] theorem execFlashRelocate_modes {b : BlockRef} {soft old : Bool} {s : State} :
    Leads State.Agree s (execFlashRelocate b soft old s) := by
  simp [execFlashRelocate]

@[simp] theorem execFtlReclaim_modes {b : BlockRef} {s : State} : Leads State.Agree s (execFtlReclaim b s) := by
  simp [execFtlReclaim]

@[simp] theorem execWearLevel_modes {b : BlockRef} {s : State} : Leads State.Agree s (execWearLevel b s) := by
  simp [execWearLevel]

@[simp] theorem rewriteLast_modes {b : Nat × Nat × Nat} {s : State} : (rewriteLast b s).modes = s.modes := by
  unfold rewriteLast
  split <;> simp

@[simp] theorem rewriteStaged_modes {b : BlockRef} {s : State} : (rewriteStaged b s).modes = s.modes := by
  simp [rewriteStaged]

@[simp] theorem execFlashProgramFail_modes {b : BlockRef} {s : State} : Leads State.Agree s (execFlashProgramFail b s) := by
  simp [execFlashProgramFail]

@[simp] theorem execFlashEraseBackground_modes {b : BlockRef} {s : State} : Leads State.Agree s (execFlashEraseBackground b s) := by
  simp [execFlashEraseBackground]

@[simp] theorem releaseBrake_modes {s : State} : (releaseBrake s).modes = s.modes := by
  unfold releaseBrake
  extract_lets held _ s₁ s₂ ops s₃ go
  have hs₂ : s₂.modes = s.modes := foldl_modes fun _ _ => getD_modes (fun _ e => programDemotion_modes e) rfl
  have went {r : Res} {t : State} (h : Leads State.Agree t r) : (go r t).modes = t.modes := by
    unfold go
    split
    · exact h _ rfl
    · rfl
  clear_value s₂ go
  refine afterForm_modes.trans ((foldl_modes fun u d => ?_).trans hs₂)
  split <;> simp [went]

/-! ## Machine/Power.lean -/

@[simp] theorem driveWp_modes {high : Bool} {s : State} : (driveWp high s).modes = s.modes := by
  simp [driveWp]

@[simp] theorem execFlashWpAssert_modes {s : State} : Leads State.Agree s (execFlashWpAssert s) := by
  simp [execFlashWpAssert]

@[simp] theorem deriveIdentity_modes {puf : List Byte} {s : State} : (deriveIdentity puf s).modes = s.modes := by
  unfold deriveIdentity
  split <;> simp

@[simp] theorem interimKeys_modes {s : State} : (interimKeys s).modes = s.modes := by rfl

@[simp] theorem bootSessionKeys_modes {s : State} : (bootSessionKeys s).modes = s.modes := by rfl

@[simp] theorem execRefclk156Loss_modes {s : State} : Leads State.Agree s (execRefclk156Loss s) := by
  simp [execRefclk156Loss]

@[simp] theorem resetHost_modes {s : State} : (resetHost s).modes = s.modes := by
  simp [resetHost]

@[simp] theorem execPerstN_modes {high : Bool} {s : State} : Leads State.Agree s (execPerstN high s) := by
  simp [execPerstN]

@[simp] theorem execPcieRefclkLoss_modes {s : State} : Leads State.Agree s (execPcieRefclkLoss s) := by
  simp [execPcieRefclkLoss]

@[simp] theorem execPcieRefclkReturn_modes {s : State} : Leads State.Agree s (execPcieRefclkReturn s) := by
  simp [execPcieRefclkReturn]

@[simp] theorem execPowerGate_modes {engines : Bool} {i : BitVec 4} {s : State} :
    Leads State.Agree s (execPowerGate engines i s) := by
  simp [execPowerGate]

@[simp] theorem updRail_modes {r : Nat} {f : Rail → Rail} {s : State} : (updRail r f s).modes = s.modes := by rfl

@[simp] theorem execBrakeEnter_modes {rail : BitVec 3} {mv : Nat} {s : State} : Leads State.Agree s (execBrakeEnter rail mv s) := by
  simp [execBrakeEnter]

@[simp] theorem execBrakeExit_modes {durationUs : Nat} {s : State} : Leads State.Agree s (execBrakeExit durationUs s) := by
  simp [execBrakeExit]

@[simp] theorem setStackLimit_modes {w : Nat} {s : State} : (setStackLimit w s).modes = s.modes := by rfl

@[simp] theorem overCap_modes {p : Nat} {s : State} : (overCap p s).modes = s.modes := by
  simp [overCap]

@[simp] theorem underCap_modes {s : State} : (underCap s).modes = s.modes := by
  simp [underCap]

@[simp] theorem judgeInterval_modes {p : Nat} {s : State} : (judgeInterval p s).modes = s.modes := by
  simp [judgeInterval]

@[simp] theorem execPowerInterval_modes {p : Nat} {s : State} : Leads State.Agree s (execPowerInterval p s) := by
  simp [execPowerInterval]

@[simp] theorem thermalDown_modes {step : Nat} {t : ℤ} {s : State} : (thermalDown step t s).modes = s.modes := by
  simp [thermalDown]

/-! ## Machine/Telemetry.lean -/

@[simp] theorem noteMargin_modes {kind ix place value limit : Nat} {s : State} :
    (noteMargin kind ix place value limit s).modes = s.modes := by
  simp [noteMargin]

@[simp] theorem execEyeScan_modes {lane : BitVec 5} {width height : Nat} {s : State} :
    Leads State.Agree s (execEyeScan lane width height s) := by
  simp [execEyeScan]

@[simp] theorem execHbmMarginScan_modes {stack : BitVec 3} {pc : BitVec 5} {setup hold : Nat} {s : State} :
    Leads State.Agree s (execHbmMarginScan stack pc setup hold s) := by
  simp [execHbmMarginScan]

@[simp] theorem execDroopWindow_modes {rail : BitVec 3} {lowestMv : Nat} {s : State} :
    Leads State.Agree s (execDroopWindow rail lowestMv s) := by
  simp [execDroopWindow]

@[simp] theorem execOpticsPoll_modes {port : BitVec 5} {isPresent : Bool} {rx tx : List Nat} {temp : ℤ} {rxLowWarning : Nat}
    {s : State} : Leads State.Agree s (execOpticsPoll port isPresent rx tx temp rxLowWarning s) := by
  simp [execOpticsPoll]

@[simp] theorem clearDroop_modes {s : State} : (clearDroop s).modes = s.modes := by rfl

/-! ## Machine/Loader.lean -/

@[simp] theorem bootAnswer_modes {m op res step arg : Nat} {s : State} : (bootAnswer m op res step arg s).modes = s.modes := by
  simp [bootAnswer]

@[simp] theorem onBoot_modes {f : State → State} {s : State} (h : ∀ t, (f t).modes = t.modes) : Leads State.Agree s (onBoot f s) :=
  onNode_modes fun _ => by simp [h]

@[simp] theorem execPing_modes {mailbox : BitVec 3} {value : BitVec 32} {s : State} :
    Leads State.Agree s (execPing mailbox value s) := by
  simp [execPing]

@[simp] theorem execFirmwareLoadWindow_modes {offset : BitVec 20} {bytes : List Byte} {s : State} :
    Leads State.Agree s (execFirmwareLoadWindow offset bytes s) := by
  simp [execFirmwareLoadWindow]

/-! ## Machine/Repair.lean -/

@[simp] theorem execVerifyResp_modes {h : PeerHdr} {layer head page : Nat} {digest : List Byte} {hash : Option (List Byte)}
    {content : List Byte} {s : State} : Leads State.Agree s (execVerifyResp h layer head page digest hash content s) := by
  refine onPeer_modes fun t => linkPeer_modes fun u => afterForm_modes.trans ?_
  dsimp only
  split <;> simp

@[simp] theorem execTwinVerifyTimeout_modes {p : PageRef} {s : State} : Leads State.Agree s (execTwinVerifyTimeout p s) := by
  simp [execTwinVerifyTimeout]

@[simp] theorem execReplicaRewrite_modes {p : PageRef} {content : List Byte} {s : State} :
    Leads State.Agree s (execReplicaRewrite p content s) := by
  refine onNode_modes fun t => ?_
  split <;> simp

@[simp] theorem execPageRepair_modes {p : PageRef} {content : Option (List Byte)} {s : State} :
    Leads State.Agree s (execPageRepair p content s) := by
  refine onNode_modes fun t => afterForm_modes.trans ?_
  split
  · split
    · rfl
    · split
      · simp
      · dsimp only
        split
        · next e => simp [rewritePage_done_modes e]
        · next e => simp [rewritePage_differs_modes e]
        · rfl
  · rfl

@[simp] theorem execPageRebuild_modes {p : PageRef} {fragments : List (Nat × List Byte)} {s : State} :
    Leads State.Agree s (execPageRebuild p fragments s) := by
  refine onNode_modes fun t => afterForm_modes.trans ?_
  split
  · dsimp only
    split
    · split
      · simp
      · split
        · next e => simp [rewritePage_done_modes e]
        · next e => simp [rewritePage_differs_modes e]
        · rfl
    · rfl
  · rfl

/-! ## Machine/Codec.lean -/

@[simp] theorem updSlot_modes {n : Nat} {f : CodecSlot → CodecSlot} {s : State} : (updSlot n f s).modes = s.modes := by rfl

@[simp] theorem putTable_modes {img : TableImage} {n : Nat} {g : BitVec 32} {s : State} :
    (putTable img n g s).modes = s.modes := by rfl

@[simp] theorem execCodecLoad_modes {c : Cmd} {img : TableImage} {s : State} : Leads State.Agree s (execCodecLoad c img s) := by
  refine runVerb_modes fun t => withParams_modes fun u => ?_
  (repeat' split) <;> rfl

@[simp] theorem execCodecSelect_modes {c : Cmd} {gen : BitVec 32} {slot : BitVec 3} {format : BitVec 4} {s : State} :
    Leads State.Agree s (execCodecSelect c gen slot format s) := by
  refine runVerb_modes fun t => ?_
  simp

@[simp] theorem execCodecRetire_modes {c : Cmd} {gen : BitVec 32} {slot : BitVec 3} {force : Bool} {s : State} :
    Leads State.Agree s (execCodecRetire c gen slot force s) := by
  refine runVerb_modes fun t => ?_
  split <;> simp

@[simp] theorem execCodecStatus_modes {c : Cmd} {s : State} : Leads State.Agree s (execCodecStatus c s) := by
  refine runVerb_modes fun t => withParams_modes fun u => ?_
  rfl

@[simp] theorem execCodecSample_modes {c : Cmd} {format : BitVec 4} {s : State} :
    Leads State.Agree s (execCodecSample c format s) := by
  refine runVerb_modes fun t => ?_
  simp

@[simp] theorem recoded_modes {n : Nat} {s : State} : (recoded n s).modes = s.modes := by rfl

@[simp] theorem recodeTo_modes {n : Nat} {i : Image} {fmt : Nat} {p : PageRef} {x : Page} {bs : List Byte} {s : State} :
    (recodeTo n i fmt p x bs s).modes = s.modes := by
  unfold recodeTo
  dsimp only
  split
  · split
    · next h => simp [storeFlash_modes h]
    · rfl
  · split
    · split
      · next h => simp [storePack_modes h]
      · rfl
    · exact getD_modes (fun _ h => placePlain_modes h) rfl

@[simp] theorem execRecodeImage_modes {image : Nat} {s : State} : Leads State.Agree s (execRecodeImage image s) := by
  refine onNode_modes fun t => whenFills_modes (fun w => ?_)
  dsimp only
  (repeat' split) <;> simp

@[simp] theorem execCodecBlock_modes {engine : BitVec 2} {s : State} : Leads State.Agree s (execCodecBlock engine s) := by
  refine onNode_modes fun t => ?_
  (repeat' split) <;> simp

/-! ## Machine/SyncUnit.lean -/

@[simp] theorem putObj_modes {i : BitVec 14} {o : SyncObj} {s : State} : (putObj i o s).modes = s.modes := by rfl

@[simp] theorem createObj_modes {c : Cmd} {i : BitVec 14} {o : SyncObj} {s : State} :
    (createObj c i o s).state.modes = s.modes := by
  simp [createObj]

@[simp] theorem execSyncCreate_modes {c : Cmd} {p : SyncCreateBlk} {s : State} : Leads State.Agree s (execSyncCreate c p s) := by
  simp [execSyncCreate]

@[simp] theorem endWaiters_modes {st : Status} {ws : List Waiter} {s : State} : (endWaiters st ws s).modes = s.modes := by
  fun_induction endWaiters <;> simp [*]

@[simp] theorem destroyObj_modes {c : Cmd} {barrier : Bool} {i : BitVec 14} {force : Bool} {s : State} :
    (destroyObj c barrier i force s).state.modes = s.modes := by
  unfold destroyObj
  split <;> simp

@[simp] theorem execSyncDestroy_modes {c : Cmd} {index : BitVec 14} {force : Bool} {s : State} :
    Leads State.Agree s (execSyncDestroy c index force s) := by
  simp [execSyncDestroy]

@[simp] theorem execBarrierDestroy_modes {c : Cmd} {index : BitVec 14} {force : Bool} {s : State} :
    Leads State.Agree s (execBarrierDestroy c index force s) := by
  simp [execBarrierDestroy]

@[simp] theorem execSyncSignal_modes {c : Cmd} {s : State} : Leads State.Agree s (execSyncSignal c s) := by
  simp [execSyncSignal]

@[simp] theorem execSyncWait_modes {c : Cmd} {s : State} : Leads State.Agree s (execSyncWait c s) := by
  simp [execSyncWait]

@[simp] theorem execSignal_modes {m : Msg} {index : BitVec 14} {value : BitVec 64} {tag : BitVec 32} {rsv : Bool} {s : State} :
    Leads State.Agree s (execSignal m index value tag rsv s) := by
  refine onMsg_modes fun t => ?_
  (repeat' split) <;> simp

@[simp] theorem execBarrierCreate_modes {c : Cmd} {p : BarrierBlk} {s : State} : Leads State.Agree s (execBarrierCreate c p s) := by
  simp [execBarrierCreate]

@[simp] theorem sendTree_modes {release : Bool} {k : TreeLink} {i : BitVec 14} {phase : BitVec 48} {s : State} :
    (sendTree release k i phase s).modes = s.modes := by
  simp [sendTree]

@[simp] theorem completePhase_modes {i : BitVec 14} {o : SyncObj} {s : State} : (completePhase i o s).modes = s.modes := by
  simp [completePhase]

@[simp] theorem actBarrier_modes {fuel : Nat} {i : BitVec 14} {s : State} : (actBarrier fuel i s).modes = s.modes := by
  fun_induction actBarrier <;> simp [*]

@[simp] theorem countArrival_modes {i : BitVec 14} {who : BitVec 64} {s : State} : (countArrival i who s).modes = s.modes := by
  simp [countArrival]

@[simp] theorem execBarrierArrive_modes {c : Cmd} {index : BitVec 14} {sense nowait : Bool} {timeoutUs : BitVec 32} {s : State} :
    Leads State.Agree s (execBarrierArrive c index sense nowait timeoutUs s) := by
  refine runVerb_modes fun t => withParams_modes fun u => ?_
  (repeat' split) <;> simp

@[simp] theorem rejectTree_modes {m : Msg} {i : BitVec 14} {s : State} : (rejectTree m i s).modes = s.modes := by
  simp [rejectTree]

@[simp] theorem execTreeArrive_modes {m : Msg} {index fromIndex : BitVec 14} {phase : BitVec 48} {rsv : Bool} {s : State} :
    Leads State.Agree s (execTreeArrive m index fromIndex phase rsv s) := by
  refine onMsg_modes fun t => ?_
  split <;> simp

@[simp] theorem execTreeRelease_modes {m : Msg} {index fromIndex : BitVec 14} {phase : BitVec 48} {rsv : Bool} {s : State} :
    Leads State.Agree s (execTreeRelease m index fromIndex phase rsv s) := by
  refine onMsg_modes fun t => ?_
  split <;> simp

@[simp] theorem failBarrier_modes {i : BitVec 14} {s : State} : (failBarrier i s).modes = s.modes := by
  simp [failBarrier]

@[simp] theorem failBarriersOf_modes {q : BitVec 12} {s : State} : (failBarriersOf q s).modes = s.modes := by
  simp [failBarriersOf]

@[simp] theorem failObject_modes {i : BitVec 14} {s : State} : (failObject i s).modes = s.modes := by
  simp [failObject]

@[simp] theorem execWaitTimeout_modes {waiter : Nat} {s : State} : Leads State.Agree s (execWaitTimeout waiter s) := by
  refine onNode_modes fun t => ?_
  split <;> simp

@[simp] theorem execSyncRead_modes {c : Cmd} {first : BitVec 14} {count : BitVec 15} {s : State} :
    Leads State.Agree s (execSyncRead c first count s) := by
  simp [execSyncRead]

@[simp] theorem execSyncDump_modes {c : Cmd} {freeze : Bool} {freezeNs : BitVec 32} {s : State} :
    Leads State.Agree s (execSyncDump c freeze freezeNs s) := by
  refine runVerb_modes fun t => ?_
  split <;> simp

@[simp] theorem setObj_modes {i : BitVec 14} {value : Nat} {s : State} : (setObj i value s).modes = s.modes := by
  simp [setObj]

@[simp] theorem performSet_modes {i : BitVec 14} {action value : Nat} {o : SyncObj} {s : State} :
    (performSet i action value o s).modes = s.modes := by
  simp [performSet]

@[simp] theorem execSyncSet_modes {c : Cmd} {index : BitVec 14} {action : BitVec 2} {value : BitVec 64} {s : State} :
    Leads State.Agree s (execSyncSet c index action value s) := by
  refine runVerb_modes fun t => withParams_modes fun u => ?_
  (repeat' split) <;> simp

@[simp] theorem setCtrl_modes {i : BitVec 14} {action : Nat} {reserved : Bool} {s : State} :
    (setCtrl i action reserved s).modes = s.modes := by
  unfold setCtrl
  (repeat' split) <;> simp

@[simp] theorem execSetValue_modes {index : BitVec 14} {s : State} : Leads State.Agree s (execSetValue index s) := by
  simp [execSetValue]

@[simp] theorem execClearOverruns_modes {index : BitVec 14} {s : State} : Leads State.Agree s (execClearOverruns index s) := by
  simp [execClearOverruns]

@[simp] theorem execAbortWaiters_modes {index : BitVec 14} {reservedAction : Bool} {s : State} :
    Leads State.Agree s (execAbortWaiters index reservedAction s) := by
  simp [execAbortWaiters]

@[simp] theorem execSyncSel_modes {index : BitVec 14} {s : State} : Leads State.Agree s (execSyncSel index s) := by
  simp [execSyncSel]

@[simp] theorem execSyncSetStatus_modes {s : State} : Leads State.Agree s (execSyncSetStatus s) := by
  simp [execSyncSetStatus]

/-! ## Machine/Qp.lean -/

@[simp] theorem qpError_modes {q : BitVec 12} {cause : Nat} {s : State} : (qpError q cause s).modes = s.modes := by
  unfold qpError
  split <;> simp

@[simp] theorem dropPeerQps_modes {v : VId} {n : NodeId} {s : State} : (dropPeerQps v n s).modes = s.modes := by
  simp [dropPeerQps]

@[simp] theorem execNodeQpCreate_modes {c : Cmd} {p : QpCreateBlk} {s : State} : Leads State.Agree s (execNodeQpCreate c p s) := by
  refine runVerb_modes fun t => withParams_modes fun u => ?_
  split <;> simp

@[simp] theorem execNodeQpDestroy_modes {c : Cmd} {qpn : BitVec 12} {s : State} :
    Leads State.Agree s (execNodeQpDestroy c qpn s) := by
  refine runVerb_modes fun t => withParams_modes fun u => ?_
  split <;> simp

@[simp] theorem execQpHoldExpiry_modes {qpn : BitVec 12} {s : State} : Leads State.Agree s (execQpHoldExpiry qpn s) := by
  simp [execQpHoldExpiry]

@[simp] theorem execQpRetryExhausted_modes {qpn : BitVec 12} {s : State} : Leads State.Agree s (execQpRetryExhausted qpn s) := by
  refine onNode_modes fun t => ?_
  split <;> simp

@[simp] theorem sendAck_modes {q : BitVec 12} {syndrome rnrUs : Nat} {s : State} :
    (sendAck q syndrome rnrUs s).modes = s.modes := by
  unfold sendAck
  split <;> simp

@[simp] theorem ackInvalid_modes {b : Bth} {s : State} : (ackInvalid b s).modes = s.modes := by
  simp [ackInvalid]

@[simp] theorem execAckTimer_modes {qpn : BitVec 12} {s : State} : Leads State.Agree s (execAckTimer qpn s) := by
  refine onNode_modes fun t => ?_
  split <;> simp

@[simp] theorem placePkt_modes {v : VId} {p : DataPkt} {s : State} : (placePkt v p s).modes = s.modes := by
  fun_cases placePkt <;> simp +zetaDelta

@[simp] theorem ackDup_modes {q : BitVec 12} {s : State} : (ackDup q s).modes = s.modes := by
  unfold ackDup
  split <;> simp

@[simp] theorem takeData_modes {v : VId} {x : Qp} {p : DataPkt} {s : State} : (takeData v x p s).modes = s.modes := by
  simp [takeData]

@[simp] theorem execData_modes {p : DataPkt} {s : State} : Leads State.Agree s (execData p s) := by
  refine onNode_modes fun t => ?_
  dsimp only
  (repeat' split) <;> simp

@[simp] theorem resendWhere_modes {q : BitVec 12} {p : TxPkt → Bool} {mark : TxPkt → TxPkt} {s : State} :
    (resendWhere q p mark s).modes = s.modes := by
  unfold resendWhere
  split <;> simp

@[simp] theorem cutRate_modes {q : BitVec 12} {s : State} : (cutRate q s).modes = s.modes := by
  simp [cutRate]

@[simp] theorem takeAck_modes {a : AckPkt} {s : State} : (takeAck a s).modes = s.modes := by
  fun_cases takeAck <;> simp +zetaDelta

@[simp] theorem execAck_modes {p : AckPkt} {s : State} : Leads State.Agree s (execAck p s) := by
  refine onNode_modes fun t => ?_
  (repeat' split) <;> simp

@[simp] theorem countExpiries_modes {q : BitVec 12} {s : State} : (countExpiries q s).modes = s.modes := by
  unfold countExpiries
  split <;> simp

@[simp] theorem execRetxTimerExpiry_modes {qpn : BitVec 12} {s : State} : Leads State.Agree s (execRetxTimerExpiry qpn s) := by
  refine onNode_modes fun t => ?_
  split <;> simp

@[simp] theorem execRnrWaitExpiry_modes {qpn : BitVec 12} {s : State} : Leads State.Agree s (execRnrWaitExpiry qpn s) := by
  refine onNode_modes fun t => ?_
  split <;> simp

@[simp] theorem execEntropySuspendEnd_modes {qpn : BitVec 12} {entropy : BitVec 6} {s : State} :
    Leads State.Agree s (execEntropySuspendEnd qpn entropy s) := by
  simp [execEntropySuspendEnd]

@[simp] theorem execRateIncrease_modes {qpn : BitVec 12} {s : State} : Leads State.Agree s (execRateIncrease qpn s) := by
  refine onNode_modes fun t => ?_
  split <;> simp

@[simp] theorem enterRace_modes {q : BitVec 12} {msn : BitVec 24} {h : MsgHead} {m : RxMsg} {s : State} :
    (enterRace q msn h m s).modes = s.modes := by
  simp [enterRace]

@[simp] theorem execHeadraceAdmit_modes {qpn : BitVec 12} {s : State} : Leads State.Agree s (execHeadraceAdmit qpn s) := by
  refine onNode_modes fun t => ?_
  dsimp only
  (repeat' split) <;> simp

/-! ## Machine/Net.lean -/

@[simp] theorem servedFragment_modes {v : VId} {stripe slot : Nat} {s : State} :
    (servedFragment v stripe slot s).2.modes = s.modes := by
  fun_cases servedFragment <;> simp +zetaDelta

@[simp] theorem readAnswer_modes {v : VId} {addr len : Nat} {s : State} : (readAnswer v addr len s).2.modes = s.modes := by
  simp [readAnswer]

@[simp] theorem execReadReq_modes {m : Msg} {addr : BitVec 64} {len key : BitVec 32} {u : Upsets} {s : State} :
    Leads State.Agree s (execReadReq m addr len key u s) := by
  refine onMsg_modes fun t => ?_
  dsimp only
  (repeat' split) <;> simp

@[simp] theorem execReadResp_modes {m : Msg} {payload : List Byte} {s : State} :
    Leads State.Agree s (execReadResp m payload s) := by
  refine onMsg_modes fun t => ?_
  (repeat' split) <;> simp

@[simp] theorem learnFenced_modes {v : VId} {source : Nat} {s : State} : (learnFenced v source s).modes = s.modes := by
  simp [learnFenced]

@[simp] theorem closeFenced_modes {v : VId} {s : State} : (closeFenced v s).modes = s.modes := by
  refine foldl_modes fun u x => ?_
  split <;> simp

@[simp] theorem retryAssign_modes {v : VId} {prefer : List NodeId} {s : State} : (retryAssign v prefer s).modes = s.modes := by
  simp [retryAssign]

@[simp] theorem mapInstalled_modes {v : VId} {prefer : List NodeId} {s : State} : (mapInstalled v prefer s).modes = s.modes := by
  simp [mapInstalled]

@[simp] theorem nodeMapRow_modes {c : Cmd} {p : MapBlk} {prefer : List NodeId} {s : State} :
    Leads State.Agree s (nodeMapRow c p prefer s) := by
  refine runVerb_modes fun t => withParams_modes fun u => ?_
  dsimp only
  split <;> simp

@[simp] theorem execDrainWindowEnd_modes {v : VId} {s : State} : Leads State.Agree s (execDrainWindowEnd v s) := by
  simp [execDrainWindowEnd]

/-! ## Machine/Copy.lean -/

@[simp] theorem newCopy_modes {v : VId} {h : Handle} {span : Nat} {r : SpanRec} {s : State} :
    (newCopy v h span r s).2.modes = s.modes := by
  unfold newCopy
  obtain ⟨refusal, hr⟩ : ∃ f, f = insertRefusal := ⟨_, rfl⟩
  rw [← hr]
  split
  · rfl
  · next e =>
    dsimp only
    split <;> simp [newMapFrame_modes e]

@[simp] theorem dropCopy_modes {f : FrameId} {s : State} : (dropCopy f s).modes = s.modes := by
  unfold dropCopy
  split <;> simp

theorem reopenPage_modes {p : PageRef} {slots : Nat} {s t : State} (h : reopenPage p slots s = some t) : t.modes = s.modes := by
  simp only [reopenPage] at h
  split at h
  · split at h
    · split at h
      · cases h
      · next e => simp [← Option.some.inj h, allocAny_modes e]
    · cases h; rfl
  · cases h; rfl

theorem discardRows_modes {f : FrameId} {l h n : Nat} {s t : State} (e : discardRows f l h n s = some t) : t.modes = s.modes := by
  simp only [discardRows] at e
  split at e
  · cases e
    rfl
  · split at e
    · simp [← Option.some.inj e]
    · split at e
      · simp [← Option.some.inj e]
      · split at e
        · split at e
          · simp [← Option.some.inj e]
          · simp [reopenPage_modes e]
        · simp [reopenPage_modes e]
        · simp [reopenPage_modes e]
        · simp [← Option.some.inj e]

@[simp] theorem writeCopyRow_modes {f : FrameId} {l h : Nat} {x : StoredRow} {s : State} :
    (writeCopyRow f l h x s).modes = s.modes := by
  unfold writeCopyRow
  split <;> simp

@[simp] theorem applyRowsImage_modes {f : FrameId} {im : RowsImage} {s : State} : (applyRowsImage f im s).2.modes = s.modes := by
  unfold applyRowsImage
  split
  · rfl
  · dsimp only
    split
    · rfl
    · split
      · rfl
      · next e => split <;> simp [discardRows_modes e]

@[simp] theorem applyRowsImages_modes {f : FrameId} {ims : List RowsImage} {s : State} :
    (applyRowsImages f ims s).2.modes = s.modes := by
  induction ims generalizing s with
  | nil => rfl
  | cons im r ih => simp [applyRowsImages, ih]

@[simp] theorem takeRows_modes {h : PeerHdr} {rows : List RowsImage} {s : State} : (takeRows h rows s).modes = s.modes := by
  unfold takeRows
  split <;> simp

@[simp] theorem execMirrorRows_modes {h : PeerHdr} {rows : List RowsImage} {s : State} :
    Leads State.Agree s (execMirrorRows h rows s) := by
  refine onPeer_modes fun t => ?_
  simp

@[simp] theorem execCopyRows_modes {h : PeerHdr} {rows : List RowsImage} {s : State} :
    Leads State.Agree s (execCopyRows h rows s) := by
  refine onPeer_modes fun t => ?_
  simp

@[simp] theorem takeSeqImage_modes {v : VId} {h : Handle} {im : SeqImage} {s : State} :
    (takeSeqImage v h im s).2.modes = s.modes := by
  unfold takeSeqImage
  split
  · split <;> simp
  · split
    · rfl
    · split
      · rfl
      · next e => simp [newMapFrame_modes e]

@[simp] theorem execMirrorRecord_modes {h : PeerHdr} {rec : RecordImage ⊕ SeqImage} {s : State} :
    Leads State.Agree s (execMirrorRecord h rec s) := by
  refine onPeer_modes fun t => whenFills_modes (fun w => ?_)
  dsimp only
  (repeat' split) <;> simp

@[simp] theorem execMirrorSeal_modes {h : PeerHdr} {layer head page : Nat} {digest : List Byte} {s : State} :
    Leads State.Agree s (execMirrorSeal h layer head page digest s) := by
  refine onPeer_modes fun t => linkPeer_modes fun u => ?_
  dsimp only
  (repeat' split) <;> simp

@[simp] theorem dropPages_modes {f : FrameId} {ps : List (Nat × Nat × Nat)} {s : State} : (dropPages f ps s).modes = s.modes := by
  refine foldl_modes fun u x => ?_
  split <;> simp

@[simp] theorem execMirrorRelease_modes {h : PeerHdr} {pages : Option (List (Nat × Nat × Nat))} {s : State} :
    Leads State.Agree s (execMirrorRelease h pages s) := by
  refine onPeer_modes fun t => ?_
  split <;> simp

@[simp] theorem enterManifest_modes {v : VId} {xs : List (Handle × SpanIx)} {s : State} :
    (enterManifest v xs s).2.modes = s.modes := by
  induction xs generalizing s with
  | nil => rfl
  | cons x r ih => simp [enterManifest, ih]

@[simp] theorem execCopyRecord_modes {h : PeerHdr} {rec : RecordImage} {s : State} :
    Leads State.Agree s (execCopyRecord h rec s) := by
  refine onPeer_modes fun t => ?_
  split <;> simp

@[simp] theorem execCopyPage_modes {h : PeerHdr} {layer head page : Nat} {isSealed : Bool} {content : List Byte} {s : State} :
    Leads State.Agree s (execCopyPage h layer head page isSealed content s) := by
  refine onPeer_modes fun t => linkPeer_modes fun u => ?_
  split
  · simp
  · dsimp only
    split
    · simp
    · split
      · simp
      · split
        · simp
        · split
          · next e => simp [rewritePage_done_modes e]
          · next e => simp [rewritePage_differs_modes e]
          · simp

@[simp] theorem allAcked_modes {f : FrameId} {s : State} : (allAcked f s).modes = s.modes := by
  simp [allAcked]

/-! ## Machine/Pair.lean -/

@[simp] theorem updPair_modes {v : VId} {f : VNode → VNode} {s : State} : (updPair v f s).modes = s.modes := by
  simp [updPair]

@[simp] theorem sendPages_modes {k : CopyTo} {job : Nat} {isSealed : Bool} {f : FrameId} {s : State} :
    (sendPages k job isSealed f s).modes = s.modes := by
  unfold sendPages
  split
  · rfl
  · refine foldl_modes fun u x => ?_
    (repeat' split) <;> simp

@[simp] theorem markSent_modes {f : FrameId} {s : State} : (markSent f s).modes = s.modes := by
  simp [markSent]

@[simp] theorem openCopy_modes {v : VId} {k : CopyTo} {f : FrameId} {s : State} : (openCopy v k f s).2.modes = s.modes := by
  unfold openCopy
  split <;> simp

@[simp] theorem startCopy_modes {v : VId} {k : CopyTo} {fs : List FrameId} {s : State} : (startCopy v k fs s).modes = s.modes := by
  simp [startCopy]

@[simp] theorem copyComplete_modes {v : VId} {s : State} : (copyComplete v s).modes = s.modes := by
  simp [copyComplete]

@[simp] theorem manifestStep_modes {v : VId} {h : Handle} {span : Nat} {s : State} : (manifestStep v h span s).modes = s.modes := by
  simp [manifestStep]

@[simp] theorem sendProposed_modes {v : VId} {dest : NodeId} {epoch : BitVec 32} {body : PeerBody} {s : State} :
    (sendProposed v dest epoch body s).modes = s.modes := by
  simp [sendProposed]

@[simp] theorem dropSent_modes {p : PeerSent → Bool} {s : State} : (dropSent p s).modes = s.modes := by rfl

@[simp] theorem formPair_modes {v : VId} {s : State} : (formPair v s).modes = s.modes := by
  unfold formPair
  split <;> simp

@[simp] theorem execTwinPair_modes {c : Cmd} {p : PairBlk} {s : State} : Leads State.Agree s (execTwinPair c p s) := by
  simp [execTwinPair]

@[simp] theorem execPairPropose_modes {h : PeerHdr} {role : BitVec 2} {names : NodeId} {s : State} :
    Leads State.Agree s (execPairPropose h role names s) := by
  refine onPeer_modes fun t => ?_
  dsimp only
  split <;> simp

@[simp] theorem execPairConfirm_modes {h : PeerHdr} {role : BitVec 2} {names : NodeId} {s : State} :
    Leads State.Agree s (execPairConfirm h role names s) := by
  refine onPeer_modes fun t => ?_
  dsimp only
  split <;> simp

@[simp] theorem execTwinPairTimeout_modes {v : VId} {s : State} : Leads State.Agree s (execTwinPairTimeout v s) := by
  refine onNode_modes fun t => ?_
  split <;> simp

@[simp] theorem sendHeartbeat_modes {v : VId} {twin : Bool} {p : HeartbeatPayload} {s : State} :
    (sendHeartbeat v twin p s).modes = s.modes := by
  simp [sendHeartbeat]

@[simp] theorem execHeartbeatSend_modes {v : VId} {s : State} : Leads State.Agree s (execHeartbeatSend v s) := by
  simp [execHeartbeatSend]

@[simp] theorem execHeartbeat_modes {v : VId} {sender : NodeId} {twinLink : Bool} {p : HeartbeatPayload} {s : State} :
    Leads State.Agree s (execHeartbeat v sender twinLink p s) := by
  simp [execHeartbeat]

@[simp] theorem execHeartbeatMiss_modes {v : VId} {twinLink : Bool} {s : State} :
    Leads State.Agree s (execHeartbeatMiss v twinLink s) := by
  simp [execHeartbeatMiss]

@[simp] theorem execNodeFence_modes {c : Cmd} {p : FenceBlk} {s : State} : Leads State.Agree s (execNodeFence c p s) := by
  simp [execNodeFence]

@[simp] theorem resumeAppend_modes {id : Nat} {mirrored : Bool} {s : State} : (resumeAppend id mirrored s).modes = s.modes := by
  unfold resumeAppend
  split <;> simp

@[simp] theorem resumeFilled_modes {s : State} : (resumeFilled s).modes = s.modes := by
  refine foldl_modes fun u x => ?_
  split <;> simp

@[simp] theorem homeUpdate_modes {v : VId} {h : Handle} {span : Nat} {s : State} : (homeUpdate v h span s).modes = s.modes := by
  unfold homeUpdate
  split <;> simp

@[simp] theorem takeOrOwe_modes {f : FrameId} {s : State} : (takeOrOwe f s).modes = s.modes := by
  unfold takeOrOwe
  split <;> simp

@[simp] theorem adoptSpan_modes {f : FrameId} {s : State} : (adoptSpan f s).modes = s.modes := by
  unfold adoptSpan
  split <;> simp

@[simp] theorem takeOver_modes {f : FrameId} {s : State} : (takeOver f s).modes = s.modes := by
  unfold takeOver
  split <;> simp

@[simp] theorem takeOverSeq_modes {f : FrameId} {s : State} : (takeOverSeq f s).modes = s.modes := by
  unfold takeOverSeq
  obtain ⟨refusal, hr⟩ : ∃ f, f = insertRefusal := ⟨_, rfl⟩
  rw [← hr]
  split
  · rfl
  · refine moveRecord_modes.trans ?_
    split <;> simp

@[simp] theorem goSolo_modes {v : VId} {s : State} : (goSolo v s).modes = s.modes := by
  simp [goSolo]

@[simp] theorem twinSoloRow_modes {c : Cmd} {takeover : Bool} {s : State} : Leads State.Agree s (twinSoloRow c takeover s) := by
  refine runVerb_modes fun t => ?_
  split <;> simp

@[simp] theorem execHomeUpdate_modes {h : PeerHdr} {s : State} : Leads State.Agree s (execHomeUpdate h s) := by
  refine onPeer_modes fun t => ?_
  split <;> simp

@[simp] theorem execTwinStatus_modes {c : Cmd} {s : State} : Leads State.Agree s (execTwinStatus c s) := by
  refine runVerb_modes fun t => withParams_modes fun u => ?_
  rfl

@[simp] theorem execNodeLostList_modes {c : Cmd} {fromSeq : BitVec 32} {maxEntries : BitVec 13} {s : State} :
    Leads State.Agree s (execNodeLostList c fromSeq maxEntries s) := by
  simp [execNodeLostList]

/-! ## Machine/Code.lean -/

@[simp] theorem replaceFragment_modes {v : VId} {slot : Nat} {x : Nat × List (Nat × List Byte)} {s : State} :
    (replaceFragment v slot x s).modes = s.modes := by
  unfold replaceFragment
  dsimp only
  split
  · split
    · rfl
    · split
      · rfl
      · next h => simp [newMapFrame_modes h]
  · rfl

@[simp] theorem execTwinCodeset_modes {c : Cmd} {p : CodesetBlk} {stripes : List (Nat × List (Nat × List Byte))} {s : State} :
    Leads State.Agree s (execTwinCodeset c p stripes s) := by
  refine runVerb_modes fun t => linkDone_modes fun u => withParams_modes fun w => ?_
  dsimp only
  split <;> simp

@[simp] theorem execCodeStripeTimeout_modes {v : VId} {s : State} : Leads State.Agree s (execCodeStripeTimeout v s) := by
  refine onNode_modes fun t => ?_
  dsimp only
  split <;> simp

@[simp] theorem contributed_modes {v : VId} {k : Contribution} {s : State} : (contributed v k s).modes = s.modes := by
  fun_cases contributed <;> simp +zetaDelta

@[simp] theorem contribAck_modes {v : VId} {tag : BitVec 32} {ok : Bool} {s : State} : (contribAck v tag ok s).modes = s.modes := by
  unfold contribAck
  split <;> simp

@[simp] theorem updStripe_modes {v : VId} {k : Nat} {f : Stripe → Stripe} {s : State} :
    (updStripe v k f s).modes = s.modes := by rfl

@[simp] theorem stripeStep_modes {v : VId} {k : Nat} {s : State} : (stripeStep v k s).modes = s.modes := by
  unfold stripeStep
  extract_lets x s₁
  have hs₁ : s₁.modes = s.modes := by
    unfold s₁
    split <;> simp
  simp [hs₁]

@[simp] theorem onStripe_modes {h : PeerHdr} {stripe slot : Nat} {f : State → State} {s : State} (hf : ∀ t, (f t).modes = t.modes) :
    (onStripe h stripe slot f s).modes = s.modes := by
  unfold onStripe
  split <;> simp [*]

@[simp] theorem enterSlot_modes {h : PeerHdr} {stripe slot : Nat} {isNull : Bool} {s : State} :
    (enterSlot h stripe slot isNull s).modes = s.modes := by
  simp [enterSlot]

@[simp] theorem execCodeContrib_modes {h : PeerHdr} {stripe slot : Nat} {fragment : List Byte} {s : State} :
    Leads State.Agree s (execCodeContrib h stripe slot fragment s) := by
  refine onPeer_modes fun t => linkPeer_modes fun u => whenFills_modes fun w => onStripe_modes fun x => ?_
  extract_lets v y got
  have hgot (r : FrameId × State) (e : got = some r) : r.2.modes = x.modes := by
    unfold got at e
    split at e
    · cases e; rfl
    · exact newMapFrame_modes e
  clear_value got
  split
  · simp
  · simp [hgot _ rfl]

@[simp] theorem execCodeNull_modes {h : PeerHdr} {stripe slot : Nat} {s : State} :
    Leads State.Agree s (execCodeNull h stripe slot s) := by
  simp [execCodeNull]

/-! ## Machine/Own.lean -/

@[simp] theorem sendCommand_modes {v : VId} {dest : NodeId} {opcode : BitVec 16} {params : List Byte} {j : Job} {s : State} :
    (sendCommand v dest opcode params j s).modes = s.modes := by
  simp [sendCommand]

@[simp] theorem updHandoff_modes {v : VId} {id : BitVec 32} {f : Handoff → Handoff} {s : State} :
    (updHandoff v id f s).modes = s.modes := by rfl

@[simp] theorem enterState_modes {v : VId} {id : BitVec 32} {st : HandoffState} {s : State} :
    (enterState v id st s).modes = s.modes := by rfl

@[simp] theorem dropHandoff_modes {v : VId} {id : BitVec 32} {s : State} : (dropHandoff v id s).modes = s.modes := by rfl

@[simp] theorem abandon_modes {v : VId} {x : Handoff} {s : State} : (abandon v x s).modes = s.modes := by
  refine dropHandoff_modes.trans (foldl_modes fun u f => ?_)
  split <;> simp

@[simp] theorem inDoubt_modes {v : VId} {x : Handoff} {s : State} : (inDoubt v x s).modes = s.modes := by
  simp [inDoubt]

@[simp] theorem releaseMoved_modes {v : VId} {h : Handle} {dest : NodeId} {span : Nat} {s : State} :
    (releaseMoved v h dest span s).modes = s.modes := by
  unfold releaseMoved
  split
  · rfl
  · extract_lets s₁ s₂ s₃
    have hs₃ : s₃.modes = s.modes := by
      unfold s₃
      split <;> simp +zetaDelta
    simp +zetaDelta [hs₃]

@[simp] theorem sourceReleases_modes {v : VId} {x : Handoff} {s : State} : (sourceReleases v x s).modes = s.modes := by
  unfold sourceReleases
  split <;> simp

@[simp] theorem destinationWins_modes {v : VId} {x : Handoff} {s : State} : (destinationWins v x s).modes = s.modes := by
  simp [destinationWins]

@[simp] theorem offerOut_modes {v : VId} {p : OfferBlk} {cmd : Option Cmd} {left : List NodeId} {s : State} :
    (offerOut v p cmd left s).modes = s.modes := by
  simp [offerOut]

@[simp] theorem offerIn_modes {v : VId} {source : NodeId} {p : OfferBlk} {s : State} :
    (offerIn v source p s).state.modes = s.modes := by
  unfold offerIn
  split <;> simp

@[simp] theorem execOwnOffer_modes {c : Cmd} {p : OfferBlk} {s : State} : Leads State.Agree s (execOwnOffer c p s) := by
  refine runVerb_modes fun t => ?_
  split <;> simp

@[simp] theorem tryAccept_modes {v : VId} {x : Handoff} {s : State} : (tryAccept v x s).modes = s.modes := by
  simp [tryAccept]

@[simp] theorem sendCommit_modes {v : VId} {x : Handoff} {s : State} : (sendCommit v x s).modes = s.modes := by
  simp [sendCommit]

@[simp] theorem execOwnAccept_modes {c : Cmd} {handoffId : BitVec 32} {fills : List FillPoint} {s : State} :
    Leads State.Agree s (execOwnAccept c handoffId fills s) := by
  refine runVerb_modes fun t => ?_
  dsimp only
  (repeat' split) <;> simp

@[simp] theorem execOwnCommit_modes {c : Cmd} {handoffId : BitVec 32} {s : State} :
    Leads State.Agree s (execOwnCommit c handoffId s) := by
  refine runVerb_modes fun t => ?_
  dsimp only
  (repeat' split) <;> simp

@[simp] theorem execOwnResend_modes {v : VId} {handoffId : BitVec 32} {s : State} :
    Leads State.Agree s (execOwnResend v handoffId s) := by
  refine onNode_modes fun t => ?_
  (repeat' split) <;> simp

@[simp] theorem ownWaitRow_modes {v : VId} {handoffId : BitVec 32} {s : State} :
    Leads State.Agree s (ownWaitRow v handoffId s) := by
  refine onNode_modes fun t => ?_
  (repeat' split) <;> simp

@[simp] theorem ownResolveRow_modes {c : Cmd} {handoffId : BitVec 32} {winner : BitVec 1} {s : State} :
    Leads State.Agree s (ownResolveRow c handoffId winner s) := by
  refine runVerb_modes fun t => withParams_modes fun u => ?_
  dsimp only
  (repeat' split) <;> simp

@[simp] theorem execOwnStatus_modes {c : Cmd} {s : State} : Leads State.Agree s (execOwnStatus c s) := by
  refine runVerb_modes fun t => withParams_modes fun u => ?_
  rfl

@[simp] theorem moveTo_modes {c : Cmd} {v : VId} {holder : NodeId} {h : Handle} {span : Nat} {dest : NodeId} {left : List NodeId}
    {s : State} : (moveTo c v holder h span dest left s).modes = s.modes := by
  simp [moveTo]

@[simp] theorem moveRefused_modes {c : Cmd} {v : VId} {holder : NodeId} {h : Handle} {span : Nat} {left : List NodeId} {st : Status}
    {s : State} : (moveRefused c v holder h span left st s).modes = s.modes := by
  unfold moveRefused
  split <;> simp

@[simp] theorem execSpanMove_modes {c : Cmd} {t : Target} {prefer : List NodeId} {s : State} :
    Leads State.Agree s (execSpanMove c t prefer s) := by
  refine runVerb_modes fun t => withParams_modes fun u => ?_
  dsimp only
  (repeat' split) <;> simp

@[simp] theorem ownAnswer_modes {id : Nat} {st : Status} {s : State} : (ownAnswer id st s).modes = s.modes := by
  fun_cases ownAnswer <;> simp +zetaDelta

@[simp] theorem writeMsgRow_modes {m : Msg} {payload : List Byte} {s : State} : Leads State.Agree s (writeMsgRow m payload s) := by
  refine onMsg_modes fun t => ?_
  split <;> simp

@[simp] theorem execCopyManifest_modes {h : PeerHdr} {spans : List (Handle × SpanIx)} {s : State} :
    Leads State.Agree s (execCopyManifest h spans s) := by
  simp [execCopyManifest]

@[simp] theorem execCopyDone_modes {h : PeerHdr} {s : State} : Leads State.Agree s (execCopyDone h s) := by
  refine onPeer_modes fun t => ?_
  dsimp only
  split <;> simp

/-! ## Machine/Resume.lean -/

@[simp] theorem after_modes {r : Res} {s : State} (h : Leads State.Agree s r) : (after r s).modes = s.modes := by
  unfold after
  split
  · exact h _ rfl
  · rfl

@[simp] theorem rerun_modes {d : Deferred} {s : State} : (rerun d s).modes = s.modes := by
  unfold rerun
  split <;> simp

@[simp] theorem undefer_modes {id : Nat} {s : State} : (undefer id s).modes = s.modes := by rfl

@[simp] theorem goOn_modes {d : Deferred} {s : State} : (goOn d s).modes = s.modes := by
  simp [goOn]

@[simp] theorem runHeld_modes {p : State → Deferred → Bool} {ds : List Deferred} {s : State} :
    (runHeld p ds s).modes = s.modes := by
  simp [runHeld]

@[simp] theorem wake_modes {s : State} : (wake s).modes = s.modes := by
  unfold wake
  simp +zetaDelta

@[simp] theorem waking_modes {f : State → Res} {s : State} (h : ∀ t, Leads State.Agree t (f t)) :
    Leads State.Agree s (waking f s) := by
  unfold waking
  split
  · split
    · next e => exact .next (wake_modes.trans (h s _ e))
    · exact h s
  · simp

@[simp] theorem filling_modes {hold f : State → Res} {s : State} (hh : ∀ t, Leads State.Agree t (hold t))
    (h : ∀ t, Leads State.Agree t (f t)) : Leads State.Agree s (filling hold f s) := by
  unfold filling
  split
  · split
    · next e =>
      split
      · exact hh s
      · exact .next (settleUe_modes.trans (h s _ e))
    · exact h s
  · simp

@[simp] theorem holdCmd_modes {c : Cmd} {i : Instr} {s : State} : Leads State.Agree s (holdCmd c i s) :=
  runVerb_modes fun _ => by simp

@[simp] theorem dispatchHeld_modes {q : HeldQuery} {s : State} : (dispatchHeld q s).modes = s.modes := by
  unfold dispatchHeld
  split <;> simp

@[simp] theorem resumeQuery_modes {id : Nat} {q : HeldQuery} {s : State} : (resumeQuery id q s).modes = s.modes := by
  refine dispatchHeld_modes.trans ?_
  (repeat' split) <;> simp

@[simp] theorem wakeBank_modes {b : Nat} {s : State} : (wakeBank b s).modes = s.modes := by
  unfold wakeBank
  simp +zetaDelta

@[simp] theorem settleEntries_modes {s : State} : (settleEntries s).modes = s.modes := by
  refine foldl_modes fun u x => ?_
  split <;> simp

@[simp] theorem bankChanged_modes {b : Nat} {s : State} : (bankChanged b s).modes = s.modes := by
  unfold bankChanged
  simp

@[simp] theorem execDirUpdateEnd_modes {bank : BitVec 4} {s : State} : Leads State.Agree s (execDirUpdateEnd bank s) := by
  simp [execDirUpdateEnd]

@[simp] theorem execDirBankRebuildEnd_modes {bank : BitVec 4} {s : State} : Leads State.Agree s (execDirBankRebuildEnd bank s) := by
  simp [execDirBankRebuildEnd]

@[simp] theorem endHeld_modes {d : Deferred} {st : Status} {s : State} : (endHeld d st s).modes = s.modes := by
  unfold endHeld
  split <;> simp

@[simp] theorem endQuery_modes {id : Nat} {q : HeldQuery} {st : Status} {s : State} : (endQuery id q st s).modes = s.modes := by
  simp [endQuery]

@[simp] theorem execDirWaitExpiry_modes {job : Nat} {s : State} : Leads State.Agree s (execDirWaitExpiry job s) := by
  refine onNode_modes fun t => ?_
  (repeat' split) <;> simp

@[simp] theorem dirCleared_modes {v : VId} {s : State} : (dirCleared v s).modes = s.modes := by
  unfold dirCleared
  simp

@[simp] theorem execDirClear_modes {c : Cmd} {s : State} : Leads State.Agree s (execDirClear c s) := by
  simp [execDirClear]

@[simp] theorem execSpanCreateTimeout_modes {tag : BitVec 32} {s : State} : Leads State.Agree s (execSpanCreateTimeout tag s) := by
  refine onNode_modes fun t => ?_
  (repeat' split) <;> simp

@[simp] theorem execKvSmoothTimeout_modes {job : Nat} {s : State} : Leads State.Agree s (execKvSmoothTimeout job s) := by
  refine onNode_modes fun t => ?_
  split <;> simp

@[simp] theorem execSmoothInstall_modes {h : PeerHdr} {layer : BitVec 16} {head : BitVec 8} {sigma : Option (List (BitVec 32))}
    {s : State} : Leads State.Agree s (execSmoothInstall h layer head sigma s) := by
  refine onPeer_modes fun t => ?_
  split <;> simp

theorem dropAppend_modes {id : Nat} {s : State} {x : AppendSrc × AppendDesc × FrameId × State} (h : dropAppend id s = some x) :
    x.2.2.2.modes = s.modes := by
  unfold dropAppend at h
  split at h <;> cases h <;> simp

@[simp] theorem execMirrorAckTimeout_modes {job : Nat} {s : State} : Leads State.Agree s (execMirrorAckTimeout job s) := by
  refine onNode_modes fun t => ?_
  split
  · rfl
  · next e => simp [dropAppend_modes e]

@[simp] theorem execDataRequestTimeout_modes {req : Nat} {s : State} : Leads State.Agree s (execDataRequestTimeout req s) := by
  refine onNode_modes fun t => ?_
  split
  · simp
  · split
    · simp
    · split
      · next e => simp [dropAppend_modes e]
      · split
        · split <;> simp
        · split <;> simp

@[simp] theorem execAppend_modes {m : Msg} {payload : List Byte} {u : Upsets} {s : State} :
    Leads State.Agree s (execAppend m payload u s) := by
  simp [execAppend]

@[simp] theorem execKvAppend_modes {c : Cmd} {payload : List Byte} {u : Upsets} {s : State} :
    Leads State.Agree s (execKvAppend c payload u s) :=
  filling_modes (fun _ t e => (holdCmd_modes t e).trans applyDirUpsets_modes) fun _ => kvAppendRow_modes

@[simp] theorem execSpanOpen_modes {c : Cmd} {p : SpanOpenBlk} {prefer : List NodeId} {s : State} :
    Leads State.Agree s (execSpanOpen c p prefer s) :=
  filling_modes (fun _ => holdCmd_modes) fun _ => spanOpenRow_modes

@[simp] theorem execSpanLocate_modes {c : Cmd} {t : Target} {prefer : List NodeId} {s : State} :
    Leads State.Agree s (execSpanLocate c t prefer s) :=
  filling_modes (fun _ => holdCmd_modes) fun _ => spanLocateRow_modes

@[simp] theorem execSpanAlias_modes {c : Cmd} {p : AliasBlk} {s : State} : Leads State.Agree s (execSpanAlias c p s) :=
  filling_modes (fun _ => holdCmd_modes) fun _ => spanAliasRow_modes

@[simp] theorem execKvMaskSet_modes {c : Cmd} {handle : Handle} {span : SpanIx} {maskRows : BitVec 14} {initialKind : BitVec 2}
    {s : State} : Leads State.Agree s (execKvMaskSet c handle span maskRows initialKind s) :=
  filling_modes (fun _ => holdCmd_modes) fun _ => kvMaskSetRow_modes

@[simp] theorem execKvMaskTile_modes {c : Cmd} {handle : Handle} {span : SpanIx} {tileRow : BitVec 6} {tileCol : BitVec 13}
    {tile : List Byte} {s : State} : Leads State.Agree s (execKvMaskTile c handle span tileRow tileCol tile s) :=
  filling_modes (fun _ => holdCmd_modes) fun _ => kvMaskTileRow_modes

@[simp] theorem execStackSensorRead_modes {stack : BitVec 3} {temp : ℤ} {power : Nat} {quietMs : Bool} {s : State} :
    Leads State.Agree s (execStackSensorRead stack temp power quietMs s) := by
  simp [execStackSensorRead]

@[simp] theorem execPageSeal_modes {s : State} : Leads State.Agree s (execPageSeal s) := by
  simp [execPageSeal]

@[simp] theorem execApertureWrite_modes {offset : BitVec 28} {bytes : List Byte} {u : Upsets} {s : State} :
    Leads State.Agree s (execApertureWrite offset bytes u s) := by
  simp [execApertureWrite]

@[simp] theorem execSpanClose_modes {c : Cmd} {t : Target} {s : State} : Leads State.Agree s (execSpanClose c t s) := by
  simp [execSpanClose]

@[simp] theorem execSeqClose_modes {h : PeerHdr} {s : State} : Leads State.Agree s (execSeqClose h s) := by
  simp [execSeqClose]

@[simp] theorem execSpanFillReport_modes {h : PeerHdr} {prefer : List NodeId} {s : State} :
    Leads State.Agree s (execSpanFillReport h prefer s) := by
  simp [execSpanFillReport]

@[simp] theorem execSpanReset_modes {c : Cmd} {t : Target} {s : State} : Leads State.Agree s (execSpanReset c t s) := by
  simp [execSpanReset]

@[simp] theorem execNodeMap_modes {c : Cmd} {p : MapBlk} {prefer : List NodeId} {s : State} :
    Leads State.Agree s (execNodeMap c p prefer s) := by
  simp [execNodeMap]

@[simp] theorem execTwinSolo_modes {c : Cmd} {takeover : Bool} {s : State} : Leads State.Agree s (execTwinSolo c takeover s) := by
  simp [execTwinSolo]

@[simp] theorem execWrite_modes {m : Msg} {payload : List Byte} {s : State} : Leads State.Agree s (execWrite m payload s) := by
  simp [execWrite]

@[simp] theorem execOwnResolve_modes {c : Cmd} {handoffId : BitVec 32} {winner : BitVec 1} {s : State} :
    Leads State.Agree s (execOwnResolve c handoffId winner s) := by
  simp [execOwnResolve]

@[simp] theorem execOwnWaitExpiry_modes {v : VId} {handoffId : BitVec 32} {s : State} :
    Leads State.Agree s (execOwnWaitExpiry v handoffId s) := by
  simp [execOwnWaitExpiry]

@[simp] theorem forget_modes {tag : BitVec 32} {s : State} : (forget tag s).modes = s.modes := by rfl

@[simp] theorem noteAcked_modes {twinLink : Bool} {v : VId} {h : Handle} {span : Nat} {ims : List RowsImage} {s : State} :
    (noteAcked twinLink v h span ims s).modes = s.modes := by
  unfold noteAcked
  split <;> simp

@[simp] theorem appendsAcked_modes {v : VId} {job : Option Nat} {s : State} : (appendsAcked v job s).modes = s.modes := by
  unfold appendsAcked
  split <;> simp

@[simp] theorem copyStep_modes {m : PeerMsg} {job : Option Nat} {s : State} : (copyStep m job s).modes = s.modes := by
  unfold copyStep
  (repeat' split) <;> simp

@[simp] theorem sendCopy_modes {tag : BitVec 32} {x : PeerSent} {layer head page : Nat} {s : State} :
    (sendCopy tag x layer head page s).modes = s.modes := by
  unfold sendCopy
  split <;> simp

@[simp] theorem copyFailed_modes {tag : BitVec 32} {x : PeerSent} {layer head page : Nat} {s : State} :
    (copyFailed tag x layer head page s).modes = s.modes := by
  unfold copyFailed
  dsimp only
  split
  · simp
  · refine sendCopy_modes.trans ?_
    split <;> simp

@[simp] theorem sealDiffers_modes {m : PeerMsg} {layer head page : Nat} {s : State} :
    (sealDiffers m layer head page s).modes = s.modes := by
  fun_cases sealDiffers <;> simp

@[simp] theorem sealTaken_modes {m : PeerMsg} {layer head page : Nat} {s : State} :
    (sealTaken m layer head page s).modes = s.modes := by
  unfold sealTaken
  split <;> simp

@[simp] theorem noCopy_modes {m : PeerMsg} {layer head page : Nat} {s : State} : (noCopy m layer head page s).modes = s.modes := by
  fun_cases noCopy <;> simp

@[simp] theorem reportTaken_modes {m : PeerMsg} {ok : Bool} {s : State} : (reportTaken m ok s).modes = s.modes := by
  unfold reportTaken
  split <;> simp

@[simp] theorem ackOf_modes {tag : BitVec 32} {x : PeerSent} {st : Status} {fill : Nat} {s : State} :
    (ackOf tag x st fill s).modes = s.modes := by
  fun_cases ackOf <;> simp

@[simp] theorem acceptsDue_modes {v : VId} {s : State} : (acceptsDue v s).modes = s.modes := by
  simp [acceptsDue]

@[simp] theorem execPeerAck_modes {h : PeerHdr} {status : Status} {fill : Nat} {s : State} :
    Leads State.Agree s (execPeerAck h status fill s) := by
  refine onPeerAck_modes fun t => whenFills_modes (fun w => ?_)
  dsimp only
  split <;> simp

@[simp] theorem execPeerResend_modes {tag : BitVec 32} {s : State} : Leads State.Agree s (execPeerResend tag s) := by
  refine onNode_modes fun t => ?_
  dsimp only
  (repeat' split) <;> simp

@[simp] theorem execAsyncMirrorSend_modes {v : VId} {s : State} : Leads State.Agree s (execAsyncMirrorSend v s) := by
  refine onNode_modes fun t => ?_
  split <;> simp

/-! ## Machine/Tenancy.lean -/

@[simp] theorem abortQueries_modes {s : State} : (abortQueries s).modes = s.modes := by
  simp [abortQueries]

@[simp] theorem abortAppends_modes {s : State} : (abortAppends s).modes = s.modes := by
  refine (foldl_modes fun u x => ?_).trans (foldl_modes fun u x => ?_)
  all_goals split <;> simp

@[simp] theorem abortCommands_modes {s : State} : (abortCommands s).modes = s.modes := by
  simp [abortCommands]

@[simp] theorem abortEntered_modes {s : State} {e : Entered} : (abortEntered s e).modes = s.modes := by
  unfold abortEntered
  (repeat' split) <;> simp

@[simp] theorem refuseHeld_modes {s : State} : (refuseHeld s).modes = s.modes := by
  simp [refuseHeld]

@[simp] theorem freeObjects_modes {s : State} : (freeObjects s).modes = s.modes := by
  simp [freeObjects]

@[simp] theorem dropWork_modes {s : State} : (dropWork s).modes = s.modes := by rfl

@[simp] theorem endRequests_modes {s : State} : (endRequests s).modes = s.modes := by
  unfold endRequests
  simp

@[simp] theorem cutFabric_modes {s : State} : (cutFabric s).modes = s.modes := by
  simp [cutFabric]

@[simp] theorem changeKeys_modes {tk : Option (List Byte)} {s : State} : (changeKeys tk s).modes = s.modes := by
  unfold changeKeys
  split <;> simp

@[simp] theorem repairFrames_modes {s : State} : (repairFrames s).modes = s.modes := by
  simp [repairFrames]

@[simp] theorem forgetPages_modes {s : State} : (forgetPages s).modes = s.modes := by
  simp [forgetPages]

@[simp] theorem forgetLog_modes {s : State} : (forgetLog s).modes = s.modes := by rfl

@[simp] theorem setAnchors_modes {as_ : List AnchorEntry} {s : State} : (setAnchors as_ s).modes = s.modes := by
  simp [setAnchors]

/-! ## Machine/Mgmt.lean -/

@[simp] theorem execSetdasa_modes {staticAddr dynamicAddr : BitVec 7} {s : State} :
    Leads State.Agree s (execSetdasa staticAddr dynamicAddr s) := by
  simp [execSetdasa]

@[simp] theorem endSession_modes {i : BitVec 2} {s : State} : (endSession i s).modes = s.modes := by
  simp [endSession]

@[simp] theorem endTenantSessions_modes {s : State} : (endTenantSessions s).modes = s.modes := by
  simp [endTenantSessions]

@[simp] theorem refuseSession_modes {s : State} : (refuseSession s).modes = s.modes := by
  simp [refuseSession]

@[simp] theorem openSession_modes {i role : Nat} {ek nonce : List Byte} {cred : Credential} {s : State} :
    (openSession i role ek nonce cred s).modes = s.modes := by
  simp [openSession]

@[simp] theorem execSessionInit_modes {ek nonce : List Byte} {cred : Credential} {s : State} :
    Leads State.Agree s (execSessionInit ek nonce cred s) := by
  refine onNode_modes fun t => ?_
  (repeat' split) <;> simp

@[simp] theorem execSessionClose_modes {session : BitVec 2} {how : SessionEnd} {s : State} :
    Leads State.Agree s (execSessionClose session how s) := by
  simp [execSessionClose]

@[simp] theorem execSessionIdleTimeout_modes {session : BitVec 2} {s : State} :
    Leads State.Agree s (execSessionIdleTimeout session s) := by
  simp [execSessionIdleTimeout]

@[simp] theorem countRecord_modes {i : BitVec 2} {sent : Bool} {s : State} : (countRecord i sent s).modes = s.modes := by
  unfold countRecord
  split <;> simp

@[simp] theorem mgmtAnswer_modes {r : MgmtReq} {st : Status} {body : List Byte} {s : State} :
    (mgmtAnswer r st body s).modes = s.modes := by
  simp [mgmtAnswer]

@[simp] theorem onMgmt_modes {r : MgmtReq} {roles : List Nat} {f : State → State} {s : State} (h : ∀ t, (f t).modes = t.modes) :
    Leads State.Agree s (onMgmt r roles f s) :=
  onNode_modes fun _ => by split <;> simp [h]

@[simp] theorem execGetStatus_modes {r : MgmtReq} {s : State} : Leads State.Agree s (execGetStatus r s) := by
  simp [execGetStatus]

@[simp] theorem execGetTelemetry_modes {r : MgmtReq} {clear rsv : Bool} {s : State} :
    Leads State.Agree s (execGetTelemetry r clear rsv s) := by
  simp [execGetTelemetry]

@[simp] theorem execGetAttestation_modes {r : MgmtReq} {nonce : List Byte} {s : State} :
    Leads State.Agree s (execGetAttestation r nonce s) := by
  refine onMgmt_modes fun t => ?_
  split <;> simp

@[simp] theorem execGetCerts_modes {r : MgmtReq} {s : State} : Leads State.Agree s (execGetCerts r s) := by
  simp [execGetCerts]

@[simp] theorem execSetTime_modes {r : MgmtReq} {utc : BitVec 64} {s : State} : Leads State.Agree s (execSetTime r utc s) := by
  simp [execSetTime]

@[simp] theorem execSetFabricIdentity_modes {r : MgmtReq} {v : VId} {nodeId : NodeId} {pfx : BitVec 64} {forwarding : Bool}
    {s : State} : Leads State.Agree s (execSetFabricIdentity r v nodeId pfx forwarding s) := by
  simp [execSetFabricIdentity]

@[simp] theorem execSetPeerEntry_modes {r : MgmtReq} {v : VId} {peer : NodeId} {e : PeerEntry} {rsv : Bool} {s : State} :
    Leads State.Agree s (execSetPeerEntry r v peer e rsv s) := by
  simp [execSetPeerEntry]

@[simp] theorem execReadNeighbours_modes {r : MgmtReq} {v : VId} {s : State} : Leads State.Agree s (execReadNeighbours r v s) := by
  simp [execReadNeighbours]

@[simp] theorem execSetFabricAnchors_modes {r : MgmtReq} {anchors : List AnchorEntry} {s : State} :
    Leads State.Agree s (execSetFabricAnchors r anchors s) := by
  simp [execSetFabricAnchors]

@[simp] theorem execSpdmRequest_modes {firstBlock lastBlock : BitVec 8} {nonce : List Byte} {s : State} :
    Leads State.Agree s (execSpdmRequest firstBlock lastBlock nonce s) := by
  simp [execSpdmRequest]

@[simp] theorem execIdeKm_modes {stream : BitVec 4} {secure : Bool} {s : State} :
    Leads State.Agree s (execIdeKm stream secure s) := by
  simp [execIdeKm]

@[simp] theorem execIdeState_modes {stream : BitVec 4} {s : State} : Leads State.Agree s (execIdeState stream s) := by
  simp [execIdeState]

/-! ## Machine/Cfg.lean -/

@[simp] theorem loadTables_modes {ts : List TableImage} {s : State} : (loadTables ts s).modes = s.modes := by
  refine foldl_modes fun u x => ?_
  split <;> simp

@[simp] theorem rejudgeTargets_modes {before : Knobs} {s : State} : (rejudgeTargets before s).modes = s.modes := by
  simp [rejudgeTargets]

@[simp] theorem execCfgRead_modes {c : Cmd} {s : State} : Leads State.Agree s (execCfgRead c s) := by
  simp [execCfgRead]

/-! ## Machine/Sram.lean -/

@[simp] theorem dropJob_modes {id : Nat} {j : Job} {s : State} : (dropJob id j s).modes = s.modes := by
  unfold dropJob
  split <;> simp

@[simp] theorem abortHeld_modes {c : Cmd} {s : State} : (abortHeld c s).modes = s.modes := by
  unfold abortHeld
  split
  · rfl
  · refine completeOnly_modes.trans ((foldl_modes fun u x => ?_).trans rfl)
    split <;> simp

@[simp] theorem restartCore_modes {m : Nat} {s : State} : (restartCore m s).modes = s.modes := by
  unfold restartCore
  simp +zetaDelta

@[simp] theorem loseMessage_modes {q : BitVec 12} {n : BitVec 24} {s : State} : (loseMessage q n s).modes = s.modes := by
  unfold loseMessage
  (repeat' split) <;> simp

@[simp] theorem sramEffect_modes {e : SramErr} {s : State} : (sramEffect e s).modes = s.modes := by
  unfold sramEffect
  split <;> simp

@[simp] theorem sramError_modes {s : State} {e : SramErr} : (sramError s e).modes = s.modes := by
  simp [sramError]

@[simp] theorem execSramScrub_modes {errs : List SramErr} {s : State} : Leads State.Agree s (execSramScrub errs s) := by
  simp [execSramScrub]

/-! ## The rows that own a mode (R26) -/

/-- A measurement register takes in a digest (R542). -/
def Modes.extend (i : Nat) (d : List Byte) (m : Modes) : Modes :=
  { m with meas := m.meas.set i (sha256 (m.meas.getD i (zeros 32) ++ d)) }

@[simp] theorem extendMeas_modes {i : Nat} {d : List Byte} {s : State} : (extendMeas i d s).modes = s.modes.extend i d := rfl

@[simp] theorem noteConfig_modes {params : List Byte} {s : State} :
    (noteConfig params s).modes = s.modes.extend 4 (sha256 params) := rfl

@[simp] theorem putKnobs_modes {k : Knobs} {s : State} : (putKnobs k s).modes = { s.modes with knobs := k } := rfl

@[simp] theorem setLoad_modes {fw : Nat} {l : Option Loader} {s : State} :
    (setLoad fw l s).modes = { s.modes with fwState := fw } := rfl

@[simp] theorem setDebugLock_modes {open_ : Bool} {s : State} :
    (setDebugLock open_ s).modes = { s.modes with debugLockOpen := open_ } := by
  unfold setDebugLock
  split
  · next h => simp [State.modes, h]
  · exact logFrom_modes

@[simp] theorem acceptImage_modes {img : ConfigImage} {s : State} :
    (acceptImage img s).modes =
      Modes.extend 4 (sha256 (imageBytesOf img)) { s.modes with knobs := imageKnobsOf img, configured := true } := by
  unfold acceptImage
  refine (foldl_modes fun _ _ => agreeWithAll_modes).trans (logFrom_modes.trans ?_)
  rw [noteConfig_modes, loadTables_modes]
  exact congrArg (Modes.extend 4 _) rejudgeTargets_modes

@[simp] theorem loadFails_modes {op step component : Nat} {s : State} :
    (loadFails op step component s).modes = { s.modes with fwState := fwFailed } := by
  simp [loadFails]

/-- The modes after the tenancy has changed: the new tenancy, and the measurement of it. -/
def Modes.entered (new : Nat) (tk : Option (List Byte)) (m : Modes) : Modes :=
  Modes.extend 5 (sha256 (BitVec.ofNat 8 new :: tenancyKeyId tk)) { m with tenancy := new }

@[simp] theorem enterTenancy_modes {new : Nat} {tk : Option (List Byte)} {s : State} :
    (enterTenancy new tk s).modes = s.modes.entered new tk := by
  simp [enterTenancy]
  rfl

@[simp] theorem tenantChange_modes {new : Nat} {tk : Option (List Byte)} {s : State} :
    (tenantChange new tk s).modes = s.modes.entered new tk := by
  simp [tenantChange]

@[simp] theorem changeFor_modes {r : MgmtReq} {new : Nat} {tk : Option (List Byte)} {s : State} :
    (changeFor r new tk s).modes = s.modes.entered new tk := by
  simp [changeFor]

@[simp] theorem releaseReset_modes {mode : BitVec 2} {test : Bool} {s : State} :
    (releaseReset mode test s).modes = { s.modes with fatal := false } := by
  unfold releaseReset
  split
  · exact emit_modes
  · rfl

/-! What each owner must leave as it is: the modes with a fixed value for those that its rows own. -/

/-- Besides what a configuration image sets. -/
def Modes.besidesImage (m : Modes) : Modes := { m with knobs := Knobs.default, configured := false, meas := [] }

/-- Besides what a profile sets. -/
def Modes.besidesProfile (m : Modes) : Modes := { m with knobs := Knobs.default, meas := [] }

/-- Besides what the tenancy rows set. -/
def Modes.besidesTenancy (m : Modes) : Modes := { m with tenancy := 0, debugLockOpen := false, meas := [] }

/-- Besides the debug lock. -/
def Modes.besidesDebugLock (m : Modes) : Modes := { m with debugLockOpen := false }

/-- Besides the tenant's anchor. -/
def Modes.besidesTenantAnchor (m : Modes) : Modes := { m with tenantAnchor := [] }

/-- Besides the operator's anchor. -/
def Modes.besidesOperatorAnchor (m : Modes) : Modes := { m with operatorAnchor := [] }

/-- Besides the lock of the operator's anchor. -/
def Modes.besidesAnchorLock (m : Modes) : Modes := { m with anchorLock := false }

/-- Besides FW_STATE. -/
def Modes.besidesFwState (m : Modes) : Modes := { m with fwState := 0 }

/-- Besides what the start of firmware sets. -/
def Modes.besidesStart (m : Modes) : Modes := { m with fwState := 0, meas := [] }

/-- Besides what power-up sets. -/
def Modes.besidesPowerUp (m : Modes) : Modes := { m with fatal := false, meas := [] }

/-- The modes agree, as far as `b` shows them. -/
def State.AgreeIn (b : Modes → Modes) (s t : State) : Prop := b t.modes = b s.modes

section
variable {b : Modes → Modes} {s : State}

theorem onNode_besides {f : State → State} (h : ∀ t, b (f t).modes = b t.modes) : Leads (State.AgreeIn b) s (onNode f s) := by
  refine .next ?_
  split
  · exact h s
  · rfl

theorem finish_besides {c : Cmd} {d : Done} (h : b d.state.modes = b s.modes) : b (finish c s d).modes = b s.modes := by
  cases d with
  | now r t =>
    dsimp only [finish]
    split
    · rw [complete_modes]
    · rw [complete_modes]
      exact h
  | later t => exact h

theorem runVerb_besides {c : Cmd} {body : State → Done} (h : ∀ t, b (body t).state.modes = b t.modes) :
    Leads (State.AgreeIn b) s (runVerb c body s) := by
  refine onNode_besides fun t => ?_
  unfold runCmd
  split
  · exact finish_besides ((h _).trans (by simp))
  · split
    · simp
    · split
      · refine (finish_besides ((h _).trans (by simp))).trans (by simp)
      · split <;> simp

theorem onMgmt_besides {r : MgmtReq} {roles : List Nat} {f : State → State} (h : ∀ t, b (f t).modes = b t.modes) :
    Leads (State.AgreeIn b) s (onMgmt r roles f s) := by
  refine onNode_besides fun t => ?_
  split
  · rfl
  · dsimp only
    split
    · rw [h, countRecord_modes]
    · simp

theorem onWord_besides {op : Nat} {arg : State → Nat} {f : State → State} (h : ∀ t, b (f t).modes = b t.modes) :
    Leads (State.AgreeIn b) s (onWord op arg f s) := by
  unfold onWord
  split
  · exact onNode_besides fun t => by simp
  · exact onNode_besides fun t => by rw [h, takeMail_modes]

end

theorem measureType_besides {m : Manifest} {ctype : Nat} {s : State} :
    (measureType m ctype s).modes.besidesStart = s.modes.besidesStart := by
  unfold measureType
  generalize m.components.filter _ = cs
  induction cs generalizing s with
  | nil => rfl
  | cons c cs ih => rw [List.foldl_cons, ih, extendMeas_modes]; rfl

theorem startFirmware_besides {m : Manifest} {s : State} : (startFirmware m s).modes.besidesStart = s.modes.besidesStart := by
  unfold startFirmware
  rw [logFrom_modes, driveWp_modes]
  exact measureType_besides.trans (measureType_besides.trans measureType_besides)

section
variable {s : State}

theorem execCfgImage_besides {c : Cmd} {img : ConfigImage} :
    Leads (State.AgreeIn Modes.besidesImage) s (execCfgImage c img s) := by
  refine runVerb_besides fun t => ?_
  split <;> simp [Modes.besidesImage, Modes.extend]

theorem execCfgProfile_besides {c : Cmd} {p : ProfileBlock} :
    Leads (State.AgreeIn Modes.besidesProfile) s (execCfgProfile c p s) := by
  refine runVerb_besides fun t => ?_
  dsimp only
  (repeat' split) <;> simp [Modes.besidesProfile, Modes.extend]

theorem execTenancySeal_besides {r : MgmtReq} {tk : List Byte} {hostData : BitVec 8} {anchors : List AnchorEntry} :
    Leads (State.AgreeIn Modes.besidesTenancy) s (execTenancySeal r tk hostData anchors s) := by
  refine onMgmt_besides fun t => ?_
  dsimp only
  (repeat' split) <;> simp [Modes.besidesTenancy, Modes.entered, Modes.extend]

theorem execTenancyOpen_besides {r : MgmtReq} {tk : List Byte} :
    Leads (State.AgreeIn Modes.besidesTenancy) s (execTenancyOpen r tk s) := by
  refine onMgmt_besides fun t => ?_
  (repeat' split) <;> simp [Modes.besidesTenancy, Modes.entered, Modes.extend]

theorem execTenancyRelease_besides {r : MgmtReq} :
    Leads (State.AgreeIn Modes.besidesTenancy) s (execTenancyRelease r s) := by
  refine onMgmt_besides fun t => ?_
  split <;> simp [Modes.besidesTenancy, Modes.entered, Modes.extend]

theorem execDebugLock_besides {r : MgmtReq} {open_ : Bool} :
    Leads (State.AgreeIn Modes.besidesDebugLock) s (execDebugLock r open_ s) := by
  refine onMgmt_besides fun t => ?_
  split <;> simp [Modes.besidesDebugLock]

theorem execSetTenantAnchor_besides {r : MgmtReq} {digest : List Byte} :
    Leads (State.AgreeIn Modes.besidesTenantAnchor) s (execSetTenantAnchor r digest s) := by
  refine onMgmt_besides fun t => ?_
  split
  · simp
  · split
    · simp
    · rw [mgmtAnswer_modes]
      rfl

theorem execOperatorAnchor_besides {offset : BitVec 5} {bytes : List Byte} :
    Leads (State.AgreeIn Modes.besidesOperatorAnchor) s (execOperatorAnchor offset bytes s) :=
  .next (by split <;> rfl)

theorem execAnchorLock_besides {value : BitVec 8} :
    Leads (State.AgreeIn Modes.besidesAnchorLock) s (execAnchorLock value s) :=
  .next (by split <;> rfl)

theorem execBegin_besides {len : BitVec 32} : Leads (State.AgreeIn Modes.besidesFwState) s (execBegin len s) := by
  refine onWord_besides fun t => ?_
  (repeat' split) <;> simp [Modes.besidesFwState]

theorem execChunk_besides {len : BitVec 21} {offset : BitVec 32} {manifest : Option Manifest} :
    Leads (State.AgreeIn Modes.besidesFwState) s (execChunk len offset manifest s) := by
  refine onWord_besides fun t => ?_
  dsimp only
  (repeat' split) <;> simp [Modes.besidesFwState]

theorem execEnd_besides : Leads (State.AgreeIn Modes.besidesStart) s (execEnd s) := by
  refine onWord_besides fun t => ?_
  (repeat' split) <;> simp [startFirmware_besides]
  · rfl
  · rfl

theorem execAbort_besides : Leads (State.AgreeIn Modes.besidesFwState) s (execAbort s) := by
  refine onWord_besides fun t => ?_
  split <;> simp [Modes.besidesFwState]

theorem execLoaderIdleTimeout_besides : Leads (State.AgreeIn Modes.besidesFwState) s (execLoaderIdleTimeout s) := by
  refine onNode_besides fun t => ?_
  split <;> simp [Modes.besidesFwState]

theorem execPowerUp_besides {mode : BitVec 2} {test : Bool} {puf : List Byte} :
    Leads (State.AgreeIn Modes.besidesPowerUp) s (execPowerUp mode test puf s) := by
  refine .next ?_
  unfold State.AgreeIn
  split
  · rfl
  · dsimp only
    split <;> simp [Modes.besidesPowerUp, Modes.extend]

end

/-! ## Machine/Instr.lean: every row of `exec` -/

/-- What changes of the modes from one state to the next is what the row owns. -/
def State.OwnersOnly (i : Instr) (s t : State) : Prop :=
  (t.knobs ≠ s.knobs → ∃ c, (∃ img, i = .cfgImage c img) ∨ ∃ p, i = .cfgProfile c p)
  ∧ (t.configured ≠ s.configured → ∃ c img, i = .cfgImage c img)
  ∧ (t.mgmt.tenancy ≠ s.mgmt.tenancy → i.tenancy = true)
  ∧ (t.mgmt.debugLockOpen ≠ s.mgmt.debugLockOpen → (∃ r o, i = .debugLock r o) ∨ i.tenancy = true)
  ∧ (t.mgmt.tenantAnchor ≠ s.mgmt.tenantAnchor → ∃ r d, i = .setTenantAnchor r d)
  ∧ (t.mgmt.operatorAnchor ≠ s.mgmt.operatorAnchor → ∃ o bs, i = .operatorAnchor o bs)
  ∧ (t.mgmt.anchorLock ≠ s.mgmt.anchorLock → ∃ v, i = .anchorLock v)
  ∧ (t.pw.fwState ≠ s.pw.fwState → (∃ n, i = .begin_ n) ∨ (∃ n o m, i = .chunk n o m) ∨ i = .end_
    ∨ i = .abort ∨ i = .loaderIdleTimeout)
  ∧ (t.pw.fatal ≠ s.pw.fatal → ∃ mode test puf, i = .powerUp mode test puf)
  ∧ (t.mgmt.meas ≠ s.mgmt.meas → i.tenancy = true ∨ i = .end_ ∨ (∃ mode test puf, i = .powerUp mode test puf)
      ∨ ∃ c, (∃ img, i = .cfgImage c img) ∨ ∃ p, i = .cfgProfile c p)

section
variable {i : Instr} {s t : State} {r : Res} {b : Modes → Modes}

/-- What `b` shows as it is agrees. -/
theorem State.AgreeIn.shown {α : Type} (f : Modes → α) (h : State.AgreeIn b s t) (k : ∀ m, f (b m) = f m) : f t.modes = f s.modes := by
  rw [← k t.modes, h, k]

/-- A row changes only what it owns: each mode is the row's own, or `b` shows it. A mode of which a use says nothing, `b` shows. -/
theorem Leads.owned (h : Leads (State.AgreeIn b) s r)
    (hk : (∃ c, (∃ img, i = .cfgImage c img) ∨ ∃ p, i = .cfgProfile c p) ∨ ∀ m, (b m).knobs = m.knobs := by exact .inr fun _ => rfl)
    (hc : (∃ c img, i = .cfgImage c img) ∨ ∀ m, (b m).configured = m.configured := by exact .inr fun _ => rfl)
    (ht : i.tenancy = true ∨ ∀ m, (b m).tenancy = m.tenancy := by exact .inr fun _ => rfl)
    (hd : ((∃ r o, i = .debugLock r o) ∨ i.tenancy = true) ∨ ∀ m, (b m).debugLockOpen = m.debugLockOpen := by exact .inr fun _ => rfl)
    (ha : (∃ r d, i = .setTenantAnchor r d) ∨ ∀ m, (b m).tenantAnchor = m.tenantAnchor := by exact .inr fun _ => rfl)
    (ho : (∃ o bs, i = .operatorAnchor o bs) ∨ ∀ m, (b m).operatorAnchor = m.operatorAnchor := by exact .inr fun _ => rfl)
    (hl : (∃ v, i = .anchorLock v) ∨ ∀ m, (b m).anchorLock = m.anchorLock := by exact .inr fun _ => rfl)
    (hw : ((∃ n, i = .begin_ n) ∨ (∃ n o m, i = .chunk n o m) ∨ i = .end_ ∨ i = .abort ∨ i = .loaderIdleTimeout)
      ∨ ∀ m, (b m).fwState = m.fwState := by exact .inr fun _ => rfl)
    (hf : (∃ mode test puf, i = .powerUp mode test puf) ∨ ∀ m, (b m).fatal = m.fatal := by exact .inr fun _ => rfl)
    (hq : (i.tenancy = true ∨ i = .end_ ∨ (∃ mode test puf, i = .powerUp mode test puf)
      ∨ ∃ c, (∃ img, i = .cfgImage c img) ∨ ∃ p, i = .cfgProfile c p) ∨ ∀ m, (b m).meas = m.meas := by exact .inr fun _ => rfl) :
    Leads (State.OwnersOnly i) s r := fun t e =>
  have g := h t e
  ⟨fun n => hk.resolve_right (n <| g.shown Modes.knobs ·), fun n => hc.resolve_right (n <| g.shown Modes.configured ·),
    fun n => ht.resolve_right (n <| g.shown Modes.tenancy ·), fun n => hd.resolve_right (n <| g.shown Modes.debugLockOpen ·),
    fun n => ha.resolve_right (n <| g.shown Modes.tenantAnchor ·), fun n => ho.resolve_right (n <| g.shown Modes.operatorAnchor ·),
    fun n => hl.resolve_right (n <| g.shown Modes.anchorLock ·), fun n => hw.resolve_right (n <| g.shown Modes.fwState ·),
    fun n => hf.resolve_right (n <| g.shown Modes.fatal ·), fun n => hq.resolve_right (n <| g.shown Modes.meas ·)⟩

/-- A row that leaves all modes owns none. -/
theorem Leads.agreed (h : Leads State.Agree s r) : Leads (State.OwnersOnly i) s r := Leads.owned (b := id) h

end

/-- Every row outside device reset changes only the modes that it owns. -/
theorem exec_owned {i : Instr} {s : State} (hr : i.resets = false) : Leads (State.OwnersOnly i) s (exec i s) := by
  cases i with
  | cfgImage =>
    exact execCfgImage_besides.owned (hk := .inl ⟨_, .inl ⟨_, rfl⟩⟩) (hc := .inl ⟨_, _, rfl⟩)
      (hq := .inl (.inr (.inr (.inr ⟨_, .inl ⟨_, rfl⟩⟩))))
  | cfgProfile =>
    exact execCfgProfile_besides.owned (hk := .inl ⟨_, .inr ⟨_, rfl⟩⟩) (hq := .inl (.inr (.inr (.inr ⟨_, .inr ⟨_, rfl⟩⟩))))
  | tenancySeal => exact execTenancySeal_besides.owned (ht := .inl rfl) (hd := .inl (.inr rfl)) (hq := .inl (.inl rfl))
  | tenancyOpen => exact execTenancyOpen_besides.owned (ht := .inl rfl) (hd := .inl (.inr rfl)) (hq := .inl (.inl rfl))
  | tenancyRelease => exact execTenancyRelease_besides.owned (ht := .inl rfl) (hd := .inl (.inr rfl)) (hq := .inl (.inl rfl))
  | debugLock => exact execDebugLock_besides.owned (hd := .inl (.inl ⟨_, _, rfl⟩))
  | setTenantAnchor => exact execSetTenantAnchor_besides.owned (ha := .inl ⟨_, _, rfl⟩)
  | operatorAnchor => exact execOperatorAnchor_besides.owned (ho := .inl ⟨_, _, rfl⟩)
  | anchorLock => exact execAnchorLock_besides.owned (hl := .inl ⟨_, rfl⟩)
  | begin_ => exact execBegin_besides.owned (hw := .inl (.inl ⟨_, rfl⟩))
  | chunk => exact execChunk_besides.owned (hw := .inl (.inr (.inl ⟨_, _, _, rfl⟩)))
  | abort => exact execAbort_besides.owned (hw := .inl (.inr (.inr (.inr (.inl rfl)))))
  | loaderIdleTimeout => exact execLoaderIdleTimeout_besides.owned (hw := .inl (.inr (.inr (.inr (.inr rfl)))))
  | end_ => exact execEnd_besides.owned (hw := .inl (.inr (.inr (.inl rfl)))) (hq := .inl (.inr (.inl rfl)))
  | powerUp => exact execPowerUp_besides.owned (hf := .inl ⟨_, _, _, rfl⟩) (hq := .inl (.inr (.inr (.inl ⟨_, _, _, rfl⟩))))
  | cfgRead => exact execCfgRead_modes.agreed
  | spanOpen => exact execSpanOpen_modes.agreed
  | spanCreateRequest => exact execSpanCreateRequest_modes.agreed
  | spanCreateTimeout => exact execSpanCreateTimeout_modes.agreed
  | spanFillReport => exact execSpanFillReport_modes.agreed
  | spanLocate => exact execSpanLocate_modes.agreed
  | sequenceRecordMove => exact execSequenceRecordMove_modes.agreed
  | spanClose => exact execSpanClose_modes.agreed
  | spanCloseTimeout => exact execSpanCloseTimeout_modes.agreed
  | seqClose => exact execSeqClose_modes.agreed
  | spanAlias => exact execSpanAlias_modes.agreed
  | spanMove => exact execSpanMove_modes.agreed
  | spanCoverage => exact execSpanCoverage_modes.agreed
  | spanReset => exact execSpanReset_modes.agreed
  | frameDrainEnd => exact execFrameDrainEnd_modes.agreed
  | quarantineEnd => exact execQuarantineEnd_modes.agreed
  | dataRequestTimeout => exact execDataRequestTimeout_modes.agreed
  | dirBankRebuildEnd => exact execDirBankRebuildEnd_modes.agreed
  | dirScrub => exact execDirScrub_modes.agreed
  | dirUpdateEnd => exact execDirUpdateEnd_modes.agreed
  | dirWaitExpiry => exact execDirWaitExpiry_modes.agreed
  | dirHoleRestore => exact execDirHoleRestore_modes.agreed
  | tombstoneExpiry => exact execTombstoneExpiry_modes.agreed
  | dirClear => exact execDirClear_modes.agreed
  | dirRead => exact execDirRead_modes.agreed
  | dirProbe => exact execDirProbe_modes.agreed
  | append => exact execAppend_modes.agreed
  | kvAppend => exact execKvAppend_modes.agreed
  | spareReplenish => exact execSpareReplenish_modes.agreed
  | pageSeal => exact execPageSeal_modes.agreed
  | kvSmooth => exact execKvSmooth_modes.agreed
  | smoothHold => exact execSmoothHold_modes.agreed
  | smoothInstall => exact execSmoothInstall_modes.agreed
  | kvSmoothTimeout => exact execKvSmoothTimeout_modes.agreed
  | kvMaskSet => exact execKvMaskSet_modes.agreed
  | kvMaskTile => exact execKvMaskTile_modes.agreed
  | kvMaskDrop => exact execKvMaskDrop_modes.agreed
  | maskSlotFree => exact execMaskSlotFree_modes.agreed
  | rnNop => exact execRnNop_modes.agreed
  | rnQload => exact execRnQload_modes.agreed
  | rnScale => exact execRnScale_modes.agreed
  | rnScore => exact execRnScore_modes.agreed
  | rnWload => exact execRnWload_modes.agreed
  | rnWeigh => exact execRnWeigh_modes.agreed
  | rnDrain => exact execRnDrain_modes.agreed
  | rnFill => exact execRnFill_modes.agreed
  | rnCopy => exact execRnCopy_modes.agreed
  | rnScrub => exact execRnScrub_modes.agreed
  | rnAbort => exact execRnAbort_modes.agreed
  | rnStatus => exact execRnStatus_modes.agreed
  | refreshDue => exact execRefreshDue_modes.agreed
  | stackSensorRead => exact execStackSensorRead_modes.agreed
  | attnQuery => exact execAttnQuery_modes.agreed
  | query => exact execQuery_modes.agreed
  | attnReserve => exact execAttnReserve_modes.agreed
  | attnAdmitTimeout => exact execAttnAdmitTimeout_modes.agreed
  | keyPassComplete => exact execKeyPassComplete_modes.agreed
  | dieBlockDone => exact execDieBlockDone_modes.agreed
  | segmentComplete => exact execSegmentComplete_modes.agreed
  | valuePassComplete => exact execValuePassComplete_modes.agreed
  | attnMerge => exact execAttnMerge_modes.agreed
  | attnQueryFanout => exact execAttnQueryFanout_modes.agreed
  | fanoutTimeout => exact execFanoutTimeout_modes.agreed
  | readVerify => exact execReadVerify_modes.agreed
  | scrubVerify => exact execScrubVerify_modes.agreed
  | twinVerifyTimeout => exact execTwinVerifyTimeout_modes.agreed
  | replicaRewrite => exact execReplicaRewrite_modes.agreed
  | pageRepair => exact execPageRepair_modes.agreed
  | sramScrub => exact execSramScrub_modes.agreed
  | patrolScrubStep => exact execPatrolScrubStep_modes.agreed
  | scrubPassDone => exact execScrubPassDone_modes.agreed
  | scrubIntervalEnd => exact execScrubIntervalEnd_modes.agreed
  | scrubPass => exact execScrubPass_modes.agreed
  | packPage => exact execPackPage_modes.agreed
  | packCompact => exact execPackCompact_modes.agreed
  | demotePage => exact execDemotePage_modes.agreed
  | demoteComplete => exact execDemoteComplete_modes.agreed
  | promoteComplete => exact execPromoteComplete_modes.agreed
  | promoteStallExpiry => exact execPromoteStallExpiry_modes.agreed
  | tierPromote => exact execTierPromote_modes.agreed
  | tierDemote => exact execTierDemote_modes.agreed
  | tierPin => exact execTierPin_modes.agreed
  | tierUnpin => exact execTierUnpin_modes.agreed
  | tierStatus => exact execTierStatus_modes.agreed
  | flashProbe => exact execFlashProbe_modes.agreed
  | flashRelocate => exact execFlashRelocate_modes.agreed
  | ftlReclaim => exact execFtlReclaim_modes.agreed
  | wearLevel => exact execWearLevel_modes.agreed
  | flashProgramFail => exact execFlashProgramFail_modes.agreed
  | flashEraseBackground => exact execFlashEraseBackground_modes.agreed
  | codecLoad => exact execCodecLoad_modes.agreed
  | codecSelect => exact execCodecSelect_modes.agreed
  | codecRetire => exact execCodecRetire_modes.agreed
  | codecStatus => exact execCodecStatus_modes.agreed
  | codecSample => exact execCodecSample_modes.agreed
  | recodeImage => exact execRecodeImage_modes.agreed
  | codecBlock => exact (execCodecBlock_modes (engine := 0)).agreed
  | portLinkUp => exact execPortLinkUp_modes.agreed
  | portLinkDown => exact execPortLinkDown_modes.agreed
  | frameReceive => exact execFrameReceive_modes.agreed
  | data => exact execData_modes.agreed
  | ack => exact execAck_modes.agreed
  | ackTimer => exact execAckTimer_modes.agreed
  | retxTimerExpiry => exact execRetxTimerExpiry_modes.agreed
  | rnrWaitExpiry => exact execRnrWaitExpiry_modes.agreed
  | qpRetryExhausted => exact execQpRetryExhausted_modes.agreed
  | qpHoldExpiry => exact execQpHoldExpiry_modes.agreed
  | entropySuspendEnd => exact execEntropySuspendEnd_modes.agreed
  | rateIncrease => exact execRateIncrease_modes.agreed
  | headraceAdmit => exact execHeadraceAdmit_modes.agreed
  | command => exact execCommand_modes.agreed
  | write => exact execWrite_modes.agreed
  | readReq => exact execReadReq_modes.agreed
  | readResp => exact execReadResp_modes.agreed
  | hello => exact execHello_modes.agreed
  | helloSend => exact execHelloSend_modes.agreed
  | neighbourExpiry => exact execNeighbourExpiry_modes.agreed
  | keyAgree1 => exact execKeyAgree1_modes.agreed
  | keyAgree2 => exact execKeyAgree2_modes.agreed
  | keyAgree3 => exact execKeyAgree3_modes.agreed
  | keyAgreeResend => exact execKeyAgreeResend_modes.agreed
  | rxSaRetire => exact execRxSaRetire_modes.agreed
  | rekeyDue => exact execRekeyDue_modes.agreed
  | pnExhausted => exact execPnExhausted_modes.agreed
  | nodeMap => exact execNodeMap_modes.agreed
  | drainWindowEnd => exact execDrainWindowEnd_modes.agreed
  | nodeQpCreate => exact execNodeQpCreate_modes.agreed
  | nodeQpDestroy => exact execNodeQpDestroy_modes.agreed
  | twinPair => exact execTwinPair_modes.agreed
  | twinPairTimeout => exact execTwinPairTimeout_modes.agreed
  | pairPropose => exact execPairPropose_modes.agreed
  | pairConfirm => exact execPairConfirm_modes.agreed
  | twinSolo => exact execTwinSolo_modes.agreed
  | twinCodeset => exact execTwinCodeset_modes.agreed
  | twinStatus => exact execTwinStatus_modes.agreed
  | mirrorRecord => exact execMirrorRecord_modes.agreed
  | mirrorRows => exact execMirrorRows_modes.agreed
  | mirrorSeal => exact execMirrorSeal_modes.agreed
  | mirrorRelease => exact execMirrorRelease_modes.agreed
  | mirrorAckTimeout => exact execMirrorAckTimeout_modes.agreed
  | asyncMirrorSend => exact execAsyncMirrorSend_modes.agreed
  | verifyReq => exact execVerifyReq_modes.agreed
  | verifyResp => exact execVerifyResp_modes.agreed
  | codeContrib => exact execCodeContrib_modes.agreed
  | codeNull => exact execCodeNull_modes.agreed
  | codeStripeTimeout => exact execCodeStripeTimeout_modes.agreed
  | pageRebuild => exact execPageRebuild_modes.agreed
  | copyManifest => exact execCopyManifest_modes.agreed
  | copyRecord => exact execCopyRecord_modes.agreed
  | copyPage => exact execCopyPage_modes.agreed
  | copyRows => exact execCopyRows_modes.agreed
  | copyDone => exact execCopyDone_modes.agreed
  | homeUpdate => exact execHomeUpdate_modes.agreed
  | peerAck => exact execPeerAck_modes.agreed
  | peerResend => exact execPeerResend_modes.agreed
  | heartbeat => exact execHeartbeat_modes.agreed
  | heartbeatSend => exact execHeartbeatSend_modes.agreed
  | heartbeatMiss => exact execHeartbeatMiss_modes.agreed
  | nodeFence => exact execNodeFence_modes.agreed
  | nodeLostList => exact execNodeLostList_modes.agreed
  | ownOffer => exact execOwnOffer_modes.agreed
  | ownAccept => exact execOwnAccept_modes.agreed
  | ownCommit => exact execOwnCommit_modes.agreed
  | ownResend => exact execOwnResend_modes.agreed
  | ownWaitExpiry => exact execOwnWaitExpiry_modes.agreed
  | ownResolve => exact execOwnResolve_modes.agreed
  | ownStatus => exact execOwnStatus_modes.agreed
  | flr => exact execFlr_modes.agreed
  | perstN => exact execPerstN_modes.agreed
  | adminEnable => exact execAdminEnable_modes.agreed
  | nodeRingCreate => exact execNodeRingCreate_modes.agreed
  | nodeRingDestroy => exact execNodeRingDestroy_modes.agreed
  | ringDoorbell => exact execRingDoorbell_modes.agreed
  | commandAdmit => exact execCommandAdmit_modes.agreed
  | coalesceExpiry => exact execCoalesceExpiry_modes.agreed
  | peekTag => exact execPeekTag_modes.agreed
  | apertureRead => exact execApertureRead_modes.agreed
  | apertureWrite => exact execApertureWrite_modes.agreed
  | mbData => exact execMbData_modes.agreed
  | mbTake => exact execMbTake_modes.agreed
  | mbReset => exact execMbReset_modes.agreed
  | registerWrite => exact execRegisterWrite_modes.agreed
  | orderFence => exact execOrderFence_modes.agreed
  | orderFenceTimeout => exact execOrderFenceTimeout_modes.agreed
  | logRead => exact execLogRead_modes.agreed
  | logCounters => exact execLogCounters_modes.agreed
  | syncCreate => exact execSyncCreate_modes.agreed
  | syncDestroy => exact execSyncDestroy_modes.agreed
  | syncSignal => exact execSyncSignal_modes.agreed
  | syncWait => exact execSyncWait_modes.agreed
  | syncRead => exact execSyncRead_modes.agreed
  | syncDump => exact execSyncDump_modes.agreed
  | syncSet => exact execSyncSet_modes.agreed
  | syncSel => exact execSyncSel_modes.agreed
  | setValue => exact execSetValue_modes.agreed
  | clearOverruns => exact execClearOverruns_modes.agreed
  | abortWaiters => exact execAbortWaiters_modes.agreed
  | waitTimeout => exact execWaitTimeout_modes.agreed
  | barrierCreate => exact execBarrierCreate_modes.agreed
  | barrierArrive => exact execBarrierArrive_modes.agreed
  | barrierDestroy => exact execBarrierDestroy_modes.agreed
  | signal => exact execSignal_modes.agreed
  | treeArrive => exact execTreeArrive_modes.agreed
  | treeRelease => exact execTreeRelease_modes.agreed
  | setdasa => exact execSetdasa_modes.agreed
  | sessionInit => exact execSessionInit_modes.agreed
  | sessionClose => exact (execSessionClose_modes (how := .tcpClose)).agreed
  | sessionIdleTimeout => exact execSessionIdleTimeout_modes.agreed
  | getStatus => exact execGetStatus_modes.agreed
  | getTelemetry => exact execGetTelemetry_modes.agreed
  | getAttestation => exact execGetAttestation_modes.agreed
  | getCerts => exact execGetCerts_modes.agreed
  | setTime => exact execSetTime_modes.agreed
  | setFabricIdentity => exact execSetFabricIdentity_modes.agreed
  | setPeerEntry => exact execSetPeerEntry_modes.agreed
  | readNeighbours => exact execReadNeighbours_modes.agreed
  | setFabricAnchors => exact execSetFabricAnchors_modes.agreed
  | spdmRequest => exact execSpdmRequest_modes.agreed
  | ideKm => exact execIdeKm_modes.agreed
  | ideState => exact execIdeState_modes.agreed
  | powerOn => cases hr
  | devResetN => cases hr
  | flashWpAssert => exact execFlashWpAssert_modes.agreed
  | clockLoss => cases hr
  | refclk156Loss => exact execRefclk156Loss_modes.agreed
  | pcieRefclkLoss => exact execPcieRefclkLoss_modes.agreed
  | brakeEnter => exact execBrakeEnter_modes.agreed
  | brakeExit => exact execBrakeExit_modes.agreed
  | supplyReset => cases hr
  | powerInterval => exact execPowerInterval_modes.agreed
  | nodeTempRead => cases hr
  | ping => exact execPing_modes.agreed
  | firmwareLoadWindow => exact execFirmwareLoadWindow_modes.agreed
  | eyeScan => exact execEyeScan_modes.agreed
  | hbmMarginScan => exact execHbmMarginScan_modes.agreed
  | droopWindow => exact execDroopWindow_modes.agreed
  | opticsPoll => exact execOpticsPoll_modes.agreed
  | sequenceRecordArrival => exact execSequenceRecordArrival_modes.agreed
  | pcieRefclkReturn => exact execPcieRefclkReturn_modes.agreed
  | powerGate => exact execPowerGate_modes.agreed
  | syncSetStatus => exact execSyncSetStatus_modes.agreed

/-- Settles O52: what a row changes of the knobs, the mode bits and the measurement registers is what it owns. -/
theorem modesChangeOnlyByTheirRows : Obligations.ModesChangeOnlyByTheirRows :=
  fun _ _ t e hr => exec_owned hr t e

end Sys2Proof.Machine
